-- ==== Sys2Proof/Word.lean ====
section
/-! DEFINITION. The word types of the Damaz and their plainest arithmetic (spec 11 R250, R254; 08 R169). -/

namespace Sys2Proof

/-- A general register: 64 bits (R250). -/
abbrev Word := BitVec 64

/-- The smallest addressable unit. -/
abbrev Byte := BitVec 8

/-- One 64-byte line or granule (R57); byte i is bits [8i+7:8i] (little-endian, R4). -/
abbrev Line := BitVec 512

/-- A register number g0 to g31 (R250). -/
abbrev Reg := BitVec 5

/-- A one-bit field. -/
abbrev Bit := BitVec 1

/-- sext(x, w) of R266 for a value that already has its width. -/
def sextTo (n : Nat) {w : Nat} (x : BitVec w) : BitVec n := x.signExtend n

/-- zext(x, w) of R266 for a value that already has its width. -/
def zextTo (n : Nat) {w : Nat} (x : BitVec w) : BitVec n := x.setWidth n

end Sys2Proof
end

