-- ==== Sys2Proof/Config.lean ====
section
/-! DEFINITION. What an implementation fixes and the values the spec leaves open. Each open value is an opaque constant:
nothing can evaluate it, so a claim that holds, holds whatever it is. -/

namespace Sys2Proof.Config

/-- The compressed form a nonzero 128-byte block takes when a page has COMP set (R72): "which of 4:1 and 2:1 a block
reaches depends on the data and is not otherwise visible". A function of the block's 1,024 bits; the model reads 1 as
2:1, 2 as 4:1 and every other value as raw (log entry 11). -/
opaque blockCode : BitVec 1024 → BitVec 2

/-- The SM3 measurement that SPDM reports for an index, of a device that runs the given firmware digest (R442). The
spec gives no digest value (log entry 13). -/
opaque measurement : BitVec 256 → Nat → BitVec 256

/-- The SM2 signature of one SPDM answer (R442): a fresh value for every answer, applied to the State's counter of free
values (log entry 13). -/
opaque signature : Nat → BitVec 512

/-- The reply of another node's Mule to an NMC, NMRES or NMSTAT of this node (R82): it depends on that node's memory and kernel, which
this model does not hold. A fresh value for every reply (log entry 10). -/
opaque remoteReply : Nat → BitVec 64

/-- How another node answers a fold contribution of this node (R93 to R96): the status in bits [7:0], and above it a denied bitmap, or which of the far pages are large. A fresh
value for every contribution (log entry 10). -/
opaque remoteFold : Nat → BitVec 24

/-- The 64 bytes that a timetable entry reads where the scratchpad has an uncorrectable error (R443): the spec states no value. A fresh
value for every such read (log entry 15). -/
opaque badFlit : Nat → BitVec 512

/-- Whether TVAL of a STAT or UNSTAT range that runs past 0x5_FFFF is base, as R348 says, or the first such address, as R21 says: the spec states
both (log entry 27). -/
opaque statTvalIsBase : Bool

/-- ADDR of an error record whose type names neither a VA, a TVAL nor a port (R438: types 6 and 8, and a failed training). A fresh value
for every such record (log entry 17). -/
opaque errorAddr : Nat → BitVec 64

end Sys2Proof.Config
end

