-- ==== Sys2Proof/Syntax.lean ====
section
/-! DEFINITION. The abstract syntax: ONE constructor per row of spec/opcode_table.json: 188 instruction words
(spec 11 R254, R256; the entries of chapters 12 to 18); the other 83 are the operations and events that the table lists
without a word (95_what_each_step_holds.md): commands of the engines, requests of the Mules, what the Bellwether's units do,
and what arrives from the host and the fabric. Field names of a word are those of the table. Rows without
fields stand last. -/

namespace Sys2Proof

/-- What a PRI answer of the host says (R120). -/
inductive PriAnswer where
  | success
  | invalidRequest
  | responseFailure
  deriving DecidableEq, Repr

/-- What a ZFP access of another node asks for (R80, R439 features). Sizes are in bytes. -/
inductive RemoteOp where
  /-- a load, LDA or engine read of `size` bytes -/
  | read (size : Nat)
  /-- a write of the masked bytes of the line that the address names (R126, R76) -/
  | write (mask : BitVec 64) (data : Line)
  /-- an AMO with its OP code, width bit and operand (R300) -/
  | amo (op : BitVec 4) (wide : Bit) (y : Word)
  /-- a CAS with its width bit, expected and new value (R303) -/
  | cas (wide : Bit) (expected new : Word)
  /-- one fold contribution: index, format, length in bytes and the 64-byte lines of its data, the last filled up with zeros (R93) -/
  | fold (j : Nat) (ffmt : BitVec 3) (len : Nat) (data : List Line)
  /-- an NMC request of a remote core: its four doublewords (R309) -/
  | nmc (w0 w1 w2 w3 : Word)
  /-- an NMRES of a remote core: its abandon bit (R311) -/
  | nmres (abandon : Bool)
  deriving DecidableEq, Repr

/-- An instruction word, operation or event of the opcode table. -/
inductive Instr where
  /-- TRAP (R287): Takes CAUSE 0x0D with TVAL = g[a] and EPC = PC + 4. -/
  | trap (a : Reg)
  /-- UPRET (R116): Resumes the fibre whose upcall record is valid, switching to its workspace at its RESUME PC. -/
  | upret (a : Reg)
  /-- TINV (R291): Invalidates cached translations of a 64 KiB-aligned own-node range and waits until the invalidation of R110 is complete. -/
  | tinv (a : Reg) (b : Reg)
  /-- CRD (R284): Reads a control register, including the held updates of the open chunk, into g[d]. -/
  | crd (d : Reg) (x : BitVec 12)
  /-- CWR (R285): Closes the chunk and writes g[a] to the RW fields of a control register, with that register's further checks and effects. -/
  | cwr (a : Reg) (x : BitVec 12)
  /-- ADD (R268): Writes g[a] + g[b] modulo 2^64. -/
  | add (d : Reg) (a : Reg) (b : Reg)
  /-- SUB (R268): Writes g[a] - g[b] modulo 2^64. -/
  | sub (d : Reg) (a : Reg) (b : Reg)
  /-- AND (R268): Writes the bitwise AND of g[a] and g[b]. -/
  | and (d : Reg) (a : Reg) (b : Reg)
  /-- OR (R268): Writes the bitwise OR of g[a] and g[b]. -/
  | or (d : Reg) (a : Reg) (b : Reg)
  /-- XOR (R268): Writes the bitwise XOR of g[a] and g[b]. -/
  | xor (d : Reg) (a : Reg) (b : Reg)
  /-- SLL (R268): Writes g[a] shifted left by g[b][5:0]. -/
  | sll (d : Reg) (a : Reg) (b : Reg)
  /-- SRL (R268): Writes g[a] shifted right logically by g[b][5:0]. -/
  | srl (d : Reg) (a : Reg) (b : Reg)
  /-- SRA (R268): Writes g[a] shifted right arithmetically by g[b][5:0]. -/
  | sra (d : Reg) (a : Reg) (b : Reg)
  /-- SLT (R268): Writes 1 if g[a] < g[b] signed, else 0. -/
  | slt (d : Reg) (a : Reg) (b : Reg)
  /-- SLTU (R268): Writes 1 if g[a] < g[b] natural, else 0. -/
  | sltu (d : Reg) (a : Reg) (b : Reg)
  /-- MIN (R268): Writes the signed minimum of g[a] and g[b]. -/
  | min (d : Reg) (a : Reg) (b : Reg)
  /-- MAX (R268): Writes the signed maximum of g[a] and g[b]. -/
  | max (d : Reg) (a : Reg) (b : Reg)
  /-- MINU (R268): Writes the natural minimum of g[a] and g[b]. -/
  | minu (d : Reg) (a : Reg) (b : Reg)
  /-- MAXU (R268): Writes the natural maximum of g[a] and g[b]. -/
  | maxu (d : Reg) (a : Reg) (b : Reg)
  /-- CLZ (R268): Writes the count of leading zero bits of g[a]. -/
  | clz (d : Reg) (a : Reg)
  /-- CTZ (R268): Writes the count of trailing zero bits of g[a]. -/
  | ctz (d : Reg) (a : Reg)
  /-- POPC (R268): Writes the number of set bits of g[a]. -/
  | popc (d : Reg) (a : Reg)
  /-- SEXT (R268): Sign-extends g[a] from bit g[b][5:0]. -/
  | sext (d : Reg) (a : Reg) (b : Reg)
  /-- ZEXT (R268): Zero-extends g[a] from bit g[b][5:0]. -/
  | zext (d : Reg) (a : Reg) (b : Reg)
  /-- MUL (R269): Writes the low 64 bits of g[a] times g[b]. -/
  | mul (d : Reg) (a : Reg) (b : Reg)
  /-- MULH (R269): Writes the high 64 bits of the signed 128-bit product. -/
  | mulh (d : Reg) (a : Reg) (b : Reg)
  /-- MULHU (R269): Writes the high 64 bits of the natural 128-bit product. -/
  | mulhu (d : Reg) (a : Reg) (b : Reg)
  /-- DIV (R270): Writes the signed quotient truncated toward zero, with the corner cases of R270. -/
  | div (d : Reg) (a : Reg) (b : Reg)
  /-- DIVU (R270): Writes the natural quotient, with the corner cases of R270. -/
  | divu (d : Reg) (a : Reg) (b : Reg)
  /-- REM (R270): Writes the signed remainder, with the corner cases of R270. -/
  | rem (d : Reg) (a : Reg) (b : Reg)
  /-- REMU (R270): Writes the natural remainder, with the corner cases of R270. -/
  | remu (d : Reg) (a : Reg) (b : Reg)
  /-- ADDI (R272): Writes g[a] plus the sign-extended immediate. -/
  | addi (d : Reg) (a : Reg) (i : BitVec 16)
  /-- ANDI (R272): Writes g[a] AND the zero-extended immediate. -/
  | andi (d : Reg) (a : Reg) (i : BitVec 16)
  /-- ORI (R272): Writes g[a] OR the zero-extended immediate. -/
  | ori (d : Reg) (a : Reg) (i : BitVec 16)
  /-- XORI (R272): Writes g[a] XOR the zero-extended immediate. -/
  | xori (d : Reg) (a : Reg) (i : BitVec 16)
  /-- SLTI (R272): Writes 1 if g[a] is below the sign-extended immediate as signed, else 0. -/
  | slti (d : Reg) (a : Reg) (i : BitVec 16)
  /-- SLTIU (R272): Writes 1 if g[a] is below the sign-extended immediate as natural words, else 0. -/
  | sltiu (d : Reg) (a : Reg) (i : BitVec 16)
  /-- SLLI (R273): Shifts g[a] left by an immediate amount. -/
  | slli (d : Reg) (a : Reg) (n : BitVec 6)
  /-- SRLI (R273): Shifts g[a] right logically by an immediate amount. -/
  | srli (d : Reg) (a : Reg) (n : BitVec 6)
  /-- SRAI (R273): Shifts g[a] right arithmetically by an immediate amount. -/
  | srai (d : Reg) (a : Reg) (n : BitVec 6)
  /-- LI (R274): Writes the sign-extended immediate. -/
  | li (d : Reg) (i : BitVec 16)
  /-- LIS (R274): Shifts g[a] left by 16 and ORs in the zero-extended immediate. -/
  | lis (d : Reg) (a : Reg) (i : BitVec 16)
  /-- ADPC (R274): Writes PC plus four times the sign-extended immediate. -/
  | adpc (d : Reg) (i : BitVec 16)
  /-- GADDR (R277): Maps a block-cyclic coordinate to its owner and local offset through a scratchpad distribution table. -/
  | gaddr (d : Reg) (a : Reg) (b : Reg)
  /-- PADD (R279): Adds packed lanes, wrapping or saturating. -/
  | padd (d : Reg) (a : Reg) (b : Reg) (t : Bit) (s : Bit) (w : BitVec 2)
  /-- PSUB (R279): Subtracts packed lanes, wrapping or saturating. -/
  | psub (d : Reg) (a : Reg) (b : Reg) (t : Bit) (s : Bit) (w : BitVec 2)
  /-- PMUL (R279): Multiplies packed lanes, wrapping or saturating. -/
  | pmul (d : Reg) (a : Reg) (b : Reg) (t : Bit) (s : Bit) (w : BitVec 2)
  /-- PMIN (R279): Takes the lane-wise minimum of packed lanes. -/
  | pmin (d : Reg) (a : Reg) (b : Reg) (s : Bit) (w : BitVec 2)
  /-- PMAX (R279): Takes the lane-wise maximum of packed lanes. -/
  | pmax (d : Reg) (a : Reg) (b : Reg) (s : Bit) (w : BitVec 2)
  /-- PAVG (R279): Takes the rounded-up lane-wise average of packed lanes. -/
  | pavg (d : Reg) (a : Reg) (b : Reg) (s : Bit) (w : BitVec 2)
  /-- BEQ (R280): Branches if g[a] equals g[b]. -/
  | beq (b : Reg) (a : Reg) (i : BitVec 16)
  /-- BNE (R280): Branches if g[a] differs from g[b]. -/
  | bne (b : Reg) (a : Reg) (i : BitVec 16)
  /-- BLT (R280): Branches if g[a] is below g[b] signed. -/
  | blt (b : Reg) (a : Reg) (i : BitVec 16)
  /-- BGE (R280): Branches if g[a] is at least g[b] signed. -/
  | bge (b : Reg) (a : Reg) (i : BitVec 16)
  /-- BLTU (R280): Branches if g[a] is below g[b] natural. -/
  | bltu (b : Reg) (a : Reg) (i : BitVec 16)
  /-- BGEU (R280): Branches if g[a] is at least g[b] natural. -/
  | bgeu (b : Reg) (a : Reg) (i : BitVec 16)
  /-- J (R281): Jumps by a 26-bit word offset. -/
  | j (o : BitVec 26)
  /-- JAL (R281): Writes PC + 4 to g1 and jumps by a 26-bit word offset. -/
  | jal (o : BitVec 26)
  /-- JALR (R282): Jumps to g[a] plus the immediate and writes PC + 4 to g[d]. -/
  | jalr (d : Reg) (a : Reg) (i : BitVec 16)
  /-- LDB (R294): Loads a byte, sign-extended. -/
  | ldb (d : Reg) (a : Reg) (i : BitVec 16)
  /-- LDH (R294): Loads a halfword, sign-extended. -/
  | ldh (d : Reg) (a : Reg) (i : BitVec 16)
  /-- LDW (R294): Loads a word, sign-extended. -/
  | ldw (d : Reg) (a : Reg) (i : BitVec 16)
  /-- LDD (R294): Loads a doubleword. -/
  | ldd (d : Reg) (a : Reg) (i : BitVec 16)
  /-- LDBU (R294): Loads a byte, zero-extended. -/
  | ldbu (d : Reg) (a : Reg) (i : BitVec 16)
  /-- LDHU (R294): Loads a halfword, zero-extended. -/
  | ldhu (d : Reg) (a : Reg) (i : BitVec 16)
  /-- LDWU (R294): Loads a word, zero-extended. -/
  | ldwu (d : Reg) (a : Reg) (i : BitVec 16)
  /-- STB (R294): Stores a byte into the open chunk. -/
  | stb (b : Reg) (a : Reg) (i : BitVec 16)
  /-- STH (R294): Stores a halfword into the open chunk. -/
  | sth (b : Reg) (a : Reg) (i : BitVec 16)
  /-- STW (R294): Stores a word into the open chunk. -/
  | stw (b : Reg) (a : Reg) (i : BitVec 16)
  /-- STD (R294): Stores a doubleword into the open chunk. -/
  | std (b : Reg) (a : Reg) (i : BitVec 16)
  /-- LDA (R298): Closes the chunk and performs an acquire load of scope P or S. -/
  | lda (d : Reg) (a : Reg) (u : Bit) (s : Bit) (z : BitVec 2)
  /-- STR (R298): Closes the chunk, waits as FENCE.P or FENCE.S, and performs a release store as one event. -/
  | str (a : Reg) (b : Reg) (s : Bit) (z : BitVec 2)
  /-- AMO_ADD (R302): Atomic integer add at the line's home. -/
  | amoAdd (d : Reg) (a : Reg) (b : Reg) (n : Bit) (w : Bit)
  /-- AMO_AND (R302): Atomic AND at the line's home. -/
  | amoAnd (d : Reg) (a : Reg) (b : Reg) (n : Bit) (w : Bit)
  /-- AMO_OR (R302): Atomic OR at the line's home. -/
  | amoOr (d : Reg) (a : Reg) (b : Reg) (n : Bit) (w : Bit)
  /-- AMO_XOR (R302): Atomic XOR at the line's home. -/
  | amoXor (d : Reg) (a : Reg) (b : Reg) (n : Bit) (w : Bit)
  /-- AMO_MIN (R302): Atomic signed minimum at the line's home. -/
  | amoMin (d : Reg) (a : Reg) (b : Reg) (n : Bit) (w : Bit)
  /-- AMO_MAX (R302): Atomic signed maximum at the line's home. -/
  | amoMax (d : Reg) (a : Reg) (b : Reg) (n : Bit) (w : Bit)
  /-- AMO_MINU (R302): Atomic natural minimum at the line's home. -/
  | amoMinu (d : Reg) (a : Reg) (b : Reg) (n : Bit) (w : Bit)
  /-- AMO_MAXU (R302): Atomic natural maximum at the line's home. -/
  | amoMaxu (d : Reg) (a : Reg) (b : Reg) (n : Bit) (w : Bit)
  /-- AMO_SWAP (R302): Atomic swap at the line's home. -/
  | amoSwap (d : Reg) (a : Reg) (b : Reg) (n : Bit) (w : Bit)
  /-- AMO_FADD (R302): Atomic f32 add rounded by RNE at the line's home. -/
  | amoFadd (d : Reg) (a : Reg) (b : Reg) (n : Bit) (w : Bit)
  /-- AMO_FMAX (R302): Atomic f32 maximumNumber at the line's home. -/
  | amoFmax (d : Reg) (a : Reg) (b : Reg) (n : Bit) (w : Bit)
  /-- AMO_FMIN (R302): Atomic f32 minimumNumber at the line's home. -/
  | amoFmin (d : Reg) (a : Reg) (b : Reg) (n : Bit) (w : Bit)
  /-- AMO_TADD (R302): Atomic tap32 add rounded by RNE at the line's home. -/
  | amoTadd (d : Reg) (a : Reg) (b : Reg) (n : Bit) (w : Bit)
  /-- CAS (R303): Compares memory with g[d] at the home and writes g[b] on a match, returning the old value. -/
  | cas (d : Reg) (a : Reg) (b : Reg) (w : Bit)
  /-- CLEAN (R306): Writes back dirty home lines of a range to DRAM, leaving them clean. -/
  | clean (a : Reg) (b : Reg)
  /-- INV (R306): Invalidates the issuer's L1 and the home lines of a range, discarding dirty data. -/
  | inv (a : Reg) (b : Reg)
  /-- CLINV (R306): Writes back and then invalidates the lines of a range. -/
  | clinv (a : Reg) (b : Reg)
  /-- PREF (R306): Fills absent home lines of a range, dropping faulting lines silently. -/
  | pref (a : Reg) (b : Reg)
  /-- FADD (R316): f32 add rounded by rm. -/
  | fadd (d : Reg) (a : Reg) (b : Reg) (r : BitVec 3)
  /-- FSUB (R316): f32 subtract rounded by rm. -/
  | fsub (d : Reg) (a : Reg) (b : Reg) (r : BitVec 3)
  /-- FMUL (R316): f32 multiply rounded by rm. -/
  | fmul (d : Reg) (a : Reg) (b : Reg) (r : BitVec 3)
  /-- FDIV (R316): f32 divide rounded by rm. -/
  | fdiv (d : Reg) (a : Reg) (b : Reg) (r : BitVec 3)
  /-- FSQRT (R316): f32 square root rounded by rm. -/
  | fsqrt (d : Reg) (a : Reg) (r : BitVec 3)
  /-- FMIN (R316): f32 minimumNumber with -0 below +0. -/
  | fmin (d : Reg) (a : Reg) (b : Reg)
  /-- FMAX (R316): f32 maximumNumber with -0 below +0. -/
  | fmax (d : Reg) (a : Reg) (b : Reg)
  /-- FEQ (R316): Writes 1 if the f32 operands are equal. -/
  | feq (d : Reg) (a : Reg) (b : Reg)
  /-- FLT (R316): Writes 1 if x < y in f32. -/
  | flt (d : Reg) (a : Reg) (b : Reg)
  /-- FLE (R316): Writes 1 if x <= y in f32. -/
  | fle (d : Reg) (a : Reg) (b : Reg)
  /-- FCLASS (R317): Writes the one-hot class mask of an f32 value. -/
  | fclass (d : Reg) (a : Reg)
  /-- FMA (R319): f32 x times y plus z, rounded once. -/
  | fma (d : Reg) (a : Reg) (b : Reg) (c : Reg) (r : BitVec 3)
  /-- FMS (R319): f32 x times y minus z, rounded once. -/
  | fms (d : Reg) (a : Reg) (b : Reg) (c : Reg) (r : BitVec 3)
  /-- FNMA (R319): f32 minus x times y plus z, rounded once. -/
  | fnma (d : Reg) (a : Reg) (b : Reg) (c : Reg) (r : BitVec 3)
  /-- FNMS (R319): f32 minus x times y minus z, rounded once. -/
  | fnms (d : Reg) (a : Reg) (b : Reg) (c : Reg) (r : BitVec 3)
  /-- TADD (R321): tap32 add rounded by rm. -/
  | tadd (d : Reg) (a : Reg) (b : Reg) (r : BitVec 3)
  /-- TSUB (R321): tap32 subtract rounded by rm. -/
  | tsub (d : Reg) (a : Reg) (b : Reg) (r : BitVec 3)
  /-- TMUL (R321): tap32 multiply rounded by rm. -/
  | tmul (d : Reg) (a : Reg) (b : Reg) (r : BitVec 3)
  /-- TDIV (R321): tap32 divide rounded by rm. -/
  | tdiv (d : Reg) (a : Reg) (b : Reg) (r : BitVec 3)
  /-- TSQRT (R321): tap32 square root rounded by rm. -/
  | tsqrt (d : Reg) (a : Reg) (r : BitVec 3)
  /-- TCLS (R322): Decodes a tapered word into class, sign and fields. -/
  | tcls (d : Reg) (a : Reg) (w : BitVec 2)
  /-- TFMA (R319): tap32 x times y plus z, rounded once. -/
  | tfma (d : Reg) (a : Reg) (b : Reg) (c : Reg) (r : BitVec 3)
  /-- TFMS (R319): tap32 x times y minus z, rounded once. -/
  | tfms (d : Reg) (a : Reg) (b : Reg) (c : Reg) (r : BitVec 3)
  /-- TFNMA (R319): tap32 minus x times y plus z, rounded once. -/
  | tfnma (d : Reg) (a : Reg) (b : Reg) (c : Reg) (r : BitVec 3)
  /-- TFNMS (R319): tap32 minus x times y minus z, rounded once. -/
  | tfnms (d : Reg) (a : Reg) (b : Reg) (c : Reg) (r : BitVec 3)
  /-- CVT (R324): Converts a scalar between two formats of R257, with the special cases of R186. -/
  | cvt (d : Reg) (a : Reg) (p : Bit) (q : Bit) (r : BitVec 3) (t : BitVec 4) (s : BitVec 4)
  /-- VADD (R336): Elementwise add of scratchpad vectors. -/
  | vadd (d : Reg) (a : Reg) (b : Reg) (f : BitVec 4) (p : Bit) (q : Bit) (s : Bit)
  /-- VSUB (R336): Elementwise subtract. -/
  | vsub (d : Reg) (a : Reg) (b : Reg) (f : BitVec 4) (p : Bit) (q : Bit) (s : Bit)
  /-- VMUL (R336): Elementwise multiply. -/
  | vmul (d : Reg) (a : Reg) (b : Reg) (f : BitVec 4) (p : Bit) (q : Bit) (s : Bit)
  /-- VFMA (R336): Elementwise fused multiply-add into d. -/
  | vfma (d : Reg) (a : Reg) (b : Reg) (f : BitVec 4) (p : Bit) (q : Bit) (s : Bit)
  /-- VMIN (R336): Elementwise minimum. -/
  | vmin (d : Reg) (a : Reg) (b : Reg) (f : BitVec 4) (p : Bit) (q : Bit) (s : Bit)
  /-- VMAX (R336): Elementwise maximum. -/
  | vmax (d : Reg) (a : Reg) (b : Reg) (f : BitVec 4) (p : Bit) (q : Bit) (s : Bit)
  /-- VAND (R336): Elementwise bitwise AND. -/
  | vand (d : Reg) (a : Reg) (b : Reg) (f : BitVec 4) (p : Bit) (q : Bit) (s : Bit)
  /-- VOR (R336): Elementwise bitwise OR. -/
  | vor (d : Reg) (a : Reg) (b : Reg) (f : BitVec 4) (p : Bit) (q : Bit) (s : Bit)
  /-- VXOR (R336): Elementwise bitwise XOR. -/
  | vxor (d : Reg) (a : Reg) (b : Reg) (f : BitVec 4) (p : Bit) (q : Bit) (s : Bit)
  /-- VSHL (R336): Elementwise signed-amount shift of integers. -/
  | vshl (d : Reg) (a : Reg) (b : Reg) (f : BitVec 4) (p : Bit) (q : Bit) (s : Bit)
  /-- VCMPEQ (R336): Elementwise equality mask. -/
  | vcmpeq (d : Reg) (a : Reg) (b : Reg) (f : BitVec 4) (p : Bit) (q : Bit) (s : Bit)
  /-- VCMPLT (R336): Elementwise less-than mask. -/
  | vcmplt (d : Reg) (a : Reg) (b : Reg) (f : BitVec 4) (p : Bit) (q : Bit) (s : Bit)
  /-- VSEL (R336): Elementwise select by the mask in d. -/
  | vsel (d : Reg) (a : Reg) (b : Reg) (f : BitVec 4) (p : Bit) (q : Bit) (s : Bit)
  /-- VEXP (R337): Elementwise e^x, correctly rounded. -/
  | vexp (d : Reg) (a : Reg) (f : BitVec 4) (p : Bit) (q : Bit)
  /-- VLOG2 (R337): Elementwise log2, correctly rounded. -/
  | vlog2 (d : Reg) (a : Reg) (f : BitVec 4) (p : Bit) (q : Bit)
  /-- VRCP (R337): Elementwise reciprocal, correctly rounded. -/
  | vrcp (d : Reg) (a : Reg) (f : BitVec 4) (p : Bit) (q : Bit)
  /-- VRSQ (R337): Elementwise reciprocal square root, correctly rounded. -/
  | vrsq (d : Reg) (a : Reg) (f : BitVec 4) (p : Bit) (q : Bit)
  /-- VSIGM (R337): Elementwise logistic sigmoid, correctly rounded. -/
  | vsigm (d : Reg) (a : Reg) (f : BitVec 4) (p : Bit) (q : Bit)
  /-- VTANH (R337): Elementwise tanh, correctly rounded. -/
  | vtanh (d : Reg) (a : Reg) (f : BitVec 4) (p : Bit) (q : Bit)
  /-- VMOV (R338): Copies element bits unchanged. -/
  | vmov (d : Reg) (a : Reg) (f : BitVec 4) (p : Bit) (q : Bit)
  /-- VSET (R338): Fills a range with a scalar. -/
  | vset (d : Reg) (b : Reg) (f : BitVec 4) (p : Bit)
  /-- VCVT (R338): Converts each element from the source format to fmt. -/
  | vcvt (d : Reg) (a : Reg) (c : BitVec 4) (f : BitVec 4) (p : Bit) (q : Bit)
  /-- VGATH (R339): Gathers elements from a table through an index list. -/
  | vgath (d : Reg) (a : Reg) (b : Reg) (f : BitVec 4) (p : Bit) (q : Bit)
  /-- VSCAT (R339): Scatters elements into a table through an index list. -/
  | vscat (d : Reg) (a : Reg) (b : Reg) (f : BitVec 4) (q : Bit)
  /-- VIOTA (R338): Writes start plus element index to each element. -/
  | viota (d : Reg) (b : Reg) (f : BitVec 4) (p : Bit)
  /-- VRSUM (R340): Pairwise-tree sum of a range into a register. -/
  | vrsum (d : Reg) (a : Reg) (f : BitVec 4) (q : Bit)
  /-- VRMAX (R340): Maximum of a range into a register. -/
  | vrmax (d : Reg) (a : Reg) (f : BitVec 4) (q : Bit)
  /-- VRMIN (R340): Minimum of a range into a register. -/
  | vrmin (d : Reg) (a : Reg) (f : BitVec 4) (q : Bit)
  /-- VDOT (R340): Dot product of two ranges into a register. -/
  | vdot (d : Reg) (a : Reg) (b : Reg) (f : BitVec 4) (q : Bit)
  /-- VCLAIM (R341): Requests extra vector lanes from the cluster pool and writes the new grant. -/
  | vclaim (d : Reg) (a : Reg)
  /-- VSCAN (R342): Writes the indices of nonzero elements and their count. -/
  | vscan (d : Reg) (a : Reg) (b : Reg) (f : BitVec 4) (q : Bit)
  /-- QPUSH (R344): Checks a command word and enqueues a copy after every earlier access has completed, blocking while the queue is full. -/
  | qpush (a : Reg) (q : BitVec 4)
  /-- QPUSH_N (R344): As QPUSH, but returns status 1 instead of blocking on a full queue. -/
  | qpushN (d : Reg) (a : Reg) (q : BitVec 4)
  /-- QPOP (R345): Pops the oldest completion element or notice, waiting if none, with pop acquire. -/
  | qpop (d : Reg) (q : BitVec 4)
  /-- QPOP_N (R345): As QPOP, but writes all ones when the queue is empty. -/
  | qpopN (d : Reg) (q : BitVec 4)
  /-- TAKE (R394): Ends any running slice and waits for the earliest eligible entry of the core queue, then starts it. -/
  | take (d : Reg) (a : Reg)
  /-- SPAWN (R396): Checks a task record and inserts it into the core queue after earlier accesses complete. -/
  | spawn (a : Reg)
  /-- SPAWNT (R397): Checks a team record and inserts it into the package queue. -/
  | spawnt (a : Reg)
  /-- YIELD (R395): Reinserts the named record with the current BG and ends the slice. -/
  | yield (a : Reg)
  /-- SWP (R398): Switches the current workspace. -/
  | swp (a : Reg)
  /-- WIDF (R399): Extracts field k of a WID, or the own mailbox word for k = 6. -/
  | widf (d : Reg) (a : Reg) (k : BitVec 3)
  /-- TTLOAD (R405): Reads a member's timetable from the team's table and loads it into the network interface. -/
  | ttload (a : Reg)
  /-- ARM_PUSH (R406): Arms a one-shot push of a prepared command on a trigger counter. -/
  | armPush (a : Reg) (b : Reg) (c : BitVec 4)
  /-- ARM_EVENT (R406): Arms a one-shot event posting to q15 on a trigger counter. -/
  | armEvent (a : Reg) (c : BitVec 4)
  /-- ARM_WAKE (R406): Arms a one-shot wake on a trigger counter. -/
  | armWake (a : Reg) (c : BitVec 4)
  /-- CTRADD (R407): Adds an amount to a trigger counter as one increment, firing its actions. -/
  | ctradd (a : Reg) (c : BitVec 4)
  /-- CTRRD (R407): Reads a trigger counter and its saturation bit. -/
  | ctrrd (d : Reg) (c : BitVec 4)
  /-- WAITC (R407): Waits until a trigger counter reaches a threshold or a wake, then reads it with acquire. -/
  | waitc (d : Reg) (a : Reg) (c : BitVec 4)
  /-- MSEND (R410): Sends a 32-byte message to a mailbox, its status landing later in d. -/
  | msend (d : Reg) (a : Reg) (b : Reg)
  /-- MSENDW (R410): Sends a message, resending after each bounce until delivered or stale. -/
  | msendw (d : Reg) (a : Reg) (b : Reg)
  /-- MRECV (R411): Takes the oldest mailbox message, waiting if the mailbox is empty. -/
  | mrecv (d : Reg) (a : Reg)
  /-- MRECV_N (R411): Takes the oldest mailbox message, or writes all ones if empty. -/
  | mrecvN (d : Reg) (a : Reg)
  /-- NMC (R310): Copies an NMC request from the scratchpad, sets d pending and sends it for checking at its translating place. -/
  | nmc (d : Reg) (a : Reg)
  /-- NMRES (R311): Asks a stopped Mule to resume its request at the recorded microinstruction counter. -/
  | nmres (d : Reg) (a : Reg)
  /-- NMRES_ABANDON (R311): Asks a stopped Mule to abandon its request with STATUS 0x20. -/
  | nmresAbandon (d : Reg) (a : Reg)
  /-- NMSTAT (R311): Queries a Mule's state word. -/
  | nmstat (d : Reg) (a : Reg)
  /-- STAT (R348): Marks macros stationary with a weight format and grid position. -/
  | stat (a : Reg) (b : Reg) (w : BitVec 4)
  /-- UNSTAT (R348): Returns stationary macros to ordinary use after earlier MX commands on them complete. -/
  | unstat (a : Reg) (b : Reg)
  /-- CTBL (R349): Copies 64 lns6 product-table entries for the inactive bank into the sequencer's command order. -/
  | ctbl (a : Reg)
  /-- CTBL_BANK_WRITE (R349): At its turn in command order, once no started command uses the inactive bank, writes the copied entries to it. -/
  | ctblBankWrite (k : Nat)
  /-- MX_RUN (R354): Matrix sequencer computes D from A and a stationary grid with exact accumulation and one rounding. -/
  | mxRun (p rows : Nat)
  /-- MX_SAVE (R360): Stops the core's running MX command at a row boundary and writes its sequencer state record. -/
  | mxSave (p : Nat)
  /-- MX_RESTORE (R360): Reinstalls tables, elements and commands from a save record. -/
  | mxRestore (p : Nat)
  /-- MX_ACC (R358): Reads out xacc images to a destination format, optionally clearing them. -/
  | mxAcc (p : Nat)
  /-- MX_CTSWAP (R350): Makes the inactive lns6 table bank active in command order. -/
  | mxCtswap (p : Nat)
  /-- TW_GET (R362): Copies a global tile into one core's scratchpad piece by piece. -/
  | twGet (p : Nat)
  /-- TW_PUT (R362): Copies a scratchpad tile to global memory as numbered writes. -/
  | twPut (p : Nat)
  /-- TW_MCAST (R362): Copies a global tile into the scratchpads of several cluster cores. -/
  | twMcast (p : Nat)
  /-- CE_COPY (R364): Copies a global range line by line, or sends one fold contribution when fold is set. -/
  | ceCopy (p : Nat)
  /-- CE_FILL (R364): Fills a global range with a 64-bit pattern. -/
  | ceFill (p : Nat)
  /-- CE_MIGRATE (R365): Freezes a row, copies it, publishes its new place in a forwarding word and unfreezes it. -/
  | ceMigrate (p : Nat)
  /-- GK_GATHER (R374): Gathers table rows of one pinned version by index into the scratchpad. -/
  | gkGather (p : Nat)
  /-- GK_BAG (R375): Sums the rows of each bag into one output row. -/
  | gkBag (p : Nat)
  /-- GK_SCATADD (R376): Adds source rows into the table rows they resolve to, line by line at the homes. -/
  | gkScatadd (p : Nat)
  /-- GK_KDIR (R381): Writes a directory entry per run of equal keys of a relation. -/
  | gkKdir (p : Nat)
  /-- GK_KGRP (R382): Groups a relation by key into a kpart of counts and lane sums. -/
  | gkKgrp (p : Nat)
  /-- GK_KPROD (R383): Merges kparts by key into their product, optionally collapsed. -/
  | gkKprod (p : Nat)
  /-- GK_KUNION (R384): Merges kparts by key into their union. -/
  | gkKunion (p : Nat)
  /-- GK_KEXP (R385): Enumerates the joined tuples of relations as records. -/
  | gkKexp (p : Nat)
  /-- GK_KBCAST (R386): Broadcasts kpart lanes back to the rows of a relation. -/
  | gkKbcast (p : Nat)
  /-- GK_JTCHK (R391): Checks a join-tree type word and its leaf relation descriptors. -/
  | gkJtchk (p : Nat)
  /-- CL_FOLDARM (R413): Arms a fold window at its Mule and admits its parked contributions. -/
  | clFoldarm (p : Nat)
  /-- CL_FOLDWAIT (R414): Completes once its window has completed, then disarms it. -/
  | clFoldwait (p : Nat)
  /-- NMC_REQUEST_CHECK (R82): An NMC request reaches its translating place, is translated and checked, and goes to its Mule's queue or is refused. -/
  | nmcRequestCheck (n : Nat)
  /-- NM_CONFIGURE (R85): A configure request replaces the Mule's kernel word or is refused. -/
  | nmConfigure (c : Nat)
  /-- NM_ELEMENTWISE (R86): An elementwise request runs at the Mule line by line over DRAM and replies. -/
  | nmElementwise (c : Nat)
  /-- NM_AGGREGATE (R87): A per-key aggregate request sums or maximises runs of equal keys and replies. -/
  | nmAggregate (c : Nat)
  /-- NM_QUERY (R91): A query request is answered at once with the Mule's state word. -/
  | nmQuery (c : Nat)
  /-- NM_RESUME (R92): The stopped request restarts at its recorded counter. -/
  | nmResume (c : Nat)
  /-- NM_ABANDON (R92): The stopped request ends with STATUS 0x20 and the queue continues. -/
  | nmAbandon (c : Nat)
  /-- FOLD_ARRIVE (R94): A fold contribution arrives at its window and is applied in index order or staged. -/
  | foldArrive (n : Nat)
  /-- ROOT_GRANT (R132): The root arbiter numbers a submitted chunk, broadcasts its write signature and squashes conflicting chunks. -/
  | rootGrant (p : Nat)
  /-- LOAD_DATA_ARRIVES (R295): Data for a stalled load arrives and the load completes. -/
  | loadDataArrives (p : Nat)
  /-- REPLY_LANDS (R43): A reply writes a pending register in the cache or workspace image, or poisons it, and clears the pending bit. -/
  | replyLands (n : Nat)
  /-- EARLY_CHECK_FAULT (R111): An early translation check faults, the chunk is cut back at the faulting access and the access parks. -/
  | earlyCheckFault (p : Nat)
  /-- REMOTE_FAULT_REPLY (R112): A remote node's fault reply parks the access in the Bellwether remote park and raises upcall 0x43. -/
  | remoteFaultReply (p : Nat) (reason : BitVec 8)
  /-- PAGE_REQUEST_ANSWER (R120): A PRI answer from the host is recorded, fails parked accesses, or is discarded as stale. -/
  | pageRequestAnswer (n : Nat) (a : PriAnswer)
  /-- ATS_INVALIDATION (R123): An ATS invalidation from the host is delivered to the runtime as an event. -/
  | atsInvalidation (tag : BitVec 16) (va : Word) (bytes : Nat)
  /-- ATSACK (R123): A host write of ATSACK completes the named ATS invalidation to the host. -/
  | atsack (tag : BitVec 16)
  /-- HOST_MEM_READ (R15): A CXL.mem host read is translated at its home and served, or completes poisoned and is logged. -/
  | hostMemRead (off : BitVec 48)
  /-- HOST_MEM_WRITE (R15): A CXL.mem host write is translated and applied as a numbered write, or discarded and logged. -/
  | hostMemWrite (off : BitVec 48) (mask : BitVec 64) (data : Line)
  /-- REMOTE_ACCESS_ARRIVES (R80): A ZFP access from another node is translated at the ingress network interface and performed at its home. -/
  | remoteAccessArrives (port : Nat) (src : BitVec 9) (va : Word) (op : RemoteOp)
  /-- REPL_UPDATE_APPLY (R76): A replica home applies the next sequenced update of a replicated line and sends write notices on its die. -/
  | replUpdateApply (die : Nat)
  /-- MESSAGE_DELIVER (R410): A message reaches its mailbox and is delivered, bounces or is dropped as stale. -/
  | messageDeliver (n : Nat)
  /-- MSENDW_TIMEOUT (R410): An MSENDW unfinished 2^20 cycles after issue takes CAUSE 0x0B. -/
  | msendwTimeout (p : Nat)
  /-- TRIGGER_PUSH (R227): A fired push waiting in the trigger unit enters its queue once a slot is free. -/
  | triggerPush (p : Nat)
  /-- BLOCK_TRANSFER (R208): An overflow block of 8 entries is accepted by the parent queue or spill region. -/
  | blockTransfer (n : Nat)
  /-- PULL (R210): A queue's outstanding pull moves up to 8 earliest entries down from its parent. -/
  | pull (n : Nat)
  /-- QUANTUM_END (R222): A resident team's quantum ends and a target rectangle is chosen and marked for the waiting head. -/
  | quantumEnd (slot : Nat)
  /-- MARKED_SITE_TIMEOUT (R222): A plain slice still on a marked site one quantum after marking takes a pre-empt interrupt. -/
  | markedSiteTimeout (p : Nat)
  /-- TEAM_SWAP_OUT (R53): After every acknowledgement and engine drain, the cluster controller copies members' scratchpads and kept state to the swap area. -/
  | teamSwapOut (slot : Nat)
  /-- TEAM_SWAP_IN (R427): The controller restores images, markings, core state and kept elements, then completes the members' WFEs. -/
  | teamSwapIn (slot : Nat)
  /-- BARRIER_RELEASE (R216): The root controller completes the arrivals and broadcasts the release cycle. -/
  | barrierRelease (slot : Nat)
  /-- TIMETABLE_FLIT (R403): At its cycle a timetable entry sends, receives, adds or forwards one flit. -/
  | timetableFlit (p e i : Nat)
  /-- PHASE_END (R217): The root broadcasts the end of the communication phase. -/
  | phaseEnd (slot : Nat)
  /-- INTERRUPT_ENTRY (R418): A pending pre-empt, timer, event interrupt or held timetable trap is taken once WP differs from TWP. -/
  | interruptEntry (p : Nat)
  /-- BUDGET_EXHAUSTED (R205): BG reaches 0 and the core takes CAUSE 0x07. -/
  | budgetExhausted (p : Nat)
  /-- TIMER (R206): TB reaches DL in a user-mode slice and the timer interrupt is raised once. -/
  | timer (p : Nat)
  /-- DOORBELL (R434): A host write of the launch producer count lets the launch unit consume records, or is ignored and logged. -/
  | doorbell (v : BitVec 16)
  /-- MGMT_REGISTER_WRITE (R432): A host write to a BAR0 management register without a row of its own updates its writable fields. -/
  | mgmtRegisterWrite (off : BitVec 16) (v : Word)
  /-- ZFP_LAUNCH (R228): A ZFP LAUNCH packet's record is checked, inserted with the fabric stamp and answered. -/
  | zfpLaunch (team : Bool) (rec : Line)
  /-- LINK_UP (R439): A port trains and negotiates ZFP version and features with its partner. -/
  | linkUp (port : Nat) (version : BitVec 16) (features : Word)
  /-- PORT_DOWN (R441): After 32 failed retries a port goes down, faults unacknowledged requests, is logged and retrains. -/
  | portDown (port : Nat)
  /-- POWER_GOOD (R442): After power-good the device verifies firmware, measures, trains HBM and ports, and enters the ready state. -/
  | powerGood (firmware : BitVec 256) (verified trained : Bool)
  /-- SPDM_REQUEST (R442): An SPDM request on the DOE mailbox is answered with SM2-signed measurements. -/
  | spdmRequest (index : Nat)
  /-- SCRUB_STEP (R444): Every 1,024 cycles the scrubber reads one scratchpad granule and corrects it. -/
  | scrubStep (p : Nat)
  /-- ILLEGAL_INSTRUCTION (R258): Issuing a word that the opcode map does not make an instruction takes CAUSE 0x01 with TVAL = the word, writing nothing. -/
  | illegalInstruction (w : BitVec 32)
  /-- REMOTE_WRITE_ACKNOWLEDGEMENT (R139): A remote node's acknowledgement that a write is performed in its package order arrives, completing a waiting STR.S, FENCE.S or engine write. -/
  | remoteWriteAcknowledgement (n : Nat)
  /-- CXL_COMPLETION (R161): The CXL completion of a device write to host memory arrives, making the write visible to every host agent and releasing a waiting FENCE.S, STR.S or engine write. -/
  | cxlCompletion (n : Nat)
  /-- EOL_UPDATE (R445): Every 2^47 TB cycles the Bellwether updates the end-of-life prediction. -/
  | eolUpdate (src : BitVec 8) (months : BitVec 16)
  /-- NOP (R286): Closes the open chunk and has no other effect. -/
  | nop
  /-- ERET (R288): Returns from a trap through the trap record of the current workspace, restoring the workspace, the mode and PC = EPC. -/
  | eret
  /-- WFE (R289): Waits until q15 is not empty or the wake bit is set, then clears the wake bit; with a valid CSB it acknowledges a pre-emption. -/
  | wfe
  /-- BRK (R287): Takes CAUSE 0x0E with TVAL = the instruction word. -/
  | brk
  /-- REPLAY (R290): Waits as FENCE.P, then asks the Bellwether for a retry pass over every park of the package. -/
  | replay
  /-- HALT (R292): Waits as FENCE.P, then stops the core until the context ends. -/
  | halt
  /-- FENCE_P (R139): Waits until every earlier commit, atomic, LDA, STR and maintenance operation is complete. -/
  | fenceP
  /-- FENCE_S (R139): Waits as FENCE.P and also for host, remote and replica completions. -/
  | fenceS
  /-- VREL (R341): Returns the core's extra lanes to the pool. -/
  | vrel
  /-- DONE (R395): Ends the slice and retires the task or member. -/
  | done
  /-- BAR (R401): Arrives at the team barrier and returns when the released phase ends. -/
  | bar
  /-- BARS (R401): Arrives at the team barrier and retires at once, with accesses to timetable ranges stalling until the phase ends. -/
  | bars
  /-- WAITP (R401): Waits until no phase of this member is pending or running. -/
  | waitp
  /-- REPLAY_PASS (R118): Every park of the package retries its entries in parking order. -/
  | replayPass
  /-- TEAM_ADMISSION (R220): The Bellwether admits a team record from the package queue into a free slot. -/
  | teamAdmission
  /-- TEAM_PLACE (R214): The head team is placed on a rectangle of idle sites and its member records are delivered. -/
  | teamPlace
  /-- START (R436): A START launch record increments CTXG, checks ROOT and the header, prepares every core and starts the context. -/
  | start
  /-- TASK (R436): A TASK launch record is checked and inserted into the package queue. -/
  | task
  /-- TEAM (R436): A TEAM launch record is checked and inserted into the package queue. -/
  | team
  /-- STOP (R436): A STOP launch record starts the context stop of R429. -/
  | stop
  /-- END (R430): An END launch record ends the quiescent context, flushes every cache and returns to the ready state. -/
  | endCtx
  /-- QUIESCENT (R429): When no user work or outstanding operation remains, the Bellwether reports the context quiescent and writes the STOP outcome. -/
  | quiescent
  /-- RESIDENCY_REPORT (R228): Every RPER cycles or on request the Bellwether sends a residency report. -/
  | residencyReport
  /-- THERMAL_TRIP (R446): At 110 degrees C the trip is logged and power is removed from the compute dies and stacks. -/
  | thermalTrip
  /-- EXECUTE_BOUNDARY_FETCH (R33): A fetch at a PC at or above XB, or at a misaligned PC, takes CAUSE 0x05 or 0x02 before any word is decoded. -/
  | executeBoundaryFetch
  deriving DecidableEq, Repr

end Sys2Proof
end

