-- ==== Sys2Proof/WellFormed.lean ====
section
/-! DEFINITION. Well-formedness: the limits that a field's value must keep beyond the fixed bits of its layout. A defect
is named; the core takes CAUSE 0x01 for every one of them (spec 11 R258, R252). -/

namespace Sys2Proof

/-- Why a word is not an instruction (R258). Every reason ends in CAUSE 0x01; the names only say which rule refused it. -/
inductive Reject where
  /-- a major that R256 does not assign -/
  | reservedMajor
  /-- a minor code that its list does not assign -/
  | reservedMinor
  /-- a bit that the entry requires to be zero (or to hold a fixed value) does not -/
  | nonzeroField
  /-- a format code of 11 to 15, or one the instruction does not accept (R257, R328) -/
  | badFormat
  /-- rm 5 or 6 (R172) -/
  | reservedRounding
  /-- a queue the instruction does not accept (R263) -/
  | badQueue
  /-- a control register index that R251 does not list, or one that CWR never writes (R252) -/
  | badIndex
  /-- modifiers that do not go together (R278, R297, R300, R323, R399) -/
  | badModifier
  deriving DecidableEq, Repr

/-- rm codes 5 and 6 are reserved (R172). -/
def badRm (r : BitVec 3) : Bool := r == 5#3 || r == 6#3

/-- A format of R257 that exists: 0 to 10. -/
def fmtListed (f : BitVec 4) : Bool := f.toNat ≤ 10

/-- Formats 7 to 10: i8, i16, i32, i64. -/
def fmtInt (f : BitVec 4) : Bool := 7 ≤ f.toNat && f.toNat ≤ 10

/-- Formats 0 to 5 and 7 to 10: every listed one but lns6 (R328). -/
def fmtNoLns (f : BitVec 4) : Bool := f.toNat ≤ 5 || fmtInt f

/-- Formats 1, 2 and 4, which the special functions accept (R328). -/
def fmtVsf (f : BitVec 4) : Bool := f == 1#4 || f == 2#4 || f == 4#4

/-- The control register indices of R251. -/
def cregListed (x : BitVec 12) : Bool :=
  x.toNat ≤ 0x013 || (0x020 ≤ x.toNat && x.toNat ≤ 0x02F) || (0x040 ≤ x.toNat && x.toNat ≤ 0x044)

/-- The registers that CWR never writes: WP, PC, VL, PCN, NODE, LHP, TB (R251). -/
def cregNeverWritten (x : BitVec 12) : Bool :=
  x == 0x000#12 || x == 0x001#12 || x == 0x00C#12 || x == 0x00F#12 || x == 0x012#12 || x == 0x013#12 || x == 0x044#12

namespace Instr

/-- `none` when the check holds, else the named reason. -/
def require (ok : Bool) (r : Reject) : Option Reject := if ok then none else some r

/-- The returning and no-return forms of an AMO: N = 1 needs d = 0 (R300). -/
def amoDefect (d : Reg) (n : Bit) : Option Reject := require (n == 0#1 || d == 0#5) .badModifier

/-- FADD, FMAX, FMIN and TADD have no 64-bit form (R300). -/
def amoFloatDefect (d : Reg) (n w : Bit) : Option Reject := require ((n == 0#1 || d == 0#5) && w == 0#1) .badModifier

/-- What is wrong with an instruction's field values; `none` for a well-formed one. -/
def defect : Instr → Option Reject
  | .crd _ x => require (cregListed x) .badIndex
  | .cwr _ x => require (cregListed x && !cregNeverWritten x) .badIndex
  | .padd _ _ _ _ _ w | .psub _ _ _ _ _ w | .pmul _ _ _ _ _ w => require (w != 3#2) .badModifier
  | .pmin _ _ _ _ w | .pmax _ _ _ _ w | .pavg _ _ _ _ w => require (w != 3#2) .badModifier
  | .lda _ _ u _ z => require (!(u == 1#1 && z == 3#2)) .badModifier
  | .amoAdd d _ _ n _ | .amoAnd d _ _ n _ | .amoOr d _ _ n _ | .amoXor d _ _ n _ | .amoMin d _ _ n _ => amoDefect d n
  | .amoMax d _ _ n _ | .amoMinu d _ _ n _ | .amoMaxu d _ _ n _ | .amoSwap d _ _ n _ => amoDefect d n
  | .amoFadd d _ _ n w | .amoFmax d _ _ n w | .amoFmin d _ _ n w | .amoTadd d _ _ n w => amoFloatDefect d n w
  | .fadd _ _ _ r | .fsub _ _ _ r | .fmul _ _ _ r | .fdiv _ _ _ r => require (!badRm r) .reservedRounding
  | .fsqrt _ _ r | .tsqrt _ _ r => require (!badRm r) .reservedRounding
  | .tadd _ _ _ r | .tsub _ _ _ r | .tmul _ _ _ r | .tdiv _ _ _ r => require (!badRm r) .reservedRounding
  | .fma _ _ _ _ r | .fms _ _ _ _ r | .fnma _ _ _ _ r | .fnms _ _ _ _ r => require (!badRm r) .reservedRounding
  | .tfma _ _ _ _ r | .tfms _ _ _ _ r | .tfnma _ _ _ _ r | .tfnms _ _ _ _ r => require (!badRm r) .reservedRounding
  | .tcls _ _ w => require (w != 3#2) .badModifier
  | .cvt _ _ p q r t s =>
    if badRm r then some .reservedRounding
    else if !(fmtListed t && fmtListed s) then some .badFormat
    else require ((p == 0#1 || fmtInt t) && (q == 0#1 || fmtInt s)) .badModifier
  | .vadd _ _ _ f _ _ _ | .vsub _ _ _ f _ _ _ | .vfma _ _ _ f _ _ _ | .vmin _ _ _ f _ _ _ => require (fmtNoLns f) .badFormat
  | .vmax _ _ _ f _ _ _ | .vand _ _ _ f _ _ _ | .vor _ _ _ f _ _ _ | .vxor _ _ _ f _ _ _ => require (fmtNoLns f) .badFormat
  | .vcmpeq _ _ _ f _ _ _ | .vcmplt _ _ _ f _ _ _ | .vsel _ _ _ f _ _ _ => require (fmtNoLns f) .badFormat
  | .vmul _ _ _ f _ _ _ => require (fmtListed f) .badFormat
  | .vshl _ _ _ f _ _ _ => require (fmtInt f) .badFormat
  | .vexp _ _ f _ _ | .vlog2 _ _ f _ _ | .vrcp _ _ f _ _ => require (fmtVsf f) .badFormat
  | .vrsq _ _ f _ _ | .vsigm _ _ f _ _ | .vtanh _ _ f _ _ => require (fmtVsf f) .badFormat
  | .vmov _ _ f _ _ => require (fmtListed f) .badFormat
  | .vset _ _ f _ | .viota _ _ f _ => require (fmtListed f) .badFormat
  | .vcvt _ _ c f _ _ => require (fmtListed c && fmtListed f) .badFormat
  | .vgath _ _ _ f _ _ => require (fmtNoLns f) .badFormat
  | .vscat _ _ _ f _ | .vdot _ _ _ f _ => require (fmtNoLns f) .badFormat
  | .vrsum _ _ f _ | .vrmax _ _ f _ | .vrmin _ _ f _ => require (fmtNoLns f) .badFormat
  | .vscan _ _ _ f _ => require (fmtListed f) .badFormat
  | .qpush _ q | .qpushN _ _ q => require (q.toNat ≤ 4) .badQueue
  | .qpop _ q | .qpopN _ q => require (q.toNat ≤ 4 || q == 15#4) .badQueue
  | .widf _ _ k => require (k != 7#3) .badModifier
  | .stat _ _ w => require (w == 4#4 || w == 5#4 || w == 6#4) .badModifier
  | _ => none

/-- A well-formed instruction: no field breaks its limit. -/
def wf (i : Instr) : Bool := i.defect.isNone

end Instr

end Sys2Proof
end

