-- ==== Sys2Proof/Decode.lean ====
section
/-! DEFINITION. The decoder and, after it, the encoder (spec 11 R254 to R258; the field layouts of chapters 12 to 18).
A word that the map does not make an instruction is rejected by name; the core answers every rejection with CAUSE 0x01
(R258). The five fields major, d, a, b and fn of format A cut every other format: an imm16 is b ++ fn, an off26 is
d ++ a ++ b ++ fn. -/

namespace Sys2Proof

/-- A word from its five fields (R254, format A). -/
def word (m : BitVec 6) (d a b : BitVec 5) (fn : BitVec 11) : BitVec 32 := m ++ d ++ a ++ b ++ fn

/-- Major 0x00 (Sys, R256). -/
def decodeSys (d a b : BitVec 5) (fn : BitVec 11) : Except Reject Instr :=
  if fn = 1#11 then if d = 0#5 ∧ a = 0#5 ∧ b = 0#5 then .ok (.nop) else .error .nonzeroField else
  if fn = 2#11 then if d = 0#5 ∧ b = 0#5 then .ok (.trap a) else .error .nonzeroField else
  if fn = 3#11 then if d = 0#5 ∧ a = 0#5 ∧ b = 0#5 then .ok (.eret) else .error .nonzeroField else
  if fn = 4#11 then if d = 0#5 ∧ b = 0#5 then .ok (.upret a) else .error .nonzeroField else
  if fn = 5#11 then if d = 0#5 ∧ a = 0#5 ∧ b = 0#5 then .ok (.wfe) else .error .nonzeroField else
  if fn = 6#11 then if d = 0#5 ∧ a = 0#5 ∧ b = 0#5 then .ok (.brk) else .error .nonzeroField else
  if fn = 7#11 then if d = 0#5 ∧ a = 0#5 ∧ b = 0#5 then .ok (.replay) else .error .nonzeroField else
  if fn = 8#11 then if d = 0#5 then .ok (.tinv a b) else .error .nonzeroField else
  if fn = 9#11 then if d = 0#5 ∧ a = 0#5 ∧ b = 0#5 then .ok (.halt) else .error .nonzeroField else
  .error .reservedMinor

/-- Major 0x03 (Alu, R256). -/
def decodeAlu (d a b : BitVec 5) (fn : BitVec 11) : Except Reject Instr :=
  if fn = 0#11 then .ok (.add d a b) else
  if fn = 1#11 then .ok (.sub d a b) else
  if fn = 2#11 then .ok (.and d a b) else
  if fn = 3#11 then .ok (.or d a b) else
  if fn = 4#11 then .ok (.xor d a b) else
  if fn = 5#11 then .ok (.sll d a b) else
  if fn = 6#11 then .ok (.srl d a b) else
  if fn = 7#11 then .ok (.sra d a b) else
  if fn = 8#11 then .ok (.slt d a b) else
  if fn = 9#11 then .ok (.sltu d a b) else
  if fn = 10#11 then .ok (.min d a b) else
  if fn = 11#11 then .ok (.max d a b) else
  if fn = 12#11 then .ok (.minu d a b) else
  if fn = 13#11 then .ok (.maxu d a b) else
  if fn = 14#11 then if b = 0#5 then .ok (.clz d a) else .error .nonzeroField else
  if fn = 15#11 then if b = 0#5 then .ok (.ctz d a) else .error .nonzeroField else
  if fn = 16#11 then if b = 0#5 then .ok (.popc d a) else .error .nonzeroField else
  if fn = 17#11 then .ok (.sext d a b) else
  if fn = 18#11 then .ok (.zext d a b) else
  .error .reservedMinor

/-- Major 0x04 (MulDiv, R256). -/
def decodeMulDiv (d a b : BitVec 5) (fn : BitVec 11) : Except Reject Instr :=
  if fn = 0#11 then .ok (.mul d a b) else
  if fn = 1#11 then .ok (.mulh d a b) else
  if fn = 2#11 then .ok (.mulhu d a b) else
  if fn = 3#11 then .ok (.div d a b) else
  if fn = 4#11 then .ok (.divu d a b) else
  if fn = 5#11 then .ok (.rem d a b) else
  if fn = 6#11 then .ok (.remu d a b) else
  .error .reservedMinor

/-- Major 0x0B (Shi, R256). -/
def decodeShi (d a b : BitVec 5) (fn : BitVec 11) : Except Reject Instr :=
  if fn.extractLsb' 6 2 = 0#2 then if b = 0#5 ∧ fn.extractLsb' 8 3 = 0#3 then .ok (.slli d a (fn.extractLsb' 0 6)) else .error .nonzeroField else
  if fn.extractLsb' 6 2 = 1#2 then if b = 0#5 ∧ fn.extractLsb' 8 3 = 0#3 then .ok (.srli d a (fn.extractLsb' 0 6)) else .error .nonzeroField else
  if fn.extractLsb' 6 2 = 2#2 then if b = 0#5 ∧ fn.extractLsb' 8 3 = 0#3 then .ok (.srai d a (fn.extractLsb' 0 6)) else .error .nonzeroField else
  .error .reservedMinor

/-- Major 0x10 (Psimd, R256). -/
def decodePsimd (d a b : BitVec 5) (fn : BitVec 11) : Except Reject Instr :=
  if fn.extractLsb' 0 3 = 0#3 then if fn.extractLsb' 7 4 = 0#4 then .ok (.padd d a b (fn.extractLsb' 6 1) (fn.extractLsb' 5 1) (fn.extractLsb' 3 2)) else .error .nonzeroField else
  if fn.extractLsb' 0 3 = 1#3 then if fn.extractLsb' 7 4 = 0#4 then .ok (.psub d a b (fn.extractLsb' 6 1) (fn.extractLsb' 5 1) (fn.extractLsb' 3 2)) else .error .nonzeroField else
  if fn.extractLsb' 0 3 = 2#3 then if fn.extractLsb' 7 4 = 0#4 then .ok (.pmul d a b (fn.extractLsb' 6 1) (fn.extractLsb' 5 1) (fn.extractLsb' 3 2)) else .error .nonzeroField else
  if fn.extractLsb' 0 3 = 3#3 then if fn.extractLsb' 6 5 = 0#5 then .ok (.pmin d a b (fn.extractLsb' 5 1) (fn.extractLsb' 3 2)) else .error .nonzeroField else
  if fn.extractLsb' 0 3 = 4#3 then if fn.extractLsb' 6 5 = 0#5 then .ok (.pmax d a b (fn.extractLsb' 5 1) (fn.extractLsb' 3 2)) else .error .nonzeroField else
  if fn.extractLsb' 0 3 = 5#3 then if fn.extractLsb' 6 5 = 0#5 then .ok (.pavg d a b (fn.extractLsb' 5 1) (fn.extractLsb' 3 2)) else .error .nonzeroField else
  .error .reservedMinor

/-- Major 0x27 (Amo, R256). -/
def decodeAmo (d a b : BitVec 5) (fn : BitVec 11) : Except Reject Instr :=
  if fn.extractLsb' 0 4 = 0#4 then if fn.extractLsb' 6 5 = 0#5 then .ok (.amoAdd d a b (fn.extractLsb' 5 1) (fn.extractLsb' 4 1)) else .error .nonzeroField else
  if fn.extractLsb' 0 4 = 1#4 then if fn.extractLsb' 6 5 = 0#5 then .ok (.amoAnd d a b (fn.extractLsb' 5 1) (fn.extractLsb' 4 1)) else .error .nonzeroField else
  if fn.extractLsb' 0 4 = 2#4 then if fn.extractLsb' 6 5 = 0#5 then .ok (.amoOr d a b (fn.extractLsb' 5 1) (fn.extractLsb' 4 1)) else .error .nonzeroField else
  if fn.extractLsb' 0 4 = 3#4 then if fn.extractLsb' 6 5 = 0#5 then .ok (.amoXor d a b (fn.extractLsb' 5 1) (fn.extractLsb' 4 1)) else .error .nonzeroField else
  if fn.extractLsb' 0 4 = 4#4 then if fn.extractLsb' 6 5 = 0#5 then .ok (.amoMin d a b (fn.extractLsb' 5 1) (fn.extractLsb' 4 1)) else .error .nonzeroField else
  if fn.extractLsb' 0 4 = 5#4 then if fn.extractLsb' 6 5 = 0#5 then .ok (.amoMax d a b (fn.extractLsb' 5 1) (fn.extractLsb' 4 1)) else .error .nonzeroField else
  if fn.extractLsb' 0 4 = 6#4 then if fn.extractLsb' 6 5 = 0#5 then .ok (.amoMinu d a b (fn.extractLsb' 5 1) (fn.extractLsb' 4 1)) else .error .nonzeroField else
  if fn.extractLsb' 0 4 = 7#4 then if fn.extractLsb' 6 5 = 0#5 then .ok (.amoMaxu d a b (fn.extractLsb' 5 1) (fn.extractLsb' 4 1)) else .error .nonzeroField else
  if fn.extractLsb' 0 4 = 8#4 then if fn.extractLsb' 6 5 = 0#5 then .ok (.amoSwap d a b (fn.extractLsb' 5 1) (fn.extractLsb' 4 1)) else .error .nonzeroField else
  if fn.extractLsb' 0 4 = 9#4 then if fn.extractLsb' 6 5 = 0#5 then .ok (.amoFadd d a b (fn.extractLsb' 5 1) (fn.extractLsb' 4 1)) else .error .nonzeroField else
  if fn.extractLsb' 0 4 = 10#4 then if fn.extractLsb' 6 5 = 0#5 then .ok (.amoFmax d a b (fn.extractLsb' 5 1) (fn.extractLsb' 4 1)) else .error .nonzeroField else
  if fn.extractLsb' 0 4 = 11#4 then if fn.extractLsb' 6 5 = 0#5 then .ok (.amoFmin d a b (fn.extractLsb' 5 1) (fn.extractLsb' 4 1)) else .error .nonzeroField else
  if fn.extractLsb' 0 4 = 12#4 then if fn.extractLsb' 6 5 = 0#5 then .ok (.amoTadd d a b (fn.extractLsb' 5 1) (fn.extractLsb' 4 1)) else .error .nonzeroField else
  .error .reservedMinor

/-- Major 0x29 (Memc, R256). -/
def decodeMemc (d a b : BitVec 5) (fn : BitVec 11) : Except Reject Instr :=
  if fn.extractLsb' 0 5 = 0#5 then if d = 0#5 ∧ a = 0#5 ∧ b = 0#5 ∧ fn.extractLsb' 5 6 = 0#6 then .ok (.fenceP) else .error .nonzeroField else
  if fn.extractLsb' 0 5 = 1#5 then if d = 0#5 ∧ a = 0#5 ∧ b = 0#5 ∧ fn.extractLsb' 5 6 = 0#6 then .ok (.fenceS) else .error .nonzeroField else
  if fn.extractLsb' 0 5 = 2#5 then if d = 0#5 ∧ fn.extractLsb' 5 6 = 0#6 then .ok (.clean a b) else .error .nonzeroField else
  if fn.extractLsb' 0 5 = 3#5 then if d = 0#5 ∧ fn.extractLsb' 5 6 = 0#6 then .ok (.inv a b) else .error .nonzeroField else
  if fn.extractLsb' 0 5 = 4#5 then if d = 0#5 ∧ fn.extractLsb' 5 6 = 0#6 then .ok (.clinv a b) else .error .nonzeroField else
  if fn.extractLsb' 0 5 = 5#5 then if d = 0#5 ∧ fn.extractLsb' 5 6 = 0#6 then .ok (.pref a b) else .error .nonzeroField else
  .error .reservedMinor

/-- Major 0x2A (Fop, R256). -/
def decodeFop (d a b : BitVec 5) (fn : BitVec 11) : Except Reject Instr :=
  if fn.extractLsb' 0 5 = 0#5 then if fn.extractLsb' 5 3 = 0#3 then .ok (.fadd d a b (fn.extractLsb' 8 3)) else .error .nonzeroField else
  if fn.extractLsb' 0 5 = 1#5 then if fn.extractLsb' 5 3 = 0#3 then .ok (.fsub d a b (fn.extractLsb' 8 3)) else .error .nonzeroField else
  if fn.extractLsb' 0 5 = 2#5 then if fn.extractLsb' 5 3 = 0#3 then .ok (.fmul d a b (fn.extractLsb' 8 3)) else .error .nonzeroField else
  if fn.extractLsb' 0 5 = 3#5 then if fn.extractLsb' 5 3 = 0#3 then .ok (.fdiv d a b (fn.extractLsb' 8 3)) else .error .nonzeroField else
  if fn.extractLsb' 0 5 = 4#5 then if b = 0#5 ∧ fn.extractLsb' 5 3 = 0#3 then .ok (.fsqrt d a (fn.extractLsb' 8 3)) else .error .nonzeroField else
  if fn.extractLsb' 0 5 = 5#5 then if fn.extractLsb' 5 6 = 0#6 then .ok (.fmin d a b) else .error .nonzeroField else
  if fn.extractLsb' 0 5 = 6#5 then if fn.extractLsb' 5 6 = 0#6 then .ok (.fmax d a b) else .error .nonzeroField else
  if fn.extractLsb' 0 5 = 7#5 then if fn.extractLsb' 5 6 = 0#6 then .ok (.feq d a b) else .error .nonzeroField else
  if fn.extractLsb' 0 5 = 8#5 then if fn.extractLsb' 5 6 = 0#6 then .ok (.flt d a b) else .error .nonzeroField else
  if fn.extractLsb' 0 5 = 9#5 then if fn.extractLsb' 5 6 = 0#6 then .ok (.fle d a b) else .error .nonzeroField else
  if fn.extractLsb' 0 5 = 10#5 then if b = 0#5 ∧ fn.extractLsb' 5 6 = 0#6 then .ok (.fclass d a) else .error .nonzeroField else
  .error .reservedMinor

/-- Major 0x2B (Fma, R256). -/
def decodeFma (d a b : BitVec 5) (fn : BitVec 11) : Except Reject Instr :=
  if fn.extractLsb' 0 3 = 0#3 then .ok (.fma d a b (fn.extractLsb' 6 5) (fn.extractLsb' 3 3)) else
  if fn.extractLsb' 0 3 = 1#3 then .ok (.fms d a b (fn.extractLsb' 6 5) (fn.extractLsb' 3 3)) else
  if fn.extractLsb' 0 3 = 2#3 then .ok (.fnma d a b (fn.extractLsb' 6 5) (fn.extractLsb' 3 3)) else
  if fn.extractLsb' 0 3 = 3#3 then .ok (.fnms d a b (fn.extractLsb' 6 5) (fn.extractLsb' 3 3)) else
  .error .reservedMinor

/-- Major 0x2C (Top, R256). -/
def decodeTop (d a b : BitVec 5) (fn : BitVec 11) : Except Reject Instr :=
  if fn.extractLsb' 0 5 = 0#5 then if fn.extractLsb' 5 3 = 0#3 then .ok (.tadd d a b (fn.extractLsb' 8 3)) else .error .nonzeroField else
  if fn.extractLsb' 0 5 = 1#5 then if fn.extractLsb' 5 3 = 0#3 then .ok (.tsub d a b (fn.extractLsb' 8 3)) else .error .nonzeroField else
  if fn.extractLsb' 0 5 = 2#5 then if fn.extractLsb' 5 3 = 0#3 then .ok (.tmul d a b (fn.extractLsb' 8 3)) else .error .nonzeroField else
  if fn.extractLsb' 0 5 = 3#5 then if fn.extractLsb' 5 3 = 0#3 then .ok (.tdiv d a b (fn.extractLsb' 8 3)) else .error .nonzeroField else
  if fn.extractLsb' 0 5 = 4#5 then if b = 0#5 ∧ fn.extractLsb' 5 3 = 0#3 then .ok (.tsqrt d a (fn.extractLsb' 8 3)) else .error .nonzeroField else
  if fn.extractLsb' 0 5 = 5#5 then if b = 0#5 ∧ fn.extractLsb' 7 4 = 0#4 then .ok (.tcls d a (fn.extractLsb' 5 2)) else .error .nonzeroField else
  .error .reservedMinor

/-- Major 0x2D (Tfma, R256). -/
def decodeTfma (d a b : BitVec 5) (fn : BitVec 11) : Except Reject Instr :=
  if fn.extractLsb' 0 3 = 0#3 then .ok (.tfma d a b (fn.extractLsb' 6 5) (fn.extractLsb' 3 3)) else
  if fn.extractLsb' 0 3 = 1#3 then .ok (.tfms d a b (fn.extractLsb' 6 5) (fn.extractLsb' 3 3)) else
  if fn.extractLsb' 0 3 = 2#3 then .ok (.tfnma d a b (fn.extractLsb' 6 5) (fn.extractLsb' 3 3)) else
  if fn.extractLsb' 0 3 = 3#3 then .ok (.tfnms d a b (fn.extractLsb' 6 5) (fn.extractLsb' 3 3)) else
  .error .reservedMinor

/-- Major 0x2F (Var, R256). -/
def decodeVar (d a b : BitVec 5) (fn : BitVec 11) : Except Reject Instr :=
  if fn.extractLsb' 7 4 = 0#4 then .ok (.vadd d a b (fn.extractLsb' 3 4) (fn.extractLsb' 2 1) (fn.extractLsb' 1 1) (fn.extractLsb' 0 1)) else
  if fn.extractLsb' 7 4 = 1#4 then .ok (.vsub d a b (fn.extractLsb' 3 4) (fn.extractLsb' 2 1) (fn.extractLsb' 1 1) (fn.extractLsb' 0 1)) else
  if fn.extractLsb' 7 4 = 2#4 then .ok (.vmul d a b (fn.extractLsb' 3 4) (fn.extractLsb' 2 1) (fn.extractLsb' 1 1) (fn.extractLsb' 0 1)) else
  if fn.extractLsb' 7 4 = 3#4 then .ok (.vfma d a b (fn.extractLsb' 3 4) (fn.extractLsb' 2 1) (fn.extractLsb' 1 1) (fn.extractLsb' 0 1)) else
  if fn.extractLsb' 7 4 = 4#4 then .ok (.vmin d a b (fn.extractLsb' 3 4) (fn.extractLsb' 2 1) (fn.extractLsb' 1 1) (fn.extractLsb' 0 1)) else
  if fn.extractLsb' 7 4 = 5#4 then .ok (.vmax d a b (fn.extractLsb' 3 4) (fn.extractLsb' 2 1) (fn.extractLsb' 1 1) (fn.extractLsb' 0 1)) else
  if fn.extractLsb' 7 4 = 6#4 then .ok (.vand d a b (fn.extractLsb' 3 4) (fn.extractLsb' 2 1) (fn.extractLsb' 1 1) (fn.extractLsb' 0 1)) else
  if fn.extractLsb' 7 4 = 7#4 then .ok (.vor d a b (fn.extractLsb' 3 4) (fn.extractLsb' 2 1) (fn.extractLsb' 1 1) (fn.extractLsb' 0 1)) else
  if fn.extractLsb' 7 4 = 8#4 then .ok (.vxor d a b (fn.extractLsb' 3 4) (fn.extractLsb' 2 1) (fn.extractLsb' 1 1) (fn.extractLsb' 0 1)) else
  if fn.extractLsb' 7 4 = 9#4 then .ok (.vshl d a b (fn.extractLsb' 3 4) (fn.extractLsb' 2 1) (fn.extractLsb' 1 1) (fn.extractLsb' 0 1)) else
  if fn.extractLsb' 7 4 = 10#4 then .ok (.vcmpeq d a b (fn.extractLsb' 3 4) (fn.extractLsb' 2 1) (fn.extractLsb' 1 1) (fn.extractLsb' 0 1)) else
  if fn.extractLsb' 7 4 = 11#4 then .ok (.vcmplt d a b (fn.extractLsb' 3 4) (fn.extractLsb' 2 1) (fn.extractLsb' 1 1) (fn.extractLsb' 0 1)) else
  if fn.extractLsb' 7 4 = 12#4 then .ok (.vsel d a b (fn.extractLsb' 3 4) (fn.extractLsb' 2 1) (fn.extractLsb' 1 1) (fn.extractLsb' 0 1)) else
  .error .reservedMinor

/-- Major 0x30 (Vsf, R256). -/
def decodeVsf (d a b : BitVec 5) (fn : BitVec 11) : Except Reject Instr :=
  if fn.extractLsb' 7 4 = 0#4 then if b = 0#5 ∧ fn.extractLsb' 0 1 = 0#1 then .ok (.vexp d a (fn.extractLsb' 3 4) (fn.extractLsb' 2 1) (fn.extractLsb' 1 1)) else .error .nonzeroField else
  if fn.extractLsb' 7 4 = 1#4 then if b = 0#5 ∧ fn.extractLsb' 0 1 = 0#1 then .ok (.vlog2 d a (fn.extractLsb' 3 4) (fn.extractLsb' 2 1) (fn.extractLsb' 1 1)) else .error .nonzeroField else
  if fn.extractLsb' 7 4 = 2#4 then if b = 0#5 ∧ fn.extractLsb' 0 1 = 0#1 then .ok (.vrcp d a (fn.extractLsb' 3 4) (fn.extractLsb' 2 1) (fn.extractLsb' 1 1)) else .error .nonzeroField else
  if fn.extractLsb' 7 4 = 3#4 then if b = 0#5 ∧ fn.extractLsb' 0 1 = 0#1 then .ok (.vrsq d a (fn.extractLsb' 3 4) (fn.extractLsb' 2 1) (fn.extractLsb' 1 1)) else .error .nonzeroField else
  if fn.extractLsb' 7 4 = 4#4 then if b = 0#5 ∧ fn.extractLsb' 0 1 = 0#1 then .ok (.vsigm d a (fn.extractLsb' 3 4) (fn.extractLsb' 2 1) (fn.extractLsb' 1 1)) else .error .nonzeroField else
  if fn.extractLsb' 7 4 = 5#4 then if b = 0#5 ∧ fn.extractLsb' 0 1 = 0#1 then .ok (.vtanh d a (fn.extractLsb' 3 4) (fn.extractLsb' 2 1) (fn.extractLsb' 1 1)) else .error .nonzeroField else
  .error .reservedMinor

/-- Major 0x31 (Vxf, R256). -/
def decodeVxf (d a b : BitVec 5) (fn : BitVec 11) : Except Reject Instr :=
  if fn.extractLsb' 7 4 = 0#4 then if b = 0#5 ∧ fn.extractLsb' 0 1 = 0#1 then .ok (.vmov d a (fn.extractLsb' 3 4) (fn.extractLsb' 2 1) (fn.extractLsb' 1 1)) else .error .nonzeroField else
  if fn.extractLsb' 7 4 = 1#4 then if a = 0#5 ∧ fn.extractLsb' 0 2 = 1#2 then .ok (.vset d b (fn.extractLsb' 3 4) (fn.extractLsb' 2 1)) else .error .nonzeroField else
  if fn.extractLsb' 7 4 = 2#4 then if b.extractLsb' 4 1 = 0#1 ∧ fn.extractLsb' 0 1 = 0#1 then .ok (.vcvt d a (b.extractLsb' 0 4) (fn.extractLsb' 3 4) (fn.extractLsb' 2 1) (fn.extractLsb' 1 1)) else .error .nonzeroField else
  if fn.extractLsb' 7 4 = 3#4 then if fn.extractLsb' 0 1 = 0#1 then .ok (.vgath d a b (fn.extractLsb' 3 4) (fn.extractLsb' 2 1) (fn.extractLsb' 1 1)) else .error .nonzeroField else
  if fn.extractLsb' 7 4 = 4#4 then if fn.extractLsb' 2 1 = 0#1 ∧ fn.extractLsb' 0 1 = 0#1 then .ok (.vscat d a b (fn.extractLsb' 3 4) (fn.extractLsb' 1 1)) else .error .nonzeroField else
  if fn.extractLsb' 7 4 = 5#4 then if a = 0#5 ∧ fn.extractLsb' 0 2 = 1#2 then .ok (.viota d b (fn.extractLsb' 3 4) (fn.extractLsb' 2 1)) else .error .nonzeroField else
  .error .reservedMinor

/-- Major 0x32 (Vrd, R256). -/
def decodeVrd (d a b : BitVec 5) (fn : BitVec 11) : Except Reject Instr :=
  if fn.extractLsb' 7 4 = 0#4 then if b = 0#5 ∧ fn.extractLsb' 2 1 = 0#1 ∧ fn.extractLsb' 0 1 = 0#1 then .ok (.vrsum d a (fn.extractLsb' 3 4) (fn.extractLsb' 1 1)) else .error .nonzeroField else
  if fn.extractLsb' 7 4 = 1#4 then if b = 0#5 ∧ fn.extractLsb' 2 1 = 0#1 ∧ fn.extractLsb' 0 1 = 0#1 then .ok (.vrmax d a (fn.extractLsb' 3 4) (fn.extractLsb' 1 1)) else .error .nonzeroField else
  if fn.extractLsb' 7 4 = 2#4 then if b = 0#5 ∧ fn.extractLsb' 2 1 = 0#1 ∧ fn.extractLsb' 0 1 = 0#1 then .ok (.vrmin d a (fn.extractLsb' 3 4) (fn.extractLsb' 1 1)) else .error .nonzeroField else
  if fn.extractLsb' 7 4 = 3#4 then if fn.extractLsb' 2 1 = 0#1 ∧ fn.extractLsb' 0 1 = 0#1 then .ok (.vdot d a b (fn.extractLsb' 3 4) (fn.extractLsb' 1 1)) else .error .nonzeroField else
  .error .reservedMinor

/-- Major 0x33 (Vct, R256). -/
def decodeVct (d a b : BitVec 5) (fn : BitVec 11) : Except Reject Instr :=
  if fn.extractLsb' 7 4 = 0#4 then if b = 0#5 ∧ fn.extractLsb' 0 7 = 0#7 then .ok (.vclaim d a) else .error .nonzeroField else
  if fn.extractLsb' 7 4 = 1#4 then if d = 0#5 ∧ a = 0#5 ∧ b = 0#5 ∧ fn.extractLsb' 0 7 = 0#7 then .ok (.vrel) else .error .nonzeroField else
  if fn.extractLsb' 7 4 = 2#4 then if fn.extractLsb' 2 1 = 0#1 ∧ fn.extractLsb' 0 1 = 0#1 then .ok (.vscan d a b (fn.extractLsb' 3 4) (fn.extractLsb' 1 1)) else .error .nonzeroField else
  .error .reservedMinor

/-- Major 0x34 (Qpush, R256). -/
def decodeQpush (d a b : BitVec 5) (fn : BitVec 11) : Except Reject Instr :=
  if fn.extractLsb' 0 1 = 0#1 then if d = 0#5 ∧ b.extractLsb' 0 1 = 0#1 ∧ fn.extractLsb' 1 10 = 0#10 then .ok (.qpush a (b.extractLsb' 1 4)) else .error .nonzeroField else
  if fn.extractLsb' 0 1 = 1#1 then if b.extractLsb' 0 1 = 0#1 ∧ fn.extractLsb' 1 10 = 0#10 then .ok (.qpushN d a (b.extractLsb' 1 4)) else .error .nonzeroField else
  .error .reservedMinor

/-- Major 0x35 (Qpop, R256). -/
def decodeQpop (d a b : BitVec 5) (fn : BitVec 11) : Except Reject Instr :=
  if fn.extractLsb' 0 1 = 0#1 then if a = 0#5 ∧ b.extractLsb' 0 1 = 0#1 ∧ fn.extractLsb' 1 10 = 0#10 then .ok (.qpop d (b.extractLsb' 1 4)) else .error .nonzeroField else
  if fn.extractLsb' 0 1 = 1#1 then if a = 0#5 ∧ b.extractLsb' 0 1 = 0#1 ∧ fn.extractLsb' 1 10 = 0#10 then .ok (.qpopN d (b.extractLsb' 1 4)) else .error .nonzeroField else
  .error .reservedMinor

/-- Major 0x36 (Task, R256). -/
def decodeTask (d a b : BitVec 5) (fn : BitVec 11) : Except Reject Instr :=
  if fn.extractLsb' 0 5 = 0#5 then if b = 0#5 ∧ fn.extractLsb' 5 6 = 0#6 then .ok (.take d a) else .error .nonzeroField else
  if fn.extractLsb' 0 5 = 1#5 then if d = 0#5 ∧ b = 0#5 ∧ fn.extractLsb' 5 6 = 0#6 then .ok (.spawn a) else .error .nonzeroField else
  if fn.extractLsb' 0 5 = 2#5 then if d = 0#5 ∧ b = 0#5 ∧ fn.extractLsb' 5 6 = 0#6 then .ok (.spawnt a) else .error .nonzeroField else
  if fn.extractLsb' 0 5 = 3#5 then if d = 0#5 ∧ b = 0#5 ∧ fn.extractLsb' 5 6 = 0#6 then .ok (.yield a) else .error .nonzeroField else
  if fn.extractLsb' 0 5 = 4#5 then if d = 0#5 ∧ a = 0#5 ∧ b = 0#5 ∧ fn.extractLsb' 5 6 = 0#6 then .ok (.done) else .error .nonzeroField else
  if fn.extractLsb' 0 5 = 5#5 then if d = 0#5 ∧ b = 0#5 ∧ fn.extractLsb' 5 6 = 0#6 then .ok (.swp a) else .error .nonzeroField else
  if fn.extractLsb' 0 5 = 6#5 then if b = 0#5 ∧ fn.extractLsb' 8 3 = 0#3 then .ok (.widf d a (fn.extractLsb' 5 3)) else .error .nonzeroField else
  .error .reservedMinor

/-- Major 0x37 (Sync, R256). -/
def decodeSync (d a b : BitVec 5) (fn : BitVec 11) : Except Reject Instr :=
  if fn.extractLsb' 0 7 = 0#7 then if d = 0#5 ∧ a = 0#5 ∧ b = 0#5 ∧ fn.extractLsb' 7 4 = 0#4 then .ok (.bar) else .error .nonzeroField else
  if fn.extractLsb' 0 7 = 1#7 then if d = 0#5 ∧ a = 0#5 ∧ b = 0#5 ∧ fn.extractLsb' 7 4 = 0#4 then .ok (.bars) else .error .nonzeroField else
  if fn.extractLsb' 0 7 = 2#7 then if d = 0#5 ∧ a = 0#5 ∧ b = 0#5 ∧ fn.extractLsb' 7 4 = 0#4 then .ok (.waitp) else .error .nonzeroField else
  if fn.extractLsb' 0 7 = 3#7 then if d = 0#5 ∧ b = 0#5 ∧ fn.extractLsb' 7 4 = 0#4 then .ok (.ttload a) else .error .nonzeroField else
  if fn.extractLsb' 0 7 = 4#7 then if d = 0#5 then .ok (.armPush a b (fn.extractLsb' 7 4)) else .error .nonzeroField else
  if fn.extractLsb' 0 7 = 36#7 then if d = 0#5 ∧ b = 0#5 then .ok (.armEvent a (fn.extractLsb' 7 4)) else .error .nonzeroField else
  if fn.extractLsb' 0 7 = 68#7 then if d = 0#5 ∧ b = 0#5 then .ok (.armWake a (fn.extractLsb' 7 4)) else .error .nonzeroField else
  if fn.extractLsb' 0 7 = 5#7 then if d = 0#5 ∧ b = 0#5 then .ok (.ctradd a (fn.extractLsb' 7 4)) else .error .nonzeroField else
  if fn.extractLsb' 0 7 = 6#7 then if a = 0#5 ∧ b = 0#5 then .ok (.ctrrd d (fn.extractLsb' 7 4)) else .error .nonzeroField else
  if fn.extractLsb' 0 7 = 7#7 then if b = 0#5 then .ok (.waitc d a (fn.extractLsb' 7 4)) else .error .nonzeroField else
  .error .reservedMinor

/-- Major 0x38 (Msg, R256). -/
def decodeMsg (d a b : BitVec 5) (fn : BitVec 11) : Except Reject Instr :=
  if fn.extractLsb' 0 6 = 0#6 then if fn.extractLsb' 6 5 = 0#5 then .ok (.msend d a b) else .error .nonzeroField else
  if fn.extractLsb' 0 6 = 1#6 then if fn.extractLsb' 6 5 = 0#5 then .ok (.msendw d a b) else .error .nonzeroField else
  if fn.extractLsb' 0 6 = 2#6 then if b = 0#5 ∧ fn.extractLsb' 6 5 = 0#5 then .ok (.mrecv d a) else .error .nonzeroField else
  if fn.extractLsb' 0 6 = 34#6 then if b = 0#5 ∧ fn.extractLsb' 6 5 = 0#5 then .ok (.mrecvN d a) else .error .nonzeroField else
  .error .reservedMinor

/-- Major 0x39 (Nmc, R256). -/
def decodeNmc (d a b : BitVec 5) (fn : BitVec 11) : Except Reject Instr :=
  if fn.extractLsb' 0 6 = 0#6 then if b = 0#5 ∧ fn.extractLsb' 6 5 = 0#5 then .ok (.nmc d a) else .error .nonzeroField else
  if fn.extractLsb' 0 6 = 1#6 then if b = 0#5 ∧ fn.extractLsb' 6 5 = 0#5 then .ok (.nmres d a) else .error .nonzeroField else
  if fn.extractLsb' 0 6 = 33#6 then if b = 0#5 ∧ fn.extractLsb' 6 5 = 0#5 then .ok (.nmresAbandon d a) else .error .nonzeroField else
  if fn.extractLsb' 0 6 = 2#6 then if b = 0#5 ∧ fn.extractLsb' 6 5 = 0#5 then .ok (.nmstat d a) else .error .nonzeroField else
  .error .reservedMinor

/-- Major 0x3A (Cim, R256). -/
def decodeCim (d a b : BitVec 5) (fn : BitVec 11) : Except Reject Instr :=
  if fn.extractLsb' 0 5 = 0#5 then if d = 0#5 ∧ fn.extractLsb' 9 2 = 0#2 then .ok (.stat a b (fn.extractLsb' 5 4)) else .error .nonzeroField else
  if fn.extractLsb' 0 5 = 1#5 then if d = 0#5 ∧ fn.extractLsb' 5 6 = 0#6 then .ok (.unstat a b) else .error .nonzeroField else
  if fn.extractLsb' 0 5 = 2#5 then if d = 0#5 ∧ b = 0#5 ∧ fn.extractLsb' 5 6 = 0#6 then .ok (.ctbl a) else .error .nonzeroField else
  .error .reservedMinor

/-- The opcode map (R256) on the five fields. -/
def decodeFields (m : BitVec 6) (d a b : BitVec 5) (fn : BitVec 11) : Except Reject Instr :=
  if m = 0#6 then decodeSys d a b fn else
  if m = 1#6 then if a = 0#5 ∧ b.extractLsb' 1 4 = 0#4 then .ok (.crd d (b.extractLsb' 0 1 ++ fn)) else .error .nonzeroField else
  if m = 2#6 then if d = 0#5 ∧ b.extractLsb' 1 4 = 0#4 then .ok (.cwr a (b.extractLsb' 0 1 ++ fn)) else .error .nonzeroField else
  if m = 3#6 then decodeAlu d a b fn else
  if m = 4#6 then decodeMulDiv d a b fn else
  if m = 5#6 then .ok (.addi d a (b ++ fn)) else
  if m = 6#6 then .ok (.andi d a (b ++ fn)) else
  if m = 7#6 then .ok (.ori d a (b ++ fn)) else
  if m = 8#6 then .ok (.xori d a (b ++ fn)) else
  if m = 9#6 then .ok (.slti d a (b ++ fn)) else
  if m = 10#6 then .ok (.sltiu d a (b ++ fn)) else
  if m = 11#6 then decodeShi d a b fn else
  if m = 12#6 then if a = 0#5 then .ok (.li d (b ++ fn)) else .error .nonzeroField else
  if m = 13#6 then .ok (.lis d a (b ++ fn)) else
  if m = 14#6 then if a = 0#5 then .ok (.adpc d (b ++ fn)) else .error .nonzeroField else
  if m = 15#6 then if fn = 0#11 then .ok (.gaddr d a b) else .error .nonzeroField else
  if m = 16#6 then decodePsimd d a b fn else
  if m = 17#6 then .ok (.beq d a (b ++ fn)) else
  if m = 18#6 then .ok (.bne d a (b ++ fn)) else
  if m = 19#6 then .ok (.blt d a (b ++ fn)) else
  if m = 20#6 then .ok (.bge d a (b ++ fn)) else
  if m = 21#6 then .ok (.bltu d a (b ++ fn)) else
  if m = 22#6 then .ok (.bgeu d a (b ++ fn)) else
  if m = 23#6 then .ok (.j (d ++ a ++ b ++ fn)) else
  if m = 24#6 then .ok (.jal (d ++ a ++ b ++ fn)) else
  if m = 25#6 then .ok (.jalr d a (b ++ fn)) else
  if m = 26#6 then .ok (.ldb d a (b ++ fn)) else
  if m = 27#6 then .ok (.ldh d a (b ++ fn)) else
  if m = 28#6 then .ok (.ldw d a (b ++ fn)) else
  if m = 29#6 then .ok (.ldd d a (b ++ fn)) else
  if m = 30#6 then .ok (.ldbu d a (b ++ fn)) else
  if m = 31#6 then .ok (.ldhu d a (b ++ fn)) else
  if m = 32#6 then .ok (.ldwu d a (b ++ fn)) else
  if m = 33#6 then .ok (.stb d a (b ++ fn)) else
  if m = 34#6 then .ok (.sth d a (b ++ fn)) else
  if m = 35#6 then .ok (.stw d a (b ++ fn)) else
  if m = 36#6 then .ok (.std d a (b ++ fn)) else
  if m = 37#6 then if b = 0#5 ∧ fn.extractLsb' 4 7 = 0#7 then .ok (.lda d a (fn.extractLsb' 3 1) (fn.extractLsb' 2 1) (fn.extractLsb' 0 2)) else .error .nonzeroField else
  if m = 38#6 then if d = 0#5 ∧ fn.extractLsb' 3 8 = 0#8 then .ok (.str a b (fn.extractLsb' 2 1) (fn.extractLsb' 0 2)) else .error .nonzeroField else
  if m = 39#6 then decodeAmo d a b fn else
  if m = 40#6 then if fn.extractLsb' 1 10 = 0#10 then .ok (.cas d a b (fn.extractLsb' 0 1)) else .error .nonzeroField else
  if m = 41#6 then decodeMemc d a b fn else
  if m = 42#6 then decodeFop d a b fn else
  if m = 43#6 then decodeFma d a b fn else
  if m = 44#6 then decodeTop d a b fn else
  if m = 45#6 then decodeTfma d a b fn else
  if m = 46#6 then if b.extractLsb' 2 3 = 0#3 then .ok (.cvt d a (b.extractLsb' 1 1) (b.extractLsb' 0 1) (fn.extractLsb' 8 3) (fn.extractLsb' 4 4) (fn.extractLsb' 0 4)) else .error .nonzeroField else
  if m = 47#6 then decodeVar d a b fn else
  if m = 48#6 then decodeVsf d a b fn else
  if m = 49#6 then decodeVxf d a b fn else
  if m = 50#6 then decodeVrd d a b fn else
  if m = 51#6 then decodeVct d a b fn else
  if m = 52#6 then decodeQpush d a b fn else
  if m = 53#6 then decodeQpop d a b fn else
  if m = 54#6 then decodeTask d a b fn else
  if m = 55#6 then decodeSync d a b fn else
  if m = 56#6 then decodeMsg d a b fn else
  if m = 57#6 then decodeNmc d a b fn else
  if m = 58#6 then decodeCim d a b fn else
  .error .reservedMajor

/-- The fields of a word read through the map, before the checks of well-formedness. -/
def decodeRaw (w : BitVec 32) : Except Reject Instr :=
  decodeFields (w.extractLsb' 26 6) (w.extractLsb' 21 5) (w.extractLsb' 16 5) (w.extractLsb' 11 5) (w.extractLsb' 0 11)

/-- The decoder: total on any word, rejecting by name (R258). -/
def decode (w : BitVec 32) : Except Reject Instr :=
  match decodeRaw w with
  | .error r => .error r
  | .ok i =>
    match i.defect with
    | none => .ok i
    | some r => .error r

/-- The word of an instruction, from the same tables; `none` for an operation or event that has no word. -/
def encode : Instr → Option (BitVec 32)
  | .nop => some (word 0#6 0#5 0#5 0#5 1#11)
  | .trap a => some (word 0#6 0#5 a 0#5 2#11)
  | .eret => some (word 0#6 0#5 0#5 0#5 3#11)
  | .upret a => some (word 0#6 0#5 a 0#5 4#11)
  | .wfe => some (word 0#6 0#5 0#5 0#5 5#11)
  | .brk => some (word 0#6 0#5 0#5 0#5 6#11)
  | .replay => some (word 0#6 0#5 0#5 0#5 7#11)
  | .tinv a b => some (word 0#6 0#5 a b 8#11)
  | .halt => some (word 0#6 0#5 0#5 0#5 9#11)
  | .crd d x => some (word 1#6 d 0#5 (0#4 ++ x.extractLsb' 11 1) (x.extractLsb' 0 11))
  | .cwr a x => some (word 2#6 0#5 a (0#4 ++ x.extractLsb' 11 1) (x.extractLsb' 0 11))
  | .add d a b => some (word 3#6 d a b 0#11)
  | .sub d a b => some (word 3#6 d a b 1#11)
  | .and d a b => some (word 3#6 d a b 2#11)
  | .or d a b => some (word 3#6 d a b 3#11)
  | .xor d a b => some (word 3#6 d a b 4#11)
  | .sll d a b => some (word 3#6 d a b 5#11)
  | .srl d a b => some (word 3#6 d a b 6#11)
  | .sra d a b => some (word 3#6 d a b 7#11)
  | .slt d a b => some (word 3#6 d a b 8#11)
  | .sltu d a b => some (word 3#6 d a b 9#11)
  | .min d a b => some (word 3#6 d a b 10#11)
  | .max d a b => some (word 3#6 d a b 11#11)
  | .minu d a b => some (word 3#6 d a b 12#11)
  | .maxu d a b => some (word 3#6 d a b 13#11)
  | .clz d a => some (word 3#6 d a 0#5 14#11)
  | .ctz d a => some (word 3#6 d a 0#5 15#11)
  | .popc d a => some (word 3#6 d a 0#5 16#11)
  | .sext d a b => some (word 3#6 d a b 17#11)
  | .zext d a b => some (word 3#6 d a b 18#11)
  | .mul d a b => some (word 4#6 d a b 0#11)
  | .mulh d a b => some (word 4#6 d a b 1#11)
  | .mulhu d a b => some (word 4#6 d a b 2#11)
  | .div d a b => some (word 4#6 d a b 3#11)
  | .divu d a b => some (word 4#6 d a b 4#11)
  | .rem d a b => some (word 4#6 d a b 5#11)
  | .remu d a b => some (word 4#6 d a b 6#11)
  | .addi d a i => some (word 5#6 d a (i.extractLsb' 11 5) (i.extractLsb' 0 11))
  | .andi d a i => some (word 6#6 d a (i.extractLsb' 11 5) (i.extractLsb' 0 11))
  | .ori d a i => some (word 7#6 d a (i.extractLsb' 11 5) (i.extractLsb' 0 11))
  | .xori d a i => some (word 8#6 d a (i.extractLsb' 11 5) (i.extractLsb' 0 11))
  | .slti d a i => some (word 9#6 d a (i.extractLsb' 11 5) (i.extractLsb' 0 11))
  | .sltiu d a i => some (word 10#6 d a (i.extractLsb' 11 5) (i.extractLsb' 0 11))
  | .slli d a n => some (word 11#6 d a 0#5 (0#5 ++ n))
  | .srli d a n => some (word 11#6 d a 0#5 (1#5 ++ n))
  | .srai d a n => some (word 11#6 d a 0#5 (2#5 ++ n))
  | .li d i => some (word 12#6 d 0#5 (i.extractLsb' 11 5) (i.extractLsb' 0 11))
  | .lis d a i => some (word 13#6 d a (i.extractLsb' 11 5) (i.extractLsb' 0 11))
  | .adpc d i => some (word 14#6 d 0#5 (i.extractLsb' 11 5) (i.extractLsb' 0 11))
  | .gaddr d a b => some (word 15#6 d a b 0#11)
  | .padd d a b t s w => some (word 16#6 d a b (0#4 ++ t ++ s ++ w ++ 0#3))
  | .psub d a b t s w => some (word 16#6 d a b (0#4 ++ t ++ s ++ w ++ 1#3))
  | .pmul d a b t s w => some (word 16#6 d a b (0#4 ++ t ++ s ++ w ++ 2#3))
  | .pmin d a b s w => some (word 16#6 d a b (0#5 ++ s ++ w ++ 3#3))
  | .pmax d a b s w => some (word 16#6 d a b (0#5 ++ s ++ w ++ 4#3))
  | .pavg d a b s w => some (word 16#6 d a b (0#5 ++ s ++ w ++ 5#3))
  | .beq b a i => some (word 17#6 b a (i.extractLsb' 11 5) (i.extractLsb' 0 11))
  | .bne b a i => some (word 18#6 b a (i.extractLsb' 11 5) (i.extractLsb' 0 11))
  | .blt b a i => some (word 19#6 b a (i.extractLsb' 11 5) (i.extractLsb' 0 11))
  | .bge b a i => some (word 20#6 b a (i.extractLsb' 11 5) (i.extractLsb' 0 11))
  | .bltu b a i => some (word 21#6 b a (i.extractLsb' 11 5) (i.extractLsb' 0 11))
  | .bgeu b a i => some (word 22#6 b a (i.extractLsb' 11 5) (i.extractLsb' 0 11))
  | .j o => some (word 23#6 (o.extractLsb' 21 5) (o.extractLsb' 16 5) (o.extractLsb' 11 5) (o.extractLsb' 0 11))
  | .jal o => some (word 24#6 (o.extractLsb' 21 5) (o.extractLsb' 16 5) (o.extractLsb' 11 5) (o.extractLsb' 0 11))
  | .jalr d a i => some (word 25#6 d a (i.extractLsb' 11 5) (i.extractLsb' 0 11))
  | .ldb d a i => some (word 26#6 d a (i.extractLsb' 11 5) (i.extractLsb' 0 11))
  | .ldh d a i => some (word 27#6 d a (i.extractLsb' 11 5) (i.extractLsb' 0 11))
  | .ldw d a i => some (word 28#6 d a (i.extractLsb' 11 5) (i.extractLsb' 0 11))
  | .ldd d a i => some (word 29#6 d a (i.extractLsb' 11 5) (i.extractLsb' 0 11))
  | .ldbu d a i => some (word 30#6 d a (i.extractLsb' 11 5) (i.extractLsb' 0 11))
  | .ldhu d a i => some (word 31#6 d a (i.extractLsb' 11 5) (i.extractLsb' 0 11))
  | .ldwu d a i => some (word 32#6 d a (i.extractLsb' 11 5) (i.extractLsb' 0 11))
  | .stb b a i => some (word 33#6 b a (i.extractLsb' 11 5) (i.extractLsb' 0 11))
  | .sth b a i => some (word 34#6 b a (i.extractLsb' 11 5) (i.extractLsb' 0 11))
  | .stw b a i => some (word 35#6 b a (i.extractLsb' 11 5) (i.extractLsb' 0 11))
  | .std b a i => some (word 36#6 b a (i.extractLsb' 11 5) (i.extractLsb' 0 11))
  | .lda d a u s z => some (word 37#6 d a 0#5 (0#7 ++ u ++ s ++ z))
  | .str a b s z => some (word 38#6 0#5 a b (0#8 ++ s ++ z))
  | .amoAdd d a b n w => some (word 39#6 d a b (0#5 ++ n ++ w ++ 0#4))
  | .amoAnd d a b n w => some (word 39#6 d a b (0#5 ++ n ++ w ++ 1#4))
  | .amoOr d a b n w => some (word 39#6 d a b (0#5 ++ n ++ w ++ 2#4))
  | .amoXor d a b n w => some (word 39#6 d a b (0#5 ++ n ++ w ++ 3#4))
  | .amoMin d a b n w => some (word 39#6 d a b (0#5 ++ n ++ w ++ 4#4))
  | .amoMax d a b n w => some (word 39#6 d a b (0#5 ++ n ++ w ++ 5#4))
  | .amoMinu d a b n w => some (word 39#6 d a b (0#5 ++ n ++ w ++ 6#4))
  | .amoMaxu d a b n w => some (word 39#6 d a b (0#5 ++ n ++ w ++ 7#4))
  | .amoSwap d a b n w => some (word 39#6 d a b (0#5 ++ n ++ w ++ 8#4))
  | .amoFadd d a b n w => some (word 39#6 d a b (0#5 ++ n ++ w ++ 9#4))
  | .amoFmax d a b n w => some (word 39#6 d a b (0#5 ++ n ++ w ++ 10#4))
  | .amoFmin d a b n w => some (word 39#6 d a b (0#5 ++ n ++ w ++ 11#4))
  | .amoTadd d a b n w => some (word 39#6 d a b (0#5 ++ n ++ w ++ 12#4))
  | .cas d a b w => some (word 40#6 d a b (0#10 ++ w))
  | .fenceP => some (word 41#6 0#5 0#5 0#5 0#11)
  | .fenceS => some (word 41#6 0#5 0#5 0#5 1#11)
  | .clean a b => some (word 41#6 0#5 a b 2#11)
  | .inv a b => some (word 41#6 0#5 a b 3#11)
  | .clinv a b => some (word 41#6 0#5 a b 4#11)
  | .pref a b => some (word 41#6 0#5 a b 5#11)
  | .fadd d a b r => some (word 42#6 d a b (r ++ 0#8))
  | .fsub d a b r => some (word 42#6 d a b (r ++ 1#8))
  | .fmul d a b r => some (word 42#6 d a b (r ++ 2#8))
  | .fdiv d a b r => some (word 42#6 d a b (r ++ 3#8))
  | .fsqrt d a r => some (word 42#6 d a 0#5 (r ++ 4#8))
  | .fmin d a b => some (word 42#6 d a b 5#11)
  | .fmax d a b => some (word 42#6 d a b 6#11)
  | .feq d a b => some (word 42#6 d a b 7#11)
  | .flt d a b => some (word 42#6 d a b 8#11)
  | .fle d a b => some (word 42#6 d a b 9#11)
  | .fclass d a => some (word 42#6 d a 0#5 10#11)
  | .fma d a b c r => some (word 43#6 d a b (c ++ r ++ 0#3))
  | .fms d a b c r => some (word 43#6 d a b (c ++ r ++ 1#3))
  | .fnma d a b c r => some (word 43#6 d a b (c ++ r ++ 2#3))
  | .fnms d a b c r => some (word 43#6 d a b (c ++ r ++ 3#3))
  | .tadd d a b r => some (word 44#6 d a b (r ++ 0#8))
  | .tsub d a b r => some (word 44#6 d a b (r ++ 1#8))
  | .tmul d a b r => some (word 44#6 d a b (r ++ 2#8))
  | .tdiv d a b r => some (word 44#6 d a b (r ++ 3#8))
  | .tsqrt d a r => some (word 44#6 d a 0#5 (r ++ 4#8))
  | .tcls d a w => some (word 44#6 d a 0#5 (0#4 ++ w ++ 5#5))
  | .tfma d a b c r => some (word 45#6 d a b (c ++ r ++ 0#3))
  | .tfms d a b c r => some (word 45#6 d a b (c ++ r ++ 1#3))
  | .tfnma d a b c r => some (word 45#6 d a b (c ++ r ++ 2#3))
  | .tfnms d a b c r => some (word 45#6 d a b (c ++ r ++ 3#3))
  | .cvt d a p q r t s => some (word 46#6 d a (0#3 ++ p ++ q) (r ++ t ++ s))
  | .vadd d a b f p q s => some (word 47#6 d a b (0#4 ++ f ++ p ++ q ++ s))
  | .vsub d a b f p q s => some (word 47#6 d a b (1#4 ++ f ++ p ++ q ++ s))
  | .vmul d a b f p q s => some (word 47#6 d a b (2#4 ++ f ++ p ++ q ++ s))
  | .vfma d a b f p q s => some (word 47#6 d a b (3#4 ++ f ++ p ++ q ++ s))
  | .vmin d a b f p q s => some (word 47#6 d a b (4#4 ++ f ++ p ++ q ++ s))
  | .vmax d a b f p q s => some (word 47#6 d a b (5#4 ++ f ++ p ++ q ++ s))
  | .vand d a b f p q s => some (word 47#6 d a b (6#4 ++ f ++ p ++ q ++ s))
  | .vor d a b f p q s => some (word 47#6 d a b (7#4 ++ f ++ p ++ q ++ s))
  | .vxor d a b f p q s => some (word 47#6 d a b (8#4 ++ f ++ p ++ q ++ s))
  | .vshl d a b f p q s => some (word 47#6 d a b (9#4 ++ f ++ p ++ q ++ s))
  | .vcmpeq d a b f p q s => some (word 47#6 d a b (10#4 ++ f ++ p ++ q ++ s))
  | .vcmplt d a b f p q s => some (word 47#6 d a b (11#4 ++ f ++ p ++ q ++ s))
  | .vsel d a b f p q s => some (word 47#6 d a b (12#4 ++ f ++ p ++ q ++ s))
  | .vexp d a f p q => some (word 48#6 d a 0#5 (0#4 ++ f ++ p ++ q ++ 0#1))
  | .vlog2 d a f p q => some (word 48#6 d a 0#5 (1#4 ++ f ++ p ++ q ++ 0#1))
  | .vrcp d a f p q => some (word 48#6 d a 0#5 (2#4 ++ f ++ p ++ q ++ 0#1))
  | .vrsq d a f p q => some (word 48#6 d a 0#5 (3#4 ++ f ++ p ++ q ++ 0#1))
  | .vsigm d a f p q => some (word 48#6 d a 0#5 (4#4 ++ f ++ p ++ q ++ 0#1))
  | .vtanh d a f p q => some (word 48#6 d a 0#5 (5#4 ++ f ++ p ++ q ++ 0#1))
  | .vmov d a f p q => some (word 49#6 d a 0#5 (0#4 ++ f ++ p ++ q ++ 0#1))
  | .vset d b f p => some (word 49#6 d 0#5 b (1#4 ++ f ++ p ++ 1#2))
  | .vcvt d a c f p q => some (word 49#6 d a (0#1 ++ c) (2#4 ++ f ++ p ++ q ++ 0#1))
  | .vgath d a b f p q => some (word 49#6 d a b (3#4 ++ f ++ p ++ q ++ 0#1))
  | .vscat d a b f q => some (word 49#6 d a b (4#4 ++ f ++ 0#1 ++ q ++ 0#1))
  | .viota d b f p => some (word 49#6 d 0#5 b (5#4 ++ f ++ p ++ 1#2))
  | .vrsum d a f q => some (word 50#6 d a 0#5 (0#4 ++ f ++ 0#1 ++ q ++ 0#1))
  | .vrmax d a f q => some (word 50#6 d a 0#5 (1#4 ++ f ++ 0#1 ++ q ++ 0#1))
  | .vrmin d a f q => some (word 50#6 d a 0#5 (2#4 ++ f ++ 0#1 ++ q ++ 0#1))
  | .vdot d a b f q => some (word 50#6 d a b (3#4 ++ f ++ 0#1 ++ q ++ 0#1))
  | .vclaim d a => some (word 51#6 d a 0#5 0#11)
  | .vrel => some (word 51#6 0#5 0#5 0#5 128#11)
  | .vscan d a b f q => some (word 51#6 d a b (2#4 ++ f ++ 0#1 ++ q ++ 0#1))
  | .qpush a q => some (word 52#6 0#5 a (q ++ 0#1) 0#11)
  | .qpushN d a q => some (word 52#6 d a (q ++ 0#1) 1#11)
  | .qpop d q => some (word 53#6 d 0#5 (q ++ 0#1) 0#11)
  | .qpopN d q => some (word 53#6 d 0#5 (q ++ 0#1) 1#11)
  | .take d a => some (word 54#6 d a 0#5 0#11)
  | .spawn a => some (word 54#6 0#5 a 0#5 1#11)
  | .spawnt a => some (word 54#6 0#5 a 0#5 2#11)
  | .yield a => some (word 54#6 0#5 a 0#5 3#11)
  | .done => some (word 54#6 0#5 0#5 0#5 4#11)
  | .swp a => some (word 54#6 0#5 a 0#5 5#11)
  | .widf d a k => some (word 54#6 d a 0#5 (0#3 ++ k ++ 6#5))
  | .bar => some (word 55#6 0#5 0#5 0#5 0#11)
  | .bars => some (word 55#6 0#5 0#5 0#5 1#11)
  | .waitp => some (word 55#6 0#5 0#5 0#5 2#11)
  | .ttload a => some (word 55#6 0#5 a 0#5 3#11)
  | .armPush a b c => some (word 55#6 0#5 a b (c ++ 4#7))
  | .armEvent a c => some (word 55#6 0#5 a 0#5 (c ++ 36#7))
  | .armWake a c => some (word 55#6 0#5 a 0#5 (c ++ 68#7))
  | .ctradd a c => some (word 55#6 0#5 a 0#5 (c ++ 5#7))
  | .ctrrd d c => some (word 55#6 d 0#5 0#5 (c ++ 6#7))
  | .waitc d a c => some (word 55#6 d a 0#5 (c ++ 7#7))
  | .msend d a b => some (word 56#6 d a b 0#11)
  | .msendw d a b => some (word 56#6 d a b 1#11)
  | .mrecv d a => some (word 56#6 d a 0#5 2#11)
  | .mrecvN d a => some (word 56#6 d a 0#5 34#11)
  | .nmc d a => some (word 57#6 d a 0#5 0#11)
  | .nmres d a => some (word 57#6 d a 0#5 1#11)
  | .nmresAbandon d a => some (word 57#6 d a 0#5 33#11)
  | .nmstat d a => some (word 57#6 d a 0#5 2#11)
  | .stat a b w => some (word 58#6 0#5 a b (0#2 ++ w ++ 0#5))
  | .unstat a b => some (word 58#6 0#5 a b 1#11)
  | .ctbl a => some (word 58#6 0#5 a 0#5 2#11)
  | .ctblBankWrite _ => none
  | .mxRun _ _ => none
  | .mxSave _ => none
  | .mxRestore _ => none
  | .mxAcc _ => none
  | .mxCtswap _ => none
  | .twGet _ => none
  | .twPut _ => none
  | .twMcast _ => none
  | .ceCopy _ => none
  | .ceFill _ => none
  | .ceMigrate _ => none
  | .gkGather _ => none
  | .gkBag _ => none
  | .gkScatadd _ => none
  | .gkKdir _ => none
  | .gkKgrp _ => none
  | .gkKprod _ => none
  | .gkKunion _ => none
  | .gkKexp _ => none
  | .gkKbcast _ => none
  | .gkJtchk _ => none
  | .clFoldarm _ => none
  | .clFoldwait _ => none
  | .nmcRequestCheck _ => none
  | .nmConfigure _ => none
  | .nmElementwise _ => none
  | .nmAggregate _ => none
  | .nmQuery _ => none
  | .nmResume _ => none
  | .nmAbandon _ => none
  | .foldArrive _ => none
  | .rootGrant _ => none
  | .loadDataArrives _ => none
  | .replyLands _ => none
  | .earlyCheckFault _ => none
  | .remoteFaultReply _ _ => none
  | .replayPass => none
  | .pageRequestAnswer _ _ => none
  | .atsInvalidation _ _ _ => none
  | .atsack _ => none
  | .hostMemRead _ => none
  | .hostMemWrite _ _ _ => none
  | .remoteAccessArrives _ _ _ _ => none
  | .replUpdateApply _ => none
  | .messageDeliver _ => none
  | .msendwTimeout _ => none
  | .triggerPush _ => none
  | .blockTransfer _ => none
  | .pull _ => none
  | .teamAdmission => none
  | .teamPlace => none
  | .quantumEnd _ => none
  | .markedSiteTimeout _ => none
  | .teamSwapOut _ => none
  | .teamSwapIn _ => none
  | .barrierRelease _ => none
  | .timetableFlit _ _ _ => none
  | .phaseEnd _ => none
  | .interruptEntry _ => none
  | .budgetExhausted _ => none
  | .timer _ => none
  | .start => none
  | .task => none
  | .team => none
  | .stop => none
  | .endCtx => none
  | .quiescent => none
  | .doorbell _ => none
  | .mgmtRegisterWrite _ _ => none
  | .zfpLaunch _ _ => none
  | .residencyReport => none
  | .linkUp _ _ _ => none
  | .portDown _ => none
  | .powerGood _ _ _ => none
  | .spdmRequest _ => none
  | .scrubStep _ => none
  | .eolUpdate _ _ => none
  | .thermalTrip => none
  | .illegalInstruction _ => none
  | .executeBoundaryFetch => none
  | .remoteWriteAcknowledgement _ => none
  | .cxlCompletion _ => none

/-- The instruction word as traps report it in TVAL (R258, R266): zero-extended; 0 for what has no word. -/
def wordOf (i : Instr) : Word := ((encode i).getD 0).setWidth 64

/-- The word at an address from its four bytes, the first at the lowest address (R4, R254). -/
def wordOfBytes (b0 b1 b2 b3 : Byte) : BitVec 32 := b3 ++ b2 ++ b1 ++ b0

/-- Decoding four bytes in memory order. -/
def decodeBytes (b0 b1 b2 b3 : Byte) : Except Reject Instr := decode (wordOfBytes b0 b1 b2 b3)

/-- Byte k of a word as the hardware stores it (R4). -/
def byteOfWord (w : BitVec 32) (k : Nat) : Byte := w.extractLsb' (8 * k) 8

/-- What the decoder reads from an instruction whose bits the opcode table numbers as w (every instruction of this
hardware is one 32-bit word, so bits at and above nbits are zero). -/
def decodeTableWord (nbits w : Nat) : Option Instr :=
  let x : BitVec 32 := BitVec.ofNat 32 (w % 2 ^ nbits)
  match decodeBytes (byteOfWord x 0) (byteOfWord x 1) (byteOfWord x 2) (byteOfWord x 3) with
  | .ok i => some i
  | .error _ => none

end Sys2Proof
end

