-- ==== Sys2Proof/Machine/State.lean ====
section
/-! DEFINITION. The state of one package (one node) as plain data: every core, the clusters, the homes and DRAM, the
Mules, the scheduling queues and teams, the Bellwether's registers, and what is under way between them. Reset values
stand in `State.reset` and `Core.reset`; where the spec gives none, log entries 5 and 6 name the value. -/

namespace Sys2Proof.Machine

/-! ## Why a step can stop -/

/-- Why the machine stops with a fault. -/
inductive Fault where
  /-- Raised by `step` alone, when power has been removed from the compute dies and stacks: "Everything on the device is
  then lost" (R446). Safe: nothing runs on such a device. -/
  | noPower
  deriving DecidableEq, Repr

/-- Why an instruction has no meaning here. -/
inductive Refusal where
  /-- Raised by an arm of `exec` for an instruction not modelled yet, with the table's mnemonic. Safe: the machine stops
  where the hardware goes on. -/
  | notModelled (mnemonic : String)
  deriving DecidableEq, Repr

/-! ## Memory -/

/-- Bytes by address, in ONE canonical form: addresses strictly rising, no entry equal to what an unlisted address reads
as (log entry 6). The key is the address: a local address, a DRAM address, a host physical address or a VA. -/
abbrev Memory := List Host.Cell

/-- What an unlisted address reads as: zero (log entry 6). -/
def Memory.unlisted : Byte := 0#8

/-- The first address is at or above `lo`, every later one above the one before it, and no byte is the unlisted one. -/
def Memory.wfFrom (lo : Nat) : Memory → Bool
  | [] => true
  | (a, b) :: rest => decide (lo ≤ a) && (b != Memory.unlisted) && Memory.wfFrom (a + 1) rest

/-- The canonical form of a memory. -/
def Memory.wf (m : Memory) : Bool := Memory.wfFrom 0 m

/-! ## Small types -/

/-- Execution mode (R173). -/
inductive Mode where
  | user
  | system
  deriving DecidableEq, Repr

/-- Whether a core runs: no context (before START or after END), running, or stopped by HALT or a double trap (R292, R420). -/
inductive RunState where
  | noContext
  | running
  | halted
  deriving DecidableEq, Repr

/-- The 32 general registers as the register cache holds them; entry 0 is never read (R250). -/
abbrev Regs := Vector Word 32

/-- LPBi (R17). -/
structure LpuBase where
  base : BitVec 13
  en : Bit
  wr : Bit
  rd : Bit
  deriving DecidableEq, Repr

/-- The control registers of a core (R251), field by field. TB is the package's (State.tb). -/
structure Ctl where
  /-- WP [18:9] (R36) -/
  wpa : BitVec 10
  /-- XB [18:6] (R31) -/
  xb : BitVec 13
  /-- ST (R173) -/
  mode : Mode
  nte : Bit
  sre : Bit
  rm : BitVec 2
  /-- TV [18:10] -/
  tvb : BitVec 9
  /-- UV [41:32] and [16:2] (R113) -/
  uws : BitVec 10
  upc : BitVec 15
  /-- TWP [18:9] -/
  twa : BitVec 10
  cause : BitVec 8
  tval : Word
  /-- EPC [63:2] -/
  epc : BitVec 62
  bg : Word
  dl : Word
  /-- VL: the current lane grant -/
  vl : BitVec 9
  vn : BitVec 16
  lcn : Word
  seed : Word
  /-- FFLAGS: NV DZ OF UF NX in bits 4 to 0 (R174) -/
  fflags : BitVec 5
  node : BitVec 9
  lhp : Word
  lpb : Vector LpuBase 8
  /-- LIMIT of LPLi (R18) -/
  lpl : Vector (BitVec 13) 8
  cyc : Word
  ret : Word
  sqz : Word
  cmt : Word
  deriving DecidableEq, Repr

/-! ## Accesses, faults and parks -/

/-- A translation fault: the upcall kind (R112), the reason (R108) and, for kind 0x44, the denied destinations (R149). -/
structure FaultInfo where
  kind : BitVec 8
  reason : BitVec 8
  deny : BitVec 16
  deriving DecidableEq, Repr

/-- What goes to a Mule's translating place: an NMC request of four doublewords (R309), or NMRES with its abandon bit (R311). -/
inductive NmReq where
  | request (w0 w1 w2 w3 : Word)
  | resume
  | abandon
  deriving DecidableEq, Repr

/-- What a global access does; sizes in bytes. -/
inductive AccKind where
  | load (size : Nat) (signed : Bool)
  | store (size : Nat) (data : Word)
  | amo (op : BitVec 4) (wide : Bit) (y : Word) (noReturn : Bit)
  | cas (wide : Bit) (expected new : Word)
  | lda (size : Nat) (signed scopeS : Bool)
  | str (size : Nat) (data : Word) (scopeS : Bool)
  | nmc (r : NmReq)
  /-- bytes of one remote line that a commit sent (R111), newest first -/
  | bytes (cells : List Host.Cell)
  deriving DecidableEq, Repr

/-- A global access of a core: what it does, its address and its destination register (g0 when it has none). -/
structure Access where
  kind : AccKind
  va : Word
  reg : Reg
  deriving DecidableEq, Repr

/-- Whose register a reply writes: the core (2,048 + the number of another node for an NMC of a
remote core), the workspace current at issue (in 512-byte units), the context generation,
and the team slot, its generation and the member index when a member issued it (R43, R55, R122). -/
structure Owner where
  pcn : Nat
  ws : BitVec 10
  ctxg : BitVec 16
  team : Option (Nat × BitVec 16 × Nat)
  deriving DecidableEq, Repr

/-- A parked access (R112): where it parked (a home slice 0 to 1,535, or `remotePark`), and the retries that REPLAY still owes it (R118). -/
structure Parked where
  place : Nat
  acc : Access
  owner : Owner
  fault : FaultInfo
  owed : Nat
  deriving DecidableEq, Repr

/-- A reply on its way to a pending register (R43); not ok poisons it. -/
structure Reply where
  owner : Owner
  reg : Reg
  value : Word
  ok : Bool
  deriving DecidableEq, Repr

/-! ## Chunks -/

/-- Where the writes of a chunk to one line go, as its early check found (R58, R111): an own-node line with the leaf and
the physical address of the line, a replicated line with its leaf and its address on die 0, host memory (physical line address), or a remote node. -/
inductive Dest where
  | own (leaf : Word) (pa : Nat)
  | repl (leaf : Word) (pa : Nat)
  | host (hpa : Nat)
  | remote
  deriving DecidableEq, Repr

/-- The open or closing chunk of a core (R129, R130): the number of its instructions, the copies that a squash puts back,
the signatures (R131), the buffered global and scratchpad bytes (newest first), where each written line goes, and the number of buffered
scratchpad stores. `closing` says that its close has begun and it waits for its commit. -/
structure Chunk where
  count : Nat
  pc0 : Word
  regs0 : Regs
  pend0 : BitVec 32
  pois0 : BitVec 32
  fflags0 : BitVec 5
  gen0 : Word
  rsig : BitVec 1024
  wsig : BitVec 1024
  gbuf : List Host.Cell
  dests : List (Nat × Dest)
  sbuf : List Host.Cell
  sstores : Nat
  closing : Bool
  deriving DecidableEq, Repr

/-- A line of an L1 with its line address and its data: Clean, or, where the open chunk has stored to the line, the bytes under its
Speculative ones, which stand in the chunk (R59); and whether it has an uncorrectable error (R443). -/
structure L1Line where
  line : Nat
  data : Line
  bad : Bool
  deriving DecidableEq, Repr

/-! ## Engine queues -/

/-- What a matrix command found at its start (R353, R354): the bank and format of its weights, the place of each grid
macro (KBI, NBI, core, macro number) and the selected rows; and the readout flags so far. -/
structure MxStart where
  bank : Bit
  wf : BitVec 4
  grid : List (Nat × Nat × Nat × Nat)
  rows : List Nat
  deriving DecidableEq, Repr

/-- A pushed command (R344): its 256-bit word with its rounding code resolved, the word as it was pushed, the generator state it carries under SR (R196), the parameter block copied
with a join command (R379), whether the larger column block breaks its D checks (R351), the rows of D written and the
flags so far, its start, the start of one that a SAVE has stopped since (R360), whether a fold contribution of it is under way, its number among the commands of its core (R348), the local ranges that R144 tests
(R142), and, for a CTBL copy waiting in the command order, its table (R349; such an item takes no slot). -/
structure Cmd where
  word : BitVec 256
  pushed : BitVec 256
  gen : Word
  block : BitVec 512
  wideBad : Bool
  progress : Nat
  flags : BitVec 6
  started : Option MxStart
  begun : Option MxStart
  sent : Bool
  num : Nat
  spans : List (Nat × Nat)
  table : Option (List (BitVec 24))
  deriving DecidableEq, Repr

/-- A command that stands in a record or a saved state of a core, as its push recorded it (R25, R357; log entry 67): the address of the record and the
command's place in it. -/
structure Kept where
  addr : Nat
  place : Nat
  cmd : Cmd
  deriving DecidableEq, Repr

/-- One of a core's queues q0 to q4: commands in push order and completion elements in posting order (R263, R346); `loose` names the
places of the elements of SAVE and RESTORE, which hold no slot (R359). -/
structure EngineQ where
  cmds : List Cmd
  elems : List (BitVec 64)
  loose : List Nat
  deriving DecidableEq, Repr

/-- What an armed action does when it fires (R226). A push carries its class's queue and the prepared command. -/
inductive ArmKind where
  | push (q : Nat) (c : Cmd)
  | event
  | wake
  deriving DecidableEq, Repr

/-- An armed action (R226): counter, threshold, kind. -/
structure Armed where
  ctr : BitVec 4
  thr : BitVec 32
  kind : ArmKind
  deriving DecidableEq, Repr

/-- A trigger counter: value and sticky saturation bit (R226). -/
structure Counter where
  value : BitVec 32
  sat : Bit
  deriving DecidableEq, Repr

/-- A mailbox message: 32 bytes and the sender's address word (R409, R411). -/
structure Message where
  data : BitVec 256
  sender : Word
  deriving DecidableEq, Repr

/-! ## Slices, teams and interrupts of a core -/

/-- The slice a core runs (R204): none, a plain task, or a member of the team in an admission slot. -/
inductive Slice where
  | none
  | plain
  | member (slot : Nat)
  deriving DecidableEq, Repr

/-- Where a member stands with respect to its barrier and communication phase (R216, R217, R401): no phase; arrived and
waiting for the release; in a phase from the root's completion on; or its phase has ended and BAR has yet to return.
The mark says that BARS arrived, not BAR. -/
inductive Phase where
  | idle
  | arrived (bars : Bool)
  | running (bars : Bool)
  | ended
  deriving DecidableEq, Repr

/-- Pending interrupts (R418). `preempt` holds the kind of an unacknowledged pre-empt interrupt and whether it has been
taken; `entered` says that the member has entered a pre-emption, which no later stop undoes (R412, R429); `event` is the raised event interrupt;
`tt` is the TVAL of a held timetable trap (R218). -/
structure Irq where
  preempt : Option (Nat × Bool)
  entered : Bool
  timer : Bool
  timerTaken : Bool
  event : Bool
  tt : Option Word
  budget : Bool
  deriving DecidableEq, Repr

/-- The worker as it stood at its TAKE, to which a released site returns (log entry 20). -/
structure Worker where
  pc : Word
  ws : BitVec 10
  mode : Mode
  regs : Regs
  deriving DecidableEq, Repr

/-- A core. -/
structure Core where
  pcn : Nat
  run : RunState
  regs : Regs
  /-- pending bits (R38): bit n for gn -/
  pend : BitVec 32
  /-- poison bits -/
  pois : BitVec 32
  pc : Word
  ctl : Ctl
  /-- generator state (R194) -/
  gen : Word
  /-- vector progress (R332) -/
  vprog : BitVec 16
  /-- remembered lane request n' (R225) -/
  nreq : BitVec 9
  /-- wake bit (R289) -/
  wake : Bool
  /-- the scratchpad (R28) -/
  spad : Memory
  /-- markings of macros 0 to 23 (R45) -/
  marks : Vector (BitVec 32) 24
  /-- 8-byte scratchpad words with an ECC error: (word number, uncorrectable) (R443) -/
  ecc : List (Nat × Bool)
  chunk : Option Chunk
  /-- squashes in a row of the present chunk (R136) -/
  streak : Nat
  /-- the L1 (R58): the line used last stands last (R60) -/
  l1 : List L1Line
  /-- a fault found by an early check and not yet parked (R111), with its translating place -/
  early : Option (Access × Nat × FaultInfo)
  /-- faults of committed remote writes and of NMC requests whose upcall is not yet raised (R111), whether the access issued in system
  mode, and its workspace -/
  late : List (Access × FaultInfo × Bool × BitVec 10)
  /-- a request to host memory or a remote node whose data has not arrived (R295, R299, R302): physical host address if any -/
  out : Option (Access × Option Nat)
  slice : Slice
  /-- member index while a member (R213) -/
  member : Nat
  /-- a member that has executed DONE (R215) -/
  finished : Bool
  phase : Phase
  /-- the member's phase parity (R216, R424) -/
  parity : BitVec 2
  /-- a timetable trap has taken the member out of a BAR that waited for the end of a phase (R218, R219) -/
  leftBar : Bool
  /-- TB at which the lanes of its BAR are granted again (R225) -/
  regrantAt : Option Nat
  /-- the network interface's timetable (R402, R405) -/
  timetable : List (BitVec 64)
  /-- flits of the running phase that the engine has executed: (entry, flit) -/
  ttDone : List (Nat × Nat)
  ctrs : Vector Counter 16
  armed : List Armed
  /-- fired pushes waiting in the trigger unit (R227), in firing order: counter (R424), queue, command -/
  fired : List (BitVec 4 × Nat × Cmd)
  qs : Vector EngineQ 5
  /-- q15: notices held (R117), and those waiting at the network interface -/
  events : List (BitVec 64)
  eventsWaiting : List (BitVec 64)
  mailbox : List Message
  irq : Irq
  /-- MSENDW in progress: the TB at its issue and its destination word (R410) -/
  msendw : Option (Word × Word)
  /-- reserved for the placement of the team in a slot (R214) -/
  reserved : Option Nat
  /-- marked as a target of the team in a slot, with the TB of the marking (R222) -/
  marked : Option (Nat × Word)
  /-- the last sequence number issued when the waiting fence began (R139) -/
  fence : Option Nat
  /-- a WFE has issued and waits (R289) -/
  waiting : Bool
  /-- the worker is blocked in TAKE (R213) -/
  taking : Bool
  /-- the worker at the TAKE that began its slice -/
  worker : Option Worker
  /-- granule that the scrubber reads next (R444) -/
  scrub : Nat
  /-- acknowledged a pre-emption and waiting in WFE (R423) -/
  acked : Bool
  /-- the core-state block that the acknowledging WFE wrote (R423, R427) -/
  ackCsb : Nat
  /-- counter increments since that acknowledgement, in arrival order: they take effect at swap-in (R416, R425) -/
  lateIncs : List (BitVec 4)
  /-- what the instruction at the PC copied when it issued, while it waits: a record or a command, with the block of a join above its 256
  bits (R344, R392) -/
  copied : Option (BitVec 768)
  /-- the AMO or CAS at the PC has been sent and its home holds it back: no interrupt is taken before its answer (R302, R136) -/
  sent : Bool
  /-- the port that the request in `out` took (R440, R441) -/
  outPort : Option Nat
  /-- commands that have been pushed on this core so far (R348) -/
  pushed : Nat
  /-- that number of each core of the cluster, by its position, before the UNSTAT at the PC issued, while it waits (R348) -/
  unstat : Option (List Nat)
  /-- commands that SAVE or an acknowledgement has written to a record, as their pushes recorded them (R25, R357, log entry 67) -/
  kept : List Kept
  /-- which command of q2 a copy engine completes next (R346; log entry 1) -/
  pick : Nat
  /-- how many lines of its range the MEMC instruction at the PC covers before an instruction boundary (R307; log entry 1) -/
  part : Option Nat
  /-- the next CLEAN or CLINV leaves its lines under way (R139, R306, R458; log entry 1) -/
  slowClean : Bool
  deriving DecidableEq, Repr

/-! ## Homes and DRAM -/

/-- A line held by an L2 slice (R61): dirty, the physical line address and the leaf its translation gave; marked for
retranslation (R110); the cores whose MX.RUN pins it (R63); with an uncorrectable error (R443). -/
structure L2Line where
  slice : Nat
  line : Nat
  data : Line
  dirty : Bool
  pa : Nat
  leaf : Word
  retrans : Bool
  pins : List Nat
  bad : Bool
  deriving DecidableEq, Repr

/-- A cached translation (R106) at a place (home slice, or 1,536 + port for an ingress interface): VA page number in
64 KiB units of its first byte, whether it is a 2 MiB page, and the leaf. -/
structure TlbEntry where
  place : Nat
  page : Nat
  big : Bool
  leaf : Word
  deriving DecidableEq, Repr

/-- An update of a replicated line in the sequencer (R76): number, line, byte mask and data, the leaf and the line's address on die 0, and the core that
stored it (1,536 for another writer). -/
structure ReplUpdate where
  num : Nat
  line : Nat
  mask : BitVec 64
  data : Line
  leaf : Word
  pa : Nat
  src : Nat
  deriving DecidableEq, Repr

/-- A write of this device to host memory or to a remote node that has not completed (R139): issuing core, its owner and whether it
issued in system mode, the bytes by host physical address or VA, newest first, and the STR or the remote atomic without a return
that it is, and the port it took (R441; none to the host). `held` says that it has faulted and waits for room in a full park, while its workspace stalls (R112). The lists hold the
oldest first. -/
structure FarWrite where
  pcn : Nat
  owner : Owner
  sys : Bool
  bytes : List Host.Cell
  rmw : Option Access
  port : Option Nat
  line : Nat
  held : Bool
  deriving DecidableEq, Repr

/-- An NMC, NMRES or NMSTAT request on its way to its translating place (R82): the access, its owner, whether it issued in system mode, and whether it
has faulted and waits for room in a full park, while its workspace stalls (R112). -/
structure NmFlight where
  acc : Access
  owner : Owner
  sys : Bool
  held : Bool
  port : Option Nat
  deriving DecidableEq, Repr

/-- A line that a CLEAN or CLINV has sent for and that is not written back yet (R139, R306, R458): core, slice, line, and whether it goes Invalid. -/
structure Cleaning where
  pcn : Nat
  slice : Nat
  line : Nat
  inv : Bool
  deriving DecidableEq, Repr

/-! ## Mules and folds -/

/-- A request at a Mule (R84): its doublewords, its owner and register, the page its first range lies in (VA base, size in
bytes, DRAM address of the page). -/
structure NmJob where
  w0 : Word
  w1 : Word
  w2 : Word
  w3 : Word
  owner : Owner
  reg : Reg
  pageVa : Nat
  pageSize : Nat
  pageDram : Nat
  deriving DecidableEq, Repr

/-- A stopped request (R90): the job, its microinstruction counter, sticky flags, stop cause and place, and, for an
aggregate, the records written and the open run (key, value, read so far). -/
structure NmStopped where
  job : NmJob
  upc : Nat
  flags : BitVec 5
  cause : BitVec 8
  bank : BitVec 5
  col : BitVec 6
  written : Nat
  run : Option (Word × Word)
  deriving DecidableEq, Repr

/-- One fold contribution (R93): destination base and length in bytes, its channel, index, format, lines; the core whose copy command sent it,
or 2,048 + the number of another node, the port it came through, and the number of the command. -/
structure Contribution where
  base : Nat
  len : Nat
  chan : Nat
  j : Nat
  ffmt : BitVec 3
  data : List Line
  sender : Nat
  port : Nat
  cmd : Nat
  deriving DecidableEq, Repr

/-- An armed fold window (R93, R94). Pages map a VA page (64 KiB units) to the DRAM address of its first byte; `lost` are the staged
contributions whose slot could not take their data. -/
structure Window where
  base : Nat
  len : Nat
  ffmt : BitVec 3
  e : Nat
  stg : Nat
  pages : List (Nat × Nat)
  next : List Nat
  staged : List (Nat × Nat)
  lost : List (Nat × Nat)
  seen : List Nat
  empty : List Nat
  flags : BitVec 5
  err : Bool
  complete : Bool
  wctr : Option (Owner × BitVec 4)
  deriving DecidableEq, Repr

/-- An NMRES that waits at a Mule (R92): whether it abandons, its register, and the page that it was translated by (R110). -/
structure NmControl where
  abandon : Bool
  owner : Owner
  reg : Reg
  page : Nat
  size : Nat
  deriving DecidableEq, Repr

/-- A Mule (R81). -/
structure Mule where
  chan : Nat
  kernel : Option Word
  queue : List NmJob
  stopped : Option NmStopped
  queries : List NmJob
  controls : List NmControl
  windows : List Window
  parked : List Contribution
  /-- the microinstruction counter of the oldest request once it runs (R91; log entry 1) -/
  mpc : Option Nat
  deriving DecidableEq, Repr

/-! ## Scheduling -/

/-- A task record (R202). -/
structure TaskRec where
  wid : Word
  entry : BitVec 32
  budget : BitVec 32
  deadline : Word
  arg : Word
  deriving DecidableEq, Repr

/-- A team record (R212). -/
structure TeamRec where
  bwid : Word
  entry : BitVec 32
  budget : BitVec 32
  deadline : Word
  arg : Word
  size : Nat
  width : Nat
  height : Nat
  onedie : Bool
  ttp : Word
  deriving DecidableEq, Repr

/-- What a queue entry holds: a plain task record, a member record of a slot, or a team record. -/
inductive Body where
  | task (r : TaskRec)
  | member (r : TaskRec) (slot index : Nat)
  | team (t : TeamRec)
  deriving DecidableEq, Repr

/-- A queue entry with its key (R203): deadline, then the stamp (TB, source, sequence). -/
structure Entry where
  body : Body
  deadline : Word
  tb : Word
  src : BitVec 11
  seq : Nat
  deriving DecidableEq, Repr

/-- The scheduling queues (R207). -/
inductive QueueId where
  | core (p : Nat)
  | cluster (k : Nat)
  | die (d : Nat)
  | package
  deriving DecidableEq, Repr

/-- A queue: its entries and its block in transit upward, not yet accepted by the parent (R208). -/
structure SchedQ where
  id : QueueId
  entries : List Entry
  upBlock : List Entry
  deriving DecidableEq, Repr

/-- What the swap area keeps of one member: its record of 0x6_1000 bytes, by offset (R54; log entry 35 on its base), in it the core-state block
(R424) at csb; and the PC at which its WFE completes, an arrival that BARS has made (R216), its notices and the interrupts that stay pending (log
entry 21). -/
structure SwapImage where
  index : Nat
  record : Memory
  ecc : List (Nat × Bool)
  pc : Word
  irq : Irq
  csb : Nat
  phase : Phase
  /-- notices of q15, and those that wait (R117, log entry 21) -/
  events : List (BitVec 64)
  /-- counter increments that fell while swapped out, in arrival order (R416) -/
  incs : List (BitVec 4)
  /-- commands in a record, as their pushes recorded them, those of q4 at their offset in this one (log entry 67) -/
  kept : List Kept
  deriving DecidableEq, Repr

/-- Where an admitted team stands (R220, R222, R427): waiting for its first placement, resident, leaving (pre-empted, members
saving themselves), swapped out, or arriving (its sites are reserved and its images not yet restored). -/
inductive TeamStatus where
  | waiting
  | resident
  | leaving
  | swappedOut
  | arriving
  deriving DecidableEq, Repr

/-- An admitted team (R220). -/
structure Team where
  slot : Nat
  gen : BitVec 16
  trec : TeamRec
  status : TeamStatus
  x0 : Nat
  y0 : Nat
  /-- has been placed before, so a placement keeps its offset (R214) -/
  placed : Bool
  quantumEnd : Word
  /-- the end of its quantum has been named (R222) -/
  expired : Bool
  /-- release cycle of its last barrier (R216) -/
  rel : Word
  /-- a timetable fault stopped its phase (R218) -/
  stopped : Bool
  images : List SwapImage
  deriving DecidableEq, Repr

/-- A flit on a link (R403): the sending team's slot, generation and parity, the site and port it arrives at, the TB of its
arrival, its data, the sender and its entry. -/
structure Flit where
  slot : Nat
  gen : BitVec 16
  parity : BitVec 2
  dst : Nat
  port : Nat
  due : Nat
  data : Line
  src : Nat
  srcEntry : Nat
  deriving DecidableEq, Repr

/-- A message under way (R410): sending core and owner, status register for MSEND, destination word and data. -/
structure Mail where
  owner : Owner
  reg : Reg
  dst : Word
  msg : Message
  deriving DecidableEq, Repr

/-- The lns6 tables of a cluster's matrix sequencer and the core it served last (R183, R350). -/
structure Cluster where
  k : Nat
  bank0 : List (BitVec 24)
  bank1 : List (BitVec 24)
  active : Bit
  last : Nat
  deriving DecidableEq, Repr

/-! ## Host, fabric and health -/

/-- An error record (R438). -/
structure ErrRec where
  ctxg : BitVec 16
  pcn : BitVec 11
  cause : BitVec 8
  type : BitVec 8
  addr : Word
  epc : Word
  tb : Word
  deriving DecidableEq, Repr

/-- A page request kept until its answer (R120): its pages, whether it means to write, its group index and its context generation. -/
structure PageRequest where
  va : Nat
  count : Nat
  write : Bool
  group : BitVec 9
  ctxg : BitVec 16
  deriving DecidableEq, Repr

/-- A fabric port (R439): link up, and what it negotiated. -/
structure Port where
  up : Bool
  version : BitVec 16
  features : Word
  deriving DecidableEq, Repr

/-- The management registers of BAR0 and the launch unit (R432, R434, R101). -/
structure Mgmt where
  state : BitVec 3
  nodew : BitVec 9
  doorbell : BitVec 16
  lqhead : BitVec 16
  errhead : BitVec 32
  prien : Bit
  root : BitVec 40
  ctxg : BitVec 16
  quantum : Word
  pqsb : Word
  pqsn : Word
  rper : Word
  prlate : Word
  mdrop : Word
  fpdrop : Word
  nmlate : Word
  eol : Word
  therm : Word
  pwr : Word
  pcap : Word
  /-- LQ as bytes, by offset from 0x2000 -/
  lq : Memory
  /-- LQOUT, ERRLOG and ROUTE by slot or node; unlisted is zero -/
  lqout : List (Nat × Word)
  errlog : List (Nat × ErrRec)
  route : List (Nat × Word)
  deriving DecidableEq, Repr

/-- The fields of the launch header that the hardware keeps using (R198, R199). -/
structure Header where
  nf : Nat
  tf : Nat
  widths : List Nat
  deriving DecidableEq, Repr

/-- What leaves the package: interrupts to the host, answers, reports, requests and data (R431, R228, R442, R15). -/
inductive Output where
  | msix (vector : Nat)
  | launchAnswer (accepted : Bool) (wid : Word) (reason : BitVec 8) (ctxg : BitVec 16)
  | residency (w0 w1 w2 : Word)
  | spdm (index : Nat) (digest : BitVec 256) (signature : BitVec 512)
  | hostData (off : BitVec 48) (data : Line)
  | hostPoison (off : BitVec 48)
  | hostWritten (off : BitVec 48)
  | remoteData (node : BitVec 9) (va : Word) (data : Line)
  | remoteFault (node : BitVec 9) (va : Word) (reason : BitVec 8)
  | remoteDone (node : BitVec 9) (va : Word)
  | remoteReply (node : BitVec 9) (data : Word)
  | remotePoison (node : BitVec 9) (va : Word)
  | zfp (port : Nat) (va : Word)
  | atsDone (tag : BitVec 16)
  | atsEvent (tag : BitVec 16) (va : Word) (bytes : Nat)
  | barData (off : Nat) (data : Word)
  deriving DecidableEq, Repr

/-- Which agent moves next (log entry 1). Beside a core's next instruction and the table's events: time passes (log entry 2),
a full cache gives up another line than its oldest (log entry 8), the write notice of a replica home arrives (R148, R165), the host writes its own memory, a remote node's memory or tables
change (log entry 10), an ECC error arises or a reader corrects one (R443, log entry 15), a sensor reads anew (log entry 14), the runtime asks for a page (R120). -/
inductive Act where
  | run (p : Nat)
  | ev (i : Instr)
  | pass (cycles : Nat)
  | evictL1 (p line : Nat)
  | evictL2 (slice line : Nat)
  | replNotice (p : Nat)
  | hostStore (hpa : Nat) (b : Byte)
  | remoteStore (va : Nat) (b : Byte)
  | remoteMap (page : Nat) (reason : Option (BitVec 8))
  | eccSpad (p w : Nat) (uncorrectable : Bool)
  | eccDram (addr : Nat) (uncorrectable : Bool)
  | eccL1 (p line : Nat)
  | eccL2 (slice line : Nat)
  | eccSoft
  | scrubDram (addr : Nat)
  | pickCopy (p n : Nat)
  | memcPart (p n : Nat)
  | slowClean (p : Nat)
  | cleanLands (n : Nat)
  | nmRuns (chan mpc : Nat)
  | barRead (off : Nat)
  | sensors (therm pwr : Word)
  | partners (l : List (BitVec 16 × Word))
  | pageRequest (r : PageRequest)
  | enableRequests
  deriving DecidableEq, Repr

/-! ## The state -/

/-- The package. `core` is the active core, the one whose instruction runs; the others stand in `others` (a core listed
nowhere is at its reset). -/
structure State where
  core : Core
  others : List Core
  agenda : List Act
  /-- cycles that a core's step takes (log entry 2) -/
  pace : Nat
  /-- counter that free values are applied to (log entry 12) -/
  free : Nat
  tb : Word
  clusters : List Cluster
  /-- the lines of the slices; of one set, the line that came first stands first -/
  l2 : List L2Line
  /-- lines of migrated rows marked as moved at their homes (R372) -/
  moved : List Nat
  /-- the translation caches; of one place, the entry used last stands first (R106) -/
  tlb : List TlbEntry
  dram : Memory
  /-- metadata codes of 128-byte blocks that are not raw, by block number (R70) -/
  codes : List (Nat × BitVec 2)
  /-- DRAM lines with an uncorrectable error, and with a correctable one (R443) -/
  dramBad : List Nat
  dramSoft : List Nat
  /-- errors that were corrected (R443) -/
  corrected : Nat
  /-- the stacks' metadata caches: stack, channel of the stack, group of 256 blocks, the oldest first (R71) -/
  metaCache : List (Nat × Nat × Nat)
  /-- lines that a CLEAN or CLINV has sent for, in the order of their sending (R139, R306, R458) -/
  cleans : List Cleaning
  hostMem : Memory
  remoteMem : Memory
  seqNext : Nat
  seqQueue : List ReplUpdate
  /-- the last number each die's replica homes have applied (R76) -/
  seqApplied : Vector Nat 4
  /-- write notices of the replica homes that have not arrived: core and line, in the order of their sending (R148, R165) -/
  notices : List (Nat × Nat)
  commits : Nat
  /-- holder of the commit reservation and the cores waiting for it (R136) -/
  reservation : Option Nat
  resWait : List Nat
  parks : List Parked
  /-- cores whose chunk waits for its grant, in order of submission (R132) -/
  submits : List Nat
  /-- pages of other nodes that fault there, in 64 KiB units, with the reason (log entry 10) -/
  remoteFaults : List (Nat × BitVec 8)
  retryWanted : Nat
  /-- NMC, NMRES and NMSTAT requests on their way to their translating place -/
  nmFlight : List NmFlight
  replies : List Reply
  hostWrites : List FarWrite
  remoteWrites : List FarWrite
  mules : List Mule
  folds : List Contribution
  queues : List SchedQ
  pulls : List QueueId
  spill : List Entry
  /-- the places of those entries in the spill region: key, number of its 64 bytes from PQSB on (R221, log entry 70) -/
  spillAt : List (Nat × Nat)
  /-- initial records of a context that wait for room in the package queue (R199, R208) -/
  initial : List TaskRec
  stamps : List (BitVec 11 × Word × Nat)
  teams : List Team
  gens : List (Nat × BitVec 16)
  ring : List Nat
  flits : List Flit
  mails : List Mail
  header : Header
  mgmt : Mgmt
  ports : Vector Port 12
  /-- version and features that the partner of each port sends when links are trained, in the order of the ports (R439, R442) -/
  partners : List (BitVec 16 × Word)
  requests : List PageRequest
  answered : List PageRequest
  ats : List (BitVec 16)
  outputs : List Output
  firmware : BitVec 256
  measured : Bool
  powered : Bool
  /-- the last context has ended and no other has begun: what still answers it comes late (R122) -/
  ended : Bool
  /-- TB from which EOL may be updated again (R445) -/
  eolNext : Nat
  deriving DecidableEq, Repr

/-! ## Reset -/

/-- Control registers at reset: the values of R31, R173, R253, R9, R17, R18, R36, R113, R174; BG, DL, LHP zero (log 5). -/
def Ctl.reset : Ctl where
  wpa := 0
  xb := 0x200
  mode := .system
  nte := 0
  sre := 0
  rm := 0
  tvb := 0
  uws := 0
  upc := 0
  twa := 0
  cause := 0
  tval := 0
  epc := 0
  bg := 0
  dl := 0
  vl := 0x020
  vn := 0
  lcn := 0
  seed := 0
  fflags := 0
  node := 0
  lhp := 0
  lpb := Vector.replicate 8 ⟨0, 0, 0, 0⟩
  lpl := Vector.replicate 8 0
  cyc := 0
  ret := 0
  sqz := 0
  cmt := 0

/-- No interrupt pending. -/
def Irq.reset : Irq := ⟨none, false, false, false, false, none, false⟩

/-- Core number p at reset: no context, registers zero (log 5), scratchpad with nothing listed (log 6). -/
def Core.reset (p : Nat) : Core where
  pcn := p
  run := .noContext
  regs := Vector.replicate 32 0
  pend := 0
  pois := 0
  pc := 0
  ctl := Ctl.reset
  gen := 0
  vprog := 0
  nreq := 32
  wake := false
  spad := []
  marks := Vector.replicate 24 0
  ecc := []
  chunk := none
  streak := 0
  l1 := []
  early := none
  late := []
  out := none
  slice := .none
  member := 0
  finished := false
  phase := .idle
  parity := 0
  leftBar := false
  regrantAt := none
  timetable := []
  ttDone := []
  ctrs := Vector.replicate 16 ⟨0, 0⟩
  armed := []
  fired := []
  qs := Vector.replicate 5 ⟨[], [], []⟩
  events := []
  eventsWaiting := []
  mailbox := []
  irq := Irq.reset
  msendw := none
  reserved := none
  marked := none
  fence := none
  waiting := false
  taking := false
  worker := none
  scrub := 0
  acked := false
  ackCsb := 0
  lateIncs := []
  copied := none
  sent := false
  outPort := none
  pushed := 0
  unstat := none
  kept := []
  pick := 0
  part := none
  slowClean := false

/-- The management registers at reset (R432, R221). -/
def Mgmt.reset : Mgmt where
  state := 0
  nodew := 0
  doorbell := 0
  lqhead := 0
  errhead := 0
  prien := 1
  root := 0
  ctxg := 0
  quantum := 0x400000
  pqsb := 0
  pqsn := 0
  rper := 0x100000
  prlate := 0
  mdrop := 0
  fpdrop := 0
  nmlate := 0
  eol := 0xFFFF
  therm := 0
  pwr := 0
  pcap := 1650
  lq := []
  lqout := []
  errlog := []
  route := []

/-- The machine right after reset: no context, core 0 active, every cache, queue and park empty. -/
def State.reset : State where
  core := Core.reset 0
  others := []
  agenda := []
  pace := 1
  free := 0
  tb := 0
  clusters := []
  l2 := []
  moved := []
  tlb := []
  dram := []
  codes := []
  dramBad := []
  dramSoft := []
  corrected := 0
  metaCache := []
  cleans := []
  hostMem := []
  remoteMem := []
  seqNext := 1
  seqQueue := []
  seqApplied := Vector.replicate 4 0
  notices := []
  commits := 0
  reservation := none
  resWait := []
  parks := []
  submits := []
  remoteFaults := []
  retryWanted := 0
  nmFlight := []
  replies := []
  hostWrites := []
  remoteWrites := []
  mules := []
  folds := []
  queues := []
  pulls := []
  spill := []
  spillAt := []
  initial := []
  stamps := []
  teams := []
  gens := []
  ring := []
  flits := []
  mails := []
  header := ⟨0, 0xFF, []⟩
  mgmt := Mgmt.reset
  ports := Vector.replicate 12 ⟨false, 0, 0⟩
  partners := []
  requests := []
  answered := []
  ats := []
  outputs := []
  firmware := 0
  measured := false
  powered := true
  ended := false
  eolNext := 2 ^ 47

/-- What a step or a meaning answers. -/
abbrev Res := Host.Outcome State Fault Refusal

end Sys2Proof.Machine
end

