-- ==== Sys2Proof/Machine/Mem.lean ====
section
/-! DEFINITION. Reading and writing memories, byte order (spec 00 R4), and bit-field helpers. Every wider access is built
from bytes here, once. -/

namespace Sys2Proof.Machine

/-! ## Bytes and little-endian numbers -/

/-- The n little-endian bytes of a number (R4). -/
def bytesOf : Nat → Nat → List Byte
  | 0, _ => []
  | n + 1, v => BitVec.ofNat 8 v :: bytesOf n (v / 256)

/-- The number that bytes spell little-endian (R4). -/
def ofBytes : List Byte → Nat
  | [] => 0
  | b :: bs => b.toNat + 256 * ofBytes bs

/-! ## Memories -/

/-- The byte at an address. -/
def Memory.read : Memory → Nat → Byte
  | [], _ => Memory.unlisted
  | (k, v) :: rest, a => if k = a then v else Memory.read rest a

/-- The cells that bytes from address a need: those that differ from the unlisted byte. -/
def Memory.cells : Nat → List Byte → Memory
  | _, [] => []
  | a, b :: bs => if b = Memory.unlisted then Memory.cells (a + 1) bs else (a, b) :: Memory.cells (a + 1) bs

/-- Writes bytes at rising addresses from a, keeping the canonical form. -/
def Memory.writeBlock (m : Memory) (a : Nat) (bs : List Byte) : Memory :=
  m.filter (fun c => decide (c.1 < a)) ++ Memory.cells a bs ++ m.filter (fun c => decide (a + bs.length ≤ c.1))

/-- Writes one byte. -/
def Memory.write (m : Memory) (a : Nat) (b : Byte) : Memory := m.writeBlock a [b]

/-- The n bytes from address a. -/
def Memory.readBlock (m : Memory) : Nat → Nat → List Byte
  | _, 0 => []
  | a, n + 1 => m.read a :: Memory.readBlock m (a + 1) n

/-- The n-byte little-endian number at address a. -/
def Memory.readLE (m : Memory) (a n : Nat) : Nat := ofBytes (m.readBlock a n)

/-- Writes the low n bytes of a number, little-endian. -/
def Memory.writeLE (m : Memory) (a n v : Nat) : Memory := m.writeBlock a (bytesOf n v)

/-- The doubleword at an address. -/
def Memory.dword (m : Memory) (a : Nat) : Word := BitVec.ofNat 64 (m.readLE a 8)

/-- The 64-byte line whose first byte is at an address. -/
def Memory.line (m : Memory) (a : Nat) : Line := BitVec.ofNat 512 (m.readLE a 64)

/-- Writes a 64-byte line. -/
def Memory.writeLine (m : Memory) (a : Nat) (l : Line) : Memory := m.writeBlock a (bytesOf 64 l.toNat)

/-- Writes cells in list order (the last wins). -/
def Memory.writeCells (m : Memory) : List Host.Cell → Memory
  | [] => m
  | (a, b) :: rest => Memory.writeCells (m.write a b) rest

/-- Writes a newest-first buffer. -/
def Memory.writeBuf (m : Memory) (buf : List Host.Cell) : Memory := m.writeCells buf.reverse

/-- The newest byte of a newest-first buffer at an address, if it holds one. -/
def bufByte (buf : List Host.Cell) (a : Nat) : Option Byte := (buf.find? (fun c => c.1 == a)).map (·.2)

/-- Cells of n little-endian bytes of v from address a, newest-first order. -/
def cellsOf (a n v : Nat) : List Host.Cell := ((List.range n).zip (bytesOf n v)).reverse.map fun p => (a + p.1, p.2)

/-! ## Lines -/

/-- Byte i of a line. -/
def lineByte (l : Line) (i : Nat) : Byte := l.extractLsb' (8 * i) 8

/-- The n-byte little-endian number at offset o of a line. -/
def lineGet (l : Line) (o n : Nat) : Nat := (l.toNat >>> (8 * o)) % 2 ^ (8 * n)

/-- A line with the n bytes at offset o replaced by the low bytes of v. -/
def lineSet (l : Line) (o n v : Nat) : Line :=
  let keep : Line := ~~~(BitVec.ofNat 512 ((2 ^ (8 * n) - 1) <<< (8 * o)))
  (l &&& keep) ||| BitVec.ofNat 512 ((v % 2 ^ (8 * n)) <<< (8 * o))

/-- A byte mask spread to bits: 0xFF for every byte whose mask bit is set. -/
def maskBits (mask : BitVec 64) : Nat → Nat
  | 0 => 0
  | n + 1 => (if mask.getLsbD n then 0xFF * 256 ^ n else 0) + maskBits mask n

/-- The masked bytes of `new` put into `old` (R59, R62). -/
def lineMerge (old : Line) (mask : BitVec 64) (new : Line) : Line :=
  let m : Line := BitVec.ofNat 512 (maskBits mask 64)
  (old &&& ~~~m) ||| (new &&& m)

/-- The mask and data of the bytes that a newest-first buffer holds for one line. -/
def bufLine (buf : List Host.Cell) (line : Nat) : BitVec 64 × Line :=
  buf.reverse.foldl (fun (acc : BitVec 64 × Line) c =>
    if c.1 / 64 = line then
      (acc.1 ||| BitVec.ofNat 64 (1 <<< (c.1 % 64)), lineSet acc.2 (c.1 % 64) 1 c.2.toNat)
    else acc) (0, 0)

/-! ## Bit fields -/

/-- x[hi:lo] of a number (R266). -/
def bits (x hi lo : Nat) : Nat := (x >>> lo) % 2 ^ (hi - lo + 1)

/-- Bit i of a number. -/
def bitAt (x i : Nat) : Bool := Nat.testBit x i

/-- The integer that w bits of a number spell in two's complement. -/
def signedOf (w x : Nat) : Int :=
  let y := x % 2 ^ w
  if y < 2 ^ (w - 1) then (y : Int) else (y : Int) - (2 ^ w : Nat)

/-- An integer modulo 2^w. -/
def wrapTo (w : Nat) (i : Int) : Nat := (i % (2 ^ w : Nat)).toNat

/-- sext(x, w) to 64 bits (R266). -/
def sextW (w : Nat) (x : Nat) : Word := BitVec.ofInt 64 (signedOf w x)

/-- zext(x, w) to 64 bits (R266). -/
def zextW (w : Nat) (x : Nat) : Word := BitVec.ofNat 64 (x % 2 ^ w)

/-- Replaces the first element that satisfies p by f of it, or appends a new one. -/
def upsert {α : Type} (p : α → Bool) (f : α → α) (new : α) : List α → List α
  | [] => [f new]
  | x :: xs => if p x then f x :: xs else x :: upsert p f new xs

/-- Inserts an element before the first one that it may precede. -/
def insertBy {α : Type} (le : α → α → Bool) (x : α) : List α → List α
  | [] => [x]
  | y :: ys => if le x y then x :: y :: ys else y :: insertBy le x ys

/-- A list in the order of `le`; equal elements keep their order. -/
def sortBy {α : Type} (le : α → α → Bool) : List α → List α
  | [] => []
  | x :: xs => insertBy le x (sortBy le xs)

/-- A list without its element number n. -/
def dropNth {α : Type} : List α → Nat → List α
  | [], _ => []
  | _ :: xs, 0 => xs
  | x :: xs, n + 1 => x :: dropNth xs n

/-- A list whose element number n is replaced. -/
def setNth {α : Type} : List α → Nat → α → List α
  | [], _, _ => []
  | _ :: xs, 0, y => y :: xs
  | x :: xs, n + 1, y => x :: setNth xs n y

end Sys2Proof.Machine
end

