-- ==== Sys2Proof/Machine/Flags.lean ====
section
/-! DEFINITION. Rounding modes, the exception flags of FFLAGS, and the generator that drives stochastic rounding (spec 08
R172, R174, R194). -/

namespace Sys2Proof.Machine

/-- The rounding modes that rm decodes to (R172). -/
inductive Rm where
  | rne
  | rtz
  | rdn
  | rup
  | sr
  deriving DecidableEq, Repr

/-- A two-bit mode: ST.RM, or the RND field of a Mule (R172, R85). -/
def rmOfTwo (r : Nat) : Rm := match r % 4 with
  | 0 => .rne
  | 1 => .rtz
  | 2 => .rdn
  | _ => .rup

/-- DYN (R172): ST.RM, or SR when ST.SRE = 1. -/
def Ctl.dyn (c : Ctl) : Rm := if c.sre = 1 then .sr else rmOfTwo c.rm.toNat

/-- The mode of an rm code (R172); 5 and 6 never reach a meaning. -/
def Ctl.rmOf (c : Ctl) (r : BitVec 3) : Rm :=
  if r = 4 then .sr else if r = 7 then c.dyn else rmOfTwo r.toNat

/-- Flags NV DZ OF UF NX in bits 4 to 0 (R174). -/
abbrev Flg := BitVec 5

def fNV : Flg := 0x10
def fDZ : Flg := 0x08
def fOF : Flg := 0x04
def fUF : Flg := 0x02
def fNX : Flg := 0x01

/-- A flag when a condition holds. -/
def flagIf (c : Bool) (f : Flg) : Flg := if c then f else 0

/-- A number rotated right by n within 32 bits. -/
def rotr32 (x n : Nat) : Nat := let k := n % 32; ((x >>> k) ||| (x <<< (32 - k))) % 2 ^ 32

/-- Draw() of R194: the output and the next state. -/
def draw (old : Word) : Nat × Word :=
  let o := old.toNat
  let next := BitVec.ofNat 64 (o * 6364136223846793005 + 1442695040888963407)
  let x := ((o ^^^ (o >>> 18)) >>> 27) % 2 ^ 32
  (rotr32 x (o >>> 59), next)

/-- A draw when the mode is SR; any other mode draws nothing (R195, R314). -/
def drawIf (rm : Rm) (gen : Word) : Nat × Word := if rm = .sr then draw gen else (0, gen)

/-- The generator state that SEED and LCN set (R194). -/
def seedState (seed lcn : Word) : Word := seed ^^^ (lcn * 0x9E3779B97F4A7C15#64)

/-- The generator state n draws further (R196). -/
def skipDraws : Nat → Word → Word
  | 0, g => g
  | n + 1, g => skipDraws n (draw g).2

end Sys2Proof.Machine
end

