-- ==== Sys2Proof/Machine/Num.lean ====
section
/-! DEFINITION. Number formats and exact arithmetic (spec 08 R169 to R193, spec 11 R257). A value is held exactly, as an
integer times a power of two; a value that is not one (a quotient, a root, an exponential) is held by its leading bits and
a mark that something follows them, which is all that one rounding needs. -/

namespace Sys2Proof.Machine

/-! ## Values -/

/-- The value of a coded number: NaR (also lns6 NaN), an IEEE NaN, an infinity, a zero, `fin neg m e more` for
±(m + δ)·2^e with δ = 0, or 0 < δ < 1 when `more`, and `root neg j` for ±2^(j/4). -/
inductive Val where
  | nar
  | nan (signalling : Bool)
  | inf (neg : Bool)
  | zero (neg : Bool)
  | fin (neg : Bool) (m : Nat) (e : Int) (more : Bool)
  | root (neg : Bool) (j : Int)
  deriving DecidableEq, Repr

/-- A code in some format, the flags of the rounding, and whether a NaR was created by a conversion (R186). -/
structure Rounded where
  code : Nat
  flags : Flg
  created : Bool
  deriving DecidableEq, Repr

/-- floor(x / 2^k) for x = (m + δ)·2^e, and whether anything was cut. -/
def floorAt (m : Nat) (e : Int) (more : Bool) (k : Int) : Nat × Bool :=
  if k ≤ e then (m <<< (e - k).toNat, more)
  else
    let s := (k - e).toNat
    (m >>> s, more || m % 2 ^ s != 0)

/-- The decision of R172 for every mode but SR: whether the magnitude q goes up, from its parity, the next bit and the rest. -/
def goesUp (rm : Rm) (neg odd half rest : Bool) : Bool := match rm with
  | .rne | .sr => half && (rest || odd)
  | .rtz => false
  | .rdn => neg && (half || rest)
  | .rup => !neg && (half || rest)

/-- Whether a magnitude goes up under SR (R195) with the draw u: t = floor(2^32 × (|x| − its lower magnitude) / the gap), and whether
anything was cut from that. Of a negative value the lower neighbour is the greater magnitude. -/
def srUp (neg : Bool) (u t : Nat) (cut : Bool) : Bool :=
  if neg then decide (2 ^ 32 - t - cut.toNat ≤ u) else decide (u < t)

/-! ## IEEE formats (R170, R171) -/

/-- Precision and the exponent of the least normal number; the code of infinity. -/
structure Ieee where
  width : Nat
  prec : Nat
  emin : Int
  infCode : Nat
  nanCode : Nat
  deriving DecidableEq, Repr

def ieee32 : Ieee := ⟨32, 24, -126, 0x7F800000, 0x7FC00000⟩
def ieeeBf16 : Ieee := ⟨16, 8, -126, 0x7F80, 0x7FC0⟩
def ieee16 : Ieee := ⟨16, 11, -14, 0x7C00, 0x7E00⟩

/-- A signed IEEE code from a magnitude code. -/
def Ieee.signed (f : Ieee) (neg : Bool) (mag : Nat) : Nat := (if neg then 2 ^ (f.width - 1) else 0) + mag

/-- What a code of an IEEE format says. -/
def Ieee.decode (f : Ieee) (x : Nat) : Val :=
  let neg := bitAt x (f.width - 1)
  let mag := x % 2 ^ (f.width - 1)
  let frac := mag % 2 ^ (f.prec - 1)
  let ex := mag >>> (f.prec - 1)
  if f.infCode < mag then .nan (!bitAt x (f.prec - 2))
  else if mag = f.infCode then .inf neg
  else if mag = 0 then .zero neg
  else if ex = 0 then .fin neg frac (f.emin - ((f.prec : Int) - 1)) false
  else .fin neg (2 ^ (f.prec - 1) + frac) (f.emin + ((ex : Int) - 1) - ((f.prec : Int) - 1)) false

/-- One rounding into an IEEE format (R171, R195): subnormals kept, tininess after rounding, and under SR a value beyond the
largest finite rounds as under RNE. -/
def Ieee.round (f : Ieee) (rm : Rm) (u : Nat) (neg : Bool) (m : Nat) (e : Int) (more : Bool) : Nat × Flg :=
  let top : Int := e + Nat.log2 m
  let dec := fun (k : Int) (edge : Bool) =>
    let (q2, cut) := floorAt m e more (k - 1)
    let q := q2 / 2
    let half := q2 % 2 == 1
    let low := floorAt m e more (k - 32)
    let up := if rm == Rm.sr && !edge then srUp neg u (low.1 % 2 ^ 32) low.2
              else goesUp rm neg (q % 2 == 1) half cut
    (q, up, half || cut)
  let ex := max top f.emin
  let k := ex - ((f.prec : Int) - 1)
  let base := (ex - f.emin).toNat * 2 ^ (f.prec - 1)
  let edge := f.infCode ≤ base + (dec k true).1 + 1
  let (q, up, inexact) := dec k edge
  let code := base + q + up.toNat
  if f.infCode ≤ code then
    let toInf := match rm with
      | .rne | .sr => true
      | .rtz => false
      | .rdn => neg
      | .rup => !neg
    (f.signed neg (if toInf then f.infCode else f.infCode - 1), fOF ||| fNX)
  else
    let r := dec (top - ((f.prec : Int) - 1)) false
    let tiny := decide (top < f.emin) && !(top == f.emin - 1 && r.1 + r.2.1.toNat == 2 ^ f.prec)
    (f.signed neg code, flagIf inexact fNX ||| flagIf (inexact && tiny) fUF)

/-! ## Tapered formats (R175 to R179) -/

/-- Width and exponent bits of a tapered format (R175). -/
structure Tap where
  n : Nat
  es : Nat
  deriving DecidableEq, Repr

def tap32 : Tap := ⟨32, 2⟩
def tap16 : Tap := ⟨16, 1⟩
def tap8 : Tap := ⟨8, 1⟩

/-- The word with only its top bit set. -/
def Tap.nar (f : Tap) : Nat := 2 ^ (f.n - 1)

/-- The class and the fields that Decode of R176 gives. -/
inductive TapClass where
  | zero
  | nar
  | real (s : Bool) (m : Nat) (k : Int) (e f fb : Nat)
  deriving DecidableEq, Repr

/-- The number of consecutive bits equal to b from bit i downward (R176). -/
def runOf (p : Nat) (b : Bool) : Nat → Nat
  | 0 => 0
  | i + 1 => if bitAt p i == b then 1 + runOf p b i else 0

/-- Decode(p, fmt) (R176). -/
def Tap.fields (f : Tap) (p : Nat) : TapClass :=
  let p := p % 2 ^ f.n
  if p = 0 then .zero
  else if p = f.nar then .nar
  else
    let s := bitAt p (f.n - 1)
    let p := if s then 2 ^ f.n - p else p
    let b := bitAt p (f.n - 2)
    let m := runOf p b (f.n - 1)
    let k : Int := if b then (m : Int) - 1 else -(m : Int)
    let left := f.n - 2 - m
    let eb := min f.es left
    let e := bits p (left - 1) (left - eb) * 2 ^ (f.es - eb)
    let e := if eb = 0 then 0 else e
    let fb := left - f.es
    .real s m k e (p % 2 ^ fb) fb

/-- The value of a tapered word (R176). -/
def Tap.decode (f : Tap) (p : Nat) : Val := match f.fields p with
  | .zero => .zero false
  | .nar => .nar
  | .real s _ k e fr fb => .fin s (2 ^ fb + fr) (2 ^ f.es * k + e - fb) false

/-- A magnitude word with a sign (R177 step 4). -/
def Tap.signed (f : Tap) (neg : Bool) (q : Nat) : Nat := if neg then 2 ^ f.n - q else q

/-- Magnitude and exponent of a positive word. -/
def Tap.mag (f : Tap) (q : Nat) : Nat × Int := match f.decode q with
  | .fin _ m e _ => (m, e)
  | _ => (0, 0)

/-- floor(2^32 × (x − lo) / (hi − lo)) of R195 for the neighbours q and q + 1 of x, and whether anything was cut. -/
def Tap.srBound (f : Tap) (q m : Nat) (e : Int) (more : Bool) : Nat × Bool :=
  let (ml, el) := f.mag q
  let (mh, eh) := f.mag (q + 1)
  let g := min (min el eh) e
  let lo := ml <<< (el - g).toNat
  let gap := mh <<< (eh - g).toNat - lo
  let x := (m <<< (e - g).toNat - lo) * 2 ^ 32
  (x / gap, more || x % gap != 0)

/-- One rounding into a tapered format (R177, R179, R195), on the bit string. -/
def Tap.round (f : Tap) (rm : Rm) (u : Nat) (neg : Bool) (m : Nat) (e : Int) (more : Bool) : Nat × Flg :=
  let max : Int := ((f.n : Int) - 2) * 2 ^ f.es
  let top : Int := e + Nat.log2 m
  if decide (max < top) || (top == max && (more || m != 2 ^ Nat.log2 m)) then (f.signed neg (f.nar - 1), fOF ||| fNX)
  else if top < -max then (f.signed neg 1, fUF ||| fNX)
  else
    let k := top / 2 ^ f.es
    let ex := (top % 2 ^ f.es).toNat
    let reg : Nat × Nat := if 0 ≤ k then (2 ^ (k.toNat + 2) - 2, k.toNat + 2) else (1, (-k).toNat + 1)
    let w := f.n + 8
    let (fr, cut) := floorAt m e more (top - w)
    let pat := (reg.1 * 2 ^ f.es + ex) * 2 ^ w + (fr - 2 ^ w)
    let sh := 1 + reg.2 + f.es + w - f.n
    let q := pat >>> sh
    let half := bitAt pat (sh - 1)
    let rest := cut || pat % 2 ^ (sh - 1) != 0
    let inexact := half || rest
    let bound := f.srBound q m e more
    let up := if rm == Rm.sr then inexact && srUp neg u bound.1 bound.2
              else goesUp rm neg (q % 2 == 1) half rest
    (f.signed neg (q + up.toNat), flagIf inexact fNX)

/-! ## lns6 (R181 to R185) -/

/-- L × 4 of an lns6 code. -/
def lnsL (c : Nat) : Int := signedOf 5 c

/-- The value of an lns6 code (R181). -/
def lnsDecode (c : Nat) : Val :=
  let c := c % 64
  if c = 0x10 then .zero false else if c = 0x30 then .nar else .root (bitAt c 5) (lnsL c)

/-- The code of ±2^(i/4). -/
def lnsCode (neg : Bool) (i : Int) : Nat := (if neg then 32 else 0) + wrapTo 5 i

/-- n fraction bits of log2 z, for z in [1, 2) given with 400 fraction bits: squaring yields one bit at a time. -/
def log2Bits : Nat → Nat → Nat → Nat
  | 0, _, acc => acc
  | n + 1, z, acc =>
    let z2 := (z * z) >>> 400
    if 2 ^ 401 ≤ z2 then log2Bits n (z2 >>> 1) (2 * acc + 1) else log2Bits n z2 (2 * acc)

/-- A positive integer scaled into [1, 2) with 400 fraction bits. -/
def unit400 (m : Nat) : Nat :=
  let l := Nat.log2 m
  if l ≤ 400 then m <<< (400 - l) else m >>> (l - 400)

/-- R185 from floor(y), the next bit of y, whether more follows, and 32 fraction bits of y. -/
def lnsRoundY (rm : Rm) (u : Nat) (neg : Bool) (lo : Int) (half rest : Bool) (frac : Nat) : Nat × Flg :=
  let inexact := half || rest
  if decide (15 < lo) || (lo == 15 && inexact) then (lnsCode neg 15, fOF ||| fNX)
  else if lo < -15 then (lnsCode neg (-15), fUF ||| fNX)
  else
    let up := if rm == Rm.sr then inexact && decide (u < frac) else goesUp rm neg (lo % 2 == 1) half rest
    (lnsCode neg (if up then lo + 1 else lo), flagIf inexact fNX)

/-- One rounding of an exact value into lns6 (R185), y = 4 × log2 |x|. -/
def lnsRound (rm : Rm) (u : Nat) (neg : Bool) (m : Nat) (e : Int) : Nat × Flg :=
  let m4 := m * m * m * m
  let l4 := Nat.log2 m4
  let half := Nat.log2 (m4 * m4) % 2 == 1
  let inexact := m4 != 2 ^ l4
  let frac := if rm == Rm.sr then log2Bits 32 (unit400 m4) 0 else 0
  lnsRoundY rm u neg (4 * e + l4) half inexact frac

/-! ## Integers (R169, R187) -/

/-- Bounds of an integer format. -/
def intMin (w : Nat) (natural : Bool) : Int := if natural then 0 else -((2 ^ (w - 1) : Nat) : Int)
def intMax (w : Nat) (natural : Bool) : Int := if natural then ((2 ^ w : Nat) : Int) - 1 else ((2 ^ (w - 1) : Nat) : Int) - 1

/-- An integer clamped to a format's range (R169). -/
def clampTo (w : Nat) (natural : Bool) (i : Int) : Int := max (intMin w natural) (min (intMax w natural) i)

/-- Rounding to an integer and R187's range check. -/
def intRound (w : Nat) (natural : Bool) (rm : Rm) (u : Nat) (neg : Bool) (m : Nat) (e : Int) (more : Bool) : Nat × Flg :=
  let (q2, cut) := floorAt m e more (-1)
  let q := q2 / 2
  let half := q2 % 2 == 1
  let low := floorAt m e more (-32)
  let up := if rm == Rm.sr then srUp neg u (low.1 % 2 ^ 32) low.2 else goesUp rm neg (q % 2 == 1) half cut
  let a : Int := q + up.toNat
  let i := if neg then -a else a
  if intMin w natural ≤ i ∧ i ≤ intMax w natural then (wrapTo w i, flagIf (half || cut) fNX)
  else (wrapTo w (clampTo w natural i), fNV)

/-! ## Format codes (R257) -/

/-- A format code of R257 with its signedness; `natural` only with integers. -/
structure Fmt where
  code : Nat
  natural : Bool
  deriving DecidableEq, Repr

/-- What kind of format a code names. -/
inductive FmtKind where
  | ieee (f : Ieee)
  | tap (f : Tap)
  | lns
  | int (w : Nat)
  deriving DecidableEq, Repr

/-- The formats of R257; a code above 10 never reaches a meaning. -/
def fmtKind (c : Nat) : FmtKind := match c with
  | 0 => .ieee ieee32
  | 1 => .ieee ieeeBf16
  | 2 => .ieee ieee16
  | 3 => .tap tap32
  | 4 => .tap tap16
  | 5 => .tap tap8
  | 6 => .lns
  | 7 => .int 8
  | 8 => .int 16
  | 9 => .int 32
  | _ => .int 64

/-- The bits of a format (R312). -/
def FmtKind.width : FmtKind → Nat
  | .ieee f => f.width
  | .tap f => f.n
  | .lns => 6
  | .int w => w

/-- Bytes of an element (R326); lns6 is stored by words instead. -/
def fmtBytes (c : Nat) : Nat := (fmtKind c).width / 8

/-- The value of an integer. -/
def valOfInt (i : Int) : Val := if i = 0 then .zero false else .fin (decide (i < 0)) i.natAbs 0 false

/-- The value of a code of a format. -/
def decodeVal (k : FmtKind) (natural : Bool) (x : Nat) : Val := match k with
  | .ieee f => f.decode (x % 2 ^ f.width)
  | .tap f => f.decode x
  | .lns => lnsDecode x
  | .int w => valOfInt (if natural then ((x % 2 ^ w : Nat) : Int) else signedOf w x)

/-- The bits of a square root from bit k − 1 down, below those found in r. -/
def sqrtBits (n : Nat) : Nat → Nat → Nat
  | 0, r => r
  | k + 1, r => if (r + 2 ^ k) * (r + 2 ^ k) ≤ n then sqrtBits n k (r + 2 ^ k) else sqrtBits n k r

/-- The largest r with r^2 ≤ n. -/
def isqrt (n : Nat) : Nat := sqrtBits n (Nat.log2 n / 2 + 1) 0

/-- 2^(j/4) by its leading 200 bits. -/
def rootVal (neg : Bool) (j : Int) : Val :=
  let r := (j % 4).toNat
  .fin neg (isqrt (isqrt (2 ^ (r + 800)))) (j / 4 - 200) (r != 0)

/-- A value that is not special, rounded once into a format (R187). -/
def roundFin (k : FmtKind) (natural : Bool) (rm : Rm) (u : Nat) (neg : Bool) (m : Nat) (e : Int) (more : Bool) : Nat × Flg :=
  match k with
  | .ieee f => f.round rm u neg m e more
  | .tap f => f.round rm u neg m e more
  | .lns => lnsRound rm u neg m e
  | .int w => intRound w natural rm u neg m e more

/-- The integer that R186 gives a special value. -/
def intSpecial (w : Nat) (natural neg : Bool) : Nat := wrapTo w (if neg then intMin w natural else intMax w natural)

/-- Round(v, fmt, rm) with the special cases of R186. -/
def roundVal (k : FmtKind) (natural : Bool) (rm : Rm) (u : Nat) (v : Val) : Rounded := match v with
  | .nar => match k with
    | .ieee f => ⟨f.nanCode, 0, false⟩
    | .tap f => ⟨f.nar, 0, false⟩
    | .lns => ⟨0x30, 0, false⟩
    | .int w => ⟨intSpecial w natural true, fNV, false⟩
  | .nan s => match k with
    | .ieee f => ⟨f.nanCode, flagIf s fNV, false⟩
    | .tap f => ⟨f.nar, flagIf s fNV, s⟩
    | .lns => ⟨0x30, flagIf s fNV, s⟩
    | .int w => ⟨intSpecial w natural true, fNV, false⟩
  | .inf neg => match k with
    | .ieee f => ⟨f.signed neg f.infCode, 0, false⟩
    | .tap f => ⟨f.nar, fNV, true⟩
    | .lns => ⟨0x30, fNV, true⟩
    | .int w => ⟨intSpecial w natural neg, fNV, false⟩
  | .zero neg => match k with
    | .ieee f => ⟨f.signed neg 0, 0, false⟩
    | .lns => ⟨0x10, 0, false⟩
    | _ => ⟨0, 0, false⟩
  | .fin neg m e more => let r := roundFin k natural rm u neg m e more; ⟨r.1, r.2, false⟩
  | .root neg j => match k with
    | .lns => let r := lnsRoundY rm u neg j false false 0; ⟨r.1, r.2, false⟩
    | _ => match rootVal neg j with
      | .fin n m e more => let r := roundFin k natural rm u n m e more; ⟨r.1, r.2, false⟩
      | _ => ⟨0, 0, false⟩

/-! ## Exact operations: the value of the result and the flags that the operation itself raises -/

/-- Whether a value is a signalling NaN. -/
def Val.isSig : Val → Bool
  | .nan s => s
  | _ => false

def Val.isNaN : Val → Bool
  | .nan _ => true
  | _ => false

def Val.isNar : Val → Bool
  | .nar => true
  | _ => false

def Val.negate : Val → Val
  | .inf s => .inf !s
  | .zero s => .zero !s
  | .fin s m e t => .fin (!s) m e t
  | .root s j => .root (!s) j
  | v => v

def Val.neg? : Val → Bool
  | .inf s | .zero s | .fin s _ _ _ | .root s _ => s
  | _ => false

/-- The exact sum of two finite nonzero dyadics; an exact zero is +0, or −0 under RDN (R171). -/
def addFin (rm : Rm) (s1 : Bool) (m1 : Nat) (e1 : Int) (s2 : Bool) (m2 : Nat) (e2 : Int) : Val :=
  let e := min e1 e2
  let a : Int := (m1 <<< (e1 - e).toNat : Nat)
  let b : Int := (m2 <<< (e2 - e).toNat : Nat)
  let t := (if s1 then -a else a) + (if s2 then -b else b)
  if t = 0 then .zero (rm == Rm.rdn) else .fin (decide (t < 0)) t.natAbs e false

/-- x + y (R171, R179, R316). -/
def addVal (rm : Rm) (x y : Val) : Val × Flg := match x, y with
  | .nar, _ => (.nar, 0)
  | _, .nar => (.nar, 0)
  | .nan s, y => (.nan false, flagIf (s || y.isSig) fNV)
  | _, .nan s => (.nan false, flagIf s fNV)
  | .inf s, .inf t => if s = t then (.inf s, 0) else (.nan false, fNV)
  | .inf s, _ => (.inf s, 0)
  | _, .inf s => (.inf s, 0)
  | .zero s, .zero t => (.zero (if s = t then s else rm == Rm.rdn), 0)
  | .zero _, y => (y, 0)
  | x, .zero _ => (x, 0)
  | .fin s1 m1 e1 _, .fin s2 m2 e2 _ => (addFin rm s1 m1 e1 s2 m2 e2, 0)
  | x, _ => (x, 0)

/-- x × y (R171, R179, R316, R336). -/
def mulVal (x y : Val) : Val × Flg := match x, y with
  | .nar, _ => (.nar, 0)
  | _, .nar => (.nar, 0)
  | .nan s, y => (.nan false, flagIf (s || y.isSig) fNV)
  | _, .nan s => (.nan false, flagIf s fNV)
  | .inf _, .zero _ => (.nan false, fNV)
  | .zero _, .inf _ => (.nan false, fNV)
  | .inf s, y => (.inf (s != y.neg?), 0)
  | x, .inf s => (.inf (s != x.neg?), 0)
  | .zero s, y => (.zero (s != y.neg?), 0)
  | x, .zero s => (.zero (s != x.neg?), 0)
  | .fin s1 m1 e1 _, .fin s2 m2 e2 _ => (.fin (s1 != s2) (m1 * m2) (e1 + e2) false, 0)
  | .root s1 j1, .root s2 j2 => (.root (s1 != s2) (j1 + j2), 0)
  | x, _ => (x, 0)

/-- x × y + z, before its one rounding (R319): 0 × ∞ is invalid even when z is a quiet NaN. -/
def fmaVal (rm : Rm) (x y z : Val) : Val × Flg :=
  if x.isNar || y.isNar || z.isNar then (.nar, 0)
  else
    let p := mulVal x y
    let r := addVal rm p.1 z
    (r.1, p.2 ||| r.2)

/-- A quotient of two integers by at least 200 leading bits. -/
def divFin (neg : Bool) (m1 : Nat) (e1 : Int) (m2 : Nat) (e2 : Int) : Val :=
  let s := 200 + Nat.log2 m2
  let n := m1 <<< s
  .fin neg (n / m2) (e1 - e2 - s) (n % m2 != 0)

/-- x / y (R179, R316); a tapered format creates NaR where IEEE gives ∞ or NaN. -/
def divVal (tapered : Bool) (x y : Val) : Val × Flg := match x, y with
  | .nar, _ => (.nar, 0)
  | _, .nar => (.nar, 0)
  | .nan s, y => (.nan false, flagIf (s || y.isSig) fNV)
  | _, .nan s => (.nan false, flagIf s fNV)
  | .inf _, .inf _ => (.nan false, fNV)
  | .inf s, y => (.inf (s != y.neg?), 0)
  | x, .inf s => (.zero (s != x.neg?), 0)
  | .zero _, .zero _ => if tapered then (.nar, fNV) else (.nan false, fNV)
  | .zero s, y => (.zero (s != y.neg?), 0)
  | x, .zero s => if tapered then (.nar, fDZ) else (.inf (s != x.neg?), fDZ)
  | .fin s1 m1 e1 _, .fin s2 m2 e2 _ => (divFin (s1 != s2) m1 e1 m2 e2, 0)
  | x, _ => (x, 0)

/-- The root of a positive dyadic by at least 200 leading bits. -/
def sqrtFin (m : Nat) (e : Int) : Val :=
  let s : Int := 400 + (e % 2)
  let n := m <<< s.toNat
  let r := isqrt n
  .fin false r ((e - s) / 2) (r * r != n)

/-- √x (R179, R316). -/
def sqrtVal (tapered : Bool) (x : Val) : Val × Flg := match x with
  | .nar => (.nar, 0)
  | .nan s => (.nan false, flagIf s fNV)
  | .zero s => (.zero s, 0)
  | .inf false => (.inf false, 0)
  | .inf true => (.nan false, fNV)
  | .fin true _ _ _ | .root true _ => (if tapered then .nar else .nan false, fNV)
  | .fin false m e _ => (sqrtFin m e, 0)
  | .root false j => (.root false j, 0)

/-! ## Operations on codes -/

/-- The result of an exact operation rounded into a format. -/
def roundRes (k : FmtKind) (rm : Rm) (u : Nat) (r : Val × Flg) : Nat × Flg :=
  let q := roundVal k false rm u r.1
  (q.code, q.flags ||| r.2)

/-- Round(x + y): integers wrap (R169). -/
def addCode (k : FmtKind) (rm : Rm) (u x y : Nat) : Nat × Flg := match k with
  | .int w => ((x + y) % 2 ^ w, 0)
  | _ => roundRes k rm u (addVal rm (decodeVal k false x) (decodeVal k false y))

/-- Round(x − y). A NaN y keeps its own flags. -/
def subCode (k : FmtKind) (rm : Rm) (u x y : Nat) : Nat × Flg := match k with
  | .int w => (wrapTo w ((x : Int) - y), 0)
  | _ => roundRes k rm u (addVal rm (decodeVal k false x) (decodeVal k false y).negate)

/-- Round(x × y). -/
def mulCode (k : FmtKind) (rm : Rm) (u x y : Nat) : Nat × Flg := match k with
  | .int w => (x * y % 2 ^ w, 0)
  | _ => roundRes k rm u (mulVal (decodeVal k false x) (decodeVal k false y))

/-- Round(±(x × y) ± z), one rounding (R318, R319). -/
def fmaCode (k : FmtKind) (rm : Rm) (u : Nat) (negProduct negAddend : Bool) (x y z : Nat) : Nat × Flg := match k with
  | .int w => ((x * y + z) % 2 ^ w, 0)
  | _ =>
    let vx := decodeVal k false x
    let vz := decodeVal k false z
    roundRes k rm u (fmaVal rm (if negProduct then vx.negate else vx) (decodeVal k false y) (if negAddend then vz.negate else vz))

/-- The order key of an IEEE code that is no NaN: −0 just below +0 (R316). -/
def Ieee.key (f : Ieee) (x : Nat) : Int :=
  let mag : Int := (x % 2 ^ (f.width - 1) : Nat)
  if bitAt x (f.width - 1) then -mag - 1 else mag

/-- minimumNumber and maximumNumber (R316): one NaN gives the other operand, two give the canonical NaN. -/
def Ieee.minMax (f : Ieee) (wantMax : Bool) (x y : Nat) : Nat × Flg :=
  let vx := f.decode x
  let vy := f.decode y
  let fl := flagIf (vx.isSig || vy.isSig) fNV
  if vx.isNaN && vy.isNaN then (f.nanCode, fl)
  else if vx.isNaN then (y, fl)
  else if vy.isNaN then (x, fl)
  else if (f.key x < f.key y) != wantMax then (x, fl) else (y, fl)

/-- Minimum or maximum in any format but lns6 (R301, R336). -/
def minMaxCode (k : FmtKind) (wantMax : Bool) (x y : Nat) : Nat × Flg := match k with
  | .ieee f => f.minMax wantMax x y
  | _ => if (signedOf k.width x < signedOf k.width y) != wantMax then (x, 0) else (y, 0)

/-- An IEEE zero's code without its sign. -/
def Ieee.unsignZero (f : Ieee) (x : Nat) : Nat := if x % 2 ^ (f.width - 1) = 0 then 0 else x

/-- x = y (R316, R336). -/
def eqCode (k : FmtKind) (x y : Nat) : Bool × Flg := match k with
  | .ieee f =>
    let vx := f.decode x
    let vy := f.decode y
    if vx.isNaN || vy.isNaN then (false, flagIf (vx.isSig || vy.isSig) fNV)
    else (f.unsignZero x == f.unsignZero y, 0)
  | _ => (x == y, 0)

/-- x < y, or x ≤ y (R316, R336). -/
def ltCode (k : FmtKind) (orEq : Bool) (x y : Nat) : Bool × Flg := match k with
  | .ieee f =>
    if (f.decode x).isNaN || (f.decode y).isNaN then (false, fNV)
    else
      let a := f.key (f.unsignZero x)
      let b := f.key (f.unsignZero y)
      (decide (a < b) || (orEq && a == b), 0)
  | _ =>
    let a := signedOf k.width x
    let b := signedOf k.width y
    (decide (a < b) || (orEq && a == b), 0)

/-- CVT (R324): equal formats copy, except that NaNs become canonical. -/
def cvtCode (dk : FmtKind) (dn : Bool) (sk : FmtKind) (sn : Bool) (rm : Rm) (u x : Nat) : Rounded :=
  if dk = sk ∧ dn = sn then
    match sk with
    | .ieee f => if (f.decode x).isNaN then ⟨f.nanCode, flagIf (f.decode x).isSig fNV, false⟩ else ⟨x, 0, false⟩
    | _ => ⟨x, 0, false⟩
  else roundVal dk dn rm u (decodeVal sk sn x)

/-! ## Special functions (R337), by leading bits of fixed-point arithmetic with 768 fraction bits (log entry 16) -/

/-- Σ 1 / ((2i + 1) 9^i) from term i on, with 800 fraction bits. -/
def ln2Sum : Nat → Nat → Nat → Nat
  | 0, _, _ => 0
  | n + 1, i, p => p / (2 * i + 1) + ln2Sum n (i + 1) (p / 9)

/-- ln 2 with 768 fraction bits: 2/3 times that sum. -/
def ln2Fix : Nat := (2 * ln2Sum 260 0 (2 ^ 800 / 3)) >>> 32

/-- Σ r^i / i! from term i on, for r in [0, 1) with 768 fraction bits. -/
def expSum (r : Nat) : Nat → Nat → Nat → Nat
  | 0, _, t => t
  | n + 1, i, t => t + expSum r n (i + 1) (((t * r) >>> 768) / (i + 1))

/-- e^x for x = ±m·2^e with |x| below 2^10: a mantissa and its exponent. -/
def expFix (neg : Bool) (m : Nat) (e : Int) : Nat × Int :=
  let a : Int := ((floorAt m e false (-768)).1 : Nat)
  let x := if neg then -a else a
  let k := x / (ln2Fix : Int)
  let r := (x - k * ln2Fix).toNat
  (expSum r 170 0 (2 ^ 768), k - 768)

/-- |x| is at least 2^10. -/
def isLarge (m : Nat) (e : Int) : Bool := 10 ≤ e + Nat.log2 m

/-- A value just below 1. -/
def nearOne (neg : Bool) : Val := .fin neg (2 ^ 400 - 1) (-400) true

/-- The ratio of two positive integers. -/
def ratio (neg : Bool) (a b : Nat) : Val := divFin neg a 0 b 0

/-- e^−|x| as a / 2^s, for |x| below 2^10. -/
def expNeg (m : Nat) (e : Int) : Nat × Nat :=
  let (a, k) := expFix true m e
  (a, (-k).toNat)

/-- VEXP: e^x. -/
def expVal (x : Val) : Val × Flg := match x with
  | .nar => (.nar, 0)
  | .nan s => (.nan false, flagIf s fNV)
  | .inf false => (.inf false, 0)
  | .inf true => (.zero false, 0)
  | .zero _ => (.fin false 1 0 false, 0)
  | .fin neg m e _ =>
    if isLarge m e then (.fin false 1 (if neg then -2000 else 2000) true, 0)
    else let r := expFix neg m e; (.fin false r.1 r.2 true, 0)
  | v => (v, 0)

/-- VLOG2: log2 x. -/
def log2Val (tapered : Bool) (x : Val) : Val × Flg := match x with
  | .nar => (.nar, 0)
  | .nan s => (.nan false, flagIf s fNV)
  | .inf false => (.inf false, 0)
  | .inf true => (.nan false, fNV)
  | .zero _ => (if tapered then .nar else .inf true, fDZ)
  | .fin true _ _ _ => (if tapered then .nar else .nan false, fNV)
  | .fin false m e _ =>
    let l := Nat.log2 m
    if m = 2 ^ l then (valOfInt (e + l), 0)
    else
      let v : Int := (e + l) * 2 ^ 160 + (log2Bits 160 (unit400 m) 0 : Nat)
      (if 0 ≤ v then .fin false v.toNat (-160) true else .fin true (v.natAbs - 1) (-160) true, 0)
  | v => (v, 0)

/-- VRCP: 1 / x. -/
def rcpVal (tapered : Bool) (x : Val) : Val × Flg := match x with
  | .nan s => (.nan false, flagIf s fNV)
  | x => divVal tapered (.fin false 1 0 false) x

/-- 1 / √(m·2^e) by leading bits. -/
def rsqFin (m : Nat) (e : Int) : Val :=
  let m := if e % 2 = 0 then m else 2 * m
  let e := if e % 2 = 0 then e else e - 1
  let s := 200 + Nat.log2 m
  let r := isqrt (2 ^ (2 * s) / m)
  .fin false r (-(e / 2) - s) (r * r * m != 2 ^ (2 * s))

/-- VRSQ: 1 / √x. -/
def rsqVal (tapered : Bool) (x : Val) : Val × Flg := match x with
  | .nar => (.nar, 0)
  | .nan s => (.nan false, flagIf s fNV)
  | .inf false => (.zero false, 0)
  | .inf true => (.nan false, fNV)
  | .zero s => (if tapered then .nar else .inf s, fDZ)
  | .fin true _ _ _ => (if tapered then .nar else .nan false, fNV)
  | .fin false m e _ => (rsqFin m e, 0)
  | v => (v, 0)

/-- VSIGM: 1 / (1 + e^−x). -/
def sigmVal (x : Val) : Val × Flg := match x with
  | .nar => (.nar, 0)
  | .nan s => (.nan false, flagIf s fNV)
  | .inf false => (.fin false 1 0 false, 0)
  | .inf true => (.zero false, 0)
  | .zero _ => (.fin false 1 (-1) false, 0)
  | .fin neg m e _ =>
    if isLarge m e then (if neg then .fin false 1 (-2000) true else nearOne false, 0)
    else
      let (a, s) := expNeg m e
      match ratio false (if neg then a else 2 ^ s) (2 ^ s + a) with
      | .fin n q x _ => (.fin n q x true, 0)
      | v => (v, 0)
  | v => (v, 0)

/-- VTANH: (1 − e^−2|x|) / (1 + e^−2|x|) with the sign of x. -/
def tanhVal (x : Val) : Val × Flg := match x with
  | .nar => (.nar, 0)
  | .nan s => (.nan false, flagIf s fNV)
  | .inf neg => (.fin neg 1 0 false, 0)
  | .zero s => (.zero s, 0)
  | .fin neg m e _ =>
    if isLarge m (e + 1) then (nearOne neg, 0)
    else
      let (a, s) := expNeg m (e + 1)
      match ratio neg (2 ^ s - a) (2 ^ s + a) with
      | .fin n q x _ => (.fin n q x true, 0)
      | v => (v, 0)
  | v => (v, 0)

/-! ## Order of sums (R193) -/

/-- One round of R193: the first h elements, each combined with its partner h places on if it has one, in ascending order;
`f` threads the flags and the generator. -/
def reducePairs {σ : Type} (f : σ → Nat → Nat → σ × Nat) : σ → List Nat → List Nat → σ × List Nat
  | s, [], _ => (s, [])
  | s, lo, [] => (s, lo)
  | s, x :: lo, y :: hi =>
    let (s, z) := f s x y
    let (s, rest) := reducePairs f s lo hi
    (s, z :: rest)

/-- Reduce(v, n, op) from N = 2^rounds downward (R193). -/
def reduceRounds {σ : Type} (f : σ → Nat → Nat → σ × Nat) : Nat → σ → List Nat → σ × List Nat
  | 0, s, v => (s, v)
  | k + 1, s, v =>
    let (s, v) := reducePairs f s (v.take (2 ^ k)) (v.drop (2 ^ k))
    reduceRounds f k s v

/-- The k of the smallest power of two 2^k that is at least n. -/
def ceilLog2 (n : Nat) : Nat := if n ≤ 1 then 0 else Nat.log2 (n - 1) + 1

/-- Reduce (R193), for a list that is not empty. -/
def reduceList {σ : Type} (f : σ → Nat → Nat → σ × Nat) (s : σ) (v : List Nat) : σ × Nat :=
  let (s, v) := reduceRounds f (ceilLog2 v.length) s v
  (s, v.headD 0)

end Sys2Proof.Machine
end

