-- ==== Sys2Proof/Machine/Ops.lean ====
section
/-! DEFINITION. The shared operations of a core: registers, the active core, chunks (spec 06 R129 to R137), the scratchpad
and its checks (01 R17 to R22, 02 R38 to R48), workspace switch, taking a trap and returning from one (19 R417 to R421), and
the order of an instruction's checks (11 R259). -/

namespace Sys2Proof.Machine

/-! ## Constants -/

/-- Bytes of a scratchpad (R28). -/
def spadSize : Nat := 0x60000

/-- First global address (R6). -/
def globalBase : Nat := 2 ^ 32

/-! ## Registers -/

/-- Value of a register in the register cache. -/
def Regs.get (v : Regs) (r : Reg) : Word := Vector.get v r.toFin

/-- The register cache with one register replaced. -/
def Regs.put (v : Regs) (r : Reg) (x : Word) : Regs := Vector.set v r.toNat x r.isLt

/-- g[r] as a source: g0 reads as zero (R250). -/
def Core.reg (c : Core) (r : Reg) : Word := if r = 0 then 0 else c.regs.get r

/-- The mask of one register in a pending or poison word. -/
def regBit (r : Reg) : BitVec 32 := 1#32 <<< r.toNat

/-- g[r] = v: a write to g0 is discarded, any other clears the poison bit (R42, R266). -/
def Core.setReg (c : Core) (r : Reg) (v : Word) : Core :=
  if r = 0 then c else { c with regs := c.regs.put r v, pois := c.pois &&& ~~~(regBit r) }

/-- Whether gr is pending or poisoned; g0 never is (R38). -/
def Core.pending (c : Core) (r : Reg) : Bool := r != 0 && c.pend.getLsbD r.toNat
def Core.poisoned (c : Core) (r : Reg) : Bool := r != 0 && c.pois.getLsbD r.toNat

/-- Pending.set for an instruction that will write gn, whose poison bit clears; none for g0 (R42, log entry 30). -/
def Core.setPending (c : Core) (r : Reg) : Core :=
  if r = 0 then c else { c with pend := c.pend ||| regBit r, pois := c.pois &&& ~~~(regBit r) }

/-- PC = PC + 4. -/
def Core.step4 (c : Core) : Core := { c with pc := c.pc + 4 }

/-- PC = t. -/
def Core.jump (c : Core) (t : Word) : Core := { c with pc := t }

/-! ## Addresses of control registers -/

def Core.wp (c : Core) : Nat := c.ctl.wpa.toNat * 512
def Core.twp (c : Core) : Nat := c.ctl.twa.toNat * 512
def Core.xb (c : Core) : Nat := c.ctl.xb.toNat * 64
def Core.tv (c : Core) : Nat := c.ctl.tvb.toNat * 1024
def Core.uws (c : Core) : Nat := c.ctl.uws.toNat * 512
def Core.upc (c : Core) : Nat := c.ctl.upc.toNat * 4

/-! ## The cores of the package -/

/-- Core number p. -/
def State.getCore (s : State) (p : Nat) : Core :=
  if s.core.pcn = p then s.core else (s.others.find? (fun c => c.pcn == p)).getD (Core.reset p)

/-- Puts a core back in its place. -/
def State.putCore (s : State) (c : Core) : State :=
  if s.core.pcn = c.pcn then { s with core := c }
  else { s with others := upsert (fun x => x.pcn == c.pcn) (fun _ => c) c s.others }

/-- Makes core p the active one. -/
def State.select (s : State) (p : Nat) : State :=
  if s.core.pcn = p then s
  else
    let c := s.getCore p
    { s with
      core := c
      others := upsert (fun x => x.pcn == s.core.pcn) (fun _ => s.core) s.core (s.others.filter (fun x => x.pcn != p)) }

/-- Runs an operation of the active core on core p and makes the former active core active again. -/
def State.onCore (s : State) (p : Nat) (f : State → Res) : Res := match f (s.select p) with
  | .next t => .next (t.select s.core.pcn)
  | r => r

/-- Applies f to core p. -/
def State.modCore (s : State) (p : Nat) (f : Core → Core) : State := s.putCore (f (s.getCore p))

/-- Applies f to every core that is not at its reset. -/
def State.allCores (s : State) (f : Core → Core) : State := { s with core := f s.core, others := s.others.map f }

/-- The cores that are not at their reset. -/
def State.cores (s : State) : List Core := s.core :: s.others

/-! ## Output to the host and error records (R438) -/

/-- Something leaves the package. -/
def State.out (s : State) (o : Output) : State := { s with outputs := s.outputs ++ [o] }

/-- Writes an error record, increments ERRHEAD and signals vector 0 (R438). -/
def State.logError (s : State) (pcn : Nat) (cause type : BitVec 8) (addr epc : Word) : State :=
  let slot := s.mgmt.errhead.toNat % 64
  let r : ErrRec := ⟨if s.mgmt.state.toNat < 3 then 0 else s.mgmt.ctxg, BitVec.ofNat 11 pcn, cause, type, addr, epc, s.tb⟩
  ({ s with mgmt := { s.mgmt with
      errlog := upsert (fun x => x.1 == slot) (fun _ => (slot, r)) (slot, r) s.mgmt.errlog
      errhead := s.mgmt.errhead + 1 } }).out (.msix 0)

/-! ## Signatures, squash and write notices -/

/-- Sig(x) of a 51-bit line address (R131). -/
def sigOf (x : Nat) : Nat :=
  (bits x 9 0) ^^^ (bits x 19 10) ^^^ (bits x 29 20) ^^^ (bits x 39 30) ^^^ (bits x 49 40) ^^^ (bits x 50 50)

/-- The one-bit signature of a line. -/
def sigBit (x : Nat) : BitVec 1024 := 1#1024 <<< sigOf x

/-- Every line. A range of TINV holds 1,024 consecutive lines, which set every bit (R110, R131). -/
def sigAll : BitVec 1024 := BitVec.allOnes 1024

/-- The lines that a chunk has stored to: they are Speculative in its core's L1 (R59). -/
def Chunk.lines (k : Chunk) : List Nat := k.dests.map (·.1)

/-- Squash (R135): the copies come back, PC is the chunk's first, SQZ and the streak grow; its Speculative lines become Invalid. -/
def Core.squash (c : Core) : Core := match c.chunk with
  | none => c
  | some k => { c with
      l1 := c.l1.filter fun l => !k.lines.contains l.line
      regs := k.regs0
      pend := k.pend0
      pois := k.pois0
      pc := k.pc0
      gen := k.gen0
      ctl := { c.ctl with fflags := k.fflags0, sqz := c.ctl.sqz + 1 }
      chunk := none
      streak := c.streak + 1
      early := none
      out := none }

/-- A write notice at one core (R59, R132): a chunk that meets it is squashed, Clean lines under it go. -/
def Core.notice (sig : BitVec 1024) (c : Core) : Core :=
  let c := { c with l1 := c.l1.filter fun l => !sig.getLsbD (sigOf l.line) }
  match c.chunk with
  | some k => if (k.rsig ||| k.wsig) &&& sig = 0 then c else c.squash
  | none => c

/-- Whether a write notice under a signature changes anything at a core. -/
def Core.noticeMatters (sig : BitVec 1024) (c : Core) : Bool :=
  c.l1.any (fun l => sig.getLsbD (sigOf l.line)) || match c.chunk with
    | some k => (k.rsig ||| k.wsig) &&& sig != 0
    | none => false

/-- Whether a core's chunk has begun its close. -/
def Core.closing (c : Core) : Bool := match c.chunk with
  | some k => k.closing
  | none => false

/-- A write notice broadcast to every core but `src` (R132); 1,536 or more leaves out none. A squashed chunk no longer waits
for a grant. -/
def State.notice (s : State) (src : Nat) (sig : BitVec 1024) : State :=
  let s := s.allCores fun c => if c.pcn = src then c else c.notice sig
  { s with submits := s.submits.filter fun p => (s.getCore p).closing }

/-- The core whose open chunk holds the commit reservation (R136): without a chunk it keeps nothing from any other core. -/
def State.holder (s : State) : Option Nat := s.reservation.filter fun q => (s.getCore q).chunk.isSome

/-- Whether the commit reservation of another core defers a numbered write under this signature (R136): the reserved chunk
cannot be squashed. -/
def State.deferred (s : State) (src : Nat) (sig : BitVec 1024) : Bool := match s.reservation with
  | none => false
  | some q =>
    q != src && match (s.getCore q).chunk with
      | some k => (k.rsig ||| k.wsig) &&& sig != 0
      | none => false

/-! ## Chunks -/

/-- Opens a chunk if none is open, with the copies that a squash puts back (R130). -/
def Core.openChunk (c : Core) : Core := match c.chunk with
  | some _ => c
  | none => { c with chunk := some {
      count := 0, pc0 := c.pc, regs0 := c.regs, pend0 := c.pend, pois0 := c.pois, fflags0 := c.ctl.fflags, gen0 := c.gen
      rsig := 0, wsig := 0, gbuf := [], dests := [], sbuf := [], sstores := 0, closing := false } }

/-- Changes the open chunk. -/
def Core.modChunk (c : Core) (f : Chunk → Chunk) : Core := { c with chunk := c.chunk.map f }

/-- Begins the close of the open chunk. -/
def Core.close (c : Core) : Core := c.modChunk fun k => { k with closing := true }

/-- Counts an instruction of the open chunk; the 256th closes it (R129). Vector progress clears (R332). -/
def Core.countIn (c : Core) : Core :=
  { c with vprog := 0 }.modChunk fun k => { k with count := k.count + 1, closing := k.closing || decide (255 ≤ k.count) }

/-- Counts an instruction that executed alone (R135). Vector progress clears (R332). -/
def Core.retired (c : Core) : Core := { c with ctl := { c.ctl with ret := c.ctl.ret + 1 }, vprog := 0, copied := none, unstat := none }

/-- The core cannot start an instruction: it does not run, its chunk is closing, it waits for data, or a fault waits to be
parked. -/
def Core.busy (c : Core) : Bool :=
  c.run != .running || c.out.isSome || c.early.isSome || c.closing

/-! ## The scratchpad -/

/-- Stationary(va) for a local address (R45). -/
def Core.stationary (c : Core) (a : Nat) : Bool :=
  if h : a / 0x4000 < 24 then c.marks[a / 0x4000].getLsbD 31 else false

/-- Writes bytes to the scratchpad; a word wholly rewritten gets correct ECC again (R443). -/
def Core.poke (c : Core) (a : Nat) (bs : List Byte) : Core :=
  { c with
    spad := c.spad.writeBlock a bs
    ecc := c.ecc.filter fun e => !(decide (a ≤ 8 * e.1) && decide (8 * e.1 + 8 ≤ a + bs.length)) }

/-- Writes the low n bytes of a number. -/
def Core.pokeLE (c : Core) (a n v : Nat) : Core := c.poke a (bytesOf n v)

/-- The first uncorrectable word that [a, a + n) touches (R443). -/
def Core.badWord (c : Core) (a n : Nat) : Option Nat :=
  (c.ecc.find? fun e => e.2 && decide (8 * e.1 < a + n) && decide (a < 8 * e.1 + 8)).map fun e => max a (8 * e.1)

/-- How many words with a single-bit error [a, a + n) touches (R443). -/
def Core.softWords (c : Core) (a n : Nat) : Nat := (c.ecc.filter fun e => !e.2 && decide (8 * e.1 < a + n) && decide (a < 8 * e.1 + 8)).length

/-- Single-bit errors that a read has met are corrected and counted (R443). -/
def State.heal (s : State) (n : Nat) : State := { s with corrected := s.corrected + n }

/-- The same for what an instruction has read before it completes. -/
def healed (n : Nat) (r : Res) : Res := match r with
  | .next t => .next (t.heal n)
  | r => r

/-- Whether LPU region i covers granule g for a kind of access (R17 to R19). -/
def Ctl.lpuCovers (k : Ctl) (store : Bool) (g : Nat) (i : Fin 8) : Bool :=
  let b := k.lpb[i]
  b.en == 1 && (if store then b.wr == 1 else b.rd == 1) && decide (b.base.toNat ≤ g) && decide (g ≤ (k.lpl[i]).toNat)

/-- LpuGrants (R19): some enabled region grants the granule. -/
def Ctl.lpuGrants (k : Ctl) (store : Bool) (g : Nat) : Bool := (List.finRange 8).any fun i => k.lpuCovers store g i

/-- The local branch of Classify (R20, R21) for one granule's address: `none` when granted, else the cause. -/
def Core.localCheck (c : Core) (store : Bool) (a : Nat) : Option Nat :=
  if spadSize ≤ a then some 0x03
  else if c.ctl.mode = .user && (decide (a < c.xb) || !c.ctl.lpuGrants store (a / 64)) then some 0x03
  else if store && c.stationary a then some 0x06
  else none

/-- The granule checks of [a, a + n), lowest first; the failing cause and its first byte (R22). The first number is fuel. -/
def Core.rangeLoop (chk : Nat → Option Nat) : Nat → Nat → Nat → Option (Nat × Nat)
  | 0, _, _ => none
  | f + 1, a, stop =>
    if stop ≤ a then none
    else match chk a with
      | some e => some (e, a)
      | none => Core.rangeLoop chk f (a / 64 * 64 + 64) stop

/-- R22 for one range. -/
def Core.rangeCheck (c : Core) (store : Bool) (a n : Nat) : Option (Nat × Nat) :=
  Core.rangeLoop (c.localCheck store) 6146 a (a + n)

/-- Whether macro m of core p serves a started MX command (R47). -/
def State.macroBusy (s : State) (p m : Nat) : Bool :=
  s.cores.any fun c => c.qs[0].cmds.any fun k => match k.started with
    | some st => st.grid.any fun g => g.2.2.1 == p && g.2.2.2 == m
    | none => false

/-- Whether [a, a + n) of the active core touches a busy stationary macro (R48). -/
def State.rangeBusy (s : State) (a n : Nat) : Bool :=
  n != 0 && (List.range 24).any fun m =>
    decide (m * 0x4000 < a + n) && decide (a < m * 0x4000 + 0x4000) && s.core.stationary (m * 0x4000) && s.macroBusy s.core.pcn m

/-! ## The current workspace (R38 to R41) -/

/-- The g0 slot: pending and poison masks (R38). -/
def Core.slot0 (c : Core) : Nat := c.pend.toNat + c.pois.toNat * 2 ^ 32

/-- The 8-byte slot n of the register cache. -/
def Core.cacheSlot (c : Core) (n : Nat) : Nat := if n = 0 then c.slot0 else (c.regs.get (BitVec.ofNat 5 n)).toNat

/-- Write-back of the register cache (R39). -/
def Core.writeBack (c : Core) : Core :=
  c.poke c.wp ((List.range 32).flatMap fun n => bytesOf 8 (c.cacheSlot n))

/-- Loads the register cache from the workspace image at a (R39). -/
def Core.loadCache (c : Core) (a : Nat) : Core :=
  let slot := c.spad.readLE a 8
  { c with
    regs := Vector.ofFn fun i : Fin 32 => if i.val = 0 then 0 else c.spad.dword (a + 8 * i.val)
    pend := BitVec.ofNat 32 slot &&& ~~~1#32
    pois := BitVec.ofNat 32 (slot >>> 32) &&& ~~~1#32 }

/-- The checks of SwitchWorkspace (R39): the failing cause. -/
def Core.switchCheck (c : Core) (new : Nat) : Option Nat :=
  if new % 512 ≠ 0 then some 0x02
  else if 0x5FE00 < new then some 0x03
  else if c.ctl.mode = .user && decide (new < c.xb) then some 0x03
  else if c.stationary new then some 0x06
  else none

/-- The first word with an uncorrectable error of the image that a switch to `new` loads, the register cache having been written back (R39, R443). -/
def Core.switchBad (c : Core) (new : Nat) : Option Nat := c.writeBack.badWord new 256

/-- How many words of that image have a single-bit error (R443). -/
def Core.switchSoft (c : Core) (new : Nat) : Nat := c.writeBack.softWords new 256

/-- SwitchWorkspace(new) once its checks have passed and no chunk is open (R39). -/
def Core.switchTo (c : Core) (new : Nat) : Core :=
  let c := c.writeBack
  let c := { c with ctl := { c.ctl with wpa := BitVec.ofNat 10 (new / 512) } }
  c.loadCache new

/-- A byte as a scalar load of the core sees it (R40, R130): the register cache, then the chunk's buffer, then the
scratchpad. -/
def Core.localByte (c : Core) (a : Nat) : Byte :=
  if c.wp ≤ a ∧ a < c.wp + 256 then BitVec.ofNat 8 (c.cacheSlot ((a - c.wp) / 8) >>> (8 * ((a - c.wp) % 8)))
  else match c.chunk with
    | some k => (bufByte k.sbuf a).getD (c.spad.read a)
    | none => c.spad.read a

/-- Mem.read of n local bytes. -/
def Core.localRead (c : Core) (a n : Nat) : Nat := ofBytes ((List.range n).map fun i => c.localByte (a + i))

/-! ## Teams and their sites (R213 to R215) -/

/-- Site of member i of a team, placed at (x0, y0) (R213). -/
def siteAt (x y : Nat) : Nat := 384 * (x / 24 + 2 * (y / 16)) + 24 * (y % 16) + x % 24

/-- Package coordinates of a site (R213). -/
def siteX (p : Nat) : Nat := 24 * (p / 384 % 2) + p % 24
def siteY (p : Nat) : Nat := 16 * (p / 384 / 2) + p % 384 / 24

/-- Site of member i. -/
def Team.site (t : Team) (i : Nat) : Nat := siteAt (t.x0 + i % t.trec.width) (t.y0 + i / t.trec.width)

/-- The team of an admission slot. -/
def State.team (s : State) (slot : Nat) : Option Team := s.teams.find? fun t => t.slot == slot

/-- Changes the team of a slot. -/
def State.modTeam (s : State) (slot : Nat) (f : Team → Team) : State :=
  { s with teams := s.teams.map fun t => if t.slot = slot then f t else t }

/-- Whether a team occupies its sites. -/
def Team.placedNow (t : Team) : Bool := match t.status with
  | .resident | .leaving | .arriving => true
  | .waiting | .swappedOut => false

/-- Sites of the members of a placed team, in member order. -/
def Team.sites (t : Team) : List Nat := (List.range t.trec.size).map t.site

/-- The placed team that a site belongs to, with the member index. -/
def State.siteTeam (s : State) (p : Nat) : Option (Team × Nat) :=
  (s.teams.find? fun t => t.placedNow && t.sites.contains p).map fun t => (t, t.sites.idxOf p)

/-- A core leaves its team: no member state stays with it. -/
def Core.leaveTeam (c : Core) : Core :=
  { c with
    finished := false, phase := .idle, parity := 0, leftBar := false, regrantAt := none, timetable := [], ttDone := [], mailbox := []
    reserved := none, acked := false, lateIncs := [] }

/-- The team of a slot retires when every member has finished (R215): its sites and its slot become free. -/
def State.retireIfDone (s : State) (slot : Nat) : State := match s.team slot with
  | none => s
  | some t =>
    if t.placedNow && t.sites.all fun p => (s.getCore p).finished then
      let s := t.sites.foldl (fun s p => s.modCore p Core.leaveTeam) s
      { s with teams := s.teams.filter fun t => t.slot != slot }
    else s

/-- The active core's slice ends, by DONE or by a stop of its core (R204, R215, R292): no interrupt of the slice stays pending, and a
member has finished. -/
def State.memberGone (s : State) : State :=
  let c := { s.core with slice := .none, irq := { s.core.irq with timer := false, preempt := none, entered := false, budget := false } }
  match s.core.slice with
  | .member slot =>
    { s with core := { c with finished := true, timetable := [], ttDone := [], phase := .idle } }.retireIfDone slot
  | _ => { s with core := c }

/-! ## Taking a trap and returning from one -/

/-- Whether a communication phase of the core's member runs (R217). -/
def Core.inPhase (c : Core) : Bool := match c.phase with
  | .running _ => true
  | _ => false

/-- The core stops as HALT does, without the fence, and the record is logged (R420). A member of a running communication phase counts as finished only when
that ends (R219, R292). -/
def State.doubleTrap (s : State) (cause : Nat) (tval epc : Word) : State :=
  let s := s.logError s.core.pcn (BitVec.ofNat 8 cause) 3 tval epc
  let t := { s with core := { s.core with run := .halted, waiting := false, taking := false } }
  if s.core.inPhase then t else t.memberGone

/-- LANE of the save area (R421). -/
def Core.laneWord (c : Core) : Nat := c.nreq.toNat + (if c.wake then 512 else 0)

/-- Writes VPROG, GEN and LANE into the save area of the current workspace (R421). -/
def Core.saveArea (c : Core) : Core :=
  ((c.pokeLE (c.wp + 0x140) 8 c.vprog.toNat).pokeLE (c.wp + 0x148) 8 c.gen.toNat).pokeLE (c.wp + 0x150) 8 c.laneWord

/-- Number of a mode in ST and OMODE. -/
def Mode.num : Mode → Nat
  | .user => 0
  | .system => 1

/-- TrapEntry(c, tval, epc) with no chunk open (R417, R420). The vector progress is saved and then zero, for only the interrupted instruction continues
(R332). A trap workspace whose image cannot be read is met as a double trap, with a record (R443; log entry 15). -/
def State.trapEntry (s : State) (cause : Nat) (tval epc : Word) : State :=
  let c := s.core
  let new := c.twp
  let vec := c.tv + 16 * cause
  if c.wp = new then s.doubleTrap cause tval epc
  else if (c.switchCheck new).isSome then { s with core := c.saveArea }.doubleTrap cause tval epc
  else match c.switchBad new with
  | some w => ({ s with core := c.saveArea }.logError c.pcn 0 5 (BitVec.ofNat 64 w) 0).doubleTrap cause tval epc
  | none =>
    let d := (c.saveArea).switchTo new
    let d := d.pokeLE (new + 0x100) 8 c.wp
    let d := d.pokeLE (new + 0x108) 8 c.ctl.mode.num
    let d := { d with
      ctl := { d.ctl with
        mode := .system, cause := BitVec.ofNat 8 cause, tval := tval, epc := BitVec.ofNat 62 (epc.toNat / 4) }
      pc := BitVec.ofNat 64 vec
      vprog := 0
      waiting := false
      taking := false
      early := none
      copied := none
      unstat := none }
    let s := ({ s with core := d } : State).heal (c.switchSoft new)
    if d.xb ≤ vec then s.doubleTrap cause tval epc else s

/-- A synchronous trap: an open chunk closes first and the instruction is reached again (R137), then the entry. -/
def State.trapAt (s : State) (cause : Nat) (tval epc : Word) : Res :=
  if s.core.chunk.isSome then .next { s with core := s.core.close } else .next (s.trapEntry cause tval epc)

/-- A trap with EPC at the instruction. -/
def State.trap (s : State) (cause : Nat) (tval : Word) : Res := s.trapAt cause tval s.core.pc

/-- A trap whose TVAL is a number. -/
def State.trapN (s : State) (cause tval : Nat) : Res := s.trap cause (BitVec.ofNat 64 tval)

/-- Loads VPROG, GEN, the wake bit and n′ from the save area of the current workspace (R421). -/
def Core.loadSaveArea (c : Core) : Core :=
  let lane := c.spad.readLE (c.wp + 0x150) 8
  { c with
    vprog := BitVec.ofNat 16 (c.spad.readLE (c.wp + 0x140) 8)
    gen := c.spad.dword (c.wp + 0x148)
    nreq := BitVec.ofNat 9 lane
    wake := bitAt lane 9 }

/-- The return from a trap (R288, R421): `none` when the switch fails, with its cause and address. -/
def Core.returnTrap (c : Core) : Except (Nat × Nat) Core :=
  let ows := c.spad.readLE (c.wp + 0x100) 8
  let om := bitAt (c.spad.readLE (c.wp + 0x108) 8) 0
  match c.switchCheck ows with
  | some e => .error (e, ows)
  | none =>
    let c := (c.switchTo ows).loadSaveArea
    .ok { c with ctl := { c.ctl with mode := if om then .system else .user }, pc := c.ctl.epc ++ 0#2 }

/-- How many words with a single-bit error a return reads: of its record, the image and the save area (R421, R443). -/
def Core.returnSoft (c : Core) : Nat :=
  let ows := c.spad.readLE (c.wp + 0x100) 8
  c.softWords (c.wp + 0x100) 16 + c.switchSoft ows + c.softWords (ows + 0x140) 24

/-- The first word with an uncorrectable error that a return reads beside its record: of the image and of the save area (R421, R443). -/
def Core.returnBad (c : Core) : Option Nat :=
  let ows := c.spad.readLE (c.wp + 0x100) 8
  match c.switchBad ows with
  | some w => some w
  | none => c.badWord (ows + 0x140) 24

/-! ## The order of an instruction's checks (R259) -/

/-- The first poisoned register of a list, in the order a, b, d (R259). -/
def Core.firstPoisoned (c : Core) (rs : List Reg) : Option Reg := rs.find? c.poisoned

/-- A wait that closes the open chunk first (R129); with none open the instruction is simply reached again (log entry 3). -/
def State.waitClosed (s : State) : Res :=
  if s.core.chunk.isSome then .next { s with core := s.core.close } else .next s

/-- The instruction at the PC keeps what it copied at its issue, and waits (R392). -/
def State.hold (s : State) (v : Nat) : Res := .next { s with core := { s.core with copied := some (BitVec.ofNat 768 v) } }

/-- The checks before an instruction that runs inside the open chunk: pending stall, then poison. -/
def State.gate (s : State) (reads writes : List Reg) (k : Res) : Res :=
  if s.core.busy then .next s
  else if (reads ++ writes).any s.core.pending then s.waitClosed
  else match s.core.firstPoisoned reads with
    | some r => s.trapN 0x08 r.toNat
    | none => k

/-- The checks before an instruction that acts alone: the chunk closes first, then mode, pending stall and poison. `word` is
the instruction's word, `sys` says that it is for system mode only. -/
def State.alone (s : State) (sys : Bool) (word : Word) (reads writes : List Reg) (k : Res) : Res :=
  if s.core.busy then .next s
  else if s.core.chunk.isSome then .next { s with core := s.core.close }
  else if sys && s.core.ctl.mode == .user then s.trap 0x0C word
  else if (reads ++ writes).any s.core.pending then .next s
  else match s.core.firstPoisoned reads with
    | some r => s.trapN 0x08 r.toNat
    | none => k

/-- Completes an instruction inside the chunk. -/
def State.inChunk (s : State) (f : Core → Core) : Res := .next { s with core := (f s.core.openChunk).countIn }

/-- Completes an instruction that acted alone and goes on at PC + 4. -/
def State.done (s : State) (f : Core → Core) : Res := .next { s with core := (f s.core).step4.retired }

/-- ORs flags into FFLAGS (R174). -/
def Core.addFlags (c : Core) (f : Flg) : Core := { c with ctl := { c.ctl with fflags := c.ctl.fflags ||| f } }

end Sys2Proof.Machine
end

