-- ==== Sys2Proof/Machine/Homes.lean ====
section
/-! DEFINITION. Global memory as the homes see it: the home hash (spec 01 R14), page tables, checks and translation caches
(05 R101 to R110), physical addresses and DRAM with compression codes (03 R66 to R73), L2 slices (R61 to R65), replicated
pages and their sequencer (R74 to R77), and the fabric routes (20 R440). -/

namespace Sys2Proof.Machine

/-! ## Addresses -/

/-- The line address x = VA[56:6] (R57). -/
def lineOf (va : Nat) : Nat := bits va 56 6

/-- The fold h of a line address (R14). -/
def foldOf (x : Nat) : Nat := (bits x 16 0) ^^^ (bits x 33 17) ^^^ (bits x 50 34)

/-- Home(va) of a line address (R14). -/
def homeOf (x : Nat) : Nat := foldOf x % 1536

/-- ReplHome(va, d) (R75). -/
def replHome (x d : Nat) : Nat := 384 * d + homeOf x % 384

/-- The node number in an address (R8). -/
def nodeOf (va : Nat) : Nat := bits va 56 48

/-! ## Physical addresses (R66 to R68) -/

/-- Usable granules of a channel. -/
def granules : Nat := 365440

/-- Whether [pa, pa + size) lies in one valid range of one form (R66). -/
def paValid (pa size : Nat) : Bool :=
  let form := bits pa 51 48
  if form = 0 then decide (pa + size ≤ 0xB270000000)
  else if 4 ≤ form ∧ form ≤ 7 then true
  else if form = 8 then bits pa 47 40 == 0 && decide (bits pa 30 0 + size ≤ 0x59380000)
  else if form = 9 then bits pa 47 40 == 0 && decide (bits pa 37 0 + size ≤ 0x2C9C000000)
  else false

/-- Whether an address is host memory (R66). -/
def paHost (pa : Nat) : Bool := bits pa 51 50 == 1

/-- The host physical address in an address of host memory (R66). -/
def hostPa (pa : Nat) : Nat := bits pa 49 0

/-- DramOf (R67) as one number: (channel × 365,440 + index) × 4,096 + byte. -/
def dramFlat (pa : Nat) : Nat :=
  let form := bits pa 51 48
  let ci : Nat × Nat :=
    if form = 0 then
      let g := bits pa 47 12
      ((bits g 8 0) ^^^ (bits g 17 9) ^^^ (bits g 26 18) ^^^ (bits g 35 27), g >>> 9)
    else if form = 8 then (bits pa 39 31, bits pa 30 12)
    else
      let g := bits pa 37 12
      (128 * bits pa 39 38 + ((bits g 6 0) ^^^ (bits g 13 7) ^^^ (bits g 20 14) ^^^ (bits g 25 21)), g >>> 7)
  (ci.1 * granules + ci.2) * 4096 + bits pa 11 0

/-! ## DRAM (R70 to R72) -/

/-- The metadata code of a block (R70). -/
def State.blockCode (s : State) (block : Nat) : BitVec 2 := ((s.codes.find? fun c => c.1 == block).map (·.2)).getD 0

/-- The code that a stored block gets on a page with COMP set: all-zero, or what Config says of its bits (R72, log entry 11). -/
def compressedCode (v : Nat) : BitVec 2 :=
  if v = 0 then 3 else if Config.blockCode (BitVec.ofNat 1024 v) = 1 then 1 else if Config.blockCode (BitVec.ofNat 1024 v) = 2 then 2 else 0

/-- Entries that the metadata cache of a stack holds (R71). -/
def metaCapacity : Nat := 2048

/-- A stack controller consults the code of the block of a DRAM address: the entry of 256 blocks that holds it is in its cache from then on,
and the oldest of a full cache makes room (R71, log entry 64). -/
def State.metaUse (s : State) (flat : Nat) : State :=
  let chan := flat / 4096 / granules
  let e := (chan / 32, chan % 32, flat % (granules * 4096) / 128 / 256)
  if s.metaCache.contains e then s
  else
    let rest := if ((s.metaCache.filter fun x => x.1 == e.1).length) < metaCapacity then s.metaCache else s.metaCache.eraseP fun x => x.1 == e.1
    { s with metaCache := rest ++ [e] }

/-- The line whose DRAM bytes a stack controller reads for a line (R70, R71): none of an all-zero block, the first of a compressed block, which lies
in its first 64 or 32 bytes. -/
def State.dramRead (s : State) (flat : Nat) : Option Nat :=
  if s.blockCode (flat / 128) = 3 then none
  else if s.blockCode (flat / 128) = 0 then some (flat / 64 * 64)
  else some (flat / 128 * 128)

/-- Whether a stack controller meets an uncorrectable error when it reads a line (R443). -/
def State.dramBadAt (s : State) (flat : Nat) : Bool := (s.dramRead flat).any fun a => s.dramBad.contains a

/-- The line that a stack controller reads at a DRAM address, and whether it has an uncorrectable error (R443). An all-zero block is
answered without any DRAM data read (R71). -/
def State.dramLine (s : State) (flat : Nat) : Line × Bool :=
  (if s.blockCode (flat / 128) = 3 then 0 else s.dram.line flat, s.dramBadAt flat)

/-- A read of a line by a stack controller consults the code of its block (R71); a single-bit error of what it reads is corrected and counted
(R443). -/
def State.dramUse (s : State) (flat : Nat) : State :=
  let t := s.metaUse flat
  { t with corrected := t.corrected + if (s.dramRead flat).any fun a => s.dramSoft.contains a then 1 else 0 }

/-- The other line of the block of a line. -/
def otherLine (a : Nat) : Nat := if a % 128 = 0 then a + 64 else a - 64

/-- No core is concerned (R438). -/
def noPcn : Nat := 0x7FF

/-- An uncorrectable error of HBM whose record the spec gives no address (R443; log entry 17). -/
def State.dramError (s : State) : State := { s with free := s.free + 1 }.logError noPcn 0 5 (Config.errorAddr s.free) 0

/-- Whether a line write by a stack controller reads the rest of the block first: on a page with COMP, and of a block that is not raw (R72). -/
def State.dramMerges (s : State) (flat : Nat) (comp : Bool) : Bool := comp || s.blockCode (flat / 128) != 0

/-- What a line write by a stack controller meets before it: it consults the code of the block, and an error of what it reads of the block's other line is
counted or recorded (R71, R72, R443). -/
def State.dramMeets (s : State) (flat : Nat) (comp : Bool) : State :=
  if s.dramMerges flat comp then
    let t := s.dramUse (otherLine (flat / 64 * 64))
    if s.dramBadAt (otherLine (flat / 64 * 64)) then t.dramError else t
  else s.metaUse flat

/-- A line write by a stack controller: the block is stored raw, or compressed with COMP (R72). A block whose other line cannot be corrected is stored
raw, with the error at that line (log entry 15). -/
def State.dramWrite (s : State) (flat : Nat) (data : Line) (comp : Bool) : State :=
  let a := flat / 64 * 64
  let other := otherLine a
  let bad := s.dramBadAt other
  let dram := s.dram.writeLine a data
  let block := a / 128
  let code := if comp && !bad then compressedCode (dram.readLE (block * 128) 128) else 0
  let codes := s.codes.filter fun c => c.1 != block
  { s.dramMeets flat comp with
    dram := dram
    codes := if code = 0 then codes else (block, code) :: codes
    dramBad := (if bad then [other] else []) ++ s.dramBad.filter fun x => x != a && x != other
    dramSoft := s.dramSoft.filter fun x => x != a && !(s.dramMerges flat comp && x == other) }

/-! ## Leaves and checks (R103 to R107) -/

def leafRd (e : Word) : Bool := e.getLsbD 1
def leafWr (e : Word) : Bool := e.getLsbD 2
def leafA (e : Word) : Bool := e.getLsbD 4
def leafD (e : Word) : Bool := e.getLsbD 5
def leafComp (e : Word) : Bool := e.getLsbD 6
def leafRepl (e : Word) : Bool := e.getLsbD 7
def leafNm (e : Word) : Bool := e.getLsbD 8
def leafHost (e : Word) : Bool := e.getLsbD 9

/-- First physical address of the page of a leaf (R103). -/
def leafPa (e : Word) : Nat := bits e.toNat 51 16 * 65536

/-- Bytes of a page. -/
def pageBytes (big : Bool) : Nat := if big then 0x200000 else 0x10000

/-- The physical address of the line of a VA under a leaf. -/
def leafLine (e : Word) (big : Bool) (va : Nat) : Nat := leafPa e + va % pageBytes big / 64 * 64

/-- ValidForm (R66, R68, R74, R78). -/
def validForm (e : Word) (big : Bool) : Bool :=
  let pa := leafPa e
  let form := bits pa 51 48
  paValid pa (pageBytes big) &&
    (if paHost pa then !leafComp e && !leafRepl e && !leafNm e
     else (leafNm e == (form == 8)) && (!leafRepl e || (form == 9 && bits pa 39 38 == 0)))

/-- Who asks: reads, writes, and whether it is the host (R107). -/
structure Req where
  rd : Bool
  wr : Bool
  host : Bool
  deriving DecidableEq, Repr

def Req.read : Req := ⟨true, false, false⟩
def Req.write : Req := ⟨false, true, false⟩
def Req.both : Req := ⟨true, true, false⟩

/-- A fault of a kind and a reason. -/
def faultOf (kind reason : BitVec 8) : FaultInfo := ⟨kind, reason, 0⟩

/-- The checks of R107 on a leaf, in order. -/
def leafCheck (e : Word) (big : Bool) (q : Req) : Option FaultInfo :=
  if !validForm e big then some (faultOf 0x40 0x03)
  else if leafHost e && !q.host then some (faultOf 0x42 0x08)
  else if q.rd && !leafRd e then some (faultOf 0x40 0x07)
  else if q.wr && !leafWr e then some (faultOf 0x41 0x06)
  else if !leafA e then some (faultOf 0x40 0x04)
  else if q.wr && !leafD e then some (faultOf 0x41 0x05)
  else none

/-- A table at an address of this size and alignment is package-interleaved (R104). -/
def tableOk (pa size : Nat) : Bool := pa % size == 0 && decide (pa + size ≤ 0xB270000000)

/-- malformed(e, level) (R104), with level 3 for L3 down to 0 for L0. -/
def malformed (e : Word) (level : Nat) : Bool :=
  bits e.toNat 63 60 != 0 ||
    (if e.getLsbD 3 then
      decide (2 ≤ level) || (level == 1 && bits e.toNat 20 16 != 0) || (leafWr e && !leafRd e)
     else level == 0 || bits e.toNat 7 1 != 0 || !tableOk (bits e.toNat 51 8 * 256) (if level = 1 then 256 else 4096))

/-- The table index of a VA at a level (R102). -/
def tableIndex (va : Nat) : Nat → Nat
  | 0 => bits va 20 16
  | 1 => bits va 29 21
  | 2 => bits va 38 30
  | _ => bits va 47 39

/-- The DRAM address of the entry of a VA in a table at a level (R102). -/
def entryAt (va table level : Nat) : Nat := dramFlat (table + 8 * tableIndex va level)

/-- The table entry at a DRAM address, read through the stack controller (R71, R106), and whether it has an uncorrectable error. -/
def State.tableEntry (s : State) (a : Nat) : Word × Bool :=
  let r := s.dramLine (a / 64 * 64)
  (BitVec.ofNat 64 (lineGet r.1 (a % 64) 8), r.2)

/-- The walk from a table at a level downward (R107): the leaf and whether its page is 2 MiB. It reads DRAM (R106); an entry with an
uncorrectable error counts as malformed (log entry 15). -/
def State.walk (s : State) (va : Nat) : Nat → Nat → Except FaultInfo (Word × Bool)
  | table, level =>
    let r := s.tableEntry (entryAt va table level)
    let e := r.1
    if r.2 then .error (faultOf 0x40 0x02)
    else if !e.getLsbD 0 then .error (faultOf 0x40 0x01)
    else if malformed e level then .error (faultOf 0x40 0x02)
    else if e.getLsbD 3 then .ok (e, level == 1)
    else match level with
      | 0 => .error (faultOf 0x40 0x02)
      | l + 1 => State.walk s va (bits e.toNat 51 8 * 256) l
termination_by structural _ level => level

/-- The DRAM addresses of the entries that a walk reads. -/
def State.walkPath (s : State) (va : Nat) : Nat → Nat → List Nat
  | table, level =>
    let a := entryAt va table level
    let r := s.tableEntry a
    a :: (if r.2 || !r.1.getLsbD 0 || malformed r.1 level || r.1.getLsbD 3 then []
      else match level with
        | 0 => []
        | l + 1 => State.walkPath s va (bits r.1.toNat 51 8 * 256) l)
termination_by structural _ level => level

/-- The L3 table of the running context (R101). -/
def State.rootPa (s : State) : Nat := s.mgmt.root.toNat * 4096

/-! ## Translation caches (R106) -/

/-- A walk of a VA reads its table entries through the stack controllers (R71, R106). -/
def State.walked (s : State) (va : Nat) : State := (s.walkPath va s.rootPa 3).foldl State.dramUse s

/-- Whether a cached entry covers a VA. -/
def TlbEntry.covers (e : TlbEntry) (va : Nat) : Bool := if e.big then e.page / 32 == va / 0x200000 else e.page == va / 0x10000

/-- Whether a place has a leaf of a VA cached. -/
def State.caches (s : State) (place va : Nat) : Bool := s.tlb.any fun e => e.place == place && e.covers va

/-- Whether a slice holds the line of a VA and answers an access to it without a translation: the line is not marked (R62, R110). -/
def State.answers (s : State) (slice va : Nat) : Bool := s.l2.any fun l => l.slice == slice && l.line == lineOf va && !l.retrans

/-- The record of an uncorrectable error that a walk of a VA met, where that made its fault; no core is concerned (R443; log entry 15). -/
def State.noteBad (s : State) (va : Nat) (f : FaultInfo) : State :=
  if f.reason = 0x02 ∧ (s.walkPath va s.rootPa 3).any s.dramBadAt then s.logError noPcn 0 5 (BitVec.ofNat 64 va) 0 else s

/-- A translation at a place has failed: with no leaf cached there it has walked, and what it read went through the stack controllers (R71, R106). -/
def State.noteAt (s : State) (place va : Nat) (f : FaultInfo) : State :=
  if f.kind = 0x43 ∨ s.caches place va = true then s else (s.walked va).noteBad va f

/-- An access to a line at a place has faulted: nothing was walked where the slice answered, and a write denied at its destinations was checked at every
replica home (R62, R71, R149). -/
def State.noteWalk (s : State) (place va : Nat) (f : FaultInfo) : State :=
  if f.kind = 0x44 then
    let places := ((List.range 4).map fun d => replHome (lineOf va) d).filter fun h => !s.answers h va && !s.caches h va
    if places.isEmpty then s else (places.foldl (fun t _ => t.walked va) s).noteBad va f
  else if s.answers place va then s
  else s.noteAt place va f

/-- The leaf that a place would use: a cached one, else that of a walk; checked for nothing. -/
def State.leafAt (s : State) (place va : Nat) : Except FaultInfo (Word × Bool × Bool) :=
  match s.tlb.find? fun e => e.place == place && e.covers va with
  | some e => .ok (e.leaf, e.big, true)
  | none => match s.walk va s.rootPa 3 with
    | .ok (e, big) => .ok (e, big, false)
    | .error f => .error f

/-- Entries of the translation cache of a place (R106). -/
def tlbCapacity (place : Nat) : Nat := if place < 1536 then 256 else 512

/-- Of the entries of one place only the first n stay. -/
def tlbKeep (place : Nat) : Nat → List TlbEntry → List TlbEntry
  | _, [] => []
  | 0, e :: es => if e.place = place then tlbKeep place 0 es else e :: tlbKeep place 0 es
  | n + 1, e :: es => e :: tlbKeep place (if e.place = place then n else n + 1) es

/-- An entry has been used or is installed: it is the one used last, and the one used least recently makes room (R106). -/
def State.tlbUse (s : State) (e : TlbEntry) : State :=
  { s with tlb := tlbKeep e.place (tlbCapacity e.place) (e :: s.tlb.erase e) }

/-- Translate at a place (R106, R107): only a leaf that passes its checks is installed. Answers the leaf, whether its page is
2 MiB, and the line's physical address. -/
def State.translate (s : State) (place va : Nat) (q : Req) : Except FaultInfo (State × Word × Bool × Nat) :=
  match s.leafAt place va with
  | .error f => .error f
  | .ok (e, big, cached) => match leafCheck e big q with
    | some f => .error f
    | none =>
      let t := if cached then s else s.walked va
      .ok (t.tlbUse ⟨place, va / pageBytes big * (pageBytes big / 0x10000), big, e⟩, e, big, leafLine e big va)

/-! ## L2 slices (R61 to R65) -/

/-- The line that a slice holds. -/
def State.l2Find (s : State) (slice line : Nat) : Option L2Line := s.l2.find? fun l => l.slice == slice && l.line == line

/-- A slice drops a line. -/
def State.l2Drop (s : State) (slice line : Nat) : State := { s with l2 := s.l2.filter fun l => !(l.slice == slice && l.line == line) }

/-- A dirty line goes to the physical address recorded in it (R64); one with an uncorrectable error with poisoned ECC, and a record (R443). -/
def State.writeBackLine (s : State) (l : L2Line) : State :=
  if l.dirty then
    let t := s.dramWrite (dramFlat l.pa) l.data (leafComp l.leaf && !l.bad)
    if l.bad then
      ({ t with dramBad := dramFlat l.pa / 64 * 64 :: t.dramBad } : State).logError noPcn 0 5 (BitVec.ofNat 64 (l.line * 64)) 0
    else t
  else s

/-- The set of a line (R61). -/
def l2Set (line : Nat) : Nat := bits line 26 17 ^^^ bits line 36 27

/-- The lines that a slice holds in the set of a line, the oldest first. -/
def State.l2Ways (s : State) (slice line : Nat) : List L2Line := s.l2.filter fun l => l.slice == slice && l2Set l.line == l2Set line

/-- Ways of a set (R61). -/
def l2WayCount : Nat := 16

/-- Room in a slice for a line that it does not hold: a full set gives up its oldest line that no MX.RUN pins, a dirty one going to DRAM
(R61 to R64; log entry 8). -/
def State.l2Room (s : State) (slice line : Nat) : State :=
  let ws := s.l2Ways slice line
  if (s.l2Find slice line).isSome || decide (ws.length < l2WayCount) then s
  else match ws.find? fun l => l.pins.isEmpty with
    | some v =>
      let t := s.writeBackLine v
      { t with l2 := t.l2.erase v }
    | none => s

/-- A slice holds a line from now on. -/
def State.l2Put (s : State) (l : L2Line) : State :=
  let t := s.l2Room l.slice l.line
  { t with l2 := upsert (fun x => x.slice == l.slice && x.line == l.line) (fun _ => l) l t.l2 }

/-- CLEAN at a slice (R65): a dirty line goes to DRAM and stays, clean. -/
def State.cleanLine (s : State) (l : L2Line) : State := (s.writeBackLine l).l2Put { l with dirty := false }

/-- A CLEAN or CLINV that was sent takes effect at its slice (R139, R306). -/
def State.landClean (s : State) (c : Cleaning) : State :=
  let t := { s with cleans := s.cleans.erase c }
  match t.l2Find c.slice c.line with
  | some l => if c.inv then (t.writeBackLine l).l2Drop c.slice c.line else t.cleanLine l
  | none => t

/-- Every CLEAN and CLINV that core p has sent takes effect: what a fence of it waits for (R139, R306). -/
def State.landCleans (s : State) (p : Nat) : State := (s.cleans.filter fun c => c.pcn == p).foldl State.landClean s

/-- Lines of one set that MX.RUN commands pin at most (R63). -/
def pinLimit : Nat := 12

/-- The command of core p pins a line at a slice; none while that would take a thirteenth way of the set (R63). A line that no slice holds
takes no pin. -/
def State.pinAt (s : State) (p slice line : Nat) : Option State := match s.l2Find slice line with
  | none => some s
  | some l =>
    if l.pins.contains p then some s
    else if l.pins.isEmpty && decide (pinLimit ≤ ((s.l2Ways slice line).filter fun x => !x.pins.isEmpty).length) then none
    else some (s.l2Put { l with pins := l.pins ++ [p] })

/-- The command of core p releases its pins of the lines that a test names. -/
def State.unpin (s : State) (p : Nat) (gone : Nat → Bool) : State :=
  { s with l2 := s.l2.map fun l => if gone l.line then { l with pins := l.pins.filter fun q => q != p } else l }

/-- A line held and marked for retranslation meets a new translation (R110): at the recorded address it keeps its data and takes the new attributes, else it
goes, a dirty one to DRAM first. -/
def State.renew (s : State) (sl line : Nat) (leaf : Word) (pa : Nat) : State := match s.l2Find sl line with
  | some l =>
    if !l.retrans then s
    else if pa = l.pa then s.l2Put { l with leaf := leaf, retrans := false }
    else (s.writeBackLine l).l2Drop sl line
  | none => s

/-- The physical address that a slice uses: the replica of its own die for a replicated page (R74, R75). -/
def slicePa (slice : Nat) (leaf : Word) (pa : Nat) : Nat := if leafRepl leaf then pa + slice / 384 * 2 ^ 38 else pa

/-- An access reaches a slice: a held line answers from its recorded attributes, a line marked for retranslation or absent
translates (R62, R110). Answers the leaf and the line's physical address. -/
def State.slice (s : State) (sl va : Nat) (q : Req) : Except FaultInfo (State × Word × Nat) :=
  match s.l2Find sl (lineOf va) with
  | some l =>
    if !l.retrans then match leafCheck l.leaf false q with
      | some f => .error f
      | none => .ok (s, l.leaf, l.pa)
    else match s.translate sl va q with
      | .error f => .error f
      | .ok (s, e, _, pa) => .ok (s.renew sl l.line e (slicePa sl e pa), e, slicePa sl e pa)
  | none => match s.translate sl va q with
    | .error f => .error f
    | .ok (s, e, _, pa) => .ok (s, e, slicePa sl e pa)

/-- The data of a line at a slice, filled from DRAM if absent; the mark says that the line has an uncorrectable error, and where DRAM gave it
nothing is allocated. -/
def State.fill (s : State) (sl line : Nat) (leaf : Word) (pa : Nat) : State × Line × Bool :=
  match s.l2Find sl line with
  | some l => (s, l.data, l.bad)
  | none =>
    let (d, bad) := s.dramLine (dramFlat pa)
    let s := s.dramUse (dramFlat pa)
    if bad then (s, d, true) else (s.l2Put ⟨sl, line, d, false, pa, leaf, false, [], false⟩, d, false)

/-- A committed write merges into a line at a slice and makes it dirty; one that is wholly written needs nothing from DRAM (R62). A held line keeps its
recorded address, and one marked for retranslation meets the write's translation first (R64, R110; log entry 87). An uncorrectable error stays under the bytes
that are not written, and is recorded (R443; log entry 15). -/
def State.merge (s : State) (sl line : Nat) (leaf : Word) (pa : Nat) (mask : BitVec 64) (data : Line) : State :=
  let s := s.renew sl line leaf pa
  let (leaf, pa, pins) := match s.l2Find sl line with
    | some l => (l.leaf, l.pa, l.pins)
    | none => (leaf, pa, [])
  if mask = BitVec.allOnes 64 then s.l2Put ⟨sl, line, data, true, pa, leaf, false, pins, false⟩
  else
    let (s, old, bad) := s.fill sl line leaf pa
    let s := if bad then s.logError noPcn 0 5 (BitVec.ofNat 64 (line * 64)) 0 else s
    s.l2Put ⟨sl, line, lineMerge old mask data, true, pa, leaf, false, pins, bad⟩

/-! ## Replicated pages at their homes (R75 to R77, R148) -/

/-- The last number a die has applied. -/
def State.applied (s : State) (die : Nat) : Nat := s.seqApplied.toList.getD (die % 4) 0

/-- A die has applied a number. An update leaves the sequencer's queue, and counts no more against its 512, once all four dies have applied it: the
spec does not say when (log entry 77). -/
def State.setApplied (s : State) (die num : Nat) : State :=
  let t := { s with seqApplied := s.seqApplied.setIfInBounds die num }
  { t with seqQueue := t.seqQueue.filter fun u => (List.range 4).any fun d => decide (t.applied d < u.num) }

/-- The replica home of a die applies an update, and sends a notice to the cores of its die but the one whose write it is (R148); one that
would change nothing at its core is not listed. -/
def State.replApply (s : State) (die : Nat) (u : ReplUpdate) : State :=
  let t := if u.mask = 0 then s else s.merge (replHome u.line die) u.line u.leaf (u.pa + die * 2 ^ 38) u.mask u.data
  let told := t.cores.filter fun (c : Core) => u.mask != 0 && c.pcn / 384 == die && c.pcn != u.src && c.noticeMatters (sigBit u.line)
  { t with notices := t.notices ++ told.map fun (c : Core) => (c.pcn, u.line) }.setApplied die u.num

/-- Whether the notice of a line has to wait for the grant of core p's reserved chunk (R136). -/
def State.noticeHeld (s : State) (p line : Nat) : Bool := s.reservation == some p && match (s.getCore p).chunk with
  | some k => (k.rsig ||| k.wsig) &&& sigBit line != 0
  | none => false

/-- A notice of a replica home arrives at its core, unless a reserved chunk holds it back (R148, R165, R136). -/
def State.arriveOne (s : State) (n : Nat × Nat) : State :=
  if s.noticeHeld n.1 n.2 then s
  else
    let t := { s with notices := s.notices.erase n }.modCore n.1 fun c => c.notice (sigBit n.2)
    { t with submits := t.submits.filter fun q => (t.getCore q).closing }

/-- The notices of replica homes to core p arrive. -/
def State.arrive (s : State) (p : Nat) : State := (s.notices.filter fun n => n.1 == p).foldl State.arriveOne s

/-- The replica homes of a die apply every update that is queued for them, and their notices arrive. -/
def State.replDrain (s : State) (die : Nat) : State :=
  let t := s.seqQueue.foldl (fun (t : State) u => if u.num = t.applied die + 1 then t.replApply die u else t) s
  ((t.notices.map (·.1)).filter fun p => p / 384 == die).foldl State.arrive t

/-- All replica homes apply every update that is queued. -/
def State.replDrainAll (s : State) : State := (List.range 4).foldl State.replDrain s

/-! ## Operations at the home of an own-node line -/

/-- What comes of an access at a home: a fault at a translating place; it must wait; a host-memory line; an uncorrectable
error; or it is performed, with the line as it stood before. -/
inductive HomeRes where
  | fault (place : Nat) (f : FaultInfo)
  | wait
  | host (s : State) (hpa : Nat)
  | bad (s : State)
  | done (s : State) (old : Line)

/-- Whether the replica homes of a die have applied every number issued (R76). -/
def State.seqDone (s : State) (die : Nat) : Bool := s.applied die + 1 == s.seqNext

/-- A line read at a slice that its translation names. -/
def State.readAt (s : State) (sl va : Nat) (q : Req) : HomeRes := match s.slice sl va q with
  | .error f => .fault sl f
  | .ok (s, leaf, pa) =>
    let (s, l, bad) := s.fill sl (lineOf va) leaf pa
    if bad then .bad s else .done s l

/-- A read of an own-node line for a party on a die (R62, R75): a replicated line is read at the die's replica home, or, with
`seq`, at Home(va) after every earlier number (R77). -/
def State.homeRead (s : State) (die va : Nat) (q : Req) (seq : Bool) : HomeRes :=
  let x := lineOf va
  let h := homeOf x
  match s.slice h va q with
  | .error f => .fault h f
  | .ok (s', leaf, pa) =>
    if paHost pa then .host s' (hostPa pa)
    else if leafRepl leaf then
      if !seq then s'.readAt (replHome x die) va q
      else if s.seqDone (h / 384) then s'.readAt h va q
      else .wait
    else
      let (s', l, bad) := s'.fill h x leaf pa
      if bad then .bad s' else .done s' l

/-- The check of a write at one replica home: by the translation cached there, else as any access that reaches the slice (R149, R166). -/
def State.replicaCheck (s : State) (va : Nat) (q : Req) (d : Nat) : Except FaultInfo State :=
  let sl := replHome (lineOf va) d
  match s.tlb.find? fun e => e.place == sl && e.covers va with
  | some _ => (s.translate sl va q).map (·.1)
  | none => (s.slice sl va q).map (·.1)

/-- The bitmap of replicas whose translation denies a write, with the reason of the lowest one (R149), and the state with what the others
installed. -/
def State.denied (s : State) (va : Nat) (q : Req) : State × BitVec 16 × BitVec 8 :=
  [3, 2, 1, 0].foldl (fun (acc : State × BitVec 16 × BitVec 8) d => match acc.1.replicaCheck va q d with
    | .error f => (acc.1, acc.2.1 ||| (1#16 <<< d), f.reason)
    | .ok t => (t, acc.2.1, acc.2.2)) (s, 0, 0)

/-- Whether the page of an own-node VA is replicated: as its home holds the line, else as a translation there says. -/
def State.isRepl (s : State) (va : Nat) : Bool :=
  let h := homeOf (lineOf va)
  let walked := match s.leafAt h va with
    | .ok (e, big, _) => leafRepl e && validForm e big
    | .error _ => false
  match s.l2Find h (lineOf va) with
  | some l => if l.retrans then walked else leafRepl l.leaf
  | none => walked

/-- The check of a write before any byte of it (R111, R149): where the line's bytes go, or the fault and its place. A denial at one replica home leaves
the translation caches of the others as they were (log entry 94). -/
def State.writeCheck (s : State) (va : Nat) (q : Req) : Except (Nat × FaultInfo) (State × Dest) :=
  let h := homeOf (lineOf va)
  if s.isRepl va then
    let (t, map, why) := s.denied va q
    if map = 0 then match t.slice h va q with
      | .ok (t, leaf, pa) => .ok (t, .repl leaf (pa - h / 384 * 2 ^ 38))
      | .error f => .error (h, f)
    else .error (h, ⟨0x44, why, map⟩)
  else match s.slice h va q with
    | .error f => .error (h, f)
    | .ok (s, leaf, pa) => .ok (s, if paHost pa then .host (hostPa pa) else .own leaf pa)

/-- Number of updates that the sequencer holds at most (R76). -/
def seqCapacity : Nat := 512

/-- The sequencer accepts an update of a replicated line (R76). -/
def State.seqAccept (s : State) (line : Nat) (mask : BitVec 64) (data : Line) (leaf : Word) (pa src : Nat) : State :=
  { s with seqNext := s.seqNext + 1, seqQueue := s.seqQueue ++ [⟨s.seqNext, line, mask, data, leaf, pa, src⟩] }

/-- The bytes of a numbered write reach the home or the sequencer (R132, R76); `gander` keeps a moved mark (R372). -/
def State.applyWrite (s : State) (src line : Nat) (dst : Dest) (mask : BitVec 64) (data : Line) (gander : Bool) : State :=
  let s := { s with moved := if gander then s.moved else s.moved.filter fun x => x != line }
  match dst with
  | .own leaf pa => s.merge (homeOf line) line leaf pa mask data
  | .repl leaf pa => s.seqAccept line mask data leaf pa src
  | _ => s

/-- One numbered write of bytes of one own-node line, its translation known (R134): its notice, then its bytes. `skip` is the core that gets no notice (1,536: none), `src` the core whose store it is. -/
def State.numberedWrite (s : State) (skip src line : Nat) (dst : Dest) (mask : BitVec 64) (data : Line) (gander : Bool) : State :=
  let s := s.notice skip (sigBit line)
  { s with commits := s.commits + 1 }.applyWrite src line dst mask data gander

/-- A line's bytes from n bytes at an address. -/
def maskOf (va n : Nat) : BitVec 64 := BitVec.ofNat 64 ((2 ^ n - 1) <<< (va % 64))
def dataAt (va n v : Nat) : Line := lineSet 0 (va % 64) n v

/-- A write of bytes of one own-node line as one event (R134, R149), for a party that is no open chunk. `party` is the core whose own write
the commit reservation lets pass (R136) and `src` the core that sees it at once on a replicated page (R148); 1,536: none. -/
def State.homeWrite (s : State) (party src va : Nat) (mask : BitVec 64) (data : Line) (q : Req) : HomeRes :=
  match s.writeCheck va q with
  | .error (place, f) => .fault place f
  | .ok (s', dst) => match dst with
    | .host hpa => .host s' hpa
    | .repl _ _ =>
      if s.deferred party (sigBit (lineOf va)) || decide (seqCapacity ≤ s.seqQueue.length) then .wait
      else .done (s'.numberedWrite 1536 src (lineOf va) dst mask data false) 0
    | _ => if s.deferred party (sigBit (lineOf va)) then .wait else .done (s'.numberedWrite 1536 src (lineOf va) dst mask data false) 0

/-- The new bytes of an atomic, or none for a failed CAS, from the operand in memory. -/
abbrev Rmw := Nat → Option Nat

/-- The line that an atomic has written, or found for a failed CAS, at its home: on a replicated page its update takes the next number, which the
home's die has applied with it (R77). -/
def State.atomicDone (s : State) (repl : Bool) (src va : Nat) (l : L2Line) (mask : BitVec 64) (data : Line) : State :=
  let h := homeOf (lineOf va)
  let t := if mask = 0 then s else s.merge h l.line l.leaf l.pa mask data
  if repl then
    let t := t.seqAccept l.line mask data l.leaf (l.pa - h / 384 * 2 ^ 38) src
    t.setApplied (h / 384) (t.seqNext - 1)
  else t

/-- An atomic or CAS of n bytes at the home of an own-node line, indivisibly (R77, R138, R302, R303). Host memory gives
reason 0x03 (R304), after the other checks of R107 (log entry 97). On a replicated page it is checked at its home alone (R107, R149), which has applied every earlier number (R77); a full
sequencer gets room first (R76). `gander` is set for SCATADD. -/
def State.homeRmw (s : State) (party src va n : Nat) (f : Rmw) (gander : Bool) : HomeRes :=
  let x := lineOf va
  let h := homeOf x
  match s.slice h va Req.both with
  | .error e => .fault h e
  | .ok (_, leaf, pa) =>
    if paHost pa then .fault h (faultOf 0x40 0x03)
    else if s.deferred party (sigBit x) then .wait
    else
      let repl := leafRepl leaf
      let s := if repl then s.replDrain (h / 384) else s
      let s := if repl && decide (seqCapacity ≤ s.seqQueue.length) then s.replDrainAll else s
      match s.readAt h va Req.both with
      | .done s old => match s.l2Find h x with
        | none => .bad s
        | some l => match f (lineGet old (va % 64) n) with
          | none => .done (s.atomicDone repl src va l 0 0) old
          | some v =>
            let t := s.notice 1536 (sigBit x)
            let t := { t with commits := t.commits + 1, moved := if gander then t.moved else t.moved.filter fun y => y != x }
            .done (t.atomicDone repl src va l (maskOf va n) (dataAt va n v)) old
      | r => r

/-- The new memory value of an AMO (R301). -/
def amoValue (op : Nat) (wide : Bool) (m y : Nat) : Nat :=
  let w := if wide then 64 else 32
  let f := ieee32
  match op with
  | 0 => (m + y) % 2 ^ w
  | 1 => m &&& y
  | 2 => m ||| y
  | 3 => m ^^^ y
  | 4 => if signedOf w m ≤ signedOf w y then m else y
  | 5 => if signedOf w y ≤ signedOf w m then m else y
  | 6 => min m y
  | 7 => max m y
  | 8 => y
  | 9 => (addCode (.ieee f) .rne 0 m y).1
  | 10 => (f.minMax true m y).1
  | 11 => (f.minMax false m y).1
  | _ => (addCode (.tap tap32) .rne 0 m y).1

/-- The operand of an AMO or CAS: g or its low word (R301, R303). -/
def operandOf (wide : Bit) (v : Word) : Nat := if wide = 1 then v.toNat else v.toNat % 2 ^ 32

def amoRmw (op : BitVec 4) (wide : Bit) (y : Word) : Rmw := fun m => some (amoValue op.toNat (wide == 1) m (operandOf wide y))

def casRmw (wide : Bit) (expected new : Word) : Rmw := fun m =>
  if m = operandOf wide expected then some (operandOf wide new) else none

/-! ## Fabric routes (R440) -/

/-- Whether a VA is the package's own. -/
def State.isOwn (s : State) (va : Nat) : Bool := nodeOf va == s.mgmt.nodew.toNat

/-- ROUTE[n]. -/
def State.routeMask (s : State) (node : Nat) : Nat := match s.mgmt.route.find? fun r => r.1 == node with
  | some r => r.2.toNat % 4096
  | none => 0

/-- The port a request to the node of a VA takes, with the features that it needs (R439, R440). -/
def State.routePort (s : State) (va features : Nat) : Option Nat :=
  let mask := s.routeMask (nodeOf va)
  let ok := (List.range 12).filter fun i => bitAt mask i && match s.ports.toList[i]? with
    | some p => p.up && p.features.toNat &&& features == features
    | none => false
  if ok.isEmpty then none else ok[foldOf (lineOf va) % ok.length]?

/-- No fabric route (R108). -/
def noRoute : FaultInfo := faultOf 0x43 0x09

/-- The place of the Bellwether's remote park (R112). -/
def remotePark : Nat := 1536

end Sys2Proof.Machine
end

