-- ==== Sys2Proof/Machine/Access.lean ====
section
/-! DEFINITION. Global accesses of a core: classification (spec 01 R21), the L1 (03 R58), notices of q15 (05 R117), replies
to pending registers (02 R43), parks and the upcall (05 R111 to R121), requests to host memory and other nodes, and the
waits of fences (06 R139, R140). -/

namespace Sys2Proof.Machine

/-! ## Classify (R21) -/

/-- Where an address lies once Classify has passed. -/
inductive Place where
  | loc
  | own
  | rem
  deriving DecidableEq, Repr

/-- Classify(va, size, kind, mode): the class, or the cause (R21). -/
def Core.classify (c : Core) (store : Bool) (va size : Nat) : Except Nat Place :=
  if va % size ≠ 0 then .error 0x02
  else if va < globalBase then match c.localCheck store va with
    | some e => .error e
    | none => .ok .loc
  else if 2 ^ 57 ≤ va then .error 0x04
  else if nodeOf va = c.ctl.node.toNat then .ok .own
  else .ok .rem

/-- Classify for LDA, STR and atomics, which take only global addresses (R21). -/
def Core.classifyGlobal (c : Core) (store : Bool) (va size : Nat) : Except Nat Place :=
  if va % size ≠ 0 then .error 0x02
  else if va < globalBase then .error 0x03
  else c.classify store va size

/-- The die of a core (R14). -/
def dieOf (pcn : Nat) : Nat := pcn / 384

/-! ## Notices (R117, R263, R418) -/

/-- Posts a notice to q15; with 64 held it waits at the network interface, and the rise to 48 raises the event interrupt. -/
def Core.postEvent (c : Core) (e : BitVec 64) : Core :=
  if c.events.length < 64 then
    { c with
      events := c.events ++ [e]
      irq := { c.irq with event := c.irq.event || c.events.length == 47 } }
  else { c with eventsWaiting := c.eventsWaiting ++ [e] }

/-- A completion element (R264). -/
def element (value status tag : Nat) : BitVec 64 :=
  BitVec.ofNat 64 ((value % 2 ^ 40) * 2 ^ 24 + (status % 256) * 2 ^ 16 + tag % 2 ^ 16)

/-- The value field of a parked access's notice (R117). -/
def noticeValue (reason reg wsi : Nat) : Nat := reason * 2 ^ 15 + reg * 2 ^ 10 + wsi

/-! ## Owners and replies (R43, R55, R122) -/

/-- The owner that a request of the active core carries. -/
def State.owner (s : State) : Owner :=
  let c := s.core
  { pcn := c.pcn, ws := c.ctl.wpa, ctxg := s.mgmt.ctxg
    team := match c.slice with
      | .member slot => match s.team slot with
        | some t => some (slot, t.gen, c.member)
        | none => none
      | _ => none }

/-- The team that an owner belongs to, while it is admitted. -/
def State.ownerTeam (s : State) (o : Owner) : Option (Team × Nat) := match o.team with
  | some (slot, gen, i) => match s.team slot with
    | some t => if t.gen = gen then some (t, i) else none
    | none => none
  | none => none

/-- The core where an owner's workspaces are; a swapped-out member's are in its image. -/
def State.ownerCore (s : State) (o : Owner) : Nat := match s.ownerTeam o with
  | some (t, i) => t.site i
  | none => o.pcn

/-- The slot and the index of an owner that is swapped out, its state in the swap area (R55). -/
def State.away (s : State) (o : Owner) : Option (Nat × Nat) := match s.ownerTeam o with
  | some (t, i) =>
    if (t.status == TeamStatus.swappedOut || t.status == TeamStatus.arriving) && t.images.any (fun m => m.index == i) then some (t.slot, i)
    else none
  | none => none

/-- Changes the swap image of a member. -/
def State.modImage (s : State) (slot i : Nat) (f : SwapImage → SwapImage) : State :=
  s.modTeam slot fun (t : Team) => { t with images := t.images.map fun (m : SwapImage) => if m.index = i then f m else m }

/-- A reply at a workspace image in memory, as one write (R43). -/
def landImage (m : Memory) (ws : Nat) (r : Reg) (v : Word) (ok : Bool) : Memory :=
  let slot := m.readLE ws 8
  let clear := slot - (if bitAt slot r.toNat then 2 ^ r.toNat else 0)
  if ok then (m.writeLE (ws + 8 * r.toNat) 8 v.toNat).writeLE ws 8 clear
  else m.writeLE ws 8 (clear ||| 2 ^ (32 + r.toNat))

/-- A reply in a register cache, and in the copy that a squash puts back, so that it is never lost (R43). -/
def Core.landCache (c : Core) (r : Reg) (v : Word) (ok : Bool) : Core :=
  let put := fun (g : Regs) => if ok then g.put r v else g
  let poi := fun (p : BitVec 32) => if ok then p else p ||| regBit r
  let c := { c with regs := put c.regs, pois := poi c.pois, pend := c.pend &&& ~~~(regBit r) }
  c.modChunk fun k => { k with regs0 := put k.regs0, pois0 := poi k.pois0, pend0 := k.pend0 &&& ~~~(regBit r) }

/-- ReplyLands (R43). -/
def State.land (s : State) (o : Owner) (r : Reg) (v : Word) (ok : Bool) : State :=
  if r = 0 then s
  else
    match s.away o with
    | some (slot, i) => s.modImage slot i fun m => { m with record := landImage m.record (o.ws.toNat * 512) r v ok }
    | none => s.modCore (s.ownerCore o) fun c =>
      if c.ctl.wpa = o.ws then c.landCache r v ok
      else { c with spad := landImage c.spad (o.ws.toNat * 512) r v ok }

/-- Posts a notice to the owner's q15 (R117). That of a member that is swapped out waits in its swap area (log entry 21). -/
def State.postTo (s : State) (o : Owner) (e : BitVec 64) : State := match s.away o with
  | some (slot, i) => s.modImage slot i fun m =>
      { m with events := m.events ++ [e], irq := { m.irq with event := m.irq.event || m.events.length == 47 } }
  | none => s.modCore (s.ownerCore o) fun c => c.postEvent e

/-! ## Parks and the upcall (R112 to R115) -/

/-- Entries parked at a place. -/
def State.parkCount (s : State) (place : Nat) : Nat := (s.parks.filter fun e => e.place == place).length

/-- ACC, the access size and the destination register of an access (R114). -/
def AccKind.code : AccKind → Nat
  | .load .. => 0
  | .store .. => 1
  | .amo .. => 2
  | .cas .. => 3
  | .lda .. => 4
  | .str .. => 5
  | .nmc _ => 6
  | .bytes _ => 1

def AccKind.size : AccKind → Nat
  | .load n _ | .store n _ | .lda n _ _ | .str n _ _ => n
  | .amo _ w _ _ | .cas w _ _ => if w = 1 then 8 else 4
  | .nmc _ => 8
  | .bytes b => b.length

/-- Whether an access leaves a pending register (R115). -/
def AccKind.pends : AccKind → Bool
  | .store .. | .str .. | .bytes _ => false
  | _ => true

/-- The info word of an upcall record (R114). -/
def upcallInfo (ctxg deny : Nat) (pend : Bool) (reg : Reg) (size acc reason kind : Nat) : Nat :=
  ctxg * 2 ^ 48 + deny * 2 ^ 32 + 2 ^ 31 + (if pend then 2 ^ 29 else 0) + reg.toNat * 2 ^ 24 + Nat.log2 size * 2 ^ 20
    + acc * 2 ^ 16 + reason * 2 ^ 8 + kind

/-- UpcallEntry (R115) of the active core, once the access has parked. `resume` is RESUME. An access whose upcall is entered counts as completed
where it has not been counted before; one that takes CAUSE 0x10 here, with EPC at itself, does not (R135). The word that holds the valid bit is read as a core reads it
(R443; log entry 15). -/
def State.upcall (s : State) (a : Access) (f : FaultInfo) (resume : Word) (counts : Bool) : State :=
  let c := s.core
  let va := a.va
  let rec_ := c.wp + 0x100
  let valid := bitAt (c.spad.readLE (rec_ + 0x18) 8) 31
  if c.wp = c.uws then s.trapEntry 0x10 va c.pc
  else match c.badWord (rec_ + 0x18) 8 with
  | some w => (s.logError c.pcn 0 5 (BitVec.ofNat 64 w) 0).trapEntry 0x10 va c.pc
  | none =>
    let s := s.heal (c.softWords (rec_ + 0x18) 8)
    if valid then s.trapEntry 0x10 va c.pc
    else
    let pend := a.kind.pends && a.reg != 0
    let acc := if f.kind = 0x44 then 7 else a.kind.code
    let info := upcallInfo s.mgmt.ctxg.toNat f.deny.toNat pend (if a.kind.pends then a.reg else 0) a.kind.size acc
      f.reason.toNat f.kind.toNat
    let c := (((c.pokeLE rec_ 8 va.toNat).pokeLE (rec_ + 8) 8 resume.toNat).pokeLE (rec_ + 0x10) 8 0).pokeLE (rec_ + 0x18) 8 info
    let c := if pend then c.setPending a.reg else c
    if (c.switchCheck c.uws).isSome then { s with core := c }.trapEntry 0x10 va c.pc
    else match c.switchBad c.uws with
    | some w => ({ s with core := c }.logError c.pcn 0 5 (BitVec.ofNat 64 w) 0).trapEntry 0x10 va c.pc
    | none =>
      let old := c.wp
      let d := ((if counts then c.retired else c).switchTo c.uws).setReg 1 (BitVec.ofNat 64 old)
      { s.heal (c.switchSoft c.uws) with core := { d with pc := BitVec.ofNat 64 d.upc, ctl := { d.ctl with mode := .user } } }

/-- A faulting access of the active core, with no chunk open: CAUSE 0x10 in system mode; a wait while the park is full; else it
parks and the upcall is entered (R111, R112, R115). One that waits for room is issued or checked anew (log entry 92). A walk that met an uncorrectable error
is recorded (R443). -/
def State.park (s : State) (a : Access) (place : Nat) (f : FaultInfo) : Res :=
  if s.core.ctl.mode = .system then .next ((s.noteWalk place a.va.toNat f).trapEntry 0x10 a.va s.core.pc)
  else if 64 ≤ s.parkCount place then .next s
  else
    let s := s.noteWalk place a.va.toNat f
    let s := { s with
      parks := s.parks ++ [(⟨place, a, s.owner, f, 0⟩ : Parked)]
      core := { s.core with early := none } }
    .next (s.upcall a f (s.core.pc + 4) true)

/-- A fault found by an early check: the chunk is cut back, and the access parks once it has gone (R111). -/
def State.earlyFault (s : State) (a : Access) (place : Nat) (f : FaultInfo) : Res :=
  .next { s with core := { s.core with early := some (a, place, f) }.close }

/-- A machine check of the active core for an uncorrectable error (R443): the record of type 5, then CAUSE 0x10. -/
def State.machineCheck (s : State) (va : Nat) : Res :=
  if s.core.chunk.isSome then .next { s with core := s.core.close }
  else (s.logError s.core.pcn 0 5 (BitVec.ofNat 64 va) 0).trapN 0x10 va

/-! ## The L1 -/

/-- The line that the L1 holds, without an uncorrectable error. -/
def Core.l1Find (c : Core) (line : Nat) : Option Line := (c.l1.find? fun l => l.line == line && !l.bad).map (·.data)

/-- The L1 loses a line. -/
def Core.l1Drop (c : Core) (line : Nat) : Core := { c with l1 := c.l1.filter fun l => l.line != line }

/-- Lines of an L1 (R58). -/
def l1Capacity : Nat := 512

/-- The Speculative lines of the L1: those that the open chunk has stored to (R59). -/
def Core.specLines (c : Core) : List Nat := match c.chunk with
  | some k => k.lines
  | none => []

/-- Number of lines that the L1 holds. -/
def Core.l1Held (c : Core) : Nat := (c.l1.filter fun l => !c.specLines.contains l.line).length + c.specLines.length

/-- Room in the L1 for a line that it does not hold: a full one gives up the Clean line used least recently, silently (R59, R60; log
entry 8). -/
def Core.l1Room (c : Core) (line : Nat) : Core :=
  if c.l1.any (fun l => l.line == line) || c.specLines.contains line || decide (c.l1Held < l1Capacity) then c
  else match c.l1.find? fun l => !c.specLines.contains l.line with
    | some v => c.l1Drop v.line
    | none => c

/-- The L1 holds a line, as the one used last. -/
def Core.l1Put (c : Core) (line : Nat) (d : Line) : Core :=
  let c := (c.l1Room line).l1Drop line
  { c with l1 := c.l1 ++ [⟨line, d, false⟩] }

/-- A held line is used. -/
def Core.l1Touch (c : Core) (line : Nat) : Core := match c.l1Find line with
  | some d => c.l1Put line d
  | none => c

/-- A line that the L1 holds with an uncorrectable error is met: a record, and the line becomes Invalid (R443). -/
def State.l1Heal (s : State) (line : Nat) : State :=
  if s.core.l1.any fun l => l.line == line && l.bad then
    let t := s.logError s.core.pcn 0 5 (BitVec.ofNat 64 (line * 64)) 0
    { t with core := t.core.l1Drop line }
  else s

/-- A line with a newest-first buffer's bytes laid over it. -/
def overlayLine (buf : List Host.Cell) (line : Nat) (l : Line) : Line :=
  let r := bufLine buf line
  lineMerge l r.1 r.2

/-- A filled line of a replicated page with the core's own updates that its replica has not applied (R148). -/
def State.ownUpdates (s : State) (p line : Nat) (l : Line) : Line :=
  s.seqQueue.foldl (fun l u =>
    if u.src = p ∧ u.line = line ∧ s.applied (dieOf p) < u.num then lineMerge l u.mask u.data else l) l

/-- The buffered bytes of the open chunk, newest first. -/
def Core.gbuf (c : Core) : List Host.Cell := match c.chunk with
  | some k => k.gbuf
  | none => []

/-- Whether the open chunk holds every one of n bytes. -/
def Core.bufHas (c : Core) (va n : Nat) : Bool := (List.range n).all fun i => (bufByte c.gbuf (va + i)).isSome

/-! ## Host memory and other nodes (R78, R146, R299) -/

/-- The new value that an atomic makes of n bytes at its address; none for a failed CAS and for what is no atomic. -/
def AccKind.rmw : AccKind → Rmw
  | .amo op w y _ => amoRmw op w y
  | .cas w x y => casRmw w x y
  | _ => fun _ => none

/-- A far memory after an atomic of n bytes at its address. -/
def farAtomic (m : Memory) (a : Access) : Memory :=
  let va := a.va.toNat
  match a.kind.rmw (m.readLE va a.kind.size) with
  | some v => m.writeLE va a.kind.size v
  | none => m

/-- A far memory after a write under way has been performed. -/
def applyFar (m : Memory) (w : FarWrite) : Memory := match w.rmw with
  | some a => farAtomic (m.writeBuf w.bytes) a
  | none => m.writeBuf w.bytes

/-- Bytes of a far memory, the writes under way of one core laid over it, oldest first. -/
def farBytes (m : Memory) (ws : List FarWrite) (p a n : Nat) : Nat :=
  (ws.foldl (fun m w => if w.pcn = p then applyFar m w else m) m).readLE a n

/-- The reason for which a page of another node faults there (log entry 10). -/
def State.remoteFault (s : State) (va : Nat) : Option (BitVec 8) :=
  (s.remoteFaults.find? fun f => f.1 == va / 65536).map (·.2)

/-- Whether a fold contribution that waits holds a port (R96): all that came through it later waits behind it. -/
def State.portHeld (s : State) (port : Nat) : Bool := s.folds.any fun c => decide (2048 ≤ c.sender) && c.port == port

/-- Whether the port that a request took, if it took one, is held. -/
def State.heldBehind (s : State) (port : Option Nat) : Bool := port.any s.portHeld

/-- Far writes of a core that are not complete. -/
def State.farOpen (s : State) (p : Nat) : Bool := s.hostWrites.any (fun w => w.pcn == p) || s.remoteWrites.any (fun w => w.pcn == p)

/-- Whether the waits of FENCE.P are over (R139): every own-node access is performed within its own step, so only atomics and
STR to other nodes or the host remain. -/
def State.fencePDone (s : State) (p : Nat) : Bool :=
  (s.remoteWrites ++ s.hostWrites).all fun w => !(w.pcn == p && w.rmw.isSome)

/-- Whether every earlier access of a core has completed (R140). -/
def State.earlierDone (s : State) (p : Nat) : Bool := !s.farOpen p

/-- The number that a fence waits for at its own die's replica homes (R139): the last one issued when it began. -/
def State.fenceGoal (s : State) (c : Core) : Nat := c.fence.getD (s.seqNext - 1)

/-- Whether every notice of a replica home to a core has arrived (R148). -/
def State.noticed (s : State) (p : Nat) : Bool := s.notices.all fun n => n.1 != p

/-- Whether the waits of FENCE.S are over (R139, R148). -/
def State.fenceSDone (s : State) : Bool :=
  s.earlierDone s.core.pcn && decide (s.fenceGoal s.core ≤ s.applied (dieOf s.core.pcn)) && s.noticed s.core.pcn

/-- A fence goes on waiting and keeps its number. -/
def State.fenceWait (s : State) : Res := .next { s with core := { s.core with fence := some (s.fenceGoal s.core) } }

/-! ## Timetable ranges (R144, R402) -/

def ttAct (e : BitVec 64) : Nat := bits e.toNat 27 24
def ttAddr (e : BitVec 64) : Nat := bits e.toNat 47 32
def ttLen (e : BitVec 64) : Nat := bits e.toNat 55 48

/-- A member after BARS, before the end of its phase (R144). -/
def Core.barsOpen (c : Core) : Bool := c.phase == .arrived true || c.phase == .running true

/-- Whether [a, a + n) overlaps a range that the timetable writes, or, with `any`, one that it names at all (R144). -/
def Core.ttOverlap (c : Core) (any : Bool) (a n : Nat) : Bool :=
  n != 0 && c.timetable.any fun e =>
    (ttAct e == 1 || ttAct e == 3 || (any && (ttAct e == 0 || ttAct e == 2))) &&
      decide (64 * ttAddr e < a + n) && decide (a < 64 * (ttAddr e + ttLen e))

/-- Whether R144 stalls an access of the core: `store` says that it writes or that it is a command. -/
def Core.ttStall (c : Core) (store : Bool) (a n : Nat) : Bool := c.barsOpen && c.ttOverlap store a n

/-- A stall that keeps the chunk open, except under the commit reservation (R129, R136). -/
def State.stallOpen (s : State) : Res := if s.reservation = some s.core.pcn then s.waitClosed else .next s

/-! ## Plain loads (R294, R295) -/

/-- The value of a load (R294). -/
def loadValue (size : Nat) (signed : Bool) (v : Nat) : Word := if signed then sextW (8 * size) v else zextW (8 * size) v

/-- A load's signature bit (R131). -/
def Core.noteRead (c : Core) (line : Nat) : Core := c.modChunk fun k => { k with rsig := k.rsig ||| sigBit line }

/-- Completes a global load from its line. -/
def State.loadDone (s : State) (d : Reg) (va size : Nat) (signed : Bool) (l : Line) : Res :=
  s.inChunk fun c =>
    let c := c.noteRead (lineOf va)
    let v := lineGet (overlayLine c.gbuf (va / 64) l) (va % 64) size
    (c.setReg d (loadValue size signed v)).step4

/-- The commit reservation of a core ends with its commit (R136). -/
def State.endReservation (s : State) (p : Nat) : State :=
  if s.reservation = some p then { s with reservation := none } else s

/-- A load whose data comes from host memory or another node: it stalls within the open chunk (R295). Under the commit reservation that
chunk closes first, and the load opens the next one, which holds no reservation (R129, R136). -/
def State.loadFar (s : State) (a : Access) (hpa port : Option Nat) : Res :=
  if s.reservation = some s.core.pcn ∧ s.core.chunk.isSome then s.waitClosed
  else
    let c := s.core.openChunk.noteRead (lineOf a.va.toNat)
    .next ({ s with core := { c with out := some (a, hpa), outPort := port } }.endReservation s.core.pcn)

/-- A load of an own-node address. -/
def State.loadOwn (s : State) (d : Reg) (va size : Nat) (signed : Bool) : Res :=
  let x := lineOf va
  let acc : Access := ⟨.load size signed, BitVec.ofNat 64 va, d⟩
  if s.core.bufHas va size then s.loadDone d va size signed 0
  else match s.core.l1Find x with
    | some l => ({ s with core := s.core.l1Touch x } : State).loadDone d va size signed l
    | none =>
      let s := s.l1Heal x
      match s.homeRead (dieOf s.core.pcn) va Req.read false with
      | .fault place f => s.earlyFault acc place f
      | .wait => s.stallOpen
      | .bad s => s.machineCheck va
      | .host s hpa => s.loadFar acc (some hpa) none
      | .done s l =>
        let l := s.ownUpdates s.core.pcn x l
        ({ s with core := s.core.l1Put x l } : State).loadDone d va size signed l

/-- A load of another node's address. -/
def State.loadRemote (s : State) (d : Reg) (va size : Nat) (signed : Bool) : Res :=
  let acc : Access := ⟨.load size signed, BitVec.ofNat 64 va, d⟩
  if s.core.bufHas va size then s.loadDone d va size signed 0
  else match s.routePort va 0 with
    | none => s.earlyFault acc remotePark noRoute
    | some port => s.loadFar acc none (some port)

/-- A load of a local address (R40, R48, R130, R144); a single-bit error of what it reads from the scratchpad is corrected and counted (R443). -/
def State.loadLocal (s : State) (d : Reg) (va size : Nat) (signed : Bool) : Res :=
  let cached := decide (s.core.wp ≤ va) && decide (va < s.core.wp + 256)
  if s.rangeBusy va size || s.core.ttStall false va size then s.stallOpen
  else match if cached then none else s.core.badWord va size with
    | some w => s.machineCheck w
    | none => (s.heal (if cached then 0 else s.core.softWords va size)).inChunk fun c => (c.setReg d (loadValue size signed (c.localRead va size))).step4

/-- Load(d, a, imm, size, signed) (R294). -/
def State.load (s : State) (d a : Reg) (imm : BitVec 16) (size : Nat) (signed : Bool) : Res :=
  s.gate [a] [d] <|
    let va := (s.core.reg a + imm.signExtend 64).toNat
    match s.core.classify false va size with
    | .error e => s.trapN e va
    | .ok .loc => s.loadLocal d va size signed
    | .ok .own => s.loadOwn d va size signed
    | .ok .rem => s.loadRemote d va size signed

/-! ## Plain stores (R294, R296) -/

/-- A store into a slot of the register cache (R40): it changes gn and clears its poison bit; a pending bit stays set, and nothing stalls (log
entry 30). -/
def Core.cacheStore (c : Core) (va size v : Nat) : Core :=
  let n := (va - c.wp) / 8
  let o := (va - c.wp) % 8
  let old := c.cacheSlot n
  let new := old - (old >>> (8 * o)) % 2 ^ (8 * size) * 2 ^ (8 * o) + v % 2 ^ (8 * size) * 2 ^ (8 * o)
  c.setReg (BitVec.ofNat 5 n) (BitVec.ofNat 64 new)

/-- A store of a local address (R40, R144, R296); the 65th buffered store closes the chunk (R129). -/
def State.storeLocal (s : State) (va size v : Nat) : Res :=
  let c := s.core
  if c.wp ≤ va ∧ va < c.wp + 8 then s.trapN 0x03 va
  else if c.ttStall true va size then s.stallOpen
  else if c.wp ≤ va ∧ va < c.wp + 256 then s.inChunk fun c => (c.cacheStore va size v).step4
  else if (match c.chunk with | some k => decide (64 ≤ k.sstores) | none => false) then s.waitClosed
  else s.inChunk fun c =>
    (c.modChunk fun k => { k with sbuf := cellsOf va size v ++ k.sbuf, sstores := k.sstores + 1 }).step4

/-- Buffers a global store in the open chunk; a line that it stores to first takes a place in the L1 (R58, R59). -/
def State.bufferStore (s : State) (va size v : Nat) (dst : Option Dest) : Res :=
  s.inChunk fun c =>
    let c := if dst.isSome then c.l1Room (va / 64) else c
    (c.modChunk fun k => { k with
      gbuf := cellsOf va size v ++ k.gbuf
      wsig := k.wsig ||| sigBit (lineOf va)
      dests := match dst with
        | some d => (va / 64, d) :: k.dests
        | none => k.dests }).step4

/-- A store of a global address (R58, R111, R129): the first store of the chunk to a line is checked, where its node translates it; a 33rd line
closes the chunk. -/
def State.storeGlobal (s : State) (va size v : Nat) (own : Bool) : Res :=
  let known := match s.core.chunk with
    | some k => k.dests.any fun d => d.1 == va / 64
    | none => false
  let full := match s.core.chunk with
    | some k => decide (32 ≤ k.dests.length)
    | none => false
  let acc : Access := ⟨.store size (BitVec.ofNat 64 v), BitVec.ofNat 64 va, 0⟩
  if known then s.bufferStore va size v none
  else if full then s.waitClosed
  else if own then match s.writeCheck va Req.write with
    | .error (place, f) => s.earlyFault acc place f
    | .ok (s, dst) => s.bufferStore va size v (some dst)
  else match s.routePort va 0, s.remoteFault va with
    | none, _ => s.earlyFault acc remotePark noRoute
    | some _, some why => s.earlyFault acc remotePark (faultOf 0x43 why)
    | some _, none => s.bufferStore va size v (some .remote)

/-- Store(b, a, imm, size) (R294). -/
def State.store (s : State) (b a : Reg) (imm : BitVec 16) (size : Nat) : Res :=
  s.gate [a, b] [] <|
    let va := (s.core.reg a + imm.signExtend 64).toNat
    let v := (s.core.reg b).toNat % 2 ^ (8 * size)
    match s.core.classify true va size with
    | .error e => s.trapN e va
    | .ok .loc => s.storeLocal va size v
    | .ok .own => s.storeGlobal va size v true
    | .ok .rem => s.storeGlobal va size v false

/-! ## Acquire loads, release stores, atomics -/

/-- The result of an atomic or CAS in d: the doubleword, or the word sign-extended (R302, R303). -/
def oldValue (wide : Bit) (v : Nat) : Word := if wide = 1 then zextW 64 v else sextW 32 v

/-- A request to host memory or another node leaves, and the core waits for its data (R299, R302). -/
def State.sendOut (s : State) (a : Access) (hpa port : Option Nat) : Res :=
  .next { s with core := { s.core with out := some (a, hpa), outPort := port } }

/-- The leaf by which the home of a line holds it. -/
def State.heldLeaf (s : State) (va : Nat) : Option Word := (s.l2Find (homeOf (lineOf va)) (lineOf va)).map fun l => l.leaf

/-- LDA (R298, R299): at the home or the own die's replica home; with scope S through the sequencer, and then every number
issued before it has reached the own die too (R148). -/
def State.acquireLoad (s : State) (d a : Reg) (size : Nat) (signed scopeS : Bool) : Res :=
  let va := (s.core.reg a).toNat
  let acc : Access := ⟨.lda size signed scopeS, BitVec.ofNat 64 va, d⟩
  match s.core.classifyGlobal false va size with
  | .error e => s.trapN e va
  | .ok .rem => match s.routePort va 0 with
    | none => s.park acc remotePark noRoute
    | some port => s.sendOut acc none (some port)
  | .ok _ => match s.homeRead (dieOf s.core.pcn) va Req.read scopeS with
    | .fault place f => s.park acc place f
    | .wait => .next s
    | .bad s => s.machineCheck va
    | .host s hpa => s.sendOut acc (some hpa) none
    | .done t l =>
      let repl := match t.heldLeaf va with | some e => leafRepl e | none => false
      if scopeS && repl && !(s.seqDone (dieOf s.core.pcn) && s.noticed s.core.pcn) then .next s
      else
        let l := if scopeS then l else t.ownUpdates t.core.pcn (lineOf va) l
        t.done fun c => c.setReg d (loadValue size signed (lineGet l (va % 64) size))
/-- STR once its fence has been waited for (R298, R299): one event at the home, or a far write, which STR.S awaits. -/
def State.releaseStore (s : State) (va size v : Nat) (scopeS : Bool) (pl : Place) : Res :=
  let p := s.core.pcn
  let acc : Access := ⟨.str size (BitVec.ofNat 64 v) scopeS, BitVec.ofNat 64 va, 0⟩
  let s := { s with core := { s.core with fence := none } }.landCleans p
  let far := fun (s : State) (hpa port : Option Nat) =>
    let a := match hpa with
      | some h => h / 64 * 64 + va % 64
      | none => va
    let w : FarWrite := ⟨p, s.owner, s.core.ctl.mode == .system, cellsOf a size v, some acc, port, va / 64, false⟩
    let s := if hpa.isSome then { s with hostWrites := s.hostWrites ++ [w] } else { s with remoteWrites := s.remoteWrites ++ [w] }
    if scopeS then s.sendOut acc hpa port else s.done id
  match pl with
  | .rem => match s.routePort va 0 with
    | none => s.park acc remotePark noRoute
    | some port => far s none (some port)
  | _ => match s.homeWrite p p va (maskOf va size) (dataAt va size v) Req.write with
    | .fault place f => s.park acc place f
    | .wait => .next s
    | .bad s => s.machineCheck va
    | .host s hpa => far s (some hpa) none
    | .done s _ => s.done fun c => c.l1Drop (lineOf va)

/-- STR (R298): the checks, the wait of FENCE.P or FENCE.S, the store. -/
def State.releaseStr (s : State) (a b : Reg) (size : Nat) (scopeS : Bool) : Res :=
  let va := (s.core.reg a).toNat
  let v := (s.core.reg b).toNat % 2 ^ (8 * size)
  match s.core.classifyGlobal true va size with
  | .error e => s.trapN e va
  | .ok pl =>
    if scopeS && !s.fenceSDone then s.fenceWait
    else if !scopeS && !s.fencePDone s.core.pcn then .next s
    else s.releaseStore va size v scopeS pl

/-- An AMO or CAS (R302, R303): its read-modify-write at the home, or over ZFP. `quiet` is the no-return form of an AMO. -/
def State.atomic (s : State) (acc : Access) (wide : Bit) (quiet : Bool) (f : Rmw) : Res :=
  let va := acc.va.toNat
  let n := if wide = 1 then 8 else 4
  match s.core.classifyGlobal true va n with
  | .error e => s.trapN e va
  | .ok .rem => match s.routePort va 2 with
    | none => s.park acc remotePark noRoute
    | some port =>
      if quiet then
        let w : FarWrite := ⟨s.core.pcn, s.owner, s.core.ctl.mode == Mode.system, [], some acc, some port, va / 64, false⟩
        { s with remoteWrites := s.remoteWrites ++ [w] }.done id
      else s.sendOut acc none (some port)
  | .ok _ =>
    let s := { s with core := { s.core.l1Drop (lineOf va) with sent := false } }
    match s.homeRmw s.core.pcn s.core.pcn va n f false with
    | .fault place e => s.park acc place e
    | .wait => .next { s with core := { s.core with sent := true } }
    | .host s _ => .next s
    | .bad s => s.machineCheck va
    | .done s old => s.done fun c => if quiet then c else c.setReg acc.reg (oldValue wide (lineGet old (va % 64) n))

/-- AMO (R302). -/
def State.amo (s : State) (word : Word) (op : BitVec 4) (d a b : Reg) (n w : Bit) : Res :=
  s.alone false word [a, b] [d] <|
    let y := s.core.reg b
    s.atomic ⟨.amo op w y n, s.core.reg a, d⟩ w (n == 1) (amoRmw op w y)

end Sys2Proof.Machine
end

