-- ==== Sys2Proof/Machine/Operands.lean ====
section
/-! DEFINITION. Operand forms: immediates (spec 11 R255), packed lanes (12 R279), distribution tables (12 R276), and local
operand ranges (01 R21, R22). -/

namespace Sys2Proof.Machine

/-! ## Immediates -/

/-- sext(imm16, 16). -/
def immS (i : BitVec 16) : Word := i.signExtend 64

/-- zext(imm16, 16). -/
def immZ (i : BitVec 16) : Word := i.setWidth 64

/-- 4 × sext(imm16, 16): a word offset (R280). -/
def immBranch (i : BitVec 16) : Word := i.signExtend 64 <<< 2

/-- 4 × sext(off26, 26) (R281). -/
def immJump (o : BitVec 26) : Word := o.signExtend 64 <<< 2

/-- 1 or 0. -/
def boolWord (b : Bool) : Word := if b then 1 else 0

/-! ## Register forms -/

/-- An instruction on two source registers that writes one (R268). -/
def State.binary (s : State) (d a b : Reg) (f : Word → Word → Word) : Res :=
  s.gate [a, b] [d] <| s.inChunk fun c => (c.setReg d (f (c.reg a) (c.reg b))).step4

/-- An instruction on one source register that writes one. -/
def State.unary (s : State) (d a : Reg) (f : Word → Word) : Res :=
  s.gate [a] [d] <| s.inChunk fun c => (c.setReg d (f (c.reg a))).step4

/-- A branch (R280). -/
def State.branch (s : State) (a b : Reg) (i : BitVec 16) (f : Word → Word → Bool) : Res :=
  s.gate [a, b] [] <| s.inChunk fun c => if f (c.reg a) (c.reg b) then c.jump (c.pc + immBranch i) else c.step4

/-! ## Packed lanes (R278, R279) -/

/-- Bits of a lane. -/
def laneWidth (w : BitVec 2) : Nat := match w.toNat with
  | 0 => 8
  | 1 => 16
  | _ => 32

/-- Lane j of a word, signed or natural. -/
def laneOf (w : Nat) (signed : Bool) (x : Word) (j : Nat) : Int :=
  let v := (x.toNat >>> (w * j)) % 2 ^ w
  if signed then signedOf w v else v

/-- Applies an exact operation lane by lane; each result saturates or wraps. -/
def packed (w : BitVec 2) (signed sat : Bool) (f : Int → Int → Int) (x y : Word) : Word :=
  let n := laneWidth w
  let lane := fun j =>
    let v := f (laneOf n signed x j) (laneOf n signed y j)
    wrapTo n (if sat then clampTo n (!signed) v else v)
  BitVec.ofNat 64 ((List.range (64 / n)).foldr (fun j acc => lane j * 2 ^ (n * j) + acc) 0)

/-! ## Local operand ranges -/

/-- The check of a local operand of n bytes by the local branch of Classify (R21, R22): the trap, or nothing. -/
def State.localOperand (s : State) (store : Bool) (a n : Nat) (k : Res) : Res :=
  match s.core.rangeCheck store a n with
  | some (e, at_) => s.trapN e at_
  | none => k

/-- The bytes that a chunkless instruction reads from a local operand: the register cache or the scratchpad (R40). An
uncorrectable error is a machine check, and a single-bit error is counted (R443). -/
def State.readOperand (s : State) (a n : Nat) (k : Nat → Res) : Res :=
  match s.core.badWord a n with
  | some w => s.machineCheck w
  | none => healed (s.core.softWords a n) (k (s.core.localRead a n))

/-! ## Distributed coordinates (R276, R277) -/

/-- A distribution table: BASE, ESIZE, and (N, B, P, STRIDE) of each dimension. -/
structure DistTable where
  base : Nat
  esize : Nat
  dims : List (Nat × Nat × Nat × Nat)
  deriving DecidableEq, Repr

/-- A little-endian field of a block that is one number. -/
def fieldOf (v o n : Nat) : Nat := (v >>> (8 * o)) % 2 ^ (8 * n)

/-- The table that 80 bytes spell, or none if it breaks R276. -/
def distTable (v : Nat) : Option DistTable :=
  let ndim := fieldOf v 0x0C 4
  let dims := (List.range (min ndim 4)).map fun i =>
    (fieldOf v (0x10 + 16 * i) 4, fieldOf v (0x14 + 16 * i) 4, fieldOf v (0x18 + 16 * i) 4, fieldOf v (0x1C + 16 * i) 4)
  let inRange := fun (x lo hi : Nat) => decide (lo ≤ x) && decide (x ≤ hi)
  if decide (fieldOf v 0 8 < 2 ^ 48) && inRange (fieldOf v 8 4) 1 65535 && inRange ndim 1 4 &&
      dims.all fun d => inRange d.1 1 65536 && inRange d.2.1 1 65536 && inRange d.2.2.1 1 65536 && inRange d.2.2.2 0 65535 then
    some ⟨fieldOf v 0 8, fieldOf v 8 4, dims⟩
  else none

/-- Owner and linear index over the dimensions, or none outside an extent (R277). -/
def distIndex : List (Nat × Nat × Nat × Nat) → Nat → Nat → Nat → Option (Nat × Nat)
  | [], _, owner, lin => some (owner, lin)
  | (n, b, p, stride) :: rest, coord, owner, lin =>
    let c := coord % 65536
    if n ≤ c then none
    else
      let len := (n + b * p - 1) / (b * p) * b
      let l := c / (b * p) * b + c % b
      distIndex rest (coord / 65536) (owner + c / b % p * stride) (lin * len + l)

/-- The result of GADDR (R277). -/
def gaddrValue (t : DistTable) (coord : Word) : Word :=
  match distIndex t.dims coord.toNat 0 0 with
  | none => BitVec.allOnes 64
  | some (owner, lin) =>
    let off := t.base + t.esize * lin
    if 0xFFFF ≤ owner ∨ 2 ^ 48 ≤ off then BitVec.allOnes 64 else BitVec.ofNat 64 (owner * 2 ^ 48 + off)

end Sys2Proof.Machine
end

