-- ==== Sys2Proof/Machine/Trigger.lean ====
section
/-! DEFINITION. Trigger counters, armed actions and the trigger unit (spec 09 R226, R227), the slots of the engine queues
(11 R263, R264) and the completion of a command. -/

namespace Sys2Proof.Machine

/-! ## Slots (R263) -/

/-- MX.SAVE and MX.RESTORE (R359). -/
def Cmd.isControl (k : Cmd) : Bool := k.table.isNone && (bits k.word.toNat 7 0 == 0x11 || bits k.word.toNat 7 0 == 0x12)

/-- Whether a command holds a slot: a CTBL copy, SAVE and RESTORE need none (R349, R359). -/
def Cmd.takesSlot (k : Cmd) : Bool := k.table.isNone && !k.isControl

/-- Slots of q0 to q4 in use: commands and elements not popped. -/
def EngineQ.used (e : EngineQ) : Nat := (e.cmds.filter Cmd.takesSlot).length + (e.elems.length - e.loose.length)

/-- The queue number q of a core; an empty one for a number that is none. -/
def Core.queue (c : Core) (q : Nat) : EngineQ := c.qs.toList.getD q ⟨[], [], []⟩

/-- Changes queue q. -/
def Core.modQ (c : Core) (q : Nat) (f : EngineQ → EngineQ) : Core := { c with qs := c.qs.setIfInBounds q (f (c.queue q)) }

/-- The oldest element of a queue is taken (R346). -/
def EngineQ.pop (e : EngineQ) : EngineQ :=
  { e with elems := e.elems.drop 1, loose := (e.loose.filter fun i => i != 0).map fun i => i - 1 }

/-- A command enters its queue, with its number among those pushed on the core (R348). -/
def Core.enqueue (c : Core) (q : Nat) (k : Cmd) : Core :=
  { c with pushed := c.pushed + 1 }.modQ q fun e => { e with cmds := e.cmds ++ [{ k with num := c.pushed }] }

/-- Whether queue q has a free slot of its 32. -/
def Core.slotFree (c : Core) (q : Nat) : Bool := decide ((c.queue q).used < 32)

/-- Whether queue q takes a command now. -/
def Core.room (c : Core) (q : Nat) (k : Cmd) : Bool := !k.takesSlot || c.slotFree q

/-! ## Firing (R227) -/

/-- Whether R144 stalls the push of a command. -/
def Core.stalledPush (c : Core) (k : Cmd) : Bool := k.spans.any fun r => c.ttStall true r.1 r.2

/-- The fired push at the head of the trigger unit enters its queue as a QPUSH would, if a slot is free and R144 does not stall it (R142, R227). -/
def Core.pushFired (c : Core) : Core := match c.fired with
  | [] => c
  | (_, q, k) :: rest => if c.room q k && !c.stalledPush k then { c.enqueue q k with fired := rest } else c

/-- Every fired push that can enter its queue in firing order does. The number is fuel. -/
def Core.drainFired : Nat → Core → Core
  | 0, c => c
  | n + 1, c => Core.drainFired n c.pushFired

/-- One armed action fires, its counter holding v. -/
def Core.fire (v : Nat) (c : Core) (a : Armed) : Core := match a.kind with
  | .push q k => { c with fired := c.fired ++ [(a.ctr, q, k)] }
  | .event => c.postEvent (element v 0 (0xFF10 + a.ctr.toNat))
  | .wake => { c with wake := true }

/-- The actions that fire, in ascending threshold, equal ones in arming order (R227). -/
def Core.fireAll (c : Core) (hit : Armed → Bool) (v : Nat) : Core :=
  let now := sortBy (fun (x y : Armed) => decide (x.thr.toNat ≤ y.thr.toNat)) (c.armed.filter hit)
  let c := now.foldl (Core.fire v) { c with armed := c.armed.filter fun a => !hit a }
  Core.drainFired 64 c

/-- An increment of a counter by k (R226, R227). -/
def Core.bump (c : Core) (i : BitVec 4) (k : Nat) : Core :=
  let old := Vector.get c.ctrs i.toFin
  let v := old.value.toNat
  let sum := v + k
  let v' := min sum 0xFFFFFFFF
  let c := { c with ctrs := Vector.set c.ctrs i.toNat ⟨BitVec.ofNat 32 v', if 0xFFFFFFFF < sum then 1 else old.sat⟩ i.isLt }
  c.fireAll (fun a => a.ctr == i && decide (v < a.thr.toNat) && decide (a.thr.toNat ≤ v')) v'

/-- An increment by 1 of a command or a window: one that finds the core's state already saved for a swap waits for its swap-in (R416, R425). -/
def Core.count (c : Core) (i : BitVec 4) : Core := if c.acked then { c with lateIncs := c.lateIncs ++ [i] } else c.bump i 1

/-- Arms an action; one whose threshold is already reached fires at once (R227). -/
def Core.arm (c : Core) (a : Armed) : Core :=
  let v := (Vector.get c.ctrs a.ctr.toFin).value.toNat
  if a.thr.toNat ≤ v then Core.drainFired 64 (c.fire v a) else { c with armed := c.armed ++ [a] }

/-! ## Command words and completion (R261, R264) -/

/-- Bits hi to lo of a command word. -/
def Cmd.field (k : Cmd) (hi lo : Nat) : Nat := bits k.word.toNat hi lo

def Cmd.tag (k : Cmd) : Nat := k.field 31 16
def Cmd.cie (k : Cmd) : Bool := k.field 15 15 == 1
def Cmd.ctr (k : Cmd) : BitVec 4 := BitVec.ofNat 4 (k.field 11 8)
def Cmd.cls (k : Cmd) : Nat := k.field 7 4
def Cmd.code (k : Cmd) : Nat := k.field 3 0

/-- A command that is not under way and carries nothing beside its word and generator state. -/
def Cmd.of (word : BitVec 256) (gen : Word) : Cmd where
  word := word
  pushed := word
  gen := gen
  block := 0
  wideBad := false
  progress := 0
  flags := 0
  started := none
  begun := none
  sent := false
  num := 0
  spans := []
  table := none

/-- The commands of a record at an address are kept, each with its place (R25, R357; log entry 67). -/
def keep (kept : List Kept) (addr : Nat) (ks : List (Nat × Cmd)) : List Kept :=
  let new := ks.map fun x => (⟨addr, x.1, x.2⟩ : Kept)
  kept.filter (fun k => !new.contains k) ++ new

/-- A command that a record holds by its word and generator state: as its push recorded it where the core has kept that, the one of this record and
place first and the latest before an earlier one, else as a push of the word would record it now (R25, R357; log entry 67). -/
def recalled (kept : List Kept) (addr place word : Nat) (gen : Word) (fresh : Cmd) : Cmd :=
  let equal := kept.reverse.filter fun k => k.cmd.pushed == BitVec.ofNat 256 word && k.cmd.gen == gen
  match equal.find? fun k => k.addr == addr && k.place == place with
  | some k => k.cmd
  | none => (equal.head?.map Kept.cmd).getD fresh

/-- A command of queue q of a core, the first that satisfies a test, completes: its element is posted and its counter incremented
(R264, R227). The element of a command that holds no slot holds none (R359). -/
def Core.finish (c : Core) (q : Nat) (which : Cmd → Bool) (value status : Nat) : Core := match (c.queue q).cmds.find? which with
  | none => c
  | some k =>
    let c := c.modQ q fun e => { e with
      cmds := e.cmds.eraseP which
      elems := e.elems ++ [element value status k.tag]
      loose := if k.isControl then e.loose ++ [e.elems.length] else e.loose }
    if k.cie then c.count k.ctr else c

/-- Copy engines of a die (R96, R363). -/
def copyEngines : Nat := 4

/-- The command of queue q of a core that its engine works on: the oldest, or, as several copy engines serve q2, the oldest but some of those
whose fold contribution is not under way (R346, log entry 1). -/
def Core.working (c : Core) (q : Nat) : Option Cmd :=
  if q = 2 then ((c.queue 2).cmds.filter fun k => !k.sent)[c.pick]? else (c.queue q).cmds.head?

/-- The command of queue q of a core that its engine works on completes. -/
def Core.complete (c : Core) (q value status : Nat) : Core := match c.working q with
  | some k =>
    let c := if q = 2 then { c with pick := 0 } else c
    c.finish q (fun x => x == k) value status
  | none => c

/-- The same for core p of the package. -/
def State.complete (s : State) (p q value status : Nat) : State := s.modCore p fun c => c.complete q value status

/-- Changes the first command of queue q of a core. -/
def Core.modHead (c : Core) (q : Nat) (f : Cmd → Cmd) : Core := c.modQ q fun e => { e with cmds := match e.cmds with
  | [] => []
  | k :: ks => f k :: ks }

/-- The command that the engine of queue q of core p works on, when its class and code are these. -/
def State.headCmd (s : State) (p q cls code : Nat) : Option Cmd := match (s.getCore p).working q with
  | some k => if k.table.isNone && k.cls == cls && k.code == code then some k else none
  | none => none

end Sys2Proof.Machine
end

