-- ==== Sys2Proof/Machine/Sched.lean ====
section
/-! DEFINITION. Scheduling: records and their checks (spec 09 R198 to R203, R212; 18 R396, R397), the queues with their
insertions, blocks and pulls (R207 to R210), slices (R204), sites and placement (R213, R214, R222), lane grants (R224, R225). -/

namespace Sys2Proof.Machine

/-! ## Clusters (R465) -/

/-- Package number of the cluster of a core. -/
def clusterOf (p : Nat) : Nat := 48 * (p / 384) + 12 * (p % 384 / 24 / 4) + p % 24 / 2

/-- Position of a core in its cluster. -/
def clusterPos (p : Nat) : Nat := p % 24 % 2 + 2 * (p % 384 / 24 % 4)

/-- The core at a position of a cluster. -/
def clusterCore (k pos : Nat) : Nat :=
  384 * (k / 48) + 24 * (4 * (k % 48 / 12) + pos / 2) + 2 * (k % 12) + pos % 2

/-! ## Records (R202, R212) -/

/-- The task record that 32 bytes spell. -/
def taskOf (v : Nat) : TaskRec where
  wid := BitVec.ofNat 64 (fieldOf v 0 8)
  entry := BitVec.ofNat 32 (fieldOf v 8 4)
  budget := BitVec.ofNat 32 (fieldOf v 12 4)
  deadline := BitVec.ofNat 64 (fieldOf v 16 8)
  arg := BitVec.ofNat 64 (fieldOf v 24 8)

/-- The 32 bytes of a task record. -/
def TaskRec.value (r : TaskRec) : Nat :=
  r.wid.toNat + r.entry.toNat * 2 ^ 64 + r.budget.toNat * 2 ^ 96 + r.deadline.toNat * 2 ^ 128 + r.arg.toNat * 2 ^ 192

/-- The team record that 64 bytes spell. -/
def teamOf (v : Nat) : TeamRec where
  bwid := BitVec.ofNat 64 (fieldOf v 0 8)
  entry := BitVec.ofNat 32 (fieldOf v 8 4)
  budget := BitVec.ofNat 32 (fieldOf v 12 4)
  deadline := BitVec.ofNat 64 (fieldOf v 16 8)
  arg := BitVec.ofNat 64 (fieldOf v 24 8)
  size := fieldOf v 0x20 2
  width := fieldOf v 0x22 1
  height := fieldOf v 0x23 1
  onedie := fieldOf v 0x24 1 == 1
  ttp := BitVec.ofNat 64 (fieldOf v 0x28 8)

/-- The 64 bytes of a team record. -/
def TeamRec.value (t : TeamRec) : Nat :=
  (TaskRec.mk t.bwid t.entry t.budget t.deadline t.arg).value +
    (t.size + t.width * 2 ^ 16 + t.height * 2 ^ 24 + (if t.onedie then 2 ^ 32 else 0) + t.ttp.toNat * 2 ^ 64) * 2 ^ 256

/-- The record that a queue entry holds as a number, its bytes, and an entry's body with a record read anew. -/
def Body.value (b : Body) : Nat := match b with
  | .task r | .member r _ _ => r.value
  | .team t => t.value
def Body.bytes (b : Body) : Nat := match b with
  | .team _ => 64
  | _ => 32
def Body.reread (b : Body) (v : Nat) : Body := match b with
  | .task _ => .task (taskOf v)
  | .member _ slot i => .member (taskOf v) slot i
  | .team _ => .team (teamOf v)

/-- Bits of the fields of a WID together (R198). -/
def Header.widBits (h : Header) : Nat := (h.widths.take h.nf).foldl (· + ·) 0

/-- Bits of the member part (R201). -/
def Header.memberBits (h : Header) : Nat := (h.widths.take (h.tf + 1)).foldl (· + ·) 0

/-- ENTRY is word-aligned and below 0x2_0000 (R396). -/
def entryOk (e : BitVec 32) : Bool := e.toNat % 4 == 0 && decide (e.toNat < 0x20000)

/-- The checks of a task record (R396). -/
def State.taskOk (s : State) (r : TaskRec) : Bool := entryOk r.entry && decide (r.wid.toNat < 2 ^ s.header.widBits)

/-- The checks of a team record (R397, R212); the first number is its 64 bytes. -/
def State.teamOk (s : State) (v : Nat) : Bool :=
  let t := teamOf v
  decide (1 ≤ t.size) && decide (t.size ≤ 1536) && decide (1 ≤ t.width) && decide (t.width ≤ 48) && decide (1 ≤ t.height) &&
    decide (t.height ≤ 32) && decide (fieldOf v 0x24 4 ≤ 1) && fieldOf v 0x30 16 == 0 && decide (t.size ≤ t.width * t.height) &&
    decide (t.size ≤ 2 ^ s.header.memberBits) && (!t.onedie || (decide (t.width ≤ 24) && decide (t.height ≤ 16))) &&
    s.header.tf != 0xFF && entryOk t.entry && decide (t.bwid.toNat < 2 ^ s.header.widBits) &&
    t.bwid.toNat % 2 ^ s.header.memberBits == 0 &&
    (t.ttp == 0 || (t.ttp.toNat % 8 == 0 && decide (globalBase ≤ t.ttp.toNat) && decide (t.ttp.toNat < 2 ^ 57) &&
      nodeOf t.ttp.toNat == s.mgmt.nodew.toNat))

/-! ## Keys (R203) -/

/-- The key of an entry as one number, compared from left to right. -/
def Entry.key (e : Entry) : Nat := ((e.deadline.toNat * 2 ^ 64 + e.tb.toNat) * 2 ^ 11 + e.src.toNat) * 2 ^ 32 + e.seq

/-- Entries in rising order of their keys. -/
def sortEntries (es : List Entry) : List Entry := sortBy (fun (x y : Entry) => decide (x.key ≤ y.key)) es

/-- The deadline a record gets at its insertion (R203). -/
def State.deadlineFor (s : State) (d : Word) : Word :=
  if d = 0 then BitVec.ofNat 64 (min (s.tb.toNat + 2 ^ 32) (2 ^ 64 - 1)) else d

/-- A body whose deadline field is replaced. -/
def Body.withDeadline (b : Body) (d : Word) : Body := match b with
  | .task r => .task { r with deadline := d }
  | .member r slot i => .member { r with deadline := d } slot i
  | .team t => .team { t with deadline := d }

/-- The deadline field of a body. -/
def Body.deadline (b : Body) : Word := match b with
  | .task r => r.deadline
  | .member r _ _ => r.deadline
  | .team t => t.deadline

/-- A new entry with its stamp (R203). -/
def State.stampEntry (s : State) (b : Body) (src : BitVec 11) : State × Entry :=
  let seq := match s.stamps.find? fun x => x.1 == src with
    | some (_, tb, n) => if tb = s.tb then n else 0
    | none => 0
  let d := s.deadlineFor b.deadline
  ({ s with stamps := upsert (fun x => x.1 == src) (fun _ => (src, s.tb, seq + 1)) (src, s.tb, seq + 1) s.stamps },
    ⟨b.withDeadline d, d, s.tb, src, seq⟩)

/-! ## Queues (R207, R208) -/

/-- The parent of a queue; the package queue has none. -/
def QueueId.parent : QueueId → Option QueueId
  | .core p => some (.cluster (clusterOf p))
  | .cluster k => some (.die (k / 48))
  | .die _ => some .package
  | .package => none

def QueueId.capacity : QueueId → Nat
  | .core _ => 16
  | .cluster _ => 128
  | .die _ => 1024
  | .package => 8192

def QueueId.lowWater : QueueId → Nat
  | .core _ => 2
  | .cluster _ => 16
  | .die _ => 128
  | .package => 0

/-- The queue number n: cores 0 to 1,535, clusters to 1,727, dies to 1,731, then the package queue. -/
def queueOf (n : Nat) : QueueId :=
  if n < 1536 then .core n else if n < 1728 then .cluster (n - 1536) else if n < 1732 then .die (n - 1728) else .package

/-- A queue of the package. -/
def State.queue (s : State) (i : QueueId) : SchedQ := (s.queues.find? fun q => q.id == i).getD ⟨i, [], []⟩

/-- Puts a queue back. -/
def State.setQueue (s : State) (q : SchedQ) : State :=
  { s with queues := upsert (fun x => x.id == q.id) (fun _ => q) q s.queues }

/-- A queue takes no insertion until its block in transit has been accepted (R208). -/
def State.accepts (s : State) (i : QueueId) : Bool := (s.queue i).upBlock.isEmpty

/-- Plain records and member records. -/
def Body.isMember : Body → Bool
  | .member .. => true
  | _ => false

/-- The 8 entries with the largest keys among those that satisfy p leave as the queue's block. -/
def SchedQ.sendUp (q : SchedQ) (p : Entry → Bool) : SchedQ :=
  let out := (sortEntries (q.entries.filter p)).reverse.take 8
  { q with entries := q.entries.filter (fun e => !out.contains e), upBlock := out }

/-- Overflow, and the plain entries of a reserved core's queue (R208, R209). -/
def State.overflow (s : State) (i : QueueId) : State :=
  let q := s.queue i
  if !q.upBlock.isEmpty then s
  else if i.capacity < q.entries.length then s.setQueue (q.sendUp fun _ => true)
  else match i with
    | .core p =>
      if (s.getCore p).reserved.isSome && q.entries.any (fun e => !e.body.isMember) then s.setQueue (q.sendUp fun e => !e.body.isMember)
      else s
    | _ => s

/-- Insert (R208): the entries of one block, or one entry. -/
def State.insert (s : State) (i : QueueId) (es : List Entry) : State :=
  let q := s.queue i
  (s.setQueue { q with entries := q.entries ++ es }).overflow i

/-- Inserts a body in a queue as a new entry. -/
def State.insertBody (s : State) (i : QueueId) (b : Body) (src : BitVec 11) : State :=
  let (s, e) := s.stampEntry b src
  s.insert i [e]

/-- Entries that the spill region holds room for (R208, R221). -/
def State.spillRoom (s : State) : Nat := s.mgmt.pqsn.toNat - s.spill.length

/-- The address of place i of the spill region, when it is one of this node (R221). -/
def State.spillVa (s : State) (i : Nat) : Option Nat :=
  let a := s.mgmt.pqsb.toNat + 64 * i
  if globalBase ≤ a ∧ a < 2 ^ 57 ∧ nodeOf a = s.mgmt.nodew.toNat then some a else none

/-- An entry goes to the spill region: its record is written at the first free place (R221, log entry 70). -/
def State.spillIn (s : State) (e : Entry) : State :=
  let i := ((List.range (s.spillAt.length + 1)).find? fun i => !s.spillAt.any fun x => x.2 == i).getD 0
  let t := match s.spillVa i with
    | none => s
    | some a => match s.homeWrite 1536 1536 a (maskOf a e.body.bytes) (dataAt a e.body.bytes e.body.value) Req.write with
      | .done t _ => t
      | .fault h f => s.noteWalk h a f
      | _ => s
  { t with spill := t.spill ++ [e], spillAt := t.spillAt ++ [(e.key, i)] }

/-- An entry comes back from the spill region, its record as it stands there (R221). -/
def State.spillOut (s : State) (e : Entry) : State × Entry :=
  let at_ := (s.spillAt.find? fun x => x.1 == e.key).map (·.2)
  let t := { s with spill := s.spill.filter fun x => x.key != e.key, spillAt := s.spillAt.filter fun x => x.1 != e.key }
  match at_.bind s.spillVa with
  | none => (t, e)
  | some a => match t.homeRead 0 a Req.read true with
    | .done t l => (t, { e with body := e.body.reread (lineGet l 0 e.body.bytes) })
    | .fault h f => (t.noteWalk h a f, e)
    | _ => (t, e)

/-- The block of a queue is accepted by its parent or by the spill region (R208). -/
def State.acceptBlock (s : State) (i : QueueId) : State :=
  let q := s.queue i
  if q.upBlock.isEmpty then s
  else match i.parent with
    | some p => if s.accepts p then ((s.setQueue { q with upBlock := [] }).insert p q.upBlock).overflow i else s
    | none => if 8 ≤ s.spillRoom then (q.upBlock.foldl State.spillIn (s.setQueue { q with upBlock := [] })).overflow i else s

/-- The initial records enter the package queue in list order while it takes insertions (R199, R208). The number is fuel. -/
def State.feed : Nat → State → State
  | 0, s => s
  | n + 1, s => match s.initial with
    | [] => s
    | r :: rest => if s.accepts .package then State.feed n ({ s with initial := rest }.insertBody .package (.task r) 0x7FF) else s

/-! ## Pulls (R210) -/

/-- The smallest key of a queue, or of the spill region above the package queue. -/
def headKey (es : List Entry) : Option Nat := (sortEntries es).head?.map Entry.key

/-- What stands above a queue. -/
def State.above (s : State) (i : QueueId) : List Entry := match i.parent with
  | some p => (s.queue p).entries.filter fun e => match e.body with | .team _ => false | _ => true
  | none => s.spill

/-- Whether a queue is below its low-water mark and so asks for a pull: never that of a reserved core; the package queue refills while it has room
for a block below 8 entries (R210). -/
def State.low (s : State) (i : QueueId) : Bool := match i with
  | .core p => decide ((s.queue i).entries.length < i.lowWater) && (s.getCore p).reserved.isNone
  | .package => decide ((s.queue i).entries.length < 8)
  | _ => decide ((s.queue i).entries.length < i.lowWater)

/-- Whether a queue has a pull outstanding (R210). -/
def State.wantsPull (s : State) (i : QueueId) : Bool := s.pulls.contains i || s.low i

/-- A queue asks for a pull, once. -/
def State.requestPull (s : State) (i : QueueId) : State := if s.pulls.contains i then s else { s with pulls := s.pulls ++ [i] }

/-- The queues with the same parent, in rising index. -/
def QueueId.siblings (i : QueueId) : List QueueId := match i with
  | .core p => ((List.range 8).map fun n => clusterCore (clusterOf p) n).map QueueId.core
  | .cluster k => (List.range 48).map fun n => .cluster (48 * (k / 48) + n)
  | .die _ => (List.range 4).map QueueId.die
  | .package => [.package]

/-- Every queue beside this one that is below its low-water mark has asked for a pull; those that ask at once do so in the order of their
indices (R210). -/
def State.noteLow (s : State) (i : QueueId) : State := (i.siblings.filter s.low).foldl State.requestPull s

/-- A queue below its low-water mark asks for a pull at once (R210). -/
def State.askIfLow (s : State) (i : QueueId) : State := if s.low i then s.requestPull i else s

/-- PullCheck(Q, taken): a queue below its low-water mark, or with an earlier head above, asks for a pull (R210). -/
def State.pullCheck (s : State) (i : QueueId) (taken : Nat) : State :=
  let early := match headKey (s.above i) with
    | some k => decide (k < taken)
    | none => false
  let held := match i with
    | .core p => (s.getCore p).reserved.isSome
    | _ => false
  if (early && !held) || s.low i then s.requestPull i else s

/-- Whether a pull that was asked for earlier, with the same parent, is to be served first (R210). -/
def State.pullAhead (s : State) (i : QueueId) : Bool :=
  (s.pulls.takeWhile fun j => j != i).any fun j => j.parent == i.parent && s.accepts j

/-- Pull(Q), in order of arrival (R210): the parent, and every queue beside it, that is below its own mark has asked for a pull before; then up to 8 of the
earliest entries above move down as one block. The queue asks anew where the block leaves it low, and so does a parent that has become low. -/
def State.doPull (s : State) (i : QueueId) : State :=
  let s := s.noteLow i
  if !s.pulls.contains i || !s.accepts i || s.pullAhead i then s
  else
    let up := s.above i
    if up.isEmpty then s
    else
      let b := (sortEntries up).take 8
      let s := { s with pulls := s.pulls.filter fun x => x != i }
      match i.parent with
      | some p =>
        let s := s.noteLow p
        let q := s.queue p
        let s := ((s.setQueue { q with entries := q.entries.filter fun e => !b.contains e }).insert i b).askIfLow i
        s.askIfLow p
      | none =>
        let r := b.foldl (fun (x : State × List Entry) e =>
          let y := x.1.spillOut e
          (y.1, x.2 ++ [y.2])) (s, [])
        (r.1.insert i r.2).askIfLow i

/-! ## Lane grants (R224, R225) -/

/-- The free lanes of a core's cluster once the core's own extra lanes have gone back. -/
def State.poolWithout (s : State) (p : Nat) : Nat :=
  224 - ((s.cores.filter fun c => c.pcn != p && clusterOf c.pcn == clusterOf p).map fun c => c.ctl.vl.toNat - 32).foldl (· + ·) 0

/-- A request rounded up to a multiple of 32 within 32 to 256. -/
def laneRequest (n : Nat) : Nat := max 32 (min 256 ((n + 31) / 32 * 32))

/-- The grant that core p gets for a rounded request. -/
def State.grantFor (s : State) (p n : Nat) : Nat := 32 + min (n - 32) (s.poolWithout p)

/-- Grants a member the lanes it remembers, as VCLAIM does (R225). -/
def State.regrant (s : State) (p : Nat) : State :=
  let n := laneRequest (s.getCore p).nreq.toNat
  let g := s.grantFor p n
  s.modCore p fun c => { c with nreq := BitVec.ofNat 9 n, regrantAt := none, ctl := { c.ctl with vl := BitVec.ofNat 9 g } }

/-- The lanes of every BAR whose release cycle has come are granted again: the earlier cycle first, of one cycle the lower PCN (R225). -/
def State.regrantDue (s : State) : State :=
  let due := s.cores.filterMap fun (c : Core) => (c.regrantAt.filter fun t => decide (t ≤ s.tb.toNat)).map fun t => (t, c.pcn)
  (sortBy (fun (x y : Nat × Nat) => decide (x.1 < y.1) || (x.1 == y.1 && decide (x.2 ≤ y.2))) due).foldl (fun s x => s.regrant x.2) s

/-- The core's grant becomes 32 lanes. -/
def Core.baseGrant (c : Core) : Core := { c with ctl := { c.ctl with vl := 32 } }

/-! ## Slices (R204, R394) -/

/-- Whether the core runs a slice. -/
def Core.inSlice (c : Core) : Bool := c.slice != .none

/-- Whether the core's BAR waits after the completion of its barrier, up to its return (R219); no longer once a timetable trap has taken the
member out of it. -/
def Core.inBar (c : Core) : Bool := !c.leftBar && (c.phase == .running false || c.phase == .ended)

/-! ## What comes before an instruction (R260, R418) -/

/-- Whether a pre-empt interrupt may be taken now: not while the member's phase runs (R219, R422), and not before the TAKE that starts a placed
member has returned (R214, R423), which the spec implies and does not state (log entry 81). -/
def Core.preemptReady (c : Core) : Option Nat := match c.irq.preempt with
  | some (k, false) => if c.inPhase || (c.reserved.isSome && c.slice == .none) then none else some k
  | _ => none

/-- The interrupt that is taken next: a held timetable trap, then pre-empt, timer, event (R418). While a phase runs with the
core in BAR, only the timetable trap is taken (R219). -/
def Core.pendingInt (c : Core) : Option (Nat × Word) :=
  if c.wp = c.twp then none
  else match c.irq.tt with
    | some v => some (0x0A, v)
    | none =>
      if c.inBar then none
      else match c.preemptReady with
        | some k => some (0x20, BitVec.ofNat 64 k)
        | none =>
          if c.irq.timer then some (0x21, c.ctl.dl)
          else if c.irq.event then some (0x22, BitVec.ofNat 64 c.events.length)
          else none

/-- Whether the budget trap is due: it waits, like the interrupts of its boundary, for user mode and for the end of a phase that
BAR waits for (R205, R260). -/
def Core.budgetDue (c : Core) : Bool := c.irq.budget && c.ctl.mode == .user && !c.inBar

/-- An interrupt is taken at this boundary of the active core (R260, R418): none while it waits in an acknowledged WFE or for an atomic, and none while its
chunk is reserved (R136). -/
def State.intReady (s : State) : Bool :=
  s.core.pendingInt.isSome && !(s.core.acked || s.core.sent) && !(s.reservation == some s.core.pcn && s.core.chunk.isSome)

/-- An interrupt or the budget trap comes before whatever else would trap at this boundary of the active core (R260). -/
def State.preempted (s : State) : Bool := s.intReady || (s.core.budgetDue && !(s.core.acked || s.core.sent))

/-- The site idles as its worker waits in TAKE: a marked one is reserved in the same cycle (R222). -/
def State.idles (s : State) (p : Nat) : State :=
  match (s.getCore p).marked with
  | some (slot, _) => (s.modCore p fun c => { c with reserved := some slot, marked := none }).overflow (.core p)
  | none => s

/-- Whether the context is being stopped or has stopped: no admission, no placement, no new plain slice (R429, log entry 22). -/
def State.stopping (s : State) : Bool := decide (4 ≤ s.mgmt.state.toNat)

/-- The entries of a core's queue that its TAKE may return, earliest first (R209, R215). -/
def State.eligible (s : State) (p : Nat) : List Entry :=
  let c := s.getCore p
  let es := (s.queue (.core p)).entries
  sortEntries <| match c.reserved with
    | some slot => es.filter fun e => match e.body with
      | .member _ sl _ => sl == slot
      | _ => false
    | none => if c.finished || s.stopping then [] else es.filter fun e => !e.body.isMember

/-- Whether a site is idle (R213). -/
def State.idle (s : State) (p : Nat) : Bool :=
  let c := s.getCore p
  c.run == .running && c.taking && c.reserved.isNone && (s.siteTeam p).isNone && (s.eligible p).isEmpty

/-- A marked site that has become idle is reserved at once (R222). -/
def State.settle (s : State) (p : Nat) : State := if s.idle p then s.idles p else s

/-- Every marked site that has become idle is reserved. -/
def State.settleMarked (s : State) : State := ((s.cores.filter fun (c : Core) => c.marked.isSome).map Core.pcn).foldl State.settle s

/-- Ends the slice of the active core as DONE does (R395); the sites of a team that retires may now be idle. -/
def State.endSlice (s : State) : State := s.memberGone.settleMarked

/-! ## Rectangles (R213, R214) -/

/-- Whether a rectangle of a record stays within one die. -/
def oneDie (t : TeamRec) (x y : Nat) : Bool := x / 24 == (x + t.width - 1) / 24 && y / 16 == (y + t.height - 1) / 16

/-- The member sites of a record's rectangle at an origin. -/
def memberSites (t : TeamRec) (x y : Nat) : List Nat :=
  (List.range t.size).map fun i => siteAt (x + i % t.width) (y + i / t.width)

/-- The origins of R214 in scan order. -/
def origins (t : TeamRec) : List (Nat × Nat) :=
  (List.range (33 - t.height)).flatMap fun y => (List.range (49 - t.width)).map fun x => (x, y)

/-- First fit (R214): the first allowed origin all of whose member sites satisfy a test. -/
def Team.scan (t : Team) (ok : Nat → Bool) : Option (Nat × Nat) :=
  (origins t.trec).find? fun o =>
    (!t.placed || (o.1 % 2 == t.x0 % 2 && o.2 % 4 == t.y0 % 4)) && (!t.trec.onedie || oneDie t.trec o.1 o.2) &&
      (memberSites t.trec o.1 o.2).all ok

/-- Whether some rectangle exists for a record at all (R223). -/
def TeamRec.fits (t : TeamRec) : Bool := (origins t).any fun o => !t.onedie || oneDie t o.1 o.2

/-! ## Operands written by an instruction -/

/-- An aligned doubleword that the core's own instruction writes: a slot of the register cache or the scratchpad (R40, log
entry 31). -/
def Core.writeDword (c : Core) (a : Nat) (v : Word) : Core :=
  if c.wp + 8 ≤ a ∧ a < c.wp + 256 then c.setReg (BitVec.ofNat 5 ((a - c.wp) / 8)) v else c.pokeLE a 8 v.toNat

/-- n aligned doublewords. -/
def Core.writeDwords (c : Core) (a : Nat) : Nat → Nat → Core
  | 0, _ => c
  | n + 1, v => Core.writeDwords (c.writeDword a (BitVec.ofNat 64 v)) (a + 8) n (v / 2 ^ 64)

/-- The check of a local operand that is written: R21 as a store, and the g0 slot of the current workspace (R40). -/
def State.storeOperand (s : State) (a n : Nat) (k : Res) : Res :=
  s.localOperand true a n <| if a < s.core.wp + 8 ∧ s.core.wp < a + n then s.trapN 0x03 s.core.wp else k

end Sys2Proof.Machine
end

