-- ==== Sys2Proof/Machine/Chunks.lean ====
section
/-! DEFINITION. Commit of chunks and what arrives for them (spec 06 R132 to R136; 03 R58, R76; 05 R111; 13 R295, R299; 02 R43). -/

namespace Sys2Proof.Machine

/-! ## Commit (R132, R133) -/

/-- The buffered scratchpad stores reach the scratchpad; a word wholly stored gets correct ECC (R130, R443). -/
def Core.drainStores (c : Core) (buf : List Host.Cell) : Core :=
  { c with
    spad := c.spad.writeBuf buf
    ecc := c.ecc.filter fun e => !(List.range 8).all fun i => (bufByte buf (8 * e.1 + i)).isSome }

/-- The held effects of a committed chunk are released: CMT and RET grow (R132, R135). -/
def Core.commit (c : Core) (k : Chunk) : Core :=
  let c := c.drainStores k.sbuf
  { c with
    chunk := none
    streak := 0
    ctl := { c.ctl with cmt := c.ctl.cmt + 1, ret := c.ctl.ret + BitVec.ofNat 64 k.count } }

/-- A closing chunk of the active core: a chunk of no instruction vanishes, one with an empty write signature commits locally
(R133), any other is submitted (R132). -/
def State.closeStep (s : State) (k : Chunk) : State :=
  let p := s.core.pcn
  if k.count = 0 then { s with core := { s.core with chunk := none } }.endReservation p
  else if k.wsig = 0 then { s with core := s.core.commit k }.endReservation p
  else if s.submits.contains p then s
  else { s with submits := s.submits ++ [p] }

/-- Whether a chunk submitted earlier on the same die intersects core p's (R132). -/
def State.diePrior (s : State) (p : Nat) (k : Chunk) : Bool :=
  (s.submits.takeWhile fun q => q != p).any fun q => dieOf q == dieOf p && match (s.getCore q).chunk with
    | some j => (j.rsig ||| j.wsig) &&& (k.rsig ||| k.wsig) != 0
    | none => false

/-- Lines of the chunk that go through the sequencer. -/
def Chunk.replLines (k : Chunk) : Nat := (k.dests.filter fun d => match d.2 with | .repl _ _ => true | _ => false).length

/-- The bytes of a buffer for a line, each once, moved to another first address, the highest first. -/
def lineCells (buf : List Host.Cell) (line base : Nat) : List Host.Cell :=
  (List.range 64).reverse.filterMap fun i => (bufByte buf (line * 64 + i)).map fun b => (base + i, b)

/-- The bytes of one line of a granted chunk leave for their destination (R58, R132). The line number is VA / 64. -/
def State.sendLine (s : State) (o : Owner) (sys : Bool) (buf : List Host.Cell) (d : Nat × Dest) : State :=
  let p := o.pcn
  let r := bufLine buf d.1
  match d.2 with
  | .host hpa => { s with hostWrites := s.hostWrites ++ [⟨p, o, sys, lineCells buf d.1 hpa, none, none, d.1, false⟩] }
  | .remote => { s with remoteWrites := s.remoteWrites ++ [⟨p, o, sys, lineCells buf d.1 (d.1 * 64), none, s.routePort (d.1 * 64) 0, d.1, false⟩] }
  | dst => s.applyWrite p d.1 dst r.1 r.2 false

/-- The slice that fills the L1 of core p with a line, and the translation of the line there: its home, or of a replicated page the replica home of the
core's die (R58, R75). -/
def Dest.source (d : Dest) (p line : Nat) : Option (Nat × Word × Nat) := match d with
  | .own leaf pa => some (homeOf line, leaf, pa)
  | .repl leaf pa => some (replHome line (dieOf p), leaf, pa + dieOf p * 2 ^ 38)
  | _ => none

/-- The line under the stored bytes of a line that the L1 did not hold, as its slice gives it to an L1 fill, with the core's own updates (R58, R62; log
entry 65). One with an uncorrectable error is recorded and not kept (R443). -/
def State.lineUnder (s : State) (p line slice : Nat) (leaf : Word) (pa : Nat) : State × Option Line :=
  let r := (s.renew slice line leaf pa).fill slice line leaf pa
  if r.2.2 then (r.1.logError p 0 5 (BitVec.ofNat 64 (line * 64)) 0, none) else (r.1, some (s.ownUpdates p line r.2.1))

/-- A line that core p's committed chunk stored to: one of the own node becomes Clean in its L1, with the committed bytes, and one of host memory or of
another node Invalid (R59, R78). An own line of the L1 with an uncorrectable error under the bytes is recorded, and filled anew (R443). -/
def State.keepLine (s : State) (p : Nat) (buf : List Host.Cell) (d : Nat × Dest) : State := match d.2.source p d.1 with
  | none => s.modCore p fun c => c.l1Drop d.1
  | some (slice, leaf, pa) =>
    let s := (s.select p).l1Heal d.1
    let r := match s.core.l1Find d.1 with
      | some l => (s, some l)
      | none => s.lineUnder p d.1 slice leaf pa
    match r.2 with
    | some l => r.1.modCore p fun c => c.l1Put d.1 (overlayLine buf d.1 l)
    | none => r.1

/-- The lines that core p's committed chunk stored to, in its L1 (R59). -/
def State.keepLines (s : State) (p : Nat) (k : Chunk) : State := k.dests.reverse.foldl (fun s d => s.keepLine p k.gbuf d) s

/-- ROOT_GRANT (R132): a submitted chunk of core p gets its number; every other core gets the notice, and the chunk's writes
leave. A reserved chunk waits for none (R136). -/
def execRootGrant (p : Nat) (s : State) : Res :=
  match (s.getCore p).chunk with
  | none => .next s
  | some k =>
    if !k.closing || !s.submits.contains p || (s.holder.isSome && s.holder != some p) || (s.reservation != some p && s.diePrior p k) ||
        decide (seqCapacity < s.seqQueue.length + k.replLines) then .next s
    else
      let t := s.select p
      let o := t.owner
      let sys := t.core.ctl.mode == .system
      let t := { t with submits := t.submits.filter fun q => q != p, commits := t.commits + 1 }
      let t := t.notice p k.wsig
      let t := k.dests.reverse.foldl (fun t d => t.sendLine o sys k.gbuf d) t
      let t := t.endReservation p
      .next (((t.modCore p fun c => c.commit k).keepLines p k).select s.core.pcn)

/-! ## Data that arrives (R295, R299, R302) -/

/-- The first of n bytes as a far memory holds them for a core, at a VA or at a host physical address. -/
def State.farRead (s : State) (p va n : Nat) (hpa : Option Nat) : Nat := match hpa with
  | some h => farBytes s.hostMem s.hostWrites p (h / 64 * 64 + va % 64) n
  | none => farBytes s.remoteMem s.remoteWrites p va n

/-- n bytes that a load of the core sees: its buffered stores over the far memory. -/
def State.farLoad (s : State) (c : Core) (va n : Nat) (hpa : Option Nat) : Nat :=
  let m := s.farRead c.pcn va n hpa
  ofBytes ((List.range n).map fun i => (bufByte c.gbuf (va + i)).getD (BitVec.ofNat 8 (m >>> (8 * i))))

/-- Whether a far write of core p to the line of an address is under way. -/
def lineBusy (ws : List FarWrite) (p a : Nat) : Bool := ws.any fun w => w.pcn == p &&
  (w.bytes.any (fun b => b.1 / 64 == a / 64) || match w.rmw with | some x => x.va.toNat / 64 == a / 64 | none => false)

/-- Whether a far write of a core to a remote line is under way. -/
def State.lineOpen (s : State) (p va : Nat) : Bool := lineBusy s.remoteWrites p va

/-- LOAD_DATA_ARRIVES (R295): what the core waits for has come; a load completes inside its chunk, an LDA or a remote atomic
alone. -/
def execLoadDataArrives (p : Nat) (s : State) : Res :=
  let c := s.getCore p
  match c.out with
  | none => .next s
  | some (a, hpa) =>
    let va := a.va.toNat
    if hpa.isNone && ((s.remoteFault va).isSome || s.heldBehind c.outPort) then .next s
    else
      let c := { c with out := none, outPort := none }
      match a.kind with
      | .load n sg => .next (s.putCore ((c.setReg a.reg (loadValue n sg (s.farLoad c va n hpa))).step4.countIn))
      | .lda n sg _ => .next (s.putCore ((c.setReg a.reg (loadValue n sg (s.farRead p va n hpa))).step4.retired))
      | .amo _ w _ _ | .cas w _ _ =>
        if s.lineOpen p va then .next s
        else
          let old := s.remoteMem.readLE va a.kind.size
          .next ({ s with remoteMem := farAtomic s.remoteMem a }.putCore ((c.setReg a.reg (oldValue w old)).step4.retired))
      | _ => .next s

/-! ## Completions of far writes (R139, R161) -/

/-- Whether an earlier write of the same core to one of the lines of write number n is under way. -/
def olderWrite (ws : List FarWrite) (n : Nat) (w : FarWrite) : Bool :=
  let lines := fun (x : FarWrite) => x.bytes.map (fun b => b.1 / 64) ++ match x.rmw with | some a => [a.va.toNat / 64] | none => []
  (ws.take n).any fun v => v.pcn == w.pcn && (lines v).any fun l => (lines w).contains l

/-- An STR.S that waits completes once its core has no far write under way (R298, R299). -/
def State.finishStr (s : State) (p : Nat) : State :=
  let c := s.getCore p
  match c.out with
  | some (⟨.str .., _, _⟩, _) => if s.farOpen p then s else s.putCore { c with out := none, outPort := none }.step4.retired
  | _ => s

/-- CXL_COMPLETION (R161): host write number n becomes visible to the host. -/
def execCxlCompletion (n : Nat) (s : State) : Res := match s.hostWrites[n]? with
  | none => .next s
  | some w =>
    if olderWrite s.hostWrites n w then .next s
    else .next ({ s with hostMem := s.hostMem.writeBuf w.bytes, hostWrites := dropNth s.hostWrites n }.finishStr w.pcn)

/-- The address of a far write. -/
def FarWrite.va (w : FarWrite) : Nat := match w.rmw with
  | some a => a.va.toNat
  | none => match w.bytes.getLast? with
    | some b => b.1
    | none => 0

/-! ## Faults of chunks and of remote accesses (R111, R112) -/

/-- EARLY_CHECK_FAULT (R111): once the cut-back chunk of core p has gone, and no interrupt or budget trap comes first (R260), the access parks. -/
def execEarlyCheckFault (p : Nat) (s : State) : Res := s.onCore p fun t =>
  match t.core.early, t.core.chunk with
  | some (a, place, f), none => if t.preempted then .next t else t.park a place f
  | _, _ => .next t

/-- The access that a faulting remote write parks as. One that gathers several stores to a line has the VA of its lowest byte (log entry 66). -/
def FarWrite.access (w : FarWrite) : Access := match w.rmw with
  | some a => a
  | none => ⟨.bytes w.bytes, BitVec.ofNat 64 (w.bytes.foldl (fun m b => min m b.1) w.va), 0⟩

/-- The first remote write of a core and its number. -/
def State.firstRemote (s : State) (p : Nat) : Option (Nat × FarWrite) :=
  (s.remoteWrites.zipIdx.find? fun w => w.1.pcn == p).map fun w => (w.2, w.1)

/-- Whether what an owner asked for comes too late: its context has ended (R122). -/
def State.stale (s : State) (ctxg : BitVec 16) : Bool := s.ended || ctxg != s.mgmt.ctxg

/-- A read, an atomic or an STR.S of core p that waits on another node faults in place (R112). -/
def State.farInPlace (s : State) (p : Nat) (a : Access) (f : FaultInfo) : Res := s.onCore p fun t =>
  let t := { t with core := { t.core with out := none, outPort := none } }
  match a.kind with
  | .load .. => .next { t with core := { t.core with early := some (a, remotePark, f) }.close }
  | .str .. => match t.firstRemote p with
    | some (n, _) => { t with remoteWrites := dropNth t.remoteWrites n }.park a remotePark f
    | none => t.park a remotePark f
  | _ => t.park a remotePark f

/-- Remote write number n faults: it parks, and its upcall is raised at the next boundary (R111); one of an ended context is discarded
(R122), without a count (log entry 93). While the park is full it stays under way, and the code of its workspace stalls (R112; log entry 92). -/
def State.farWriteFault (s : State) (n : Nat) (w : FarWrite) (f : FaultInfo) : State :=
  let a := w.access
  let t := { s with remoteWrites := dropNth s.remoteWrites n }
  let late := fun (t : State) => t.modCore w.pcn fun c => { c with late := c.late ++ [(a, f, w.sys, w.owner.ws)] }
  if s.stale w.owner.ctxg then t
  else if w.sys then late t
  else if 64 ≤ s.parkCount remotePark then { s with remoteWrites := setNth s.remoteWrites n { w with held := true } }
  else late { t with parks := t.parks ++ [(⟨remotePark, a, w.owner, f, 0⟩ : Parked)] }

/-- REMOTE_WRITE_ACKNOWLEDGEMENT (R139): remote write number n has been performed at its node. One that found no port when it left faults
(R440). -/
def execRemoteWriteAcknowledgement (n : Nat) (s : State) : Res := match s.remoteWrites[n]? with
  | none => .next s
  | some w =>
    if w.port.isNone then .next (s.farWriteFault n w noRoute)
    else if olderWrite s.remoteWrites n w || (s.remoteFault w.va).isSome || s.heldBehind w.port then .next s
    else .next ({ s with remoteMem := applyFar s.remoteMem w, remoteWrites := dropNth s.remoteWrites n }.finishStr w.pcn)

/-- Whether an access is an STR, whose own write is the only one that its core has under way (R299). -/
def Access.isStr (a : Access) : Bool := match a.kind with
  | .str .. => true
  | _ => false

/-- What core p waits for from another node and may be answered now: a read or an atomic is not, while an older write of the core to its line is ahead of
it (R440). -/
def State.awaited (s : State) (p : Nat) : Option Access := match (s.getCore p).out with
  | some (a, none) => if !a.isStr && s.lineOpen p a.va.toNat then none else some a
  | _ => none

/-- REMOTE_FAULT_REPLY (R112): another node's fault reply to core p: to what it waits for, else to its oldest remote write. -/
def execRemoteFaultReply (p : Nat) (reason : BitVec 8) (s : State) : Res :=
  let f := faultOf 0x43 reason
  let note := fun (s : State) (va : Nat) => { s with remoteFaults := upsert (fun x => x.1 == va / 65536) (fun _ => (va / 65536, reason)) (va / 65536, reason) s.remoteFaults }
  match s.awaited p, s.firstRemote p with
  | some a, _ => if s.heldBehind (s.getCore p).outPort then .next s else (note s a.va.toNat).farInPlace p a f
  | none, some (n, w) => if s.heldBehind w.port then .next s else .next ((note s w.va).farWriteFault n w f)
  | none, none => .next s

/-- The pending fault of a committed write or of an NMC request at an instruction boundary of the active core, no chunk being open and no
vector instruction half done: CAUSE 0x10 for one of system mode; else the upcall, with RESUME at the next instruction, in user mode, and for an
NMC, whose register it sets pending, in the workspace of the request (R111, R112, R114; log entry 33), also one that has been completed or failed meanwhile
(log entry 91). -/
def State.lateUpcall (s : State) : Option State :=
  let due := fun (e : Access × FaultInfo × Bool × BitVec 10) => e.2.2.1 || (s.core.ctl.mode == .user && (!e.1.kind.pends || e.2.2.2 == s.core.ctl.wpa))
  if s.core.inBar || s.core.vprog != 0 then none
  else (s.core.late.find? due).map fun e =>
    let t := { s with core := { s.core with
      late := s.core.late.eraseP due, phase := if s.core.phase == Phase.arrived false then .idle else s.core.phase, waiting := false, taking := false
      msendw := none, fence := none, copied := none, unstat := none } }
    if e.2.2.1 then t.trapEntry 0x10 e.1.va s.core.pc else t.upcall e.1 e.2.1 s.core.pc false

/-! ## Replies and replicas -/

/-- REPLY_LANDS (R43): reply number n lands; one that carries an ended context generation is discarded and counted (R122). -/
def execReplyLands (n : Nat) (s : State) : Res := match s.replies[n]? with
  | none => .next s
  | some r =>
    let s := { s with replies := dropNth s.replies n }
    if s.stale r.owner.ctxg then .next { s with mgmt := { s.mgmt with nmlate := s.mgmt.nmlate + 1 } }
    else .next (s.land r.owner r.reg r.value r.ok)

/-- REPL_UPDATE_APPLY (R76): the replica home of a die applies the next number; its notices to the cores of its die are then under way
(R148). -/
def execReplUpdateApply (die : Nat) (s : State) : Res :=
  if 4 ≤ die then .next s
  else match s.seqQueue.find? fun u => u.num == s.applied die + 1 with
    | none => .next s
    | some u => .next (s.replApply die u)

end Sys2Proof.Machine
end

