-- ==== Sys2Proof/Machine/Float.lean ====
section
/-! DEFINITION. Scalar floating, tapered and conversion instructions (spec 14 R312 to R325). -/

namespace Sys2Proof.Machine

/-! ## Register forms (R312) -/

/-- Bits of a source that a format reads. -/
def FmtKind.sourceBits : FmtKind → Nat
  | .lns => 6
  | k => k.width

/-- The source bits of a register. -/
def FmtKind.source (k : FmtKind) (v : Word) : Nat := v.toNat % 2 ^ k.sourceBits

/-- The result word of a code (R312). -/
def FmtKind.result (k : FmtKind) (natural : Bool) (code : Nat) : Word := match k with
  | .ieee _ => zextW k.width code
  | .lns => zextW 6 code
  | .tap _ => sextW k.width code
  | .int w => if natural then zextW w code else sextW w code

/-- An instruction that rounds once: one draw under SR (R314), then the result, its flags and its register; a created NaR traps
with ST.NTE = 1, and nothing of the instruction remains (R325). -/
def State.roundOne (s : State) (srcs : List Reg) (d : Reg) (r : BitVec 3) (k : FmtKind) (natural : Bool)
    (f : Rm → Nat → Core → Rounded) : Res :=
  s.gate srcs [d] <|
    let rm := s.core.ctl.rmOf r
    let dr := drawIf rm s.core.gen
    let q := f rm dr.1 s.core
    if q.created && s.core.ctl.nte == 1 then s.trapN 0x0F 0
    else s.inChunk fun c => (({ c with gen := dr.2 }.addFlags q.flags).setReg d (k.result natural q.code)).step4

/-! ## f32 (R315 to R317) -/

/-- The f32 format. -/
def f32 : FmtKind := .ieee ieee32

/-- An f32 result that is no NaR. -/
def plainRound (p : Nat × Flg) : Rounded := ⟨p.1, p.2, false⟩

/-- An f32 instruction on two registers that rounds. -/
def State.fop (s : State) (d a b : Reg) (r : BitVec 3) (f : Rm → Nat → Nat → Nat → Nat × Flg) : Res :=
  s.roundOne [a, b] d r f32 false fun rm u c => plainRound (f rm u (f32.source (c.reg a)) (f32.source (c.reg b)))

/-- An f32 instruction that does not round: it writes a code or 0 or 1. -/
def State.fplain (s : State) (d a b : Reg) (f : Nat → Nat → Nat × Flg) : Res :=
  s.gate [a, b] [d] <| s.inChunk fun c =>
    let q := f (f32.source (c.reg a)) (f32.source (c.reg b))
    ((c.addFlags q.2).setReg d (BitVec.ofNat 64 q.1)).step4

/-- A truth value as a number, with its flags. -/
def truth (p : Bool × Flg) : Nat × Flg := (if p.1 then 1 else 0, p.2)

/-- The class mask of an f32 code (R317). -/
def fclassMask (x : Nat) : Nat :=
  let neg := bitAt x 31
  let mag := x % 2 ^ 31
  if mag = 0x7F800000 then (if neg then 1 else 0x80)
  else if 0x7F800000 < mag then (if bitAt x 22 then 0x200 else 0x100)
  else if mag = 0 then (if neg then 8 else 0x10)
  else if mag < 0x800000 then (if neg then 4 else 0x20)
  else if neg then 2 else 0x40

def execFadd (d a b : Reg) (r : BitVec 3) (s : State) : Res := s.fop d a b r (addCode f32)
def execFsub (d a b : Reg) (r : BitVec 3) (s : State) : Res := s.fop d a b r (subCode f32)
def execFmul (d a b : Reg) (r : BitVec 3) (s : State) : Res := s.fop d a b r (mulCode f32)
def execFdiv (d a b : Reg) (r : BitVec 3) (s : State) : Res :=
  s.fop d a b r fun rm u x y => roundRes f32 rm u (divVal false (decodeVal f32 false x) (decodeVal f32 false y))
def execFsqrt (d a : Reg) (r : BitVec 3) (s : State) : Res :=
  s.roundOne [a] d r f32 false fun rm u c => plainRound (roundRes f32 rm u (sqrtVal false (decodeVal f32 false (f32.source (c.reg a)))))
def execFmin (d a b : Reg) (s : State) : Res := s.fplain d a b (minMaxCode f32 false)
def execFmax (d a b : Reg) (s : State) : Res := s.fplain d a b (minMaxCode f32 true)
def execFeq (d a b : Reg) (s : State) : Res := s.fplain d a b fun x y => truth (eqCode f32 x y)
def execFlt (d a b : Reg) (s : State) : Res := s.fplain d a b fun x y => truth (ltCode f32 false x y)
def execFle (d a b : Reg) (s : State) : Res := s.fplain d a b fun x y => truth (ltCode f32 true x y)
def execFclass (d a : Reg) (s : State) : Res :=
  s.gate [a] [d] <| s.inChunk fun c => (c.setReg d (BitVec.ofNat 64 (fclassMask (f32.source (c.reg a))))).step4

/-! ## Fused multiply-add (R318, R319) -/

/-- FMA and its three siblings: the signs of the product and of the addend. -/
def State.fused (s : State) (d a b c : Reg) (r : BitVec 3) (np na : Bool) : Res :=
  s.roundOne [a, b, c] d r f32 false fun rm u k =>
    plainRound (fmaCode f32 rm u np na (f32.source (k.reg a)) (f32.source (k.reg b)) (f32.source (k.reg c)))

def execFma (d a b c : Reg) (r : BitVec 3) (s : State) : Res := s.fused d a b c r false false
def execFms (d a b c : Reg) (r : BitVec 3) (s : State) : Res := s.fused d a b c r false true
def execFnma (d a b c : Reg) (r : BitVec 3) (s : State) : Res := s.fused d a b c r true false
def execFnms (d a b c : Reg) (r : BitVec 3) (s : State) : Res := s.fused d a b c r true true

/-! ## tap32 (R320 to R322) -/

/-- The tap32 format. -/
def t32 : FmtKind := .tap tap32

/-- A tap32 result; NaR is created when no operand is NaR (R180). -/
def tapRound (xs : List Nat) (p : Nat × Flg) : Rounded :=
  ⟨p.1, p.2, p.1 == tap32.nar && !xs.any fun x => x == tap32.nar⟩

/-- A tap32 instruction on two registers that rounds. -/
def State.top (s : State) (d a b : Reg) (r : BitVec 3) (f : Rm → Nat → Nat → Nat → Nat × Flg) : Res :=
  s.roundOne [a, b] d r t32 false fun rm u c =>
    let x := t32.source (c.reg a)
    let y := t32.source (c.reg b)
    tapRound [x, y] (f rm u x y)

/-- TFMA and its three siblings. -/
def State.tapFused (s : State) (d a b c : Reg) (r : BitVec 3) (np na : Bool) : Res :=
  s.roundOne [a, b, c] d r t32 false fun rm u k =>
    let x := t32.source (k.reg a)
    let y := t32.source (k.reg b)
    let z := t32.source (k.reg c)
    tapRound [x, y, z] (fmaCode t32 rm u np na x y z)

/-- The word of TCLS (R322). -/
def tclsWord (f : Tap) (p : Nat) : Nat := match f.fields p with
  | .zero => 2 ^ 33
  | .nar => 2 ^ 34
  | .real s m k e _ fb => (if s then 2 ^ 32 else 0) + fb * 2 ^ 24 + e * 2 ^ 16 + wrapTo 8 k * 2 ^ 8 + m

def execTadd (d a b : Reg) (r : BitVec 3) (s : State) : Res := s.top d a b r (addCode t32)
def execTsub (d a b : Reg) (r : BitVec 3) (s : State) : Res := s.top d a b r (subCode t32)
def execTmul (d a b : Reg) (r : BitVec 3) (s : State) : Res := s.top d a b r (mulCode t32)
def execTdiv (d a b : Reg) (r : BitVec 3) (s : State) : Res :=
  s.top d a b r fun rm u x y => roundRes t32 rm u (divVal true (decodeVal t32 false x) (decodeVal t32 false y))
def execTsqrt (d a : Reg) (r : BitVec 3) (s : State) : Res :=
  s.roundOne [a] d r t32 false fun rm u c =>
    let x := t32.source (c.reg a)
    tapRound [x] (roundRes t32 rm u (sqrtVal true (decodeVal t32 false x)))
def execTcls (d a : Reg) (w : BitVec 2) (s : State) : Res :=
  s.gate [a] [d] <| s.inChunk fun c =>
    let f := if w = 0 then tap32 else if w = 1 then tap16 else tap8
    (c.setReg d (BitVec.ofNat 64 (tclsWord f (c.reg a).toNat))).step4
def execTfma (d a b c : Reg) (r : BitVec 3) (s : State) : Res := s.tapFused d a b c r false false
def execTfms (d a b c : Reg) (r : BitVec 3) (s : State) : Res := s.tapFused d a b c r false true
def execTfnma (d a b c : Reg) (r : BitVec 3) (s : State) : Res := s.tapFused d a b c r true false
def execTfnms (d a b c : Reg) (r : BitVec 3) (s : State) : Res := s.tapFused d a b c r true true

/-! ## CVT (R324) -/

def execCvt (d a : Reg) (p q : Bit) (r : BitVec 3) (t f : BitVec 4) (s : State) : Res :=
  let dk := fmtKind t.toNat
  let sk := fmtKind f.toNat
  s.roundOne [a] d r dk (p == 1) fun rm u c => cvtCode dk (p == 1) sk (q == 1) rm u (sk.source (c.reg a))

end Sys2Proof.Machine
end

