-- ==== Sys2Proof/Machine/Vector.lean ====
section
/-! DEFINITION. Vector instructions (spec 15 R326 to R342). -/

namespace Sys2Proof.Machine

/-! ## Ranges (R326) -/

/-- Bytes of an element; lns6 counts by words. -/
def isLns (f : BitVec 4) : Bool := f == 6

/-- Element size, and pointer alignment (R326). -/
def vAlign (f : BitVec 4) : Nat := if isLns f then 4 else fmtBytes f.toNat

/-- Offset of the first byte of element j: of its word for lns6. -/
def vOff (f : BitVec 4) (j : Nat) : Nat := if isLns f then 4 * (j / 5) else fmtBytes f.toNat * j

/-- Length of a range of n elements. -/
def vLen (f : BitVec 4) (n : Nat) : Nat := if isLns f then 4 * ((n + 4) / 5) else fmtBytes f.toNat * n

/-- Elements of a pass (R331). -/
def passSize (f : BitVec 4) (vl : Nat) : Nat := if isLns f then vl * 5 else vl * 4 / fmtBytes f.toNat

/-- Element j of a range as the scratchpad holds it (R41, R182). -/
def vElem (m : Memory) (f : BitVec 4) (ptr j : Nat) : Nat :=
  if isLns f then bits (m.readLE (ptr + 4 * (j / 5)) 4) (6 * (j % 5) + 5) (6 * (j % 5))
  else m.readLE (ptr + fmtBytes f.toNat * j) (fmtBytes f.toNat)

/-- Elements start to start + n − 1 of a range. -/
def vElems (m : Memory) (f : BitVec 4) (ptr start n : Nat) : List Nat := (List.range n).map fun i => vElem m f ptr (start + i)

/-- Writes codes to lns6 elements from number j on: bits [31:30] become zero, other codes stay (R334). -/
def Core.vPutLns (c : Core) (ptr : Nat) : Nat → List Nat → Core
  | _, [] => c
  | j, v :: vs =>
    let a := ptr + 4 * (j / 5)
    let sh := 6 * (j % 5)
    let w := c.spad.readLE a 4 % 2 ^ 30
    Core.vPutLns (c.pokeLE a 4 (w - bits w (sh + 5) sh * 2 ^ sh + v % 64 * 2 ^ sh)) ptr (j + 1) vs

/-- Writes elements from number `start` on. -/
def Core.vPut (c : Core) (f : BitVec 4) (ptr start : Nat) (vs : List Nat) : Core :=
  if isLns f then c.vPutLns ptr start vs
  else c.poke (ptr + fmtBytes f.toNat * start) (vs.flatMap fun v => bytesOf (fmtBytes f.toNat) v)

/-! ## The checks of an issue (R329, R330) -/

/-- A direct operand range: where its pointer stands, its alignment, its remaining bytes, and whether it is written or read. -/
structure VRange where
  ptr : Nat
  align : Nat
  lo : Nat
  len : Nat
  store : Bool
  load : Bool
  deriving DecidableEq, Repr

/-- The range of a pointer over elements from `start` to n − 1. -/
def vRange (f : BitVec 4) (ptr start n : Nat) (store load : Bool) : VRange :=
  if start < n then ⟨ptr, vAlign f, ptr + vOff f start, vLen f n - vOff f start, store, load⟩ else ⟨ptr, vAlign f, ptr, 0, store, load⟩

/-- The check of one granule of a range (R22): as a store, and, for a destination that is a source as well, as a load (R330). -/
def Core.vGranule (c : Core) (r : VRange) (a : Nat) : Option Nat :=
  match if r.store then c.localCheck true a else none with
  | some e => some e
  | none => if r.load then c.localCheck false a else none

/-- The first misaligned pointer, then the first failing granule (R326, R22): cause and address. -/
def Core.vCheck (c : Core) (rs : List VRange) : Option (Nat × Nat) :=
  match rs.find? fun r => r.ptr % r.align != 0 with
  | some r => some (0x02, r.ptr)
  | none => rs.findSome? fun r => Core.rangeLoop (c.vGranule r) 6146 r.lo (r.lo + r.len)

/-- The first byte in which a written range forbidden by R330 meets a read range. -/
def vOverlap (w r : VRange) : Option Nat :=
  if w.len = 0 ∨ r.len = 0 ∨ (w.lo = r.lo ∧ w.len = r.len) then none
  else if w.lo < r.lo + r.len ∧ r.lo < w.lo + w.len then some (max w.lo r.lo) else none

/-- R330 over every pair of a written and a read range, the lowest byte first. -/
def vOverlaps (rs : List VRange) : Option Nat :=
  (rs.flatMap fun w => if w.store then rs.filterMap fun r => if r.store then none else vOverlap w r else []).min?

/-- R144 over the ranges. -/
def Core.vStall (c : Core) (rs : List VRange) : Bool := rs.any fun r => c.ttStall r.store r.lo r.len

/-- A busy stationary macro under a range that is read (R48). -/
def State.vBusy (s : State) (rs : List VRange) : Bool := rs.any fun r => r.load && s.rangeBusy r.lo r.len

/-- An uncorrectable word under a range that is read (R443). -/
def Core.vBad (c : Core) (rs : List VRange) : Option Nat := rs.findSome? fun r => if r.load then c.badWord r.lo r.len else none

/-- How many words with a single-bit error lie under the ranges that are read (R443). -/
def Core.vSoft (c : Core) (rs : List VRange) : Nat := (rs.map fun r => if r.load then c.softWords r.lo r.len else 0).sum

/-- All the checks of an issue in order; `extra` is the indirect side (R329). -/
def State.vIssue (s : State) (rs : List VRange) (extra : Option (Nat × Nat)) (k : Res) : Res :=
  match s.core.vCheck rs with
  | some (e, a) => s.trapN e a
  | none => match extra with
    | some (e, a) => s.trapN e a
    | none => match vOverlaps rs with
      | some a => s.trapN 0x03 a
      | none => if s.core.vStall rs then .next s else k

/-! ## Post-increments (R333) -/

/-- Each register grows once, by the length of the first operand that names it; `seen` are those that have grown. -/
def Core.incrementFrom (c : Core) (seen : List Reg) : List (Reg × Nat) → Core
  | [] => c
  | (r, n) :: rest =>
    if seen.contains r then Core.incrementFrom c seen rest
    else Core.incrementFrom (c.setReg r (c.reg r + BitVec.ofNat 64 n)) (r :: seen) rest

/-- The post-increments of an instruction. -/
def Core.increment (c : Core) (l : List (Reg × Nat)) : Core := c.incrementFrom [] l

/-! ## Elementwise instructions (R329 to R333) -/

/-- What an element's function gets: the mode, its draw, its index and the operands. -/
abbrev VFun := Rm → Nat → Nat → List Nat → Nat × Flg

/-- Elements in ascending index: each takes its draw if the instruction rounds; the codes, the flags and the generator. -/
def vMap (rounds : Bool) (rm : Rm) (f : VFun) : Nat → List (List Nat) → Word → Flg → List Nat × Flg × Word
  | _, [], gen, fl => ([], fl, gen)
  | i, x :: xs, gen, fl =>
    let d := if rounds then drawIf rm gen else (0, gen)
    let r := f rm d.1 i x
    let t := vMap rounds rm f (i + 1) xs d.2 (fl ||| r.2)
    (r.1 :: t.1, t.2)

/-- Operand tuples of elements from lists of equal length. -/
def vTuples (n : Nat) (cols : List (List Nat)) : List (List Nat) := (List.range n).map fun i => cols.map fun c => c.getD i 0

/-- Elements that can be processed from `start` on before a pass stalls on a busy macro (R331, R48); the first number is the
number of passes left. -/
def State.vFree (s : State) (e n : Nat) (rs : Nat → Nat → List VRange) : Nat → Nat → Nat
  | 0, start => start
  | k + 1, start =>
    if n ≤ start then n
    else if s.vBusy (rs start (min n (start + e))) then start
    else State.vFree s e n rs k (min n (start + e))

/-- An elementwise instruction: d in format `df` (`dRead`: also an operand, the last), sources (register, format) in the order
a, b. `reads` are its registers in the order a, b, d. The elements of a pass are those of the format of d, of VCVT too, for which R331 does not say whose
(log entry 83). -/
def State.vElementwise (s : State) (reads : List Reg) (d : Reg) (df : BitVec 4) (dRead rounds : Bool) (srcs : List (Reg × BitVec 4))
    (incs : List Reg) (incLen : Reg → Nat → Nat) (f : VFun) : Res :=
  s.alone false 0 reads incs <|
    let c := s.core
    let n := c.ctl.vn.toNat
    let start := c.vprog.toNat
    let dp := (c.reg d).toNat
    let ptrs := srcs.map fun x => ((c.reg x.1).toNat, x.2)
    let ranges := fun (i j : Nat) => vRange df dp i j true dRead :: ptrs.map fun x => vRange x.2 x.1 i j false true
    s.vIssue (ranges start n) none <|
      let e := passSize df c.ctl.vl.toNat
      let stop := if n ≤ start then n else s.vFree e n ranges (n + 1) start
      if stop = start ∧ start < n then .next s
      else match c.vBad (ranges start stop) with
        | some w => s.machineCheck w
        | none =>
          let cols := (ptrs.map fun x => vElems c.spad x.2 x.1 start (stop - start)) ++
            (if dRead then [vElems c.spad df dp start (stop - start)] else [])
          let r := vMap rounds c.ctl.dyn f start (vTuples (stop - start) cols) c.gen 0
          let s := s.heal (c.vSoft (ranges start stop))
          let c := ({ c with gen := r.2.2 }.addFlags r.2.1).vPut df dp start r.1
          if stop < n then .next { s with core := { c with vprog := BitVec.ofNat 16 stop } }
          else { s with core := c }.done fun c => c.increment (incs.map fun r => (r, incLen r n))

/-- Operand number i. -/
def arg (x : List Nat) (i : Nat) : Nat := x.getD i 0

/-- Whether VAR rounds in a format: integers wrap. -/
def vRounds (f : BitVec 4) : Bool := !fmtInt f

/-- A VAR instruction: b is a pointer or, with bsc, a broadcast scalar. `z` says that the old d is an operand, the third. -/
def State.varOp (s : State) (d a b : Reg) (f : BitVec 4) (p q r : Bit) (z rounds : Bool)
    (g : FmtKind → Rm → Nat → Nat → Nat → Nat → Nat × Flg) : Res :=
  let k := fmtKind f.toNat
  let scalar := k.source (s.core.reg b)
  let incs := (if p = 1 then [d] else []) ++ (if q = 1 then (if r = 1 then [a] else [a, b]) else [])
  s.vElementwise [a, b, d] d f z rounds (if r = 1 then [(a, f)] else [(a, f), (b, f)]) incs (fun _ n => vLen f n) fun rm u _ x =>
    if r = 1 then g k rm u (arg x 0) scalar (arg x 1) else g k rm u (arg x 0) (arg x 1) (arg x 2)

/-- VSHL (R336). -/
def vShift (w x y : Nat) : Nat :=
  let n := signedOf w y
  if 0 ≤ n then (if (w : Int) ≤ n then 0 else (x <<< n.toNat) % 2 ^ w)
  else wrapTo w (signedOf w x >>> (min (-n).toNat w))

/-- All ones or zero, with flags. -/
def vMask (k : FmtKind) (p : Bool × Flg) : Nat × Flg := (if p.1 then 2 ^ k.width - 1 else 0, p.2)

def execVadd (d a b : Reg) (f : BitVec 4) (p q r : Bit) (s : State) : Res :=
  s.varOp d a b f p q r false (vRounds f) fun k rm u x y _ => addCode k rm u x y
def execVsub (d a b : Reg) (f : BitVec 4) (p q r : Bit) (s : State) : Res :=
  s.varOp d a b f p q r false (vRounds f) fun k rm u x y _ => subCode k rm u x y
def execVmul (d a b : Reg) (f : BitVec 4) (p q r : Bit) (s : State) : Res :=
  s.varOp d a b f p q r false (vRounds f) fun k rm u x y _ => mulCode k rm u x y
def execVfma (d a b : Reg) (f : BitVec 4) (p q r : Bit) (s : State) : Res :=
  s.varOp d a b f p q r true (vRounds f) fun k rm u x y z => fmaCode k rm u false false x y z
def execVmin (d a b : Reg) (f : BitVec 4) (p q r : Bit) (s : State) : Res :=
  s.varOp d a b f p q r false false fun k _ _ x y _ => minMaxCode k false x y
def execVmax (d a b : Reg) (f : BitVec 4) (p q r : Bit) (s : State) : Res :=
  s.varOp d a b f p q r false false fun k _ _ x y _ => minMaxCode k true x y
def execVand (d a b : Reg) (f : BitVec 4) (p q r : Bit) (s : State) : Res :=
  s.varOp d a b f p q r false false fun _ _ _ x y _ => (x &&& y, 0)
def execVor (d a b : Reg) (f : BitVec 4) (p q r : Bit) (s : State) : Res :=
  s.varOp d a b f p q r false false fun _ _ _ x y _ => (x ||| y, 0)
def execVxor (d a b : Reg) (f : BitVec 4) (p q r : Bit) (s : State) : Res :=
  s.varOp d a b f p q r false false fun _ _ _ x y _ => (x ^^^ y, 0)
def execVshl (d a b : Reg) (f : BitVec 4) (p q r : Bit) (s : State) : Res :=
  s.varOp d a b f p q r false false fun k _ _ x y _ => (vShift k.width x y, 0)
def execVcmpeq (d a b : Reg) (f : BitVec 4) (p q r : Bit) (s : State) : Res :=
  s.varOp d a b f p q r false false fun k _ _ x y _ => vMask k (eqCode k x y)
def execVcmplt (d a b : Reg) (f : BitVec 4) (p q r : Bit) (s : State) : Res :=
  s.varOp d a b f p q r false false fun k _ _ x y _ => vMask k (ltCode k false x y)
def execVsel (d a b : Reg) (f : BitVec 4) (p q r : Bit) (s : State) : Res :=
  s.varOp d a b f p q r true false fun _ _ _ x y z => (if z = 0 then y else x, 0)

/-! ## Special functions (R337) -/

/-- An instruction on d and a alone. -/
def State.vUnary (s : State) (d a : Reg) (df sf : BitVec 4) (p q : Bit) (rounds : Bool) (g : Rm → Nat → Nat → Nat × Flg) : Res :=
  s.vElementwise [a, d] d df false rounds [(a, sf)] ((if p = 1 then [d] else []) ++ (if q = 1 then [a] else []))
    (fun r n => if r = d ∧ p = 1 then vLen df n else vLen sf n) fun rm u _ x => g rm u (arg x 0)

/-- A special function of exact values, rounded once. -/
def State.vsf (s : State) (d a : Reg) (f : BitVec 4) (p q : Bit) (g : Bool → Val → Val × Flg) : Res :=
  let k := fmtKind f.toNat
  s.vUnary d a f f p q true fun rm u x => roundRes k rm u (g (f == 4) (decodeVal k false x))

def execVexp (d a : Reg) (f : BitVec 4) (p q : Bit) (s : State) : Res := s.vsf d a f p q fun _ => expVal
def execVlog2 (d a : Reg) (f : BitVec 4) (p q : Bit) (s : State) : Res := s.vsf d a f p q log2Val
def execVrcp (d a : Reg) (f : BitVec 4) (p q : Bit) (s : State) : Res := s.vsf d a f p q rcpVal
def execVrsq (d a : Reg) (f : BitVec 4) (p q : Bit) (s : State) : Res := s.vsf d a f p q rsqVal
def execVsigm (d a : Reg) (f : BitVec 4) (p q : Bit) (s : State) : Res := s.vsf d a f p q fun _ => sigmVal
def execVtanh (d a : Reg) (f : BitVec 4) (p q : Bit) (s : State) : Res := s.vsf d a f p q fun _ => tanhVal

/-! ## Transfers (R338) -/

def execVmov (d a : Reg) (f : BitVec 4) (p q : Bit) (s : State) : Res := s.vUnary d a f f p q false fun _ _ x => (x, 0)

def execVcvt (d a : Reg) (c f : BitVec 4) (p q : Bit) (s : State) : Res :=
  s.vUnary d a f c p q true fun rm u x =>
    let r := cvtCode (fmtKind f.toNat) false (fmtKind c.toNat) false rm u x
    (r.code, r.flags)

/-- An instruction on d and a scalar b. -/
def State.vFill (s : State) (d b : Reg) (f : BitVec 4) (p : Bit) (rounds : Bool) (g : Rm → Nat → Nat → Nat × Flg) : Res :=
  s.vElementwise [b, d] d f false rounds [] (if p = 1 then [d] else []) (fun _ n => vLen f n) fun rm u i _ => g rm u i

def execVset (d b : Reg) (f : BitVec 4) (p : Bit) (s : State) : Res :=
  let v := (fmtKind f.toNat).source (s.core.reg b)
  s.vFill d b f p false fun _ _ _ => (v, 0)

def execViota (d b : Reg) (f : BitVec 4) (p : Bit) (s : State) : Res :=
  let v := (s.core.reg b).toInt
  let k := fmtKind f.toNat
  s.vFill d b f p (vRounds f) fun rm u i =>
    if fmtInt f then (wrapTo k.width (v + i), 0)
    else
      let r := roundVal k false rm u (valOfInt (v + i))
      (r.code, r.flags)

/-! ## Indirect transfers (R339) -/

/-- The addresses that an index list names. -/
def vTargets (t size : Nat) (idx : List Nat) : List Nat := idx.map fun j => t + size * j

/-- The check of one indirect address: alignment, R21, and R330 against the direct ranges. -/
def Core.vIndirect (c : Core) (store : Bool) (size : Nat) (rs : List VRange) (a : Nat) : Option (Nat × Nat) :=
  if a % size ≠ 0 then some (0x02, a)
  else match c.localCheck store a with
    | some e => some (e, a)
    | none =>
      let me : VRange := ⟨a, size, a, size, store, !store⟩
      ((rs.filterMap fun r => if r.store != store then (if store then vOverlap me r else vOverlap r me) else none).min?).map fun x => (0x03, x)

/-- VGATH and VSCAT before their elements: `data` is the range of the pointer operand, the list of indices follows it, `t` is the table base, and `k` gets the
start, the stop and the addresses of the elements between. -/
def State.vIndexed (s : State) (reads incs : List Reg) (f : BitVec 4) (store : Bool) (t : Nat) (bp : Nat) (data : Nat → Nat → VRange)
    (k : Nat → Nat → List Nat → Res) : Res :=
  s.alone false 0 reads incs <|
    let c := s.core
    let n := c.ctl.vn.toNat
    let start := c.vprog.toNat
    let size := fmtBytes f.toNat
    let list := vRange 9 bp start n false true
    let ranges := [data start n, list]
    match c.vCheck ranges with
    | some (e, a) => s.trapN e a
    | none =>
      if s.vBusy [list] then .next s
      else match c.vBad [list] with
      | some w => s.machineCheck w
      | none =>
        let tgt := vTargets t size (vElems c.spad 9 bp start (n - start))
        s.vIssue ranges (tgt.findSome? (c.vIndirect store size ranges)) <|
          let cells := tgt.map fun a => (⟨a, size, a, size, store, !store⟩ : VRange)
          if c.vStall cells then .next s
          else
            let e := passSize f c.ctl.vl.toNat
            let of := fun (i j : Nat) => data i j :: vRange 9 bp i j false true :: (cells.drop (i - start)).take (j - i)
            let stop := if n ≤ start then n else s.vFree e n of (n + 1) start
            if stop = start ∧ start < n then .next s
            else match c.vBad (of start stop) with
              | some w => s.machineCheck w
              | none => healed (c.vSoft (list :: data start stop :: cells.take (stop - start))) (k start stop (tgt.take (stop - start)))

def execVgath (d a b : Reg) (f : BitVec 4) (p q : Bit) (s : State) : Res :=
  let dp := (s.core.reg d).toNat
  let bp := (s.core.reg b).toNat
  let incs := (if p = 1 then [d] else []) ++ (if q = 1 then [b] else [])
  s.vIndexed [a, b, d] incs f false (s.core.reg a).toNat bp
    (fun i j => vRange f dp i j true false) fun start stop tgt =>
      let c := s.core
      let n := c.ctl.vn.toNat
      let c := c.vPut f dp start (tgt.map fun x => c.spad.readLE x (fmtBytes f.toNat))
      if stop < n then .next { s with core := { c with vprog := BitVec.ofNat 16 stop } }
      else { s with core := c }.done fun c => c.increment ((if p = 1 then [(d, vLen f n)] else []) ++ (if q = 1 then [(b, 4 * n)] else []))

/-- Elements written one by one; a later one wins. -/
def Core.vScatter (c : Core) (size : Nat) : List (Nat × Nat) → Core
  | [] => c
  | (a, v) :: rest => Core.vScatter (c.pokeLE a size v) size rest

def execVscat (d a b : Reg) (f : BitVec 4) (q : Bit) (s : State) : Res :=
  let ap := (s.core.reg a).toNat
  let bp := (s.core.reg b).toNat
  s.vIndexed [a, b, d] (if q = 1 then [a, b] else []) f true (s.core.reg d).toNat bp
    (fun i j => vRange f ap i j false true) fun start stop tgt =>
      let c := s.core
      let n := c.ctl.vn.toNat
      let c := c.vScatter (fmtBytes f.toNat) (tgt.zip (vElems c.spad f ap start (stop - start)))
      if stop < n then .next { s with core := { c with vprog := BitVec.ofNat 16 stop } }
      else { s with core := c }.done fun c => c.increment (if q = 1 then [(a, vLen f n), (b, 4 * n)] else [])

/-! ## Reductions (R340) -/

/-- A reduction: sources in the order a, b; `g` gets their elements and gives the generator, the flags and the result word. -/
def State.vReduce (s : State) (d : Reg) (srcs : List Reg) (f : BitVec 4) (q : Bit)
    (g : Rm → Word → List (List Nat) → (Word × Flg) × Word) : Res :=
  s.alone false 0 srcs (d :: (if q = 1 then srcs else [])) <|
    let c := s.core
    let n := c.ctl.vn.toNat
    let ptrs := srcs.map fun r => (c.reg r).toNat
    let rs := ptrs.map fun p => vRange f p 0 n false true
    s.vIssue rs none <|
      if s.vBusy rs then .next s
      else match c.vBad rs with
        | some w => s.machineCheck w
        | none =>
          let r := g c.ctl.dyn c.gen (ptrs.map fun p => vElems c.spad f p 0 n)
          (s.heal (c.vSoft rs)).done fun c => (({ c with gen := r.1.1 }.addFlags r.1.2).setReg d r.2).increment
            (if q = 1 then srcs.map fun r => (r, vLen f n) else [])

/-- One rounding combination that threads generator and flags. -/
def vStep (rm : Rm) (op : Nat → Nat → Nat → Nat × Flg) (st : Word × Flg) (x y : Nat) : (Word × Flg) × Nat :=
  let d := drawIf rm st.1
  let r := op d.1 x y
  ((d.2, st.2 ||| r.2), r.1)

/-- Reduce with + (R193), or zero for no element. -/
def vSum (k : FmtKind) (rm : Rm) (st : Word × Flg) (v : List Nat) : (Word × Flg) × Nat :=
  if v.isEmpty then (st, 0) else reduceList (vStep rm fun u => addCode k rm u) st v

/-- Σ of signed values modulo 2^64. -/
def intSum (vs : List Int) : Word := BitVec.ofInt 64 (vs.foldl (· + ·) 0)

def execVrsum (d a : Reg) (f : BitVec 4) (q : Bit) (s : State) : Res :=
  let k := fmtKind f.toNat
  s.vReduce d [a] f q fun rm gen cols =>
    let v := cols.headD []
    if fmtInt f then ((gen, 0), intSum (v.map (signedOf k.width)))
    else
      let r := vSum k rm (gen, 0) v
      (r.1, k.result false r.2)

/-- VRMAX and VRMIN. -/
def vExtreme (k : FmtKind) (wantMax : Bool) (v : List Nat) : Flg × Nat :=
  if v.isEmpty then match k with
    | .ieee i => (0, i.nanCode)
    | .tap t => (0, t.nar)
    | _ => (0, wrapTo k.width (if wantMax then intMin k.width false else intMax k.width false))
  else reduceList (fun fl x y => let r := minMaxCode k wantMax x y; (fl ||| r.2, r.1)) 0 v

def execVrmax (d a : Reg) (f : BitVec 4) (q : Bit) (s : State) : Res :=
  let k := fmtKind f.toNat
  s.vReduce d [a] f q fun _ gen cols =>
    let r := vExtreme k true (cols.headD [])
    ((gen, r.1), k.result false r.2)
def execVrmin (d a : Reg) (f : BitVec 4) (q : Bit) (s : State) : Res :=
  let k := fmtKind f.toNat
  s.vReduce d [a] f q fun _ gen cols =>
    let r := vExtreme k false (cols.headD [])
    ((gen, r.1), k.result false r.2)

def execVdot (d a b : Reg) (f : BitVec 4) (q : Bit) (s : State) : Res :=
  let k := fmtKind f.toNat
  s.vReduce d [a, b] f q fun rm gen cols =>
    let x := cols.headD []
    let y := (cols.drop 1).headD []
    if fmtInt f then ((gen, 0), intSum ((x.zip y).map fun p => signedOf k.width p.1 * signedOf k.width p.2))
    else
      let p := vMap true rm (fun rm u _ t => mulCode k rm u (arg t 0) (arg t 1)) 0 (vTuples x.length [x, y]) gen 0
      let r := vSum k rm (p.2.2, p.2.1) p.1
      (r.1, k.result false r.2)

/-! ## Lanes and the scan (R341, R342) -/

def execVclaim (d a : Reg) (s : State) : Res :=
  s.alone false 0 [a] [d] <|
    let n := laneRequest (s.core.reg a).toNat
    let g := s.grantFor s.core.pcn n
    s.done fun c => { c with nreq := BitVec.ofNat 9 n, ctl := { c.ctl with vl := BitVec.ofNat 9 g } }.setReg d (BitVec.ofNat 64 g)

def execVrel (s : State) : Res := s.alone false 0 [] [] <| s.done fun c => { c.baseGrant with nreq := 32 }

/-- Whether an element is nonzero (R342). -/
def vNonzero (k : FmtKind) (x : Nat) : Bool := match k with
  | .ieee i => x % 2 ^ (i.width - 1) != 0
  | .lns => x != 0x10
  | _ => x != 0

def execVscan (d a b : Reg) (f : BitVec 4) (q : Bit) (s : State) : Res :=
  s.alone false 0 [a, b] (d :: (if q = 1 then [a, b] else [])) <|
    let c := s.core
    let n := c.ctl.vn.toNat
    let ap := (c.reg a).toNat
    let bp := (c.reg b).toNat
    let rs := [vRange f ap 0 n false true, vRange 9 bp 0 n true false]
    s.vIssue rs none <|
      if s.vBusy rs then .next s
      else match c.vBad rs with
        | some w => s.machineCheck w
        | none =>
          let idx := (List.range n).filter fun i => vNonzero (fmtKind f.toNat) (vElem c.spad f ap i)
          (s.heal (c.vSoft rs)).done fun c => ((c.vPut 9 bp 0 idx).setReg d (BitVec.ofNat 64 idx.length)).increment
            (if q = 1 then [(a, vLen f n), (b, 4 * idx.length)] else [])

end Sys2Proof.Machine
end

