-- ==== Sys2Proof/Machine/Commands.lean ====
section
/-! DEFINITION. Command words: their fields, and the checks that QPUSH and ARM make (spec 11 R261, R262; 01 R24, R25; 02 R49;
16 R344, R351, R358, R359, R361, R363; 17 R373, R379, R391; 18 R413, R414; 06 R140, R144; 08 R196). -/

namespace Sys2Proof.Machine

/-! ## Ranges (R24) -/

/-- A range of bytes: the first one and the number. -/
abbrev Span := Nat × Nat

/-- A local range that lies in a scratchpad (R24). -/
def localOk (r : Span) : Bool := decide (r.1 + r.2 ≤ spadSize)

/-- A global range of one node (R24). -/
def globalOk (r : Span) : Bool :=
  decide (globalBase ≤ r.1) && decide (r.1 + r.2 ≤ 2 ^ 57) && r.1 / 2 ^ 48 == (r.1 + r.2 - 1) / 2 ^ 48

/-- A global range of the core's own node. -/
def Core.ownOk (c : Core) (r : Span) : Bool := globalOk r && nodeOf r.1 == c.ctl.node.toNat

/-- Whether two ranges share a byte. -/
def Span.meets (r t : Span) : Bool := r.2 != 0 && t.2 != 0 && decide (r.1 < t.1 + t.2) && decide (t.1 < r.1 + r.2)

/-- Whether some range of one list meets one of another. -/
def spansMeet (rs ts : List Span) : Bool := rs.any fun r => ts.any fun t => r.meets t

/-- m rows of n bytes, `stride` bytes apart. -/
def rowSpans (a stride n m : Nat) : List Span := (List.range m).map fun i => (a + stride * i, n)

/-- The local ranges that a command writes and reads. -/
structure CmdUse where
  writes : List Span
  reads : List Span
  deriving DecidableEq, Repr

/-- An answer when a condition holds. -/
def useIf (ok : Bool) (u : CmdUse) : Option CmdUse := if ok then some u else none

/-- A command's ranges when a condition holds and all of them are backed (R24). -/
def useLocal (ok : Bool) (u : CmdUse) : Option CmdUse := useIf (ok && (u.writes ++ u.reads).all localOk) u

/-! ## MX (R351, R358, R359) -/

/-- Columns per block of a weight format (R46). -/
def cpbOf (wf : Nat) : Nat := if wf = 4 then 64 else if wf = 6 then 160 else 128

/-- The fields of MX.RUN (R351). -/
structure MxRun where
  sl : Nat
  nb0 : Nat
  nb : Nat
  kb0 : Nat
  kb : Nat
  dstr : Nat
  astr : Nat
  d : Nat
  a : Nat
  grid : Nat
  rm : BitVec 3
  dfmt : BitVec 4
  afmt : BitVec 4
  accum : Bool
  dx : Bool
  sel : Bool
  asrc : Bool
  m : Nat
  deriving DecidableEq, Repr

/-- The fields in a command word. -/
def mxRunOf (w : Nat) : MxRun where
  sl := bits w 255 224
  nb0 := bits w 220 216
  nb := bits w 210 208
  kb0 := bits w 207 200
  kb := bits w 199 192
  dstr := 16 * bits w 191 176
  astr := 16 * bits w 175 160
  d := bits w 159 128
  a := bits w 127 64
  grid := bits w 59 56
  rm := BitVec.ofNat 3 (bits w 54 52)
  dfmt := BitVec.ofNat 4 (bits w 51 48)
  afmt := BitVec.ofNat 4 (bits w 47 44)
  accum := bitAt w 42
  dx := bitAt w 41
  sel := bitAt w 40
  asrc := bitAt w 39
  m := bits w 38 32

/-- K: the rows of the weights. -/
def MxRun.k (r : MxRun) : Nat := 128 * r.kb

/-- Bytes of a row of A. -/
def MxRun.aRow (r : MxRun) : Nat := vLen r.afmt r.k

/-- Bytes of a row of n images or elements. -/
def outRow (dx : Bool) (f : BitVec 4) (n : Nat) : Nat := if dx then 32 * n else vLen f n

/-- The bytes of A as one range. -/
def MxRun.aHull (r : MxRun) : Span := (r.a, r.astr * (r.m - 1) + r.aRow)

/-- The smaller and the larger CPB that an activation format leaves possible (R351). -/
def MxRun.cpbs (r : MxRun) : Nat × Nat := if r.afmt = 6 then (160, 160) else (64, 128)

/-- The checks of R351 with a CPB, and the ranges. -/
def MxRun.use (r : MxRun) (c : Core) (w cpb : Nat) : Option CmdUse :=
  let dRow := outRow r.dx r.dfmt (r.nb * cpb)
  let ds := rowSpans r.d r.dstr dRow r.m
  let as_ := if r.asrc then [] else rowSpans r.a r.astr r.aRow r.m
  let sl := if r.sel then [(r.sl, 4 + 4 * r.k)] else []
  useLocal
    (bits w 223 221 == 0 && bits w 215 211 == 0 && bits w 63 60 == 0 && bits w 55 55 == 0 && bits w 43 43 == 0 &&
      decide (1 ≤ r.nb) && decide (r.nb ≤ 4) && decide (r.nb0 + r.nb ≤ 32) && decide (r.kb0 ≤ 127) && decide (1 ≤ r.kb) &&
      decide (r.kb0 + r.kb ≤ 128) && r.rm != 5 && r.rm != 6 && decide (r.dfmt.toNat ≤ 6) && (!r.dx || r.dfmt == 0) &&
      (r.dx || !r.accum) && decide (r.afmt.toNat ≤ 6) && r.afmt != 3 && decide (1 ≤ r.m) && decide (r.m ≤ 64) &&
      r.a % vAlign r.afmt == 0 && r.d % (if r.dx then 32 else vAlign r.dfmt) == 0 && (!r.sel || r.sl % 4 == 0) &&
      (r.m == 1 || (decide (r.aRow ≤ r.astr) && decide (dRow ≤ r.dstr))) && (!r.asrc || c.ownOk r.aHull) &&
      !spansMeet ds (as_ ++ sl))
    ⟨ds, as_ ++ sl ++ if r.accum then ds else []⟩

/-- The fields of MX.ACC (R358). -/
structure MxAcc where
  a : Nat
  d : Nat
  sstr : Nat
  dstr : Nat
  m : Nat
  clr : Bool
  n : Nat
  dfmt : BitVec 4
  rm : BitVec 3
  deriving DecidableEq, Repr

/-- The fields in a command word. -/
def mxAccOf (w : Nat) : MxAcc where
  a := bits w 127 64
  d := bits w 159 128
  sstr := 16 * bits w 175 160
  dstr := 16 * bits w 191 176
  m := bits w 38 32
  clr := bitAt w 39
  n := bits w 49 40
  dfmt := BitVec.ofNat 4 (bits w 53 50)
  rm := BitVec.ofNat 3 (bits w 56 54)

/-- The checks of R358, and the ranges. -/
def MxAcc.use (r : MxAcc) (w : Nat) : Option CmdUse :=
  let dRow := vLen r.dfmt r.n
  let src := rowSpans r.a r.sstr (32 * r.n) r.m
  let dst := rowSpans r.d r.dstr dRow r.m
  useLocal
    (bits w 255 192 == 0 && bits w 63 57 == 0 && decide (1 ≤ r.m) && decide (r.m ≤ 64) && decide (1 ≤ r.n) && decide (r.n ≤ 640) &&
      decide (r.dfmt.toNat ≤ 6) && r.rm != 5 && r.rm != 6 && r.a % 32 == 0 && r.d % vAlign r.dfmt == 0 &&
      (r.m == 1 || (decide (32 * r.n ≤ r.sstr) && decide (dRow ≤ r.dstr))) &&
      ((r.a == r.d && r.sstr == r.dstr) || !spansMeet src dst))
    ⟨dst ++ (if r.clr then src else []), src⟩

/-- Bytes of a SAVE record (R359). -/
def saveBytes : Nat := 2112

/-- The checks of SAVE and RESTORE (R359). -/
def mxRecordUse (w : Nat) (store : Bool) : Option CmdUse :=
  let a := bits w 127 64
  useLocal (bits w 255 128 == 0 && bits w 63 32 == 0 && a % 64 == 0)
    (if store then ⟨[(a, saveBytes)], []⟩ else ⟨[], [(a, saveBytes)]⟩)

/-! ## TW (R361) -/

/-- The fields of a tile-walk command. -/
structure TwCmd where
  gstr : Nat
  lstr : Nat
  rb : Nat
  l : Nat
  g : Nat
  mask : Nat
  rows : Nat
  deriving DecidableEq, Repr

def twOf (w : Nat) : TwCmd :=
  ⟨bits w 255 224, bits w 223 192, bits w 191 160, bits w 159 128, bits w 127 64, bits w 55 48, bits w 47 32⟩

/-- The cluster positions that a mask names. -/
def maskBitsOf (mask : Nat) : List Nat := (List.range 8).filter fun i => bitAt mask i

/-- The checks of R361, and the ranges on the pushing core. -/
def TwCmd.use (t : TwCmd) (c : Core) (w code : Nat) : Option CmdUse :=
  let n := (maskBitsOf t.mask).length
  let rs := rowSpans t.l t.lstr t.rb t.rows
  if bits w 63 56 == 0 && t.gstr % 16 == 0 && t.lstr % 16 == 0 && t.rb % 16 == 0 && t.l % 16 == 0 && t.g % 16 == 0 &&
      decide (16 ≤ t.rb) && decide (t.rb ≤ spadSize) && decide (1 ≤ t.rows) && decide (1 ≤ n) && (code == 2 || n == 1) &&
      localOk (t.l, t.lstr * (t.rows - 1) + t.rb) && c.ownOk (t.g, t.gstr * (t.rows - 1) + t.rb) &&
      (code == 1 || t.rows == 1 || decide (t.rb ≤ t.lstr)) then
    some (if code = 1 then ⟨[], rs⟩ else ⟨rs, []⟩)
  else none

/-! ## CE (R363) -/

/-- The fields of a copy-engine command; `x` is src, pat or src, `top` len or fwd. -/
structure CeCmd where
  top : Nat
  dst : Nat
  x : Nat
  j : Nat
  ffmt : BitVec 3
  fold : Bool
  rbytes : Nat
  deriving DecidableEq, Repr

def ceOf (w : Nat) : CeCmd :=
  ⟨bits w 255 192, bits w 191 128, bits w 127 64, bits w 51 36, BitVec.ofNat 3 (bits w 35 33), bitAt w 32, bits w 63 32⟩

/-- The checks of R363. -/
def CeCmd.ok (e : CeCmd) (c : Core) (w code : Nat) : Bool :=
  let lenOk := decide (1 ≤ e.top) && decide (e.top < 2 ^ 40)
  if code = 0 then
    bits w 63 52 == 0 && lenOk && decide (e.j ≤ 65534) && decide (e.ffmt.toNat ≤ 5) && globalOk (e.x, e.top) &&
      globalOk (e.dst, e.top) && !Span.meets (e.x, e.top) (e.dst, e.top)
  else if code = 1 then bits w 63 32 == 0 && lenOk && globalOk (e.dst, e.top)
  else
    e.rbytes % 64 == 0 && decide (64 ≤ e.rbytes) && decide (e.rbytes ≤ 65536) && e.x % 64 == 0 && e.dst % 64 == 0 && e.top % 8 == 0 &&
      c.ownOk (e.x, e.rbytes) && c.ownOk (e.dst, e.rbytes) && c.ownOk (e.top, 8) && !Span.meets (e.x, e.rbytes) (e.dst, e.rbytes) &&
      !Span.meets (e.x, e.rbytes) (e.top, 8) && !Span.meets (e.dst, e.rbytes) (e.top, 8)

/-! ## GK (R373, R379, R391) -/

/-- The fields of a table command (R373). -/
structure GkTable where
  h : Nat
  il : Nat
  d : Nat
  n : Nat
  nb : Nat
  bl : Nat
  iw : Bool
  dstr : Nat
  deriving DecidableEq, Repr

def gkTableOf (w : Nat) : GkTable :=
  ⟨bits w 255 192, bits w 191 160, bits w 159 128, bits w 127 112, bits w 111 96, bits w 95 64, bitAt w 49, 16 * bits w 47 32⟩

/-- Bytes of an index. -/
def GkTable.isize (t : GkTable) : Nat := if t.iw then 8 else 4

/-- The checks of R373, and the ranges. -/
def GkTable.use (t : GkTable) (c : Core) (w code : Nat) : Option CmdUse :=
  let il := (t.il, t.isize * t.n)
  let bl := if code = 1 then [(t.bl, 4 * (t.nb + 1))] else []
  let rows := (t.d, t.dstr * (if code = 1 then t.nb else t.n))
  let ok := bits w 63 50 == 0 && bits w 48 48 == 0 && t.h % 8 == 0 && c.ownOk (t.h, 8) && t.il % t.isize == 0 && decide (1 ≤ t.n) &&
    decide (16 ≤ t.dstr) && (if code = 1 then decide (1 ≤ t.nb) && t.bl % 4 == 0 else t.nb == 0 && t.bl == 0)
  if code = 2 then useLocal ok ⟨[], [rows, il]⟩
  else useLocal (ok && !spansMeet [rows] (il :: bl)) ⟨[rows], il :: bl⟩

/-- The parameter block of a join command (R379). -/
structure GkBlock where
  ins : List Nat
  d : Nat
  dcap : Nat
  nc : Nat
  collapse : Bool
  lanes : Nat
  lfmt : Nat
  hotlim : Nat
  deriving DecidableEq, Repr

def gkBlockOf (b : Nat) : GkBlock where
  ins := (List.range 4).map fun i => fieldOf b (8 * i) 8
  d := fieldOf b 0x20 8
  dcap := fieldOf b 0x28 4
  nc := fieldOf b 0x2C 1
  collapse := bitAt (fieldOf b 0x2D 1) 0
  lanes := fieldOf b 0x2E 1
  lfmt := fieldOf b 0x2F 1
  hotlim := fieldOf b 0x30 4

/-- A size rounded up to a multiple of 8. -/
def up8 (n : Nat) : Nat := (n + 7) / 8 * 8

/-- Bytes of a kpart entry of L lanes (R378). -/
def kEntry (lanes : Nat) : Nat := up8 (16 + 4 * lanes)

/-- The output range of a join command (R380). -/
def GkBlock.out (k : GkBlock) (code : Nat) : Span :=
  (k.d, match code with
    | 3 => 32 * k.dcap
    | 7 => up8 (8 + 4 * k.nc + 4 * k.lanes) * k.dcap
    | 8 => 4 * k.lanes * k.dcap
    | _ => 32 + kEntry k.lanes * k.dcap)

/-- The checks of a parameter block (R379, R367), and the local ranges. -/
def GkBlock.use (k : GkBlock) (c : Core) (b code : Nat) : Option CmdUse :=
  let used := k.ins.take k.nc
  let out := k.out code
  let nc := if code = 3 ∨ code = 4 then k.nc == 1 else if code = 8 then k.nc == 2 else decide (2 ≤ k.nc) && decide (k.nc ≤ 4)
  let lanes := if code = 3 then k.lanes == 0 && k.lfmt == 0
    else decide (1 ≤ k.lanes) && decide (k.lanes ≤ 16) && (k.lfmt == 0 || k.lfmt == 3)
  useIf
    (nc && lanes && decide (1 ≤ k.dcap) && fieldOf b 0x2D 1 == (if k.collapse && code == 5 then 1 else 0) &&
      (code == 3 || code == 4 || k.hotlim == 0) && fieldOf b 0x34 12 == 0 && (k.ins.drop k.nc).all (fun a => a == 0) &&
      k.d % (if code = 8 then 4 else 8) == 0 && (if k.d < globalBase then localOk out else c.ownOk out) &&
      used.all fun a => if a < globalBase then localOk (a, 32) else globalOk (a, 32))
    ⟨if k.d < globalBase then [out] else [], (used.filter fun a => decide (a < globalBase)).map fun a => (a, 32)⟩

/-- The checks of JTCHK (R391). -/
def jtchkUse (w : Nat) : Option CmdUse :=
  let leaves := bits w 159 128
  useLocal (bits w 255 160 == 0 && bits w 63 32 == 0 && leaves % 8 == 0) ⟨[], [(leaves, 64)]⟩

/-! ## CL (R413, R414) -/

/-- The fields of FOLDARM. -/
structure ClArm where
  wctr : BitVec 4
  wce : Bool
  ffmt : BitVec 3
  e : Nat
  stg : Nat
  len : Nat
  base : Nat
  deriving DecidableEq, Repr

def clArmOf (w : Nat) : ClArm :=
  ⟨BitVec.ofNat 4 (bits w 247 244), bitAt w 243, BitVec.ofNat 3 (bits w 242 240), bits w 239 224, bits w 223 160, bits w 159 128, bits w 127 64⟩

/-- Bytes of the staging range (R93). -/
def ClArm.stgBytes (a : ClArm) : Nat := 64 * (a.e - 1) * a.len

/-- The checks of R413. -/
def ClArm.ok (a : ClArm) (c : Core) (w : Nat) : Bool :=
  bits w 255 248 == 0 && bits w 63 32 == 0 && decide (a.ffmt.toNat ≤ 5) && decide (1 ≤ a.e) && decide (1 ≤ a.len) && a.base % 64 == 0 &&
    c.ownOk (a.base, 64 * a.len) && (if a.e = 1 then a.stg == 0 else a.stg % 64 == 0 && c.ownOk (a.stg, a.stgBytes))

/-! ## Every command (R262) -/

/-- Whether a class has a code. -/
def codeListed (cls code : Nat) : Bool := match cls with
  | 1 => decide (code ≤ 4)
  | 2 | 3 => decide (code ≤ 2)
  | 4 => decide (code ≤ 9)
  | 5 => decide (code ≤ 1)
  | _ => false

/-- A join command, which copies a parameter block (R379). -/
def isJoin (cls code : Nat) : Bool := cls == 4 && decide (3 ≤ code) && decide (code ≤ 8)

/-- The own checks of a command's entry (R262), and its local ranges. The last number is the parameter block of a join. MX.RUN
is checked with its smaller CPB. -/
def Core.cmdUse (c : Core) (w block : Nat) : Option CmdUse :=
  let code := bits w 3 0
  match bits w 7 4, code with
  | 1, 0 => (mxRunOf w).use c w (mxRunOf w).cpbs.1
  | 1, 1 => mxRecordUse w true
  | 1, 2 => mxRecordUse w false
  | 1, 3 => (mxAccOf w).use w
  | 1, _ => useIf (bits w 255 32 == 0) ⟨[], []⟩
  | 2, _ => (twOf w).use c w code
  | 3, _ => useIf ((ceOf w).ok c w code) ⟨[], []⟩
  | 4, 9 => jtchkUse w
  | 4, _ => if code ≤ 2 then (gkTableOf w).use c w code else (gkBlockOf block).use c block code
  | _, 0 => useIf ((clArmOf w).ok c w) ⟨[], []⟩
  | _, _ => useIf (bits w 255 128 == 0 && bits w 63 32 == 0 && globalOk (bits w 127 64, 1)) ⟨[], []⟩

/-- The execute boundary and the regions for a granule of a user-mode command (R25). -/
def Core.lpuCheck (c : Core) (store : Bool) (a : Nat) : Option Nat :=
  if c.ctl.mode = .user && (decide (a < c.xb) || !c.ctl.lpuGrants store (a / 64)) then some 0x03 else none

/-- The first failure of a granule check over ranges. -/
def spansCheck (chk : Nat → Option Nat) (rs : List Span) : Option (Nat × Nat) :=
  rs.findSome? fun r => Core.rangeLoop chk 6146 r.1 (r.1 + r.2)

/-- R25 and then R49: the cause and the first failing offset. The spec does not order the checks of a range that is both written and read (D of RUN with
accum, the images of ACC with clr) or of several ranges: the model checks all written ones as stores, then all read ones as loads (log entry 27). -/
def Core.useCheck (c : Core) (u : CmdUse) : Option (Nat × Nat) :=
  match spansCheck (c.lpuCheck true) u.writes with
  | some e => some e
  | none => match spansCheck (c.lpuCheck false) u.reads with
    | some e => some e
    | none => spansCheck (fun a => if c.stationary a then some 0x06 else none) u.writes

/-- The cores whose markings a RUN of core p may use (R353). -/
def State.gridCores (s : State) (p : Nat) : List Nat :=
  let c := s.getCore p
  match c.slice with
  | .member slot => p :: ((List.range 8).map (clusterCore (clusterOf p))).filter fun q => q != p && (s.getCore q).slice == .member slot
  | _ => [p]

/-- Whether a marking is that of a macro of a RUN's grid (R353). -/
def MxRun.names (r : MxRun) (m : BitVec 32) : Bool :=
  m.getLsbD 31 && bits m.toNat 15 12 == r.grid && decide (r.kb0 ≤ bits m.toNat 11 5) && decide (bits m.toNat 11 5 < r.kb0 + r.kb) &&
    decide (r.nb0 ≤ bits m.toNat 4 0) && decide (bits m.toNat 4 0 < r.nb0 + r.nb)

/-- CPB of the first macro of a RUN's grid, else the larger one: the N of the draws that QPUSH takes (R196). -/
def State.pushCpb (s : State) (p : Nat) (r : MxRun) : Nat :=
  let ms := (s.gridCores p).flatMap fun q => (s.getCore q).marks.toList
  match ms.find? r.names with
  | some m => cpbOf (bits m.toNat 27 24)
  | none => r.cpbs.2

/-- The number of an rm code that is not DYN (R172). -/
def Rm.code : Rm → Nat
  | .rne => 0
  | .rtz => 1
  | .rdn => 2
  | .rup => 3
  | .sr => 4

/-- A word with the rounding code of RUN and ACC resolved (R196, R344). -/
def Ctl.resolveRm (k : Ctl) (w : Nat) : Nat :=
  let place := fun (lo : Nat) (rm : BitVec 3) => w - bits w (lo + 2) lo * 2 ^ lo + (k.rmOf rm).code * 2 ^ lo
  match bits w 7 4, bits w 3 0 with
  | 1, 0 => place 52 (mxRunOf w).rm
  | 1, 3 => place 54 (mxAccOf w).rm
  | _, _ => w

/-- Whether the larger column block of a RUN fails its D checks (R351). -/
def Core.wideBad (c : Core) (w : Nat) : Bool := bits w 7 0 == 0x10 && match (mxRunOf w).use c w (mxRunOf w).cpbs.2 with
  | some u => (c.useCheck u).isSome
  | none => true

/-- The ranges of the core's own scratchpad that R144 tests: the larger ones for MX.RUN, and none of a tile-walk command whose mask does not name
the core (R24). -/
def Core.stallUse (c : Core) (w : Nat) (u : CmdUse) : CmdUse :=
  if bits w 7 0 = 0x10 then ((mxRunOf w).use c w (mxRunOf w).cpbs.2).getD u
  else if bits w 7 4 = 2 ∧ !bitAt (twOf w).mask (clusterPos c.pcn) then ⟨[], []⟩
  else u

/-- The same as one list. -/
def Core.stallSpans (c : Core) (w block : Nat) : List Span := match c.cmdUse w block with
  | some u => (c.stallUse w u).writes ++ (c.stallUse w u).reads
  | none => []

/-- The command that a push of a word with a block would record on the core now, with a generator state. -/
def Core.recordCmd (c : Core) (w block : Nat) (gen : Word) : Cmd := { Cmd.of (BitVec.ofNat 256 w) gen with
  word := BitVec.ofNat 256 (c.ctl.resolveRm w)
  block := BitVec.ofNat 512 block
  wideBad := c.wideBad w
  spans := c.stallSpans w block }

/-- A prepared command: the number of its draws beside it (R196). -/
def State.prepare (s : State) (w block : Nat) : Cmd × Nat :=
  let c := s.core
  let sr := fun (rm : BitVec 3) => c.ctl.rmOf rm = .sr
  let plain := (c.recordCmd w block 0, 0)
  match bits w 7 4, bits w 3 0 with
  | 1, 0 =>
    let r := mxRunOf w
    if sr r.rm && !r.dx then (c.recordCmd w block c.gen, r.m * (r.nb * s.pushCpb c.pcn r)) else plain
  | 1, 3 =>
    let r := mxAccOf w
    if sr r.rm then (c.recordCmd w block c.gen, r.m * r.n) else plain
  | _, _ => plain

/-- The block of a join command is read with the command (R379): its alignment and its range first. -/
def State.readBlock (s : State) (p w : Nat) (k : Nat → Res) : Res :=
  let pb := bits w 127 64
  if !isJoin (bits w 7 4) (bits w 3 0) then k 0
  else if bits w 255 128 != 0 || bits w 63 32 != 0 then s.trapN 0x09 p
  else if pb % 64 ≠ 0 then s.trapN 0x02 pb
  else if !localOk (pb, 64) then s.trapN 0x09 p
  else s.readOperand pb 64 k

/-- The granules of a join's parameter block, which are read first, and then those of the command's ranges (R25, R49, R262, R379). -/
def Core.pushCheck (c : Core) (w : Nat) (u : CmdUse) : Option (Nat × Nat) :=
  match if isJoin (bits w 7 4) (bits w 3 0) then spansCheck (c.lpuCheck false) [(bits w 127 64, 64)] else none with
  | some e => some e
  | none => c.useCheck u

/-- The checks of a push of the word w at p with its block (R344): the word, the entry's checks, R25, R49; then the waits of R144 and R140. An ARM waits as
a QPUSH does (log entry 95). -/
def State.pushWord (s : State) (p w block : Nat) (k : Nat → Cmd → Nat → Res) : Res :=
  match s.core.cmdUse w block with
  | none => s.trapN 0x09 p
  | some u => match s.core.pushCheck w u with
    | some (e, at_) => s.trapN e at_
    | none =>
      let v := s.core.stallUse w u
      if (v.writes ++ v.reads).any (fun r => s.core.ttStall true r.1 r.2) || !s.earlierDone s.core.pcn then s.hold (w + block * 2 ^ 256)
      else
        let c := s.prepare w block
        k (bits w 7 4 - 1) c.1 c.2

/-- A push of the command at p (R344), which is copied when the instruction issues. `q` is the queue of a QPUSH; ARM takes the queue of the
class. -/
def State.pushChecks (s : State) (p : Nat) (q : Option Nat) (k : Nat → Cmd → Nat → Res) : Res :=
  match s.core.copied with
  | some v => s.pushWord p (v.toNat % 2 ^ 256) (v.toNat / 2 ^ 256) k
  | none =>
    if p % 32 ≠ 0 then s.trapN 0x02 p
    else s.localOperand false p 32 <| if s.rangeBusy p 32 || s.core.ttStall false p 32 then .next s else s.readOperand p 32 fun w =>
      let cls := bits w 7 4
      if !codeListed cls (bits w 3 0) || q.getD (cls - 1) != cls - 1 || bits w 14 12 != 0 then s.trapN 0x09 p
      else s.readBlock p w fun block => s.pushWord p w block k

/-- What a push copied, while it waits for a slot. -/
def Cmd.copy (k : Cmd) : Nat := k.pushed.toNat + k.block.toNat * 2 ^ 256

end Sys2Proof.Machine
end

