-- ==== Sys2Proof/Machine/Queue.lean ====
section
/-! DEFINITION. QPUSH and QPOP (spec 16 R343 to R346; 11 R263; 06 R140, R141). -/

namespace Sys2Proof.Machine

/-- A push with its checks passed (R344): the draws are taken and a copy enters the queue. -/
def Core.push (c : Core) (q : Nat) (k : Cmd) (draws : Nat) : Core :=
  { c with gen := skipDraws draws c.gen }.enqueue q k

/-- QPUSH (R344): blocks while the queue has no free slot. -/
def execQpush (a : Reg) (q : BitVec 4) (s : State) : Res :=
  s.alone false (wordOf (.qpush a q)) [a] [] <|
    s.pushChecks (s.core.reg a).toNat (some q.toNat) fun q k n =>
      if s.core.room q k then s.done fun c => c.push q k n else s.hold k.copy

/-- QPUSH.N (R344): status 1 for a full queue, with no draws. -/
def execQpushN (d a : Reg) (q : BitVec 4) (s : State) : Res :=
  s.alone false (wordOf (.qpushN d a q)) [a] [d] <|
    s.pushChecks (s.core.reg a).toNat (some q.toNat) fun q k n =>
      if s.core.room q k then s.done fun c => (c.push q k n).setReg d 0 else s.done fun c => c.setReg d 1

/-- The oldest element of q0 to q4, or the oldest notice of q15 (R263, R345). -/
def Core.front (c : Core) (q : Nat) : Option (BitVec 64) := if q = 15 then c.events.head? else (c.queue q).elems.head?

/-- The oldest element is removed; a notice that waits at the network interface then takes its place (R117). -/
def Core.popFront (c : Core) (q : Nat) : Core :=
  if q = 15 then
    let c := { c with events := c.events.drop 1 }
    match c.eventsWaiting with
    | [] => c
    | e :: rest => { c with eventsWaiting := rest }.postEvent e
  else c.modQ q EngineQ.pop

/-- QPOP (R345): waits for an element. -/
def execQpop (d : Reg) (q : BitVec 4) (s : State) : Res :=
  s.alone false (wordOf (.qpop d q)) [] [d] <| match s.core.front q.toNat with
    | none => .next s
    | some e => s.done fun c => (c.popFront q.toNat).setReg d e

/-- QPOP.N (R345): all ones when there is none. -/
def execQpopN (d : Reg) (q : BitVec 4) (s : State) : Res :=
  s.alone false (wordOf (.qpopN d q)) [] [d] <| match s.core.front q.toNat with
    | none => s.done fun c => c.setReg d (BitVec.allOnes 64)
    | some e => s.done fun c => (c.popFront q.toNat).setReg d e

end Sys2Proof.Machine
end

