-- ==== Sys2Proof/Machine/Engine.lean ====
section
/-! DEFINITION. What every engine does with memory: reads and writes of a scratchpad (spec 02 R48, R49), of an own-node line
(06 R134), of host memory and of other nodes (16 R364, 17 R367), and how a command stops (11 R264, 20 R443). -/

namespace Sys2Proof.Machine

/-- What comes of an operation of an engine: it is performed, with a result; it must wait; or the command stops with a status and a
value of its own. -/
inductive Eng (α : Type) where
  | ok (s : State) (x : α)
  | wait
  | stop (s : State) (status value : Nat)

/-- One operation after another. -/
def Eng.andThen {α β : Type} (e : Eng α) (f : State → α → Eng β) : Eng β := match e with
  | .ok s x => f s x
  | .wait => .wait
  | .stop s st v => .stop s st v

/-- An operation that a list of items repeats, carrying a value. -/
def engFold {α β : Type} (f : State → β → α → Eng β) : List α → State → β → Eng β
  | [], s, y => .ok s y
  | x :: xs, s, y => (f s y x).andThen fun s y => engFold f xs s y

/-- An uncorrectable error that an engine reads: the record of type 5, then status 0x10 (R443). -/
def State.engBad {α : Type} (s : State) (p addr : Nat) : Eng α := .stop (s.logError p 0 5 (BitVec.ofNat 64 addr) 0) 0x10 0

/-- The die at whose replica an engine of core p reads; the launch unit, which is no core's, reads at that of die 0. -/
def engDie (p : Nat) : Nat := if p < 1536 then dieOf p else 0

/-- Little-endian words of n bytes each. -/
def wordsOf (n : Nat) (vs : List Nat) : Nat := (vs.zipIdx.map fun v => v.1 * 2 ^ (8 * n * v.2)).foldl (· + ·) 0

/-! ## Scratchpads -/

/-- n bytes of core p's scratchpad; a single-bit error of them is counted (R443). -/
def State.spadRead (s : State) (p a n : Nat) : Eng Nat :=
  let c := s.getCore p
  match c.badWord a n with
  | some w => s.engBad p w
  | none => .ok (s.heal (c.softWords a n)) (c.spad.readLE a n)

/-- The same for the tile-walk engine and Gander, which stall on a busy stationary macro (R48). -/
def State.spadLoad (s : State) (p a n : Nat) : Eng Nat :=
  if (s.select p).rangeBusy a n then .wait else s.spadRead p a n

/-- Writes bytes to core p's scratchpad granule by granule; a granule in a stationary macro stops the command (R49). The number is
fuel. -/
def State.spadStore (s : State) (p : Nat) : Nat → Nat → List Byte → Eng Unit
  | 0, _, _ => .ok s ()
  | f + 1, a, bs =>
    if bs.isEmpty then .ok s ()
    else if (s.getCore p).stationary a then .stop s 0x06 a
    else
      let n := 64 - a % 64
      (s.modCore p fun c => c.poke a (bs.take n)).spadStore p f (a + n) (bs.drop n)

/-- Writes n little-endian bytes. -/
def State.spadPut (s : State) (p a n v : Nat) : Eng Unit := s.spadStore p (n / 64 + 2) a (bytesOf n v)

/-! ## Global memory -/

/-- Stops for a fault of an access to a VA: its kind, with the bitmap of denied destinations as value (R149). A walk that met an uncorrectable error is
recorded (R443). -/
def State.engFault {α : Type} (s : State) (place va : Nat) (f : FaultInfo) : Eng α := .stop (s.noteWalk place va f) f.kind.toNat f.deny.toNat

/-- A fault of another node's page, or the lack of a route (R108, R440). -/
def State.farFault (s : State) (va features : Nat) : Bool := (s.routePort va features).isNone || (s.remoteFault va).isSome

/-- Whether a request of an engine to another node waits for a port that a fold contribution holds (R96). -/
def State.farHeld (s : State) (va features : Nat) : Bool := s.heldBehind (s.routePort va features)

/-- A read of n bytes of one line by an engine of core p: one read event at the home, a read of host memory, or of another node. An address
out of range faults (R6), with the status of a missing translation (log entry 71). A replicated line is read at the die's replica as it stands: a write of
the pushing core that the sequencer has accepted and that replica has not applied is not seen (log entry 32). -/
def State.engRead (s : State) (p va n : Nat) : Eng Nat :=
  if 2 ^ 57 ≤ va then .stop s 0x40 0
  else if s.isOwn va then match s.homeRead (engDie p) va Req.read false with
    | .fault h f => s.engFault h va f
    | .wait => .wait
    | .bad s => s.engBad p va
    | .host s hpa => .ok s (s.hostMem.readLE (hpa / 64 * 64 + va % 64) n)
    | .done s l => .ok s (lineGet l (va % 64) n)
  else if s.farHeld va 0 then .wait
  else if s.farFault va 0 then .stop s 0x43 0
  else .ok s (s.remoteMem.readLE va n)

/-- The bytes of a mask, as cells from the line's first address. -/
def maskCells (base : Nat) (mask : BitVec 64) (data : Line) : List Host.Cell :=
  ((List.range 64).filter fun i => mask.getLsbD i).map fun i => (base + i, lineByte data i)

/-- The sequencer with room for one more update (R76). -/
def State.seqRoom (s : State) : State := if seqCapacity ≤ s.seqQueue.length then s.replDrainAll else s

/-- An engine's write to a replicated line is performed once every replica home has applied it (R141): `t` follows the write, `s` came
before it. -/
def State.settled (s t : State) : State := if t.seqNext = s.seqNext then t else t.replDrainAll

/-- A write of bytes of one line by an engine, performed at once: numbered at the home, at host memory or at another node. -/
def State.engWrite (s : State) (va : Nat) (mask : BitVec 64) (data : Line) : Eng Unit :=
  if 2 ^ 57 ≤ va then .stop s 0x40 0
  else if s.isOwn va then match s.seqRoom.homeWrite 1536 1536 va mask data Req.write with
    | .fault h f => s.engFault h va f
    | .wait => .wait
    | .bad s => .stop s 0x10 0
    | .host s hpa => .ok { s with hostMem := s.hostMem.writeCells (maskCells (hpa / 64 * 64) mask data) } ()
    | .done t _ => .ok (s.settled t) ()
  else if s.farHeld va 0 then .wait
  else if s.farFault va 0 then .stop s 0x43 0
  else .ok { s with remoteMem := s.remoteMem.writeCells (maskCells (va / 64 * 64) mask data) } ()

/-- A read-modify-write of n bytes of one own-node line by Gander: an engine write whose every destination is checked before it (R149), then
indivisible at the home (R370, R376). The line as it stood before. -/
def State.engRmw (s : State) (p va n : Nat) (f : Rmw) : Eng Line := match s.writeCheck va Req.both with
  | .error (h, x) => s.engFault h va x
  | .ok _ => match s.homeRmw 1536 1536 va n f true with
    | .fault h x => s.engFault h va x
    | .wait => .wait
    | .bad s => s.engBad p va
    | .host s _ => .stop s 0x40 0
    | .done t old => .ok (s.settled t) old

/-- The pieces of a range that lie within one line each: address and bytes. The first number is fuel. -/
def piecesFrom : Nat → Nat → Nat → List Span
  | 0, _, _ => []
  | f + 1, a, n => if n = 0 then [] else let k := min n (64 - a % 64); (a, k) :: piecesFrom f (a + k) (n - k)

/-- The pieces of [a, a + n). -/
def pieces (a n : Nat) : List Span := piecesFrom (n / 64 + 2) a n

/-- Writes n bytes within one line. -/
def State.engPut (s : State) (va n v : Nat) : Eng Unit := s.engWrite va (maskOf va n) (dataAt va n v)

/-- A read of a global range line by line. -/
def State.engReadRange (s : State) (p va n : Nat) : Eng Nat :=
  engFold (fun s acc r => (s.engRead p r.1 r.2).andThen fun s v => .ok s (acc + v * 2 ^ (8 * (r.1 - va)))) (pieces va n) s 0

/-- A write of a global range line by line. -/
def State.engPutRange (s : State) (va n v : Nat) : Eng Unit :=
  engFold (fun s _ r => s.engPut r.1 r.2 (fieldOf v (r.1 - va) r.2)) (pieces va n) s ()

/-- Whether an own-node line is marked as moved (R372). -/
def State.isMoved (s : State) (va : Nat) : Bool := s.isOwn va && s.moved.contains (lineOf va)

/-- A read of a global range by Gander, line by line: at a moved line it is refused, and the same address obtained again stops the command (R372). -/
def State.gkRead (s : State) (p va n : Nat) : Eng Nat := engFold (fun s acc r =>
  if s.isMoved r.1 then .stop s 0x0D 0
  else (s.engRead p r.1 r.2).andThen fun s v => .ok s (acc + v * 2 ^ (8 * (r.1 - va)))) (pieces va n) s 0

/-- A read of a field of kind L/G (R367): core p's scratchpad, or global. -/
def State.lgRead (s : State) (p a n : Nat) : Eng Nat :=
  if a < globalBase then (if spadSize < a + n then .stop s 0x0E 0 else s.spadLoad p a n) else s.gkRead p a n

/-! ## Adds over a line (R93, R403) -/

/-- The format of an add code: 0 f32, 1 tap32, 2 i32, 3 i64, 4 bf16, 5 tap16 (R363, R402). -/
def addKind (f : Nat) : FmtKind := match f with
  | 0 => .ieee ieee32
  | 1 => .tap tap32
  | 2 => .int 32
  | 3 => .int 64
  | 4 => .ieee ieeeBf16
  | _ => .tap tap16

/-- Round(own + arriving, format, RNE) of every element of a line, and the flags; integers wrap. -/
def lineAdd (k : FmtKind) (own arriving : Line) : Line × Flg :=
  let n := k.width / 8
  (List.range (64 / n)).foldl (fun (acc : Line × Flg) i =>
    let r := addCode k .rne 0 (lineGet own (n * i) n) (lineGet arriving (n * i) n)
    (lineSet acc.1 (n * i) n r.1, acc.2 ||| r.2)) (0, 0)

end Sys2Proof.Machine
end

