-- ==== Sys2Proof/Machine/Mules.lean ====
section
/-! DEFINITION. Mules and fold windows (spec 04 R81 to R97; 13 R309 to R311; 18 R413 to R416). -/

namespace Sys2Proof.Machine

/-! ## Mules -/

/-- A Mule with nothing in it. -/
def Mule.empty (c : Nat) : Mule := ⟨c, none, [], none, [], [], [], [], none⟩

/-- The Mule of a channel. -/
def State.mule (s : State) (c : Nat) : Mule := (s.mules.find? fun m => m.chan == c).getD (Mule.empty c)

/-- Puts a Mule back. -/
def State.putMule (s : State) (m : Mule) : State :=
  { s with mules := upsert (fun x => x.chan == m.chan) (fun _ => m) m s.mules }

/-- The channel of a DRAM address. -/
def chanOf (flat : Nat) : Nat := flat / 4096 / granules

/-- A reply word (R83). -/
def nmReply (status : Nat) (value : Nat) (flags : Flg) : Word :=
  BitVec.ofNat 64 ((value % 2 ^ 48) * 2 ^ 16 + flags.toNat * 2 ^ 8 + status)

/-- The number that stands for a core of another node in an owner, and the node of such a number. -/
def remotePcn (node : BitVec 9) : Nat := 2048 + node.toNat
def remoteNode (pcn : Nat) : Option (BitVec 9) := if 2048 ≤ pcn then some (BitVec.ofNat 9 (pcn - 2048)) else none

/-- A reply leaves for its register, or for another node; one for g0 is discarded (R42). -/
def State.nmAnswer (s : State) (o : Owner) (r : Reg) (v : Word) : State := match remoteNode o.pcn with
  | some n => s.out (.remoteReply n v)
  | none => if r = 0 then s else { s with replies := s.replies ++ [⟨o, r, v, true⟩] }

/-! ## The translating place (R82) -/

/-- What a request asks of its page (R82, R107). That an NMRES asks for a read alone is the model's choice (log entry 90). -/
def NmReq.req : NmReq → Req
  | .request w0 _ _ _ => if bits w0.toNat 3 0 = 1 ∨ bits w0.toNat 3 0 = 2 then Req.both else Req.read
  | _ => Req.read

/-- Requests queued at a Mule: without the one it runs, which has left the queue (R84, R91). -/
def Mule.depth (m : Mule) : Nat := if m.mpc.isSome && m.stopped.isNone then m.queue.length - 1 else m.queue.length

/-- A request that passed its page's checks reaches Mule c: the answer is `none` while the queue is full (R84). -/
def State.nmEnqueue (s : State) (c : Nat) (r : NmReq) (o : Owner) (reg : Reg) (page size dram : Nat) : Option State :=
  let m := s.mule c
  match r with
  | .resume => some (s.putMule { m with controls := m.controls ++ [⟨false, o, reg, page, size⟩] })
  | .abandon => some (s.putMule { m with controls := m.controls ++ [⟨true, o, reg, page, size⟩] })
  | .request w0 w1 w2 w3 =>
    let j : NmJob := ⟨w0, w1, w2, w3, o, reg, page, size, dram⟩
    if bits w0.toNat 3 0 = 3 then some (s.putMule { m with queries := m.queries ++ [j] })
    else if m.depth < 32 then some (s.putMule { m with queue := m.queue ++ [j] })
    else none

/-- What comes of a check of R82: a fault at a place, a wait, or the request is gone. -/
inductive NmCheck where
  | fault (place : Nat) (f : FaultInfo)
  | wait
  | gone (s : State)

/-- The checks of R82 at a translating place of the own node. -/
def State.nmAt (s : State) (place va : Nat) (r : NmReq) (o : Owner) (reg : Reg) : NmCheck :=
  match s.translate place va r.req with
  | .error f => .fault place f
  | .ok (s, leaf, big, _) =>
    if !leafNm leaf then .gone (s.nmAnswer o reg (nmReply 0x01 0 0))
    else if leafComp leaf then .gone (s.nmAnswer o reg (nmReply 0x02 0 0))
    else
      let size := pageBytes big
      let dram := dramFlat (leafPa leaf)
      match s.nmEnqueue (chanOf dram) r o reg (va / size * size) size dram with
      | some s => .gone s
      | none => .wait

/-- The checks of R82 steps 1 to 3 on a request at its translating place; one to another node goes through its port, with which it waits while a fold
contribution holds that (R96, R440). -/
def State.nmCheck (s : State) (va : Nat) (r : NmReq) (o : Owner) (reg : Reg) (port : Option Nat) : NmCheck :=
  if va < globalBase ∨ 2 ^ 57 ≤ va then .gone (s.nmAnswer o reg (nmReply 0x03 0 0))
  else if !s.isOwn va then
    if port.isNone then .fault remotePark noRoute
    else if s.heldBehind port then .wait
    else match s.remoteFault va with
      | some reason => .fault remotePark (faultOf 0x43 reason)
      | none => .gone ({ s with free := s.free + 1 }.nmAnswer o reg (Config.remoteReply s.free))
  else
    s.nmAt (homeOf (lineOf va)) va r o reg

/-- Request number n under way faults at a place: it parks, and its upcall is raised at its core's next boundary; while its park is full it stays under
way, and the code of its workspace stalls (R112; log entry 92). One of system mode takes CAUSE 0x10 and does not park: nothing ever lands in its register, which stays
pending (log entry 33). -/
def State.nmFault (s : State) (n : Nat) (x : NmFlight) (place : Nat) (f : FaultInfo) : State :=
  if !x.sys && decide (64 ≤ s.parkCount place) then { s with nmFlight := setNth s.nmFlight n { x with held := true } }
  else
    let t := { s with nmFlight := dropNth s.nmFlight n }.noteAt place x.acc.va.toNat f
    let t := if x.sys then t else { t with parks := t.parks ++ [(⟨place, x.acc, x.owner, f, 0⟩ : Parked)] }
    t.modCore (t.ownerCore x.owner) fun c => { c with late := c.late ++ [(x.acc, f, x.sys, x.owner.ws)] }

/-- NMC_REQUEST_CHECK (R82): request number n under way is checked at its translating place. -/
def execNmcRequestCheck (n : Nat) (s : State) : Res := match s.nmFlight[n]? with
  | none => .next s
  | some x => match x.acc.kind with
    | .nmc r => match State.nmCheck { s with nmFlight := dropNth s.nmFlight n } x.acc.va.toNat r x.owner x.acc.reg x.port with
      | .wait => .next { s with nmFlight := setNth s.nmFlight n { x with held := false } }
      | .gone t => .next t
      | .fault place f => .next (s.nmFault n x place f)
    | _ => .next { s with nmFlight := dropNth s.nmFlight n }

/-! ## Requests at the Mule (R84 to R90) -/

/-- The kernel word's fields (R85). -/
def kOp (k : Word) : Nat := bits k.toNat 3 0
def kFmt (k : Word) : Nat := bits k.toNat 7 4
def kRnd (k : Word) : Rm := rmOfTwo (bits k.toNat 9 8)
def kSat (k : Word) : Bool := bitAt k.toNat 10
def kScal (k : Word) : Nat := bits k.toNat 63 32

/-- Whether a kernel word carries no reserved value (R85). -/
def kernelOk (k : Word) : Bool :=
  bits k.toNat 31 11 == 0 && decide (kFmt k ≤ 10) && kFmt k != 6 && decide (kOp k ≤ 9)

/-- Kind and count of a request (R309). -/
def NmJob.kind (j : NmJob) : Nat := bits j.w0.toNat 3 0
def NmJob.n (j : NmJob) : Nat := bits j.w0.toNat 63 32

/-- The ranges that a request has under a kernel (R309): destination first. -/
def NmJob.ranges (j : NmJob) (k : Word) : List Nat :=
  let op := kOp k
  if j.kind = 2 then [j.w1.toNat, j.w2.toNat]
  else if op = 7 then [j.w1.toNat]
  else if op = 0 then [j.w1.toNat, j.w2.toNat]
  else [j.w1.toNat, j.w2.toNat, j.w3.toNat]

/-- Bytes of each range, and its alignment (R82 step 5). -/
def NmJob.unit (j : NmJob) (k : Word) : Nat := if j.kind = 2 then 16 else fmtBytes (kFmt k)

/-- The refusal of R82 steps 4 and 5, or 0. -/
def NmJob.refusal (j : NmJob) (k : Option Word) : Nat := match k with
  | none => 0x04
  | some k =>
    if (j.kind == 1) != decide (kOp k ≤ 7) then 0x04
    else
      let rs := j.ranges k
      let u := j.unit k
      let len := u * j.n
      let inPage := rs.all fun r => r % u == 0 && decide (j.pageVa ≤ r) && decide (r + len ≤ j.pageVa + j.pageSize)
      let apart := rs.all fun r => rs.all fun t => r == t || decide (r + len ≤ t) || decide (t + len ≤ r)
      if inPage && apart then 0 else 0x03

/-- The DRAM address of a VA of the job's page. -/
def NmJob.dram (j : NmJob) (va : Nat) : Nat := j.pageDram + (va - j.pageVa)

/-- Whether the Mule may touch n bytes of DRAM (R73, R89): the cause and the address of a stop. An uncorrectable error stops a read only
(R443). -/
def State.muleStop (s : State) (reads : Bool) (flat n : Nat) : Option (Nat × Nat) :=
  (pieces flat n).findSome? fun p =>
    if s.blockCode (p.1 / 128) ≠ 0 then some (0x10, p.1)
    else if reads && s.dramBad.contains (p.1 / 64 * 64) then some (0x11, p.1)
    else none

/-- A Mule has read n bytes of DRAM: their single-bit errors are counted (R443). -/
def State.muleMet (s : State) (flat n : Nat) : State := s.heal ((pieces flat n).filter fun p => s.dramSoft.contains (p.1 / 64 * 64)).length

/-- A Mule writes bytes to DRAM (R73); a line wholly written has no error any more (log entry 15). -/
def State.muleWrite (s : State) (flat n v : Nat) : State :=
  let whole := fun (a : Nat) => decide (flat ≤ a) && decide (a + 64 ≤ flat + n)
  { s with
    dram := s.dram.writeLE flat n v
    dramBad := s.dramBad.filter fun a => !whole a
    dramSoft := s.dramSoft.filter fun a => !whole a }

/-- SCAL as a value of the kernel's format family (R85). -/
def scalVal (k : Word) : Val := match fmtKind (kFmt k) with
  | .ieee _ => ieee32.decode (kScal k)
  | .tap _ => tap32.decode (kScal k)
  | _ => .zero false

/-- An integer of a kernel's width, wrapped or saturated. -/
def kernelInt (k : Word) (w : Nat) (i : Int) : Nat := wrapTo w (if kSat k then clampTo w false i else i)

/-- One element of a kernel (R86), and its flags. -/
def kernelOne (k : Word) (x y : Nat) : Nat × Flg :=
  let f := fmtKind (kFmt k)
  match kOp k, f with
  | 0, _ => (x, 0)
  | 7, _ => (0, 0)
  | 1, .int w => (kernelInt k w (signedOf w x + signedOf w y), 0)
  | 2, .int w => (kernelInt k w (signedOf w x - signedOf w y), 0)
  | 3, .int w => (kernelInt k w (signedOf w x * signedOf w y), 0)
  | 6, .int w => (kernelInt k w (signedOf w x + signedOf 32 (kScal k) * signedOf w y), 0)
  | 8, .int w => (kernelInt k w (signedOf w x + signedOf w y), 0)
  | 1, _ | 8, _ => addCode f (kRnd k) 0 x y
  | 2, _ => subCode f (kRnd k) 0 x y
  | 3, _ => mulCode f (kRnd k) 0 x y
  | 6, _ => roundRes f (kRnd k) 0 (fmaVal (kRnd k) (scalVal k) (decodeVal f false y) (decodeVal f false x))
  | 4, _ => minMaxCode f false x y
  | _, _ => minMaxCode f true x y

/-- The record of an uncorrectable error at which a Mule stops a request (R443), with the VA of it. -/
def State.noteStop (s : State) (j : NmJob) (c : Nat × Nat) : State :=
  if c.1 = 0x11 then s.logError noPcn 0 5 (BitVec.ofNat 64 (j.pageVa + (c.2 - j.pageDram))) 0 else s

/-- How a run of a request ends: with its reply, or with a stop. -/
inductive NmEnd where
  | reply (s : State) (status value : Nat) (flags : Flg)
  | stop (s : State) (st : NmStopped)

/-- A stop (R90): bank and column of the address. -/
def stopAt (j : NmJob) (upc : Nat) (flags : Flg) (c : Nat × Nat) (written : Nat) (run : Option (Word × Word)) : NmStopped :=
  let within := c.2 % (granules * 4096)
  ⟨j, upc, flags, BitVec.ofNat 8 c.1, BitVec.ofNat 5 (within / 4096 % 32), BitVec.ofNat 6 (within % 4096 / 64), written, run⟩

/-- Line number u of an elementwise request (R88): the first element, and the number of elements. -/
def NmJob.lineOf (j : NmJob) (e u : Nat) : Nat × Nat :=
  let d := j.w1.toNat
  let first := d / 64 + u
  let lo := max d (first * 64)
  let hi := min (d + e * j.n) (first * 64 + 64)
  ((lo - d) / e, (hi - lo) / e)

/-- An elementwise request from line u on (R86, R88, R90). Of one line the ranges are tested in the order a, b, d, and at one place the block
code before the error, which decides CAUSE, BANK and COL where several would stop it (log entry 27). The first number is fuel. -/
def State.elementwise (s : State) (j : NmJob) (k : Word) : Nat → Nat → Flg → NmEnd
  | 0, _, fl => .reply s 0 j.n fl
  | f + 1, u, fl =>
    let e := fmtBytes (kFmt k)
    let (i, n) := j.lineOf e u
    if n = 0 then .reply s 0 j.n fl
    else
      let at_ := fun (w : Nat) => j.dram (w + e * i)
      match (((j.ranges k).drop 1).map (fun w => (true, w)) ++ [(false, j.w1.toNat)]).findSome? fun w => s.muleStop w.1 (at_ w.2) (e * n) with
      | some c => .stop (s.noteStop j c) (stopAt j u fl c 0 none)
      | none =>
        let get := fun (w m : Nat) => s.dram.readLE (at_ w + e * m) e
        let vs := (List.range n).map fun m => kernelOne k (get j.w2.toNat m) (get j.w3.toNat m)
        let s := ((j.ranges k).drop 1).foldl (fun s w => s.muleMet (at_ w) (e * n)) s
        let s := s.muleWrite (at_ j.w1.toNat) (e * n) (wordsOf e (vs.map (·.1)))
        State.elementwise s j k f (u + 1) (vs.foldl (fun g v => g ||| v.2) fl)

/-- What an aggregate has read so far: the open run, the records due, the flags, and whether a key fell. -/
structure AggAcc where
  run : Option (Word × Word)
  outs : List (Word × Word)
  flags : Flg
  fell : Bool
  deriving DecidableEq, Repr

/-- One record of an aggregate (R87). -/
def aggOne (k : Word) (acc : AggAcc) (r : Word × Word) : AggAcc :=
  if acc.fell then acc
  else match acc.run with
    | none => { acc with run := some r }
    | some (key, v) =>
      if r.1.toNat < key.toNat then { acc with fell := true }
      else if r.1 = key then
        let x := kernelOne k v.toNat r.2.toNat
        { acc with run := some (key, BitVec.ofNat 64 x.1), flags := acc.flags ||| x.2 }
      else { acc with run := some r, outs := acc.outs ++ [(key, v)] }

/-- An aggregate from input line u on (R87, R88, R90). The first number is fuel. -/
def State.aggregate (s : State) (j : NmJob) (k : Word) : Nat → Nat → Nat → Option (Word × Word) → Flg → NmEnd
  | 0, _, written, _, fl => .reply s 0 written fl
  | f + 1, u, written, run, fl =>
    let a := j.w2.toNat
    let lo := max a ((a / 64 + u) * 64)
    let hi := min (a + 16 * j.n) ((a / 64 + u) * 64 + 64)
    let n := (hi - lo) / 16
    let e := fmtBytes (kFmt k)
    match s.muleStop true (j.dram lo) (16 * n) with
    | some c => .stop (s.noteStop j c) (stopAt j u fl c written run)
    | none =>
      let recs := (List.range n).map fun i =>
        (s.dram.dword (j.dram lo + 16 * i), BitVec.ofNat 64 (s.dram.readLE (j.dram lo + 16 * i + 8) e))
      let s := s.muleMet (j.dram lo) (16 * n)
      let acc := recs.foldl (aggOne k) ⟨run, [], fl, false⟩
      let last := decide (a + 16 * j.n ≤ hi)
      let outs := acc.outs ++ (if last && !acc.fell then acc.run.toList else [])
      let d := fun (i : Nat) => j.dram (j.w1.toNat + 16 * (written + i))
      match (List.range outs.length).findSome? fun i => s.muleStop false (d i) 16 with
      | some c => .stop s (stopAt j u fl c written run)
      | none =>
        let s := (outs.zipIdx).foldl (fun s o => s.muleWrite (d o.2) 16 (o.1.1.toNat + o.1.2.toNat * 2 ^ 64)) s
        let written := written + outs.length
        if acc.fell then .reply s 0x05 written acc.flags
        else if last then .reply s 0 written acc.flags
        else State.aggregate s j k f (u + 1) written acc.run acc.flags

/-- Runs a request of kind 1 or 2 from where it stands. -/
def State.nmRun (s : State) (j : NmJob) (k : Word) (st : NmStopped) : NmEnd :=
  if j.kind = 1 then s.elementwise j k (fmtBytes (kFmt k) * j.n / 64 + 3) st.upc st.flags
  else s.aggregate j k (j.n / 4 + 3) st.upc st.written st.run st.flags

/-- A run ends at Mule c: its reply leaves, a stop is recorded (R90). -/
def NmEnd.finish (e : NmEnd) (c : Nat) (o : Owner) (reg : Reg) : State := match e with
  | .reply s st v fl => s.nmAnswer o reg (nmReply st v fl)
  | .stop s st => (s.putMule { s.mule c with stopped := some st }).nmAnswer o reg (nmReply st.cause.toNat st.upc st.flags)

/-- The head request of Mule c of a kind, with the Mule running it (R84): none while the Mule is stopped. -/
def State.nmHead (s : State) (c kind : Nat) : Option (State × NmJob) :=
  let m := s.mule c
  if m.stopped.isSome then none
  else match m.queue with
    | [] => none
    | j :: rest => if j.kind = kind then some (s.putMule { m with queue := rest, mpc := none }, j) else none

/-- NM_CONFIGURE (R85). The spec gives its reply, like that of a refusal, no VALUE: the model puts 0 (log entry 72). -/
def execNmConfigure (c : Nat) (s : State) : Res := match s.nmHead c 0 with
  | none => .next s
  | some (s, j) =>
    if kernelOk j.w1 then .next ((s.putMule { s.mule c with kernel := some j.w1 }).nmAnswer j.owner j.reg (nmReply 0 0 0))
    else .next (s.nmAnswer j.owner j.reg (nmReply 0x04 0 0))

/-- The head request of a kind runs, or is refused (R82, R86, R87). -/
def State.nmStart (s : State) (c kind : Nat) : Res := match s.nmHead c kind with
  | none => .next s
  | some (s, j) =>
    let k := (s.mule c).kernel
    let st := j.refusal k
    if st ≠ 0 then .next (s.nmAnswer j.owner j.reg (nmReply st 0 0))
    else .next ((s.nmRun j (k.getD 0) (stopAt j 0 0 (0, 0) 0 none)).finish c j.owner j.reg)

/-- NM_ELEMENTWISE (R86). -/
def execNmElementwise (c : Nat) (s : State) : Res := s.nmStart c 1

/-- NM_AGGREGATE (R87). -/
def execNmAggregate (c : Nat) (s : State) : Res := s.nmStart c 2

/-- Lines that a request of kind 1 or 2 steps through under a kernel: of its destination, or of its input (R88). -/
def NmJob.lines (j : NmJob) (k : Word) : Nat :=
  let a := if j.kind = 2 then j.w2.toNat else j.w1.toNat
  (a % 64 + j.unit k * j.n + 63) / 64

/-- The request that a Mule would run now, with the line it begins at: its head, unless that is refused, or the stopped one that an NMRES
resumes. -/
def Mule.next (m : Mule) : Option (NmJob × Nat) := match m.stopped, m.queue with
  | some st, _ => if (m.controls.head?.map fun c => !c.abandon).getD false then some (st.job, st.upc) else none
  | none, j :: _ => if (j.kind == 1 || j.kind == 2) && j.refusal m.kernel == 0 then some (j, 0) else none
  | none, [] => none

/-- A request is seen running, at a line that it has reached (R91). The model performs its reads and writes in the step that ends it (log entry
1). -/
def State.nmRuns (s : State) (chan mpc : Nat) : State :=
  let m := s.mule chan
  match m.next with
  | some (j, first) =>
    if max first (m.mpc.getD 0) ≤ mpc ∧ mpc < j.lines (m.kernel.getD 0) then s.putMule { m with mpc := some mpc } else s
  | none => s

/-- The state word as bits of a reply word (R91). That MPC, BANK and COL read 0 while no request runs or is stopped is the model's choice (log entry
88). -/
def Mule.stateWord (m : Mule) : Nat :=
  let base := m.windows.length * 2 ^ 22 + m.depth * 2 ^ 16
  match m.mpc, m.stopped with
  | some c, _ => base + c % 2 ^ 16 * 2 ^ 48 + 2 * 2 ^ 27
  | none, some st =>
    base + st.upc % 2 ^ 16 * 2 ^ 48 + st.bank.toNat * 2 ^ 43 + st.col.toNat * 2 ^ 37 + st.cause.toNat * 2 ^ 29 + 3 * 2 ^ 27
  | none, none => base + (if m.kernel.isNone then 0 else 2 ^ 27)

/-- NM_QUERY (R91). -/
def execNmQuery (c : Nat) (s : State) : Res :=
  let m := s.mule c
  match m.queries with
  | [] => .next s
  | j :: rest => .next ((s.putMule { m with queries := rest }).nmAnswer j.owner j.reg (BitVec.ofNat 64 m.stateWord))

/-- The first NMRES that waits at Mule c, when its abandon bit is this. It changes nothing at a Mule that is not stopped (R92). -/
def Mule.control (m : Mule) (abandon : Bool) : Option (Owner × Reg × Mule) := match m.controls with
  | x :: rest => if x.abandon = abandon then some (x.owner, x.reg, { m with controls := rest, mpc := if m.stopped.isSome then none else m.mpc }) else none
  | [] => none

/-- NM_RESUME (R92): the stopped request goes on at its recorded µPC, its final reply landing in NMRES's register. -/
def execNmResume (c : Nat) (s : State) : Res := match (s.mule c).control false with
  | none => .next s
  | some (o, r, m) => match m.stopped with
    | none => .next ((s.putMule m).nmAnswer o r (nmReply 0x04 0 0))
    | some st =>
      let s := s.putMule { m with stopped := none }
      let j := { st.job with owner := o, reg := r }
      .next ((s.nmRun j (m.kernel.getD 0) { st with job := j }).finish c o r)

/-- NM_ABANDON (R92): the stopped request ends with STATUS 0x20. -/
def execNmAbandon (c : Nat) (s : State) : Res := match (s.mule c).control true with
  | none => .next s
  | some (o, r, m) => match m.stopped with
    | none => .next ((s.putMule m).nmAnswer o r (nmReply 0x04 0 0))
    | some st => .next ((s.putMule { m with stopped := none }).nmAnswer o r (nmReply 0x20 st.upc st.flags))

/-! ## Fold windows (R93 to R97) -/

/-- A counter of an owner grows by 1: that of its core, or, while its member is swapped out, of the saved counters, where it takes
effect at swap-in (R416). -/
def State.bumpOwner (s : State) (o : Owner) (i : BitVec 4) : State :=
  match s.away o with
  | some (slot, m) => s.modImage slot m fun x => { x with incs := x.incs ++ [i] }
  | none => s.modCore (s.ownerCore o) fun c => c.count i

/-- The DRAM address of a VA of a window or its staging range. -/
def Window.dram (w : Window) (va : Nat) : Nat := match w.pages.find? fun p => p.1 == va / 0x10000 with
  | some p => p.2 + va % 0x10000
  | none => 0

/-- The DRAM address of line l of the window, and of its staged slot j (R94). -/
def Window.line (w : Window) (l : Nat) : Nat := w.dram (w.base + 64 * l)
def Window.slot (w : Window) (l j : Nat) : Nat := w.dram (w.stg + 64 * ((j - 1) * w.len + l))

/-- Whether a line's block is raw. -/
def State.raw (s : State) (flat : Nat) : Bool := s.blockCode (flat / 128) == 0

/-- The fold adder reads a line of a window or of its staging range: a single-bit error is counted, an uncorrectable error is recorded (R443) and otherwise ignored, for the spec gives a
stop to requests only (log entry 15). -/
def State.foldRead (s : State) (va a : Nat) : State :=
  let t := s.muleMet a 64
  if s.dramBadAt a then t.logError noPcn 0 5 (BitVec.ofNat 64 va) 0 else t

/-- The fold adder applies data to line l (R93): a block that is not raw is left unchanged and sets the error flag. It adds to the data it finds even where
that has an uncorrectable error, and leaves the error where it is (log entry 15). -/
def State.foldApply (s : State) (w : Window) (l : Nat) (data : Option Line) : State × Window := match data with
  | none => (s, { w with err := true })
  | some d =>
    let a := w.line l
    if !s.raw a then (s, { w with err := true })
    else
      let r := lineAdd (addKind w.ffmt.toNat) (s.dram.line a) d
      ({ s.foldRead (w.base + 64 * l) a with dram := s.dram.writeLine a r.1 }, { w with flags := w.flags ||| r.2 })

/-- Adds 1 to next[line]. -/
def Window.advance (w : Window) (l : Nat) : Window := { w with next := setNth w.next l (w.next.getD l 0 + 1) }

/-- The staged slots and the empty contributions that follow in order on line l (R94). The number is fuel. -/
def State.foldDrain (s : State) (l : Nat) : Nat → Window → State × Window
  | 0, w => (s, w)
  | f + 1, w =>
    let j := w.next.getD l 0
    if w.e ≤ j then (s, w)
    else if w.empty.contains j then s.foldDrain l f (w.advance l)
    else if w.staged.contains (l, j) then
      let a := w.slot l j
      let data := if s.raw a && !w.lost.contains (l, j) then some (s.dram.line a) else none
      let s := if data.isSome then s.foldRead (w.stg + 64 * ((j - 1) * w.len + l)) a else s
      let (s, w) := s.foldApply w l data
      s.foldDrain l f (w.advance l)
    else (s, w)

/-- FoldArrive on one line (R94). A slot that is not raw loses the contribution: its line stays unchanged, and it counts as applied (R93). -/
def State.foldLine (s : State) (j : Nat) (w : Window) (x : Line × Nat) : State × Window :=
  let l := x.2
  if j = w.next.getD l 0 then
    let (s, w) := s.foldApply w l (some x.1)
    s.foldDrain l w.e (w.advance l)
  else
    let a := w.slot l j
    let w := { w with staged := w.staged ++ [(l, j)] }
    if s.raw a then (s.muleWrite a 64 x.1.toNat, w) else (s, { w with err := true, lost := (l, j) :: w.lost })

/-- A window that has taken every contribution is complete, and its counter grows (R94). -/
def State.foldDone (s : State) (w : Window) : State × Window :=
  if !w.complete && w.next.all (fun n => n == w.e) then
    let s := match w.wctr with
      | some (o, i) => s.bumpOwner o i
      | none => s
    (s, { w with complete := true })
  else (s, w)

/-- A contribution enters its window (R94, R95): the window afterwards and the status of its sender. -/
def State.foldEnter (s : State) (w : Window) (c : Contribution) : State × Window × Nat :=
  if w.e ≤ c.j ∨ w.seen.contains c.j then (s, w, 0x07)
  else
    let w := { w with seen := c.j :: w.seen }
    if w.ffmt ≠ c.ffmt then
      let w := { w with empty := c.j :: w.empty, err := true }
      let (s, w) := (List.range w.len).foldl (fun (x : State × Window) l => x.1.foldDrain l w.e x.2) (s, w)
      let (s, w) := s.foldDone w
      (s, w, 0x08)
    else
      let (s, w) := (c.data.zipIdx).foldl (fun (x : State × Window) d => x.1.foldLine c.j x.2 d) (s, w)
      let (s, w) := s.foldDone w
      (s, w, 0)

/-- The armed window that a contribution matches (R93). -/
def Mule.matching (m : Mule) (c : Contribution) : Option Window := m.windows.find? fun w => w.base == c.base && 64 * w.len == c.len

/-- Puts a window back. -/
def State.putWindow (s : State) (chan : Nat) (w : Window) : State :=
  let m := s.mule chan
  s.putMule { m with windows := m.windows.map fun x => if x.base = w.base then w else x }

/-- Bytes that a Mule holds parked (R96). -/
def Mule.parkedBytes (m : Mule) : Nat := (m.parked.map fun c => c.len).foldl (· + ·) 0

/-- Whether a contribution came through a port (R96). -/
def Contribution.far (c : Contribution) : Bool := (remoteNode c.sender).isSome

/-- The copy command that sent a contribution completes, here or at another node (R364). -/
def State.foldSender (s : State) (c : Contribution) (status : Nat) : State := match remoteNode c.sender with
  | some n => s.out (.remoteReply n (BitVec.ofNat 64 status))
  | none => s.modCore c.sender fun x => x.finish 2 (fun k => k.sent && k.num == c.cmd) (if status = 0 then c.len else 0) status

/-- FOLD_ARRIVE (R94, R96): contribution number n enters its window, or is parked; it waits while the park is full, and a later one
of its port waits behind it. -/
def execFoldArrive (n : Nat) (s : State) : Res := match s.folds[n]? with
  | none => .next s
  | some c =>
    if c.far && (s.folds.take n).any (fun d => d.far && d.port == c.port) then .next s
    else
      let m := s.mule c.chan
      let t := { s with folds := dropNth s.folds n }
      match m.matching c with
      | some w =>
        let (t, w, st) := t.foldEnter w c
        .next ((t.putWindow c.chan w).foldSender c st)
      | none =>
        if 65536 < m.parkedBytes + c.len then .next s
        else .next ((t.putMule { m with parked := m.parked ++ [c] }).foldSender c 0)

/-! ## FOLDARM and FOLDWAIT (R413 to R415) -/

/-- The pages of a range: VA page numbers of 64 KiB and their DRAM addresses, and whether all of them are NM pages without COMP of one
channel in one page. Each page is translated at the home of its first VA in the range, for a read and a write: the spec does not say which
access arming asks for (log entry 73). An error is a fault with its VA, and the state with what the pages before it installed. The first number is fuel. -/
def State.nmPages (s : State) : Nat → Nat → Nat → Except (State × Nat × FaultInfo) (State × List (Nat × Nat) × List (Bool × Nat × Nat))
  | 0, _, _ => .ok (s, [], [])
  | f + 1, va, stop =>
    if stop ≤ va then .ok (s, [], [])
    else match s.translate (homeOf (lineOf va)) va Req.both with
      | .error e => .error (s, va, e)
      | .ok (s, leaf, big, _) =>
        let size := pageBytes big
        let page := va / size * size
        let dram := dramFlat (leafPa leaf)
        let ok := leafNm leaf && !leafComp leaf
        match s.nmPages f (page + size) stop with
        | .error e => .error e
        | .ok (s, ps, fs) =>
          let units := (List.range (size / 0x10000)).map fun i => (page / 0x10000 + i, dram + 0x10000 * i)
          .ok (s, units ++ ps, (ok, chanOf dram, page) :: fs)

/-- Parked contributions that match a new window enter it in their order of arrival (R96). -/
def State.claimParked (s : State) (chan : Nat) (w : Window) : State :=
  let m := s.mule chan
  let fits := fun (c : Contribution) => w.base == c.base && 64 * w.len == c.len
  let s := s.putMule { m with parked := m.parked.filter fun c => !fits c }
  let (s, w) := (m.parked.filter fits).foldl (fun (x : State × Window) c =>
    let r := x.1.foldEnter x.2 c
    (r.1, r.2.1)) (s, w)
  s.putWindow chan w

/-- The window that a command of an owner arms, with its pages. -/
def ClArm.window (a : ClArm) (pages : List (Nat × Nat)) (o : Owner) : Window where
  base := a.base
  len := a.len
  ffmt := a.ffmt
  e := a.e
  stg := a.stg
  pages := pages
  next := List.replicate a.len 0
  staged := []
  lost := []
  seen := []
  empty := []
  flags := 0
  err := false
  complete := false
  wctr := if a.wce then some (o, a.wctr) else none

/-- Arms the window of a command of core p: the state and the status (R93, R415). -/
def State.foldArm (s : State) (p : Nat) (a : ClArm) : State × Nat :=
  let wBytes := 64 * a.len
  match s.nmPages (wBytes / 0x10000 + 2) a.base (a.base + wBytes) with
  | .error (s, va, f) => (s.noteAt (homeOf (lineOf va)) va f, f.kind.toNat)
  | .ok (s, wp, wf) => match s.nmPages (a.stgBytes / 0x10000 + 2) a.stg (a.stg + a.stgBytes) with
    | .error (s, va, f) => (s.noteAt (homeOf (lineOf va)) va f, f.kind.toNat)
    | .ok (s, sp, sf) =>
      let chan := (wf.head?.map fun x => x.2.1).getD 0
      let m := s.mule chan
      let w := a.window (wp ++ sp) (s.select p).owner
      let stgLines := List.range ((a.e - 1) * a.len)
      if wf.length ≠ 1 || !(wf ++ sf).all fun x => x.1 && x.2.1 == chan then (s, 0x01)
      else if 16 ≤ m.windows.length then (s, 0x02)
      else if m.windows.any fun x => Span.meets (x.base, 64 * x.len) (a.base, wBytes) then (s, 0x03)
      else if !((List.range a.len).all (fun l => s.raw (w.line l)) && stgLines.all fun i => s.raw (w.dram (a.stg + 64 * i))) then (s, 0x05)
      else ((s.putMule { m with windows := m.windows ++ [w] }).claimParked chan w, 0)

/-- CL_FOLDARM (R413): the head command of core p's q4. -/
def execClFoldarm (p : Nat) (s : State) : Res := match s.headCmd p 4 5 0 with
  | none => .next s
  | some k =>
    let r := s.foldArm p (clArmOf k.word.toNat)
    .next (r.1.complete p 4 0 r.2)

/-- The armed window with a base, and its channel. -/
def State.findWindow (s : State) (base : Nat) : Option (Nat × Window) :=
  s.mules.findSome? fun m => (m.windows.find? fun w => w.base == base).map fun w => (m.chan, w)

/-- CL_FOLDWAIT (R414): completes once the window is complete, and disarms it; at once for a window that is not armed. -/
def execClFoldwait (p : Nat) (s : State) : Res := match s.headCmd p 4 5 1 with
  | none => .next s
  | some k =>
    let base := k.field 127 64
    match s.findWindow base with
    | none => .next (s.complete p 4 0 0x04)
    | some (chan, w) =>
      if !w.complete then .next s
      else
        let m := s.mule chan
        .next ((s.putMule { m with windows := m.windows.filter fun x => x.base != base }).complete p 4
          (w.flags.toNat + if w.err then 32 else 0) 0)

end Sys2Proof.Machine
end

