-- ==== Sys2Proof/Machine/Copy.lean ====
section
/-! DEFINITION. The copy engines (spec 16 R363 to R365; 17 R372). -/

namespace Sys2Proof.Machine

/-- Moves the offset of the first byte not written into the value of a stop; a denied write keeps its bitmap (R149, R364). -/
def atOffset {α : Type} (off : Nat) (e : Eng α) : Eng α := match e with
  | .stop s st v => .stop s st (if st = 0x44 then v else off)
  | r => r

/-- One line of COPY: the piece is read at its source, then written (R364). -/
def State.copyPiece (s : State) (p src dst : Nat) (r : Span) : Eng Unit :=
  let off := r.1 - src
  (atOffset off (s.engRead p r.1 r.2)).andThen fun s v =>
    engFold (fun s _ w => atOffset (w.1 - dst) (s.engPut w.1 w.2 (fieldOf v (w.1 - dst - off) w.2))) (pieces (dst + off) r.2) s ()

/-- A copy of n bytes. -/
def State.copyRange (s : State) (p src dst n : Nat) : Eng Unit := engFold (fun s _ r => s.copyPiece p src dst r) (pieces src n) s ()

/-- The bytes of a pattern from offset off on (R364). -/
def patternAt (pat off n : Nat) : Nat := ofBytes ((List.range n).map fun i => BitVec.ofNat 8 (pat >>> (8 * ((off + i) % 8))))

/-- Ends a copy-engine command. -/
def ceDone (p value : Nat) (e : Eng Unit) (s : State) : Res := match e with
  | .wait => .next s
  | .stop s st v => .next (s.complete p 2 v st)
  | .ok s _ => .next (s.complete p 2 value 0)

/-! ## Fold contributions (R364, R149) -/

/-- Whether a walk of a VA ends in an L0 table (R364). The first number is the level, as in `State.walk`. -/
def State.reachesL0 (s : State) (va : Nat) : Nat → Nat → Bool
  | _, 0 => true
  | table, l + 1 =>
    let r := s.tableEntry (entryAt va table (l + 1))
    let e := r.1
    if r.2 || !e.getLsbD 0 || malformed e (l + 1) || e.getLsbD 3 then false
    else State.reachesL0 s va (bits e.toNat 51 8 * 256) l
termination_by structural _ l => l

/-- A destination page: denied, or an NM page and the channel of it. -/
structure FoldPage where
  denied : Bool
  nm : Bool
  chan : Nat
  deriving DecidableEq, Repr

/-- The destination pages of a contribution in address order, at most 17 of them (R364): each translated at the place of its first
address; an uncorrectable error that a walk meets is recorded (R443). The first number is fuel. -/
def State.foldWalk (s : State) (place : Nat → Nat) : Nat → Nat → Nat → State × List FoldPage
  | 0, _, _ => (s, [])
  | f + 1, va, stop =>
    if stop ≤ va then (s, [])
    else
      let h := place va
      match s.leafAt h va with
      | .error e =>
        let size := if s.reachesL0 va s.rootPa 3 then 0x10000 else 0x200000
        let r := (s.noteAt h va e).foldWalk place f (va / size * size + size) stop
        (r.1, ⟨true, false, 0⟩ :: r.2)
      | .ok (_, big, _) =>
        let next := va / pageBytes big * pageBytes big + pageBytes big
        match s.translate h va Req.write with
        | .error e =>
          let r := (s.noteAt h va e).foldWalk place f next stop
          (r.1, ⟨true, false, 0⟩ :: r.2)
        | .ok (s, leaf, _, _) =>
          let r := s.foldWalk place f next stop
          (r.1, ⟨false, leafNm leaf, chanOf (dramFlat (leafPa leaf))⟩ :: r.2)

/-- The pages of a contribution of this node, translated at their homes. -/
def State.foldPages (s : State) (n va stop : Nat) : State × List FoldPage := s.foldWalk (fun va => homeOf (lineOf va)) n va stop

/-- The pages of a contribution of another node, translated at its ingress interface. -/
def State.foldPagesAt (s : State) (place n va stop : Nat) : State × List FoldPage := s.foldWalk (fun _ => place) n va stop

/-- The bitmap of denied pages. -/
def deniedMap (ps : List FoldPage) : Nat := ((ps.zipIdx).map fun p => if p.1.denied then 2 ^ p.2 else 0).foldl (· + ·) 0

/-- The lines of n bytes, the last filled up with zeros. -/
def linesOf (n v : Nat) : List Line := (List.range ((n + 63) / 64)).map fun i => BitVec.ofNat 512 (fieldOf v (64 * i) 64)

/-- The least and the greatest number of destination pages that a range of another node may take: its pieces of 2 MiB, and of 64 KiB (R364). -/
def farPages (va len : Nat) : Nat × Nat := ((va + len - 1) / 0x200000 - va / 0x200000 + 1, (va + len - 1) / 0x10000 - va / 0x10000 + 1)

/-- A bitmap of denied pages of such a range: bits of a free value, none above its last page. -/
def farDenied (r : BitVec 24) (va len : Nat) : Nat := (r.extractLsb' 8 16).toNat % 2 ^ min 16 (farPages va len).2

/-- The status and value that another node's answer gives, out of those that R364 lists: the node's windows and pages decide which, and the
model does not hold them (log entry 10). Bits [2:0] of the free value choose, and bits [23:8] are the bitmap of a denial. -/
def foldAnswer (r : BitVec 24) (va len : Nat) : Nat × Nat :=
  let denied := farDenied r va len
  match (r.extractLsb' 0 3).toNat with
  | 1 => (0x05, 0)
  | 2 => (0x07, 0)
  | 3 => (0x08, 0)
  | 4 => if denied = 0 then (0, len) else (0x44, denied)
  | _ => (0, len)

/-- The pages of a range of another node in address order, each by its first and last 64 KiB: bit i of a free value says whether piece i of 2 MiB is one
page (R364; log entry 10). -/
def farPageList (sizes va len : Nat) : List (Nat × Nat) :=
  let first := va / 65536
  let last := (va + len - 1) / 65536
  (List.range (farPages va len).1).flatMap fun i =>
    let piece := first / 32 + i
    let lo := max first (32 * piece)
    let hi := min last (32 * piece + 31)
    if bitAt sizes i then [(lo, hi)] else (List.range (hi + 1 - lo)).map fun k => (lo + k, lo + k)

/-- Which of those pages the other node denies: those in which it is known to deny an access. -/
def State.farHits (s : State) (pages : List (Nat × Nat)) : List Bool :=
  pages.map fun x => s.remoteFaults.any fun f => decide (x.1 ≤ f.1) && decide (f.1 ≤ x.2)

/-- How a contribution to another node is turned away before it leaves or at its destination (R364): no route or no context, 0x43; a range that takes more
than 16 numbers, 0x05; a page that is known to be denied there, 0x44 with the bitmap of those pages. The sizes of the far pages are free (log entry 10). -/
def State.foldBarred (s : State) (va len : Nat) : Option (Nat × Nat) :=
  if (s.routePort va 1).isNone || s.remoteFault va == some 0x0A then some (0x43, 0)
  else if 16 < (farPages va len).1 then some (0x05, 0)
  else
    let hits := s.farHits (farPageList ((Config.remoteFold s.free).extractLsb' 8 16).toNat va len)
    if !hits.contains true then none
    else if 16 < hits.length then some (0x05, 0)
    else some (0x44, (hits.zipIdx.map fun x => if x.1 then 2 ^ x.2 else 0).sum)

/-- COPY with fold = 1 (R364): the contribution of command number `cmd` leaves, and completes the command when it arrives. -/
def State.foldSend (s : State) (p cmd : Nat) (e : CeCmd) : Res :=
  let fail := fun (s : State) (st v : Nat) => Host.Outcome.next (s.complete p 2 v st)
  if !s.isOwn e.dst then
    if s.heldBehind (s.routePort e.dst 1) then .next s
    else match s.foldBarred e.dst e.top with
    | some (st, v) => fail { s with free := s.free + 1 } st v
    | none => match s.engReadRange p e.x e.top with
      | .wait => .next s
      | .stop s st _ => fail s st 0
      | .ok s _ =>
        let a := foldAnswer (Config.remoteFold s.free) e.dst e.top
        fail { s with free := s.free + 1 } a.1 a.2
  else
    let (s, ps) := s.foldPages 17 e.dst (e.dst + e.top)
    if 16 < ps.length then fail s 0x05 0
    else if ps.any FoldPage.denied then fail s 0x44 (deniedMap ps)
    else if !ps.all FoldPage.nm then fail s 0x05 0
    else match s.engReadRange p e.x e.top with
      | .wait => .next s
      | .stop s st _ => fail s st 0
      | .ok s v =>
        let c : Contribution := ⟨e.dst, e.top, (ps.head?.map FoldPage.chan).getD 0, e.j, e.ffmt, linesOf e.top v, p, 0, cmd⟩
        .next ({ s with folds := s.folds ++ [c] }.modCore p fun c => c.modQ 2 fun e => { e with cmds := e.cmds.map fun (k : Cmd) =>
          if k.num = cmd then { k with sent := true } else k })

/-! ## The commands -/

/-- The command of core p that a copy engine of its die works on, when its code is this. A contribution that has not arrived holds its engine, and the
commands pushed before this one, which start before it, take one each of the rest (R96, R363). -/
def State.ceCmd (s : State) (p code : Nat) : Option Cmd :=
  let busy := s.folds.filter fun c => !c.far && dieOf c.sender == dieOf p
  if copyEngines ≤ busy.length + (s.getCore p).pick then none else s.headCmd p 2 3 code

/-- CE_COPY (R364): a command of core p's q2. -/
def execCeCopy (p : Nat) (s : State) : Res := match s.ceCmd p 0 with
  | none => .next s
  | some k =>
    let e := ceOf k.word.toNat
    if e.fold then s.foldSend p k.num e
    else ceDone p e.top (s.copyRange p e.x e.dst e.top) s

/-- CE_FILL (R364). -/
def execCeFill (p : Nat) (s : State) : Res := match s.ceCmd p 1 with
  | none => .next s
  | some k =>
    let e := ceOf k.word.toNat
    ceDone p e.top (engFold (fun s _ r =>
      let off := r.1 - e.dst
      atOffset off (s.engPut r.1 r.2 (patternAt e.x off r.2))) (pieces e.dst e.top) s ()) s

/-- The lines of a migrated row stay marked as moved once they are unfrozen (R372). -/
def State.markMoved (s : State) (src n : Nat) : State :=
  { s with moved := s.moved ++ ((List.range (n / 64)).map fun i => lineOf (src + 64 * i)).filter fun l => !s.moved.contains l }

/-- CE_MIGRATE (R365): the row is copied, then the forwarding word is written, as one event, so that no other write meets a frozen
line. -/
def execCeMigrate (p : Nat) (s : State) : Res := match s.ceCmd p 2 with
  | none => .next s
  | some k =>
    let e := ceOf k.word.toNat
    let run := (s.copyRange p e.x e.dst e.rbytes).andThen fun s _ => atOffset e.rbytes (s.engPut e.top 8 e.dst)
    match run with
    | .wait => .next s
    | .stop s st v => .next ((s.markMoved e.x e.rbytes).complete p 2 v st)
    | .ok s _ => .next ((s.markMoved e.x e.rbytes).complete p 2 e.rbytes 0)

end Sys2Proof.Machine
end

