-- ==== Sys2Proof/Machine/Memory.lean ====
section
/-! DEFINITION. Loads, stores, atomics, fences, maintenance and NMC (spec 13 R293 to R311). -/

namespace Sys2Proof.Machine

/-! ## Plain loads and stores (R293) -/

def execLdb (d a : Reg) (i : BitVec 16) (s : State) : Res := s.load d a i 1 true
def execLdh (d a : Reg) (i : BitVec 16) (s : State) : Res := s.load d a i 2 true
def execLdw (d a : Reg) (i : BitVec 16) (s : State) : Res := s.load d a i 4 true
def execLdd (d a : Reg) (i : BitVec 16) (s : State) : Res := s.load d a i 8 true
def execLdbu (d a : Reg) (i : BitVec 16) (s : State) : Res := s.load d a i 1 false
def execLdhu (d a : Reg) (i : BitVec 16) (s : State) : Res := s.load d a i 2 false
def execLdwu (d a : Reg) (i : BitVec 16) (s : State) : Res := s.load d a i 4 false
def execStb (b a : Reg) (i : BitVec 16) (s : State) : Res := s.store b a i 1
def execSth (b a : Reg) (i : BitVec 16) (s : State) : Res := s.store b a i 2
def execStw (b a : Reg) (i : BitVec 16) (s : State) : Res := s.store b a i 4
def execStd (b a : Reg) (i : BitVec 16) (s : State) : Res := s.store b a i 8

/-! ## LDA and STR (R298) -/

def execLda (d a : Reg) (u c : Bit) (z : BitVec 2) (s : State) : Res :=
  s.alone false (wordOf (.lda d a u c z)) [a] [d] <| s.acquireLoad d a (2 ^ z.toNat) (u == 0) (c == 1)

def execStr (a b : Reg) (c : Bit) (z : BitVec 2) (s : State) : Res :=
  s.alone false (wordOf (.str a b c z)) [a, b] [] <| s.releaseStr a b (2 ^ z.toNat) (c == 1)

/-! ## Atomics (R301 to R303) -/

def execAmoAdd (d a b : Reg) (n w : Bit) (s : State) : Res := s.amo (wordOf (.amoAdd d a b n w)) 0 d a b n w
def execAmoAnd (d a b : Reg) (n w : Bit) (s : State) : Res := s.amo (wordOf (.amoAnd d a b n w)) 1 d a b n w
def execAmoOr (d a b : Reg) (n w : Bit) (s : State) : Res := s.amo (wordOf (.amoOr d a b n w)) 2 d a b n w
def execAmoXor (d a b : Reg) (n w : Bit) (s : State) : Res := s.amo (wordOf (.amoXor d a b n w)) 3 d a b n w
def execAmoMin (d a b : Reg) (n w : Bit) (s : State) : Res := s.amo (wordOf (.amoMin d a b n w)) 4 d a b n w
def execAmoMax (d a b : Reg) (n w : Bit) (s : State) : Res := s.amo (wordOf (.amoMax d a b n w)) 5 d a b n w
def execAmoMinu (d a b : Reg) (n w : Bit) (s : State) : Res := s.amo (wordOf (.amoMinu d a b n w)) 6 d a b n w
def execAmoMaxu (d a b : Reg) (n w : Bit) (s : State) : Res := s.amo (wordOf (.amoMaxu d a b n w)) 7 d a b n w
def execAmoSwap (d a b : Reg) (n w : Bit) (s : State) : Res := s.amo (wordOf (.amoSwap d a b n w)) 8 d a b n w
def execAmoFadd (d a b : Reg) (n w : Bit) (s : State) : Res := s.amo (wordOf (.amoFadd d a b n w)) 9 d a b n w
def execAmoFmax (d a b : Reg) (n w : Bit) (s : State) : Res := s.amo (wordOf (.amoFmax d a b n w)) 10 d a b n w
def execAmoFmin (d a b : Reg) (n w : Bit) (s : State) : Res := s.amo (wordOf (.amoFmin d a b n w)) 11 d a b n w
def execAmoTadd (d a b : Reg) (n w : Bit) (s : State) : Res := s.amo (wordOf (.amoTadd d a b n w)) 12 d a b n w

def execCas (d a b : Reg) (w : Bit) (s : State) : Res :=
  s.alone false (wordOf (.cas d a b w)) [a, b, d] [d] <|
    let x := s.core.reg d
    let y := s.core.reg b
    s.atomic ⟨.cas w x y, s.core.reg a, d⟩ w false (casRmw w x y)

/-! ## Fences (R139, R305) -/

def execFenceP (s : State) : Res :=
  s.alone false (wordOf .fenceP) [] [] <| if s.fencePDone s.core.pcn then (s.landCleans s.core.pcn).done id else .next s

def execFenceS (s : State) : Res :=
  s.alone false (wordOf .fenceS) [] [] <|
    if s.fenceSDone then (s.landCleans s.core.pcn).done fun c => { c with fence := none } else s.fenceWait

/-! ## Maintenance (R65, R306) -/

/-- One line's operation at one slice. -/
abbrev SliceOp := State → L2Line → State

/-- A CLEAN or CLINV has been sent to a slice and takes effect later, at the latest when a fence of the core waits for it (R139, R306, R458). -/
def State.sendClean (s : State) (l : L2Line) (inv : Bool) : State := { s with cleans := s.cleans ++ [⟨s.core.pcn, l.slice, l.line, inv⟩] }

/-- CLEAN: a dirty line goes to DRAM and stays clean, or is on its way there. -/
def cleanLine : SliceOp := fun s l => if s.core.slowClean then s.sendClean l false else s.cleanLine l

/-- INV: the line goes, dirty data is discarded, in the instruction's own step (log entry 98). -/
def invLine : SliceOp := fun s l => s.l2Drop l.slice l.line

/-- CLINV: a dirty line goes to DRAM, then the line goes, at once or later. -/
def clinvLine : SliceOp := fun s l => if s.core.slowClean then s.sendClean l true else (s.writeBackLine l).l2Drop l.slice l.line

/-- CLEAN, INV or CLINV over the lines lo to hi that slices hold, in ascending order; a slice that holds no line of the range
does nothing (R306). -/
def State.maintain (s : State) (op : SliceOp) (lo hi : Nat) : State :=
  (sortBy (fun (x y : L2Line) => decide (x.line ≤ y.line)) (s.l2.filter fun (l : L2Line) => decide (lo ≤ l.line) && decide (l.line ≤ hi))).foldl op s

/-- PREF of one line: translated as a read and filled at its home or replica homes, a fault or host memory dropped; an uncorrectable error that the walk
meets is recorded (R443). -/
def State.prefetchLine (s : State) (x : Nat) : State :=
  (List.range 4).foldl (fun s d =>
    let sl := replHome x d
    let isHome := sl == homeOf x
    match s.slice sl (x * 64) Req.read with
    | .ok (s', leaf, pa) => if paHost pa || (!isHome && !leafRepl leaf) then s else (s'.fill sl x leaf pa).1
    | .error f => s.noteWalk sl (x * 64) f) s

/-- PREF over n lines from x. -/
def State.prefetch (s : State) : Nat → Nat → State
  | _, 0 => s
  | x, n + 1 => State.prefetch (s.prefetchLine x) (x + 1) n

/-- The checks of a range form (R306), then its operation over the lines of the range. At a line boundary the core may come to an instruction
boundary, the instruction not yet complete; it then sends its whole range again (R307). -/
def State.memcRange (s : State) (a b : Reg) (k : State → Nat → Nat → State) : Res :=
  let start := (s.core.reg a).toNat
  let n := (s.core.reg b).toNat
  let stop := start + n - 1
  let lo := lineOf start
  let hi := lineOf stop
  if n = 0 then s.done id
  else if start < globalBase then s.trapN 0x03 start
  else if 2 ^ 57 < start + n ∨ nodeOf start ≠ s.core.ctl.node.toNat ∨ nodeOf stop ≠ s.core.ctl.node.toNat then s.trapN 0x04 start
  else match s.core.part with
    | some m =>
      if lo + m ≤ hi then
        let s := { s with core := { s.core with part := none } }
        .next (if m = 0 then s else k s lo (lo + m - 1))
      else (k s lo hi).done fun c => { c with part := none, slowClean := false }
    | none => (k s lo hi).done fun c => { c with slowClean := false }

/-- The issuer's L1 loses the lines lo to hi (R65). -/
def State.l1Range (s : State) (lo hi : Nat) : State :=
  { s with core := { s.core with l1 := s.core.l1.filter fun l => !(decide (lo ≤ l.line) && decide (l.line ≤ hi)) } }

def execClean (a b : Reg) (s : State) : Res :=
  s.alone false (wordOf (.clean a b)) [a, b] [] <| s.memcRange a b fun s lo hi => s.maintain cleanLine lo hi
def execInv (a b : Reg) (s : State) : Res :=
  s.alone false (wordOf (.inv a b)) [a, b] [] <| s.memcRange a b fun s lo hi => (s.l1Range lo hi).maintain invLine lo hi
def execClinv (a b : Reg) (s : State) : Res :=
  s.alone false (wordOf (.clinv a b)) [a, b] [] <| s.memcRange a b fun s lo hi => (s.l1Range lo hi).maintain clinvLine lo hi
def execPref (a b : Reg) (s : State) : Res :=
  s.alone false (wordOf (.pref a b)) [a, b] [] <| s.memcRange a b fun s lo hi => s.prefetch lo (hi + 1 - lo)

/-! ## Near-memory requests (R309 to R311) -/

/-- An NMC request that QPUSH-like checks refuse (R309, R310): KIND above 3, a nonzero reserved field, or N = 0. -/
def nmcBad (w0 w2 w3 : Word) : Bool :=
  let kind := bits w0.toNat 3 0
  let n := bits w0.toNat 63 32
  decide (3 < kind) || bits w0.toNat 31 4 != 0 ||
    (if kind = 0 then n != 0 || w3 != 0
     else if kind = 1 then n == 0
     else if kind = 2 then n == 0 || w3 != 0
     else n != 0 || w2 != 0 || w3 != 0)

/-- A request leaves for its translating place, one to another node through the port that its route gives (R440); d becomes pending (R310). -/
def State.sendNm (s : State) (d : Reg) (r : NmReq) (va : Word) : Res :=
  let port := if s.isOwn va.toNat then none else s.routePort va.toNat 16
  let s := { s with nmFlight := s.nmFlight ++ [(⟨⟨.nmc r, va, d⟩, s.owner, s.core.ctl.mode == Mode.system, false, port⟩ : NmFlight)] }
  s.done fun c => c.setPending d

/-- The first VA field of a request (R309). -/
def nmFirstVa (w0 w1 w2 : Word) : Word := if bits w0.toNat 3 0 = 0 then w2 else w1

def execNmc (d a : Reg) (s : State) : Res :=
  s.alone false (wordOf (.nmc d a)) [a] [d] <|
    let p := (s.core.reg a).toNat
    if p % 32 ≠ 0 then s.trapN 0x02 p
    else s.localOperand false p 32 <|
      if s.rangeBusy p 32 || s.core.ttStall false p 32 then .next s
      else s.readOperand p 32 fun v =>
        let w := fun i => BitVec.ofNat 64 (fieldOf v (8 * i) 8)
        if nmcBad (w 0) (w 2) (w 3) then s.trapN 0x09 p
        else s.sendNm d (.request (w 0) (w 1) (w 2) (w 3)) (nmFirstVa (w 0) (w 1) (w 2))

def execNmres (d a : Reg) (s : State) : Res :=
  s.alone false (wordOf (.nmres d a)) [a] [d] <| s.sendNm d .resume (s.core.reg a)

def execNmresAbandon (d a : Reg) (s : State) : Res :=
  s.alone false (wordOf (.nmresAbandon d a)) [a] [d] <| s.sendNm d .abandon (s.core.reg a)

/-- NMSTAT is a query of the Mule of the page (R311). -/
def execNmstat (d a : Reg) (s : State) : Res :=
  s.alone false (wordOf (.nmstat d a)) [a] [d] <| s.sendNm d (.request 3 (s.core.reg a) 0 0) (s.core.reg a)

end Sys2Proof.Machine
end

