-- ==== Sys2Proof/Machine/Fabric.lean ====
section
/-! DEFINITION. Host accesses over CXL.mem, accesses of other nodes, management registers, ports, bring-up, scrubbing and health (spec
01 R15, R16; 03 R79, R80; 20 R431 to R446). -/

namespace Sys2Proof.Machine

/-! ## CXL.mem (R15, R16, R79, R147) -/

/-- The global address of an offset in the window (R15). -/
def State.windowVa (s : State) (off : BitVec 48) : Nat := s.mgmt.nodew.toNat * 2 ^ 48 + off.toNat

/-- An untranslatable host access is logged (R15). -/
def State.hostRefused (s : State) (type : BitVec 8) (off : BitVec 48) : State :=
  s.logError noPcn 0 type (BitVec.ofNat 64 (s.windowVa off)) 0

/-- An uncorrectable error that a host access meets (R443). -/
def State.hostBad (s : State) (addr : Nat) : State := s.logError noPcn 0 5 (BitVec.ofNat 64 addr) 0

/-- The first byte of the line of an offset. -/
def lineOff (off : BitVec 48) : Nat := off.toNat / 64 * 64

/-- Whether an offset is a package-interleaved address of the physical window (R16). -/
def windowOk (off : BitVec 48) : Bool := paValid (lineOff off) 64 && bits (lineOff off) 51 48 == 0

def hostRead : Req := ⟨true, false, true⟩
def hostWrite : Req := ⟨false, true, true⟩

/-- HOST_MEM_READ (R15): one line. -/
def execHostMemRead (off : BitVec 48) (s : State) : Res :=
  let poison := fun (s : State) => Host.Outcome.next (s.out (.hostPoison off))
  let refused := poison (s.hostRefused 1 off)
  if s.mgmt.state.toNat < 2 then refused
  else if s.mgmt.state = 2 then
    if !windowOk off then refused
    else
      let d := s.dramLine (dramFlat (lineOff off))
      let s := s.dramUse (dramFlat (lineOff off))
      if d.2 then poison (s.hostBad off.toNat) else .next (s.out (.hostData off d.1))
  else
    let va := s.windowVa off / 64 * 64
    if va < globalBase then refused
    else match s.homeRead 0 va hostRead true with
      | .fault h f => poison ((s.noteWalk h va f).hostRefused 1 off)
      | .wait => .next s
      | .bad s => poison (s.hostBad va)
      | .host s hpa => .next (s.out (.hostData off (s.hostMem.line (hpa / 64 * 64))))
      | .done s l => .next (s.out (.hostData off l))

/-- A line with masked bytes, stored raw at the physical address that an offset names (R16, R72). One that is not wholly written is read first: an error of it
is counted or recorded, and an uncorrectable one stays (R443). -/
def State.rawWrite (s : State) (off : BitVec 48) (mask : BitVec 64) (data : Line) : State :=
  let flat := dramFlat (lineOff off)
  let d := s.dramLine flat
  if mask = BitVec.allOnes 64 then s.dramWrite flat data false
  else
    let t := (s.dramUse flat).dramWrite flat (lineMerge d.1 mask data) false
    if d.2 then ({ t with dramBad := flat / 64 * 64 :: t.dramBad } : State).hostBad off.toNat else t

/-- HOST_MEM_WRITE (R15): the masked bytes of one line. -/
def execHostMemWrite (off : BitVec 48) (mask : BitVec 64) (data : Line) (s : State) : Res :=
  let written := fun (s : State) => Host.Outcome.next (s.out (.hostWritten off))
  let refused := Host.Outcome.next (s.hostRefused 2 off)
  if s.mgmt.state.toNat < 2 then refused
  else if s.mgmt.state = 2 then
    if !windowOk off then refused else written (s.rawWrite off mask data)
  else
    let va := s.windowVa off / 64 * 64
    if va < globalBase then refused
    else match s.homeWrite 1536 1536 va mask data hostWrite with
      | .fault h f => .next ((s.noteWalk h va f).hostRefused 2 off)
      | .wait => .next s
      | .bad s => .next (s.hostBad va)
      | .host s hpa => written { s with hostMem := s.hostMem.writeCells (maskCells (hpa / 64 * 64) mask data) }
      | .done s _ => written s

/-! ## Accesses of other nodes (R80, R93, R228) -/

/-- The place of a port's ingress interface (R106). -/
def ingress (port : Nat) : Nat := 1536 + port

/-- What an access of another node asks of its page. -/
def remoteReq : RemoteOp → Req
  | .read _ => Req.read
  | .write .. => Req.write
  | .amo .. | .cas .. => Req.both
  | .fold _ _ _ _ => Req.write
  | .nmc w0 w1 w2 w3 => (NmReq.request w0 w1 w2 w3).req
  | .nmres _ => Req.read

/-- The features that it needs (R439). -/
def remoteFeatures : RemoteOp → Nat
  | .read _ | .write .. => 0
  | .amo .. | .cas .. => 2
  | .fold .. => 1
  | .nmc .. | .nmres _ => 16

/-- An answer to another node: a fault with its reason (R112). -/
def State.remoteRefused (s : State) (src : BitVec 9) (va : Word) (reason : BitVec 8) : Res := .next (s.out (.remoteFault src va reason))

/-- The result of a home's operation for another node. -/
def HomeRes.remote (r : HomeRes) (s : State) (src : BitVec 9) (va : Word) (host : State → Nat → Res) (done : State → Line → Res) : Res :=
  match r with
  | .fault h f => (s.noteWalk h va.toNat f).remoteRefused src va f.reason
  | .wait => .next s
  | .bad s => .next ((s.hostBad va.toNat).out (.remotePoison src va))
  | .host s hpa => host s hpa
  | .done s l => done s l

/-- A read of n bytes of a line for another node at the home, once its ingress interface has translated it (R80): one event (R126). -/
def State.remoteRead (s : State) (src : BitVec 9) (va : Word) (n : Nat) : Res :=
  let a := va.toNat
  (s.homeRead 0 a Req.read true).remote s src va
    (fun s hpa => .next (s.out (.remoteData src va (BitVec.ofNat 512 (s.hostMem.readLE (hpa / 64 * 64 + a % 64) n)))))
    fun s l => .next (s.out (.remoteData src va (BitVec.ofNat 512 (lineGet l (a % 64) n))))

/-- A write of masked bytes of a line for another node (R80, R76): one event (R126). -/
def State.remoteWrite (s : State) (src : BitVec 9) (va : Word) (mask : BitVec 64) (data : Line) : Res :=
  (s.homeWrite 1536 1536 va.toNat mask data Req.write).remote s src va
    (fun s hpa => .next ({ s with hostMem := s.hostMem.writeCells (maskCells (hpa / 64 * 64) mask data) }.out (.remoteDone src va)))
    fun s _ => .next (s.out (.remoteDone src va))

/-- An atomic of another node (R80, R77). -/
def State.remoteRmw (s : State) (src : BitVec 9) (va : Word) (wide : Bit) (f : Rmw) : Res :=
  let n := if wide = 1 then 8 else 4
  (s.homeRmw 1536 1536 va.toNat n f false).remote s src va (fun s _ => .next s)
    fun s l => .next (s.out (.remoteData src va (BitVec.ofNat 512 (lineGet l (va.toNat % 64) n))))

/-- A fold contribution of another node: refused with its status and bitmap, or on its way to its channel's Mule (R93, R149, R364). -/
def State.remoteFold (s : State) (port : Nat) (src : BitVec 9) (va : Word) (j : Nat) (ffmt : BitVec 3) (len : Nat) (data : List Line) : Res :=
  let r := s.foldPagesAt (ingress port) 17 va.toNat (va.toNat + len)
  let answer := fun (s : State) (st : Nat) => Host.Outcome.next (s.out (.remoteReply src (BitVec.ofNat 64 st)))
  let chan := (r.2.head?.map FoldPage.chan).getD 0
  if 16 < r.2.length then answer r.1 0x05
  else if r.2.any FoldPage.denied then answer r.1 (0x44 + deniedMap r.2 * 256)
  else if !r.2.all FoldPage.nm then answer r.1 0x05
  else .next { r.1 with folds := r.1.folds ++ [(⟨va.toNat, len, chan, j, ffmt, data, remotePcn src, port, 0⟩ : Contribution)] }

/-- An NMC, NMRES or NMSTAT of another node at its ingress interface (R82, R311): refused with its reason, or on its way to its Mule. -/
def State.remoteNm (s : State) (place : Nat) (src : BitVec 9) (va : Word) (r : NmReq) : Res :=
  match s.nmAt place va.toNat r ⟨remotePcn src, 0, s.mgmt.ctxg, none⟩ 1 with
  | .fault h f => (s.noteAt h va.toNat f).remoteRefused src va f.reason
  | .wait => .next s
  | .gone s => .next s

/-- Whether an access keeps to what a packet can ask: a read or an atomic lies within a line, a contribution has the lines of its length within the node,
and a request goes to the VA that its words name first. -/
def remoteFits (a : Nat) : RemoteOp → Bool
  | .read n => decide (1 ≤ n) && decide (a % 64 + n ≤ 64)
  | .amo _ w _ | .cas w _ _ => a % (if w = 1 then 8 else 4) == 0
  | .fold _ _ len data => decide (1 ≤ len) && data.length == (len + 63) / 64 && decide (a % 2 ^ 48 + len ≤ 2 ^ 48)
  | .nmc w0 w1 w2 _ => (nmFirstVa w0 w1 w2).toNat == a
  | .write .. | .nmres _ => true

/-- REMOTE_ACCESS_ARRIVES (R80): an access that came through a port that is up, with the features it needs, to an address of this
node. -/
def execRemoteAccessArrives (port : Nat) (src : BitVec 9) (va : Word) (op : RemoteOp) (s : State) : Res :=
  let a := va.toNat
  let ok := match s.ports.toList[port]? with
    | some p => p.up && p.features.toNat &&& remoteFeatures op == remoteFeatures op
    | none => false
  if !ok || s.portHeld port || !s.isOwn a || a < globalBase || 2 ^ 57 ≤ a || !remoteFits a op then .next s
  else if s.mgmt.state.toNat < 3 then s.remoteRefused src va 0x0A
  else match op with
    | .nmc w0 w1 w2 w3 => s.remoteNm (ingress port) src va (.request w0 w1 w2 w3)
    | .nmres abandon => s.remoteNm (ingress port) src va (if abandon then .abandon else .resume)
    | .fold j f len d => s.remoteFold port src va j f len d
    | op => match s.translate (ingress port) a (remoteReq op) with
      | .error f => (s.noteAt (ingress port) a f).remoteRefused src va f.reason
      | .ok (s, _, _, _) => match op with
        | .read n => s.remoteRead src va n
        | .write m d => s.remoteWrite src va m d
        | .amo o w y => s.remoteRmw src va w (amoRmw o w y)
        | .cas w x y => s.remoteRmw src va w (casRmw w x y)
        | _ => .next s

/-! ## Management registers (R432 to R434) -/

/-- DOORBELL (R434): a count more than 64 ahead is ignored and logged. In the recovery state nothing but ID, STATE and the DOE mailbox
answers (R442). -/
def execDoorbell (v : BitVec 16) (s : State) : Res :=
  if s.mgmt.state = 0 then .next s
  else if 64 < (v - s.mgmt.lqhead).toNat then
    .next ({ s with free := s.free + 1 }.logError noPcn 0 6 (Config.errorAddr s.free) 0)
  else .next { s with mgmt := { s.mgmt with doorbell := v } }

/-- What a write of 8 bytes at an offset of BAR0 does to the registers (R432). -/
def Mgmt.write (m : Mgmt) (off : Nat) (v : Word) : Mgmt :=
  let ready := m.state == 2
  match off with
  | 0x0010 => if ready then { m with nodew := v.setWidth 9 } else m
  | 0x0030 => { m with prien := v.setWidth 1 }
  | 0x0100 => if ready then { m with quantum := v } else m
  | 0x0108 => if ready then { m with pqsb := v } else m
  | 0x0110 => if ready then { m with pqsn := v } else m
  | 0x0118 => if ready then { m with rper := v } else m
  | 0x0198 => { m with pcap := (v.setWidth 16).setWidth 64 }
  | n =>
    if 0x2000 ≤ n ∧ n < 0x4000 then { m with lq := m.lq.writeLE (n - 0x2000) 8 v.toNat }
    else if 0x8000 ≤ n ∧ n < 0x9000 then
      let node := (n - 0x8000) / 8
      let w := (v.setWidth 12).setWidth 64
      { m with route := upsert (fun x => x.1 == node) (fun _ => (node, w)) (node, w) m.route }
    else m

/-- MGMT_REGISTER_WRITE (R432): one aligned register. -/
def execMgmtRegisterWrite (off : BitVec 16) (v : Word) (s : State) : Res :=
  if s.mgmt.state = 0 ∨ off.toNat % 8 ≠ 0 then .next s else .next { s with mgmt := s.mgmt.write off.toNat v }

/-- The four doublewords of an error record (R438). -/
def ErrRec.words (r : ErrRec) : List Word :=
  [BitVec.ofNat 64 (r.ctxg.toNat * 2 ^ 48 + r.pcn.toNat * 2 ^ 16 + r.cause.toNat * 256 + r.type.toNat), r.addr, r.epc, r.tb]

/-- The value of a slot of a list; an unlisted one is zero. -/
def slotValue (xs : List (Nat × Word)) (n : Nat) : Word := ((xs.find? fun x => x.1 == n).map (·.2)).getD 0

/-- CTXW (R101). -/
def Mgmt.ctxw (m : Mgmt) : Word := BitVec.ofNat 64 (m.ctxg.toNat + m.root.toNat * 2 ^ 16)

/-- What 8 bytes of BAR0 at an aligned offset read as (R432): bytes that the table does not list read zero, and so do the registers that are only
written (log entry 75). -/
def Mgmt.read (m : Mgmt) (off : Nat) : Word := match off with
  | 0x0000 => 0x0000000100001648
  | 0x0008 => m.state.setWidth 64
  | 0x0010 => m.nodew.setWidth 64
  | 0x0020 => m.lqhead.setWidth 64
  | 0x0028 => m.errhead.setWidth 64
  | 0x0030 => m.prien.setWidth 64
  | 0x0040 => m.ctxw
  | 0x0100 => m.quantum
  | 0x0108 => m.pqsb
  | 0x0110 => m.pqsn
  | 0x0118 => m.rper
  | 0x0140 => m.prlate
  | 0x0148 => m.mdrop
  | 0x0150 => m.fpdrop
  | 0x0158 => m.nmlate
  | 0x0180 => m.eol
  | 0x0188 => m.therm
  | 0x0190 => m.pwr
  | 0x0198 => m.pcap
  | n =>
    if 0x2000 ≤ n ∧ n < 0x4000 then BitVec.ofNat 64 (m.lq.readLE (n - 0x2000) 8)
    else if 0x4000 ≤ n ∧ n < 0x4200 then slotValue m.lqout ((n - 0x4000) / 8)
    else if 0x6000 ≤ n ∧ n < 0x6800 then
      (((m.errlog.find? fun r => r.1 == (n - 0x6000) / 32).map fun r => r.2.words).getD []).getD ((n - 0x6000) % 32 / 8) 0
    else if 0x8000 ≤ n ∧ n < 0x9000 then slotValue m.route ((n - 0x8000) / 8)
    else 0

/-- The host reads 8 bytes of BAR0 (R431 to R433); in the recovery state only ID and STATE answer (R442). -/
def State.barRead (s : State) (off : Nat) : State :=
  if off % 8 ≠ 0 ∨ 65536 ≤ off ∨ (s.mgmt.state = 0 ∧ 16 ≤ off) then s else s.out (.barData off (s.mgmt.read off))

/-! ## Ports (R439, R441) -/

/-- The port number i. -/
def State.port (s : State) (i : Nat) : Port := s.ports.toList.getD i ⟨false, 0, 0⟩

/-- A port trains with its partner (R439): the lower minor version and the AND of the features; with another major version the port stays down,
and is logged. -/
def State.train (s : State) (port : Nat) (version : BitVec 16) (features : Word) : State :=
  if version.toNat / 256 ≠ 1 then s.logError noPcn 0 7 (BitVec.ofNat 64 port) 0
  else { s with ports := s.ports.setIfInBounds port ⟨true, 0x0100, features &&& 0x1F⟩ }

/-- LINK_UP (R439): a port that is down trains again, once bring-up has trained the ports (R441, R442). -/
def execLinkUp (port : Nat) (version : BitVec 16) (features : Word) (s : State) : Res :=
  if 12 ≤ port ∨ (s.port port).up ∨ s.mgmt.state.toNat < 2 then .next s else .next (s.train port version features)

/-- Whether a port is up that negotiated a feature and that no fold contribution holds (R439, R96). -/
def State.anyPort (s : State) (feature : Nat) : Bool :=
  s.ports.toList.zipIdx.any fun p => p.1.up && p.1.features.toNat &&& feature == feature && !s.portHeld p.2

/-- What waits at a core for an answer through a port (R441). -/
def Core.waitsOn (c : Core) (port : Nat) : Option Access :=
  if c.outPort = some port then c.out.map (·.1) else none

/-- Every remote write from number n on that left through a port faults, the oldest first, so that they park in the order of their sending (R118,
R119). One that its full park keeps under way has no port any more and faults again later (R112). The first number is fuel. -/
def State.faultWritesFrom (s : State) (port : Nat) (f : FaultInfo) : Nat → Nat → State
  | 0, _ => s
  | k + 1, n => match s.remoteWrites[n]? with
    | none => s
    | some w =>
      if w.port = some port then
        let t := s.farWriteFault n { w with port := none } f
        t.faultWritesFrom port f k (if t.remoteWrites.length < s.remoteWrites.length then n else n + 1)
      else s.faultWritesFrom port f k (n + 1)

/-- Every remote write that left through a port faults. -/
def State.faultWrites (s : State) (port : Nat) (f : FaultInfo) : State := s.faultWritesFrom port f s.remoteWrites.length 0

/-- Every near-memory request from number n on that left through a port faults, as the writes do. The first number is fuel. -/
def State.faultRequestsFrom (s : State) (port : Nat) (f : FaultInfo) : Nat → Nat → State
  | 0, _ => s
  | k + 1, n => match s.nmFlight[n]? with
    | none => s
    | some x =>
      if x.port = some port then
        let t := s.nmFault n { x with port := none } remotePark f
        t.faultRequestsFrom port f k (if t.nmFlight.length < s.nmFlight.length then n else n + 1)
      else s.faultRequestsFrom port f k (n + 1)

/-- Every near-memory request that left through a port faults. -/
def State.faultRequests (s : State) (port : Nat) (f : FaultInfo) : State := s.faultRequestsFrom port f s.nmFlight.length 0

/-- What waits at the cores for answers through a port faults in place, if a test of it holds. -/
def State.faultWaits (s : State) (port : Nat) (f : FaultInfo) (test : Access → Bool) : State :=
  s.cores.foldl (fun t c => match c.waitsOn port with
    | some a => if test a then (match t.farInPlace c.pcn a f with
      | .next u => u
      | _ => t) else t
    | none => t) s

/-- PORT_DOWN (R441): the port is logged, and the requests sent on it and not acknowledged fault with reason 0x09. A waiting read or atomic faults
behind the older writes of its core, so that they park in the order in which they were sent (R118, R119, R440). -/
def execPortDown (port : Nat) (s : State) : Res :=
  if 12 ≤ port ∨ !(s.port port).up then .next s
  else
    let t := { s with ports := s.ports.setIfInBounds port ⟨false, 0, 0⟩ }.logError noPcn 0 7 (BitVec.ofNat 64 port) 0
    let t := t.faultWaits port noRoute Access.isStr
    let t := (t.faultWrites port noRoute).faultRequests port noRoute
    .next (t.faultWaits port noRoute fun a => !a.isStr)

/-! ## Bring-up and attestation (R442) -/

/-- A device that has just been powered: everything of the package is at its reset; what stands outside it stays. -/
def State.powered0 (s : State) (firmware : BitVec 256) : State := { State.reset with
  agenda := s.agenda
  pace := s.pace
  free := s.free
  hostMem := s.hostMem
  remoteMem := s.remoteMem
  remoteFaults := s.remoteFaults
  partners := s.partners
  outputs := s.outputs
  firmware := firmware }

/-- Step 5 of bring-up: each port trains; one whose partner sends nothing stays down, and is logged (R442). -/
def State.trainPorts (s : State) : State := (List.range 12).foldl (fun t n =>
  let x := s.partners.getD n (0, 0)
  t.train n x.1 x.2) s

/-- POWER_GOOD (R442): steps 1 to 6. -/
def execPowerGood (firmware : BitVec 256) (verified trained : Bool) (s : State) : Res :=
  let t := s.powered0 firmware
  if !verified then .next t
  else
    let t := { t with measured := true, mgmt := { t.mgmt with state := 1 } }
    if !trained then .next ({ t with free := t.free + 1 }.logError noPcn 0 5 (Config.errorAddr t.free) 0)
    else
      let t := t.trainPorts
      .next { t with mgmt := { t.mgmt with state := 2 } }

/-- SPDM_REQUEST (R442): GET_MEASUREMENTS of index 1 to 4, from step 3 of bring-up on. -/
def execSpdmRequest (index : Nat) (s : State) : Res :=
  if !s.measured || index < 1 || 4 < index then .next s
  else .next ({ s with free := s.free + 1 }.out (.spdm index (Config.measurement s.firmware index) (Config.signature s.free)))

/-! ## Scrubbing (R444) -/

/-- The next granule of a scrubber. -/
def nextGranule (g : Nat) : Nat := if g + 1 < 6144 then g + 1 else 0

/-- SCRUB_STEP (R444): core p's scrubber reads its next granule: a correctable error is corrected, an uncorrectable one is logged. A
granule of a busy stationary macro waits for the next slot. -/
def execScrubStep (p : Nat) (s : State) : Res :=
  let c := s.getCore p
  let a := 64 * c.scrub
  if (s.select p).rangeBusy a 64 then .next s
  else
    let here := fun (e : Nat × Bool) => !e.2 && decide (a ≤ 8 * e.1) && decide (8 * e.1 < a + 64)
    let t := match c.badWord a 64 with
      | some w => s.logError p 0 5 (BitVec.ofNat 64 w) 0
      | none => s
    .next ({ t with corrected := t.corrected + (c.ecc.filter here).length }.modCore p fun c => { c with
      scrub := nextGranule c.scrub
      ecc := c.ecc.filter fun e => !here e })

/-- A stack controller scrubs one 64-byte line of HBM (R444): a correctable error is written back corrected and counted, an uncorrectable one is
logged; the spec gives its record no address (log entry 17). Of a compressed block it reads the bytes that hold it, of an all-zero one none (R71). -/
def State.scrubDram (s : State) (addr : Nat) : State := match s.dramRead addr with
  | none => s.metaUse addr
  | some a =>
    let t := { s.dramUse addr with dramSoft := s.dramSoft.filter fun x => x != a }
    if t.dramBad.contains a then t.dramError else t

/-! ## Health (R445, R446) -/

/-- TB cycles between two updates of EOL, and those of its first 30 days (R445, R2). -/
def eolPeriod : Nat := 2 ^ 47
def eolStart : Nat := 30 * 24 * 3600 * 1900000000

/-- EOL_UPDATE (R445): due every 2^47 cycles; MONTHS is 0xFFFF before the first 30 days. -/
def execEolUpdate (src : BitVec 8) (months : BitVec 16) (s : State) : Res :=
  if 3 < src.toNat ∨ s.tb.toNat < s.eolNext then .next s
  else
    let m := if s.tb.toNat < eolStart then 0xFFFF else months.toNat
    .next { s with eolNext := s.eolNext + eolPeriod, mgmt := { s.mgmt with eol := BitVec.ofNat 64 (src.toNat * 65536 + m) } }

/-- 100 and 110 °C in the units of THERM (R432, R446). -/
def thermHot : Nat := 1600
def thermTrip : Nat := 1760

/-- The trip of R446: logged, and power is removed. -/
def State.trip (s : State) : State :=
  { ({ s with free := s.free + 1 } : State).logError noPcn 0 8 (Config.errorAddr s.free) 0 with powered := false }

/-- THERMAL_TRIP (R446): at 110 °C. -/
def execThermalTrip (s : State) : Res := if thermTrip ≤ s.mgmt.therm.toNat % 65536 then .next s.trip else .next s

/-- The sensors read anew (R432, R446): power up to the cap, the throttling bit from 100 °C on, and the trip at 110 °C. -/
def State.sense (s : State) (therm pwr : Word) : State :=
  let t := therm.toNat % 65536
  let bit := if therm.getLsbD 16 || decide (thermHot ≤ t) then 65536 else 0
  let w := min (pwr.toNat % 65536) (min s.mgmt.pcap.toNat 1650)
  let u := { s with mgmt := { s.mgmt with therm := BitVec.ofNat 64 (t + bit), pwr := BitVec.ofNat 64 w } }
  if thermTrip ≤ t then u.trip else u

end Sys2Proof.Machine
end

