-- ==== Sys2Proof/Machine/Gander.lean ====
section
/-! DEFINITION. Gander: tables, relations, kparts and join trees (spec 17 R366 to R391). -/

namespace Sys2Proof.Machine

/-! ## Ends of a command -/

/-- What a command reports: its progress in the layout of its VALUE. -/
structure GkOut where
  written : Nat
  extra : Nat
  flags : Flg
  sat : Bool
  miss : Bool
  deriving DecidableEq, Repr

def GkOut.start : GkOut := ⟨0, 0, 0, false, false⟩

/-- A run of a command: its state and progress, with the status of a stop, or a wait. `value` is a granule that R49 refused. -/
inductive GkRes where
  | run (s : State) (o : GkOut)
  | stop (s : State) (status value : Nat) (o : GkOut)
  | wait

/-- Goes on with the result of an operation; a stop keeps the progress. -/
def gkThen {α : Type} (o : GkOut) (e : Eng α) (f : State → α → GkRes) : GkRes := match e with
  | .ok s x => f s x
  | .wait => .wait
  | .stop s st v => .stop s st v o

/-- Repeats a step over a list. -/
def gkFold {α : Type} (f : State → GkOut → α → GkRes) : List α → State → GkOut → GkRes
  | [], s, o => .run s o
  | x :: xs, s, o => match f s o x with
    | .run s o => gkFold f xs s o
    | r => r

/-- VALUE of a stopped command: its progress, of which the bitmap of a denied write takes bits [15:0] (R149, R376, R388). -/
def stoppedValue (progress st v : Nat) : Nat := if st = 0x44 then v % 2 ^ 16 + progress / 2 ^ 16 * 2 ^ 16 else progress

/-- The command of core p completes (R388): VALUE by a function of the progress, and the offset of a refused granule for that (R49). -/
def gkEnd (p : Nat) (value : GkOut → Nat) (old : State) (r : GkRes) : Res := match r with
  | .wait => .next old
  | .run s o => .next (s.complete p 3 (value o) 0)
  | .stop s st v o => .next (s.complete p 3 (if st = 0x06 then v else stoppedValue (value o) st v) st)

/-- The same for a join command, whose VALUE on a refused granule is its progress like that of every other stop (R387). -/
def joinEnd (p : Nat) (value : GkOut → Nat) (old : State) (r : GkRes) : Res := gkEnd p value old (match r with
  | .stop s st v o => .stop s st (if st = 0x06 then value o else v) o
  | r => r)

/-! ## Outputs (R367) -/

/-- A write of an output: the pushing core's scratchpad, or own-node memory that is not host memory. -/
def State.gkPut (s : State) (p a n v : Nat) : Eng Unit :=
  if a < globalBase then s.spadPut p a n v
  else engFold (fun s _ r => match s.writeCheck r.1 Req.write with
    | .ok (s, .host _) => .stop s 0x40 0
    | _ => s.engPut r.1 r.2 (fieldOf v (r.1 - a) r.2)) (pieces a n) s ()

/-! ## Tables (R369 to R372) -/

/-- A table descriptor. -/
structure GkDesc where
  base : Nat
  rows : Nat
  rbytes : Nat
  rfmt : Nat
  defrow : Nat
  version : Nat
  hmap : Nat
  hcnt : Nat
  deriving DecidableEq, Repr

/-- The descriptor that 64 bytes spell, if it breaks no limit (R369). -/
def gkDesc (v : Nat) : Option GkDesc :=
  let d : GkDesc := ⟨fieldOf v 0 8, fieldOf v 8 8, fieldOf v 0x10 4, fieldOf v 0x14 1, fieldOf v 0x18 8, fieldOf v 0x20 8, fieldOf v 0x30 8, fieldOf v 0x38 4⟩
  let e := fmtBytes d.rfmt
  let global := fun a => decide (globalBase ≤ a) && decide (a < 2 ^ 57)
  if decide (d.rfmt ≤ 10) && d.rfmt != 6 && global d.base && d.base % e == 0 && decide (1 ≤ d.rows) && decide (d.rows ≤ 2 ^ 40) &&
      d.rbytes % e == 0 && decide (2 ≤ d.rbytes) && decide (d.rbytes ≤ 65536) && fieldOf v 0x15 3 == 0 && global d.defrow && d.defrow % e == 0 &&
      decide (d.hcnt ≤ 65535) && (if d.hcnt = 0 then d.hmap == 0 else global d.hmap && d.hmap % 16 == 0) && fieldOf v 0x3C 4 == 0 then some d
  else none

/-- A table of a running command: the VA of its descriptor, the descriptor, and the hot-row map (index, forwarding word). -/
structure GkPinned where
  at_ : Nat
  desc : GkDesc
  map : List (Nat × Nat)
  deriving DecidableEq, Repr

/-- The line of the descriptor at t with PIN + 1, or PIN − 1 (R370). -/
def pinnedLine (t : Nat) (up : Bool) (l : Line) : Line :=
  let m := lineGet l (t % 64 + 0x28) 8
  lineSet l (t % 64 + 0x28) 8 (if up then (m + 1) % 2 ^ 64 else (m + 2 ^ 64 - 1) % 2 ^ 64)

/-- Adds to a PIN at its home, and reads the descriptor's line with it, indivisibly (R370); at a moved line it is refused (R372). -/
def State.pinAdd (s : State) (p t : Nat) (up : Bool) : Eng Line :=
  if s.isMoved (t + 0x28) then .stop s 0x0D 0
  else (s.engRmw p (t + 0x28) 8 fun m => some (if up then (m + 1) % 2 ^ 64 else (m + 2 ^ 64 - 1) % 2 ^ 64)).andThen fun s l => .ok s (pinnedLine t up l)

/-- PinTable (R370) and the line of the descriptor. A handle that is no 64-aligned address of this node gives status 0x01: R367 and R369 name none for
it (log entry 86). -/
def State.pinTable (s : State) (p h : Nat) : Eng (Nat × Nat) :=
  (s.gkRead p h 8).andThen fun s t =>
    if t % 64 ≠ 0 ∨ !globalOk (t, 64) ∨ !s.isOwn t then .stop s 0x01 0
    else (s.pinAdd p t true).andThen fun s l => .ok s (t, lineGet l 0 64)

/-- The hot-row map, which must rise strictly (R371). -/
def State.hotMap (s : State) (p : Nat) (d : GkDesc) : Eng (List (Nat × Nat)) :=
  (s.gkRead p d.hmap (16 * d.hcnt)).andThen fun s v =>
    let m := (List.range d.hcnt).map fun i => (fieldOf v (16 * i) 8, fieldOf v (16 * i + 8) 8)
    if (m.zip (m.drop 1)).all fun x => decide (x.1.1 < x.2.1) then .ok s m else .stop s 0x07 0

/-- Resolve (R371): `none` for DEFAULT. -/
def GkPinned.resolve (t : GkPinned) (x width : Nat) : Option Nat :=
  if x = 2 ^ width - 1 ∨ t.desc.rows ≤ x then none
  else match t.map.find? fun e => e.1 == x with
    | some (_, f) => if f ≠ 0 then some f else some (t.desc.base + t.desc.rbytes * x)
    | none => some (t.desc.base + t.desc.rbytes * x)

/-- Index i of a list (R373). -/
def State.gkIndex (s : State) (p : Nat) (t : GkTable) (i : Nat) : Eng Nat := s.spadLoad p (t.il + t.isize * i) t.isize

/-- The row that an index names, the default row included, and whether it is that. -/
def State.lookup (s : State) (p : Nat) (t : GkTable) (tab : GkPinned) (i : Nat) : Eng (Nat × Bool) :=
  (s.gkIndex p t i).andThen fun s x => match tab.resolve x (8 * t.isize) with
    | none => (s.lgRead p tab.desc.defrow tab.desc.rbytes).andThen fun s v => .ok s (v, true)
    | some a => (s.lgRead p a tab.desc.rbytes).andThen fun s v => .ok s (v, false)

/-- A table command: the pin, the checks at start, the body, and the release at the end (R370, R373). -/
def State.gkTableRun (s : State) (p code : Nat) (body : State → GkTable → GkPinned → GkRes) (value : GkPinned → GkOut → Nat) : Res :=
  match s.headCmd p 3 4 code with
  | none => .next s
  | some k =>
    let t := gkTableOf k.word.toNat
    match s.pinTable p t.h with
    | .wait => .next s
    | .stop s1 st x => .next (s1.complete p 3 (if st = 0x44 then x else 0) st)
    | .ok s1 (at_, v) =>
      let release := fun (s2 : State) => match s2.pinAdd p at_ false with
        | .ok s3 _ => some s3
        | .stop s3 _ _ => some s3
        | .wait => none
      let stop := fun (s2 : State) (st : Nat) => match release s2 with
        | some s3 => Host.Outcome.next (s3.complete p 3 0 st)
        | none => .next s
      match gkDesc v with
      | none => stop s1 0x01
      | some d => match s1.hotMap p d with
        | .wait => .next s
        | .stop s2 st _ => stop s2 st
        | .ok s2 m =>
          if t.dstr < d.rbytes then stop s2 0x03
          else
            let tab : GkPinned := ⟨at_, d, m⟩
            match body s2 t tab with
            | .wait => .next s
            | .run s3 o => match release s3 with
              | some s4 => gkEnd p (value tab) s (.run s4 o)
              | none => .next s
            | .stop s3 st x o => match release s3 with
              | some s4 => gkEnd p (value tab) s (.stop s4 st x o)
              | none => .next s

/-- GK_GATHER (R374). -/
def execGkGather (p : Nat) (s : State) : Res :=
  s.gkTableRun p 0
    (fun s t tab => gkFold (fun s o i => gkThen o (s.lookup p t tab i) fun s r =>
      gkThen o (s.spadPut p (t.d + t.dstr * i) tab.desc.rbytes r.1) fun s _ =>
        .run s { o with written := o.written + 1, extra := if r.2 then o.extra + 1 else o.extra }) (List.range t.n) s GkOut.start)
    (fun tab o => o.written % 2 ^ 16 + o.extra % 2 ^ 16 * 2 ^ 16 + tab.desc.version % 256 * 2 ^ 32)

/-- Adds row x to a sum elementwise (R375). -/
def rowAdd (fmt rbytes acc x : Nat) : Nat × Flg :=
  let k := fmtKind fmt
  let e := fmtBytes fmt
  let rs := (List.range (rbytes / e)).map fun i => addCode k .rne 0 (fieldOf acc (e * i) e) (fieldOf x (e * i) e)
  (wordsOf e (rs.map (·.1)), rs.foldl (fun f r => f ||| r.2) 0)

/-- The sum of the rows of one bag: the sum so far, if any, its flags and the number of default rows. -/
def State.bagSum (s : State) (p : Nat) (t : GkTable) (tab : GkPinned) (js : List Nat) : Eng (Option Nat × Flg × Nat) :=
  engFold (fun s acc j => (s.lookup p t tab j).andThen fun s r =>
    let n := if r.2 then acc.2.2 + 1 else acc.2.2
    match acc.1 with
    | none => .ok s (some r.1, acc.2.1, n)
    | some a =>
      let x := rowAdd tab.desc.rfmt tab.desc.rbytes a r.1
      .ok s (some x.1, acc.2.1 ||| x.2, n)) js s (none, 0, 0)

/-- GK_BAG (R375). -/
def execGkBag (p : Nat) (s : State) : Res :=
  s.gkTableRun p 1
    (fun s t tab => gkThen GkOut.start (s.spadLoad p t.bl (4 * (t.nb + 1))) fun s v =>
      let offs := (List.range (t.nb + 1)).map fun b => fieldOf v (4 * b) 4
      if offs.headD 1 ≠ 0 || offs.getD t.nb 0 ≠ t.n || !(offs.zip (offs.drop 1)).all fun x => decide (x.1 ≤ x.2) then
        .stop s 0x02 0 GkOut.start
      else gkFold (fun s o b =>
        let lo := offs.getD b 0
        let n := offs.getD (b + 1) 0 - lo
        gkThen o (s.bagSum p t tab ((List.range n).map fun i => lo + i)) fun s r =>
          let o := { o with extra := o.extra + r.2.2, flags := o.flags ||| r.2.1 }
          gkThen o (s.spadPut p (t.d + t.dstr * b) tab.desc.rbytes (r.1.getD 0)) fun s _ => .run s { o with written := o.written + 1 })
        (List.range t.nb) s GkOut.start)
    (fun _ o => o.written % 2 ^ 16 + o.extra % 2 ^ 16 * 2 ^ 16 + o.flags.toNat * 2 ^ 32)

/-- One line of SCATADD (R376): an indivisible read-modify-write at the line's home. The added bytes are `v`. A row that a forwarding word
puts below 2^32 lies in the pushing core's scratchpad (R6, R367). -/
def State.scatLine (s : State) (p fmt a n v : Nat) : Eng Flg :=
  if a < globalBase then
    (s.lgRead p a n).andThen fun s m =>
      let r := rowAdd fmt n m v
      (s.spadPut p a n r.1).andThen fun s _ => .ok s r.2
  else if 2 ^ 57 ≤ a then .stop s 0x40 0
  else if s.isMoved a then .stop s 0x0D 0
  else if s.isOwn a then (s.engRmw p a n fun m => some (rowAdd fmt n m v).1).andThen fun s old => .ok s (rowAdd fmt n (lineGet old (a % 64) n) v).2
  else if s.farHeld a 2 then .wait
  else if s.farFault a 2 then .stop s 0x43 0
  else
    let r := rowAdd fmt n (s.remoteMem.readLE a n) v
    .ok { s with remoteMem := s.remoteMem.writeLE a n r.1 } r.2

/-- GK_SCATADD (R376). -/
def execGkScatadd (p : Nat) (s : State) : Res :=
  s.gkTableRun p 2
    (fun s t tab => gkFold (fun s o i => gkThen o (s.gkIndex p t i) fun s x => match tab.resolve x (8 * t.isize) with
      | none => .run s { o with extra := o.extra + 1 }
      | some a => gkThen o (s.spadLoad p (t.d + t.dstr * i) tab.desc.rbytes) fun s src =>
        match gkFold (fun s o (r : Span) => gkThen o (s.scatLine p tab.desc.rfmt r.1 r.2 (fieldOf src (r.1 - a) r.2)) fun s g =>
            .run s { o with flags := o.flags ||| g }) (pieces a tab.desc.rbytes) s o with
        | .run s o => .run s { o with written := o.written + 1 }
        | r => r) (List.range t.n) s GkOut.start)
    (fun _ o => o.written % 2 ^ 16 + o.extra % 2 ^ 16 * 2 ^ 16 + o.flags.toNat * 2 ^ 32)

/-! ## Relations (R377) -/

/-- A relation descriptor. -/
structure GkRel where
  base : Nat
  rows : Nat
  rbytes : Nat
  koff : Nat
  val : Nat
  deriving DecidableEq, Repr

/-- The descriptor that 32 bytes at an address spell, if it breaks no limit. -/
def gkRel (a v : Nat) : Option GkRel :=
  let r : GkRel := ⟨fieldOf v 0 8, fieldOf v 8 8, fieldOf v 0x10 4, fieldOf v 0x14 4, fieldOf v 0x18 8⟩
  if a % 32 == 0 && decide (r.base < 2 ^ 57) && decide (r.val < 2 ^ 57) && r.base % 8 == 0 && decide (1 ≤ r.rows) && decide (r.rows ≤ 2 ^ 32 - 1) && r.rbytes % 8 == 0 && decide (8 ≤ r.rbytes) &&
      decide (r.rbytes ≤ 65536) && r.koff % 8 == 0 && decide (r.koff + 8 ≤ r.rbytes) && r.val % 4 == 0 then some r
  else none

/-- An input of a join command as its header gives it: its ranges, the relation if it is one, else the number of kpart entries. -/
structure GkInput where
  at_ : Nat
  rel : Option GkRel
  nent : Nat
  ranges : List Span
  deriving DecidableEq, Repr

/-- The header of an input (R380): a relation, whose VAL is needed or not, or a kpart of the block's L and LFMT. -/
def State.gkHeader (s : State) (p : Nat) (b : GkBlock) (a : Nat) (isRel needVal : Bool) : Eng GkInput :=
  (s.lgRead p a 32).andThen fun s v =>
    if isRel then match gkRel a v with
      | none => .stop s 0x01 0
      | some r =>
        if needVal && r.val == 0 then .stop s 0x01 0
        else .ok s ⟨a, some r, 0, [(a, 32), (r.base, r.rows * r.rbytes)] ++ if needVal then [(r.val, 4 * b.lanes * r.rows)] else []⟩
    else if fieldOf v 8 1 ≠ b.lanes ∨ fieldOf v 9 1 ≠ b.lfmt then .stop s 0x05 0
    else .ok s ⟨a, none, fieldOf v 0 8, [(a, 32 + kEntry b.lanes * fieldOf v 0 8)]⟩

/-- Whether input i of a join command is a relation, and whether its VAL is needed (R380). -/
def joinInput (code i : Nat) : Bool × Bool := match code with
  | 3 => (true, false)
  | 4 | 7 => (true, true)
  | 8 => (i == 0, false)
  | _ => (false, false)

/-! ## The contents of inputs -/

/-- A run of equal keys: key, first row, rows. -/
abbrev GkRun := Nat × Nat × Nat

/-- What an input holds in order: for a relation its keys, runs before the break and lane rows; for a kpart its entries before the break
(key, count, lanes). `bound` is the key before the order break, `brk` the row that breaks it. -/
structure GkData where
  keys : List Nat
  runs : List GkRun
  vals : List (List Nat)
  ents : List (Nat × Int × List Nat)
  bound : Option Nat
  brk : Option Nat
  status : Nat
  deriving DecidableEq, Repr

/-- The runs of a relation's keys from row r on, with an open run (R377, R380). -/
def runsFrom : List Nat → Nat → GkRun → List GkRun → List GkRun × Option (Nat × Nat)
  | [], _, run, acc => ((run :: acc).reverse, none)
  | k :: ks, r, run, acc =>
    if k < run.1 then (acc.reverse, some (run.1, r))
    else if k = run.1 then runsFrom ks (r + 1) (run.1, run.2.1, run.2.2 + 1) acc
    else runsFrom ks (r + 1) (k, r, 1) (run :: acc)

/-- The runs of a relation's keys. -/
def runsOf : List Nat → List GkRun × Option (Nat × Nat)
  | [] => ([], none)
  | k :: ks => runsFrom ks 1 (k, 0, 1) []

/-- The entries of a kpart before the break of their order (R378, R380). -/
def entsUntil : List (Nat × Int × List Nat) → List (Nat × Int × List Nat) → List (Nat × Int × List Nat) × Option Nat
  | [], acc => (acc.reverse, none)
  | e :: es, acc => match acc with
    | [] => entsUntil es [e]
    | l :: _ => if e.1 ≤ l.1 then (acc.reverse, some l.1) else entsUntil es (e :: acc)

/-- n lanes of 4 bytes. -/
def lanesOf (v o n : Nat) : List Nat := (List.range n).map fun c => fieldOf v (o + 4 * c) 4

/-- Reads an input to its end. A local relation whose rows run past the scratchpad stops the command (R367). -/
def State.gkData (s : State) (p : Nat) (b : GkBlock) (i : GkInput) (needVal : Bool) : Eng GkData := match i.rel with
  | some r =>
    if r.base < globalBase ∧ spadSize < r.base + r.rows * r.rbytes then .stop s 0x0E 0
    else (engFold (fun s acc row => (s.lgRead p (r.base + r.rbytes * row + r.koff) 8).andThen fun s k => .ok s (k :: acc)) (List.range r.rows) s []).andThen
      fun s ks =>
        let ks := ks.reverse
        let rs := runsOf ks
        let d : GkData := ⟨ks, rs.1, [], [], rs.2.map (·.1), rs.2.map (·.2), 0x08⟩
        if needVal then (s.lgRead p r.val (4 * b.lanes * r.rows)).andThen fun s v =>
          .ok s { d with vals := (List.range r.rows).map fun row => lanesOf v (4 * b.lanes * row) b.lanes }
        else .ok s d
  | none =>
    let e := kEntry b.lanes
    (s.lgRead p (i.at_ + 32) (e * i.nent)).andThen fun s v =>
      let es := (List.range i.nent).map fun n => (fieldOf v (e * n) 8, signedOf 64 (fieldOf v (e * n + 8) 8), lanesOf v (e * n + 16) b.lanes)
      let r := entsUntil es []
      .ok s ⟨[], [], [], r.1, r.2, none, 0x07⟩

/-! ## Exact sums -/

/-- An exact value: NaN or NaR, an infinity, a zero with its sign, or v·2^e with v other than 0. -/
inductive Exact where
  | nan
  | inf (neg : Bool)
  | zero (neg : Bool)
  | fin (v : Int) (e : Int)
  deriving DecidableEq, Repr

/-- The exact value of a lane, and the flag of a signalling NaN. -/
def exactOf (fmt code : Nat) : Exact × Flg := match decodeVal (fmtKind fmt) false code with
  | .zero neg => (.zero neg, 0)
  | .fin neg m e _ => (.fin (if neg then -(m : Int) else m) e, 0)
  | .inf neg => (.inf neg, 0)
  | .nan sig => (.nan, flagIf sig fNV)
  | _ => (.nan, 0)

/-- An exact value times an integer, a zero taking the product of the signs (R171): 0 times an infinity is invalid. -/
def Exact.times (x : Exact) (n : Int) : Exact × Flg := match x with
  | .nan => (.nan, 0)
  | .inf neg => if n = 0 then (.nan, fNV) else (.inf (neg != decide (n < 0)), 0)
  | .zero neg => (.zero (neg != decide (n < 0)), 0)
  | .fin v e => if n = 0 then (.zero (decide (v < 0)), 0) else (.fin (v * n) e, 0)

/-- The exact sum of two values; zeros of one sign keep it, and every other zero sum is +0 (R171). -/
def Exact.add (x y : Exact) : Exact × Flg := match x, y with
  | .nan, _ | _, .nan => (.nan, 0)
  | .inf a, .inf b => if a = b then (.inf a, 0) else (.nan, fNV)
  | .inf a, _ | _, .inf a => (.inf a, 0)
  | .zero a, .zero b => (.zero (a && b), 0)
  | .zero _, z | z, .zero _ => (z, 0)
  | .fin v e, .fin w f =>
    let m := min e f
    let t := v * (2 ^ (e - m).toNat : Nat) + w * (2 ^ (f - m).toNat : Nat)
    (if t = 0 then .zero false else .fin t m, 0)

/-- The exact sum of a list, +0 for an empty one. A NaN among the values raises no flag for infinities beside it. -/
def exactSum (xs : List Exact) : Exact × Flg := match xs with
  | [] => (.zero false, 0)
  | x :: rest =>
    if xs.contains .nan then (.nan, 0)
    else rest.foldl (fun (acc : Exact × Flg) y => let r := acc.1.add y; (r.1, acc.2 ||| r.2)) (x, 0)

/-- One rounding by RNE (R366). -/
def Exact.round (x : Exact) (fmt : Nat) : Nat × Flg :=
  let k := fmtKind fmt
  let v : Val := match x with
    | .nan => .nar
    | .inf neg => .inf neg
    | .zero neg => .zero neg
    | .fin v e => .fin (decide (v < 0)) v.natAbs e false
  let r := roundVal k false .rne 0 v
  (r.code, r.flags)

/-- A count clamped to the i64 range, and whether it was outside it (R383). -/
def satCount (n : Int) : Int × Bool := let c := clampTo 64 false n; (c, c != n)

/-! ## Outputs of the join commands -/

/-- One output: offset from D, bytes, contents, flags, saturation, a missing key. -/
structure GkItem where
  off : Nat
  n : Nat
  v : Nat
  flags : Flg
  sat : Bool
  miss : Bool
  deriving DecidableEq, Repr

/-- A kpart entry as bytes (R378). -/
def entryOf (key : Nat) (count : Int) (lanes : List Nat) : Nat := key + wrapTo 64 count * 2 ^ 64 + wordsOf 4 lanes * 2 ^ 128

/-- Item number i of a kpart. -/
def kItem (lanes i : Nat) (e : Nat) (f : Flg) (sat : Bool) : GkItem := ⟨32 + kEntry lanes * i, kEntry lanes, e, f, sat, false⟩

/-- The sum of lane rows in order, each addition rounded (R382). -/
def addRows (fmt : Nat) : List (List Nat) → List Nat × Flg
  | [] => ([], 0)
  | r :: rs => rs.foldl (fun (acc : List Nat × Flg) row =>
      let xs := (acc.1.zip row).map fun x => addCode (fmtKind fmt) .rne 0 x.1 x.2
      (xs.map (·.1), xs.foldl (fun f x => f ||| x.2) acc.2)) (r, 0)

/-- Rows in stripes of 64. The number is fuel. -/
def stripes : Nat → List (List Nat) → List (List (List Nat))
  | 0, _ => []
  | f + 1, rs => if rs.isEmpty then [] else rs.take 64 :: stripes f (rs.drop 64)

/-- Lane sums of a run (R382). -/
def runSums (fmt : Nat) (hot : Bool) (rows : List (List Nat)) : List Nat × Flg :=
  if hot then
    let ss := (stripes (rows.length / 64 + 1) rows).map (addRows fmt)
    let r := addRows fmt (ss.map (·.1))
    (r.1, ss.foldl (fun f x => f ||| x.2) r.2)
  else addRows fmt rows

/-- Whether a run is hot (R381). -/
def GkBlock.hot (b : GkBlock) (n : Nat) : Bool := b.hotlim != 0 && decide (b.hotlim ≤ n)

/-- KDIR's entries (R381). -/
def kdirItems (b : GkBlock) (d : GkData) : List GkItem := d.runs.zipIdx.map fun r =>
  ⟨32 * r.2, 32, wordsOf 8 [r.1.1, r.1.2.1, r.1.2.2, if b.hot r.1.2.2 then 1 else 0], 0, false, false⟩

/-- KGRP's entries (R382). -/
def kgrpItems (b : GkBlock) (d : GkData) : List GkItem := d.runs.zipIdx.map fun r =>
  let x := runSums b.lfmt (b.hot r.1.2.2) ((d.vals.drop r.1.2.1).take r.1.2.2)
  kItem b.lanes r.2 (entryOf r.1.1 r.1.2.2 x.1) x.2 false

/-- The entry of a key. -/
def GkData.ent (d : GkData) (key : Nat) : Option (Int × List Nat) := (d.ents.find? fun e => e.1 == key).map (·.2)

/-- The product of counts. -/
def product (ns : List Int) : Int := ns.foldl (· * ·) 1

/-- The exact lanes of KPROD for the entries of one key (R383), and the flags. -/
def prodLanes (b : GkBlock) (es : List (Int × List Nat)) : List (Exact × Flg) := (List.range b.lanes).map fun c =>
  let terms := es.zipIdx.map fun e =>
    let x := exactOf b.lfmt (e.1.2.getD c 0)
    let r := x.1.times (product ((dropNth es e.2).map (·.1)))
    (r.1, x.2 ||| r.2)
  let r := exactSum (terms.map (·.1))
  (r.1, terms.foldl (fun f t => f ||| t.2) r.2)

/-- The entries of one key in every input, if all have it. -/
def inAll (ds : List GkData) (key : Nat) : Option (List (Int × List Nat)) :=
  let es := ds.filterMap fun d => d.ent key
  if es.length = ds.length then some es else none

/-- The rounded lanes and their flags. -/
def roundLanes (fmt : Nat) (xs : List (Exact × Flg)) : List Nat × Flg :=
  let rs := xs.map fun x => let r := x.1.round fmt; (r.1, x.2 ||| r.2)
  (rs.map (·.1), rs.foldl (fun f r => f ||| r.2) 0)

/-- KPROD's entries (R383) for the keys that `ok` lets through. -/
def kprodItems (b : GkBlock) (ds : List GkData) (ok : Nat → Bool) (stopped : Bool) : List GkItem :=
  let keys := ((ds.headD ⟨[], [], [], [], none, none, 0⟩).ents.map (·.1)).filter ok
  let hits := keys.filterMap fun k => (inAll ds k).map fun es => (k, es)
  if b.collapse then
    if stopped then []
    else
      let c := satCount ((hits.map fun h => product (h.2.map (·.1))).foldl (· + ·) 0)
      let per := hits.map fun h => prodLanes b h.2
      let lanes := (List.range b.lanes).map fun i =>
        let xs := per.map fun l => l.getD i (Exact.zero false, 0)
        let r := exactSum (xs.map (·.1))
        (r.1, xs.foldl (fun f x => f ||| x.2) r.2)
      let r := roundLanes b.lfmt lanes
      [kItem b.lanes 0 (entryOf 0 c.1 r.1) r.2 c.2]
  else hits.zipIdx.map fun h =>
    let c := satCount (product (h.1.2.map (·.1)))
    let r := roundLanes b.lfmt (prodLanes b h.1.2)
    kItem b.lanes h.2 (entryOf h.1.1 c.1 r.1) r.2 c.2

/-- Strictly rising keys of several lists. -/
def mergedKeys (ds : List GkData) : List Nat := (sortBy (fun x y => decide (x ≤ y)) (ds.flatMap fun d => d.ents.map (·.1))).eraseDups

/-- An exact zero. -/
def Exact.isZero : Exact → Bool
  | .zero _ => true
  | _ => false

/-- KUNION's entries (R384). -/
def kunionItems (b : GkBlock) (ds : List GkData) (ok : Nat → Bool) : List GkItem :=
  let hits := (mergedKeys ds |>.filter ok).filterMap fun k =>
    let es := ds.filterMap fun d => d.ent k
    let c := satCount ((es.map (·.1)).foldl (· + ·) 0)
    let lanes := (List.range b.lanes).map fun i =>
      let xs := es.map fun e => exactOf b.lfmt (e.2.getD i 0)
      let r := exactSum (xs.map (·.1))
      (r.1, xs.foldl (fun f x => f ||| x.2) r.2)
    if c.1 = 0 && lanes.all (fun l => l.1.isZero) then none else some (k, c, lanes)
  hits.zipIdx.map fun h =>
    let r := roundLanes b.lfmt h.1.2.2
    kItem b.lanes h.2 (entryOf h.1.1 h.1.2.1.1 r.1) r.2 h.1.2.1.2

/-- Tuples of rows in lexicographic order, the first varying slowest (R385). -/
def tuples : List (List Nat) → List (List Nat)
  | [] => [[]]
  | xs :: rest => xs.flatMap fun x => (tuples rest).map fun t => x :: t

/-- The rows of a run with a key. -/
def GkData.rowsOf (d : GkData) (key : Nat) : List Nat := match d.runs.find? fun r => r.1 == key with
  | some (_, f, n) => (List.range n).map fun i => f + i
  | none => []

/-- KEXP's records (R385). -/
def kexpItems (b : GkBlock) (ds : List GkData) (ok : Nat → Bool) : List GkItem :=
  let size := up8 (8 + 4 * b.nc + 4 * b.lanes)
  let keys := ((ds.headD ⟨[], [], [], [], none, none, 0⟩).runs.map (·.1)).filter ok
  let recs := keys.flatMap fun k => (tuples (ds.map fun d => d.rowsOf k)).map fun t => (k, t)
  recs.zipIdx.map fun r =>
    let lanes := (List.range b.lanes).map fun c =>
      let xs := (ds.zip r.1.2).map fun x => exactOf b.lfmt ((x.1.vals.getD x.2 []).getD c 0)
      let s := exactSum (xs.map (·.1))
      (s.1, xs.foldl (fun f x => f ||| x.2) s.2)
    let rl := roundLanes b.lfmt lanes
    ⟨size * r.2, size, r.1.1 + wordsOf 4 (r.1.2 ++ rl.1) * 2 ^ 64, rl.2, false, false⟩

/-- KBCAST's rows from row r on (R386, R380), and the status that ends them. -/
def kbcastItems (b : GkBlock) (rel kp : GkData) : List Nat → Nat → List GkItem × Nat
  | [], _ => ([], 0)
  | k :: ks, r =>
    if rel.brk = some r then ([], 0x08)
    else if (match kp.bound with | some x => decide (x < k) | none => false) then ([], 0x07)
    else
      let e := kp.ent k
      let lanes := match e with
        | some x => x.2
        | none => List.replicate b.lanes 0
      let rest := kbcastItems b rel kp ks (r + 1)
      (⟨4 * b.lanes * r, 4 * b.lanes, wordsOf 4 lanes, 0, false, e.isNone⟩ :: rest.1, rest.2)

/-- The outputs of a join command and the status that ends them (R380). -/
def joinItems (code : Nat) (b : GkBlock) (ds : List GkData) : List GkItem × Nat :=
  let none_ : GkData := ⟨[], [], [], [], none, none, 0⟩
  if code = 8 then kbcastItems b (ds.headD none_) (ds.getD 1 none_) (ds.headD none_).keys 0
  else
    let bound := (ds.filterMap fun d => d.bound).min?
    let status := match bound with
      | none => 0
      | some k => ((ds.find? fun d => d.bound == some k).map GkData.status).getD 0
    let ok := fun key => match bound with
      | none => true
      | some k => decide (key < k)
    let items := match code with
      | 3 => (kdirItems b (ds.headD none_))
      | 4 => (kgrpItems b (ds.headD none_))
      | 5 => kprodItems b ds ok (status != 0)
      | 6 => kunionItems b ds ok
      | _ => kexpItems b ds ok
    if b.dcap < items.length then (items.take b.dcap, 0x04) else (items, status)

/-- The header of a kpart output (R378). -/
def kHeader (b : GkBlock) (n : Nat) : Nat := n + b.lanes * 2 ^ 64 + b.lfmt * 2 ^ 72

/-- Writes the outputs, and the header of a kpart last (R380). -/
def State.joinWrite (s : State) (p code : Nat) (b : GkBlock) (r : List GkItem × Nat) : GkRes :=
  match gkFold (fun s o (i : GkItem) => gkThen o (s.gkPut p (b.d + i.off) i.n i.v) fun s _ =>
      .run s { o with written := o.written + 1, flags := o.flags ||| i.flags, sat := o.sat || i.sat, miss := o.miss || i.miss }) r.1 s GkOut.start with
  | .run s o =>
    let kpart := code == 4 || code == 5 || code == 6
    let fin := fun (s : State) => if r.2 = 0 then GkRes.run s o else .stop s r.2 0 o
    if kpart && (r.2 == 0 || r.2 == 4) then gkThen o (s.gkPut p b.d 32 (kHeader b o.written)) fun s _ => fin s else fin s
  | x => x

/-- VALUE of the join commands (R387). -/
def joinValue (o : GkOut) : Nat :=
  o.written + o.flags.toNat * 2 ^ 32 + (if o.sat then 2 ^ 37 else 0) + if o.miss then 2 ^ 38 else 0

/-- A join command of core p (R379, R380): headers, the waits and checks at start, the inputs, the outputs. Every input is read to its end before the first
output is written, so a stop of a read leaves nothing written and no progress: the spec leaves open how far outputs have got then (log entry 85). -/
def State.joinRun (s : State) (p code : Nat) : Res := match s.headCmd p 3 4 code with
  | none => .next s
  | some k =>
    let b := gkBlockOf k.block.toNat
    let used := (b.ins.take b.nc).zipIdx
    let start := engFold (fun s acc x => (s.gkHeader p b x.1 (joinInput code x.2).1 (joinInput code x.2).2).andThen fun s i => .ok s (acc ++ [i])) used s []
    joinEnd p joinValue s <| gkThen GkOut.start start fun s1 ins =>
      let ranges := ins.flatMap GkInput.ranges
      if ranges.any fun r => decide (r.1 < globalBase) && (s.getCore p).ttStall false r.1 r.2 then .wait
      else if spansMeet [b.out code] ranges then .stop s1 0x0C 0 GkOut.start
      else if code = 8 ∧ b.dcap < ((ins.head?.bind GkInput.rel).map GkRel.rows).getD 0 then .stop s1 0x04 0 GkOut.start
      else
        let read := engFold (fun s acc (x : GkInput × Nat) => (s.gkData p b x.1 (joinInput code x.2).2).andThen fun s d => .ok s (acc ++ [d])) ins.zipIdx s1 []
        gkThen GkOut.start read fun s2 ds => s2.joinWrite p code b (joinItems code b ds)

/-- GK_KDIR (R381). -/
def execGkKdir (p : Nat) (s : State) : Res := s.joinRun p 3

/-- GK_KGRP (R382). -/
def execGkKgrp (p : Nat) (s : State) : Res := s.joinRun p 4

/-- GK_KPROD (R383). -/
def execGkKprod (p : Nat) (s : State) : Res := s.joinRun p 5

/-- GK_KUNION (R384). -/
def execGkKunion (p : Nat) (s : State) : Res := s.joinRun p 6

/-- GK_KEXP (R385). -/
def execGkKexp (p : Nat) (s : State) : Res := s.joinRun p 7

/-- GK_KBCAST (R386). -/
def execGkKbcast (p : Nat) (s : State) : Res := s.joinRun p 8

/-! ## Join-tree types (R389 to R391) -/

/-- The children of slot j of a type word with n leaves (R389). -/
def treeChildren (w n j : Nat) : List Nat :=
  let slot := bits w (8 + 7 * j + 6) (8 + 7 * j)
  let a := bits slot 5 3
  let b := bits slot 2 0
  if !bitAt w (57 + j) then [a, b] else if a = 7 then [n + j - 1, b] else [n + a, n + j - 1]

/-- Whether slot j of a type word is valid (R390). -/
def treeSlotOk (w n i j : Nat) : Bool :=
  let slot := bits w (8 + 7 * j + 6) (8 + 7 * j)
  let x := bitAt w (57 + j)
  let a := bits slot 5 3
  let b := bits slot 2 0
  if i ≤ j then slot == 0 && !x
  else if !x then decide (a < n) && decide (b < n)
  else if a = 7 then decide (1 ≤ j) && decide (b < n)
  else b == 0 && decide (n + a + 1 < n + j)

/-- The failing slot of a type word, 0xF for N, I or the use count (R391); `none` when it is valid. -/
def treeFault (w : Nat) : Option Nat :=
  let n := bits w 3 0
  let i := bits w 7 4
  if n < 2 ∨ 8 < n ∨ i ≠ n - 1 then some 0xF
  else match (List.range 7).find? fun j => !treeSlotOk w n i j with
    | some j => some j
    | none =>
      let uses := (List.range i).flatMap (treeChildren w n)
      if (List.range (n + i - 1)).all fun node => (uses.filter fun u => u == node).length == 1 then none else some 0xF

/-- GK_JTCHK (R391). -/
def execGkJtchk (p : Nat) (s : State) : Res := match s.headCmd p 3 4 9 with
  | none => .next s
  | some k =>
    let w := k.field 127 64
    let n := bits w 3 0
    match treeFault w with
    | some j => .next (s.complete p 3 j 0x0A)
    | none =>
      gkEnd p GkOut.written s <| gkThen GkOut.start (s.spadLoad p (k.field 159 128) 64) fun s v =>
        gkFold (fun s o i =>
          let a := fieldOf v (8 * i) 8
          if 2 ^ 57 ≤ a then .stop s 0x0B 0 { o with written := i }
          else gkThen o (s.lgRead p a 32) fun s d => if (gkRel a d).isSome then .run s { o with written := i + 1 } else .stop s 0x0B 0 { o with written := i })
          (List.range n) s GkOut.start

end Sys2Proof.Machine
end

