-- ==== Sys2Proof/Machine/System.lean ====
section
/-! DEFINITION. Control registers, SYS instructions and the traps that no word of its own names (spec 11 R251 to R260; 12 R283
to R292; 19 R417 to R424; 05 R110, R116). -/

namespace Sys2Proof.Machine

/-! ## Control registers (R251) -/

/-- The indices that only system mode may read (R251). -/
def cregSysRead (x : BitVec 12) : Bool := x == 0x004 || (decide (0x006 ≤ x.toNat) && decide (x.toNat ≤ 0x009))

/-- The indices that any mode may write: ST, VN, SEED, FFLAGS (R251). -/
def cregAnyWrite (x : BitVec 12) : Bool := x == 0x003 || x == 0x00D || x == 0x010 || x == 0x011

/-- LPBi as a word (R17). -/
def LpuBase.word (b : LpuBase) : Word :=
  BitVec.ofNat 64 (b.base.toNat * 64 + b.en.toNat * 4 + b.wr.toNat * 2 + b.rd.toNat)

/-- The LPBi that a word writes (R17). -/
def LpuBase.of (v : Word) : LpuBase := ⟨v.extractLsb' 6 13, v.extractLsb' 2 1, v.extractLsb' 1 1, v.extractLsb' 0 1⟩

/-- ST as a word (R173). -/
def Ctl.stWord (k : Ctl) : Word :=
  BitVec.ofNat 64 (k.nte.toNat * 128 + k.sre.toNat * 64 + k.rm.toNat * 16 + k.mode.num)

/-- The value of a control register (R284); TB is the package's. -/
def Core.cregValue (c : Core) (tb : Word) (x : BitVec 12) : Word :=
  let k := c.ctl
  match x.toNat with
  | 0x000 => BitVec.ofNat 64 c.wp
  | 0x001 => c.pc
  | 0x002 => BitVec.ofNat 64 c.xb
  | 0x003 => k.stWord
  | 0x004 => BitVec.ofNat 64 c.tv
  | 0x005 => BitVec.ofNat 64 (k.uws.toNat * 2 ^ 32 + c.upc)
  | 0x006 => BitVec.ofNat 64 c.twp
  | 0x007 => k.cause.setWidth 64
  | 0x008 => k.tval
  | 0x009 => k.epc ++ 0#2
  | 0x00A => k.bg
  | 0x00B => k.dl
  | 0x00C => k.vl.setWidth 64
  | 0x00D => k.vn.setWidth 64
  | 0x00E => k.lcn
  | 0x00F => BitVec.ofNat 64 c.pcn
  | 0x010 => k.seed
  | 0x011 => k.fflags.setWidth 64
  | 0x012 => k.node.setWidth 64
  | 0x013 => k.lhp
  | 0x040 => k.cyc
  | 0x041 => k.ret
  | 0x042 => k.sqz
  | 0x043 => k.cmt
  | 0x044 => tb
  | n =>
    if 0x020 ≤ n ∧ n ≤ 0x02F then
      let i := (n - 0x020) / 2
      if n % 2 = 0 then ((k.lpb.toList.getD i ⟨0, 0, 0, 0⟩)).word else BitVec.ofNat 64 ((k.lpl.toList.getD i 0).toNat * 64)
    else 0

/-- Writes a value to the RW fields of a control register, and the generator state with SEED or LCN (R285, R194). -/
def Core.cregWrite (c : Core) (x : BitVec 12) (v : Word) : Core :=
  let k := c.ctl
  match x.toNat with
  | 0x002 => { c with ctl := { k with xb := v.extractLsb' 6 13 } }
  | 0x003 => { c with ctl := { k with nte := v.extractLsb' 7 1, sre := v.extractLsb' 6 1, rm := v.extractLsb' 4 2 } }
  | 0x004 => { c with ctl := { k with tvb := v.extractLsb' 10 9 } }
  | 0x005 => { c with ctl := { k with uws := v.extractLsb' 32 10, upc := v.extractLsb' 2 15 } }
  | 0x006 => { c with ctl := { k with twa := v.extractLsb' 9 10 } }
  | 0x007 => { c with ctl := { k with cause := v.extractLsb' 0 8 } }
  | 0x008 => { c with ctl := { k with tval := v } }
  | 0x009 => { c with ctl := { k with epc := v.extractLsb' 2 62 } }
  | 0x00A => { c with ctl := { k with bg := v } }
  | 0x00B => { c with ctl := { k with dl := v } }
  | 0x00D => { c with ctl := { k with vn := v.extractLsb' 0 16 } }
  | 0x00E => { c with ctl := { k with lcn := v }, gen := seedState k.seed v }
  | 0x010 => { c with ctl := { k with seed := v }, gen := seedState v k.lcn }
  | 0x011 => { c with ctl := { k with fflags := v.extractLsb' 0 5 } }
  | 0x040 => { c with ctl := { k with cyc := v } }
  | 0x041 => { c with ctl := { k with ret := v } }
  | 0x042 => { c with ctl := { k with sqz := v } }
  | 0x043 => { c with ctl := { k with cmt := v } }
  | n =>
    if 0x020 ≤ n ∧ n ≤ 0x02F then
      let i := (n - 0x020) / 2
      if n % 2 = 0 then { c with ctl := { k with lpb := k.lpb.setIfInBounds i (LpuBase.of v) } }
      else { c with ctl := { k with lpl := k.lpl.setIfInBounds i (v.extractLsb' 6 13) } }
    else c

/-- CRD (R284): inside the open chunk. -/
def execCrd (d : Reg) (x : BitVec 12) (s : State) : Res :=
  if s.core.busy then .next s
  else if cregSysRead x && s.core.ctl.mode == .user then s.trap 0x0C (wordOf (.crd d x))
  else s.gate [] [d] <| s.inChunk fun c => (c.setReg d (c.cregValue s.tb x)).step4

/-- CWR (R285): a field of XB above 0x800 is refused (R32). -/
def execCwr (a : Reg) (x : BitVec 12) (s : State) : Res :=
  let w := wordOf (.cwr a x)
  s.alone (!cregAnyWrite x) w [a] [] <|
    let v := s.core.reg a
    if x = 0x002 ∧ 0x800 < (v.extractLsb' 6 13).toNat then s.trap 0x01 w else s.done fun c => c.cregWrite x v

/-! ## NOP, TRAP, BRK (R286, R287) -/

def execNop (s : State) : Res := s.alone false (wordOf .nop) [] [] <| s.done id

/-- TRAP completes: EPC is the next instruction (R287). -/
def execTrap (a : Reg) (s : State) : Res :=
  s.alone false (wordOf (.trap a)) [a] [] <|
    .next ({ s with core := s.core.retired }.trapEntry 0x0D (s.core.reg a) (s.core.pc + 4))

def execBrk (s : State) : Res := s.alone false (wordOf .brk) [] [] <| s.trap 0x0E (wordOf .brk)

/-! ## ERET, UPRET, SWP-like switches (R288, R116) -/

def execEret (s : State) : Res :=
  s.alone true (wordOf .eret) [] [] <| match s.core.badWord (s.core.wp + 0x100) 16 with
    | some w => s.machineCheck w
    | none =>
      let met := s.heal (s.core.softWords (s.core.wp + 0x100) 16)
      match s.core.retired.returnTrap with
      | .error (e, a) => met.trapN e a
      | .ok c => match s.core.returnBad with
        | some w => met.machineCheck w
        | none => .next { s.heal s.core.returnSoft with core := c }

/-- UPRET (R116). A workspace whose record lies outside the scratchpad has no valid record: CAUSE 0x01 (log entry 69). -/
def execUpret (a : Reg) (s : State) : Res :=
  s.alone false (wordOf (.upret a)) [a] [] <|
    let ws := (s.core.reg a).toNat
    let info := s.core.spad.readLE (ws + 0x118) 8
    match s.core.badWord (ws + 0x100) 32 with
    | some w => s.machineCheck w
    | none =>
      let s := s.heal (s.core.softWords (ws + 0x100) 32)
      if spadSize ≤ ws + 0x118 ∨ !bitAt info 31 then s.trapN 0x01 ws
      else match s.core.switchCheck ws, s.core.switchBad ws with
      | some e, _ => s.trapN e ws
      | none, some w => s.machineCheck w
      | none, none =>
        let c := s.core.switchTo ws
        let c := c.pokeLE (ws + 0x118) 8 (info - 2 ^ 31)
        .next { s.heal (s.core.switchSoft ws) with core := (c.jump (c.spad.dword (ws + 0x108))).retired }

/-! ## WFE (R289, R423) -/

/-- The CSB field of the current workspace's save area, if it names a valid block (R423). -/
def Core.csb (c : Core) : Option Nat :=
  let a := c.spad.readLE (c.wp + 0x158) 8
  let stationary := (List.range 24).any fun m =>
    c.stationary (m * 0x4000) && decide (m * 0x4000 < a + 0x1A00) && decide (a < m * 0x4000 + 0x4000)
  if a % 64 == 0 && decide (a + 0x1A00 ≤ spadSize) && !stationary && (decide (a + 0x1A00 ≤ c.wp) || decide (c.wp + 512 ≤ a)) then
    some a
  else none

/-- The control registers of a core-state block, in its order (R424). -/
def csbRegs : List (BitVec 12) :=
  [0x000, 0x002, 0x003, 0x004, 0x005, 0x006, 0x007, 0x008, 0x009, 0x00A, 0x00B, 0x00D, 0x00E, 0x010, 0x011,
    0x020, 0x021, 0x022, 0x023, 0x024, 0x025, 0x026, 0x027, 0x028, 0x029, 0x02A, 0x02B, 0x02C, 0x02D, 0x02E, 0x02F,
    0x040, 0x041, 0x042, 0x043]

/-- Little-endian doublewords. -/
def dwordBytes (vs : List Nat) : List Byte := vs.flatMap fun v => bytesOf 8 v

/-- An armed action as the block holds it (R424). -/
def Armed.csbBytes (a : Armed) : List Byte :=
  let head := a.thr.toNat + a.ctr.toNat * 2 ^ 32
  match a.kind with
  | .push _ k => dwordBytes [head, k.gen.toNat, 0, 0] ++ bytesOf 32 k.pushed.toNat
  | .event => dwordBytes [head + 2 ^ 36, 0, 0, 0] ++ bytesOf 32 0
  | .wake => dwordBytes [head + 2 ^ 37, 0, 0, 0] ++ bytesOf 32 0

/-- Armed actions to save: the fired pushes that wait, with threshold 0, ahead of the armed ones (R424). -/
def Core.armedToSave (c : Core) : List Armed := (c.fired.map fun f => (⟨f.1, 0, .push f.2.1 f.2.2⟩ : Armed)) ++ c.armed

/-- Writes the core-state block at a (R424). -/
def Core.writeCsb (c : Core) (tb : Word) (a : Nat) : Core :=
  let acts := c.armedToSave.take 32
  let tt := c.timetable.take 512
  let head := acts.length + tt.length * 2 ^ 16
  let b := dwordBytes [head, c.gen.toNat, c.laneWord, c.parity.toNat, 0, 0, 0, 0] ++
    dwordBytes (csbRegs.map fun x => (c.cregValue tb x).toNat) ++ dwordBytes [0, 0, 0, 0, 0] ++
    dwordBytes (c.ctrs.toList.map fun k => k.value.toNat + k.sat.toNat * 2 ^ 32) ++
    acts.flatMap Armed.csbBytes ++ List.replicate (2048 - 64 * acts.length) 0 ++
    tt.flatMap (fun e => bytesOf 8 e.toNat) ++ List.replicate (4096 - 8 * tt.length) 0
  c.poke a b

/-- The block that a WFE of the active core acknowledges a pre-emption with (R423). -/
def State.ackWith (s : State) : Option Nat :=
  let c := s.core
  match c.irq.preempt, c.slice with
  | some (kind, _), .member slot =>
    if c.ctl.mode == .system && (kind == 1 || kind == 3) && (s.team slot).isSome then c.csb else none
  | _, _ => none

/-- The commands of the pushes among the actions that a core-state block holds, with their places (R424). -/
def Core.armedCmds (c : Core) : List (Nat × Cmd) :=
  c.armedToSave.zipIdx.filterMap fun a => match a.1.kind with
    | .push _ k => some (a.2, k)
    | _ => none

/-- WFE (R289); the acknowledgement writes back the register cache and the block and waits for the swap-in (R423). The field that names the block is read as a
core reads it (R443; log entry 15). -/
def execWfe (s : State) : Res :=
  s.alone false (wordOf .wfe) [] [] <|
    if s.core.acked then .next s
    else match s.ackWith with
      | some a => match s.core.badWord (s.core.wp + 0x158) 8 with
        | some w => s.machineCheck w
        | none => .next { s.heal (s.core.softWords (s.core.wp + 0x158) 8) with core := { (s.core.writeBack.writeCsb s.tb a) with
          acked := true, ackCsb := a, lateIncs := [], waiting := false, kept := keep s.core.kept a s.core.armedCmds } }
      | none =>
        if !s.core.events.isEmpty || s.core.wake then s.done fun c => { c with wake := false, waiting := false }
        else .next { s with core := { s.core with waiting := true } }

/-! ## REPLAY, TINV, HALT (R290 to R292) -/

/-- REPLAY waits as FENCE.P does, CLEANs under way included (R139): one pass, and one more if a pass has been asked for and not run (R290). -/
def execReplay (s : State) : Res :=
  s.alone false (wordOf .replay) [] [] <|
    if s.fencePDone s.core.pcn then { s.landCleans s.core.pcn with retryWanted := min 2 (s.retryWanted + 1) }.done id else .next s

/-- The invalidation of R110 over [a, a + n): cached leaves go, L2 lines are marked, L1 lines of the range go, and every chunk
with a nonempty signature is squashed, since 1,024 consecutive lines set every signature bit (R131). -/
def State.invalidate (s : State) (a n : Nat) : State :=
  let inRange := fun (x : Nat) => decide (a ≤ x) && decide (x < a + n)
  let s := { s with
    tlb := s.tlb.filter fun e => !(decide (e.page * 0x10000 < a + n) && decide (a < e.page * 0x10000 + pageBytes e.big))
    l2 := s.l2.map fun (l : L2Line) => if inRange (l.line * 64) then { l with retrans := true } else l }
  let s := s.allCores fun c =>
    let c := { c with l1 := c.l1.filter fun (l : L1Line) => !inRange (l.line * 64) }
    match c.chunk with
    | some k => if k.rsig ||| k.wsig = 0 then c else c.squash
    | none => c
  { s with submits := s.submits.filter fun p => (s.getCore p).closing }

/-- Whether a staged contribution of a window has not been applied yet (R94). -/
def Window.owes (w : Window) : Bool := w.staged.any fun x => decide (w.next.getD x.1 0 ≤ x.2)

/-- Whether an access that was translated in [a, a + n) has yet to be performed (R110): an update in the sequencer, a host write, a request to host
memory that a core waits for, a request or a contribution that a Mule has, parked or staged ones too. -/
def State.translatedUse (s : State) (a n : Nat) : Bool :=
  let hit := fun (x k : Nat) => decide (a < x + k) && decide (x < a + n)
  let jobs := fun (m : Mule) => m.queue ++ m.queries ++ (m.stopped.map NmStopped.job).toList
  s.seqQueue.any (fun u => hit (u.line * 64) 64) || s.hostWrites.any (fun w => hit (w.line * 64) 64) ||
    s.cores.any (fun c => match c.out with | some (x, some _) => hit x.va.toNat 1 | _ => false) ||
    s.mules.any (fun m => (jobs m).any (fun j => hit j.pageVa j.pageSize) || m.controls.any (fun x => hit x.page x.size) || m.parked.any (fun c => hit c.base c.len) ||
      m.windows.any fun w => w.owes && (hit w.base (64 * w.len) || hit w.stg (64 * (w.e - 1) * w.len))) || s.folds.any fun c => hit c.base c.len

/-- TINV (R291). -/
def execTinv (a b : Reg) (s : State) : Res :=
  s.alone true (wordOf (.tinv a b)) [a, b] [] <|
    let st := (s.core.reg a).toNat
    let n := (s.core.reg b).toNat
    if st % 65536 ≠ 0 ∨ n % 65536 ≠ 0 then s.trapN 0x02 st
    else if n = 0 then s.done id
    else if st < globalBase ∨ 2 ^ 57 < st + n ∨ nodeOf st ≠ s.core.ctl.node.toNat ∨ nodeOf (st + n - 1) ≠ s.core.ctl.node.toNat then
      s.trapN 0x04 st
    else if s.deferred s.core.pcn sigAll || s.translatedUse st n then .next s
    else (s.invalidate st n).done id

/-- HALT waits as FENCE.P does (R139, R292): a member counts as finished. -/
def execHalt (s : State) : Res :=
  s.alone true (wordOf .halt) [] [] <|
    if s.core.inPhase || !s.fencePDone s.core.pcn then .next s
    else
      let s := s.landCleans s.core.pcn
      .next { s with core := { s.core with run := .halted }.step4.retired }.endSlice

/-! ## Traps before an instruction (R258, R33) and interrupts (R418, R205, R206) -/

/-- A word that is no instruction (R258): the active core takes CAUSE 0x01. -/
def execIllegalInstruction (w : BitVec 32) (s : State) : Res :=
  if s.core.busy then .next s else s.trap 0x01 (w.setWidth 64)

/-- Whether the PC of the core may be fetched (R33): the cause of the failure. -/
def Core.fetchCause (c : Core) : Option Nat :=
  if c.pc.toNat % 4 ≠ 0 then some 0x02 else if c.xb ≤ c.pc.toNat then some 0x05 else none

/-- A fetch that fails (R33): the active core takes CAUSE 0x02 or 0x05, once no interrupt or budget trap comes first (R260); nothing happens at a PC that
may be fetched. -/
def execExecuteBoundaryFetch (s : State) : Res :=
  if s.core.busy || s.preempted then .next s
  else match s.core.fetchCause with
    | some e => s.trap (e) s.core.pc
    | none => .next s

/-- The EPC of an interrupt: the instruction after a WFE that waits, else the next instruction (R289, R419). -/
def Core.intEpc (c : Core) : Word := if c.waiting then c.pc + 4 else c.pc

/-- The taken interrupt is no longer pending; an arrival at a barrier is withdrawn (R219). -/
def Core.ackInt (cause : Nat) (c : Core) : Core :=
  let i := c.irq
  let c := if c.phase == .arrived false then { c with phase := .idle } else c
  let c := { c with leftBar := c.leftBar || c.inBar }
  let c := if c.waiting then c.retired else c
  { c with irq := match cause with
    | 0x0A => { i with tt := none }
    | 0x20 => { i with preempt := i.preempt.map fun k => (k.1, true), entered := true }
    | 0x21 => { i with timer := false }
    | _ => { i with event := false } }

/-- INTERRUPT_ENTRY (R418): an open chunk closes first; a core that waits in an acknowledged WFE, that is halted, or
whose chunk is reserved takes none (R136). -/
def execInterruptEntry (p : Nat) (s : State) : Res := s.onCore p fun t =>
  let c := t.core
  if c.run != .running || c.acked || c.sent || c.out.isSome || c.closing || (t.reservation == some p && c.chunk.isSome) then .next t
  else match c.pendingInt with
    | none => .next t
    | some (cause, tval) =>
      if c.chunk.isSome then .next { t with core := { c with early := none }.close }
      else
        let epc := c.intEpc
        .next ({ t with core := { (c.ackInt cause) with msendw := none, fence := none } }.trapEntry cause tval epc)

/-- BUDGET_EXHAUSTED (R205): the trap of CAUSE 0x07, once BG has reached 0 in a slice, with EPC at the first instruction not
completed. An interrupt at its boundary comes first (R260). -/
def execBudgetExhausted (p : Nat) (s : State) : Res := s.onCore p fun t =>
  let c := t.core
  if c.run != .running || !c.budgetDue || c.acked || c.sent || c.out.isSome || c.closing || t.intReady then .next t
  else if c.chunk.isSome then .next { t with core := { c with early := none }.close }
  else
    let d := if c.phase == .arrived false then { c with phase := .idle } else c
    .next ({ t with core := { d with irq := { c.irq with budget := false }, msendw := none, fence := none } }.trapEntry 0x07 0 c.pc)

/-- TIMER (R206): in a user-mode slice, in which TB has reached DL, the timer interrupt is raised once. -/
def execTimer (p : Nat) (s : State) : Res :=
  let c := s.getCore p
  if c.run == .running && c.inSlice && c.ctl.mode == .user && !c.irq.timerTaken && decide (c.ctl.dl.toNat ≤ s.tb.toNat) then
    .next (s.modCore p fun c => { c with irq := { c.irq with timer := true, timerTaken := true } })
  else .next s

end Sys2Proof.Machine
end

