-- ==== Sys2Proof/Machine/Tasks.lean ====
section
/-! DEFINITION. TASK instructions (spec 18 R393 to R399; 09 R204, R208, R209, R214). -/

namespace Sys2Proof.Machine

/-! ## Records read by an instruction -/

/-- A record of n bytes at an n-aligned local address, copied at issue (R392): its alignment, R21 as a load, the stalls of R48 and
R144, then its value. -/
def State.readRecord (s : State) (p n : Nat) (k : Nat → Res) : Res := match s.core.copied with
  | some v => k v.toNat
  | none =>
    if p % n ≠ 0 then s.trapN 0x02 p
    else s.localOperand false p n <|
      if s.rangeBusy p n || s.core.ttStall false p n then .next s else s.readOperand p n k

/-! ## TAKE (R204, R394) -/

/-- The core of an eligible entry's TakeEffect: the record at p, WID in d, BG, DL, LCN, the generator, 32 lanes (R204). -/
def Core.takeEntry (c : Core) (d : Reg) (p : Nat) (r : TaskRec) (slice : Slice) (lcn : Word) (member : Nat) : Core :=
  let w : Worker := ⟨c.pc, c.ctl.wpa, c.ctl.mode, c.regs⟩
  let c := (c.writeDwords p 4 r.value).setReg d r.wid
  { c with
    ctl := { c.ctl with bg := r.budget.setWidth 64, dl := r.deadline, lcn := lcn, vl := 32 }
    gen := seedState c.ctl.seed lcn
    nreq := 32
    slice := slice
    member := member
    irq := { c.irq with timer := false, timerTaken := false, budget := false }
    taking := false
    worker := some w }

/-- TakeEffect of entry e of the active core's queue (R204); a member's site is no longer reserved (R214). -/
def State.takeEffect (s : State) (d : Reg) (p : Nat) (e : Entry) : Res :=
  let i : QueueId := .core s.core.pcn
  let s := s.noteLow i
  let q := s.queue i
  let s := (s.setQueue { q with entries := q.entries.filter fun x => x.key != e.key }).pullCheck i e.key
  match e.body with
  | .task r => s.done fun c => c.takeEntry d p r .plain r.wid c.member
  | .member r slot m => s.done fun c => { (c.takeEntry d p r (.member slot) (BitVec.ofNat 64 m) m) with reserved := none }
  | .team _ => .next s

/-- The worker blocks in TAKE; its site may now be idle (R213, R222). -/
def State.waitTake (s : State) : Res :=
  let s := { s with core := { s.core with taking := true } }
  .next (s.settle s.core.pcn)

/-- TAKE (R394). -/
def execTake (d a : Reg) (s : State) : Res :=
  s.alone false (wordOf (.take d a)) [a] [d] <|
    let p := (s.core.reg a).toNat
    if p % 32 ≠ 0 then s.trapN 0x02 p
    else s.storeOperand p 32 <|
      if s.core.inSlice && s.core.inPhase then .next s
      else
        let t := if s.core.inSlice then s.endSlice else s
        match t.eligible t.core.pcn with
        | e :: _ => t.takeEffect d p e
        | [] => t.waitTake

/-! ## SPAWN, SPAWNT, YIELD, DONE (R395 to R397) -/

/-- Inserts a body, read from a record of value v, in a queue, once the queue takes insertions, and goes on (R208). The source in its stamp is the core's
number, of SPAWNT too, for which R203 names none (log entry 82). -/
def State.insertDone (s : State) (v : Nat) (i : QueueId) (b : Body) (f : State → State) : Res :=
  if s.accepts i then (f (s.insertBody i b (BitVec.ofNat 11 s.core.pcn))).done id else s.hold v

/-- SPAWN (R396). -/
def execSpawn (a : Reg) (s : State) : Res :=
  s.alone false (wordOf (.spawn a)) [a] [] <|
    let p := (s.core.reg a).toNat
    s.readRecord p 32 fun v =>
      if !s.taskOk (taskOf v) then s.trapN 0x09 p
      else if !s.earlierDone s.core.pcn then s.hold v
      else s.insertDone v (.core s.core.pcn) (.task (taskOf v)) id

/-- SPAWNT (R397). -/
def execSpawnt (a : Reg) (s : State) : Res :=
  s.alone false (wordOf (.spawnt a)) [a] [] <|
    let p := (s.core.reg a).toNat
    s.readRecord p 64 fun v =>
      if !s.teamOk v then s.trapN 0x09 p
      else if !s.earlierDone s.core.pcn then s.hold v
      else s.insertDone v .package (.team (teamOf v)) id

/-- YIELD (R395): the record goes back with the current BG, and the slice ends. -/
def execYield (a : Reg) (s : State) : Res :=
  let w := wordOf (.yield a)
  s.alone false w [a] [] <|
    let p := (s.core.reg a).toNat
    if s.core.slice != .plain then s.trap 0x01 (w.setWidth 64)
    else s.readRecord p 32 fun v =>
      let r := taskOf v
      if !s.taskOk r then s.trapN 0x09 p
      else s.insertDone v (.core s.core.pcn) (.task { r with budget := s.core.ctl.bg.setWidth 32 }) State.endSlice

/-- DONE (R395): a member waits for the end of its phase. -/
def execDone (s : State) : Res :=
  let w := wordOf .done
  s.alone false w [] [] <|
    if !s.core.inSlice then s.trap 0x01 (w.setWidth 64)
    else if s.core.inPhase then .next s
    else s.endSlice.done id

/-! ## SWP and WIDF (R398, R399) -/

/-- SWP (R398). -/
def execSwp (a : Reg) (s : State) : Res :=
  s.alone false (wordOf (.swp a)) [a] [] <|
    let ws := (s.core.reg a).toNat
    match s.core.switchCheck ws, s.core.switchBad ws with
    | some e, _ => s.trapN e ws
    | none, some w => s.machineCheck w
    | none, none => (s.heal (s.core.switchSoft ws)).done fun c => c.switchTo ws

/-- A mailbox address word (R409). -/
def mailboxWord (gen : BitVec 16) (slot member : Nat) : Word := BitVec.ofNat 64 (gen.toNat * 2 ^ 32 + slot * 2 ^ 16 + member)

/-- The core's own mailbox address word; a core that runs no member has slot 0x7F and its PCN (R409). -/
def State.ownMailbox (s : State) : Word := match s.core.slice with
  | .member slot => match s.team slot with
    | some t => mailboxWord t.gen slot s.core.member
    | none => mailboxWord 0 0x7F s.core.pcn
  | _ => mailboxWord 0 0x7F s.core.pcn

/-- Field k of a WID (R198). -/
def Header.field (h : Header) (k : Nat) (wid : Word) : Word :=
  BitVec.ofNat 64 ((wid.toNat >>> (h.widths.take k).foldl (· + ·) 0) % 2 ^ (h.widths.getD k 0))

/-- WIDF (R399). -/
def execWidf (d a : Reg) (k : BitVec 3) (s : State) : Res :=
  let w := wordOf (.widf d a k)
  s.alone false w [a] [d] <|
    if k = 6 then s.done fun c => c.setReg d s.ownMailbox
    else if k = 7 ∨ s.header.nf ≤ k.toNat then s.trap 0x01 (w.setWidth 64)
    else s.done fun c => c.setReg d (s.header.field k.toNat (c.reg a))

end Sys2Proof.Machine
end

