-- ==== Sys2Proof/Machine/Sync.lean ====
section
/-! DEFINITION. SYNC instructions, barriers, communication phases, timetables and trigger counters (spec 18 R400 to R407; 09 R216 to
R219, R225 to R227; 06 R143). -/

namespace Sys2Proof.Machine

/-! ## Teams in a phase -/

/-- The team whose member the active core runs. -/
def State.ownTeam (s : State) : Option Team := match s.core.slice with
  | .member slot => s.team slot
  | _ => none

/-- TVAL of a timetable trap: its reason and entry (R404). -/
def ttVal (reason entry : Nat) : Word := BitVec.ofNat 64 (reason + entry * 256)

/-- No entry concerned (R404). -/
def noEntry : Nat := 0xFFF

/-- A team whose members are at their sites. -/
def Team.atSites (t : Team) : Bool := t.status == TeamStatus.resident || t.status == TeamStatus.leaving

/-- Its members that have not finished (R215), as cores. -/
def State.liveMembers (s : State) (t : Team) : List Core := (t.sites.map s.getCore).filter fun c => !c.finished

/-- Stops a team's timetable engines: the traps of R404, held until WP differs from TWP (R218). `who` gives the entry concerned of a
member's site. -/
def State.ttFault (s : State) (t : Team) (reason : Nat) (who : Nat → Nat) : State :=
  let s := s.modTeam t.slot fun (t : Team) => { t with stopped := true }
  (s.liveMembers t).foldl (fun s c => s.modCore c.pcn fun c => { c with irq := { c.irq with tt := some (ttVal reason (who c.pcn)) } }) s

/-- The entry concerned of one site. -/
def onlyAt (p e : Nat) (q : Nat) : Nat := if q = p then e else noEntry

/-! ## BAR, BARS, WAITP (R401) -/

/-- BAR: it arrives with 32 lanes and returns when the phase has ended (R225). -/
def execBar (s : State) : Res :=
  s.alone false (wordOf .bar) [] [] <|
    if s.ownTeam.isNone then s.trap 0x0A (ttVal 7 noEntry)
    else match s.core.phase with
      | .idle => .next { s with core := { s.core.baseGrant with phase := .arrived false, leftBar := false } }
      | .ended => s.done fun c => { c with phase := .idle, leftBar := false }
      | _ => .next { s with core := { s.core with leftBar := false } }

/-- BARS: it arrives and retires at once. -/
def execBars (s : State) : Res :=
  s.alone false (wordOf .bars) [] [] <|
    if s.ownTeam.isNone then s.trap 0x0A (ttVal 7 noEntry)
    else match s.core.phase with
      | .idle | .ended => s.done fun c => { c with phase := .arrived true }
      | _ => .next s

/-- Whether a phase of the member is pending release or running. -/
def Core.phaseOpen (c : Core) : Bool := match c.phase with
  | .arrived _ | .running _ => true
  | _ => false

def execWaitp (s : State) : Res :=
  s.alone false (wordOf .waitp) [] [] <| if s.core.phaseOpen then .next s else s.done id

/-! ## Timetable entries (R402, R403) -/

def ttFmt (e : BitVec 64) : Nat := bits e.toNat 59 56
def ttPort (e : BitVec 64) : Nat := bits e.toNat 31 28
def ttOff (e : BitVec 64) : Nat := bits e.toNat 23 0

/-- The actions that expect a flit: 1 to 4. -/
def ttExpects (e : BitVec 64) : Bool := ttAct e != 0

/-- The actions that send a flit on at the next cycle: 2 and 4. -/
def ttForwards (e : BitVec 64) : Bool := ttAct e == 2 || ttAct e == 4

/-- An entry keeps R402 and R403. -/
def ttEntryOk (e : BitVec 64) : Bool :=
  let act := ttAct e
  bits e.toNat 63 60 == 0 && decide (act ≤ 4) && decide (ttPort e ≤ 8) && decide (1 ≤ ttLen e) &&
    (if act = 2 ∨ act = 3 then decide (ttFmt e ≤ 5) else ttFmt e == 0) &&
    (if act = 4 then ttAddr e == 0 else decide (ttAddr e + ttLen e ≤ 0x1800)) && !(ttPort e == 4 && ttForwards e)

/-- The first entry that breaks its layout or lies before its predecessor's offset (R405). -/
def ttBroken : List (BitVec 64) → Nat → Nat → Option Nat
  | [], _, _ => none
  | e :: es, i, off => if ttEntryOk e && decide (off ≤ ttOff e) then ttBroken es (i + 1) (ttOff e) else some i

/-- Reads the pieces of a range as read events of the active core; a translation fault is CAUSE 0x0A with its VA (R405). -/
def State.ttRead (s : State) (base : Nat) : List Span → Nat → (State → Nat → Res) → Res
  | [], v, k => k s v
  | (a, n) :: rest, v, k => match s.engRead s.core.pcn a n with
    | .ok s x => s.ttRead base rest (v + x * 2 ^ (8 * (a - base))) k
    | .wait => .next s
    | .stop s st _ => if st = 0x10 then s.trapN 0x10 a else s.trap 0x0A (BitVec.ofNat 64 a)

/-- An 8-aligned VA of the own node. -/
def State.ttVaOk (s : State) (va : Nat) : Bool :=
  va % 8 == 0 && decide (globalBase ≤ va) && decide (va < 2 ^ 57) && nodeOf va == s.core.ctl.node.toNat

/-- TTLOAD (R405). -/
def execTtload (a : Reg) (s : State) : Res :=
  s.alone false (wordOf (.ttload a)) [a] [] <|
    match s.ownTeam with
    | none => s.trap 0x0A (ttVal 7 noEntry)
    | some t =>
      let n := (s.core.reg a).toNat
      if t.trec.ttp = 0 then s.trap 0x0A (ttVal 7 noEntry)
      else if 255 < n then s.trap 0x0A (ttVal 6 noEntry)
      else if s.core.phaseOpen || !s.earlierDone s.core.pcn then .next s
      else
        let at_ := t.trec.ttp.toNat + 16 * (n * t.trec.size + s.core.ctl.lcn.toNat)
        if !s.ttVaOk at_ then s.trap 0x0A (BitVec.ofNat 64 at_)
        else s.ttRead at_ (pieces at_ 16) 0 fun s d =>
          let va := fieldOf d 0 8
          let cnt := fieldOf d 8 4
          if !((va == 0 && cnt == 0) || s.ttVaOk va) || 512 < cnt || fieldOf d 12 4 != 0 then s.trap 0x0A (ttVal 6 noEntry)
          else s.ttRead va (pieces va (8 * cnt)) 0 fun s v =>
            let es := (List.range cnt).map fun i => BitVec.ofNat 64 (fieldOf v (8 * i) 8)
            match ttBroken es 0 0 with
            | some i => s.trap 0x0A (ttVal 6 i)
            | none => s.done fun c => { c with timetable := es }

/-! ## Barrier release (R216) -/

/-- A member's phase runs from the completion of the barrier (R217); its parity advances (R216), which nothing can see before rel (log entry 99), and the lanes of one that waits in BAR are granted
again at the release cycle (R225). -/
def Core.release (rel : Word) (c : Core) : Core := { c with
  ttDone := []
  parity := c.parity + 1
  regrantAt := if c.phase = .arrived false then some rel.toNat else c.regrantAt
  phase := match c.phase with
    | .arrived b => .running b
    | p => p }

/-- BARRIER_RELEASE (R216): every member that has not finished has arrived; the root computes the release cycle. -/
def execBarrierRelease (slot : Nat) (s : State) : Res := match s.team slot with
  | none => .next s
  | some t =>
    let live := s.liveMembers t
    let arrived := fun (c : Core) => c.phase == Phase.arrived false || c.phase == Phase.arrived true
    if !t.atSites || live.isEmpty || !live.all arrived then .next s
    else
      let rel := s.tb + BitVec.ofNat 64 (2 * (t.trec.width + t.trec.height) + 32)
      let s := s.modTeam slot fun (t : Team) => { t with rel := rel, stopped := false }
      .next (live.foldl (fun s c => s.modCore c.pcn (Core.release rel)) s)

/-! ## Links (R403) -/

/-- The port on the other side. -/
def opposite (port : Nat) : Nat := match port with
  | 0 => 2
  | 1 => 3
  | 2 => 0
  | 3 => 1
  | 5 => 7
  | 6 => 8
  | 7 => 5
  | 8 => 6
  | n => n

/-- Where a flit sent on a port arrives: the site, and after how many cycles; none if the site has no such link. North is toward row
0 (R14). -/
def linkOf (p port : Nat) : Option (Nat × Nat) :=
  let x := siteX p
  let y := siteY p
  let go := fun (nx ny : Nat) => (siteAt nx ny, if nx / 24 ≠ x / 24 ∨ ny / 16 ≠ y / 16 then 12 else 2)
  match port with
  | 0 => if y = 0 then none else some (go x (y - 1))
  | 1 => if 47 ≤ x then none else some (go (x + 1) y)
  | 2 => if 31 ≤ y then none else some (go x (y + 1))
  | 3 => if x = 0 then none else some (go (x - 1) y)
  | 4 => some (p, 1)
  | 5 => if y < 16 then none else some (siteAt x (y - 16), 16)
  | 6 => if 24 ≤ x then none else some (siteAt (x + 24) y, 16)
  | 7 => if 16 ≤ y then none else some (siteAt x (y + 16), 16)
  | 8 => if x < 24 then none else some (siteAt (x - 24) y, 16)
  | _ => none

/-! ## Timetable flits (R403, R404) -/

/-- Flit number of an entry at a cycle counted from the release. -/
def ttFlitAt (e : BitVec 64) (c : Nat) : Option Nat := if ttOff e ≤ c ∧ c < ttOff e + ttLen e then some (c - ttOff e) else none

/-- The bank that an entry needs for a flit; action 4 needs none (R28, R29). -/
def ttBank (e : BitVec 64) (i : Nat) : Option Nat := if ttAct e = 4 then none else some ((ttAddr e + i) / 256 % 3)

/-- A collision of entry e at cycle c with another entry of its network interface (R404 reason 1). -/
def Core.ttCollision (k : Core) (e c i : Nat) (en : BitVec 64) : Bool :=
  k.timetable.zipIdx.any fun x =>
    x.2 != e &&
      ((match ttFlitAt x.1 c with
        | some j =>
          (ttBank en i).isSome && ttBank en i == ttBank x.1 j || (ttExpects en == ttExpects x.1 && ttPort en == ttPort x.1)
        | none => false) ||
      (!ttExpects en && ttForwards x.1 && opposite (ttPort x.1) == ttPort en && decide (0 < c) && (ttFlitAt x.1 (c - 1)).isSome))

/-- The flits that a member's engine has not executed: entry and flit. -/
def Core.ttPending (c : Core) : List (Nat × Nat) :=
  (c.timetable.zipIdx.flatMap fun x => (List.range (ttLen x.1)).map fun i => (x.2, i)).filter fun k => !c.ttDone.contains k

/-- The cycle of a flit of a member, counted from the release. -/
def Core.ttCycle (c : Core) (k : Nat × Nat) : Nat := ttOff (c.timetable.getD k.1 0) + k.2

/-- Whether an entry of the running member it reaches still expects a flit. -/
def State.expected (s : State) (t : Team) (f : Flit) : Bool :=
  let c := s.getCore f.dst
  t.sites.contains f.dst && !c.finished && c.inPhase && !t.stopped && c.ttPending.any fun k =>
    let e := c.timetable.getD k.1 0
    ttExpects e && ttPort e == f.port && t.rel.toNat + c.ttCycle k == f.due

/-- The first flit of a team that arrived before a TB and that no entry expects (R404 reasons 2 and 3); none once the team has stopped. -/
def State.stray (s : State) (t : Team) (before : Nat) : Option Flit :=
  if t.stopped then none else s.flits.find? fun f => f.slot == t.slot && f.gen == t.gen && decide (f.due < before) && !s.expected t f

/-- A stray flit arrives: it is dropped, and the team's engines stop. -/
def State.strayFault (s : State) (t : Team) (f : Flit) : State :=
  let s := { s with flits := s.flits.filter fun x => x != f }
  if !(t.sites.contains f.dst && !(s.getCore f.dst).finished) then s.ttFault t 3 (onlyAt f.src f.srcEntry)
  else if f.parity ≠ (s.getCore f.dst).parity ∧ t.rel.toNat ≤ f.due then s.ttFault t 2 (fun _ => noEntry)
  else s.ttFault t 3 (fun _ => noEntry)

/-- The 64 bytes of a flit's place; a free value where they have an uncorrectable error, which is logged (R443, log entry 15). -/
def State.ttLine (s : State) (p a : Nat) : State × Line := match (s.getCore p).badWord a 64 with
  | some w => ({ s with free := s.free + 1 }.logError p 0 5 (BitVec.ofNat 64 w) 0, Config.badFlit s.free)
  | none => (s.heal ((s.getCore p).softWords a 64), (s.getCore p).spad.line a)

/-- Puts a flit on the link of a port at a TB. -/
def State.sendFlit (s : State) (t : Team) (p e port now : Nat) (d : Line) : State := match linkOf p port with
  | some (q, lat) => { s with flits := s.flits ++ [⟨t.slot, t.gen, (s.getCore p).parity, q, opposite port, now + lat, d, p, e⟩] }
  | none => s.ttFault t 8 (onlyAt p e)

/-- One receiving flit of entry en, number e, of the member at p at TB `now`. -/
def State.ttReceive (s : State) (t : Team) (p e i now : Nat) (en : BitVec 64) : State :=
  let a := 64 * (ttAddr en + i)
  match s.flits.find? fun f => f.slot == t.slot && f.gen == t.gen && f.dst == p && f.port == ttPort en && f.due == now with
  | none => s.ttFault t 4 (onlyAt p e)
  | some f =>
    let s := { s with flits := s.flits.filter fun x => x != f }
    if f.parity ≠ (s.getCore p).parity then s.ttFault t 2 (onlyAt p e)
    else if ttAct en = 4 then s.sendFlit t p e (opposite (ttPort en)) (now + 1) f.data
    else if (ttAct en = 1 ∨ ttAct en = 3) ∧ (s.getCore p).stationary a then s.ttFault t 5 (onlyAt p e)
    else if ttAct en = 1 then s.modCore p fun c => c.pokeLE a 64 f.data.toNat
    else
      let r := s.ttLine p a
      let sum := (lineAdd (addKind (ttFmt en)) r.2 f.data).1
      if ttAct en = 2 then r.1.sendFlit t p e (opposite (ttPort en)) (now + 1) sum
      else r.1.modCore p fun c => c.pokeLE a 64 sum.toNat

/-- Flit i of entry e of the member at p, at its cycle c (R403). -/
def State.ttFlit (s : State) (t : Team) (p e i c : Nat) (en : BitVec 64) : State :=
  let s := s.modCore p fun k => { k with ttDone := (e, i) :: k.ttDone }
  let now := t.rel.toNat + c
  if (s.getCore p).ttCollision e c i en then s.ttFault t 1 (onlyAt p e)
  else if (linkOf p (ttPort en)).isNone then s.ttFault t 8 (onlyAt p e)
  else if ttAct en = 0 then
    let r := s.ttLine p (64 * (ttAddr en + i))
    r.1.sendFlit t p e (ttPort en) now r.2
  else s.ttReceive t p e i now en

/-- The TB before which every flit of a team that has arrived has met its entry: the cycle of the first flit to come, at most the
next. -/
def State.ttBound (s : State) (t : Team) : Nat :=
  ((s.liveMembers t).flatMap fun k => k.ttPending.map fun x => t.rel.toNat + k.ttCycle x).foldl min (s.tb.toNat + 1)

/-- TIMETABLE_FLIT (R403): the next flit of the team in the order of cycles, once TB has reached its cycle. A flit that arrived before
and that no entry expects stops the team first. -/
def execTimetableFlit (p e i : Nat) (s : State) : Res := match s.siteTeam p with
  | none => .next s
  | some (t, _) =>
    let c := s.getCore p
    let cyc := c.ttCycle (e, i)
    let first := (s.liveMembers t).all fun k => k.ttPending.all fun x => decide (cyc ≤ k.ttCycle x)
    let ready := t.atSites && !t.stopped && !c.finished && c.inPhase && c.ttPending.contains (e, i) && first &&
      decide (t.rel.toNat + cyc ≤ s.tb.toNat)
    match s.stray t (s.ttBound t) with
    | some f => .next (s.strayFault t f)
    | none => if ready then .next (s.ttFlit t p e i cyc (c.timetable.getD e 0)) else .next s

/-- The broadcast of the phase end reaches a member (R217). -/
def Core.endPhase (c : Core) : Core := { c with phase := match c.phase with
  | .running false => .ended
  | .running true => .idle
  | p => p }

/-- A member that a double trap stopped during the phase has finished (R292, R420). -/
def State.haltedGone (s : State) (c : Core) : State := if c.run = .halted then (s.select c.pcn).memberGone.select s.core.pcn else s

/-- PHASE_END (R217): every member's engine has executed its last entry. -/
def execPhaseEnd (slot : Nat) (s : State) : Res := match s.team slot with
  | none => .next s
  | some t =>
    let live := s.liveMembers t
    if !t.atSites || t.stopped || live.isEmpty || !live.all (fun c => c.inPhase && c.ttPending.isEmpty) || s.tb.toNat < t.rel.toNat then
      .next s
    else match s.stray t (s.tb.toNat + 1) with
      | some f => .next (s.strayFault t f)
      | none => .next (live.foldl State.haltedGone (live.foldl (fun s c => s.modCore c.pcn Core.endPhase) s))

/-! ## Trigger counters (R406, R407) -/

/-- The low word of a register: a threshold or an amount. -/
def lowWord (v : Word) : BitVec 32 := v.setWidth 32

/-- ARM once its checks have passed (R406): a 33rd action is refused. An armed push is pushed when it fires (R142, R348). -/
def State.arm (s : State) (c : BitVec 4) (t : Word) (k : ArmKind) (draws : Nat) : Res :=
  if 32 ≤ s.core.armed.length + s.core.fired.length then s.trap 0x09 0
  else s.done fun x => { x with gen := skipDraws draws x.gen }.arm ⟨c, lowWord t, k⟩

def execArmPush (a b : Reg) (c : BitVec 4) (s : State) : Res :=
  s.alone false (wordOf (.armPush a b c)) [a, b] [] <|
    s.pushChecks (s.core.reg b).toNat none fun q k n => s.arm c (s.core.reg a) (.push q k) n

def execArmEvent (a : Reg) (c : BitVec 4) (s : State) : Res :=
  s.alone false (wordOf (.armEvent a c)) [a] [] <| s.arm c (s.core.reg a) .event 0

def execArmWake (a : Reg) (c : BitVec 4) (s : State) : Res :=
  s.alone false (wordOf (.armWake a c)) [a] [] <| s.arm c (s.core.reg a) .wake 0

/-- CTRADD (R407): what it fires, now or with later increments, follows the core's earlier accesses (R142), so it waits for them. -/
def execCtradd (a : Reg) (c : BitVec 4) (s : State) : Res :=
  s.alone false (wordOf (.ctradd a c)) [a] [] <|
    let k := (lowWord (s.core.reg a)).toNat
    if !s.earlierDone s.core.pcn then .next s else s.done fun x => x.bump c k

/-- A counter's value in [31:0] and its saturation bit in bit 32 (R407). -/
def Core.ctrWord (x : Core) (c : BitVec 4) : Word :=
  let k := Vector.get x.ctrs c.toFin
  BitVec.ofNat 64 (k.value.toNat + k.sat.toNat * 2 ^ 32)

def execCtrrd (d : Reg) (c : BitVec 4) (s : State) : Res :=
  s.alone false (wordOf (.ctrrd d c)) [] [d] <| s.done fun x => x.setReg d (x.ctrWord c)

/-- WAITC (R407): a wake that ends it clears the wake bit. -/
def execWaitc (d a : Reg) (c : BitVec 4) (s : State) : Res :=
  s.alone false (wordOf (.waitc d a c)) [a] [d] <|
    if (lowWord (s.core.reg a)).toNat ≤ (Vector.get s.core.ctrs c.toFin).value.toNat then s.done fun x => x.setReg d (x.ctrWord c)
    else if s.core.wake then s.done fun x => { x with wake := false }.setReg d (x.ctrWord c)
    else .next s

/-- TRIGGER_PUSH (R227): the oldest fired push of core p enters its queue once a slot is free. One of a member whose state is saved stands in the saved
block and fires there (R424). -/
def execTriggerPush (p : Nat) (s : State) : Res := if (s.getCore p).acked then .next s else .next (s.modCore p Core.pushFired)

end Sys2Proof.Machine
end

