-- ==== Sys2Proof/Machine/Teams.lean ====
section
/-! DEFINITION. Queue transfers, admission, placement, quanta and swapping of teams (spec 09 R208, R210, R214, R220 to R223; 19 R422 to
R429; 02 R53 to R56; 18 R416). -/

namespace Sys2Proof.Machine

/-! ## Queue transfers (R208, R210) -/

/-- BLOCK_TRANSFER (R208): the block of queue number n is accepted by its parent or by the spill region; initial records that waited
for the package queue then enter it. -/
def execBlockTransfer (n : Nat) (s : State) : Res :=
  let t := s.acceptBlock (queueOf n)
  .next (t.feed t.initial.length)

/-- PULL (R210): queue number n pulls. -/
def execPull (n : Nat) (s : State) : Res := .next (s.doPull (queueOf n))

/-! ## Admission (R220, R409) -/

/-- Whether an entry holds a team record. -/
def Entry.isTeam (e : Entry) : Bool := match e.body with
  | .team _ => true
  | _ => false

/-- The generation that an admission to a slot gives (R409). -/
def State.nextGen (s : State) (slot : Nat) : BitVec 16 := (((s.gens.find? fun g => g.1 == slot).map (·.2)).getD 0) + 1

/-- An admitted team that waits for its first placement. -/
def Team.admitted (slot : Nat) (gen : BitVec 16) (r : TeamRec) : Team where
  slot := slot
  gen := gen
  trec := r
  status := .waiting
  x0 := 0
  y0 := 0
  placed := false
  quantumEnd := 0
  expired := false
  rel := 0
  stopped := false
  images := []

/-- TEAM_ADMISSION (R220): the earliest team record of the package queue gets a free slot and joins the ring. A shape that never fits
is refused (R223); none that passed SPAWNT's checks is one. Of several free slots it gets the lowest: the spec does not say which (log entry 80). -/
def execTeamAdmission (s : State) : Res :=
  let q := s.queue .package
  match (sortEntries (q.entries.filter Entry.isTeam)).head?, (List.range 64).find? (fun i => (s.team i).isNone) with
  | some e, some slot => match e.body with
    | .team r =>
      if s.stopping then .next s
      else
        let s := s.setQueue { q with entries := q.entries.filter fun x => x.key != e.key }
        if !r.fits then .next s
        else
          let g := s.nextGen slot
          .next { s with
            teams := s.teams ++ [Team.admitted slot g r]
            gens := upsert (fun x => x.1 == slot) (fun _ => (slot, g)) (slot, g) s.gens
            ring := s.ring ++ [slot] }
    | _ => .next s
  | _, _ => .next s

/-! ## Placement (R214, R222) -/

/-- Whether a site is marked for the team of a slot, or reserved for it. -/
def Core.forTeam (c : Core) (slot : Nat) : Bool := c.reserved == some slot || match c.marked with
  | some (sl, _) => sl == slot
  | none => false

/-- The origin at which the ring's head can be placed: its target once every member site is reserved, else the first rectangle of idle
sites. -/
def State.placeAt (s : State) (t : Team) : Option (Nat × Nat) :=
  if s.cores.any fun c => c.forTeam t.slot then t.scan fun p => (s.getCore p).reserved == some t.slot || (s.idle p && (s.getCore p).forTeam t.slot)
  else t.scan s.idle

/-- The record of member i (R214). -/
def TeamRec.memberRec (t : TeamRec) (i : Nat) : TaskRec := ⟨t.bwid + BitVec.ofNat 64 i, t.entry, t.budget, t.deadline, t.arg⟩

/-- A site is reserved for a team: nothing of an earlier member or team stays with it (R405, R409). -/
def Core.reserveFor (slot : Nat) (c : Core) : Core := { c.leaveTeam with reserved := some slot, marked := none }

/-- The quantum that starts now (R222). -/
def State.quantumFrom (s : State) : Word := s.tb + s.mgmt.quantum

/-- TEAM_PLACE (R214, R56): the ring's head is placed. The first time, its member records are delivered; a swapped-out team gets its
sites and is then restored. -/
def execTeamPlace (s : State) : Res := match s.ring with
  | [] => .next s
  | slot :: rest => match s.team slot with
    | none => .next s
    | some t => match s.placeAt t with
      | none => .next s
      | some (x, y) =>
        let sites := memberSites t.trec x y
        if s.stopping || !sites.all (fun p => s.accepts (.core p)) then .next s
        else
          let s := sites.foldl (fun s p => s.modCore p (Core.reserveFor slot)) { s with ring := rest }
          let first := !t.placed
          let s := s.modTeam slot fun (t : Team) => { t with
            x0 := x, y0 := y, placed := true, expired := false, quantumEnd := s.quantumFrom
            status := if first then .resident else .arriving }
          .next (if first then sites.zipIdx.foldl (fun s x => s.insertBody (.core x.1) (.member (t.trec.memberRec x.2) slot x.2) 0x7FD) s else s)

/-! ## Quanta (R222) -/

/-- Whether the quantum of a resident team has ended (R222): TB has reached its end, whether or not the end has been named. -/
def State.quantumOver (s : State) (t : Team) : Bool :=
  t.status == TeamStatus.resident && (t.expired || decide (t.quantumEnd.toNat ≤ s.tb.toNat))

/-- Whether a site qualifies for the head's target: idle, a plain slice, or a resident team whose quantum has ended. -/
def State.qualifies (s : State) (p : Nat) : Bool :=
  s.idle p || (s.getCore p).slice == .plain || match s.siteTeam p with
    | some (t, _) => s.quantumOver t
    | none => false

/-- A pre-empt interrupt of a kind (R422), unless one is outstanding; a context stop is raised beside any but its own (R429). -/
def Core.preempt (kind : Nat) (c : Core) : Core :=
  let out := match c.irq.preempt with
    | some (k, _) => kind != 3 || k == 3
    | none => false
  if out || c.run != .running then c else { c with irq := { c.irq with preempt := some (kind, false) } }

/-- Every member that has not finished gets a pre-empt interrupt, and the team is leaving. -/
def State.preemptTeam (s : State) (t : Team) (kind : Nat) : State :=
  (s.liveMembers t).foldl (fun s c => s.modCore c.pcn (Core.preempt kind)) (s.modTeam t.slot fun (t : Team) => { t with status := .leaving })

/-- A site is marked for the team of a slot; an idle one is reserved at once (R222). -/
def State.mark (slot : Nat) (s : State) (p : Nat) : State :=
  if s.idle p then (s.modCore p fun c => { c with reserved := some slot, marked := none }).overflow (.core p)
  else s.modCore p fun c => { c with marked := some (slot, s.tb) }

/-- QUANTUM_END (R222): the team's quantum is over; the ring's head, when it has no target, chooses one, marks its sites and pre-empts
the teams on it. -/
def execQuantumEnd (slot : Nat) (s : State) : Res := match s.team slot with
  | none => .next s
  | some t =>
    if t.status != TeamStatus.resident || s.tb.toNat < t.quantumEnd.toNat || s.stopping then .next s
    else
      let s := s.modTeam slot fun (t : Team) => { t with expired := true }
      match s.ring.head?.bind s.team with
      | none => .next s
      | some h =>
        if s.cores.any fun c => c.forTeam h.slot then .next s
        else match h.scan s.qualifies with
          | none => .next s
          | some (x, y) =>
            let sites := memberSites h.trec x y
            let gone := s.teams.filter fun (u : Team) => s.quantumOver u && u.sites.any sites.contains
            .next (gone.foldl (fun s u => s.preemptTeam u 1) (sites.foldl (State.mark h.slot) s))

/-- MARKED_SITE_TIMEOUT (R222): a plain slice that still runs on a marked site one quantum later. -/
def execMarkedSiteTimeout (p : Nat) (s : State) : Res :=
  let c := s.getCore p
  match c.marked with
  | some (_, tb) =>
    if c.slice == .plain && decide (tb.toNat + s.mgmt.quantum.toNat ≤ s.tb.toNat) then .next (s.modCore p (Core.preempt 2)) else .next s
  | none => .next s

/-! ## Swapping out (R53, R54, R423, R425) -/

/-- FOLDWAIT (R414). -/
def Cmd.isFoldWait (k : Cmd) : Bool := k.table.isNone && k.cls == 5 && k.code == 1

/-- Whether a member's TW, CE and GK commands have completed (R425). -/
def Core.drained (c : Core) : Bool := [1, 2, 3].all fun q => (c.queue q).cmds.isEmpty

/-- Whether nothing of a member holds its copy up: it has acknowledged, no phase of it runs, and no command is under way but a FOLDWAIT and what
stands behind it (R416, R425; log entry 68). -/
def Core.readyToLeave (c : Core) : Bool :=
  c.acked && !c.inPhase && c.drained && (c.queue 0).cmds.isEmpty && ((c.queue 4).cmds.head?.all Cmd.isFoldWait)

/-- The kept state of a member from offset 0x6_0000 of its record on (R54): markings, counts, elements, command words. -/
def Core.keptBytes (c : Core) : List Byte :=
  let es := fun (q : Nat) => (c.queue q).elems.take 32
  let ws := (c.queue 4).cmds.take 32
  c.marks.toList.flatMap (fun m => bytesOf 4 m.toNat) ++
    ([1, 2, 3, 4].map fun q => BitVec.ofNat 8 (es q).length) ++ [BitVec.ofNat 8 ws.length, 0, 0, 0] ++ List.replicate 24 0 ++
    ([1, 2, 3, 4].flatMap fun q => (es q).flatMap (fun e => bytesOf 8 e.toNat) ++ List.replicate (256 - 8 * (es q).length) 0) ++
    ws.flatMap (fun k => bytesOf 32 k.pushed.toNat) ++ List.replicate (1024 - 32 * ws.length) 0

/-- The offset of the command words of q4 in a member's record (R54). -/
def waitsAt : Nat := 0x60480

/-- What the swap area keeps of a member: its register cache in its place in the scratchpad, with what has landed there since the acknowledgement (R43,
R53). -/
def Core.image (c : Core) : SwapImage where
  index := c.member
  record := c.writeBack.spad.writeBlock spadSize c.keptBytes
  ecc := c.writeBack.ecc
  pc := c.pc
  irq := { c.irq with preempt := none, entered := false }
  csb := c.ackCsb
  phase := c.phase
  events := c.events ++ c.eventsWaiting
  incs := c.lateIncs
  kept := keep c.kept waitsAt ((c.queue 4).cmds.zipIdx.map Prod.swap)

/-- The scratchpad in a member's record (R54). -/
def SwapImage.spad (m : SwapImage) : Memory := m.record.filter fun x => decide (x.1 < spadSize)

/-- The markings in a member's record. -/
def SwapImage.marks (m : SwapImage) : Vector (BitVec 32) 24 := Vector.ofFn fun i : Fin 24 => BitVec.ofNat 32 (m.record.readLE (0x60000 + 4 * i.val) 4)

/-- The kept elements of q1 to q4 in a member's record. -/
def SwapImage.elems (m : SwapImage) (q : Nat) : List (BitVec 64) :=
  if q = 0 then []
  else (List.range (min 32 (m.record.readLE (0x6005F + q) 1))).map fun i => m.record.dword (0x60080 + 256 * (q - 1) + 8 * i)

/-- The kept commands of q4 in a member's record. -/
def SwapImage.foldwaits (m : SwapImage) : List Cmd :=
  (List.range (min 32 (m.record.readLE 0x60064 1))).map fun i =>
    let w := m.record.readLE (waitsAt + 32 * i) 32
    recalled m.kept waitsAt i w 0 (Cmd.of (BitVec.ofNat 256 w) 0)

/-- A released site (R53, R215): its worker waits in TAKE again, as it stood there, its trigger counters zero, its armed actions, queues and notices gone:
the spec is silent on them (log entry 20). -/
def Core.released (c : Core) : Core :=
  let k := c.leaveTeam
  let k := match c.worker with
    | some w => if c.inSlice then { k with
        pc := w.pc, regs := w.regs, pend := 0, pois := 0, ctl := { c.ctl with wpa := w.ws, mode := w.mode, vl := 32 } } else k
    | none => k
  if !c.inSlice then k
  else { k with
    slice := .none
    taking := true
    waiting := false
    worker := none
    irq := Irq.reset
    nreq := 32
    vprog := 0
    wake := false
    ctrs := Vector.replicate 16 ⟨0, 0⟩
    armed := []
    fired := []
    qs := Vector.replicate 5 ⟨[], [], []⟩
    events := []
    eventsWaiting := [] }

/-- TEAM_SWAP_OUT (R53): after the last acknowledgement and the drain, the members that have not finished are copied and every site is
released; the team joins the ring's tail. -/
def execTeamSwapOut (slot : Nat) (s : State) : Res := match s.team slot with
  | none => .next s
  | some t =>
    let live := s.liveMembers t
    if t.status != TeamStatus.leaving || !live.all Core.readyToLeave || !t.sites.all (fun p => (s.getCore p).drained) then .next s
    else
      let s := s.modTeam slot fun (t : Team) => { t with status := .swappedOut, expired := false, images := live.map Core.image }
      let s := t.sites.foldl (fun s p => s.modCore p Core.released) { s with
        ring := s.ring ++ [slot]
        flits := s.flits.filter fun f => !(f.slot == slot && f.gen == t.gen) }
      .next (t.sites.foldl State.settle s)

/-! ## Swapping in (R56, R425, R427) -/

/-- The command of an armed push, action number i of the block at an address: as its ARM recorded it, else its word and generator state with what an ARM
adds (R379, R351; log entry 67). -/
def Core.rearm (c : Core) (addr i word : Nat) (gen : Word) : Cmd :=
  let block := if isJoin (bits word 7 4) (bits word 3 0) then c.spad.readLE (bits word 127 64) 64 else 0
  recalled c.kept addr i word gen (c.recordCmd word block gen)

/-- Armed action number i of the block at an address (R424). -/
def Core.readArmed (c : Core) (addr i : Nat) : Armed :=
  let a := addr + 0x200 + 64 * i
  let head := c.spad.readLE a 8
  let word := c.spad.readLE (a + 32) 32
  let kind := match bits head 37 36 with
    | 0 => .push (bits word 7 4 - 1) (c.rearm addr i word (c.spad.dword (a + 8)))
    | 1 => .event
    | _ => .wake
  ⟨BitVec.ofNat 4 (bits head 35 32), BitVec.ofNat 32 head, kind⟩

/-- A core with the control registers that the block at a holds (R424, R427). -/
def Core.readRegs (c : Core) (a : Nat) : Core :=
  let c := (csbRegs.zipIdx.foldl (fun (c : Core) x => c.cregWrite x.1 (c.spad.dword (a + 0x40 + 8 * x.2))) c)
  let st := c.spad.readLE (a + 0x50) 8
  { c with ctl := { c.ctl with wpa := BitVec.ofNat 10 (c.spad.readLE (a + 0x40) 8 / 512), mode := if bitAt st 0 then .system else .user } }

/-- The core state of a member from its block at a (R424, R427). -/
def Core.readCsb (c : Core) (a : Nat) : Core :=
  let c := c.readRegs a
  let lane := c.spad.readLE (a + 0x10) 8
  let c := { c with
    gen := c.spad.dword (a + 8)
    parity := BitVec.ofNat 2 (c.spad.readLE (a + 0x18) 8)
    nreq := BitVec.ofNat 9 lane
    wake := bitAt lane 9
    vprog := 0
    ctl := { c.ctl with vl := 32 }
    ctrs := Vector.ofFn fun i : Fin 16 =>
      let v := c.spad.readLE (a + 0x180 + 8 * i.val) 8
      ⟨BitVec.ofNat 32 v, BitVec.ofNat 1 (v >>> 32)⟩
    timetable := (List.range (min 512 (c.spad.readLE (a + 2) 2))).map fun i => BitVec.ofNat 64 (c.spad.readLE (a + 0xA00 + 8 * i) 8)
    armed := []
    fired := [] }
  (List.range (min 32 (c.spad.readLE a 1))).foldl (fun (k : Core) i => k.arm (c.readArmed a i)) c

/-- A member resumes on a site whose worker waits in TAKE: images, markings, core state, kept elements, the increments that fell
meanwhile; then its WFE completes (R56, R425, R427, R416). -/
def Core.resume (c : Core) (slot : Nat) (m : SwapImage) : Core :=
  let k := { c with
    worker := some ⟨c.pc, c.ctl.wpa, c.ctl.mode, c.regs⟩
    spad := m.spad
    ecc := m.ecc
    marks := m.marks
    slice := .member slot
    member := m.index
    reserved := none
    finished := false
    taking := false
    acked := false
    lateIncs := []
    waiting := false
    phase := m.phase
    kept := c.kept.filter (fun k => !m.kept.contains k) ++ m.kept
    ttDone := []
    mailbox := []
    irq := m.irq
    events := m.events.take 64
    eventsWaiting := m.events.drop 64
    qs := Vector.ofFn fun i : Fin 5 => ⟨if i.val = 4 then m.foldwaits else [], m.elems i.val, []⟩ }
  let k := k.readCsb m.csb
  let k := m.incs.foldl (fun (k : Core) i => k.bump i 1) (k.loadCache k.wp)
  (k.jump (m.pc + 4)).retired

/-- TEAM_SWAP_IN (R427): the team whose sites are reserved is restored; a finished member's site is held for the team (R215). -/
def execTeamSwapIn (slot : Nat) (s : State) : Res := match s.team slot with
  | none => .next s
  | some t =>
    if t.status != TeamStatus.arriving then .next s
    else
      let s := t.sites.zipIdx.foldl (fun s x => s.modCore x.1 fun c => match t.images.find? fun m => m.index == x.2 with
        | some m => c.resume slot m
        | none => { c with reserved := none, finished := true }) s
      .next ((s.modTeam slot fun (t : Team) => { t with status := .resident, images := [] }).retireIfDone slot)

end Sys2Proof.Machine
end

