-- ==== Sys2Proof/Machine/Launch.lean ====
section
/-! DEFINITION. The launch unit, the life of a context, launches from the rack and residency reports (spec 09 R199, R200, R228; 19
R429, R430; 20 R434 to R437). -/

namespace Sys2Proof.Machine

/-! ## Launch records (R434, R435, R437) -/

/-- The next launch record: KIND and its 128 bytes, while LQHEAD differs from the last doorbell and the initial records of the context
hold no insertion up (R436). -/
def State.launch (s : State) : Option (Nat × Nat) :=
  if s.mgmt.lqhead = s.mgmt.doorbell ∨ !s.initial.isEmpty ∨ s.mgmt.state = 4 then none
  else
    let v := s.mgmt.lq.readLE (128 * (s.mgmt.lqhead.toNat % 64)) 128
    some (fieldOf v 0 1, v)

/-- A record breaks R435. -/
def launchBad (kind v : Nat) : Bool :=
  kind < 1 || 5 < kind || fieldOf v 1 7 != 0 || fieldOf v 0x18 40 != 0 || (kind != 1 && (fieldOf v 8 8 != 0 || fieldOf v 16 8 != 0)) ||
    (if kind = 2 then fieldOf v 0x60 32 != 0 else kind != 3 && fieldOf v 0x40 64 != 0)

/-- The outcome of the record at LQHEAD is written, LQHEAD passes it, and vector 1 is signalled (R437). -/
def State.outcome (s : State) (kind status : Nat) : State :=
  let slot := s.mgmt.lqhead.toNat % 64
  let v : Word := BitVec.ofNat 64 (s.mgmt.ctxg.toNat * 2 ^ 48 + status * 256 + kind)
  { s with mgmt := { s.mgmt with
      lqout := upsert (fun x => x.1 == slot) (fun _ => (slot, v)) (slot, v) s.mgmt.lqout
      lqhead := s.mgmt.lqhead + 1 } }.out (.msix 1)

/-- Runs a record of a kind: status 1 for a malformed one, 2 in another state than it requires (R436). -/
def State.launchAs (s : State) (takes : Nat → Bool) (state : BitVec 3) (k : Nat → Res) : Res := match s.launch with
  | none => .next s
  | some (kind, v) =>
    if !takes kind then .next s
    else if launchBad kind v then .next (s.outcome kind 1)
    else if s.mgmt.state ≠ state then .next (s.outcome kind 2)
    else k v

/-! ## The launch header (R199) -/

/-- Whether [va, va + n) lies in the own node's global range. -/
def State.ownRange (s : State) (va n : Nat) : Bool :=
  decide (globalBase ≤ va) && decide (va + n ≤ 2 ^ 57) && nodeOf va == s.mgmt.nodew.toNat && nodeOf (va + n - 1) == s.mgmt.nodew.toNat

/-- The widths of a header's fields. -/
def headerWidths (h : Nat) : List Nat := (List.range 6).map fun i => fieldOf h (2 + i) 1

/-- The rules of R199 on the 64 bytes of a header. -/
def State.headerOk (s : State) (h : Nat) : Bool :=
  let nf := fieldOf h 0 1
  let tf := fieldOf h 1 1
  let ws := headerWidths h
  let boot := fieldOf h 0x14 4
  let tcount := fieldOf h 0x20 4
  let iws := fieldOf h 0x24 4
  let icount := fieldOf h 0x30 4
  decide (1 ≤ nf) && decide (nf ≤ 6) && (tf == 0xFF || decide (tf < nf)) &&
    (ws.take nf).all (fun w => decide (1 ≤ w) && decide (w ≤ 64)) && (ws.drop nf).all (fun w => w == 0) &&
    decide ((ws.take nf).foldl (· + ·) 0 ≤ 64) && boot % 4 == 0 && decide (boot < 0x20000) && fieldOf h 0x18 8 % 32 == 0 &&
    decide (tcount ≤ 2 ^ 24) && (tcount == 0 || s.ownRange (fieldOf h 0x18 8) (32 * tcount)) && iws % 512 == 0 &&
    decide (iws ≤ 0x5FE00) && decide (icount ≤ 64) && fieldOf h 0x34 12 == 0 &&
    (if icount = 0 then fieldOf h 0x28 8 == 0 else fieldOf h 0x28 8 % 16 == 0 && s.ownRange (fieldOf h 0x28 8) (16 * icount))

/-- The fields that the hardware keeps using. -/
def headerOf (h : Nat) : Header := ⟨fieldOf h 0 1, fieldOf h 1 1, headerWidths h⟩

/-- Goes on only when a check holds. -/
def State.must (s : State) (ok : Bool) : Eng Unit := if ok then .ok s () else .stop s 1 0

/-- Applies one local image descriptor to the scratchpad that every core gets (R200). -/
def State.applyImage (s : State) (m : Memory) (d : Nat) : Eng Memory :=
  let va := fieldOf d 0 8
  let dst := fieldOf d 8 4
  let len := fieldOf d 12 4
  (s.must (va % 64 == 0 && dst % 64 == 0 && len % 64 == 0 && decide (dst + len ≤ spadSize) && (len == 0 || s.ownRange va len))).andThen
    fun s _ => (s.engReadRange noPcn va len).andThen fun s v => .ok s (m.writeBlock dst (bytesOf len v))

/-- What START reads before it prepares the cores: the header, the initial records and the scratchpad. -/
structure Prepared where
  head : Nat
  recs : List TaskRec
  spad : Memory
  deriving DecidableEq, Repr

/-- The reads and checks of R199 and R200. -/
def State.prepareStart (s : State) (lhp : Nat) : Eng Prepared :=
  (s.must (lhp % 64 == 0 && s.ownRange lhp 64)).andThen fun s _ =>
  (s.engReadRange noPcn lhp 64).andThen fun s h =>
  (s.must (s.headerOk h)).andThen fun s _ =>
  let icount := fieldOf h 0x30 4
  let tcount := fieldOf h 0x20 4
  (s.engReadRange noPcn (fieldOf h 0x28 8) (16 * icount)).andThen fun s il =>
  (engFold State.applyImage ((List.range icount).map fun i => fieldOf il (16 * i) 16) s []).andThen fun s m =>
  (s.engReadRange noPcn (fieldOf h 0x18 8) (32 * tcount)).andThen fun s tl =>
  let recs := (List.range tcount).map fun i => taskOf (fieldOf tl (32 * i) 32)
  let checked := { s with header := headerOf h }
  (s.must (recs.all checked.taskOk)).andThen fun s _ => .ok s ⟨h, recs, m⟩

/-! ## START (R200, R430, R436) -/

/-- Core number p at the start of a context (R200). Its generator starts from SEED as LCN 0 would give it (log entry 96). -/
def Prepared.core (x : Prepared) (lhp : Word) (node : BitVec 9) (p : Nat) : Core :=
  let c := Core.reset p
  let seed : Word := BitVec.ofNat 64 (fieldOf x.head 8 8)
  let iws := if fieldOf x.head 0x24 4 = 0 then 0x8400 else fieldOf x.head 0x24 4
  let entry := if fieldOf x.head 0x14 4 = 0 then fieldOf x.head 0x10 4 else fieldOf x.head 0x14 4
  let c := { c with
    run := .running
    spad := x.spad
    pc := BitVec.ofNat 64 entry
    gen := seedState seed 0
    ctl := { c.ctl with seed := seed, lhp := lhp, node := node, wpa := BitVec.ofNat 10 (iws / 512) } }
  { (c.loadCache iws) with pend := 0, pois := 0 }

/-- Every core of the package prepared, and nothing of an earlier context left (R200, R430). -/
def State.startCores (s : State) (x : Prepared) (lhp : Word) : State :=
  let mk := x.core lhp s.mgmt.nodew
  { s with
    core := mk s.core.pcn
    others := ((List.range 1536).filter fun p => p != s.core.pcn).map mk
    clusters := []
    mules := []
    header := headerOf x.head
    initial := x.recs
    mgmt := { s.mgmt with state := 3 } }

/-- The context word of a START, the stale counters cleared (R101, R432); what an earlier context asked for stays late by its number (R122). -/
def State.newContext (s : State) (root : Nat) : State := { s with mgmt := { s.mgmt with
  root := BitVec.ofNat 40 (bits root 55 16), ctxg := s.mgmt.ctxg + 1, prlate := 0, mdrop := 0, fpdrop := 0, nmlate := 0 }, ended := false }

/-- A START that fails: state 2 still, the caches empty as the ready state has them, and an error record (R199, R436, R438). -/
def State.startFails (s : State) (lhp : Word) : State :=
  ({ s with l2 := [], tlb := [] }.logError noPcn 0 4 lhp 0).outcome 1 3

/-- START (R436): it also takes a record whose KIND is none. -/
def execStart (s : State) : Res := s.launchAs (fun k => k = 1 || !(2 ≤ k && k ≤ 5)) 2 fun v =>
  let lhp : Word := BitVec.ofNat 64 (fieldOf v 16 8)
  let t := s.newContext (fieldOf v 8 8)
  if !decide (t.rootPa < 0xB270000000) then .next (t.startFails lhp)
  else match t.prepareStart lhp.toNat with
    | .wait => .next s
    | .stop t _ _ => .next (t.startFails lhp)
    | .ok t x => .next (((t.startCores x lhp).feed x.recs.length).outcome 1 0)

/-! ## TASK and TEAM (R436) -/

/-- Inserts a checked record in the package queue with source 0x7FF; an insertion that finds no room holds the launch unit. -/
def State.launchInsert (s : State) (kind : Nat) (ok : Bool) (b : Body) : Res :=
  if !ok then .next (s.outcome kind 4)
  else if !s.accepts .package then .next s
  else .next ((s.insertBody .package b 0x7FF).outcome kind 0)

def execTask (s : State) : Res := s.launchAs (fun k => k = 2) 3 fun v =>
  let r := taskOf (fieldOf v 0x40 32)
  s.launchInsert 2 (s.taskOk r) (.task r)

def execTeam (s : State) : Res := s.launchAs (fun k => k = 3) 3 fun v =>
  let b := fieldOf v 0x40 64
  s.launchInsert 3 (s.teamOk b) (.team (teamOf b))

/-! ## STOP, QUIESCENT, END (R429, R430, R436) -/

/-- Marks and reservations for a placement that will not come end; those of teams at their sites stay. -/
def State.dropTargets (s : State) : State := s.allCores fun c => { c with
  marked := none
  reserved := match c.reserved with
    | some slot => match s.team slot with
      | some t => if t.atSites then c.reserved else none
      | none => none
    | none => none }

/-- A team whose sites are reserved for its return stays out (R429). -/
def State.cancelArrivals (s : State) : State :=
  let back := s.teams.filter fun (t : Team) => t.status == TeamStatus.arriving
  { s with
    teams := s.teams.map fun (t : Team) => if t.status == TeamStatus.arriving then { t with status := .swappedOut } else t
    ring := s.ring ++ back.map Team.slot }

/-- The context stop of R429: every core that runs user work gets a pre-empt interrupt of kind 3; teams at their sites leave. -/
def State.stopContext (s : State) : State :=
  let s := { s with mgmt := { s.mgmt with state := 4 } }.cancelArrivals.dropTargets
  let s := (s.teams.filter Team.atSites).foldl (fun s t => s.preemptTeam t 3) s
  s.allCores fun c => if c.slice == .plain then c.preempt 3 else c

/-- STOP (R436): its outcome is written when the context is quiescent. -/
def execStop (s : State) : Res := s.launchAs (fun k => k = 4) 3 fun _ => .next s.stopContext

/-- No core runs user work, and no engine command, Mule request or fold window is outstanding (R429). -/
def State.isQuiescent (s : State) : Bool :=
  s.cores.all (fun c => !c.inSlice && c.qs.toList.all (fun q => q.cmds.isEmpty) && c.fired.isEmpty) &&
    s.teams.all (fun t => !t.placedNow) && s.nmFlight.isEmpty && s.folds.isEmpty &&
    s.mules.all fun m => m.queue.isEmpty && m.stopped.isNone && m.queries.isEmpty && m.controls.isEmpty && m.windows.isEmpty

/-- QUIESCENT (R429): state 5, and the outcome of the STOP. -/
def execQuiescent (s : State) : Res :=
  if s.mgmt.state = 4 ∧ s.isQuiescent then .next ({ s with mgmt := { s.mgmt with state := 5 } }.outcome 4 0) else .next s

/-- What a core keeps when its context has ended: what its scratchpad holds. Notices that wait for q15 go without a count (log entry 93). -/
def Core.ended (c : Core) : Core := { Core.reset c.pcn with spad := c.spad, ecc := c.ecc, marks := c.marks, scrub := c.scrub }

/-- The context ends (R430, R122, R96): parks are discarded, and contributions that no window claimed, parked or still waiting, discarded and counted; dirty
lines are written back, every cache emptied. Far writes still under way stay, and what answers them comes late. What other nodes have queued at a Mule is
discarded without a reply (log entry 89). -/
def State.endContext (s : State) : State :=
  let dropped := (s.mules.map fun m => m.parked.length).sum + s.folds.length
  let s := s.l2.foldl State.writeBackLine s
  let s := s.allCores Core.ended
  { s with
    clusters := []
    l2 := []
    metaCache := []
    cleans := []
    notices := []
    ended := true
    moved := []
    tlb := []
    reservation := none
    resWait := []
    parks := []
    submits := []
    retryWanted := 0
    nmFlight := []
    mules := []
    folds := []
    queues := []
    pulls := []
    spill := []
    spillAt := []
    initial := []
    stamps := []
    teams := []
    ring := []
    flits := []
    mails := []
    answered := []
    mgmt := { s.mgmt with state := 2, fpdrop := s.mgmt.fpdrop + BitVec.ofNat 64 dropped } }

/-- END (R430, R436): every update of a replicated line is applied first. -/
def execEndCtx (s : State) : Res := s.launchAs (fun k => k = 5) 5 fun _ =>
  if s.seqQueue.isEmpty then .next (s.endContext.outcome 5 0) else .next s

/-! ## Launches from the rack and residency reports (R228) -/

/-- ZFP_LAUNCH (R228): one record, of which `team` says the kind; it comes through a port that negotiated launches (R439). -/
def execZfpLaunch (team : Bool) (packet : Line) (s : State) : Res :=
  let v := packet.toNat
  let wid : Word := BitVec.ofNat 64 (fieldOf v 0 8)
  let b : Body := if team then .team (teamOf v) else .task (taskOf v)
  if !s.anyPort 4 then .next s
  else if s.mgmt.state.toNat < 3 then .next (s.out (.launchAnswer false wid 0x0A 0))
  else if !(if team then s.teamOk v else s.taskOk (taskOf v)) then .next (s.out (.launchAnswer false wid 0x0B s.mgmt.ctxg))
  else if !s.accepts .package || !s.initial.isEmpty then .next s
  else .next ((s.insertBody .package b 0x7FE).out (.launchAnswer true wid 0 s.mgmt.ctxg))

/-- The three words of a residency report (R228). -/
def State.residencyWords (s : State) : Word × Word × Word :=
  let idle := ((List.range 1536).filter s.idle).length
  let res := (s.teams.filter Team.placedNow).length
  let pkq := (s.queue .package).entries.length
  let dies := ((List.range 4).map fun d => (s.queue (.die d)).entries.length).foldl (· + ·) 0
  (BitVec.ofNat 64 (s.mgmt.ctxg.toNat * 2 ^ 48 + idle * 2 ^ 37 + res * 2 ^ 30 + (s.teams.length - res) * 2 ^ 23 + pkq * 2 ^ 9),
    BitVec.ofNat 64 s.spill.length, BitVec.ofNat 64 dies)

/-- RESIDENCY_REPORT (R228): through a port that negotiated reports (R439). -/
def execResidencyReport (s : State) : Res :=
  let w := s.residencyWords
  if !s.anyPort 8 then .next s
  else .next (s.out (.residency w.1 w.2.1 w.2.2))

end Sys2Proof.Machine
end

