-- ==== Sys2Proof/Machine/Matrix.lean ====
section
/-! DEFINITION. Stationary macros, lns6 tables and the matrix sequencers (spec 16 R347 to R360; 02 R45 to R51; 08 R183, R184, R188 to
R191, R196). -/

namespace Sys2Proof.Machine

/-! ## STAT, UNSTAT, CTBL (R348, R349) -/

/-- The marking that STAT gives macro j of its range (R45, R348). -/
def marking (w : BitVec 4) (geom j : Nat) : BitVec 32 := BitVec.ofNat 32 (2 ^ 31 + w.toNat * 2 ^ 24 + (geom + 32 * j) % 2 ^ 16)

/-- TVAL of a STAT or UNSTAT range that holds more than macros: R348 gives base, and R21 the first address past 0x5_FFFF. Where the two differ it is
left open (log entry 27). -/
def statTval (base : Nat) : Nat := if Config.statTvalIsBase then base else if base < 0x20000 then base else max base spadSize

/-- The checks that STAT and UNSTAT share, with g[b] already checked (R348, R21). -/
def State.statChecks (s : State) (base n : Nat) (k : Res) : Res :=
  if base % 0x4000 ≠ 0 then s.trapN 0x02 base
  else if base < 0x20000 ∨ spadSize < base + n * 0x4000 then s.trapN 0x03 (statTval base)
  else match spansCheck (s.core.lpuCheck true) [(base, n * 0x4000)] with
    | some (e, at_) => s.trapN e at_
    | none => k

/-- Marks macros in ascending order up to the first that must be waited for; `true` when all of them are marked. -/
def State.markLoop (s : State) (mark : Nat → BitVec 32) (blocked : State → Nat → Bool) (first : Nat) : List Nat → State × Bool
  | [] => (s, true)
  | j :: js =>
    if blocked s (first + j) then (s, false)
    else State.markLoop { s with core := { s.core with marks := s.core.marks.setIfInBounds (first + j) (mark j) } } mark blocked first js

/-- Ends STAT or UNSTAT: it waits, and runs again, while a macro is to be waited for. -/
def markDone (r : State × Bool) : Res := if r.2 then r.1.done id else .next r.1

/-- STAT (R348): waits until each macro is idle. -/
def execStat (a b : Reg) (w : BitVec 4) (s : State) : Res :=
  s.alone false (wordOf (.stat a b w)) [a, b] [] <|
    let base := (s.core.reg a).toNat
    let v := (s.core.reg b).toNat
    let n := bits v 4 0
    let geom := bits v 31 16
    if bits v 63 32 ≠ 0 ∨ bits v 15 5 ≠ 0 ∨ n = 0 ∨ 16 < n ∨ 127 < bits geom 11 5 + n - 1 then s.trapN 0x01 v
    else s.statChecks base n <|
      if base ≤ s.core.wp ∧ s.core.wp < base + n * 0x4000 then s.trapN 0x06 s.core.wp
      else markDone (s.markLoop (marking w geom) (fun s m => s.macroBusy s.core.pcn m) (base / 0x4000) (List.range n))

/-- How many commands each core of the active core's cluster has had pushed so far, by position (R348). -/
def State.pushLimits (s : State) : List Nat := (List.range 8).map fun i => (s.getCore (clusterCore (clusterOf s.core.pcn) i)).pushed

/-- Whether a RUN pushed before the numbers `lim` of the cluster's cores that may use the markings of the active core, and names the grid of its macro m, is not complete, or
the macro is busy (R51, R348). -/
def State.gridOwed (s : State) (lim : List Nat) (m : Nat) : Bool :=
  let p := s.core.pcn
  let mk := (s.core.marks.toList.getD m 0).toNat
  bitAt mk 31 && (s.macroBusy p m || (List.range 8).any fun i =>
    let q := clusterCore (clusterOf p) i
    ((s.getCore q).queue 0).cmds.any fun k =>
      k.table.isNone && decide (k.num < lim.getD i 0) && bits k.word.toNat 7 0 == 0x10 && (mxRunOf k.word.toNat).grid == bits mk 15 12 &&
        (s.gridCores q).contains p)

/-- UNSTAT (R348): waits until every command on the macro's grid that was pushed before it is complete, and the macro idle (R51). -/
def execUnstat (a b : Reg) (s : State) : Res :=
  s.alone false (wordOf (.unstat a b)) [a, b] [] <|
    let base := (s.core.reg a).toNat
    let v := (s.core.reg b).toNat
    let n := bits v 4 0
    if bits v 63 5 ≠ 0 ∨ n = 0 ∨ 16 < n then s.trapN 0x01 v
    else s.statChecks base n <|
      let lim := s.core.unstat.getD s.pushLimits
      let s := { s with core := { s.core with unstat := some lim } }
      markDone (s.markLoop (fun _ => 0) (fun s m => s.gridOwed lim m) (base / 0x4000) (List.range n))

/-- The entries of a table of 64 words (R349). -/
def tableOf (v : Nat) : List (BitVec 24) := (List.range 64).map fun i => BitVec.ofNat 24 (fieldOf v (4 * i) 4)

/-- CTBL (R349): its copy waits in the core's command order. -/
def execCtbl (a : Reg) (s : State) : Res :=
  s.alone false (wordOf (.ctbl a)) [a] [] <|
    let p := (s.core.reg a).toNat
    if p % 64 ≠ 0 then s.trapN 0x02 p
    else s.localOperand false p 256 <| s.readOperand p 256 fun v =>
      s.done fun c => c.enqueue 0 { Cmd.of 0 0 with table := some (tableOf v) }

/-! ## Clusters -/

/-- T[i] of the default banks (R183). -/
def lnsDefault (i : Nat) : BitVec 24 :=
  if i < 2 ∨ i = 63 then 0 else BitVec.ofNat 24 ((isqrt (isqrt (2 ^ (i + 36))) + 1) / 2)

/-- A default bank. -/
def lnsBank : List (BitVec 24) := (List.range 64).map lnsDefault

/-- The sequencer of a cluster (R183, R350). -/
def State.cluster (s : State) (k : Nat) : Cluster := (s.clusters.find? fun c => c.k == k).getD ⟨k, lnsBank, lnsBank, 0, 7⟩

/-- Puts a sequencer back. -/
def State.putCluster (s : State) (c : Cluster) : State :=
  { s with clusters := upsert (fun x => x.k == c.k) (fun _ => c) c s.clusters }

def Cluster.bank (c : Cluster) (b : Bit) : List (BitVec 24) := if b = 0 then c.bank0 else c.bank1

/-- The bank that is not active. -/
def Cluster.inactive (c : Cluster) : Bit := c.active ^^^ 1

/-- A bank is written. -/
def Cluster.setBank (c : Cluster) (b : Bit) (t : List (BitVec 24)) : Cluster :=
  if b = 0 then { c with bank0 := t } else { c with bank1 := t }

/-- The start of a RUN that holds a table bank: of a running one, or of one that a SAVE has stopped and that goes on from there (R184, R360). -/
def Cmd.holdsBank (k : Cmd) : Option MxStart := k.started <|> k.begun

/-- Whether a started command of a cluster uses a bank. -/
def State.bankUsed (s : State) (k : Nat) (b : Bit) : Bool :=
  ((List.range 8).map (clusterCore k)).any fun q => ((s.getCore q).queue 0).cmds.any fun c => match c.holdsBank with
    | some st => st.bank == b
    | none => false

/-! ## The grid (R353) -/

/-- The macros of a grid that core p's command may use: place, core, macro, weight format. -/
def State.gridMacros (s : State) (p : Nat) (r : MxRun) : List (Nat × Nat × Nat × Nat × Nat) :=
  (s.gridCores p).flatMap fun q => (List.range 24).filterMap fun m =>
    let mk := ((s.getCore q).marks.toList.getD m 0).toNat
    let kbi := bits mk 11 5
    let nbi := bits mk 4 0
    if bitAt mk 31 && bits mk 15 12 == r.grid && decide (r.kb0 ≤ kbi) && decide (kbi < r.kb0 + r.kb) && decide (r.nb0 ≤ nbi) &&
        decide (nbi < r.nb0 + r.nb) then
      some (kbi, nbi, q, m, bits mk 27 24)
    else none

/-- The grid, and its weight format, if every place of it has exactly one macro and all of them one format. -/
def State.findGrid (s : State) (p : Nat) (r : MxRun) : Option (List (Nat × Nat × Nat × Nat) × Nat) :=
  let ms := s.gridMacros p r
  let places := (List.range r.kb).flatMap fun i => (List.range r.nb).map fun j => (r.kb0 + i, r.nb0 + j)
  match ms with
  | [] => none
  | g :: _ =>
    let wf := g.2.2.2.2
    if places.all (fun pl => (ms.filter fun m => (m.1, m.2.1) == pl).length == 1) && ms.all (fun m => m.2.2.2.2 == wf) then
      some (ms.map fun m => (m.1, m.2.1, m.2.2.1, m.2.2.2.1), wf)
    else none

/-- Whether a weight format accepts an activation format (R352). -/
def wfAccepts (wf afmt : Nat) : Bool :=
  if wf = 6 then afmt == 6 else afmt == 0 || afmt == 1 || afmt == 2 || afmt == 4 || afmt == 5

/-! ## Command order (R350) -/

/-- The first command of core p in command order; none while a SAVE or RESTORE goes ahead of it. -/
def Core.mxHead (c : Core) : Option Cmd := if (c.queue 0).cmds.any Cmd.isControl then none else (c.queue 0).cmds.head?

/-- Whether the waiting head command of core p can start (R349, R350). -/
def State.mxReady (s : State) (p : Nat) : Bool :=
  let k := clusterOf p
  match (s.getCore p).mxHead with
  | none => false
  | some c =>
    if c.started.isSome || c.sent then false
    else if c.table.isSome then !s.bankUsed k (s.cluster k).inactive
    else if c.code = 0 then match s.findGrid p (mxRunOf c.word.toNat) with
      | none => true
      | some (g, _) => g.all fun m => !s.macroBusy m.2.2.1 m.2.2.2
    else true

/-- The core that the sequencer of a cluster serves next: the first one after the last whose head can start. -/
def State.mxNext (s : State) (k : Nat) : Option Nat :=
  ((List.range 8).map fun i => clusterCore k (((s.cluster k).last + 1 + i) % 8)).find? s.mxReady

/-- Core p has been served. -/
def State.mxServe (s : State) (p : Nat) : State :=
  let k := clusterOf p
  s.putCluster { s.cluster k with last := clusterPos p }

/-- CTBL_BANK_WRITE (R349): a CTBL copy at its turn in cluster k. -/
def execCtblBankWrite (k : Nat) (s : State) : Res := match s.mxNext k with
  | none => .next s
  | some p => match (s.getCore p).mxHead.bind Cmd.table with
    | some t =>
      let c := s.cluster k
      let s := (s.putCluster (c.setBank c.inactive t)).mxServe p
      .next (s.modCore p fun c => c.modQ 0 fun e => { e with cmds := e.cmds.drop 1 })
    | none => .next s

/-- MX_CTSWAP (R350): the inactive bank becomes active. -/
def execMxCtswap (p : Nat) (s : State) : Res :=
  match s.headCmd p 0 1 4 with
  | none => .next s
  | some _ =>
    if s.mxNext (clusterOf p) != some p then .next s
    else
      let c := s.cluster (clusterOf p)
      .next (((s.putCluster { c with active := c.inactive }).mxServe p).complete p 0 0 0)

/-! ## xacc160 (R188 to R191) -/

/-- An exact accumulator. -/
structure XAcc where
  v : Int
  n : Bool
  s : Bool
  deriving DecidableEq, Repr

def XAcc.zero : XAcc := ⟨0, false, false⟩

/-- The accumulator of a 32-byte image (R188). -/
def XAcc.ofImage (i : Nat) : XAcc := ⟨signedOf 160 i, bitAt i 160, bitAt i 161⟩

/-- Its image. -/
def XAcc.image (x : XAcc) : Nat := wrapTo 160 x.v + (if x.n then 2 ^ 160 else 0) + (if x.s then 2 ^ 161 else 0)

/-- Adds an exact number of 2^-64 (R190). -/
def XAcc.add (x : XAcc) (p : Int) : XAcc :=
  if x.s then x
  else
    let v := x.v + p
    if (2 ^ 159 : Nat) ≤ v then { x with v := ((2 ^ 159 : Nat) : Int) - 1, s := true }
    else if v < -((2 ^ 159 : Nat) : Int) then { x with v := -((2 ^ 159 : Nat) : Int), s := true }
    else { x with v := v }

/-- Readout: one rounding (R191). A saturated V is rounded like any other value, and only a rounding that overflows the format gives its infinity or its
largest number (log entry 84). -/
def XAcc.round (x : XAcc) (f : BitVec 4) (rm : Rm) (u : Nat) : Nat × Flg :=
  let k := fmtKind f.toNat
  let v : Val := if x.n then .nar else if x.v = 0 then .zero false else .fin (decide (x.v < 0)) x.v.natAbs (-64) false
  let r := roundVal k false rm u v
  (r.code, if x.n then 0 else r.flags)

/-- An activation as it enters the accumulator (R189, R352). -/
def actVal (f : BitVec 4) (code : Nat) : Val :=
  let k := fmtKind f.toNat
  let v := decodeVal k false code
  if f = 0 ∨ f = 1 then tap16.decode (roundVal (.tap tap16) false .rne 0 v).code
  else match v with
    | .inf _ | .nan _ => .nar
    | _ => v

/-- The number of 2^-64 that a product of finite values is. -/
def productFix (n1 n2 : Bool) (m1 m2 : Nat) (e1 e2 : Int) : Int :=
  let e := e1 + e2 + 64
  let m := if 0 ≤ e then (m1 * m2) <<< e.toNat else (m1 * m2) >>> (-e).toNat
  if n1 != n2 then -(m : Int) else m

/-- Adds the product of a weight and an activation (R189). -/
def XAcc.mac (x : XAcc) (w a : Val) : XAcc := match w, a with
  | .nar, _ | _, .nar => { x with n := true }
  | .fin n1 m1 e1 _, .fin n2 m2 e2 _ => x.add (productFix n1 n2 m1 m2 e1 e2)
  | _, _ => x

/-- LnsProduct (R183) added to an accumulator. -/
def XAcc.macLns (x : XAcc) (table : List (BitVec 24)) (w a : Nat) : XAcc :=
  if w = 0x30 ∨ a = 0x30 then { x with n := true }
  else if w = 0x10 ∨ a = 0x10 then x
  else
    let t : Nat := (table.getD (lnsL w + lnsL a + 32).toNat 0).toNat * 2 ^ 48
    x.add (if bitAt w 5 != bitAt a 5 then -(t : Int) else t)

/-! ## MX.RUN (R354 to R357) -/

/-- Weight code W[k][n] (R46, R354). -/
def State.weight (s : State) (r : MxRun) (st : MxStart) (k n : Nat) : Nat :=
  let cpb := cpbOf st.wf.toNat
  match st.grid.find? fun g => g.1 == r.kb0 + k / 128 && g.2.1 == r.nb0 + n / cpb with
  | none => 0
  | some g => vElem (s.getCore g.2.2.1).spad st.wf (g.2.2.2 * 0x4000 + 128 * (k % 128)) (n % cpb)

/-- Code k of a row of A that is one number. -/
def rowCode (f : BitVec 4) (row k : Nat) : Nat :=
  if isLns f then bits row (32 * (k / 5) + 6 * (k % 5) + 5) (32 * (k / 5) + 6 * (k % 5))
  else fieldOf row (fmtBytes f.toNat * k) (fmtBytes f.toNat)

/-- The sum of one column over the rows of the row set, ascending. -/
def State.column (s : State) (r : MxRun) (st : MxStart) (table : List (BitVec 24)) (row n : Nat) (x : XAcc) : XAcc :=
  st.rows.foldl (fun x k =>
    let w := s.weight r st k n
    let a := rowCode r.afmt row k
    if st.wf = 6 then x.macLns table w a else x.mac (decodeVal (fmtKind st.wf.toNat) false w) (actVal r.afmt a)) x

/-- n elements as the bytes of a row. -/
def packRow (f : BitVec 4) (vs : List Nat) : Nat :=
  if isLns f then ((vs.zipIdx).map fun v => v.1 * 2 ^ (32 * (v.2 / 5) + 6 * (v.2 % 5))).foldl (· + ·) 0
  else wordsOf (fmtBytes f.toNat) vs

/-- Readout of a row of accumulators, element i taking draw i from a state on (R354): codes and flags. -/
def readoutRow (f : BitVec 4) (rm : Rm) : List XAcc → Word → Flg → List Nat → List Nat × Flg
  | [], _, fl, acc => (acc.reverse, fl)
  | x :: xs, g, fl, acc =>
    let (u, g) := drawIf rm g
    let (c, f1) := x.round f rm u
    readoutRow f rm xs g (fl ||| f1) (c :: acc)

/-- The mode of an rm field that the push resolved. -/
def rmResolved (r : BitVec 3) : Rm := if r = 4 then .sr else rmOfTwo r.toNat

/-- Bit 5 of VALUE: an image read or written has S = 1 (R357). -/
def satFlag (xs : List XAcc) : BitVec 6 := if xs.any XAcc.s then 32 else 0

/-- The slice that an engine of core p reads a line at: its home, or its replica on the core's die (R62, R75). -/
def State.readSlice (s : State) (p va : Nat) : Nat :=
  if s.isRepl va then replHome (lineOf va) (engDie p) else homeOf (lineOf va)

/-- A piece of a line of global A: read at its slice and pinned there, unless it comes from host memory (R63, R354). -/
def State.pinRead (s : State) (p : Nat) (r : Span) : Eng Nat := (s.engRead p r.1 r.2).andThen fun s v =>
  match s.pinAt p (s.readSlice p r.1) (lineOf r.1) with
  | some s => .ok s v
  | none => .wait

/-- One row of A: from the scratchpad, or line by line at the homes (R354). -/
def State.rowOfA (s : State) (p : Nat) (r : MxRun) (m : Nat) : Eng Nat :=
  let a := r.a + r.astr * m
  if r.asrc then engFold (fun s acc x => (s.pinRead p x).andThen fun s v => .ok s (acc + v * 2 ^ (8 * (x.1 - a)))) (pieces a r.aRow) s 0
  else s.spadRead p a r.aRow

/-- Row m of A has been consumed: the lines before the next row lose their pins (R63). -/
def State.rowConsumed (s : State) (p : Nat) (r : MxRun) (m : Nat) : State :=
  if r.asrc then s.unpin p fun line => decide (line < lineOf (r.a + r.astr * (m + 1))) else s

/-- Row m of a started RUN: D is written, and the flags are answered. With no row of A selected nothing of A is read (R355). -/
def State.runRow (s : State) (p : Nat) (k : Cmd) (st : MxStart) (m : Nat) : Eng (BitVec 6) :=
  let r := mxRunOf k.word.toNat
  let n := r.nb * cpbOf st.wf.toNat
  let table := (s.cluster (clusterOf p)).bank st.bank
  let d := r.d + r.dstr * m
  let bad := st.grid.find? fun g => ((s.getCore g.2.2.1).badWord (g.2.2.2 * 0x4000) 0x4000).isSome
  match bad with
  | some g => s.engBad p (g.2.2.2 * 0x4000)
  | none =>
    let s := s.heal (st.grid.map fun g => (s.getCore g.2.2.1).softWords (g.2.2.2 * 0x4000) 0x4000).sum
    (if st.rows.isEmpty then .ok s 0 else s.rowOfA p r m).andThen fun s row =>
    (if r.accum then s.spadRead p d (32 * n) else .ok s 0).andThen fun s old =>
      let start := (List.range n).map fun i => if r.accum then XAcc.ofImage (fieldOf old (32 * i) 32) else XAcc.zero
      let xs := (start.zipIdx).map fun x => s.column r st table row x.2 x.1
      if r.dx then
        let v := wordsOf 32 (xs.map XAcc.image)
        (s.spadPut p d (32 * n) v).andThen fun s _ => .ok s (satFlag (start ++ xs))
      else
        let o := readoutRow r.dfmt (rmResolved r.rm) xs (if rmResolved r.rm = .sr then skipDraws (m * n) k.gen else 0) 0 []
        (s.spadPut p d (vLen r.dfmt n) (packRow r.dfmt o.1)).andThen fun s _ => .ok s (o.2.setWidth 6)

/-- The start conditions of a RUN in the order of R357: the status of the first that fails, or the start. A RUN that a SAVE stopped keeps the bank and the
row list of its start, so that its results are those of an uninterrupted run (R184, R360; log entry 67). -/
def State.runStart (s : State) (p : Nat) (k : Cmd) : Eng MxStart :=
  let r := mxRunOf k.word.toNat
  let c := s.getCore p
  match s.findGrid p r with
  | none => .stop s 0x01 0
  | some (g, wf) =>
    let as_ := if r.asrc then [] else rowSpans r.a r.astr r.aRow r.m
    let sl : List Span := if r.sel then [(r.sl, 4 + 4 * r.k)] else []
    if !wfAccepts wf r.afmt.toNat then .stop s 0x02 0
    else if k.wideBad && cpbOf wf == r.cpbs.2 && r.cpbs.1 != r.cpbs.2 then .stop s 0x07 0
    else if (spansCheck (fun a => if c.stationary a then some 0 else none) (as_ ++ sl)).isSome then .stop s 0x04 0
    else
      let done := fun (s : State) (bank : Bit) (rows : List Nat) => Eng.ok s (⟨bank, BitVec.ofNat 4 wf, g, rows⟩ : MxStart)
      if let some b := k.begun then done s b.bank b.rows
      else if !r.sel then done s (s.cluster (clusterOf p)).active (List.range r.k)
      else (s.spadRead p r.sl 4).andThen fun s n =>
        if r.k < n then .stop s 0x03 0
        else (s.spadRead p (r.sl + 4) (4 * n)).andThen fun s v =>
          let rows := (List.range n).map fun i => fieldOf v (4 * i) 4
          if rows.all (fun x => decide (x < r.k)) && (rows.zip (rows.drop 1)).all (fun x => decide (x.1 < x.2)) then
            done s (s.cluster (clusterOf p)).active rows
          else .stop s 0x03 0

/-- A command of the sequencer ends: its pins go (R63), and VALUE is the offset of a refused granule, else the flags (R49, R357). -/
def State.mxEnd (s : State) (p status value : Nat) (flags : BitVec 6) : State :=
  (s.unpin p fun _ => true).complete p 0 (if status = 0x06 then value else flags.toNat) status

/-- At most `n` further rows of the started RUN of core p; its completion after the last row. -/
def State.runRows (s : State) (p : Nat) : Nat → State
  | 0 => s
  | n + 1 => match ((s.getCore p).queue 0).cmds with
    | [] => s
    | k :: _ => match k.started with
      | none => s
      | some st =>
        let m := (mxRunOf k.word.toNat).m
        match s.runRow p k st k.progress with
        | .wait => s
        | .stop s status v => s.mxEnd p status v k.flags
        | .ok s fl =>
          let fl := k.flags ||| fl
          if m ≤ k.progress + 1 then s.mxEnd p 0 0 fl
          else ((s.modCore p fun c => c.modHead 0 fun k => { k with progress := k.progress + 1, flags := fl }).rowConsumed p
            (mxRunOf k.word.toNat) k.progress).runRows p n

/-- MX_RUN (R354): the head RUN of core p starts at its turn, and up to `rows` rows of it are done. -/
def execMxRun (p rows : Nat) (s : State) : Res := match s.headCmd p 0 1 0 with
  | none => .next s
  | some k =>
    if k.started.isSome then .next (s.runRows p rows)
    else if s.mxNext (clusterOf p) != some p then .next s
    else match (s.mxServe p).runStart p k with
      | .wait => .next s
      | .stop s status _ => .next (s.mxEnd p status 0 0)
      | .ok s st => .next ((s.modCore p fun c => c.modHead 0 fun k => { k with started := some st }).runRows p rows)

/-! ## MX.ACC (R358) -/

/-- One image of ACC, in row-major order: read, cleared if asked, its readout element written. lns6 codes go into their word. -/
def State.accOne (s : State) (p : Nat) (r : MxAcc) (rm : Rm) (acc : Word × BitVec 6) (i : Nat) : Eng (Word × BitVec 6) :=
  let m := i / r.n
  let j := i % r.n
  let a := r.a + r.sstr * m + 32 * j
  let d := r.d + r.dstr * m
  (s.spadRead p a 32).andThen fun s im =>
    let x := XAcc.ofImage im
    let (u, g) := drawIf rm acc.1
    let (code, f) := x.round r.dfmt rm u
    let fl := acc.2 ||| f.setWidth 6 ||| satFlag [x]
    (if r.clr then s.spadPut p a 32 0 else .ok s ()).andThen fun s _ =>
      let w := if isLns r.dfmt then
          let at_ := d + 4 * (j / 5)
          let old := if j % 5 = 0 then 0 else (s.getCore p).spad.readLE at_ 4
          s.spadPut p at_ 4 (old + code * 2 ^ (6 * (j % 5)))
        else s.spadPut p (d + fmtBytes r.dfmt.toNat * j) (fmtBytes r.dfmt.toNat) code
      w.andThen fun s _ => .ok s (g, fl)

/-- The images of a row of ACC in order: the flags, which a stop reports as well (R357, R358). -/
def State.accImages (s : State) (p : Nat) (r : MxAcc) (rm : Rm) : List Nat → Word × BitVec 6 → Eng (BitVec 6)
  | [], acc => .ok s acc.2
  | i :: is, acc => match s.accOne p r rm acc i with
    | .ok s acc => State.accImages s p r rm is acc
    | .wait => .wait
    | .stop s st v => .stop s st (if st = 0x06 then v else acc.2.toNat)

/-- MX_ACC (R358): one row of core p's head ACC, which starts at its turn; its completion after the last row. -/
def execMxAcc (p : Nat) (s : State) : Res := match s.headCmd p 0 1 3 with
  | none => .next s
  | some k =>
    if !k.sent && s.mxNext (clusterOf p) != some p then .next s
    else
      let r := mxAccOf k.word.toNat
      let m := k.progress
      let rm := rmResolved r.rm
      let t := if k.sent then s else s.mxServe p
      let gen := if rm = .sr then skipDraws (m * r.n) k.gen else k.gen
      match t.accImages p r rm ((List.range r.n).map fun j => m * r.n + j) (gen, k.flags) with
      | .wait => .next s
      | .stop t status v => .next (t.complete p 0 v status)
      | .ok t fl =>
        if r.m ≤ m + 1 then .next (t.mxEnd p 0 0 fl)
        else .next (t.modCore p fun c => c.modHead 0 fun k => { k with sent := true, progress := m + 1, flags := fl })

/-! ## SAVE and RESTORE (R359, R360) -/

/-- The first control command of core p. -/
def Core.mxControl (c : Core) : Option Cmd := (c.queue 0).cmds.find? Cmd.isControl

/-- The save record (R359). -/
def saveRecord (t : Cluster) (ks : List Cmd) (es : List (BitVec 64)) : Nat :=
  let progress := match ks with
    | [] => 0
    | k :: _ => k.progress
  ks.length + es.length * 2 ^ 8 + t.active.toNat * 2 ^ 16 + progress * 2 ^ 64 +
    wordsOf 4 (t.bank0.map BitVec.toNat) * 2 ^ (8 * 0x40) + wordsOf 4 (t.bank1.map BitVec.toNat) * 2 ^ (8 * 0x140) +
    wordsOf 32 (ks.map fun k => k.pushed.toNat) * 2 ^ (8 * 0x240) + wordsOf 8 (es.map BitVec.toNat) * 2 ^ (8 * 0x640) +
    wordsOf 8 (ks.map fun k => k.gen.toNat) * 2 ^ (8 * 0x740)

/-- Whether a command of another core uses a macro of core p (R360). -/
def State.lendsMacro (s : State) (p : Nat) : Bool :=
  s.cores.any fun c => c.pcn != p && (c.queue 0).cmds.any fun k => match k.started with
    | some st => st.grid.any fun g => g.2.2.1 == p
    | none => false

/-- A command that a SAVE stops at a row boundary (R360): it uses no macro any more. -/
def Cmd.stop (k : Cmd) : Cmd := { k with started := none, begun := k.holdsBank, sent := false }

/-- The commands of core p are stopped, and their pins go (R63, R360). -/
def State.mxStop (s : State) (p : Nat) : State :=
  (s.unpin p fun _ => true).modCore p fun c => c.modQ 0 fun e => { e with cmds := e.cmds.map Cmd.stop }

/-- MX_SAVE (R360): the core's running command stops; once no command of another core uses the core's macros, its commands and elements go to the record,
and SAVE's element is then the only one. What the push and the start recorded of the commands and the record does not hold, the core keeps (log entry
67). -/
def execMxSave (p : Nat) (s : State) : Res := match (s.getCore p).mxControl with
  | none => .next s
  | some k =>
    if k.code != 1 then .next s
    else
      let s := s.mxStop p
      let q := (s.getCore p).queue 0
      if s.lendsMacro p then .next s
      else
        let ks := (q.cmds.filter Cmd.takesSlot).take 32
        let es := q.elems.take 32
        match s.spadPut p (k.field 127 64) saveBytes (saveRecord (s.cluster (clusterOf p)) ks es) with
        | .wait => .next s
        | .stop s status v => .next (s.modCore p fun c => c.finish 0 Cmd.isControl v status)
        | .ok s _ => .next (s.modCore p fun c =>
            ({ c with kept := keep c.kept (k.field 127 64) (ks.zipIdx.map Prod.swap) }.modQ 0 fun e => ⟨e.cmds.filter fun k => !k.takesSlot, [], []⟩).finish 0 Cmd.isControl ks.length 0)

/-- Command number i of the record at an address, which holds its word and generator state, with its progress: as its push recorded it where the core has
kept that (R25, R357), else as a push of the word would now (log entry 67). It was pushed before any UNSTAT that meets it (R348). -/
def Core.restoreCmd (c : Core) (addr i word : Nat) (gen : Word) (progress : Nat) : Cmd :=
  let k := recalled c.kept addr i word gen (c.recordCmd word 0 gen)
  { k with progress := progress, started := none, sent := false, num := 0, flags := if progress = 0 then 0 else k.flags }

/-- MX_RESTORE (R360): tables, elements and commands come back from the record. -/
def execMxRestore (p : Nat) (s : State) : Res :=
  let c := s.getCore p
  match c.mxControl with
  | none => .next s
  | some k =>
    if k.code != 2 then .next s
    else match s.spadRead p (k.field 127 64) saveBytes with
      | .wait => .next s
      | .stop s status _ => .next (s.modCore p fun c => c.finish 0 Cmd.isControl 0 status)
      | .ok s v =>
        let n := fieldOf v 0 1
        let e := fieldOf v 1 1
        let q := c.queue 0
        if q.cmds.any Cmd.takesSlot || !q.elems.isEmpty || decide (32 < n) || decide (32 < e) then
          .next (s.modCore p fun c => c.finish 0 Cmd.isControl 0 0x05)
        else
          let t := s.cluster (clusterOf p)
          let s := s.putCluster { t with
            bank0 := tableOf (fieldOf v 0x40 256), bank1 := tableOf (fieldOf v 0x140 256), active := BitVec.ofNat 1 (fieldOf v 2 1) }
          let cmds := (List.range n).map fun i =>
            c.restoreCmd (k.field 127 64) i (fieldOf v (0x240 + 32 * i) 32) (BitVec.ofNat 64 (fieldOf v (0x740 + 8 * i) 8)) (if i = 0 then fieldOf v 8 4 else 0)
          let elems := (List.range e).map fun i => BitVec.ofNat 64 (fieldOf v (0x640 + 8 * i) 8)
          .next (s.modCore p fun c =>
            let c := c.modQ 0 fun e => ⟨cmds ++ e.cmds.eraseP Cmd.isControl, elems ++ [element n 0 k.tag], [elems.length]⟩
            if k.cie then c.count k.ctr else c)

end Sys2Proof.Machine
end

