-- ==== Sys2Proof/Machine/Messages.lean ====
section
/-! DEFINITION. MSG instructions and the mailboxes (spec 18 R408 to R412). -/

namespace Sys2Proof.Machine

/-! ## Delivery (R410, R412) -/

/-- What a message meets: its mailbox at a core, a bounce, or nothing to take it. -/
inductive Mailbox where
  | box (p : Nat)
  | bounce
  | stale
  deriving DecidableEq, Repr

/-- Whether a member that is not at its site has finished: its image is kept only while it has not (R215). -/
def Team.gone (t : Team) (i : Nat) : Bool := t.placed && !t.images.any fun m => m.index == i

/-- The mailbox of member i of a team: that of one that has entered a pre-emption bounces until it is resumed, whatever stop follows (R412, R429). -/
def State.memberBox (s : State) (t : Team) (i : Nat) : Mailbox :=
  if t.atSites then
    let c := s.getCore (t.site i)
    if c.finished then .stale
    else match c.irq.preempt with
      | some (_, true) => .bounce
      | _ => if c.irq.entered || decide (16 ≤ c.mailbox.length) then .bounce else .box (t.site i)
  else if t.gone i then .stale
  else .bounce

/-- The mailbox that an address word names (R409, R410). -/
def State.boxOf (s : State) (w : Word) : Mailbox :=
  let v := w.toNat
  if bits v 63 48 != 0 || bits v 31 23 != 0 || bits v 15 11 != 0 then .stale
  else match s.team (bits v 22 16) with
    | none => .stale
    | some t => if t.gen.toNat ≠ bits v 47 32 ∨ t.trec.size ≤ bits v 10 0 then .stale else s.memberBox t (bits v 10 0)

/-- A message reaches what its word names: the state and its status, 0 delivered, 1 bounced, 2 stale (R410). -/
def State.deliver (s : State) (w : Word) (m : Message) : State × Nat := match s.boxOf w with
  | .box p => (s.modCore p fun c => { c with mailbox := c.mailbox ++ [m] }, 0)
  | .bounce => (s, 1)
  | .stale => ({ s with mgmt := { s.mgmt with mdrop := s.mgmt.mdrop + 1 } }, 2)

/-! ## MSEND and MSENDW (R410) -/

/-- The checks of a send, then what it does with its message of a value. -/
def State.send (s : State) (p : Nat) (k : Nat → Message → Res) : Res :=
  s.readRecord p 32 fun v => k v ⟨BitVec.ofNat 256 v, s.ownMailbox⟩

/-- MSEND: the message leaves; d becomes pending. -/
def execMsend (d a b : Reg) (s : State) : Res :=
  s.alone false (wordOf (.msend d a b)) [a, b] [d] <|
    s.send (s.core.reg a).toNat fun v m =>
      if !s.earlierDone s.core.pcn then s.hold v
      else { s with mails := s.mails ++ [(⟨s.owner, d, s.core.reg b, m⟩ : Mail)] }.done fun c => c.setPending d

/-- Whether an MSENDW that issued at a TB has not finished in time (R410). -/
def State.sendLate (s : State) (issue : Word) : Bool := decide (issue.toNat + 2 ^ 20 ≤ s.tb.toNat)

/-- CAUSE 0x0B of the active core's MSENDW (R410). -/
def State.sendStall (s : State) (w : Word) : Res := { s with core := { s.core with msendw := none } }.trap 0x0B w

/-- Whether an earlier message of a core to a mailbox has not reached it. -/
def State.mailAhead (s : State) (p : Nat) (w : Word) : Bool := s.mails.any fun m => m.owner.pcn == p && m.dst == w

/-- MSENDW: it sends again after each bounce, behind the core's earlier messages to the mailbox; its time counts from its issue. -/
def execMsendw (d a b : Reg) (s : State) : Res :=
  s.alone false (wordOf (.msendw d a b)) [a, b] [d] <|
    s.send (s.core.reg a).toNat fun v m =>
      let w := s.core.reg b
      let issue := match s.core.msendw with
        | some (t, _) => t
        | none => s.tb
      let wait := fun (s : State) => { s with core := { s.core with msendw := some (issue, w) } }.hold v
      if s.sendLate issue then s.sendStall w
      else if !s.earlierDone s.core.pcn || s.mailAhead s.core.pcn w then wait s
      else match s.deliver w m with
        | (s, 1) => wait s
        | (s, st) => s.done fun c => { c with msendw := none }.setReg d (BitVec.ofNat 64 st)

/-- MESSAGE_DELIVER (R410): message number n, behind the earlier ones of its core to its mailbox. Its status goes to d. -/
def execMessageDeliver (n : Nat) (s : State) : Res := match s.mails[n]? with
  | none => .next s
  | some m =>
    if (s.mails.take n).any fun x => x.owner.pcn == m.owner.pcn && x.dst == m.dst then .next s
    else
      let (s, st) := { s with mails := dropNth s.mails n }.deliver m.dst m.msg
      .next { s with replies := if m.reg = 0 then s.replies else s.replies ++ [⟨m.owner, m.reg, BitVec.ofNat 64 st, true⟩] }

/-- MSENDW_TIMEOUT (R410): the MSENDW of core p has not finished 2^20 cycles after its issue; an interrupt or a budget trap comes first (R260). -/
def execMsendwTimeout (p : Nat) (s : State) : Res := s.onCore p fun t => match t.core.msendw with
  | some (issue, w) => if t.core.busy || t.core.chunk.isSome || t.preempted || !t.sendLate issue then .next t else t.sendStall w
  | none => .next t

/-! ## MRECV (R411) -/

/-- The oldest message goes to p and its sender's word to d; `none` decides an empty mailbox. -/
def State.receive (s : State) (d : Reg) (p : Nat) (none_ : Res) : Res :=
  if p % 32 ≠ 0 then s.trapN 0x02 p
  else s.storeOperand p 32 <|
    if s.core.ttStall true p 32 then .next s
    else match s.core.mailbox with
      | [] => none_
      | m :: ms => s.done fun c => ({ c with mailbox := ms }.writeDwords p 4 m.data.toNat).setReg d m.sender

def execMrecv (d a : Reg) (s : State) : Res :=
  s.alone false (wordOf (.mrecv d a)) [a] [d] <| s.receive d (s.core.reg a).toNat (.next s)

def execMrecvN (d a : Reg) (s : State) : Res :=
  s.alone false (wordOf (.mrecvN d a)) [a] [d] <|
    s.receive d (s.core.reg a).toNat (s.done fun c => c.setReg d (BitVec.allOnes 64))

end Sys2Proof.Machine
end

