-- ==== Sys2Proof/Machine/Parks.lean ====
section
/-! DEFINITION. Retries and failures of parked accesses, page requests and ATS (spec 05 R117 to R123). -/

namespace Sys2Proof.Machine

/-- What comes of a retry of a parked access. -/
inductive Retry where
  | done (s : State)
  | fault (f : FaultInfo)
  | wait
  | bad (s : State)

/-- A retry that ends in a result of a home. -/
def HomeRes.retry (r : HomeRes) (host : State → Nat → State) (done : State → Line → State) : Retry := match r with
  | .fault _ f => .fault f
  | .wait => .wait
  | .bad s => .bad s
  | .host s hpa => .done (host s hpa)
  | .done s l => .done (done s l)

/-- A retry at another node (R112); it waits while a fold contribution holds its port (R96). -/
def State.retryFar (s : State) (va features : Nat) (k : State) : Retry :=
  if (s.routePort va features).isNone then .fault noRoute
  else if s.heldBehind (s.routePort va features) then .wait
  else match s.remoteFault va with
    | some reason => .fault (faultOf 0x43 reason)
    | none => .done k

/-- A retry that waits for the older far writes of its core to its line (R119). -/
def State.inTurn (s : State) (e : Parked) (r : Retry) : Retry :=
  let p := s.ownerCore e.owner
  let va := e.acc.va.toNat
  let host := match s.leafAt (homeOf (lineOf va)) va with
    | .ok (e, big, _) => paHost (leafPa e) && lineBusy s.hostWrites p (hostPa (leafPa e) + va % pageBytes big)
    | .error _ => false
  if (if s.isOwn va then host else lineBusy s.remoteWrites p va) then .wait else r

/-- A parked read: its value lands (R117). As when it issues, the core's own updates lie over a replicated line (R148), and one with scope S has waited for
the replica of the core's die and its notices (R299). -/
def State.retryRead (s : State) (e : Parked) (n : Nat) (signed seq : Bool) : Retry :=
  let va := e.acc.va.toNat
  let put := fun (s : State) (v : Nat) => s.land e.owner e.acc.reg (loadValue n signed v) true
  let p := s.ownerCore e.owner
  if s.isOwn va then match s.homeRead (dieOf p) va Req.read seq with
    | .done t l =>
      let repl := match t.heldLeaf va with | some e => leafRepl e | none => false
      if seq && repl && !(s.seqDone (dieOf p) && s.noticed p) then .wait
      else .done (put t (lineGet (if seq then l else t.ownUpdates p (lineOf va) l) (va % 64) n))
    | r => r.retry (fun s hpa => put s (s.hostMem.readLE (hpa / 64 * 64 + va % 64) n)) fun s _ => s
  else s.retryFar va 0 (put s (s.remoteMem.readLE va n))

/-- A parked store: its bytes are written (R117, R134). -/
def State.retryWrite (s : State) (e : Parked) (n : Nat) (v : Word) : Retry :=
  let va := e.acc.va.toNat
  if s.isOwn va then
    (s.homeWrite 1536 (s.ownerCore e.owner) va (maskOf va n) (dataAt va n v.toNat) Req.write).retry
      (fun s hpa => { s with hostMem := s.hostMem.writeLE (hpa / 64 * 64 + va % 64) n v.toNat }) fun s _ => s
  else s.retryFar va 0 { s with remoteMem := s.remoteMem.writeLE va n v.toNat }

/-- A parked atomic or CAS: the old value lands. -/
def State.retryRmw (s : State) (e : Parked) (wide : Bit) : Retry :=
  let va := e.acc.va.toNat
  let n := e.acc.kind.size
  let put := fun (s : State) (v : Nat) => s.land e.owner e.acc.reg (oldValue wide v) true
  if s.isOwn va then (s.homeRmw 1536 (s.ownerCore e.owner) va n e.acc.kind.rmw false).retry (fun s _ => s) fun s l => put s (lineGet l (va % 64) n)
  else s.retryFar va 2 (put { s with remoteMem := farAtomic s.remoteMem e.acc } (s.remoteMem.readLE va n))

/-- The retry of a parked access (R118). -/
def State.retry (s : State) (e : Parked) : Retry := s.inTurn e <| match e.acc.kind with
  | .load n sg => s.retryRead e n sg false
  | .lda n sg seq => s.retryRead e n sg seq
  | .store n v | .str n v _ => s.retryWrite e n v
  | .amo _ w _ _ | .cas w _ _ => s.retryRmw e w
  | .bytes cells => s.retryFar e.acc.va.toNat 0 { s with remoteMem := s.remoteMem.writeBuf cells }
  | .nmc r => match s.nmCheck e.acc.va.toNat r e.owner e.acc.reg (s.routePort e.acc.va.toNat 16) with
    | .fault _ f => .fault f
    | .wait => .wait
    | .gone s => .done s

/-- Posts the notice of a parked access (R117): tag, status and reason. -/
def State.parkNotice (s : State) (e : Parked) (tag status reason : Nat) : State :=
  let reg := if e.acc.kind.pends then e.acc.reg.toNat else 0
  s.postTo e.owner (element (noticeValue reason reg e.owner.ws.toNat) status tag)

/-- A parked access fails (R121): its register is poisoned, a store is discarded, and the notice has the status. -/
def State.failParked (s : State) (e : Parked) (status : Nat) : State :=
  (if e.acc.kind.pends then s.land e.owner e.acc.reg 0 false else s).parkNotice e 0xFF02 status e.fault.reason.toNat

/-- The retry of one entry of a pass over the parks: the state, the entry if it stays, and whether its park waits with it. A line with an uncorrectable
error fails the access with status 0x10 and a record: the spec gives a retry no outcome there (log entry 15). Each write is one event of R127's
order: another core that loads p and then q of R167's litmus in two chunks may see the old p and the new q, which the litmus calls forbidden (log entry 78). -/
def State.retryOne (s : State) (e : Parked) : State × Option Parked × Bool := match s.retry e with
  | .wait => (s, some e, true)
  | .done s => (s.parkNotice e 0xFF01 0 0, none, false)
  | .bad s => ((s.logError e.owner.pcn 0 5 e.acc.va 0).failParked e 0x10, none, false)
  | .fault f =>
    let s := match e.acc.kind with
      | .nmc _ => s.noteAt e.place e.acc.va.toNat f
      | _ => s.noteWalk e.place e.acc.va.toNat f
    if f.kind = e.fault.kind ∧ f.reason = e.fault.reason then (s, some { e with owed := e.owed - 1 }, false)
    else (s.parkNotice e 0xFF03 f.kind.toNat f.reason.toNat, some { e with fault := f, owed := e.owed - 1 }, false)

/-- A pass over entries in parking order: each that is owed a retry gets one, unless an entry of its park before it waits (R118). `kept` are the
entries that stay, the last first, and `held` the parks that wait. -/
def State.retryAll : State → List Parked → List Parked → List Nat → State
  | s, [], kept, _ => { s with parks := kept.reverse }
  | s, e :: es, kept, held =>
    if e.owed = 0 ∨ e.place ∈ held then State.retryAll s es (e :: kept) held
    else
      let r := s.retryOne e
      State.retryAll r.1 es (r.2.1.toList ++ kept) (if r.2.2 then e.place :: held else held)

/-- REPLAY_PASS (R118): every park takes a REPLAY up, which owes each of its entries a retry, and performs the retries that are owed. -/
def execReplayPass (s : State) : Res :=
  let t := if s.retryWanted = 0 then s else { s with
    retryWanted := s.retryWanted - 1
    parks := s.parks.map fun e => { e with owed := e.owed + 1 } }
  .next (t.retryAll t.parks [] [])

/-- PAGE_REQUEST_ANSWER (R120): the host's answer to page request number n. A Response Failure stops page requests even where its context has
ended, for the spec makes no difference there (log entry 74). -/
def execPageRequestAnswer (n : Nat) (a : PriAnswer) (s : State) : Res := match s.requests[n]? with
  | none => .next s
  | some r =>
    let s := { s with requests := dropNth s.requests n }
    let s := if a = .responseFailure then { s with mgmt := { s.mgmt with prien := 0 } } else s
    if s.stale r.ctxg then .next { s with mgmt := { s.mgmt with prlate := s.mgmt.prlate + 1 } }
    else if a = .success then .next { s with answered := s.answered ++ [r] }
    else
      let hit := fun (e : Parked) => e.owner.ctxg == s.mgmt.ctxg && (e.fault.kind == 0x40 || e.fault.kind == 0x42) &&
        decide (r.va ≤ e.acc.va.toNat) && decide (e.acc.va.toNat < r.va + 0x10000 * r.count)
      let t := { s with parks := s.parks.filter fun e => !hit e }
      .next ((s.parks.filter hit).foldl (fun t e => t.failParked e e.fault.kind.toNat) t)

/-- ATS_INVALIDATION (R123): the host's invalidation reaches the runtime as an event. -/
def execAtsInvalidation (tag : BitVec 16) (va : Word) (bytes : Nat) (s : State) : Res :=
  .next ({ s with ats := s.ats ++ [tag] }.out (.atsEvent tag va bytes))

/-- ATSACK (R123): the named invalidation completes to the host; in the recovery state the register does not answer (R442). -/
def execAtsack (tag : BitVec 16) (s : State) : Res :=
  if s.mgmt.state ≠ 0 ∧ s.ats.contains tag then .next ({ s with ats := s.ats.erase tag }.out (.atsDone tag)) else .next s

end Sys2Proof.Machine
end

