-- ==== Sys2Proof/Machine/Scalar.lean ====
section
/-! DEFINITION. Integer, address, packed and control instructions (spec 12 R267 to R282). -/

namespace Sys2Proof.Machine

/-! ## ALU (R268) -/

/-- Number of leading zero bits of x; 64 for 0. -/
def clz64 (x : Word) : Nat := if x = 0 then 64 else 63 - Nat.log2 x.toNat

/-- Number of trailing zero bits of a number, at most `n`. -/
def ctzNat : Nat → Nat → Nat
  | 0, _ => 0
  | n + 1, x => if x % 2 = 1 then 0 else 1 + ctzNat n (x / 2)

/-- Number of set bits among the low n. -/
def popNat : Nat → Nat → Nat
  | 0, _ => 0
  | n + 1, x => x % 2 + popNat n (x / 2)

/-- y[5:0]. -/
def shiftOf (y : Word) : Nat := y.toNat % 64

def execAdd (d a b : Reg) (s : State) : Res := s.binary d a b fun x y => x + y
def execSub (d a b : Reg) (s : State) : Res := s.binary d a b fun x y => x - y
def execAnd (d a b : Reg) (s : State) : Res := s.binary d a b fun x y => x &&& y
def execOr (d a b : Reg) (s : State) : Res := s.binary d a b fun x y => x ||| y
def execXor (d a b : Reg) (s : State) : Res := s.binary d a b fun x y => x ^^^ y
def execSll (d a b : Reg) (s : State) : Res := s.binary d a b fun x y => x <<< shiftOf y
def execSrl (d a b : Reg) (s : State) : Res := s.binary d a b fun x y => x >>> shiftOf y
def execSra (d a b : Reg) (s : State) : Res := s.binary d a b fun x y => x.sshiftRight (shiftOf y)
def execSlt (d a b : Reg) (s : State) : Res := s.binary d a b fun x y => boolWord (x.slt y)
def execSltu (d a b : Reg) (s : State) : Res := s.binary d a b fun x y => boolWord (x.ult y)
def execMin (d a b : Reg) (s : State) : Res := s.binary d a b fun x y => if x.sle y then x else y
def execMax (d a b : Reg) (s : State) : Res := s.binary d a b fun x y => if x.sle y then y else x
def execMinu (d a b : Reg) (s : State) : Res := s.binary d a b fun x y => if x.ule y then x else y
def execMaxu (d a b : Reg) (s : State) : Res := s.binary d a b fun x y => if x.ule y then y else x
def execClz (d a : Reg) (s : State) : Res := s.unary d a fun x => BitVec.ofNat 64 (clz64 x)
def execCtz (d a : Reg) (s : State) : Res := s.unary d a fun x => BitVec.ofNat 64 (ctzNat 64 x.toNat)
def execPopc (d a : Reg) (s : State) : Res := s.unary d a fun x => BitVec.ofNat 64 (popNat 64 x.toNat)
def execSext (d a b : Reg) (s : State) : Res := s.binary d a b fun x y => sextW (shiftOf y + 1) x.toNat
def execZext (d a b : Reg) (s : State) : Res := s.binary d a b fun x y => zextW (shiftOf y + 1) x.toNat

/-! ## Multiply and divide (R269, R270) -/

/-- Signed quotient truncated toward zero, with the corner cases of R270. -/
def divSigned (x y : Word) : Word := if y = 0 then BitVec.allOnes 64 else BitVec.ofInt 64 (x.toInt.tdiv y.toInt)

/-- Signed remainder with the sign of x; x for y = 0. -/
def remSigned (x y : Word) : Word := if y = 0 then x else BitVec.ofInt 64 (x.toInt.tmod y.toInt)

def execMul (d a b : Reg) (s : State) : Res := s.binary d a b fun x y => x * y
def execMulh (d a b : Reg) (s : State) : Res := s.binary d a b fun x y => BitVec.ofInt 64 (x.toInt * y.toInt / 2 ^ 64)
def execMulhu (d a b : Reg) (s : State) : Res := s.binary d a b fun x y => BitVec.ofNat 64 (x.toNat * y.toNat / 2 ^ 64)
def execDiv (d a b : Reg) (s : State) : Res := s.binary d a b divSigned
def execDivu (d a b : Reg) (s : State) : Res :=
  s.binary d a b fun x y => if y = 0 then BitVec.allOnes 64 else BitVec.ofNat 64 (x.toNat / y.toNat)
def execRem (d a b : Reg) (s : State) : Res := s.binary d a b remSigned
def execRemu (d a b : Reg) (s : State) : Res := s.binary d a b fun x y => BitVec.ofNat 64 (x.toNat % y.toNat)

/-! ## Immediate forms (R272 to R274) -/

def execAddi (d a : Reg) (i : BitVec 16) (s : State) : Res := s.unary d a fun x => x + immS i
def execAndi (d a : Reg) (i : BitVec 16) (s : State) : Res := s.unary d a fun x => x &&& immZ i
def execOri (d a : Reg) (i : BitVec 16) (s : State) : Res := s.unary d a fun x => x ||| immZ i
def execXori (d a : Reg) (i : BitVec 16) (s : State) : Res := s.unary d a fun x => x ^^^ immZ i
def execSlti (d a : Reg) (i : BitVec 16) (s : State) : Res := s.unary d a fun x => boolWord (x.slt (immS i))
def execSltiu (d a : Reg) (i : BitVec 16) (s : State) : Res := s.unary d a fun x => boolWord (x.ult (immS i))
def execSlli (d a : Reg) (n : BitVec 6) (s : State) : Res := s.unary d a fun x => x <<< n.toNat
def execSrli (d a : Reg) (n : BitVec 6) (s : State) : Res := s.unary d a fun x => x >>> n.toNat
def execSrai (d a : Reg) (n : BitVec 6) (s : State) : Res := s.unary d a fun x => x.sshiftRight n.toNat
def execLi (d : Reg) (i : BitVec 16) (s : State) : Res := s.gate [] [d] <| s.inChunk fun c => (c.setReg d (immS i)).step4
def execLis (d a : Reg) (i : BitVec 16) (s : State) : Res := s.unary d a fun x => (x <<< 16) ||| immZ i
def execAdpc (d : Reg) (i : BitVec 16) (s : State) : Res :=
  s.gate [] [d] <| s.inChunk fun c => (c.setReg d (c.pc + immBranch i)).step4

/-! ## GADDR (R277) -/

def execGaddr (d a b : Reg) (s : State) : Res :=
  s.gate [a, b] [d] <|
    let t := (s.core.reg b).toNat
    if t % 16 ≠ 0 then s.trapN 0x02 t
    else s.localOperand false t 80 <|
      if s.rangeBusy t 80 || s.core.ttStall false t 80 then s.stallOpen
      else s.readOperand t 80 fun v => match distTable v with
        | none => s.trapN 0x01 t
        | some tab => s.inChunk fun c => (c.setReg d (gaddrValue tab (c.reg a))).step4

/-! ## Packed integers (R279) -/

def execPadd (d a b : Reg) (t g : Bit) (w : BitVec 2) (s : State) : Res :=
  s.binary d a b (packed w (g == 1) (t == 1) fun x y => x + y)
def execPsub (d a b : Reg) (t g : Bit) (w : BitVec 2) (s : State) : Res :=
  s.binary d a b (packed w (g == 1) (t == 1) fun x y => x - y)
def execPmul (d a b : Reg) (t g : Bit) (w : BitVec 2) (s : State) : Res :=
  s.binary d a b (packed w (g == 1) (t == 1) fun x y => x * y)
def execPmin (d a b : Reg) (g : Bit) (w : BitVec 2) (s : State) : Res := s.binary d a b (packed w (g == 1) false fun x y => min x y)
def execPmax (d a b : Reg) (g : Bit) (w : BitVec 2) (s : State) : Res := s.binary d a b (packed w (g == 1) false fun x y => max x y)
def execPavg (d a b : Reg) (g : Bit) (w : BitVec 2) (s : State) : Res :=
  s.binary d a b (packed w (g == 1) false fun x y => (x + y + 1) / 2)

/-! ## Branches and jumps (R280 to R282) -/

def execBeq (b a : Reg) (i : BitVec 16) (s : State) : Res := s.branch a b i fun x y => x == y
def execBne (b a : Reg) (i : BitVec 16) (s : State) : Res := s.branch a b i fun x y => x != y
def execBlt (b a : Reg) (i : BitVec 16) (s : State) : Res := s.branch a b i fun x y => x.slt y
def execBge (b a : Reg) (i : BitVec 16) (s : State) : Res := s.branch a b i fun x y => y.sle x
def execBltu (b a : Reg) (i : BitVec 16) (s : State) : Res := s.branch a b i fun x y => x.ult y
def execBgeu (b a : Reg) (i : BitVec 16) (s : State) : Res := s.branch a b i fun x y => y.ule x

def execJ (o : BitVec 26) (s : State) : Res := s.gate [] [] <| s.inChunk fun c => c.jump (c.pc + immJump o)

def execJal (o : BitVec 26) (s : State) : Res :=
  s.gate [] [1] <| s.inChunk fun c => (c.setReg 1 (c.pc + 4)).jump (c.pc + immJump o)

def execJalr (d a : Reg) (i : BitVec 16) (s : State) : Res :=
  s.gate [a] [d] <|
    let t := s.core.reg a + immS i
    if t.toNat % 4 ≠ 0 then s.trap 0x02 t
    else s.inChunk fun c => (c.setReg d (c.pc + 4)).jump t

end Sys2Proof.Machine
end

