-- ==== Sys2Proof/Machine/Tile.lean ====
section
/-! DEFINITION. The tile-walk engines (spec 16 R361, R362). -/

namespace Sys2Proof.Machine

/-- A piece of a tile: its global address, its local offset and its bytes. -/
structure TwPiece where
  g : Nat
  l : Nat
  n : Nat
  deriving DecidableEq, Repr

/-- The pieces of a tile, row by row and ascending within a row (R362). -/
def TwCmd.pieces (t : TwCmd) : List TwPiece := (List.range t.rows).flatMap fun r =>
  (Machine.pieces (t.g + t.gstr * r) t.rb).map fun p => ⟨p.1, t.l + t.lstr * r + (p.1 - (t.g + t.gstr * r)), p.2⟩

/-- A stop at a piece: VALUE is its local offset, or the bitmap of a denied write (R149, R362). -/
def atPiece {α : Type} (l : Nat) (e : Eng α) : Eng α := match e with
  | .stop s st v => .stop s st (if st = 0x44 then v else l)
  | r => r

/-- A piece arrives at the core at position i of the mask, granule by granule: the first byte that a stationary macro refuses gives VALUE's
offset, and the granule before it has been written (R49, R362; log entry 27). -/
def State.twLand (s : State) (k : Nat) (pc : TwPiece) (v i : Nat) : Eng Unit := match s.spadPut (clusterCore k i) pc.l pc.n v with
  | .stop s st a => .stop s st (a + i * 2 ^ 19)
  | r => r

/-- One piece of GET and MCAST. -/
def State.twIn (s : State) (p : Nat) (t : TwCmd) (pc : TwPiece) : Eng Unit :=
  (atPiece pc.l (s.engRead p pc.g pc.n)).andThen fun s v =>
    engFold (fun s _ i => s.twLand (clusterOf p) pc v i) (maskBitsOf t.mask) s ()

/-- One piece of PUT. -/
def State.twOut (s : State) (p : Nat) (t : TwCmd) (pc : TwPiece) : Eng Unit :=
  let q := clusterCore (clusterOf p) ((maskBitsOf t.mask).headD 0)
  (atPiece pc.l (s.spadLoad q pc.l pc.n)).andThen fun s v => atPiece pc.l (s.engPut pc.g pc.n v)

/-- A tile-walk command of core p runs to its end (R362). -/
def State.tileWalk (s : State) (p code : Nat) (f : State → TwCmd → TwPiece → Eng Unit) : Res := match s.headCmd p 1 2 code with
  | none => .next s
  | some k =>
    let t := twOf k.word.toNat
    match engFold (fun s _ pc => f s t pc) t.pieces s () with
    | .wait => .next s
    | .stop s st v => .next (s.complete p 1 v st)
    | .ok s _ => .next (s.complete p 1 (t.rows * t.rb) 0)

/-- TW_GET (R362): the head command of core p's q1. -/
def execTwGet (p : Nat) (s : State) : Res := s.tileWalk p 0 fun s t pc => s.twIn p t pc

/-- TW_PUT (R362). -/
def execTwPut (p : Nat) (s : State) : Res := s.tileWalk p 1 fun s t pc => s.twOut p t pc

/-- TW_MCAST (R362). -/
def execTwMcast (p : Nat) (s : State) : Res := s.tileWalk p 2 fun s t pc => s.twIn p t pc

end Sys2Proof.Machine
end

