-- ==== Sys2Proof/Machine/Dispatch.lean ====
section
/-! DEFINITION. The dispatch: one arm per instruction, each one direct call of its meaning. -/

namespace Sys2Proof.Machine

/-- The meaning of an instruction, operation or event in a state. -/
def exec (i : Instr) (s : State) : Host.Outcome State Fault Refusal :=
  match i with
  | .trap a => Sys2Proof.Machine.execTrap a s
  | .upret a => Sys2Proof.Machine.execUpret a s
  | .tinv a b => Sys2Proof.Machine.execTinv a b s
  | .crd d x => Sys2Proof.Machine.execCrd d x s
  | .cwr a x => Sys2Proof.Machine.execCwr a x s
  | .add d a b => Sys2Proof.Machine.execAdd d a b s
  | .sub d a b => Sys2Proof.Machine.execSub d a b s
  | .and d a b => Sys2Proof.Machine.execAnd d a b s
  | .or d a b => Sys2Proof.Machine.execOr d a b s
  | .xor d a b => Sys2Proof.Machine.execXor d a b s
  | .sll d a b => Sys2Proof.Machine.execSll d a b s
  | .srl d a b => Sys2Proof.Machine.execSrl d a b s
  | .sra d a b => Sys2Proof.Machine.execSra d a b s
  | .slt d a b => Sys2Proof.Machine.execSlt d a b s
  | .sltu d a b => Sys2Proof.Machine.execSltu d a b s
  | .min d a b => Sys2Proof.Machine.execMin d a b s
  | .max d a b => Sys2Proof.Machine.execMax d a b s
  | .minu d a b => Sys2Proof.Machine.execMinu d a b s
  | .maxu d a b => Sys2Proof.Machine.execMaxu d a b s
  | .clz d a => Sys2Proof.Machine.execClz d a s
  | .ctz d a => Sys2Proof.Machine.execCtz d a s
  | .popc d a => Sys2Proof.Machine.execPopc d a s
  | .sext d a b => Sys2Proof.Machine.execSext d a b s
  | .zext d a b => Sys2Proof.Machine.execZext d a b s
  | .mul d a b => Sys2Proof.Machine.execMul d a b s
  | .mulh d a b => Sys2Proof.Machine.execMulh d a b s
  | .mulhu d a b => Sys2Proof.Machine.execMulhu d a b s
  | .div d a b => Sys2Proof.Machine.execDiv d a b s
  | .divu d a b => Sys2Proof.Machine.execDivu d a b s
  | .rem d a b => Sys2Proof.Machine.execRem d a b s
  | .remu d a b => Sys2Proof.Machine.execRemu d a b s
  | .addi d a im => Sys2Proof.Machine.execAddi d a im s
  | .andi d a im => Sys2Proof.Machine.execAndi d a im s
  | .ori d a im => Sys2Proof.Machine.execOri d a im s
  | .xori d a im => Sys2Proof.Machine.execXori d a im s
  | .slti d a im => Sys2Proof.Machine.execSlti d a im s
  | .sltiu d a im => Sys2Proof.Machine.execSltiu d a im s
  | .slli d a n => Sys2Proof.Machine.execSlli d a n s
  | .srli d a n => Sys2Proof.Machine.execSrli d a n s
  | .srai d a n => Sys2Proof.Machine.execSrai d a n s
  | .li d im => Sys2Proof.Machine.execLi d im s
  | .lis d a im => Sys2Proof.Machine.execLis d a im s
  | .adpc d im => Sys2Proof.Machine.execAdpc d im s
  | .gaddr d a b => Sys2Proof.Machine.execGaddr d a b s
  | .padd d a b t sg w => Sys2Proof.Machine.execPadd d a b t sg w s
  | .psub d a b t sg w => Sys2Proof.Machine.execPsub d a b t sg w s
  | .pmul d a b t sg w => Sys2Proof.Machine.execPmul d a b t sg w s
  | .pmin d a b sg w => Sys2Proof.Machine.execPmin d a b sg w s
  | .pmax d a b sg w => Sys2Proof.Machine.execPmax d a b sg w s
  | .pavg d a b sg w => Sys2Proof.Machine.execPavg d a b sg w s
  | .beq b a im => Sys2Proof.Machine.execBeq b a im s
  | .bne b a im => Sys2Proof.Machine.execBne b a im s
  | .blt b a im => Sys2Proof.Machine.execBlt b a im s
  | .bge b a im => Sys2Proof.Machine.execBge b a im s
  | .bltu b a im => Sys2Proof.Machine.execBltu b a im s
  | .bgeu b a im => Sys2Proof.Machine.execBgeu b a im s
  | .j o => Sys2Proof.Machine.execJ o s
  | .jal o => Sys2Proof.Machine.execJal o s
  | .jalr d a im => Sys2Proof.Machine.execJalr d a im s
  | .ldb d a im => Sys2Proof.Machine.execLdb d a im s
  | .ldh d a im => Sys2Proof.Machine.execLdh d a im s
  | .ldw d a im => Sys2Proof.Machine.execLdw d a im s
  | .ldd d a im => Sys2Proof.Machine.execLdd d a im s
  | .ldbu d a im => Sys2Proof.Machine.execLdbu d a im s
  | .ldhu d a im => Sys2Proof.Machine.execLdhu d a im s
  | .ldwu d a im => Sys2Proof.Machine.execLdwu d a im s
  | .stb b a im => Sys2Proof.Machine.execStb b a im s
  | .sth b a im => Sys2Proof.Machine.execSth b a im s
  | .stw b a im => Sys2Proof.Machine.execStw b a im s
  | .std b a im => Sys2Proof.Machine.execStd b a im s
  | .lda d a u sg z => Sys2Proof.Machine.execLda d a u sg z s
  | .str a b sg z => Sys2Proof.Machine.execStr a b sg z s
  | .amoAdd d a b n w => Sys2Proof.Machine.execAmoAdd d a b n w s
  | .amoAnd d a b n w => Sys2Proof.Machine.execAmoAnd d a b n w s
  | .amoOr d a b n w => Sys2Proof.Machine.execAmoOr d a b n w s
  | .amoXor d a b n w => Sys2Proof.Machine.execAmoXor d a b n w s
  | .amoMin d a b n w => Sys2Proof.Machine.execAmoMin d a b n w s
  | .amoMax d a b n w => Sys2Proof.Machine.execAmoMax d a b n w s
  | .amoMinu d a b n w => Sys2Proof.Machine.execAmoMinu d a b n w s
  | .amoMaxu d a b n w => Sys2Proof.Machine.execAmoMaxu d a b n w s
  | .amoSwap d a b n w => Sys2Proof.Machine.execAmoSwap d a b n w s
  | .amoFadd d a b n w => Sys2Proof.Machine.execAmoFadd d a b n w s
  | .amoFmax d a b n w => Sys2Proof.Machine.execAmoFmax d a b n w s
  | .amoFmin d a b n w => Sys2Proof.Machine.execAmoFmin d a b n w s
  | .amoTadd d a b n w => Sys2Proof.Machine.execAmoTadd d a b n w s
  | .cas d a b w => Sys2Proof.Machine.execCas d a b w s
  | .clean a b => Sys2Proof.Machine.execClean a b s
  | .inv a b => Sys2Proof.Machine.execInv a b s
  | .clinv a b => Sys2Proof.Machine.execClinv a b s
  | .pref a b => Sys2Proof.Machine.execPref a b s
  | .fadd d a b r => Sys2Proof.Machine.execFadd d a b r s
  | .fsub d a b r => Sys2Proof.Machine.execFsub d a b r s
  | .fmul d a b r => Sys2Proof.Machine.execFmul d a b r s
  | .fdiv d a b r => Sys2Proof.Machine.execFdiv d a b r s
  | .fsqrt d a r => Sys2Proof.Machine.execFsqrt d a r s
  | .fmin d a b => Sys2Proof.Machine.execFmin d a b s
  | .fmax d a b => Sys2Proof.Machine.execFmax d a b s
  | .feq d a b => Sys2Proof.Machine.execFeq d a b s
  | .flt d a b => Sys2Proof.Machine.execFlt d a b s
  | .fle d a b => Sys2Proof.Machine.execFle d a b s
  | .fclass d a => Sys2Proof.Machine.execFclass d a s
  | .fma d a b c r => Sys2Proof.Machine.execFma d a b c r s
  | .fms d a b c r => Sys2Proof.Machine.execFms d a b c r s
  | .fnma d a b c r => Sys2Proof.Machine.execFnma d a b c r s
  | .fnms d a b c r => Sys2Proof.Machine.execFnms d a b c r s
  | .tadd d a b r => Sys2Proof.Machine.execTadd d a b r s
  | .tsub d a b r => Sys2Proof.Machine.execTsub d a b r s
  | .tmul d a b r => Sys2Proof.Machine.execTmul d a b r s
  | .tdiv d a b r => Sys2Proof.Machine.execTdiv d a b r s
  | .tsqrt d a r => Sys2Proof.Machine.execTsqrt d a r s
  | .tcls d a w => Sys2Proof.Machine.execTcls d a w s
  | .tfma d a b c r => Sys2Proof.Machine.execTfma d a b c r s
  | .tfms d a b c r => Sys2Proof.Machine.execTfms d a b c r s
  | .tfnma d a b c r => Sys2Proof.Machine.execTfnma d a b c r s
  | .tfnms d a b c r => Sys2Proof.Machine.execTfnms d a b c r s
  | .cvt d a p q r t sg => Sys2Proof.Machine.execCvt d a p q r t sg s
  | .vadd d a b f p q sg => Sys2Proof.Machine.execVadd d a b f p q sg s
  | .vsub d a b f p q sg => Sys2Proof.Machine.execVsub d a b f p q sg s
  | .vmul d a b f p q sg => Sys2Proof.Machine.execVmul d a b f p q sg s
  | .vfma d a b f p q sg => Sys2Proof.Machine.execVfma d a b f p q sg s
  | .vmin d a b f p q sg => Sys2Proof.Machine.execVmin d a b f p q sg s
  | .vmax d a b f p q sg => Sys2Proof.Machine.execVmax d a b f p q sg s
  | .vand d a b f p q sg => Sys2Proof.Machine.execVand d a b f p q sg s
  | .vor d a b f p q sg => Sys2Proof.Machine.execVor d a b f p q sg s
  | .vxor d a b f p q sg => Sys2Proof.Machine.execVxor d a b f p q sg s
  | .vshl d a b f p q sg => Sys2Proof.Machine.execVshl d a b f p q sg s
  | .vcmpeq d a b f p q sg => Sys2Proof.Machine.execVcmpeq d a b f p q sg s
  | .vcmplt d a b f p q sg => Sys2Proof.Machine.execVcmplt d a b f p q sg s
  | .vsel d a b f p q sg => Sys2Proof.Machine.execVsel d a b f p q sg s
  | .vexp d a f p q => Sys2Proof.Machine.execVexp d a f p q s
  | .vlog2 d a f p q => Sys2Proof.Machine.execVlog2 d a f p q s
  | .vrcp d a f p q => Sys2Proof.Machine.execVrcp d a f p q s
  | .vrsq d a f p q => Sys2Proof.Machine.execVrsq d a f p q s
  | .vsigm d a f p q => Sys2Proof.Machine.execVsigm d a f p q s
  | .vtanh d a f p q => Sys2Proof.Machine.execVtanh d a f p q s
  | .vmov d a f p q => Sys2Proof.Machine.execVmov d a f p q s
  | .vset d b f p => Sys2Proof.Machine.execVset d b f p s
  | .vcvt d a c f p q => Sys2Proof.Machine.execVcvt d a c f p q s
  | .vgath d a b f p q => Sys2Proof.Machine.execVgath d a b f p q s
  | .vscat d a b f q => Sys2Proof.Machine.execVscat d a b f q s
  | .viota d b f p => Sys2Proof.Machine.execViota d b f p s
  | .vrsum d a f q => Sys2Proof.Machine.execVrsum d a f q s
  | .vrmax d a f q => Sys2Proof.Machine.execVrmax d a f q s
  | .vrmin d a f q => Sys2Proof.Machine.execVrmin d a f q s
  | .vdot d a b f q => Sys2Proof.Machine.execVdot d a b f q s
  | .vclaim d a => Sys2Proof.Machine.execVclaim d a s
  | .vscan d a b f q => Sys2Proof.Machine.execVscan d a b f q s
  | .qpush a q => Sys2Proof.Machine.execQpush a q s
  | .qpushN d a q => Sys2Proof.Machine.execQpushN d a q s
  | .qpop d q => Sys2Proof.Machine.execQpop d q s
  | .qpopN d q => Sys2Proof.Machine.execQpopN d q s
  | .take d a => Sys2Proof.Machine.execTake d a s
  | .spawn a => Sys2Proof.Machine.execSpawn a s
  | .spawnt a => Sys2Proof.Machine.execSpawnt a s
  | .yield a => Sys2Proof.Machine.execYield a s
  | .swp a => Sys2Proof.Machine.execSwp a s
  | .widf d a k => Sys2Proof.Machine.execWidf d a k s
  | .ttload a => Sys2Proof.Machine.execTtload a s
  | .armPush a b c => Sys2Proof.Machine.execArmPush a b c s
  | .armEvent a c => Sys2Proof.Machine.execArmEvent a c s
  | .armWake a c => Sys2Proof.Machine.execArmWake a c s
  | .ctradd a c => Sys2Proof.Machine.execCtradd a c s
  | .ctrrd d c => Sys2Proof.Machine.execCtrrd d c s
  | .waitc d a c => Sys2Proof.Machine.execWaitc d a c s
  | .msend d a b => Sys2Proof.Machine.execMsend d a b s
  | .msendw d a b => Sys2Proof.Machine.execMsendw d a b s
  | .mrecv d a => Sys2Proof.Machine.execMrecv d a s
  | .mrecvN d a => Sys2Proof.Machine.execMrecvN d a s
  | .nmc d a => Sys2Proof.Machine.execNmc d a s
  | .nmres d a => Sys2Proof.Machine.execNmres d a s
  | .nmresAbandon d a => Sys2Proof.Machine.execNmresAbandon d a s
  | .nmstat d a => Sys2Proof.Machine.execNmstat d a s
  | .stat a b w => Sys2Proof.Machine.execStat a b w s
  | .unstat a b => Sys2Proof.Machine.execUnstat a b s
  | .ctbl a => Sys2Proof.Machine.execCtbl a s
  | .ctblBankWrite k => Sys2Proof.Machine.execCtblBankWrite k s
  | .mxRun p rows => Sys2Proof.Machine.execMxRun p rows s
  | .mxSave p => Sys2Proof.Machine.execMxSave p s
  | .mxRestore p => Sys2Proof.Machine.execMxRestore p s
  | .mxAcc p => Sys2Proof.Machine.execMxAcc p s
  | .mxCtswap p => Sys2Proof.Machine.execMxCtswap p s
  | .twGet p => Sys2Proof.Machine.execTwGet p s
  | .twPut p => Sys2Proof.Machine.execTwPut p s
  | .twMcast p => Sys2Proof.Machine.execTwMcast p s
  | .ceCopy p => Sys2Proof.Machine.execCeCopy p s
  | .ceFill p => Sys2Proof.Machine.execCeFill p s
  | .ceMigrate p => Sys2Proof.Machine.execCeMigrate p s
  | .gkGather p => Sys2Proof.Machine.execGkGather p s
  | .gkBag p => Sys2Proof.Machine.execGkBag p s
  | .gkScatadd p => Sys2Proof.Machine.execGkScatadd p s
  | .gkKdir p => Sys2Proof.Machine.execGkKdir p s
  | .gkKgrp p => Sys2Proof.Machine.execGkKgrp p s
  | .gkKprod p => Sys2Proof.Machine.execGkKprod p s
  | .gkKunion p => Sys2Proof.Machine.execGkKunion p s
  | .gkKexp p => Sys2Proof.Machine.execGkKexp p s
  | .gkKbcast p => Sys2Proof.Machine.execGkKbcast p s
  | .gkJtchk p => Sys2Proof.Machine.execGkJtchk p s
  | .clFoldarm p => Sys2Proof.Machine.execClFoldarm p s
  | .clFoldwait p => Sys2Proof.Machine.execClFoldwait p s
  | .nmcRequestCheck n => Sys2Proof.Machine.execNmcRequestCheck n s
  | .nmConfigure c => Sys2Proof.Machine.execNmConfigure c s
  | .nmElementwise c => Sys2Proof.Machine.execNmElementwise c s
  | .nmAggregate c => Sys2Proof.Machine.execNmAggregate c s
  | .nmQuery c => Sys2Proof.Machine.execNmQuery c s
  | .nmResume c => Sys2Proof.Machine.execNmResume c s
  | .nmAbandon c => Sys2Proof.Machine.execNmAbandon c s
  | .foldArrive n => Sys2Proof.Machine.execFoldArrive n s
  | .rootGrant p => Sys2Proof.Machine.execRootGrant p s
  | .loadDataArrives p => Sys2Proof.Machine.execLoadDataArrives p s
  | .replyLands n => Sys2Proof.Machine.execReplyLands n s
  | .earlyCheckFault p => Sys2Proof.Machine.execEarlyCheckFault p s
  | .remoteFaultReply p reason => Sys2Proof.Machine.execRemoteFaultReply p reason s
  | .pageRequestAnswer n a => Sys2Proof.Machine.execPageRequestAnswer n a s
  | .atsInvalidation tag va bytes => Sys2Proof.Machine.execAtsInvalidation tag va bytes s
  | .atsack tag => Sys2Proof.Machine.execAtsack tag s
  | .hostMemRead off => Sys2Proof.Machine.execHostMemRead off s
  | .hostMemWrite off mask data => Sys2Proof.Machine.execHostMemWrite off mask data s
  | .remoteAccessArrives port src va op => Sys2Proof.Machine.execRemoteAccessArrives port src va op s
  | .replUpdateApply die => Sys2Proof.Machine.execReplUpdateApply die s
  | .messageDeliver n => Sys2Proof.Machine.execMessageDeliver n s
  | .msendwTimeout p => Sys2Proof.Machine.execMsendwTimeout p s
  | .triggerPush p => Sys2Proof.Machine.execTriggerPush p s
  | .blockTransfer n => Sys2Proof.Machine.execBlockTransfer n s
  | .pull n => Sys2Proof.Machine.execPull n s
  | .quantumEnd slot => Sys2Proof.Machine.execQuantumEnd slot s
  | .markedSiteTimeout p => Sys2Proof.Machine.execMarkedSiteTimeout p s
  | .teamSwapOut slot => Sys2Proof.Machine.execTeamSwapOut slot s
  | .teamSwapIn slot => Sys2Proof.Machine.execTeamSwapIn slot s
  | .barrierRelease slot => Sys2Proof.Machine.execBarrierRelease slot s
  | .timetableFlit p e im => Sys2Proof.Machine.execTimetableFlit p e im s
  | .phaseEnd slot => Sys2Proof.Machine.execPhaseEnd slot s
  | .interruptEntry p => Sys2Proof.Machine.execInterruptEntry p s
  | .budgetExhausted p => Sys2Proof.Machine.execBudgetExhausted p s
  | .timer p => Sys2Proof.Machine.execTimer p s
  | .doorbell v => Sys2Proof.Machine.execDoorbell v s
  | .mgmtRegisterWrite off v => Sys2Proof.Machine.execMgmtRegisterWrite off v s
  | .zfpLaunch team rec => Sys2Proof.Machine.execZfpLaunch team rec s
  | .linkUp port version features => Sys2Proof.Machine.execLinkUp port version features s
  | .portDown port => Sys2Proof.Machine.execPortDown port s
  | .powerGood firmware verified trained => Sys2Proof.Machine.execPowerGood firmware verified trained s
  | .spdmRequest index => Sys2Proof.Machine.execSpdmRequest index s
  | .scrubStep p => Sys2Proof.Machine.execScrubStep p s
  | .illegalInstruction w => Sys2Proof.Machine.execIllegalInstruction w s
  | .remoteWriteAcknowledgement n => Sys2Proof.Machine.execRemoteWriteAcknowledgement n s
  | .cxlCompletion n => Sys2Proof.Machine.execCxlCompletion n s
  | .eolUpdate src months => Sys2Proof.Machine.execEolUpdate src months s
  | .nop => Sys2Proof.Machine.execNop s
  | .eret => Sys2Proof.Machine.execEret s
  | .wfe => Sys2Proof.Machine.execWfe s
  | .brk => Sys2Proof.Machine.execBrk s
  | .replay => Sys2Proof.Machine.execReplay s
  | .halt => Sys2Proof.Machine.execHalt s
  | .fenceP => Sys2Proof.Machine.execFenceP s
  | .fenceS => Sys2Proof.Machine.execFenceS s
  | .vrel => Sys2Proof.Machine.execVrel s
  | .done => Sys2Proof.Machine.execDone s
  | .bar => Sys2Proof.Machine.execBar s
  | .bars => Sys2Proof.Machine.execBars s
  | .waitp => Sys2Proof.Machine.execWaitp s
  | .replayPass => Sys2Proof.Machine.execReplayPass s
  | .teamAdmission => Sys2Proof.Machine.execTeamAdmission s
  | .teamPlace => Sys2Proof.Machine.execTeamPlace s
  | .start => Sys2Proof.Machine.execStart s
  | .task => Sys2Proof.Machine.execTask s
  | .team => Sys2Proof.Machine.execTeam s
  | .stop => Sys2Proof.Machine.execStop s
  | .endCtx => Sys2Proof.Machine.execEndCtx s
  | .quiescent => Sys2Proof.Machine.execQuiescent s
  | .residencyReport => Sys2Proof.Machine.execResidencyReport s
  | .thermalTrip => Sys2Proof.Machine.execThermalTrip s
  | .executeBoundaryFetch => Sys2Proof.Machine.execExecuteBoundaryFetch s

end Sys2Proof.Machine
end

