-- ==== Sys2Proof/Machine/Flow.lean ====
section
/-! DEFINITION. What a step does around an instruction's meaning: time (log entry 2), the moves of the agents around the cores (log
entries 1, 8, 10, 14, 15), and what a core does next: the close of its chunk (spec 06 R129 to R137), faults and interrupts at the
boundary (05 R111; 19 R418; 09 R205, R206), the fetch (02 R33, R35). -/

namespace Sys2Proof.Machine

/-! ## Time -/

/-- n cycles pass at a core: CYC grows while a context runs, and BG shrinks in a user-mode slice; at 0 the budget trap is due
(R205, R253). -/
def Core.tick (n : Nat) (c : Core) : Core :=
  if c.run != .running then c
  else
    let bg := c.ctl.bg.toNat
    let counts := c.inSlice && c.ctl.mode == .user && decide (0 < bg) && decide (0 < n)
    { c with
      ctl := { c.ctl with cyc := c.ctl.cyc + BitVec.ofNat 64 n, bg := if counts then BitVec.ofNat 64 (bg - n) else c.ctl.bg }
      irq := { c.irq with budget := c.irq.budget || (counts && decide (bg ≤ n)) } }

/-- n cycles pass in the package; a member of a team whose release cycle has come gets its lanes again (R225), and a marked site that has become
idle is reserved (R222). -/
def State.pass (s : State) (n : Nat) : State := ({ s.allCores (Core.tick n) with tb := s.tb + BitVec.ofNat 64 n } : State).regrantDue.settleMarked

/-! ## Moves of the agents around the cores -/

/-- A full set of a slice gives up a line that no MX.RUN pins: a dirty one is written back (R61 to R64). -/
def State.evictL2 (s : State) (slice line : Nat) : State := match s.l2Find slice line with
  | some l =>
    if l.pins.isEmpty && decide (l2WayCount ≤ (s.l2Ways slice line).length) then (s.writeBackLine l).l2Drop slice line else s
  | none => s

/-- A page request leaves while requests are enabled, and is kept until its answer (R120). -/
def State.askPage (s : State) (r : PageRequest) : State :=
  if s.mgmt.prien = 1 ∧ r.va % 0x10000 = 0 ∧ 1 ≤ r.count ∧ r.count ≤ 32 ∧ r.va / 0x200000 = (r.va + 0x10000 * r.count - 1) / 0x200000 then
    { s with requests := s.requests ++ [{ r with ctxg := s.mgmt.ctxg }] }
  else s

/-- A move that is no step of the table (log entry 1). -/
def State.move (s : State) (a : Act) : State := match a with
  | .run _ | .ev _ => s
  | .pass n => s.pass n
  | .evictL1 p line => s.modCore p fun c =>
    if decide (c.l1Held < l1Capacity) || c.specLines.contains line then c else c.l1Drop line
  | .evictL2 slice line => s.evictL2 slice line
  | .replNotice p => match s.notices.find? fun n => n.1 == p with
    | some n => s.arriveOne n
    | none => s
  | .hostStore hpa b => { s with hostMem := s.hostMem.write hpa b }
  | .remoteStore va b => { s with remoteMem := s.remoteMem.write va b }
  | .remoteMap page reason =>
    let rest := s.remoteFaults.filter fun x => x.1 != page
    { s with remoteFaults := match reason with
      | some r => (page, r) :: rest
      | none => rest }
  | .eccSpad p w bad => s.modCore p fun c => { c with ecc := (w, bad) :: c.ecc }
  | .eccDram addr bad =>
    let a := addr / 64 * 64
    if bad then { s with dramBad := a :: s.dramBad } else { s with dramSoft := a :: s.dramSoft }
  | .eccL1 p line => s.modCore p fun c => { c with l1 := c.l1.map fun l => if l.line = line then { l with bad := true } else l }
  | .eccSoft => { s with corrected := s.corrected + 1 }
  | .eccL2 slice line => { s with l2 := s.l2.map fun l => if l.slice = slice ∧ l.line = line then { l with bad := true } else l }
  | .scrubDram addr => s.scrubDram addr
  | .pickCopy p n => s.modCore p fun c => { c with pick := n % copyEngines }
  | .memcPart p n => s.modCore p fun c => { c with part := some n }
  | .slowClean p => s.modCore p fun c => { c with slowClean := true }
  | .cleanLands n => match s.cleans[n]? with
    | some c => s.landClean c
    | none => s
  | .nmRuns chan mpc => s.nmRuns chan mpc
  | .barRead off => s.barRead off
  | .sensors therm pwr => s.sense therm pwr
  | .partners l => { s with partners := l }
  | .pageRequest r => s.askPage r
  | .enableRequests => { s with mgmt := { s.mgmt with prien := 1 } }

/-! ## What a core does next -/

/-- What a step comes to: it has ended, or an instruction or event is performed in a state. -/
inductive Turn where
  | rest (r : Res)
  | perform (i : Instr) (s : State)

/-- The core waits for the commit reservation before it opens a fifth chunk in a row (R136): the state with the reservation or with
its request, and whether it may go on. An interrupt or trap between squashes leaves the row of squashes as it is, so a handler's chunk may be the one that
takes the reservation, and its commit ends the row: the spec does not say (log entry 79). -/
def State.reserve (s : State) : State × Bool :=
  let p := s.core.pcn
  let queue := s.resWait.filter fun q => (s.getCore q).run == .running
  if s.core.streak < 4 || s.core.chunk.isSome || s.reservation == some p then (s, true)
  else if s.holder.isNone && (queue.isEmpty || queue.head? == some p) then
    ({ s with reservation := some p, resWait := queue.filter fun q => q != p }, true)
  else (if s.resWait.contains p then s else { s with resWait := s.resWait ++ [p] }, false)

/-- The timer interrupt is raised once TB has reached DL (R206). -/
def State.raiseTimer (s : State) : State := match execTimer s.core.pcn s with
  | .next t => t
  | _ => s

/-- Whether a late upcall of the active core is due. -/
def State.lateDue (s : State) : Bool := s.lateUpcall.isSome

/-- The fetch and the decoding of the active core's next instruction (R33, R35, R258). It reads the word as the scratchpad holds it: the old word
that a prefetch may still run before an engine write is popped (R35) does not arise here (log entry 76). A single-bit error of it is counted (R443). -/
def State.fetch (s : State) : Turn :=
  if s.core.fetchCause.isSome then .perform .executeBoundaryFetch s
  else
    let a := s.core.pc.toNat
    match s.core.badWord a 4 with
    | some w => .rest (s.machineCheck w)
    | none =>
      let s := s.heal (s.core.softWords a 4)
      let m := s.core.spad
      match decodeBytes (m.read a) (m.read (a + 1)) (m.read (a + 2)) (m.read (a + 3)) with
      | .ok i => .perform i s
      | .error _ => .perform (.illegalInstruction (wordOfBytes (m.read a) (m.read (a + 1)) (m.read (a + 2)) (m.read (a + 3)))) s

/-- Whether an access of an owner that waits for room in a full park is one of the code that the active core runs: its workspace in user mode (R112). -/
def State.ownsNow (s : State) (o : Owner) : Bool :=
  s.ownerCore o == s.core.pcn && o.team == s.owner.team && s.core.ctl.mode == .user && o.ws == s.core.ctl.wpa

/-- The active core stalls between chunks while an access of the workspace that it runs in user mode waits for room in a full park (R112). -/
def State.stalled (s : State) : Bool :=
  s.core.chunk.isNone && (s.remoteWrites.any (fun w => w.held && s.ownsNow w.owner) || s.nmFlight.any fun x => x.held && s.ownsNow x.owner)

/-- An instruction boundary of the active core whose chunk does not close: interrupts, the budget trap, faults that wait, the next
instruction. An interrupt is taken before a fault found by an early check, whose access then issues again (R137, R260), and none while an
AMO or CAS waits for its answer (R302). -/
def State.boundary (s : State) : Turn :=
  let p := s.core.pcn
  let still := s.core.acked || s.core.sent
  if s.intReady then
    .perform (.interruptEntry p) { s with core := { s.core with early := none } }
  else if s.core.budgetDue && !still then .perform (.budgetExhausted p) s
  else if s.core.early.isSome then .perform (.earlyCheckFault p) s
  else if s.lateDue && !still then
    if s.core.chunk.isSome then .rest (.next { s with core := s.core.close }) else .rest (.next (s.lateUpcall.getD s))
  else if s.stalled then .rest (.next s)
  else
    let r := s.reserve
    if r.2 then r.1.fetch else .rest (.next r.1)

/-- The active core's turn, time having passed. -/
def State.coreTurn (s : State) : Turn :=
  let s := s.raiseTimer
  if s.core.run != .running || s.core.out.isSome then .rest (.next s)
  else match s.core.chunk with
    | some k =>
      if !k.closing then s.boundary
      else if k.count = 0 || k.wsig = 0 || !s.submits.contains s.core.pcn then .rest (.next (s.closeStep k))
      else .perform (.rootGrant s.core.pcn) s
    | none => s.boundary

/-- Whether an instruction of the table is an operation or event that the agenda may name: it has no word, and is not the trap that a
fetched word takes. -/
def agendaEvent (i : Instr) : Bool := match i with
  | .illegalInstruction _ => false
  | i => (encode i).isNone

/-- The turn of a step: the head of the agenda, else the active core (log entry 1). -/
def State.turn (s : State) : Turn := match s.agenda with
  | [] => (s.pass s.pace).coreTurn
  | .run p :: rest => if p < 1536 then (({ s with agenda := rest }.pass s.pace).select p).coreTurn else .rest (.next { s with agenda := rest })
  | .ev i :: rest => if agendaEvent i then .perform i { s with agenda := rest }.settleMarked else .rest (.next { s with agenda := rest })
  | a :: rest => .rest (.next ({ s with agenda := rest }.move a))

/-- Whether the power stays off in this step: nothing but POWER_GOOD ends that (R442, R446); what other nodes are connected may change meanwhile. -/
def State.dark (s : State) : Bool := !s.powered && match s.agenda with
  | .ev (.powerGood ..) :: _ => false
  | .partners _ :: _ => false
  | _ => true

/-- A state in which the very next step of the active core fetches and runs the word w: the core runs, nothing waits at it, and the
word stands at its PC, which is made one that may be fetched. -/
def State.withWord (s : State) (w : BitVec 32) : State :=
  let c := s.core
  let pc := if c.fetchCause.isSome then 0 else c.pc.toNat
  let c := { c with
    run := .running, chunk := none, early := none, out := none, late := [], irq := Irq.reset, streak := 0, acked := false
    sent := false
    pc := BitVec.ofNat 64 pc }
  { s with
    agenda := [], powered := true, core := c.pokeLE pc 4 w.toNat
    remoteWrites := s.remoteWrites.map fun w => { w with held := false }, nmFlight := s.nmFlight.map fun x => { x with held := false } }

end Sys2Proof.Machine
end

