-- ==== Sys2Proof/Machine/Step.lean ====
section
/-! DEFINITION. The step, and where the next instruction is fetched from. -/

namespace Sys2Proof.Machine

/-- One step of the package: an instruction of the active core, an operation or event, or a move of an agent around it. -/
def step (s : State) : Host.Outcome State Fault Refusal :=
  if s.dark then .fault .noPower
  else match s.turn with
    | .rest r => r
    | .perform i t => exec i t

/-- s with the instruction that the table's bits w spell where step fetches its next instruction (log entry 7). -/
def State.withFetchWord (s : State) (nbits w : Nat) : State := s.withWord (BitVec.ofNat 32 (w % 2 ^ nbits))

end Sys2Proof.Machine
end

