-- ==== Sys2Proof/Safety.lean ====
section
/-! DEFINITION. What counts as a safe run, and the terms that claims use: when an instruction may execute, and what it leaves unchanged. -/

namespace Sys2Proof

/-- A step answers a next state: it neither faults nor refuses. -/
def Safety.goesOn (s : Machine.State) : Prop := ∃ t, Machine.step s = .next t

/-- A run of n steps that never stops. -/
def Safety.runs (n : Nat) (s : Machine.State) : Prop := ∃ t, core.run n s = .next t

/-! ## The registers of an instruction (R42, R259) -/

/-- The registers that an instruction reads, in the order in which poison is looked for, and those that it writes, a post-incremented pointer among them;
the mark says that it acts alone, outside any chunk (R129, R259). -/
def Instr.regs (i : Instr) : Option (Bool × List Reg × List Reg) :=
  let inc (b : Bit) (l : List Reg) : List Reg := if b = 1 then l else []
  match i with
  | .add d a b | .sub d a b | .and d a b | .or d a b | .xor d a b | .sll d a b | .srl d a b | .sra d a b | .slt d a b | .sltu d a b | .min d a b
  | .max d a b | .minu d a b | .maxu d a b | .sext d a b | .zext d a b | .mul d a b | .mulh d a b | .mulhu d a b | .div d a b | .divu d a b
  | .rem d a b | .remu d a b | .gaddr d a b | .padd d a b _ _ _ | .psub d a b _ _ _ | .pmul d a b _ _ _ | .pmin d a b _ _ | .pmax d a b _ _
  | .pavg d a b _ _ | .fadd d a b _ | .fsub d a b _ | .fmul d a b _ | .fdiv d a b _ | .fmin d a b | .fmax d a b | .feq d a b | .flt d a b
  | .fle d a b | .tadd d a b _ | .tsub d a b _ | .tmul d a b _ | .tdiv d a b _ => some (false, [a, b], [d])
  | .fma d a b c _ | .fms d a b c _ | .fnma d a b c _ | .fnms d a b c _ | .tfma d a b c _ | .tfms d a b c _ | .tfnma d a b c _
  | .tfnms d a b c _ => some (false, [a, b, c], [d])
  | .clz d a | .ctz d a | .popc d a | .addi d a _ | .andi d a _ | .ori d a _ | .xori d a _ | .slti d a _ | .sltiu d a _ | .slli d a _ | .srli d a _
  | .srai d a _ | .lis d a _ | .jalr d a _ | .ldb d a _ | .ldh d a _ | .ldw d a _ | .ldd d a _ | .ldbu d a _ | .ldhu d a _ | .ldwu d a _
  | .fsqrt d a _ | .fclass d a | .tsqrt d a _ | .tcls d a _ | .cvt d a _ _ _ _ _ => some (false, [a], [d])
  | .li d _ | .adpc d _ | .crd d _ => some (false, [], [d])
  | .beq b a _ | .bne b a _ | .blt b a _ | .bge b a _ | .bltu b a _ | .bgeu b a _ | .stb b a _ | .sth b a _ | .stw b a _
  | .std b a _ => some (false, [a, b], [])
  | .j _ => some (false, [], [])
  | .jal _ => some (false, [], [1])
  | .amoAdd d a b _ _ | .amoAnd d a b _ _ | .amoOr d a b _ _ | .amoXor d a b _ _ | .amoMin d a b _ _ | .amoMax d a b _ _ | .amoMinu d a b _ _
  | .amoMaxu d a b _ _ | .amoSwap d a b _ _ | .amoFadd d a b _ _ | .amoFmax d a b _ _ | .amoFmin d a b _ _ | .amoTadd d a b _ _ | .msend d a b
  | .msendw d a b => some (true, [a, b], [d])
  | .cas d a b _ => some (true, [a, b, d], [d])
  | .lda d a _ _ _ | .qpushN d a _ | .take d a | .widf d a _ | .waitc d a _ | .mrecv d a | .mrecvN d a | .nmc d a | .nmres d a | .nmresAbandon d a
  | .nmstat d a | .vclaim d a => some (true, [a], [d])
  | .str a b _ _ | .clean a b | .inv a b | .clinv a b | .pref a b | .tinv a b | .stat a b _ | .unstat a b | .armPush a b _ => some (true, [a, b], [])
  | .trap a | .upret a | .cwr a _ | .qpush a _ | .spawn a | .spawnt a | .yield a | .swp a | .ttload a | .armEvent a _ | .armWake a _ | .ctradd a _
  | .ctbl a => some (true, [a], [])
  | .qpop d _ | .qpopN d _ | .ctrrd d _ => some (true, [], [d])
  | .nop | .eret | .wfe | .brk | .replay | .halt | .fenceP | .fenceS | .vrel | .done | .bar | .bars | .waitp => some (true, [], [])
  | .vadd d a b _ p q s | .vsub d a b _ p q s | .vmul d a b _ p q s | .vfma d a b _ p q s | .vmin d a b _ p q s | .vmax d a b _ p q s
  | .vand d a b _ p q s | .vor d a b _ p q s | .vxor d a b _ p q s | .vshl d a b _ p q s | .vcmpeq d a b _ p q s | .vcmplt d a b _ p q s
  | .vsel d a b _ p q s => some (true, [a, b, d], inc p [d] ++ inc q (if s = 1 then [a] else [a, b]))
  | .vexp d a _ p q | .vlog2 d a _ p q | .vrcp d a _ p q | .vrsq d a _ p q | .vsigm d a _ p q | .vtanh d a _ p q | .vmov d a _ p q
  | .vcvt d a _ _ p q => some (true, [a, d], inc p [d] ++ inc q [a])
  | .vset d b _ p | .viota d b _ p => some (true, [b, d], inc p [d])
  | .vgath d a b _ p q => some (true, [a, b, d], inc p [d] ++ inc q [b])
  | .vscat d a b _ q => some (true, [a, b, d], inc q [a, b])
  | .vrsum d a _ q | .vrmax d a _ q | .vrmin d a _ q => some (true, [a], d :: inc q [a])
  | .vdot d a b _ q | .vscan d a b _ q => some (true, [a, b], d :: inc q [a, b])
  | _ => none

/-- An instruction that only system mode may execute (R251, R252, R288, R291, R292). -/
def Instr.systemOnly (i : Instr) : Bool := match i with
  | .eret | .tinv _ _ | .halt => true
  | .cwr _ x => !(x == 0x003 || x == 0x00D || x == 0x010 || x == 0x011)
  | .crd _ x => x == 0x004 || decide (0x006 ≤ x.toNat ∧ x.toNat ≤ 0x009)
  | _ => false

end Sys2Proof

namespace Sys2Proof.Machine

/-! ## When an instruction may execute (spec 11 R259) -/

/-- The active core can begin an instruction: it runs, waits for no data, has no fault to park, and its chunk is not closing. -/
def State.starts (s : State) : Prop :=
  s.core.run = .running ∧ s.core.out = none ∧ s.core.early = none ∧ s.core.closing = false

/-- No register that the instruction reads or writes is pending, and none that it reads is poisoned (R42, R259). -/
def State.regsFree (s : State) (reads writes : List Reg) : Prop :=
  (∀ r ∈ reads ++ writes, s.core.pending r = false) ∧ ∀ r ∈ reads, s.core.poisoned r = false

/-- An instruction that runs inside the open chunk may execute. -/
def State.issues (s : State) (reads writes : List Reg) : Prop := s.starts ∧ s.regsFree reads writes

/-- An instruction that acts alone may execute: no chunk is open either (R129). -/
def State.issuesAlone (s : State) (reads writes : List Reg) : Prop :=
  s.starts ∧ s.core.chunk = none ∧ s.regsFree reads writes

/-- The local protection unit grants an access of a granule (R17 to R19): an enabled region that allows its kind holds it. -/
def Core.lpuOpen (c : Core) (store : Bool) (g : Nat) : Prop := ∃ i : Fin 8, let b := c.ctl.lpb[i]
  b.en = 1 ∧ (if store then b.wr = 1 else b.rd = 1) ∧ b.base.toNat ≤ g ∧ g ≤ (c.ctl.lpl[i]).toNat

/-- A local address that the core may access (R20, R21): backed, and in user mode at or above XB and granted by the LPU; a store must not
lie in a stationary macro. -/
def Core.mayAccess (c : Core) (store : Bool) (va : Nat) : Prop :=
  va < 0x60000 ∧ (c.ctl.mode = .user → c.xb ≤ va ∧ c.lpuOpen store (va / 64)) ∧ (store = true → c.stationary va = false)

/-- In user mode, the execute boundary or the local protection unit bars an access of a local address (R20, R21). -/
def Core.barred (c : Core) (store : Bool) (va : Nat) : Prop := c.ctl.mode = .user ∧ (va < c.xb ∨ ¬c.lpuOpen store (va / 64))

/-- The cause of the trap that R21 gives a local address: unbacked or barred; for a store, in a stationary macro. -/
def Core.localRefused (c : Core) (store : Bool) (va cause : Nat) : Prop :=
  (0x60000 ≤ va ∨ c.barred store va) ∧ cause = 0x03 ∨
    store = true ∧ va < 0x60000 ∧ ¬c.barred store va ∧ c.stationary va = true ∧ cause = 0x06

/-- The cause of the trap that R21 gives an access of n bytes at va: misaligned, a local address that is refused, or out of range. -/
def Core.refused (c : Core) (store : Bool) (va n cause : Nat) : Prop :=
  va % n ≠ 0 ∧ cause = 0x02 ∨ va % n = 0 ∧ (va < 2 ^ 32 ∧ c.localRefused store va cause ∨ 2 ^ 57 ≤ va ∧ cause = 0x04)

/-- The same for LDA, STR, atomics and CAS, which take no local address (R21). -/
def refusedGlobal (va n cause : Nat) : Prop :=
  va % n ≠ 0 ∧ cause = 0x02 ∨ va % n = 0 ∧ (va < 2 ^ 32 ∧ cause = 0x03 ∨ 2 ^ 57 ≤ va ∧ cause = 0x04)

/-- The first byte of a list of ranges, in the order of the list and then ascending, at which a granule of 64 bytes meets a condition (R22): the first byte of
the range or of the granule. -/
def firstGranule (rs : List (Nat × Nat)) (bad : Nat → Prop) (at_ : Nat) : Prop :=
  let starts (r : Nat × Nat) (a : Nat) : Prop := r.1 ≤ a ∧ a < r.1 + r.2 ∧ (a = r.1 ∨ a % 64 = 0)
  ∃ (i : Nat) (r : Nat × Nat), rs[i]? = some r ∧ starts r at_ ∧ bad at_ ∧ (∀ a, starts r a → a < at_ → ¬bad a) ∧
    ∀ j q, j < i → rs[j]? = some q → ∀ a, starts q a → ¬bad a

/-- An address of the core's own node (R10), aligned to its size (R21). -/
def Core.ownNode (c : Core) (va n : Nat) : Prop := va % n = 0 ∧ 2 ^ 32 ≤ va ∧ va < 2 ^ 57 ∧ nodeOf va = c.ctl.node.toNat

/-- An address of another node (R10), aligned to its size. -/
def Core.otherNode (c : Core) (va n : Nat) : Prop := va % n = 0 ∧ 2 ^ 32 ≤ va ∧ va < 2 ^ 57 ∧ nodeOf va ≠ c.ctl.node.toNat

/-! ## What stays unchanged -/

/-- Everything but the active core is as it was: every other core, all of memory, every queue, cache and engine. -/
def onlyCore (s t : State) : Prop := { t with core := s.core } = s

/-- Of the active core, only what the open chunk of an instruction may change has changed: registers, poison bits, PC, the chunk's record
and VPROG, which is 0 afterwards (R332). -/
def chunkCore (c k : Core) : Prop :=
  { k with regs := c.regs, pois := c.pois, pc := c.pc, chunk := c.chunk, vprog := c.vprog } = c ∧ k.vprog = 0

/-- The chunk's buffers hold what they held: a byte of the scratchpad outside the register image of the workspace, and a buffered byte of
global memory, read as before. -/
def buffersKept (c k : Core) : Prop :=
  (∀ a, a < c.wp ∨ c.wp + 256 ≤ a → k.localByte a = c.localByte a) ∧ ∀ a, bufByte k.gbuf a = bufByte c.gbuf a

/-- Every register but d, with its poison bit, is as it was. -/
def otherRegs (c k : Core) (d : Reg) : Prop := ∀ r, r ≠ d → k.reg r = c.reg r ∧ k.poisoned r = c.poisoned r

/-- The frame of an instruction in the open chunk that writes register d and nothing else: every flag, special register and byte of memory
stays. -/
def regFrame (s t : State) (d : Reg) : Prop :=
  onlyCore s t ∧ chunkCore s.core t.core ∧ buffersKept s.core t.core ∧ otherRegs s.core t.core d

/-- Register d holds v, and is not poisoned; g0 stays zero (R250, R42). -/
def holds (c : Core) (d : Reg) (v : Word) : Prop := c.reg d = (if d = 0 then 0 else v) ∧ c.poisoned d = false

/-- The instruction has been counted in its chunk: the number of its instructions has grown by one and the 256th closes it; a new chunk
starts with this instruction, with the copies that a squash puts back (R129, R130). -/
def counted (c k : Core) : Prop := k.chunk = some (match c.chunk with
  | some y => { y with count := y.count + 1, closing := y.closing || decide (255 ≤ y.count) }
  | none => {
      count := 1, pc0 := c.pc, regs0 := c.regs, pend0 := c.pend, pois0 := c.pois, fflags0 := c.ctl.fflags, gen0 := c.gen
      rsig := 0, wsig := 0, gbuf := [], dests := [], sbuf := [], sstores := 0, closing := false })

/-- A write of register d inside the chunk, with PC + 4: what every register instruction does. -/
def writesReg (s t : State) (d : Reg) (v : Word) : Prop :=
  holds t.core d v ∧ t.core.pc = s.core.pc + 4 ∧ regFrame s t d ∧ counted s.core t.core

/-- The core has executed an instruction alone (R129, R135): RET has grown by one, VPROG is 0, nothing that it copied at its issue is kept, PC is 4
further, and the rest of the core is `k`. -/
def Core.doneFrom (k : Core) : Core :=
  { k with pc := k.pc + 4, vprog := 0, copied := none, unstat := none, ctl := { k.ctl with ret := k.ctl.ret + 1 } }

/-- The frame of an instruction that executes alone and writes register d of the core and nothing else. -/
def aloneReg (s t : State) (d : Reg) (v : Word) : Prop :=
  holds t.core d v ∧ otherRegs s.core t.core d ∧
    t = { s with core := { s.core.doneFrom with regs := t.core.regs, pois := t.core.pois } }

/-- The home slice holds an own-node line, not replicated and without an error, under a leaf that grants the access, and no commit reservation
defers a write of it: an access is then performed at that slice at once (R62, R107, R136, R443). -/
def State.heldAtHome (s : State) (va : Nat) (q : Req) (l : L2Line) : Prop :=
  s.l2Find (homeOf (lineOf va)) (lineOf va) = some l ∧ l.retrans = false ∧ l.bad = false ∧ leafCheck l.leaf false q = none ∧ paHost l.pa = false ∧
    leafRepl l.leaf = false ∧ s.deferred s.core.pcn (sigBit (lineOf va)) = false

/-- What one numbered write of n bytes at an own-node address does (R59, R132, R134, R135): the line at its home is dirty and holds the
bytes of v, its other bytes are kept, one number has been given, no L1 holds the line, DRAM is as before, and of the other cores every
one whose chunk has the line in its signature has been squashed: it stands at its chunk's first instruction again. -/
def writtenAtHome (s t : State) (va n v : Nat) (l : L2Line) : Prop :=
  (∃ m, t.l2Find (homeOf (lineOf va)) (lineOf va) = some m ∧ m.dirty = true ∧ lineGet m.data (va % 64) n = v % 2 ^ (8 * n) ∧
    ∀ k, k < 64 → k < va % 64 ∨ va % 64 + n ≤ k → lineByte m.data k = lineByte l.data k) ∧
  t.commits = s.commits + 1 ∧ t.dram = s.dram ∧ (∀ c ∈ t.cores, c.pcn < 1536 → c.l1Find (lineOf va) = none) ∧
  t.others.length = s.others.length ∧ ∀ (i : Nat) (c : Core) (k : Chunk), s.others[i]? = some c → c.pcn < 1536 → c.chunk = some k →
    (k.rsig ||| k.wsig).getLsbD (sigOf (lineOf va)) = true →
    ∃ e : Core, t.others[i]? = some e ∧ e.pcn = c.pcn ∧ e.chunk = none ∧ e.pc = k.pc0 ∧ e.regs = k.regs0 ∧ e.ctl.sqz = c.ctl.sqz + 1

/-- A write notice under a signature has reached a core (R59, R132, R135): its Clean lines under the signature are gone, and an open chunk
that meets the signature is squashed: the lines that it stored to are Invalid, its copies are back, PC is its first instruction, and it has
been counted. -/
def noticed (c k : Core) (sig : BitVec 1024) : Prop :=
  (∀ x, k.l1Find x = if sig.getLsbD (sigOf x) = true ∨ (∃ y, c.chunk = some y ∧ (y.rsig ||| y.wsig) &&& sig ≠ 0 ∧ x ∈ y.lines) then none else c.l1Find x) ∧
    match c.chunk with
    | none => k = { c with l1 := k.l1 }
    | some y => k = if (y.rsig ||| y.wsig) &&& sig = 0 then { c with l1 := k.l1 } else { c with
        l1 := k.l1, regs := y.regs0, pend := y.pend0, pois := y.pois0, pc := y.pc0, gen := y.gen0, chunk := none, streak := c.streak + 1
        early := none, out := none, ctl := { c.ctl with fflags := y.fflags0, sqz := c.ctl.sqz + 1 } }

/-- A value of n little-endian bytes, extended with its sign or with zeros to 64 bits (R4, R266, R294). -/
def bytesValue (v : Word) (n : Nat) (signed : Bool) (byte : Nat → Byte) : Prop :=
  (∀ k, k < n → v.extractLsb' (8 * k) 8 = byte k) ∧ ∀ j, 8 * n ≤ j → j < 64 → v.getLsbD j = (signed && v.getLsbD (8 * n - 1))

/-! ## Workspaces and traps -/

/-- The register cache of k is the one that the workspace at `new` gives a core c that leaves its own workspace (R38, R39): the image at
`new`, or c's own registers when c is already there. -/
def switched (c k : Core) (new : Nat) : Prop :=
  k.wp = new ∧ (∀ r, r ≠ 0 → k.reg r = if new = c.wp then c.reg r else c.spad.dword (new + 8 * r.toNat)) ∧
    (∀ r, r ≠ 0 → k.pending r = if new = c.wp then c.pending r else bitAt (c.spad.readLE new 4) r.toNat) ∧
    ∀ r, r ≠ 0 → k.poisoned r = if new = c.wp then c.poisoned r else bitAt (c.spad.readLE (new + 4) 4) r.toNat

/-- A scratchpad holds the register cache of c at c's workspace (R38, R39). -/
def imageWritten (c : Core) (m : Memory) : Prop :=
  ∀ r, r ≠ 0 → m.dword (c.wp + 8 * r.toNat) = c.reg r ∧ bitAt (m.readLE c.wp 4) r.toNat = c.pending r ∧
    bitAt (m.readLE (c.wp + 4) 4) r.toNat = c.poisoned r

/-- An address lies in one of a list of ranges, first byte and length. -/
def inRanges (a : Nat) (rs : List (Nat × Nat)) : Prop := ∃ r ∈ rs, r.1 ≤ a ∧ a < r.1 + r.2

/-- A trap of a cause can be entered (R417): WP is not TWP, the switch passes its checks and the vector may be fetched. -/
def State.trapReady (s : State) (cause : Nat) : Prop :=
  s.core.wp ≠ s.core.twp ∧ s.core.switchCheck s.core.twp = none ∧ s.core.switchBad s.core.twp = none ∧ s.core.tv + 16 * cause < s.core.xb

/-- TrapEntry of R417 has happened, and nothing else: the save area of the interrupted workspace, the switch, the trap record, the mode, the
cause registers and PC; single-bit errors of the image are counted (R443). -/
def trapTaken (s t : State) (cause : Nat) (tval epc : Word) : Prop :=
  let c := s.core
  let k := t.core
  switched c k c.twp ∧ imageWritten c k.spad ∧
    k.spad.readLE (c.wp + 0x140) 8 = c.vprog.toNat ∧ k.spad.dword (c.wp + 0x148) = c.gen ∧
    k.spad.readLE (c.wp + 0x150) 8 = c.nreq.toNat + (if c.wake then 512 else 0) ∧
    k.spad.readLE (c.twp + 0x100) 8 = c.wp ∧ k.spad.readLE (c.twp + 0x108) 8 = (if c.ctl.mode = .system then 1 else 0) ∧
    (∀ a, ¬inRanges a [(c.wp, 256), (c.wp + 0x140, 24), (c.twp + 0x100, 16)] → k.spad.read a = c.spad.read a) ∧
    t = { s.heal (c.switchSoft c.twp) with core := { c with
      regs := k.regs, pend := k.pend, pois := k.pois, spad := k.spad, ecc := k.ecc, pc := BitVec.ofNat 64 (c.tv + 16 * cause)
      vprog := 0, waiting := false, taking := false, early := none, copied := none, unstat := none
      ctl := { c.ctl with wpa := c.ctl.twa, mode := .system, cause := BitVec.ofNat 8 cause, tval := tval, epc := epc.extractLsb' 2 62 } } }

/-! ## Rounding instructions -/

/-- The draw of a rounding mode from a generator state (R194, R314): one under SR, none under any other mode; and the state after it. -/
def drawn (rm : Rm) (gen : Word) : Nat × Word := if rm = .sr then draw gen else (0, gen)

/-- A scalar instruction in the open chunk writes v to d, adds flags to FFLAGS and leaves the generator in a state: the whole effect of a
rounding instruction (R174, R312, R314). -/
def roundsTo (s t : State) (d : Reg) (v : Word) (fl : Flg) (gen : Word) : Prop :=
  holds t.core d v ∧ t.core.pc = s.core.pc + 4 ∧ t.core.ctl = { s.core.ctl with fflags := s.core.ctl.fflags ||| fl } ∧ t.core.gen = gen ∧
    onlyCore s t ∧ chunkCore { s.core with ctl := t.core.ctl, gen := gen } t.core ∧ buffersKept s.core t.core ∧
    otherRegs s.core t.core d ∧ counted s.core t.core

/-- The number that an IEEE code holds, in units of the least subnormal; an infinity counts as the power of two after the largest finite one
(R170). -/
def Ieee.units (f : Ieee) (x : Nat) : Int :=
  let mag := x % 2 ^ (f.width - 1)
  let fr := mag % 2 ^ (f.prec - 1)
  let ex := mag / 2 ^ (f.prec - 1)
  let m : Nat := if ex = 0 then fr else (2 ^ (f.prec - 1) + fr) * 2 ^ (ex - 1)
  if 2 ^ (f.width - 1) ≤ x then -m else m

/-- A code is that of a finite number. -/
def Ieee.isFinite (f : Ieee) (x : Nat) : Prop := x < 2 ^ f.width ∧ x % 2 ^ (f.width - 1) < f.infCode

/-- Units of the least subnormal that make 1. -/
def Ieee.one (f : Ieee) : Nat := 2 ^ ((f.prec : Int) - 1 - f.emin).toNat

/-- The classes of an IEEE code (R170): a NaN, one that signals, an infinity, a zero, and the sign. -/
def Ieee.isNaN (f : Ieee) (x : Nat) : Bool := decide (f.infCode < x % 2 ^ (f.width - 1))
def Ieee.isSig (f : Ieee) (x : Nat) : Bool := f.isNaN x && decide (x % 2 ^ (f.width - 1) < f.nanCode)
def Ieee.isInf (f : Ieee) (x : Nat) : Bool := x % 2 ^ (f.width - 1) == f.infCode
def Ieee.isZero (f : Ieee) (x : Nat) : Bool := x % 2 ^ (f.width - 1) == 0
def Ieee.isNeg (f : Ieee) (x : Nat) : Bool := decide (2 ^ (f.width - 1) ≤ x)

/-- A magnitude code with a sign, and a code with the other sign. -/
def Ieee.withSign (f : Ieee) (neg : Bool) (mag : Nat) : Nat := if neg then 2 ^ (f.width - 1) + mag else mag
def Ieee.flip (f : Ieee) (x : Nat) : Nat := f.withSign (!f.isNeg x) (x % 2 ^ (f.width - 1))

/-- The canonical NaN, with NV where a condition holds (R171). -/
def Ieee.nanIf (f : Ieee) (b : Bool) : Nat × Flg := (f.nanCode, if b then 0x10 else 0)

/-- c is the code that one rounding of an exact value other than 0 gives (R171, R172, R195); `neg` is the sign of the value, and `cmp k` its order
against k / 2^32 units. -/
def Ieee.roundedTo (f : Ieee) (rm : Rm) (u : Nat) (neg : Bool) (cmp : Int → Ordering) (c : Nat) : Prop :=
  let sign := 2 ^ (f.width - 1)
  let pinf := f.infCode
  let ninf := sign + f.infCode
  let code (z : Nat) : Prop := f.isFinite z ∨ z = pinf ∨ z = ninf
  let v := f.units
  let big : Int := 2 ^ 32
  let mid (z : Nat) : Int := 2 ^ 31 * (v c + v z)
  let nearest : Prop := ∀ z, code z → (v c < v z → cmp (mid z) = .lt ∨ cmp (mid z) = .eq ∧ c % 2 = 0) ∧
    (v z < v c → cmp (mid z) = .gt ∨ cmp (mid z) = .eq ∧ c % 2 = 0)
  let below : Prop := c ≠ pinf ∧ (c = ninf ∨ cmp (big * v c) ≠ .lt) ∧ ∀ z, code z → z ≠ pinf → v c < v z → cmp (big * v z) = .lt
  let above : Prop := c ≠ ninf ∧ (c = pinf ∨ cmp (big * v c) ≠ .gt) ∧ ∀ z, code z → z ≠ ninf → v z < v c → cmp (big * v z) = .gt
  code c ∧ (sign ≤ c ↔ neg = true) ∧ match rm with
    | .rne => nearest
    | .rtz => if neg then above else below
    | .rdn => below
    | .rup => above
    | .sr =>
      if cmp (big * v (pinf - 1)) = .gt ∨ cmp (big * v (ninf - 1)) = .lt then nearest
      else ∃ lo hi, code lo ∧ code hi ∧ v lo < v hi ∧ (∀ z, code z → v z ≤ v lo ∨ v hi ≤ v z) ∧ cmp (big * v lo) ≠ .lt ∧
        cmp (big * v hi) = .lt ∧ v c = if cmp (big * v lo + (u + 1) * (v hi - v lo)) ≠ .lt then v hi else v lo

/-- The magnitude of a tapered word that is a nonzero real, in units of 2^−256, by the fields of R176. -/
def Tap.units (f : Tap) (p : Nat) : Nat := match f.fields p with
  | .real _ _ k e fr fb => (2 ^ fb + fr) * 2 ^ (2 ^ f.es * k + e - fb + 256).toNat
  | _ => 0

/-- c is the word that one rounding of an exact value other than 0 gives (R177, R195): on the bit string, the tie between the words q and q + 1
being the word of one bit more that ends in q and 1. `neg` is the sign of the value, and `cmp k` the order of its magnitude against k / 2^32
units. -/
def Tap.roundedTo (f : Tap) (rm : Rm) (u : Nat) (neg : Bool) (cmp : Nat → Ordering) (c : Nat) : Prop :=
  let v (q : Nat) : Nat := 2 ^ 32 * f.units q
  let tie (q : Nat) : Nat := 2 ^ 32 * (Tap.mk (f.n + 1) f.es).units (2 * q + 1)
  let top := 2 ^ (f.n - 1) - 1
  ∃ q, c = (if neg then 2 ^ f.n - q else q) ∧
    if cmp (v top) ≠ .lt then q = top
    else if cmp (v 1) ≠ .gt then q = 1
    else ∃ lo, 1 ≤ lo ∧ lo < top ∧ cmp (v lo) ≠ .lt ∧ cmp (v (lo + 1)) = .lt ∧
      let up : Prop := match rm with
        | .rne => cmp (tie lo) = .gt ∨ cmp (tie lo) = .eq ∧ lo % 2 = 1
        | .rtz => False
        | .rdn => neg = true ∧ cmp (v lo) = .gt
        | .rup => neg = false ∧ cmp (v lo) = .gt
        | .sr =>
          let gap := f.units (lo + 1) - f.units lo
          if neg then cmp (v (lo + 1) - (u + 1) * gap) = .gt else cmp (v lo + (u + 1) * gap) ≠ .lt
      (up → q = lo + 1) ∧ (¬up → q = lo)

/-! ## Conversions (R186, R187) -/

/-- The number that a code holds, as a fraction: IEEE and tapered codes, and integers; an lns6 code holds a power of two, see `order`. -/
def FmtKind.number (k : FmtKind) (natural : Bool) (x : Nat) : Int × Nat := match k with
  | .ieee f => (f.units x, f.one)
  | .tap f => (if 2 ^ (f.n - 1) ≤ x then -(f.units x : Int) else f.units x, 2 ^ 256)
  | .lns => (0, 1)
  | .int w => (if natural then (x : Int) else (BitVec.ofNat w x).toInt, 1)

/-- The order of the number that a code holds against a / b; an lns6 code holds ±2^(L / 4) (R181). -/
def FmtKind.order (k : FmtKind) (natural : Bool) (x : Nat) (a : Int) (b : Nat) : Ordering := match k with
  | .lns =>
    let mag := compare ((b ^ 4 * 2 ^ ((BitVec.ofNat 5 x).toInt + 16).toNat : Nat)) (a.natAbs ^ 4 * 2 ^ 16)
    if 32 ≤ x then (if 0 ≤ a then .lt else mag.swap) else if a ≤ 0 then .gt else mag
  | k => compare ((k.number natural x).1 * b) (a * (k.number natural x).2)

/-- i is the integer that one rounding of a value gives (R187); `cmp a b` is the order of the value against a / b, and `neg` its sign. -/
def integerRounding (rm : Rm) (u : Nat) (neg : Bool) (cmp : Int → Nat → Ordering) (i : Int) : Prop :=
  ∃ lo : Int, cmp lo 1 ≠ .lt ∧ cmp (lo + 1) 1 = .lt ∧
    let up : Prop := match rm with
      | .rne => cmp (2 * lo + 1) 2 = .gt ∨ cmp (2 * lo + 1) 2 = .eq ∧ lo % 2 = 1
      | .rtz => neg = true ∧ cmp lo 1 ≠ .eq
      | .rdn => False
      | .rup => cmp lo 1 ≠ .eq
      | .sr => cmp (2 ^ 32 * lo + u + 1) (2 ^ 32) ≠ .lt
    (up → i = lo + 1) ∧ (¬up → i = lo)

/-- c and its flags are what one rounding of a number other than 0 into a format other than lns6 gives (R171, R177, R179, R187): the rounding of the
format, NX when the result is not the number; an integer that the format does not hold gives the bound and NV alone. -/
def FmtKind.converted (k : FmtKind) (natural : Bool) (rm : Rm) (u : Nat) (neg : Bool) (cmp : Int → Nat → Ordering) (c : Nat) (fl : Flg) : Prop :=
  match k with
  | .ieee f => f.roundedTo rm u neg (fun i => cmp i (2 ^ 32 * f.one)) c ∧
    (fl.getLsbD 0 = false ↔ f.isFinite c ∧ cmp (f.units c) f.one = .eq)
  | .tap f => f.roundedTo rm u neg (fun i => if neg then (cmp (-i) (2 ^ 288)).swap else cmp i (2 ^ 288)) c ∧
    (fl.getLsbD 0 = false ↔ cmp (k.number false c).1 (2 ^ 256) = .eq)
  | .lns => True
  | .int w => ∃ i, integerRounding rm u neg cmp i ∧
    let lo : Int := if natural then 0 else -2 ^ (w - 1)
    let hi : Int := if natural then 2 ^ w - 1 else 2 ^ (w - 1) - 1
    if lo ≤ i ∧ i ≤ hi then c = (BitVec.ofInt w i).toNat ∧ fl = (if cmp i 1 = .eq then 0 else 1)
    else c = (BitVec.ofInt w (max lo (min hi i))).toNat ∧ fl = 0x10

/-- c and its flags are what one rounding of n / d, other than 0, into lns6 gives (R185): y = 4 × log2 |n / d| clamped at ±15, or rounded to an integer; under
SR it is one of the two neighbours. -/
def lnsConverted (rm : Rm) (n : Int) (d : Nat) (c : Nat) (fl : Flg) : Prop :=
  let sign := if n < 0 then 32 else 0
  let code (i : Int) : Nat := sign + (BitVec.ofInt 5 i).toNat
  let below (e : Nat) (i : Int) : Prop := n.natAbs ^ e * 2 ^ (-i).toNat < d ^ e * 2 ^ i.toNat
  let exact (i : Int) : Prop := n.natAbs ^ 4 * 2 ^ (-i).toNat = d ^ 4 * 2 ^ i.toNat
  if ¬below 4 15 ∧ ¬exact 15 then c = code 15 ∧ fl = 5
  else if below 4 (-15) then c = code (-15) ∧ fl = 3
  else ∃ lo, ¬below 4 lo ∧ below 4 (lo + 1) ∧ (exact lo → c = code lo ∧ fl = 0) ∧ (¬exact lo → fl = 1 ∧ match rm with
    | .rne => c = if below 8 (2 * lo + 1) then code lo else code (lo + 1)
    | .rtz => c = code lo
    | .rdn => c = if n < 0 then code (lo + 1) else code lo
    | .rup => c = if n < 0 then code lo else code (lo + 1)
    | .sr => c = code lo ∨ c = code (lo + 1))

/-! ## Vector instructions -/

/-- The cause that R21 and R22 give the granule of a vector range at an address: as a store for a destination, and as a load where it is read. -/
def Core.granuleRefused (c : Core) (r : VRange) (a cause : Nat) : Prop :=
  r.store = true ∧ c.localRefused true a cause ∨
    r.load = true ∧ (r.store = true → ∀ e, ¬c.localRefused true a e) ∧ c.localRefused false a cause

/-- A vector instruction is refused by its direct ranges, given in the order d, a, b (R326, R329, R22): the first misaligned pointer with 0x02, or
else the first granule that fails with its cause and its first byte. -/
def Core.directRefused (c : Core) (rs : List VRange) (cause at_ : Nat) : Prop :=
  let aligned (r : VRange) : Prop := r.ptr % r.align = 0
  let bad (r : VRange) (a : Nat) : Prop := ∃ e, c.granuleRefused r a e
  let starts (r : VRange) (a : Nat) : Prop := r.lo ≤ a ∧ a < r.lo + r.len ∧ (a = r.lo ∨ a % 64 = 0)
  (∃ (i : Nat) (r : VRange), rs[i]? = some r ∧ ¬aligned r ∧ (∀ j q, j < i → rs[j]? = some q → aligned q) ∧ cause = 0x02 ∧ at_ = r.ptr) ∨
    (∀ r ∈ rs, aligned r) ∧ ∃ (i : Nat) (r : VRange), rs[i]? = some r ∧ starts r at_ ∧ c.granuleRefused r at_ cause ∧
      (∀ a, starts r a → a < at_ → ¬bad r a) ∧ ∀ j q, j < i → rs[j]? = some q → ∀ a, starts q a → ¬bad q a

/-- The first byte in which a written range meets a range that is only read, other than the same range (R330). -/
def overlapAt (rs : List VRange) (at_ : Nat) : Prop :=
  let meets (a : Nat) : Prop := ∃ w ∈ rs, ∃ r ∈ rs, w.store = true ∧ r.store = false ∧ ¬(w.lo = r.lo ∧ w.len = r.len) ∧
    w.lo ≤ a ∧ a < w.lo + w.len ∧ r.lo ≤ a ∧ a < r.lo + r.len
  meets at_ ∧ ∀ a, a < at_ → ¬meets a

/-- A vector instruction without an indirect side is refused: by its direct ranges, or else by an overlap with 0x03 (R329, R330). -/
def Core.vectorRefused (c : Core) (rs : List VRange) (cause at_ : Nat) : Prop :=
  c.directRefused rs cause at_ ∨ (∀ e a, ¬c.directRefused rs e a) ∧ overlapAt rs at_ ∧ cause = 0x03

/-- Every check of a vector instruction over its ranges passes (R326, R329, R330), nothing makes it wait (R48, R144), no operand has an
uncorrectable error, and the core has its lanes. -/
def State.vectorReady (s : State) (rs : List VRange) : Prop :=
  s.core.vCheck rs = none ∧ vOverlaps rs = none ∧ s.core.vStall rs = false ∧ s.core.vBad rs = none ∧ (∀ p m, s.macroBusy p m = false) ∧
    32 ≤ s.core.ctl.vl.toNat

/-- The draw of element number j, the elements drawing in ascending order from `start` on (R195, R196, R332). -/
def elementDraw (rm : Rm) (gen : Word) (start j : Nat) : Nat := if rm = .sr then (draw (skipDraws (j - start) gen)).1 else 0

/-- Bits of an element. -/
def elementBits (f : BitVec 4) : Nat := if f = 6 then 6 else 8 * fmtBytes f.toNat

/-- A vector instruction has completed alone: only the scratchpad between two addresses, its error marks, registers, FFLAGS and the
generator may differ, and how many single-bit errors have been counted. -/
def vectorFrame (s t : State) (lo hi : Nat) : Prop :=
  t = { s with corrected := t.corrected, core := { s.core.doneFrom with
    spad := t.core.spad, ecc := t.core.ecc, regs := t.core.regs, pois := t.core.pois, gen := t.core.gen
    ctl := { s.core.doneFrom.ctl with fflags := t.core.ctl.fflags } } } ∧
    ∀ a, a < lo ∨ hi ≤ a → t.core.spad.read a = s.core.spad.read a

/-- Elements `start` to n − 1 of d have been computed one by one by a function of the element's draw and index, its flags gathered, and
the generator has drawn once per element under SR (R195, R331, R332). -/
def elementsDone (s t : State) (f : BitVec 4) (dp : Nat) (rounds : Bool) (op : Nat → Nat → Nat × Flg) : Prop :=
  let start := s.core.vprog.toNat
  let n := s.core.ctl.vn.toNat
  let rm := s.core.ctl.dyn
  let at_ (j : Nat) : Nat × Flg := op (if rounds then elementDraw rm s.core.gen start j else 0) j
  vectorFrame s t (dp + vOff f start) (dp + vLen f n) ∧
    (∀ j, start ≤ j → j < n → vElem t.core.spad f dp j = (at_ j).1 % 2 ^ elementBits f) ∧
    t.core.ctl.fflags = ((List.range n).drop start).foldl (fun fl j => fl ||| (at_ j).2) s.core.ctl.fflags ∧
    t.core.gen = if rounds ∧ rm = .sr then skipDraws (n - start) s.core.gen else s.core.gen

/-- Each register of a list has grown once by its length; every other one is as it was (R333). -/
def advanced (c k : Core) (l : List (Reg × Nat)) : Prop :=
  ∀ r, k.reg r = c.reg r + (if r = 0 then 0 else match l.find? fun x => x.1 == r with | some x => BitVec.ofNat 64 x.2 | none => 0)

/-- A vector instruction that completes as a whole leaves the generator, FFLAGS and the scratchpad, but for one range, as they were. -/
def plainVector (s t : State) (lo hi : Nat) : Prop :=
  vectorFrame s t lo hi ∧ t.core.gen = s.core.gen ∧ t.core.ctl.fflags = s.core.ctl.fflags

/-! ## Operands in the scratchpad -/

/-- An aligned local operand of n bytes may be read: R21 grants it, and nothing makes the access wait or fail (R48, R144, R443). -/
def State.operandReadable (s : State) (a n : Nat) : Prop :=
  a % n = 0 ∧ s.core.rangeCheck false a n = none ∧ s.rangeBusy a n = false ∧ s.core.ttStall false a n = false ∧ s.core.badWord a n = none

/-- A record of n bytes at p that an instruction copies at its issue has the value v: it may be read and holds it, or the waiting instruction took it
(R392); `z` is the state with the single-bit errors that the read met counted (R443). -/
def State.recordAt (s : State) (p n v : Nat) (z : State) : Prop := match s.core.copied with
  | some x => v = x.toNat ∧ z = s
  | none => s.operandReadable p n ∧ v = s.core.localRead p n ∧ z = s.heal (s.core.softWords p n)

/-- An instruction waits, with the record that it copied at its issue (R392). -/
def State.keeping (s : State) (v : Nat) : State := { s with core := { s.core with copied := some (BitVec.ofNat 768 v) } }

/-- An aligned local operand of 32 bytes may be written: R21 grants it, and it is not the g0 slot (R40). -/
def State.operandWritable (s : State) (a : Nat) : Prop :=
  a % 32 = 0 ∧ s.core.rangeCheck true a 32 = none ∧ (a + 32 ≤ s.core.wp ∨ s.core.wp + 8 ≤ a)

/-- A core k has had 32 bytes written at a by its own instruction, and then register d (R40, R204, R411): the bytes read as written, but
for those of d's own slot; every other byte of the scratchpad and every register outside the range reads as in c. -/
def wrote32 (c k : Core) (a : Nat) (v : Nat) (d : Reg) (x : Word) : Prop :=
  holds k d x ∧
    (∀ i, i < 32 → (d = 0 ∨ a + i < c.wp + 8 * d.toNat ∨ c.wp + 8 * d.toNat + 8 ≤ a + i) →
      k.localByte (a + i) = BitVec.ofNat 8 (v / 256 ^ i)) ∧
    (∀ y, y < a ∨ a + 32 ≤ y → y < c.wp ∨ c.wp + 256 ≤ y → k.localByte y = c.localByte y) ∧
    ∀ r, r ≠ d → c.wp + 8 * r.toNat + 8 ≤ a ∨ a + 32 ≤ c.wp + 8 * r.toNat → k.reg r = c.reg r ∧ k.poisoned r = c.poisoned r

/-- A push reads the command at p, or has the copy of it that the waiting push took at its issue (R344, R262, R379, R392): w is its word, listed, and `block`
the parameter block of a join command; `z` is the state with the single-bit errors that the reads met counted (R443). -/
def State.pushReads (s : State) (p w block : Nat) (z : State) : Prop :=
  (s.core.copied = none ∧ s.operandReadable p 32 ∧ w = s.core.localRead p 32 ∧ codeListed (bits w 7 4) (bits w 3 0) = true ∧ bits w 14 12 = 0 ∧
      if isJoin (bits w 7 4) (bits w 3 0) then
        bits w 255 128 = 0 ∧ bits w 63 32 = 0 ∧ bits w 127 64 % 64 = 0 ∧ bits w 127 64 + 64 ≤ 0x60000 ∧
          s.core.badWord (bits w 127 64) 64 = none ∧ block = s.core.localRead (bits w 127 64) 64 ∧
          z = s.heal (s.core.softWords p 32 + s.core.softWords (bits w 127 64) 64)
      else block = 0 ∧ z = s.heal (s.core.softWords p 32)) ∨
    (s.core.copied = some (BitVec.ofNat 768 (w + block * 2 ^ 256)) ∧ w < 2 ^ 256 ∧ block < 2 ^ 512 ∧ z = s)

/-- The trap of a command whose own checks pass (R25, R49, R379): 0x03 with the first offset that the execute boundary or the LPU bars, of the parameter
block, of the ranges written and then of those read; else 0x06 with the first one written in a stationary macro. -/
def Core.useRefused (c : Core) (w : Nat) (u : CmdUse) (cause at_ : Nat) : Prop :=
  let block := if isJoin (bits w 7 4) (bits w 3 0) then [(bits w 127 64, 64)] else []
  let block (a : Nat) : Prop := firstGranule block (c.barred false) a
  let writes (a : Nat) : Prop := firstGranule u.writes (c.barred true) a
  let reads (a : Nat) : Prop := firstGranule u.reads (c.barred false) a
  let stops (a : Nat) : Prop := block a ∨ (∀ x, ¬block x) ∧ (writes a ∨ (∀ x, ¬writes x) ∧ reads a)
  cause = 0x03 ∧ stops at_ ∨ cause = 0x06 ∧ (∀ x, ¬stops x) ∧ firstGranule u.writes (fun a => c.stationary a = true) at_

/-- A command at p, or the copy of it, passes every check and wait of a push (R344, R262, R25, R49, R140, R144, R379). -/
def State.pushable (s : State) (p w block : Nat) (z : State) : Prop :=
  s.pushReads p w block z ∧
    (isJoin (bits w 7 4) (bits w 3 0) = true → spansCheck (s.core.lpuCheck false) [(bits w 127 64, 64)] = none) ∧
    (∃ u, s.core.cmdUse w block = some u ∧ s.core.useCheck u = none ∧
      ∀ r ∈ (s.core.stallUse w u).writes ++ (s.core.stallUse w u).reads, s.core.ttStall true r.1 r.2 = false) ∧
    s.earlierDone s.core.pcn = true

/-! ## Commands of the engines -/

/-- A command has completed at its core: its counter, if it names one, has grown by 1 (for a member whose state is already saved, at its swap-in:
R227, R416, R425). -/
def Core.counts (c : Core) (k : Cmd) : Core :=
  if !k.cie then c else if c.acked then { c with lateIncs := c.lateIncs ++ [k.ctr] } else c.bump k.ctr 1

/-- A core whose command k of queue q completes (R264): the command has gone, its element is the queue's last one, and it has been counted. -/
def Core.posted (c : Core) (q : Nat) (k : Cmd) (value status : Nat) : Core :=
  let e : BitVec 64 := BitVec.ofNat 64 (value % 2 ^ 40 * 2 ^ 24 + status % 256 * 2 ^ 16 + k.tag)
  let d := { c with
    pick := if q = 2 then 0 else c.pick
    qs := c.qs.setIfInBounds q { c.queue q with cmds := (c.queue q).cmds.erase k, elems := (c.queue q).elems ++ [e] } }
  d.counts k

/-- Core p has had a command completed and nothing else of the state has changed. -/
def State.posted (s : State) (p q : Nat) (k : Cmd) (value status : Nat) : State := s.modCore p fun c => c.posted q k value status

/-- A relation that holds from each state of a run to the next, one item of a list after another. -/
def chain {σ α : Type} (r : σ → α → σ → Prop) : List α → σ → σ → Prop
  | [], s, u => u = s
  | x :: xs, s, u => ∃ m, r s x m ∧ chain r xs m u

/-- n bytes from a of core p's scratchpad can be read by an engine (R48, R443): v is what they hold, and m the state with their single-bit errors
counted. -/
def State.spadHolds (s : State) (p a n : Nat) (m : State) (v : Nat) : Prop :=
  (s.select p).rangeBusy a n = false ∧ (s.getCore p).badWord a n = none ∧ v = (s.getCore p).spad.readLE a n ∧
    m = s.heal ((s.getCore p).softWords a n)

/-- No byte of n from a lies in a stationary macro of core p (R49). -/
def State.spadFree (s : State) (p a n : Nat) : Prop := ∀ y, a ≤ y → y < a + n → (s.getCore p).stationary y = false

/-- n bytes from a of core p's scratchpad have been written with v, and nothing else. -/
def State.spadWritten (s : State) (p a n v : Nat) : State := s.modCore p fun c => c.pokeLE a n v

/-! ## Upcalls -/

/-- UpcallEntry of R115 has happened, and nothing else: the record in the interrupted workspace, the destination register pending, the switch
to the upcall workspace with g1, user mode and the upcall's PC. -/
def upcallTaken (s t : State) (a : Access) (f : FaultInfo) (resume : Word) : Prop :=
  let c := s.core
  let k := t.core
  let pend := a.kind.pends && a.reg != 0
  (∀ r, r ≠ 0 → k.spad.dword (c.wp + 8 * r.toNat) = c.reg r ∧
    bitAt (k.spad.readLE c.wp 4) r.toNat = (c.pending r || (pend && r == a.reg)) ∧
    bitAt (k.spad.readLE (c.wp + 4) 4) r.toNat = (c.poisoned r && !(pend && r == a.reg))) ∧
  k.spad.dword (c.wp + 0x100) = a.va ∧ k.spad.dword (c.wp + 0x108) = resume ∧ k.spad.readLE (c.wp + 0x110) 8 = 0 ∧
  k.spad.readLE (c.wp + 0x118) 8 = upcallInfo s.mgmt.ctxg.toNat f.deny.toNat pend (if a.kind.pends then a.reg else 0) a.kind.size
    (if f.kind = 0x44 then 7 else a.kind.code) f.reason.toNat f.kind.toNat ∧
  (∀ y, ¬inRanges y [(c.wp, 0x120)] → k.spad.read y = c.spad.read y) ∧
  k.reg 1 = BitVec.ofNat 64 c.wp ∧ k.poisoned 1 = false ∧ (∀ r, r ≠ 0 → r ≠ 1 → k.reg r = c.spad.dword (c.uws + 8 * r.toNat)) ∧
  (∀ r, r ≠ 0 → k.pending r = bitAt (c.spad.readLE c.uws 4) r.toNat ∧ (r ≠ 1 → k.poisoned r = bitAt (c.spad.readLE (c.uws + 4) 4) r.toNat)) ∧
  t = { s.heal (c.softWords (c.wp + 0x118) 8 + c.switchSoft c.uws) with core := { c with
    regs := k.regs, pend := k.pend, pois := k.pois, spad := k.spad, ecc := k.ecc, pc := BitVec.ofNat 64 c.upc
    ctl := { c.ctl with wpa := c.ctl.uws, mode := .user } } }

/-! ## The form of the state -/

/-- Every memory of the package is in its canonical form. -/
def State.memoryForm (s : State) : Prop :=
  s.dram.wf = true ∧ s.hostMem.wf = true ∧ s.remoteMem.wf = true ∧ s.mgmt.lq.wf = true ∧ (∀ c ∈ s.cores, c.spad.wf = true) ∧
    ∀ t ∈ s.teams, ∀ m ∈ t.images, m.record.wf = true

/-- Nothing but its next instruction is due at the active core: it runs and waits for nothing, its chunk is not closing, no fault,
interrupt or budget trap is due, it may open a chunk, and its PC may be fetched (R33, R111, R136, R137, R260, R418). -/
def State.fetches (s : State) : Prop :=
  s.core.run = .running ∧ s.core.out = none ∧ s.core.closing = false ∧ s.core.early = none ∧ s.core.pendingInt = none ∧
    s.core.budgetDue = false ∧ s.lateUpcall = none ∧ s.stalled = false ∧ (s.core.streak < 4 ∨ s.core.chunk.isSome = true ∨ s.reservation = some s.core.pcn) ∧
    s.core.pc.toNat % 4 = 0 ∧ s.core.pc.toNat < s.core.xb ∧ s.core.badWord s.core.pc.toNat 4 = none

end Sys2Proof.Machine
end

