-- ==== Sys2Proof/Certificates/Slice0/Obligations.lean ====
section
/-! DEFINITION. The statements for the provers. Each says what an instruction, an event or the machine does, by the rules of the spec that
its docstring cites. -/

section
open Sys2Proof Sys2Proof.Machine

/-! ## Integer, packed, address and control instructions (spec 12) -/

/-- R268: each ALU operation completes whenever it may issue, and writes d with the value the rule's table gives (CLZ, CTZ and POPC by
what their count means); no flag, no other register, special register or byte of memory changes. R269, R270: multiply and divide complete on every
operand, the corner cases of R270 included, and set no flag. -/
def Obligations.AluOperations : Prop :=
  ∀ (s : State) (d a b : Reg),
    let x := s.core.reg a
    let y := s.core.reg b
    let n := y.toNat % 64
    (s.issues [a, b] [d] → ∀ p ∈ ([
      (.add d a b, x + y), (.sub d a b, x - y), (.and d a b, x &&& y), (.or d a b, x ||| y), (.xor d a b, x ^^^ y),
      (.sll d a b, BitVec.ofNat 64 (x.toNat * 2 ^ n)), (.srl d a b, BitVec.ofNat 64 (x.toNat / 2 ^ n)),
      (.sra d a b, BitVec.ofInt 64 (x.toInt / 2 ^ n)),
      (.slt d a b, if x.toInt < y.toInt then 1 else 0), (.sltu d a b, if x.toNat < y.toNat then 1 else 0),
      (.min d a b, if x.toInt ≤ y.toInt then x else y), (.max d a b, if x.toInt ≤ y.toInt then y else x),
      (.minu d a b, if x.toNat ≤ y.toNat then x else y), (.maxu d a b, if x.toNat ≤ y.toNat then y else x),
      (.sext d a b, BitVec.ofInt 64 ((x.toNat : Int).bmod (2 ^ (n + 1)))), (.zext d a b, BitVec.ofNat 64 (x.toNat % 2 ^ (n + 1)))]
      : List (Instr × Word)),
      ∃ t, exec p.1 s = .next t ∧ writesReg s t d p.2) ∧
    (s.issues [a] [d] →
      (∃ t k, exec (.clz d a) s = .next t ∧ writesReg s t d (BitVec.ofNat 64 k) ∧
        if x = 0 then k = 64 else k < 64 ∧ 2 ^ (63 - k) ≤ x.toNat ∧ x.toNat < 2 ^ (64 - k)) ∧
      (∃ t k, exec (.ctz d a) s = .next t ∧ writesReg s t d (BitVec.ofNat 64 k) ∧
        if x = 0 then k = 64 else k < 64 ∧ x.toNat % 2 ^ k = 0 ∧ x.getLsbD k = true) ∧
      ∃ t, exec (.popc d a) s = .next t ∧ writesReg s t d (BitVec.ofNat 64 ((List.range 64).countP x.getLsbD))) ∧
    (s.issues [a, b] [d] → ∀ p ∈ ([
      (.mul d a b, BitVec.ofNat 64 (x.toNat * y.toNat)), (.mulhu d a b, BitVec.ofNat 64 (x.toNat * y.toNat / 2 ^ 64)),
      (.mulh d a b, BitVec.ofInt 64 (x.toInt * y.toInt / 2 ^ 64)),
      (.divu d a b, if y = 0 then BitVec.allOnes 64 else BitVec.ofNat 64 (x.toNat / y.toNat)),
      (.remu d a b, if y = 0 then x else BitVec.ofNat 64 (x.toNat % y.toNat)),
      (.div d a b, if y = 0 then BitVec.allOnes 64 else if x = BitVec.intMin 64 ∧ y = BitVec.allOnes 64 then x
        else BitVec.ofInt 64 (x.toInt.tdiv y.toInt)),
      (.rem d a b, if y = 0 then x else if x = BitVec.intMin 64 ∧ y = BitVec.allOnes 64 then 0
        else BitVec.ofInt 64 (x.toInt.tmod y.toInt))] : List (Instr × Word)),
      ∃ t, exec p.1 s = .next t ∧ writesReg s t d p.2)

/-- R272, R273, R274: the immediate forms. ADDI, SLTI, SLTIU and LI extend the sign of the immediate, ANDI, ORI, XORI and LIS extend
with zeros; LIS shifts the register left by 16 first; ADPC adds four times the signed immediate to the PC of the instruction. -/
def Obligations.AluImmediateForms : Prop :=
  ∀ (s : State) (d a : Reg) (i : BitVec 16) (n : BitVec 6), s.issues [a] [d] →
    let x := s.core.reg a
    ∀ p ∈ ([
      (.addi d a i, BitVec.ofInt 64 (x.toInt + i.toInt)), (.andi d a i, x &&& i.setWidth 64), (.ori d a i, x ||| i.setWidth 64),
      (.xori d a i, x ^^^ i.setWidth 64), (.slti d a i, if x.toInt < i.toInt then 1 else 0),
      (.sltiu d a i, if x.toNat < (i.signExtend 64).toNat then 1 else 0),
      (.slli d a n, BitVec.ofNat 64 (x.toNat * 2 ^ n.toNat)), (.srli d a n, BitVec.ofNat 64 (x.toNat / 2 ^ n.toNat)),
      (.srai d a n, BitVec.ofInt 64 (x.toInt / 2 ^ n.toNat)), (.li d i, BitVec.ofInt 64 i.toInt),
      (.lis d a i, BitVec.ofNat 64 (x.toNat * 65536 + i.toNat)), (.adpc d i, s.core.pc + BitVec.ofInt 64 (4 * i.toInt))]
      : List (Instr × Word)),
    ∃ t, exec p.1 s = .next t ∧ writesReg s t d p.2

/-- R280, R281, R282: branches compare and go to PC + 4 × imm16 or to PC + 4; J, JAL and JALR jump, and JAL links g1, JALR d, to PC + 4;
the link of JALR never changes the address it jumps to, and a misaligned one traps 0x02. Nothing else changes. -/
def Obligations.ControlTransfer : Prop :=
  ∀ (s : State) (d a b : Reg) (i : BitVec 16) (o : BitVec 26),
    let x := s.core.reg a
    let y := s.core.reg b
    let pc := s.core.pc
    (s.issues [a, b] [] → ∀ p ∈ ([
      (.beq b a i, decide (x = y)), (.bne b a i, decide (x ≠ y)), (.blt b a i, decide (x.toInt < y.toInt)),
      (.bge b a i, decide (y.toInt ≤ x.toInt)), (.bltu b a i, decide (x.toNat < y.toNat)), (.bgeu b a i, decide (y.toNat ≤ x.toNat))]
      : List (Instr × Bool)),
      ∃ t, exec p.1 s = .next t ∧ t.core.pc = pc + (if p.2 then BitVec.ofInt 64 (4 * i.toInt) else 4) ∧ regFrame s t 0 ∧
        counted s.core t.core) ∧
    (s.issues [] [] → ∃ t, exec (.j o) s = .next t ∧ t.core.pc = pc + BitVec.ofInt 64 (4 * o.toInt) ∧ regFrame s t 0 ∧
      counted s.core t.core) ∧
    (s.issues [] [1] → ∃ t, exec (.jal o) s = .next t ∧ t.core.pc = pc + BitVec.ofInt 64 (4 * o.toInt) ∧ holds t.core 1 (pc + 4) ∧
      regFrame s t 1 ∧ counted s.core t.core) ∧
    (s.issues [a] [d] → (x + i.signExtend 64).toNat % 4 = 0 → ∃ t, exec (.jalr d a i) s = .next t ∧ t.core.pc = x + i.signExtend 64 ∧
      holds t.core d (pc + 4) ∧ regFrame s t d ∧ counted s.core t.core) ∧
    (s.issues [a] [d] → (x + i.signExtend 64).toNat % 4 ≠ 0 → exec (.jalr d a i) s = s.trap 0x02 (x + i.signExtend 64))

/-- R279: PSIMD works lane by lane, on signed lanes when SGN = 1 and natural ones else; with SAT = 1 the exact result is clamped to the
lane's range, else it is taken modulo the lane's width. No flag is set. -/
def Obligations.PackedLanes : Prop :=
  ∀ (s : State) (d a b : Reg) (t g : Bit) (w : BitVec 2), w ≠ 3 → s.issues [a, b] [d] →
    let n := 8 * 2 ^ w.toNat
    let lane (x : Word) (j : Nat) : Int := if g = 1 then (x.extractLsb' (n * j) n).toInt else (x.extractLsb' (n * j) n).toNat
    let lo : Int := if g = 1 then -2 ^ (n - 1) else 0
    let hi : Int := if g = 1 then 2 ^ (n - 1) - 1 else 2 ^ n - 1
    let fit (v : Int) : BitVec n := BitVec.ofInt n (if t = 1 then max lo (min hi v) else v)
    ∀ p ∈ ([
      (.padd d a b t g w, fun x y => fit (x + y)), (.psub d a b t g w, fun x y => fit (x - y)),
      (.pmul d a b t g w, fun x y => fit (x * y)), (.pmin d a b g w, fun x y => BitVec.ofInt n (min x y)),
      (.pmax d a b g w, fun x y => BitVec.ofInt n (max x y)), (.pavg d a b g w, fun x y => BitVec.ofInt n ((x + y + 1) / 2))]
      : List (Instr × (Int → Int → BitVec n))),
    ∃ u v, exec p.1 s = .next u ∧ writesReg s u d v ∧
      ∀ j, j < 64 / n → v.extractLsb' (n * j) n = p.2 (lane (s.core.reg a) j) (lane (s.core.reg b) j)

/-- R277: GADDR of a 16-byte-aligned table that can be read and keeps R276 writes the owner and the offset that the rule's loop computes, or all ones; a
misaligned table traps 0x02, one that breaks R276 traps 0x01, both with TVAL the table's address. Single-bit errors of the table are counted (R443). -/
def Obligations.GaddrResult : Prop :=
  ∀ (s : State) (d a b : Reg), s.issues [a, b] [d] →
    let tab := (s.core.reg b).toNat
    let field (o n : Nat) : Nat := s.core.localRead (tab + o) n
    let dims := (List.range (field 0x0C 4)).map fun i =>
      (field (0x10 + 16 * i) 4, field (0x14 + 16 * i) 4, field (0x18 + 16 * i) 4, field (0x1C + 16 * i) 4)
    let okTable := field 0 8 < 2 ^ 48 ∧ 1 ≤ field 8 4 ∧ field 8 4 ≤ 65535 ∧ 1 ≤ field 0x0C 4 ∧ field 0x0C 4 ≤ 4 ∧
      ∀ e ∈ dims, 1 ≤ e.1 ∧ e.1 ≤ 65536 ∧ 1 ≤ e.2.1 ∧ e.2.1 ≤ 65536 ∧ 1 ≤ e.2.2.1 ∧ e.2.2.1 ≤ 65536 ∧ e.2.2.2 ≤ 65535
    let coord (i : Nat) : Nat := (s.core.reg a).toNat / 65536 ^ i % 65536
    let terms := dims.zipIdx.map fun e =>
      (coord e.2 / e.1.2.1 % e.1.2.2.1 * e.1.2.2.2,
        (e.1.1 + e.1.2.1 * e.1.2.2.1 - 1) / (e.1.2.1 * e.1.2.2.1) * e.1.2.1,
        coord e.2 / (e.1.2.1 * e.1.2.2.1) * e.1.2.1 + coord e.2 % e.1.2.1)
    let owner := (terms.map fun e => e.1).sum
    let off := field 0 8 + field 8 4 * terms.foldl (fun lin e => lin * e.2.1 + e.2.2) 0
    (tab % 16 = 0 → s.core.rangeCheck false tab 80 = none → s.rangeBusy tab 80 = false → s.core.ttStall false tab 80 = false →
      s.core.badWord tab 80 = none → okTable →
      ∃ t, exec (.gaddr d a b) s = .next t ∧ writesReg (s.heal (s.core.softWords tab 80)) t d
        (if (∃ e ∈ dims.zipIdx, e.1.1 ≤ coord e.2) ∨ 0xFFFF ≤ owner ∨ 2 ^ 48 ≤ off then BitVec.allOnes 64
         else BitVec.ofNat 64 (owner * 2 ^ 48 + off))) ∧
    (tab % 16 ≠ 0 → exec (.gaddr d a b) s = s.trap 0x02 (s.core.reg b)) ∧
    (tab % 16 = 0 → s.core.rangeCheck false tab 80 = none → s.rangeBusy tab 80 = false → s.core.ttStall false tab 80 = false →
      s.core.badWord tab 80 = none → ¬okTable → exec (.gaddr d a b) s = (s.heal (s.core.softWords tab 80)).trap 0x01 (s.core.reg b))

/-! ## Memory instructions (spec 13) -/

/-- R294 with R40, R130: a load of a granted local address reads its bytes as the core sees them (the register cache, the chunk's buffered
stores, the scratchpad), little-endian, and extends them; nothing else changes. R294 with R40, R130: a store to a granted local address is seen by the core's later reads at once, in a register's slot of the current
workspace as a write of that register, elsewhere from the chunk's buffer; the scratchpad itself changes at the commit. Every other byte
reads as before, but for the g0 slot, whose poison bit clears. A store to the g0 slot traps 0x03. That a store to the slot of a register whose load
is pending completes at once, and leaves it pending, is the model's choice (log entry 30, DEDUCED). R21: a misaligned access takes 0x02; a local one that is
unbacked, or in user mode below XB or not granted by the LPU, 0x03; a store into a stationary macro 0x06; TVAL is its address. A single-bit error under a
load is counted (R443). -/
def Obligations.LocalAccesses : Prop :=
  (∀ (s : State) (d a : Reg) (i : BitVec 16), s.issues [a] [d] →
      let va := (s.core.reg a + i.signExtend 64).toNat
      ∀ p ∈ ([(.ldb d a i, 1, true), (.ldh d a i, 2, true), (.ldw d a i, 4, true), (.ldd d a i, 8, true), (.ldbu d a i, 1, false),
        (.ldhu d a i, 2, false), (.ldwu d a i, 4, false)] : List (Instr × Nat × Bool)),
      va % p.2.1 = 0 → s.core.mayAccess false va → s.rangeBusy va p.2.1 = false → s.core.ttStall false va p.2.1 = false →
        (va < s.core.wp ∨ s.core.wp + 256 ≤ va → s.core.badWord va p.2.1 = none) →
        let met := if s.core.wp ≤ va ∧ va < s.core.wp + 256 then 0 else s.core.softWords va p.2.1
        ∃ t v, exec p.1 s = .next t ∧ writesReg (s.heal met) t d v ∧ bytesValue v p.2.1 p.2.2 fun k => s.core.localByte (va + k)) ∧
  (∀ (s : State) (b a : Reg) (i : BitVec 16), s.issues [a, b] [] →
      let va := (s.core.reg a + i.signExtend 64).toNat
      let wp := s.core.wp
      ∀ p ∈ ([(.stb b a i, 1), (.sth b a i, 2), (.stw b a i, 4), (.std b a i, 8)] : List (Instr × Nat)),
      va % p.2 = 0 → s.core.mayAccess true va →
        (va < wp ∨ wp + 8 ≤ va → s.core.ttStall true va p.2 = false → (∀ c, s.core.chunk = some c → c.sstores < 64) →
          ∃ t, exec p.1 s = .next t ∧ t.core.pc = s.core.pc + 4 ∧ onlyCore s t ∧ chunkCore s.core t.core ∧ t.core.spad = s.core.spad ∧
            (∀ y, y < wp ∨ wp + 8 ≤ y →
              t.core.localByte y = if va ≤ y ∧ y < va + p.2 then (s.core.reg b).extractLsb' (8 * (y - va)) 8 else s.core.localByte y) ∧
            (∀ r, wp + 8 * r.toNat ≠ va / 8 * 8 → t.core.reg r = s.core.reg r ∧ t.core.poisoned r = s.core.poisoned r) ∧
            ∀ y, bufByte t.core.gbuf y = bufByte s.core.gbuf y) ∧
        (wp ≤ va → va < wp + 8 → exec p.1 s = s.trap 0x03 (BitVec.ofNat 64 va))) ∧
  ∀ (s : State) (d a b : Reg) (i : BitVec 16) (cause : Nat),
    let va := (s.core.reg a + i.signExtend 64).toNat
    va < 2 ^ 32 →
      (s.issues [a] [d] → ∀ p ∈ ([(.ldb d a i, 1), (.ldh d a i, 2), (.ldw d a i, 4), (.ldd d a i, 8), (.ldbu d a i, 1), (.ldhu d a i, 2),
        (.ldwu d a i, 4)] : List (Instr × Nat)), s.core.refused false va p.2 cause → exec p.1 s = s.trap cause (BitVec.ofNat 64 va)) ∧
      (s.issues [a, b] [] → ∀ p ∈ ([(.stb b a i, 1), (.sth b a i, 2), (.stw b a i, 4), (.std b a i, 8)] : List (Instr × Nat)),
        s.core.refused true va p.2 cause → exec p.1 s = s.trap cause (BitVec.ofNat 64 va))

/-- R294 with R58, R60, R62, R131: a load of an own-node address reads the chunk's buffered bytes over the line that the L1 holds, or that
the home gives (with the core's own updates not yet applied) and the L1 then keeps; the line enters the read signature. R294 with R58, R111,
R129, R131: a store to a global address is buffered in the open chunk: the core's reads see it, the line enters the write signature and takes a
place in the L1, and nothing reaches the home before the commit. The first store of the chunk to a line is checked first, where its node
translates it, and remembers where the line's bytes go. That a load sees the core's own updates that its die has not applied, laid over the line, is the
model's choice (log entry 32, DEDUCED). R21: a misaligned access takes 0x02 and one at or above 2^57 0x04; TVAL is its address. -/
def Obligations.GlobalAccesses : Prop :=
  (∀ (s : State) (d a : Reg) (i : BitVec 16), s.issues [a] [d] →
      let va := (s.core.reg a + i.signExtend 64).toNat
      let x := lineOf va
      ∀ p ∈ ([(.ldb d a i, 1, true), (.ldh d a i, 2, true), (.ldw d a i, 4, true), (.ldd d a i, 8, true), (.ldbu d a i, 1, false),
        (.ldhu d a i, 2, false), (.ldwu d a i, 4, false)] : List (Instr × Nat × Bool)),
      s.core.ownNode va p.2.1 → ∀ (u : State) (l : Line),
        ((s.core.bufHas va p.2.1 = true ∧ u = s) ∨
          (s.core.bufHas va p.2.1 = false ∧ s.core.l1Find x = some l ∧ u = { s with core := s.core.l1Touch x }) ∨
          (s.core.bufHas va p.2.1 = false ∧ s.core.l1Find x = none ∧ ∃ r m,
            (s.l1Heal x).homeRead (s.core.pcn / 384) va Req.read false = .done r m ∧ l = r.ownUpdates s.core.pcn x m ∧
            u = { r with core := r.core.l1Put x l })) →
        ∃ t v, exec p.1 s = .next t ∧ holds t.core d v ∧ t.core.pc = s.core.pc + 4 ∧ regFrame u t d ∧
          (bytesValue v p.2.1 p.2.2 fun k => (bufByte s.core.gbuf (va + k)).getD (lineByte l (va % 64 + k))) ∧
          ∃ c, t.core.chunk = some c ∧ c.rsig.getLsbD (sigOf x) = true) ∧
  (∀ (s : State) (b a : Reg) (i : BitVec 16), s.issues [a, b] [] →
      let va := (s.core.reg a + i.signExtend 64).toNat
      let old := (s.core.chunk.map (·.dests)).getD []
      ∀ p ∈ ([(.stb b a i, 1), (.sth b a i, 2), (.stw b a i, 4), (.std b a i, 8)] : List (Instr × Nat)),
      ∀ (u : State) (new : List (Nat × Dest)),
        ((s.core.ownNode va p.2 ∨ s.core.otherNode va p.2) ∧ old.any (fun e => e.1 == va / 64) = true ∧ new = [] ∧ u = s) ∨
          (s.core.ownNode va p.2 ∧ old.any (fun e => e.1 == va / 64) = false ∧ old.length < 32 ∧ ∃ r g, s.writeCheck va Req.write = .ok (r, g) ∧
            new = [(va / 64, g)] ∧ u = { r with core := r.core.l1Room (va / 64) }) ∨
          (s.core.otherNode va p.2 ∧ old.any (fun e => e.1 == va / 64) = false ∧ old.length < 32 ∧ (s.routePort va 0).isSome = true ∧
            s.remoteFault va = none ∧ new = [(va / 64, .remote)] ∧ u = { s with core := s.core.l1Room (va / 64) }) →
        ∃ t c, exec p.1 s = .next t ∧ t.core.pc = s.core.pc + 4 ∧ onlyCore u t ∧ chunkCore u.core t.core ∧ t.core.regs = s.core.regs ∧
          t.core.pois = s.core.pois ∧ t.core.chunk = some c ∧ c.wsig.getLsbD (sigOf (lineOf va)) = true ∧ c.dests = new ++ old ∧
          (∀ y, bufByte t.core.gbuf y =
            if va ≤ y ∧ y < va + p.2 then some ((s.core.reg b).extractLsb' (8 * (y - va)) 8) else bufByte s.core.gbuf y) ∧
          ∀ y, t.core.localByte y = s.core.localByte y) ∧
  ∀ (s : State) (d a b : Reg) (i : BitVec 16) (cause : Nat),
    let va := (s.core.reg a + i.signExtend 64).toNat
    2 ^ 32 ≤ va →
      (s.issues [a] [d] → ∀ p ∈ ([(.ldb d a i, 1), (.ldh d a i, 2), (.ldw d a i, 4), (.ldd d a i, 8), (.ldbu d a i, 1), (.ldhu d a i, 2),
        (.ldwu d a i, 4)] : List (Instr × Nat)), s.core.refused false va p.2 cause → exec p.1 s = s.trap cause (BitVec.ofNat 64 va)) ∧
      (s.issues [a, b] [] → ∀ p ∈ ([(.stb b a i, 1), (.sth b a i, 2), (.stw b a i, 4), (.std b a i, 8)] : List (Instr × Nat)),
        s.core.refused true va p.2 cause → exec p.1 s = s.trap cause (BitVec.ofNat 64 va))

/-- R298, R299, R148: LDA of an own-node address reads the line that the home, or for scope P the own die's replica home, gives, and
waits for nothing else once that read is performed; one with scope S of a replicated line waits until the core's own die has applied every number
and its notices have arrived; to another node it leaves by a port and waits. R298, R134: STR, its fence's waits over and the CLEANs that the core sent
performed, is one numbered write: of the line at its home, held there or filled first, or of a replicated line, whose update joins the sequencer; to host
memory it leaves as a write, which STR.S awaits. R21: a misaligned one takes 0x02, a local one 0x03, one at or above 2^57 0x04. The model's choices here: that
LDA.P sees the core's own updates that its die has not applied (log entry 32, DEDUCED), and what LDA.S and STR wait for (log entry 31, DEDUCED). -/
def Obligations.AcquireAndRelease : Prop :=
  (∀ (s : State) (d a : Reg) (u c : Bit) (z : BitVec 2), s.issuesAlone [a] [d] →
      let va := (s.core.reg a).toNat
      let n := 2 ^ z.toNat
      (∀ r l, s.core.ownNode va n → s.homeRead (s.core.pcn / 384) va Req.read (c == 1) = .done r l →
        (c = 1 → ∀ e, r.heldLeaf va = some e → leafRepl e = true → s.seqDone (s.core.pcn / 384) = true ∧ s.noticed s.core.pcn = true) →
        ∃ t v, exec (.lda d a u c z) s = .next t ∧ aloneReg r t d v ∧ r.core = s.core ∧
          bytesValue v n (u == 0) fun k => lineByte (if c = 1 then l else r.ownUpdates s.core.pcn (lineOf va) l) (va % 64 + k)) ∧
      (s.core.otherNode va n → (s.routePort va 0).isSome = true →
        ∃ t, exec (.lda d a u c z) s = .next t ∧ t.core.out = some (⟨.lda n (u == 0) (c == 1), BitVec.ofNat 64 va, d⟩, none) ∧
          t = { s with core := { s.core with out := t.core.out, outPort := s.routePort va 0 } }) ∧
      (∀ r h, s.core.ownNode va n → s.homeRead (s.core.pcn / 384) va Req.read (c == 1) = .host r h →
        ∃ t, exec (.lda d a u c z) s = .next t ∧ t.core.out = some (⟨.lda n (u == 0) (c == 1), BitVec.ofNat 64 va, d⟩, some h) ∧
          t = { r with core := { s.core with out := t.core.out, outPort := none } }) ∧
      ∀ cause, refusedGlobal va n cause → exec (.lda d a u c z) s = s.trap cause (s.core.reg a)) ∧
  (∀ (s : State) (a b : Reg) (c : Bit) (z : BitVec 2) (cause : Nat), s.issuesAlone [a, b] [] → refusedGlobal (s.core.reg a).toNat (2 ^ z.toNat) cause →
    exec (.str a b c z) s = s.trap cause (s.core.reg a)) ∧
  (∀ (s : State) (a b : Reg) (c : Bit) (z : BitVec 2), s.issuesAlone [a, b] [] →
      let va := (s.core.reg a).toNat
      let n := 2 ^ z.toNat
      s.core.ownNode va n → (c = 0 → s.fencePDone s.core.pcn = true) → (c = 1 → s.fenceSDone = true) →
      let x := lineOf va
      let y := (s.core.reg b).toNat % 2 ^ (8 * n)
      let u := State.landCleans { s with core := { s.core with fence := none } } s.core.pcn
      (∀ l, u.heldAtHome va Req.write l → ∃ t, exec (.str a b c z) s = .next t ∧ writtenAtHome u t va n y l ∧
        t.core = { s.core.doneFrom with fence := none, l1 := t.core.l1 }) ∧
      (∀ r leaf pa, u.writeCheck va Req.write = .ok (r, .own leaf pa) → u.deferred s.core.pcn (sigBit x) = false → ∃ t, exec (.str a b c z) s = .next t ∧
        t.commits = u.commits + 1 ∧ t.core = { s.core.doneFrom with fence := none, l1 := t.core.l1 } ∧ t.core.l1Find x = none ∧
        ((r.l2.filter fun m => m.slice == homeOf x && l2Set m.line == l2Set x).length < 16 → r.l2Find (homeOf x) x = none → ∃ m,
          t.l2Find (homeOf x) x = some m ∧ m.dirty = true ∧ m.pa = pa ∧ lineGet m.data (va % 64) n = y ∧
            ∀ k, k < 64 → k < va % 64 ∨ va % 64 + n ≤ k → lineByte m.data k = lineByte (r.fill (homeOf x) x leaf pa).2.1 k)) ∧
      (∀ r leaf pa, u.writeCheck va Req.write = .ok (r, .repl leaf pa) → u.deferred s.core.pcn (sigBit x) = false → u.seqQueue.length < 512 →
        ∃ t, exec (.str a b c z) s = .next t ∧ t.commits = u.commits + 1 ∧ t.core = { s.core.doneFrom with fence := none, l1 := t.core.l1 } ∧
          t.core.l1Find x = none ∧ t.dram = r.dram ∧ t.l2 = r.l2 ∧ t.seqNext = u.seqNext + 1 ∧ ∃ (mask : BitVec 64) (data : Line),
            t.seqQueue = u.seqQueue ++ [⟨u.seqNext, x, mask, data, leaf, pa, s.core.pcn⟩] ∧ lineGet data (va % 64) n = y ∧
            ∀ k, k < 64 → (mask.getLsbD k = true ↔ va % 64 ≤ k ∧ k < va % 64 + n)) ∧
      ∀ r h, u.writeCheck va Req.write = .ok (r, .host h) →
        let acc : Access := ⟨.str n (BitVec.ofNat 64 y) (c == 1), BitVec.ofNat 64 va, 0⟩
        let w : FarWrite := ⟨s.core.pcn, s.owner, s.core.ctl.mode == .system, cellsOf (h / 64 * 64 + va % 64) n y, some acc, none, va / 64, false⟩
        exec (.str a b c z) s = .next { r with
          hostWrites := u.hostWrites ++ [w]
          core := if c = 1 then { s.core with fence := none, out := some (acc, some h), outPort := none } else { s.core.doneFrom with fence := none } })

/-- R301, R302, R138: a returning or a quiet AMO on a line that its home holds is one numbered write of the new value; d receives the old
one (a word sign-extended), the quiet form writes no register. R303, R134: CAS writes when the memory operand equals g[d], and d receives the old value; a failing CAS writes nothing and gives no
number. R21: a misaligned one takes 0x02, a local one 0x03, one at or above 2^57 0x04. -/
def Obligations.AtomicOperations : Prop :=
  (∀ (s : State) (d a b : Reg) (q w : Bit) (l : L2Line), s.issuesAlone [a, b] [d] →
      let va := (s.core.reg a).toNat
      let n := if w = 1 then 8 else 4
      let y := (s.core.reg b).toNat % 2 ^ (8 * n)
      let m := lineGet l.data (va % 64) n
      let signed (v : Nat) : Int := (BitVec.ofNat (8 * n) v).toInt
      s.core.ownNode va n → s.heldAtHome va Req.both l →
      ∀ p ∈ ([
        (.amoAdd d a b q w, m + y), (.amoAnd d a b q w, m &&& y), (.amoOr d a b q w, m ||| y), (.amoXor d a b q w, m ^^^ y),
        (.amoMin d a b q w, if signed m ≤ signed y then m else y), (.amoMax d a b q w, if signed m ≤ signed y then y else m),
        (.amoMinu d a b q w, min m y), (.amoMaxu d a b q w, max m y), (.amoSwap d a b q w, y),
        (.amoFadd d a b q w, (addCode (.ieee ieee32) .rne 0 m y).1), (.amoFmax d a b q w, (ieee32.minMax true m y).1),
        (.amoFmin d a b q w, (ieee32.minMax false m y).1), (.amoTadd d a b q w, (addCode (.tap tap32) .rne 0 m y).1)] : List (Instr × Nat)),
      ∃ t, exec p.1 s = .next t ∧ writtenAtHome s t va n p.2 l ∧
        t.core = { s.core.doneFrom with l1 := t.core.l1, regs := t.core.regs, pois := t.core.pois, sent := false } ∧
        (if q = 1 then t.core.regs = s.core.regs ∧ t.core.pois = s.core.pois
         else holds t.core d (if w = 1 then BitVec.ofNat 64 m else BitVec.ofInt 64 (signed m)) ∧ otherRegs s.core t.core d)) ∧
  (∀ (s : State) (d a b : Reg) (w : Bit) (l : L2Line), s.issuesAlone [a, b, d] [d] →
      let va := (s.core.reg a).toNat
      let n := if w = 1 then 8 else 4
      let m := lineGet l.data (va % 64) n
      s.core.ownNode va n → s.heldAtHome va Req.both l →
      ∃ t, exec (.cas d a b w) s = .next t ∧
        holds t.core d (if w = 1 then BitVec.ofNat 64 m else BitVec.ofInt 64 (BitVec.ofNat 32 m).toInt) ∧ otherRegs s.core t.core d ∧
        t.core = { s.core.doneFrom with l1 := t.core.l1, regs := t.core.regs, pois := t.core.pois, sent := false } ∧
        (if m = (s.core.reg d).toNat % 2 ^ (8 * n) then writtenAtHome s t va n (s.core.reg b).toNat l
         else t = { s with core := t.core } ∧ t.core.l1 = s.core.l1.filter fun e => e.line != lineOf va)) ∧
  ∀ (s : State) (d a b : Reg) (q w : Bit) (cause : Nat), refusedGlobal (s.core.reg a).toNat (if w = 1 then 8 else 4) cause →
    (s.issuesAlone [a, b] [d] → ∀ i ∈ [Instr.amoAdd d a b q w, .amoAnd d a b q w, .amoOr d a b q w, .amoXor d a b q w, .amoMin d a b q w,
      .amoMax d a b q w, .amoMinu d a b q w, .amoMaxu d a b q w, .amoSwap d a b q w, .amoFadd d a b q w, .amoFmax d a b q w, .amoFmin d a b q w,
      .amoTadd d a b q w], exec i s = s.trap cause (s.core.reg a)) ∧
    (s.issuesAlone [a, b, d] [d] → exec (.cas d a b w) s = s.trap cause (s.core.reg a))

/-- R298, R299, R302: to another node, STR.P and a quiet AMO complete once the write has left by its port, and are then under way there;
STR.S, a returning AMO and CAS wait for the acknowledgement or the old value. -/
def Obligations.FarStoresAndAtomics : Prop :=
  ∀ (s : State) (d a b : Reg) (c w : Bit) (z : BitVec 2), s.issuesAlone [a, b] [d] →
    let va := (s.core.reg a).toNat
    let y := s.core.reg b
    let u := s.landCleans s.core.pcn
    let sent (bytes : List Host.Cell) (acc : Access) (f : Nat) : List FarWrite :=
      s.remoteWrites ++ [⟨s.core.pcn, s.owner, s.core.ctl.mode == .system, bytes, some acc, s.routePort va f, va / 64, false⟩]
    let leaves (i : Instr) (acc : Access) : Prop := exec i s = .next { s with core := s.core.doneFrom, remoteWrites := sent [] acc 2 }
    let waits (i : Instr) (acc : Access) : Prop :=
      exec i s = .next { s with core := { s.core with out := some (acc, none), outPort := s.routePort va 2 } }
    (s.core.otherNode va (2 ^ z.toNat) → (s.routePort va 0).isSome = true →
      let n := 2 ^ z.toNat
      let acc : Access := ⟨.str n (BitVec.ofNat 64 (y.toNat % 2 ^ (8 * n))) (c == 1), s.core.reg a, 0⟩
      let bytes := cellsOf va n (y.toNat % 2 ^ (8 * n))
      (c = 0 → s.fencePDone s.core.pcn = true →
        exec (.str a b c z) s = .next { u with core := { s.core.doneFrom with fence := none }, remoteWrites := sent bytes acc 0 }) ∧
      (c = 1 → s.fenceSDone = true → exec (.str a b c z) s = .next { u with
        core := { s.core with fence := none, out := some (acc, none), outPort := s.routePort va 0 }, remoteWrites := sent bytes acc 0 })) ∧
    (s.core.otherNode va (if w = 1 then 8 else 4) → (s.routePort va 2).isSome = true →
      (∀ p ∈ ([(fun d n => .amoAdd d a b n w, 0), (fun d n => .amoAnd d a b n w, 1), (fun d n => .amoOr d a b n w, 2),
        (fun d n => .amoXor d a b n w, 3), (fun d n => .amoMin d a b n w, 4), (fun d n => .amoMax d a b n w, 5),
        (fun d n => .amoMinu d a b n w, 6), (fun d n => .amoMaxu d a b n w, 7), (fun d n => .amoSwap d a b n w, 8),
        (fun d n => .amoFadd d a b n w, 9), (fun d n => .amoFmax d a b n w, 10), (fun d n => .amoFmin d a b n w, 11),
        (fun d n => .amoTadd d a b n w, 12)] : List ((Reg → Bit → Instr) × BitVec 4)),
        leaves (p.1 0 1) ⟨.amo p.2 w y 1, s.core.reg a, 0⟩ ∧ waits (p.1 d 0) ⟨.amo p.2 w y 0, s.core.reg a, d⟩) ∧
      (s.core.poisoned d = false → waits (.cas d a b w) ⟨.cas w (s.core.reg d) y, s.core.reg a, d⟩))

/-- R306, R65: the range forms complete on every range of the own node; CLEAN, INV and CLINV touch no register and no line outside the
range, INV and CLINV leave no line of it in a slice or in the core's L1, INV writes nothing to DRAM, CLEAN of the one held line puts its
data there; PREF is only said to complete, for a hint may do nothing (R307); an empty range does nothing, a local start traps 0x03 and a range that leaves the
node 0x04. A CLEAN whose write-back is slow (the model's hint, log entry 1) leaves it under way until a fence of the core (R139, R458), and a range may be left at a line boundary, the instruction not complete,
its lines so far done (R307). R139, R305: FENCE.P completes once no atomic and no STR of the core is under way to the host or another node; FENCE.S
once no write of the core is under way there, the replica homes of its die have applied every number that the sequencer had issued when the wait
began, and their notices have arrived; both perform the CLEANs that the core sent. That the fences wait for these and no others, the notices above all, is the
model's choice (log entry 31, DEDUCED), and so is that an INV has taken effect when it retires (log entry 98, DEDUCED). -/
def Obligations.MaintenanceAndFences : Prop :=
  (∀ (s : State) (a b : Reg), s.issuesAlone [a, b] [] →
      let v := (s.core.reg a).toNat
      let n := (s.core.reg b).toNat
      let held (t : State) : List L2Line := t.l2.filter fun l => decide (lineOf v ≤ l.line) && decide (l.line ≤ lineOf (v + n - 1))
      let rest (t : State) : List L2Line := t.l2.filter fun l => !(decide (lineOf v ≤ l.line) && decide (l.line ≤ lineOf (v + n - 1)))
      let inside := 2 ^ 32 ≤ v ∧ v + n ≤ 2 ^ 57 ∧ nodeOf v = s.core.ctl.node.toNat ∧ nodeOf (v + n - 1) = s.core.ctl.node.toNat
      (0 < n → inside → s.core.part = none → s.core.slowClean = true → ∀ l, held s = [l] → ∀ z ∈ [(Instr.clean a b, false), (.clinv a b, true)],
        ∃ t, exec z.1 s = .next t ∧ t.core = { s.core.doneFrom with slowClean := false, l1 := t.core.l1 } ∧ t.l2 = s.l2 ∧ t.dram = s.dram ∧
          t.cleans = s.cleans ++ [⟨s.core.pcn, l.slice, l.line, z.2⟩]) ∧
      (0 < n → inside → ∀ m, s.core.part = some m → lineOf v + m ≤ lineOf (v + n - 1) → ∀ p ∈ [Instr.clean a b, .inv a b, .clinv a b, .pref a b],
        ∃ t, exec p s = .next t ∧ t.core = { s.core with part := none, l1 := t.core.l1 } ∧
          (p = .inv a b → m ≠ 0 → t.l2 = s.l2.filter fun l => !(decide (lineOf v ≤ l.line) && decide (l.line ≤ lineOf v + m - 1)))) ∧
      (0 < n → inside → s.core.part = none → s.core.slowClean = false →
        (∃ t, exec (.clean a b) s = .next t ∧ t.core = s.core.doneFrom ∧ rest t = rest s ∧
          ∀ l, held s = [l] → held t = [{ l with dirty := false }] ∧ (l.dirty = true → t.dram.line (dramFlat l.pa / 64 * 64) = l.data)) ∧
        (∃ t, exec (.inv a b) s = .next t ∧ t.core = { s.core.doneFrom with l1 := t.core.l1 } ∧ held t = [] ∧ rest t = rest s ∧
          t.dram = s.dram ∧ ∀ x, lineOf v ≤ x → x ≤ lineOf (v + n - 1) → t.core.l1Find x = none) ∧
        (∃ t, exec (.clinv a b) s = .next t ∧ t.core = { s.core.doneFrom with l1 := t.core.l1 } ∧ held t = [] ∧ rest t = rest s ∧
          (∀ l, held s = [l] → l.dirty = true → t.dram.line (dramFlat l.pa / 64 * 64) = l.data) ∧
          ∀ x, lineOf v ≤ x → x ≤ lineOf (v + n - 1) → t.core.l1Find x = none) ∧
        ∃ t, exec (.pref a b) s = .next t ∧ t.core = s.core.doneFrom) ∧
      ∀ p ∈ [Instr.clean a b, .inv a b, .clinv a b, .pref a b],
        (n = 0 → exec p s = .next { s with core := s.core.doneFrom }) ∧
        (0 < n → v < 2 ^ 32 → exec p s = s.trap 0x03 (s.core.reg a)) ∧
        (0 < n → 2 ^ 32 ≤ v → ¬inside → exec p s = s.trap 0x04 (s.core.reg a))) ∧
  (∀ (s : State), s.issuesAlone [] [] →
      let p := s.core.pcn
      let u := s.landCleans p
      (∀ c ∈ u.cleans, c.pcn ≠ p) ∧
      (∀ l inv, s.cleans = [⟨p, l.slice, l.line, inv⟩] → s.l2Find l.slice l.line = some l → l.dirty = true →
        u.dram.line (dramFlat l.pa / 64 * 64) = l.data ∧ u.l2Find l.slice l.line = if inv then none else some { l with dirty := false }) ∧
      ((∀ w ∈ s.hostWrites ++ s.remoteWrites, w.pcn = p → w.rmw = none) → exec .fenceP s = .next { u with core := s.core.doneFrom }) ∧
      ((∃ w ∈ s.hostWrites ++ s.remoteWrites, w.pcn = p ∧ w.rmw.isSome = true) → exec .fenceP s = .next s) ∧
      ((∀ w ∈ s.hostWrites ++ s.remoteWrites, w.pcn ≠ p) → s.core.fence.getD (s.seqNext - 1) ≤ s.seqApplied.toList.getD (p / 384 % 4) 0 →
        (∀ x ∈ s.notices, x.1 ≠ p) → exec .fenceS s = .next { u with core := { s.core.doneFrom with fence := none } }) ∧
      ((∃ w ∈ s.hostWrites ++ s.remoteWrites, w.pcn = p) ∨ s.seqApplied.toList.getD (p / 384 % 4) 0 < s.core.fence.getD (s.seqNext - 1) ∨
          (∃ x ∈ s.notices, x.1 = p) →
        exec .fenceS s = .next { s with core := { s.core with fence := some (s.core.fence.getD (s.seqNext - 1)) } }))

/-- R308, R309, R310, R311: NMC copies its 32-byte request and sends it, NMRES, NMRES.ABANDON and NMSTAT send theirs, to another node by the port of its
route; d is pending from then on, nothing else of the core changes; single-bit errors of the request are counted (R443). That d is not poisoned from its issue on is the model's reading (log entry 30, DEDUCED: the bit
clears at the issue, not when the reply lands). A misaligned request traps 0x02, one that breaks R309 traps 0x09, and d is then not pending. -/
def Obligations.NearMemoryRequests : Prop :=
  ∀ (s : State) (d a : Reg), s.issuesAlone [a] [d] →
    let p := (s.core.reg a).toNat
    let w (i : Nat) : Word := BitVec.ofNat 64 (s.core.localRead (p + 8 * i) 8)
    let kind := (w 0).toNat % 16
    let n := (w 0).toNat / 2 ^ 32
    let good := kind ≤ 3 ∧ (w 0).toNat / 16 % 2 ^ 28 = 0 ∧ (kind = 0 → n = 0 ∧ w 3 = 0) ∧ (kind = 1 → 1 ≤ n) ∧ (kind = 2 → 1 ≤ n ∧ w 3 = 0) ∧
      (kind = 3 → n = 0 ∧ w 2 = 0 ∧ w 3 = 0)
    let sent (z : State) (i : Instr) (r : NmReq) (va : Word) : Prop :=
      let port := if s.isOwn va.toNat = true then none else s.routePort va.toNat 16
      ∃ t, exec i s = .next t ∧ t.nmFlight = s.nmFlight ++ [⟨⟨.nmc r, va, d⟩, s.owner, s.core.ctl.mode == .system, false, port⟩] ∧
        (∀ r, t.core.pending r = (s.core.pending r || (r == d && r != 0))) ∧ (∀ r, r ≠ d → t.core.poisoned r = s.core.poisoned r) ∧
        t.core.poisoned d = false ∧
        t = { z with nmFlight := t.nmFlight, core := { s.core.doneFrom with pend := t.core.pend, pois := t.core.pois } }
    let met := s.heal (s.core.softWords p 32)
    (p % 32 = 0 → s.core.rangeCheck false p 32 = none → s.rangeBusy p 32 = false → s.core.ttStall false p 32 = false →
      s.core.badWord p 32 = none →
      (good → sent met (.nmc d a) (.request (w 0) (w 1) (w 2) (w 3)) (if kind = 0 then w 2 else w 1)) ∧
      (¬good → exec (.nmc d a) s = met.trap 0x09 (s.core.reg a))) ∧
    (p % 32 ≠ 0 → exec (.nmc d a) s = s.trap 0x02 (s.core.reg a)) ∧
    sent s (.nmres d a) .resume (s.core.reg a) ∧ sent s (.nmresAbandon d a) .abandon (s.core.reg a) ∧
    sent s (.nmstat d a) (.request 3 (s.core.reg a) 0 0) (s.core.reg a)

/-! ## Floating, tapered and vector instructions (spec 14, 15) -/

/-- R312, R314, R316 to R319: the f32 instructions work on the low words of their sources, round once with the mode that rm names (one draw
under SR), zero-extend the result and add their flags to FFLAGS; the comparisons, FMIN and FMAX draw nothing; FCLASS sets the one bit of
R317 and no flag. -/
def Obligations.FloatOperations : Prop :=
  ∀ (s : State) (d a b c : Reg) (r : BitVec 3),
    let x := (s.core.reg a).toNat % 2 ^ 32
    let y := (s.core.reg b).toNat % 2 ^ 32
    let z := (s.core.reg c).toNat % 2 ^ 32
    let rm := s.core.ctl.rmOf r
    let u := (drawn rm s.core.gen).1
    let val := decodeVal f32 false
    (s.issues [a, b] [d] → ∀ p ∈ ([
      (.fadd d a b r, addCode f32 rm u x y), (.fsub d a b r, subCode f32 rm u x y), (.fmul d a b r, mulCode f32 rm u x y),
      (.fdiv d a b r, roundRes f32 rm u (divVal false (val x) (val y)))] : List (Instr × Nat × Flg)),
      ∃ t, exec p.1 s = .next t ∧ roundsTo s t d (BitVec.ofNat 64 (p.2.1 % 2 ^ 32)) p.2.2 (drawn rm s.core.gen).2) ∧
    (s.issues [a] [d] → ∃ t, exec (.fsqrt d a r) s = .next t ∧ roundsTo s t d
      (BitVec.ofNat 64 ((roundRes f32 rm u (sqrtVal false (val x))).1 % 2 ^ 32)) (roundRes f32 rm u (sqrtVal false (val x))).2
      (drawn rm s.core.gen).2) ∧
    (s.issues [a, b, c] [d] → ∀ p ∈ ([(.fma d a b c r, false, false), (.fms d a b c r, false, true), (.fnma d a b c r, true, false),
      (.fnms d a b c r, true, true)] : List (Instr × Bool × Bool)),
      ∃ t, exec p.1 s = .next t ∧ roundsTo s t d (BitVec.ofNat 64 ((fmaCode f32 rm u p.2.1 p.2.2 x y z).1 % 2 ^ 32))
        (fmaCode f32 rm u p.2.1 p.2.2 x y z).2 (drawn rm s.core.gen).2) ∧
    (s.issues [a, b] [d] → ∀ p ∈ ([
      (.fmin d a b, minMaxCode f32 false x y), (.fmax d a b, minMaxCode f32 true x y),
      (.feq d a b, ((eqCode f32 x y).1.toNat, (eqCode f32 x y).2)), (.flt d a b, ((ltCode f32 false x y).1.toNat, (ltCode f32 false x y).2)),
      (.fle d a b, ((ltCode f32 true x y).1.toNat, (ltCode f32 true x y).2))] : List (Instr × Nat × Flg)),
      ∃ t, exec p.1 s = .next t ∧ roundsTo s t d (BitVec.ofNat 64 p.2.1) p.2.2 s.core.gen) ∧
    (s.issues [a] [d] →
      let neg := 2 ^ 31 ≤ x
      let mag := x % 2 ^ 31
      let bit := if mag = 0x7F800000 then (if neg then 0 else 7) else if mag = 0 then (if neg then 3 else 4)
        else if mag < 0x00800000 then (if neg then 2 else 5) else if mag < 0x7F800000 then (if neg then 1 else 6)
        else if mag < 0x7FC00000 then 8 else 9
      ∃ t, exec (.fclass d a) s = .next t ∧ writesReg s t d (BitVec.ofNat 64 (2 ^ bit)))

/-- R312, R320, R321, R180, R325: the tap32 instructions round once and sign-extend the result; a result that creates NaR (none of the
operands is NaR) traps 0x0F when ST.NTE = 1, before anything of the instruction has happened. -/
def Obligations.TaperOperations : Prop :=
  ∀ (s : State) (d a b c : Reg) (r : BitVec 3),
    let nar := 0x80000000
    let x := (s.core.reg a).toNat % 2 ^ 32
    let y := (s.core.reg b).toNat % 2 ^ 32
    let z := (s.core.reg c).toNat % 2 ^ 32
    let rm := s.core.ctl.rmOf r
    let u := (drawn rm s.core.gen).1
    let val := decodeVal t32 false
    let outcome (i : Instr) (q : Nat × Flg) (xs : List Nat) : Prop :=
      if q.1 = nar ∧ nar ∉ xs ∧ s.core.ctl.nte = 1 then exec i s = s.trap 0x0F 0
      else ∃ t, exec i s = .next t ∧ roundsTo s t d ((BitVec.ofNat 32 q.1).signExtend 64) q.2 (drawn rm s.core.gen).2
    (s.issues [a, b] [d] → outcome (.tadd d a b r) (addCode t32 rm u x y) [x, y] ∧ outcome (.tsub d a b r) (subCode t32 rm u x y) [x, y] ∧
      outcome (.tmul d a b r) (mulCode t32 rm u x y) [x, y] ∧
      outcome (.tdiv d a b r) (roundRes t32 rm u (divVal true (val x) (val y))) [x, y]) ∧
    (s.issues [a] [d] → outcome (.tsqrt d a r) (roundRes t32 rm u (sqrtVal true (val x))) [x]) ∧
    (s.issues [a, b, c] [d] → ∀ p ∈ ([(.tfma d a b c r, false, false), (.tfms d a b c r, false, true), (.tfnma d a b c r, true, false),
      (.tfnms d a b c r, true, true)] : List (Instr × Bool × Bool)), outcome p.1 (fmaCode t32 rm u p.2.1 p.2.2 x y z) [x, y, z])

/-- R171, R172, R195: an IEEE result is the one correct rounding of the exact value: of any dyadic number, which is what conversions round, and of
the sum, difference, product, fused product and sum, quotient and root of finite operands (in units of the least subnormal); NX is set exactly when
the result is not that value, OF when that value is beyond the format, and UF when an inexact result is tiny. An exact zero sum of operands of opposite sign is +0, except under RDN. R316,
R319: a NaN operand gives the canonical NaN, with NV where one signals; ∞ − ∞, 0 × ∞ (of FMA also beside a quiet NaN), 0/0, ∞/∞ and the root of a
negative number give it with NV; a quotient by zero is an infinity with DZ; the rest of the table of infinities and zeros. FEQ, FLT and FLE compare the
numbers, and minimumNumber and maximumNumber give the other operand beside one NaN, −0 below +0. -/
def Obligations.IeeeRounding : Prop :=
  ∀ (f : Ieee) (rm : Rm) (u : Nat), f ∈ [ieee32, ieeeBf16, ieee16] → u < 2 ^ 32 →
    (∀ (neg : Bool) (m : Nat) (e : Int), 0 < m → f.roundedTo rm u neg (fun k =>
      let sh := e - f.emin + f.prec - 1
      compare (2 ^ 32 * (if neg then -(m : Int) else m) * 2 ^ sh.toNat) (k * 2 ^ (-sh).toNat)) (f.round rm u neg m e false).1) ∧
    (∀ (x y z : Nat), f.isFinite x → f.isFinite y → f.isFinite z →
      let k := FmtKind.ieee f
      let val := decodeVal k false
      let one : Int := f.one
      let (sx, sy, sz) := (f.units x, f.units y, f.units z)
      let is (r : Nat × Flg) (n : Int) (d : Nat) : Prop := n ≠ 0 →
        f.roundedTo rm u (decide (n < 0)) (fun i => compare (2 ^ 32 * n) (i * d)) r.1 ∧ (r.2.getLsbD 0 = false ↔ f.isFinite r.1 ∧ f.units r.1 * d = n) ∧
          (r.2.getLsbD 2 = true ↔ f.isInf r.1 = true ∨ f.units f.infCode * d ≤ n.natAbs) ∧ (2 ^ (f.prec - 1) * d ≤ n.natAbs → r.2.getLsbD 1 = false) ∧
          (2 * n.natAbs ≤ (2 ^ f.prec - 1) * d → r.2.getLsbD 1 = r.2.getLsbD 0) ∧ r.2.getLsbD 3 = false ∧ r.2.getLsbD 4 = false
      is (addCode k rm u x y) (sx + sy) 1 ∧ is (subCode k rm u x y) (sx - sy) 1 ∧ is (mulCode k rm u x y) (sx * sy) f.one ∧
      (∀ a b : Bool, is (fmaCode k rm u a b x y z) ((if a then -1 else 1) * sx * sy + (if b then -1 else 1) * sz * one) f.one) ∧
      (sy ≠ 0 → is (roundRes k rm u (divVal false (val x) (val y))) (sx * one * sy.sign) sy.natAbs) ∧
      (0 < sx → f.roundedTo rm u false (fun i => if i < 0 then .gt else compare (2 ^ 64 * sx * one) (i * i))
        (roundRes k rm u (sqrtVal false (val x))).1) ∧
      (sx + sy = 0 → addCode k rm u x y = (if x = y then x else if rm = .rdn then 2 ^ (f.width - 1) else 0, 0))) ∧
    ∀ (x y z : Nat), x < 2 ^ f.width → y < 2 ^ f.width → z < 2 ^ f.width →
      let k := FmtKind.ieee f
      let val := decodeVal k false
      let div := roundRes k rm u (divVal false (val x) (val y))
      let root := roundRes k rm u (sqrtVal false (val x))
      let fma := fmaCode k rm u false false x y z
      let invalid : Nat × Flg := (f.nanCode, 0x10)
      let neg := f.isNeg x != f.isNeg y
      let badProduct := f.isInf x && f.isZero y || f.isZero x && f.isInf y
      let nan (b : Bool) (vs : List Nat) : Nat × Flg := f.nanIf (b || vs.any f.isSig)
      (subCode k rm u x y = addCode k rm u x (f.flip y) ∧
        ∀ a b : Bool, fmaCode k rm u a b x y z = fmaCode k rm u false false (if a then f.flip x else x) y (if b then f.flip z else z)) ∧
      (f.isNaN x = true ∨ f.isNaN y = true → addCode k rm u x y = nan false [x, y] ∧ mulCode k rm u x y = nan false [x, y] ∧ div = nan false [x, y] ∧
        eqCode k x y = (false, (nan false [x, y]).2) ∧ (∀ e : Bool, ltCode k e x y = (false, 0x10)) ∧
        ∀ g : Bool, minMaxCode k g x y = (if f.isNaN x = true ∧ f.isNaN y = true then f.nanCode else if f.isNaN x then y else x, (nan false [x, y]).2)) ∧
      (f.isNaN x = true → root = nan false [x]) ∧
      (f.isNaN x = true ∨ f.isNaN y = true ∨ f.isNaN z = true → fma = nan badProduct [x, y, z]) ∧
      (f.isNaN x = false → (f.isZero x = true → root = (x, 0)) ∧ (f.isZero x = false → f.isNeg x = true → root = invalid) ∧
        (f.isInf x = true → f.isNeg x = false → root = (x, 0))) ∧
      (f.isNaN x = false → f.isNaN y = false →
        (f.isInf x = true ∨ f.isInf y = true →
          addCode k rm u x y = (if f.isInf x = true ∧ f.isInf y = true ∧ x ≠ y then invalid else (if f.isInf x then x else y, 0)) ∧
          mulCode k rm u x y = if badProduct then invalid else (f.withSign neg f.infCode, 0)) ∧
        (f.isInf x = false → f.isInf y = false → f.isZero x = true ∨ f.isZero y = true → mulCode k rm u x y = (f.withSign neg 0, 0)) ∧
        (f.isInf x = true ∨ f.isInf y = true ∨ f.isZero x = true ∨ f.isZero y = true → div =
          if f.isInf x = true ∧ f.isInf y = true ∨ f.isZero x = true ∧ f.isZero y = true then invalid
          else if f.isInf x then (f.withSign neg f.infCode, 0)
          else if f.isInf y || f.isZero x then (f.withSign neg 0, 0)
          else (f.withSign neg f.infCode, 0x08)) ∧
        eqCode k x y = (decide (f.units x = f.units y), 0) ∧ ltCode k false x y = (decide (f.units x < f.units y), 0) ∧
        ltCode k true x y = (decide (f.units x ≤ f.units y), 0) ∧
        let less := decide (f.units x < f.units y) || decide (f.units x = f.units y) && f.isNeg x
        minMaxCode k false x y = (if less then x else y, 0) ∧ minMaxCode k true x y = (if less then y else x, 0)) ∧
      (f.isNaN x = false → f.isNaN y = false → f.isNaN z = false →
        (badProduct = true → fma = invalid) ∧
        (badProduct = false → f.isInf x = true ∨ f.isInf y = true →
          fma = if f.isInf z = true ∧ f.isNeg z ≠ neg then invalid else (f.withSign neg f.infCode, 0)) ∧
        (f.isInf x = false → f.isInf y = false → f.isInf z = true → fma = (z, 0)) ∧
        (f.isFinite x → f.isFinite y → f.isFinite z → f.units x * f.units y + f.units z * f.one = 0 →
          fma = (if neg = f.isNeg z then z else if rm = .rdn then 2 ^ (f.width - 1) else 0, 0)))

/-- R177, R179, R195: a tapered result is the one correct rounding of the exact value on the bit string, saturated at maxpos and minpos: of any
dyadic number, and of the sum, difference, product, fused product and sum, quotient and root of real operands (in units of 2^−256); NX is set exactly
when the result is not that value, OF and UF when that value is beyond maxpos or within minpos, and an exact zero is the word 0 without flags. R179: a
NaR operand gives NaR without a flag; x / 0 creates NaR with DZ, 0 / 0 and the root of a negative number with NV. R178: tapered words compare as signed
integers. -/
def Obligations.TaperRounding : Prop :=
  ∀ (f : Tap) (rm : Rm) (u : Nat), f ∈ [tap32, tap16, tap8] → u < 2 ^ 32 →
    (∀ (neg : Bool) (m : Nat) (e : Int), 0 < m → f.roundedTo rm u neg (fun k =>
      compare (2 ^ 32 * m * 2 ^ (e + 256).toNat) (k * 2 ^ (-(e + 256)).toNat)) (f.round rm u neg m e false).1) ∧
    (∀ (x y z : Nat), x < 2 ^ f.n → y < 2 ^ f.n → z < 2 ^ f.n → f.nar ∉ [x, y, z] →
      let k := FmtKind.tap f
      let val := decodeVal k false
      let signed (p : Nat) : Int := if 2 ^ (f.n - 1) ≤ p then -(f.units p : Int) else f.units p
      let (sx, sy, sz) := (signed x, signed y, signed z)
      let is (r : Nat × Flg) (n : Int) (d : Nat) : Prop := if n = 0 then r = (0, 0) else
        f.roundedTo rm u (decide (n < 0)) (fun i => compare (2 ^ 32 * n.natAbs) (i * d)) r.1 ∧ (r.2.getLsbD 0 = false ↔ signed r.1 * d = n) ∧
          (r.2.getLsbD 2 = true ↔ f.units (f.nar - 1) * d < n.natAbs) ∧ (r.2.getLsbD 1 = true ↔ n.natAbs < f.units 1 * d)
      is (addCode k rm u x y) (sx + sy) 1 ∧ is (subCode k rm u x y) (sx - sy) 1 ∧ is (mulCode k rm u x y) (sx * sy) (2 ^ 256) ∧
      (∀ a b : Bool, is (fmaCode k rm u a b x y z) ((if a then -1 else 1) * sx * sy + (if b then -1 else 1) * sz * 2 ^ 256) (2 ^ 256)) ∧
      (sy ≠ 0 → is (roundRes k rm u (divVal true (val x) (val y))) (sx * 2 ^ 256 * sy.sign) sy.natAbs) ∧
      (0 < sx → f.roundedTo rm u false (fun i => compare (2 ^ 64 * sx.natAbs * 2 ^ 256) (i * i)) (roundRes k rm u (sqrtVal true (val x))).1)) ∧
    ∀ (x y z : Nat), x < 2 ^ f.n → y < 2 ^ f.n → z < 2 ^ f.n →
      let k := FmtKind.tap f
      let val := decodeVal k false
      let div := roundRes k rm u (divVal true (val x) (val y))
      let root := roundRes k rm u (sqrtVal true (val x))
      let value (v : Nat) : Int := (BitVec.ofNat f.n v).toInt
      (f.nar ∈ [x, y] → addCode k rm u x y = (f.nar, 0) ∧ subCode k rm u x y = (f.nar, 0) ∧ mulCode k rm u x y = (f.nar, 0) ∧ div = (f.nar, 0)) ∧
      (f.nar ∈ [x, y, z] → ∀ a b : Bool, fmaCode k rm u a b x y z = (f.nar, 0)) ∧
      (x ≠ f.nar → y = 0 → div = (f.nar, if x = 0 then 0x10 else 0x08)) ∧
      (x = 0 → root = (0, 0)) ∧ (x = f.nar → root = (f.nar, 0)) ∧ (f.nar < x → root = (f.nar, 0x10)) ∧
      eqCode k x y = (decide (x = y), 0) ∧ ltCode k false x y = (decide (value x < value y), 0) ∧ ltCode k true x y = (decide (value x ≤ value y), 0) ∧
      minMaxCode k false x y = (if value x ≤ value y then x else y, 0) ∧ minMaxCode k true x y = (if value x ≤ value y then y else x, 0)

/-- R322, R324: TCLS writes the fields of a tapered word; CVT converts a register between formats, with one rounding and its flags, and
traps 0x0F when it creates NaR and ST.NTE = 1. R324, R186, R187: equal formats copy, but that a NaN becomes canonical; NaNs, infinities and zeros give what
the table of R186 names; any other number is rounded once into the destination, an integer out of range giving its bound with NV alone, and lns6 clamped
(R185). -/
def Obligations.ConvertAndClassify : Prop :=
  (∀ (dst fr : BitVec 4) (dn sn : Bool) (rm : Rm) (u x : Nat), dst.toNat ≤ 10 → fr.toNat ≤ 10 → (dn = true → 7 ≤ dst.toNat) →
    (sn = true → 7 ≤ fr.toNat) → u < 2 ^ 32 →
    let dk := fmtKind dst.toNat
    let sk := fmtKind fr.toNat
    x < 2 ^ sk.width →
    let res := cvtCode dk dn sk sn rm u x
    let nan : Bool := match sk with | .ieee f => f.isNaN x | .tap f => x == f.nar | .lns => x == 0x30 | .int _ => false
    let sig : Bool := match sk with | .ieee f => f.isSig x | _ => false
    let inf : Bool := match sk with | .ieee f => f.isInf x | _ => false
    let zero : Bool := match sk with | .ieee f => f.isZero x | .lns => x == 0x10 | _ => x == 0
    let neg : Bool := match sk with | .int w => !sn && decide (2 ^ (w - 1) ≤ x) | k => decide (2 ^ (k.width - 1) ≤ x)
    let nv (b : Bool) : Flg := if b then 0x10 else 0
    let least (w : Nat) : Nat := if dn then 0 else 2 ^ (w - 1)
    let greatest (w : Nat) : Nat := if dn then 2 ^ w - 1 else 2 ^ (w - 1) - 1
    if dk = sk ∧ dn = sn then res = match sk with | .ieee f => ⟨if nan then f.nanCode else x, nv sig, false⟩ | _ => ⟨x, 0, false⟩
    else if nan = true then res = match dk with
      | .ieee f => ⟨f.nanCode, nv sig, false⟩
      | .tap f => ⟨f.nar, nv sig, sig⟩
      | .lns => ⟨0x30, nv sig, sig⟩
      | .int w => ⟨least w, 0x10, false⟩
    else if inf = true then res = match dk with
      | .ieee f => ⟨f.withSign neg f.infCode, 0, false⟩
      | .tap f => ⟨f.nar, 0x10, true⟩
      | .lns => ⟨0x30, 0x10, true⟩
      | .int w => ⟨if neg then least w else greatest w, 0x10, false⟩
    else if zero = true then res = match dk with
      | .ieee f => ⟨f.withSign neg 0, 0, false⟩
      | .lns => ⟨0x10, 0, false⟩
      | _ => ⟨0, 0, false⟩
    else res.created = false ∧ dk.converted dn rm u neg (sk.order sn x) res.code res.flags ∧
      (dk = .lns → lnsConverted rm (sk.number sn x).1 (sk.number sn x).2 res.code res.flags)) ∧
  ∀ (s : State) (d a : Reg), s.issues [a] [d] →
    (∀ w : BitVec 2, w ≠ 3 →
      let f : Tap := if w = 0 then tap32 else if w = 1 then tap16 else tap8
      ∃ t v, exec (.tcls d a w) s = .next t ∧ writesReg s t d v ∧ match f.fields (s.core.reg a).toNat with
        | .zero => v = 0x200000000
        | .nar => v = 0x400000000
        | .real neg m k e _ fb => v.extractLsb' 33 31 = 0 ∧ v.getLsbD 32 = neg ∧ v.extractLsb' 24 8 = BitVec.ofNat 8 fb ∧
          v.extractLsb' 16 8 = BitVec.ofNat 8 e ∧ v.extractLsb' 8 8 = BitVec.ofInt 8 k ∧ v.extractLsb' 0 8 = BitVec.ofNat 8 m) ∧
    ∀ (p q : Bit) (r : BitVec 3) (dst fr : BitVec 4),
      let dk := fmtKind dst.toNat
      let sk := fmtKind fr.toNat
      let rm := s.core.ctl.rmOf r
      let res := cvtCode dk (p == 1) sk (q == 1) rm (drawn rm s.core.gen).1 ((s.core.reg a).toNat % 2 ^ (if fr = 6 then 6 else sk.width))
      if res.created = true ∧ s.core.ctl.nte = 1 then exec (.cvt d a p q r dst fr) s = s.trap 0x0F 0
      else ∃ t, exec (.cvt d a p q r dst fr) s = .next t ∧ roundsTo s t d (dk.result (p == 1) res.code) res.flags (drawn rm s.core.gen).2

/-- R329 to R333, R335, R336: the VAR instructions compute VN elements from vector progress on, each from the elements of a and b (or the
broadcast scalar) and, for VFMA and VSEL, the old element of d; pointers with their post-increment bit grow by the length of the range; single-bit errors
under what is read are counted (R443). R169, R336: integers wrap and compare as signed ones, without a flag. R326, R22, R330: a misaligned pointer takes 0x02
with the pointer, then a granule of a range takes the cause that R21 gives it, the first one in the order d, a, b, lowest address first, with the first failing
byte, and then a destination that meets a source without being the same range takes 0x03 with the first common byte; nothing is written. -/
def Obligations.VectorArithmetic : Prop :=
  (∀ (w : Nat) (rm : Rm) (u x y z : Nat), w ∈ [8, 16, 32, 64] → x < 2 ^ w → y < 2 ^ w → z < 2 ^ w →
    let k := FmtKind.int w
    let value (v : Nat) : Int := (BitVec.ofNat w v).toInt
    addCode k rm u x y = ((x + y) % 2 ^ w, 0) ∧ subCode k rm u x y = ((x + (2 ^ w - y)) % 2 ^ w, 0) ∧ mulCode k rm u x y = (x * y % 2 ^ w, 0) ∧
      fmaCode k rm u false false x y z = ((x * y + z) % 2 ^ w, 0) ∧ eqCode k x y = (decide (x = y), 0) ∧
      ltCode k false x y = (decide (value x < value y), 0) ∧ minMaxCode k false x y = (if value x ≤ value y then x else y, 0) ∧
      minMaxCode k true x y = (if value x ≤ value y then y else x, 0)) ∧
  (∀ (s : State) (d a b : Reg) (f : BitVec 4) (p q sc : Bit) (cause at_ : Nat),
    let incs := (if p = 1 then [d] else []) ++ (if q = 1 then (if sc = 1 then [a] else [a, b]) else [])
    let n := s.core.ctl.vn.toNat
    let start := s.core.vprog.toNat
    let ptr (r : Reg) := (s.core.reg r).toNat
    s.issuesAlone [a, b, d] incs → ∀ e ∈ ([(.vadd d a b f p q sc, false), (.vsub d a b f p q sc, false), (.vmul d a b f p q sc, false),
      (.vfma d a b f p q sc, true), (.vmin d a b f p q sc, false), (.vmax d a b f p q sc, false), (.vand d a b f p q sc, false), (.vor d a b f p q sc, false),
      (.vxor d a b f p q sc, false), (.vshl d a b f p q sc, false), (.vcmpeq d a b f p q sc, false), (.vcmplt d a b f p q sc, false),
      (.vsel d a b f p q sc, true)] : List (Instr × Bool)),
    s.core.vectorRefused (vRange f (ptr d) start n true e.2 :: vRange f (ptr a) start n false true ::
      (if sc = 1 then [] else [vRange f (ptr b) start n false true])) cause at_ →
    exec e.1 s = s.trap cause (BitVec.ofNat 64 at_)) ∧
  ∀ (s : State) (d a b : Reg) (f : BitVec 4) (p q sc : Bit),
    let incs := (if p = 1 then [d] else []) ++ (if q = 1 then (if sc = 1 then [a] else [a, b]) else [])
    let k := fmtKind f.toNat
    let n := s.core.ctl.vn.toNat
    let start := s.core.vprog.toNat
    let rm := s.core.ctl.dyn
    let ptr (r : Reg) := (s.core.reg r).toNat
    let x (j : Nat) : Nat := vElem s.core.spad f (ptr a) j
    let y (j : Nat) : Nat := if sc = 1 then (s.core.reg b).toNat % 2 ^ (if f = 6 then 6 else k.width) else vElem s.core.spad f (ptr b) j
    let z (j : Nat) : Nat := vElem s.core.spad f (ptr d) j
    s.issuesAlone [a, b, d] incs →
    ∀ e ∈ ([
      (.vadd d a b f p q sc, false, !fmtInt f, fun u j => addCode k rm u (x j) (y j)),
      (.vsub d a b f p q sc, false, !fmtInt f, fun u j => subCode k rm u (x j) (y j)),
      (.vmul d a b f p q sc, false, !fmtInt f, fun u j => mulCode k rm u (x j) (y j)),
      (.vfma d a b f p q sc, true, !fmtInt f, fun u j => fmaCode k rm u false false (x j) (y j) (z j)),
      (.vmin d a b f p q sc, false, false, fun _ j => minMaxCode k false (x j) (y j)),
      (.vmax d a b f p q sc, false, false, fun _ j => minMaxCode k true (x j) (y j)),
      (.vand d a b f p q sc, false, false, fun _ j => (x j &&& y j, 0)), (.vor d a b f p q sc, false, false, fun _ j => (x j ||| y j, 0)),
      (.vxor d a b f p q sc, false, false, fun _ j => (x j ^^^ y j, 0)),
      (.vshl d a b f p q sc, false, false, fun _ j =>
        let m := signedOf k.width (y j)
        (if 0 ≤ m then x j * 2 ^ m.toNat % 2 ^ k.width else wrapTo k.width (signedOf k.width (x j) / 2 ^ m.natAbs), 0)),
      (.vcmpeq d a b f p q sc, false, false, fun _ j => (if (eqCode k (x j) (y j)).1 then 2 ^ k.width - 1 else 0, (eqCode k (x j) (y j)).2)),
      (.vcmplt d a b f p q sc, false, false, fun _ j =>
        (if (ltCode k false (x j) (y j)).1 then 2 ^ k.width - 1 else 0, (ltCode k false (x j) (y j)).2)),
      (.vsel d a b f p q sc, true, false, fun _ j => (if z j = 0 then y j else x j, 0))]
      : List (Instr × Bool × Bool × (Nat → Nat → Nat × Flg))),
    let rs := vRange f (ptr d) start n true e.2.1 :: vRange f (ptr a) start n false true ::
      (if sc = 1 then [] else [vRange f (ptr b) start n false true])
    s.vectorReady rs →
    ∃ t, exec e.1 s = .next t ∧ elementsDone s t f (ptr d) e.2.2.1 e.2.2.2 ∧ t.corrected = s.corrected + s.core.vSoft rs ∧
      advanced s.core t.core (incs.map fun r => (r, vLen f n))

/-- R329 to R333, R337, R338: the special functions, VMOV and VCVT compute d from a; VSET and VIOTA fill d from the scalar b. R337: the special cases of
the table; VRCP, VRSQ and VLOG2 of a power of two round the exact value, and a function whose exact value no format holds sets NX. Single-bit errors under
what is read are counted (R443). A misaligned pointer, a refused granule and a forbidden overlap trap as in VAR (R326, R22, R330). -/
def Obligations.VectorFunctionsAndFills : Prop :=
  (∀ (g : Ieee) (rm : Rm) (u x : Nat), g ∈ [ieeeBf16, ieee16] → u < 2 ^ 32 → x < 2 ^ 16 →
    let r (h : Val → Val × Flg) : Nat × Flg := roundRes (.ieee g) rm u (h (decodeVal (.ieee g) false x))
    let v := g.units x
    let one : Int := g.one
    let all := [expVal, log2Val false, rcpVal false, rsqVal false, sigmVal, tanhVal]
    let invalid : Nat × Flg := (g.nanCode, 0x10)
    let is (c : Nat × Flg) (n : Int) (d : Nat) : Prop := g.isFinite c.1 ∧ g.units c.1 * d = n * one ∧ c.2 = 0
    (g.isNaN x = true → ∀ h ∈ all, r h = g.nanIf (g.isSig x)) ∧
    (g.isInf x = true → if g.isNeg x then r expVal = (0, 0) ∧ r (log2Val false) = invalid ∧ r (rcpVal false) = (g.withSign true 0, 0) ∧
        r (rsqVal false) = invalid ∧ r sigmVal = (0, 0) ∧ is (r tanhVal) (-1) 1
      else r expVal = (x, 0) ∧ r (log2Val false) = (x, 0) ∧ r (rcpVal false) = (0, 0) ∧ r (rsqVal false) = (0, 0) ∧ is (r sigmVal) 1 1 ∧
        is (r tanhVal) 1 1) ∧
    (g.isZero x = true → is (r expVal) 1 1 ∧ r (log2Val false) = (g.withSign true g.infCode, 0x08) ∧ is (r sigmVal) 1 2 ∧ r tanhVal = (x, 0) ∧
      ∀ h ∈ [rcpVal false, rsqVal false], r h = (g.withSign (g.isNeg x) g.infCode, 0x08)) ∧
    (g.isFinite x → v < 0 → r (log2Val false) = invalid ∧ r (rsqVal false) = invalid) ∧
    (g.isFinite x → v ≠ 0 → (∀ h ∈ [expVal, sigmVal, tanhVal], (r h).2.getLsbD 0 = true ∧ (r h).2.getLsbD 4 = false ∧ (r h).2.getLsbD 3 = false) ∧
      g.roundedTo rm u (decide (v < 0)) (fun i => compare (2 ^ 32 * one * one * v.sign) (i * v.natAbs)) (r (rcpVal false)).1 ∧
      (0 < v → g.roundedTo rm u false (fun i => if i < 0 then .gt else compare (2 ^ 64 * one * one * one) (i * i * v)) (r (rsqVal false)).1) ∧
      ∀ j : Nat, v = 2 ^ j → is (r (log2Val false)) ((j : Int) - Nat.log2 g.one) 1)) ∧
  (∀ (rm : Rm) (u x : Nat), u < 2 ^ 32 → x < 2 ^ 16 →
    let k := FmtKind.tap tap16
    let r (h : Val → Val × Flg) : Nat × Flg := roundRes k rm u (h (decodeVal k false x))
    let v := tap16.units x
    let neg := decide (0x8000 < x)
    let all := [expVal, log2Val true, rcpVal true, rsqVal true, sigmVal, tanhVal]
    (x = 0x8000 → ∀ h ∈ all, r h = (0x8000, 0)) ∧
    (x = 0 → r expVal = (0x4000, 0) ∧ r sigmVal = (0x3000, 0) ∧ r tanhVal = (0, 0) ∧ ∀ h ∈ [log2Val true, rcpVal true, rsqVal true], r h = (0x8000, 0x08)) ∧
    (0x8000 < x → r (log2Val true) = (0x8000, 0x10) ∧ r (rsqVal true) = (0x8000, 0x10)) ∧
    (x ≠ 0 → x ≠ 0x8000 → (∀ h ∈ [expVal, sigmVal, tanhVal], (r h).2.getLsbD 0 = true ∧ (r h).2.getLsbD 4 = false ∧ (r h).2.getLsbD 3 = false) ∧
      tap16.roundedTo rm u neg (fun i => compare (2 ^ 32 * 2 ^ 512) (i * v)) (r (rcpVal true)).1 ∧
      (neg = false → tap16.roundedTo rm u false (fun i => compare (2 ^ 64 * 2 ^ 768) (i * i * v)) (r (rsqVal true)).1) ∧
      ∀ j : Nat, neg = false → v = 2 ^ j → (k.number false (r (log2Val true)).1).1 = ((j : Int) - 256) * 2 ^ 256 ∧ (r (log2Val true)).2 = 0)) ∧
  ∀ (s : State) (d a : Reg) (f g : BitVec 4) (p q : Bit),
    let k := fmtKind f.toNat
    let n := s.core.ctl.vn.toNat
    let start := s.core.vprog.toNat
    let rm := s.core.ctl.dyn
    let dp := (s.core.reg d).toNat
    let x (h : BitVec 4) (j : Nat) : Nat := vElem s.core.spad h (s.core.reg a).toNat j
    let v (j : Nat) : Val := decodeVal k false (x f j)
    let round (h : Val → Val × Flg) (u j : Nat) : Nat × Flg := roundRes k rm u (h (v j))
    (s.issuesAlone [a, d] ((if p = 1 then [d] else []) ++ (if q = 1 then [a] else [])) →
      ∀ e ∈ ([(.vexp d a f p q, f, true, round expVal), (.vlog2 d a f p q, f, true, round (log2Val (f == 4))),
        (.vrcp d a f p q, f, true, round (rcpVal (f == 4))), (.vrsq d a f p q, f, true, round (rsqVal (f == 4))),
        (.vsigm d a f p q, f, true, round sigmVal), (.vtanh d a f p q, f, true, round tanhVal),
        (.vmov d a f p q, f, false, fun _ j => (x f j, 0)),
        (.vcvt d a g f p q, g, true, fun u j => ((cvtCode k false (fmtKind g.toNat) false rm u (x g j)).code,
          (cvtCode k false (fmtKind g.toNat) false rm u (x g j)).flags))] : List (Instr × BitVec 4 × Bool × (Nat → Nat → Nat × Flg))),
      let rs := [vRange f dp start n true false, vRange e.2.1 (s.core.reg a).toNat start n false true]
      (∀ cause at_, s.core.vectorRefused rs cause at_ → exec e.1 s = s.trap cause (BitVec.ofNat 64 at_)) ∧ (s.vectorReady rs →
      ∃ t, exec e.1 s = .next t ∧ elementsDone s t f dp e.2.2.1 e.2.2.2 ∧ t.corrected = s.corrected + s.core.vSoft rs ∧
        advanced s.core t.core ((if p = 1 then [(d, vLen f n)] else []) ++ (if q = 1 then [(a, vLen e.2.1 n)] else [])))) ∧
    (s.issuesAlone [a, d] (if p = 1 then [d] else []) →
      ∀ e ∈ ([(.vset d a f p, false, fun _ _ => ((s.core.reg a).toNat % 2 ^ (if f = 6 then 6 else k.width), 0)),
        (.viota d a f p, !fmtInt f, fun u j =>
          if fmtInt f then (((s.core.reg a).toInt + j) % 2 ^ k.width |>.toNat, 0)
          else ((roundVal k false rm u (valOfInt ((s.core.reg a).toInt + j))).code, (roundVal k false rm u (valOfInt ((s.core.reg a).toInt + j))).flags))]
        : List (Instr × Bool × (Nat → Nat → Nat × Flg))),
      let rs := [vRange f dp start n true false]
      (∀ cause at_, s.core.vectorRefused rs cause at_ → exec e.1 s = s.trap cause (BitVec.ofNat 64 at_)) ∧ (s.vectorReady rs →
      ∃ t, exec e.1 s = .next t ∧ elementsDone s t f dp e.2.1 e.2.2 ∧ t.corrected = s.corrected ∧
        advanced s.core t.core (if p = 1 then [(d, vLen f n)] else [])))

/-- R339: VGATH reads element j at g[a] + size × index j, VSCAT writes it at g[d] + size × index j, in ascending order (the last write to an
address wins); the index list is read as i32 words at g[b]. Each completes when every direct range and every indirect address passes its
checks and nothing makes it wait; single-bit errors under what is read are counted (R443). The direct ranges are refused as in VAR (R326, R22); then the first index whose
address fails decides: 0x02 for a misaligned address, R21's cause for one that is refused, 0x03 for one that meets a direct range that R330 forbids, TVAL the
address or the first common byte; then 0x03 where the direct ranges overlap; nothing is written. -/
def Obligations.GatherAndScatter : Prop :=
  ∀ (s : State) (d a b : Reg) (f : BitVec 4) (p q : Bit), f ≠ 6 →
    let n := s.core.ctl.vn.toNat
    let start := s.core.vprog.toNat
    let size := fmtBytes f.toNat
    let ptr (r : Reg) := (s.core.reg r).toNat
    let idx (j : Nat) : Nat := s.core.spad.readLE (ptr b + 4 * j) 4
    let cell (base j : Nat) (store : Bool) : VRange := ⟨base + size * idx j, size, base + size * idx j, size, store, !store⟩
    let js := (List.range n).drop start
    let list := vRange 9 (ptr b) start n false true
    let refused (rs : List VRange) (store : Bool) (t cause at_ : Nat) : Prop :=
      let fails (j e x : Nat) : Prop :=
        let y := t + size * idx j
        let meets (z : Nat) : Prop := ∃ r ∈ rs, r.store ≠ store ∧ ¬(r.lo = y ∧ r.len = size) ∧ r.lo ≤ z ∧ z < r.lo + r.len ∧ y ≤ z ∧ z < y + size
        y % size ≠ 0 ∧ e = 0x02 ∧ x = y ∨ y % size = 0 ∧ (s.core.localRefused store y e ∧ x = y ∨
          (∀ e, ¬s.core.localRefused store y e) ∧ meets x ∧ (∀ z, z < x → ¬meets z) ∧ e = 0x03)
      (∀ e x, ¬s.core.directRefused rs e x) ∧ s.vBusy [list] = false ∧ s.core.vBad [list] = none ∧
        ((∃ j ∈ js, fails j cause at_ ∧ ∀ i ∈ js, i < j → ∀ e x, ¬fails i e x) ∨
          (∀ i ∈ js, ∀ e x, ¬fails i e x) ∧ overlapAt rs at_ ∧ cause = 0x03)
    (s.issuesAlone [a, b, d] ((if p = 1 then [d] else []) ++ (if q = 1 then [b] else [])) →
      let rs := [vRange f (ptr d) start n true false, list]
      (∀ cause at_, s.core.directRefused rs cause at_ ∨ refused rs false (ptr a) cause at_ →
        exec (.vgath d a b f p q) s = s.trap cause (BitVec.ofNat 64 at_)) ∧ (s.vectorReady rs → s.vectorReady (js.map fun j => cell (ptr a) j false) →
      (∀ j ∈ js, s.core.vIndirect false size rs (ptr a + size * idx j) = none) →
      ∃ t, exec (.vgath d a b f p q) s = .next t ∧ plainVector s t (ptr d + vOff f start) (ptr d + vLen f n) ∧
        t.corrected = s.corrected + s.core.vSoft (list :: js.map fun j => cell (ptr a) j false) ∧
        (∀ j ∈ js, vElem t.core.spad f (ptr d) j = s.core.spad.readLE (ptr a + size * idx j) size) ∧
        advanced s.core t.core ((if p = 1 then [(d, vLen f n)] else []) ++ (if q = 1 then [(b, 4 * n)] else [])))) ∧
    (s.issuesAlone [a, b, d] (if q = 1 then [a, b] else []) →
      let rs := [vRange f (ptr a) start n false true, list]
      (∀ cause at_, s.core.directRefused rs cause at_ ∨ refused rs true (ptr d) cause at_ →
        exec (.vscat d a b f q) s = s.trap cause (BitVec.ofNat 64 at_)) ∧ (s.vectorReady rs → s.core.vStall (js.map fun j => cell (ptr d) j true) = false →
      (∀ j ∈ js, s.core.vIndirect true size rs (ptr d + size * idx j) = none) →
      ∃ t, exec (.vscat d a b f q) s = .next t ∧ (∀ y, t.core.spad.read y = match js.reverse.find? fun j =>
            decide (ptr d + size * idx j ≤ y) && decide (y < ptr d + size * idx j + size) with
          | some j => s.core.spad.read (ptr a + size * j + (y - (ptr d + size * idx j)))
          | none => s.core.spad.read y) ∧
        plainVector s t 0 (2 ^ 64) ∧ t.corrected = s.corrected + s.core.vSoft rs ∧
        advanced s.core t.core (if q = 1 then [(a, vLen f n), (b, 4 * n)] else [])))

/-- R340, R193: the reductions complete as a whole over VN elements and write d: VRSUM and VDOT of integers sum exactly modulo 2^64; other
formats reduce pairwise with one rounding a step (VDOT rounds each product first); VRMAX and VRMIN pick an element; VN = 0 gives zero,
a canonical NaN or NaR, or the integer limit. R193: with 2^m elements or more, at most twice as many, element j is first combined with element
j + 2^m where there is one, in ascending order, under SR with one draw each, and the rest is reduced in turn. R342: VSCAN writes the indices of the nonzero elements of a, ascending, as i32 words at g[b], and their number to d; b's post-increment
is the bytes written. Single-bit errors under what is read are counted (R443), and ranges are refused as in VAR (R326, R22, R330). That VRD with d = a and a post-increment writes the result first is the model's choice (log entry 26, DEDUCED; R333 and R340
give no order). -/
def Obligations.VectorReductions : Prop :=
  (∀ (s : State) (d a b : Reg) (f : BitVec 4) (q : Bit),
      let k := fmtKind f.toNat
      let n := s.core.ctl.vn.toNat
      let rm := s.core.ctl.dyn
      let src (r : Reg) := vRange f (s.core.reg r).toNat 0 n false true
      let xs (r : Reg) : List Nat := (List.range n).map fun j => vElem s.core.spad f (s.core.reg r).toNat j
      let refuses (i : Instr) (rs : List VRange) : Prop := ∀ cause at_, s.core.vectorRefused rs cause at_ → exec i s = s.trap cause (BitVec.ofNat 64 at_)
      let answer (t : State) (rs : List VRange) (v : Word) (fl : Flg) (gen : Word) (l : List (Reg × Nat)) : Prop :=
        vectorFrame s t 0 0 ∧ t.corrected = s.corrected + s.core.vSoft rs ∧ t.core.spad = s.core.spad ∧ t.core.ctl.fflags = s.core.ctl.fflags ||| fl ∧ t.core.gen = gen ∧
          advanced (s.core.setReg d v) t.core l
      (s.issuesAlone [a] (d :: (if q = 1 then [a] else [])) →
        ∀ i ∈ [Instr.vrsum d a f q, .vrmax d a f q, .vrmin d a f q], refuses i [src a]) ∧
      (s.issuesAlone [a, b] (d :: (if q = 1 then [a, b] else [])) → refuses (.vdot d a b f q) [src a, src b]) ∧
      (s.issuesAlone [a] (d :: (if q = 1 then [a] else [])) → s.vectorReady [src a] →
        (∃ t, exec (.vrsum d a f q) s = .next t ∧
          if fmtInt f then answer t [src a] (BitVec.ofInt 64 ((xs a).map (signedOf k.width)).sum) 0 s.core.gen (if q = 1 then [(a, vLen f n)] else [])
          else
            let r := vSum k rm (s.core.gen, 0) (xs a)
            answer t [src a] (k.result false r.2) r.1.2 r.1.1 (if q = 1 then [(a, vLen f n)] else [])) ∧
        ∀ e ∈ [(Instr.vrmax d a f q, true), (Instr.vrmin d a f q, false)], ∃ t, exec e.1 s = .next t ∧
          answer t [src a] (k.result false (vExtreme k e.2 (xs a)).2) (vExtreme k e.2 (xs a)).1 s.core.gen (if q = 1 then [(a, vLen f n)] else [])) ∧
      (s.issuesAlone [a, b] (d :: (if q = 1 then [a, b] else [])) → s.vectorReady [src a, src b] →
        ∃ t, exec (.vdot d a b f q) s = .next t ∧
          let l := if q = 1 then [(a, vLen f n), (b, vLen f n)] else []
          if fmtInt f then
            answer t [src a, src b] (BitVec.ofInt 64 (((xs a).zip (xs b)).map fun e => signedOf k.width e.1 * signedOf k.width e.2).sum) 0 s.core.gen l
          else
            let prod (j : Nat) := mulCode k rm (elementDraw rm s.core.gen 0 j) ((xs a).getD j 0) ((xs b).getD j 0)
            let gen := if rm = .sr then skipDraws n s.core.gen else s.core.gen
            let r := vSum k rm (gen, (List.range n).foldl (fun fl j => fl ||| (prod j).2) 0) ((List.range n).map fun j => (prod j).1)
            answer t [src a, src b] (k.result false r.2) r.1.2 r.1.1 l)) ∧
  (∀ (k : FmtKind) (rm : Rm) (st : Word × Flg) (g : Bool) (x : Nat),
      vSum k rm st [] = (st, 0) ∧ vSum k rm st [x] = (st, x) ∧ vExtreme k g [x] = (0, x) ∧ (vExtreme k g []).1 = 0 ∧
        match k with
        | .ieee i => (vExtreme k g []).2 = i.nanCode
        | .tap i => (vExtreme k g []).2 = i.nar
        | .lns => True
        | .int w => 0 < w → w ≤ 64 → (k.result false (vExtreme k g []).2).toInt = if g then -2 ^ (w - 1) else 2 ^ (w - 1) - 1) ∧
  (∀ (k : FmtKind) (rm : Rm) (st : Word × Flg) (g : Bool) (v : List Nat) (m : Nat), 2 ^ m < v.length → v.length ≤ 2 ^ (m + 1) →
      let x (j : Nat) : Nat := v.getD j 0
      let pairs := List.range (v.length - 2 ^ m)
      let sum (j : Nat) := addCode k rm (elementDraw rm st.1 0 j) (x j) (x (j + 2 ^ m))
      let ext (j : Nat) := minMaxCode k g (x j) (x (j + 2 ^ m))
      let rest (r : Nat → Nat × Flg) : List Nat := (List.range (2 ^ m)).map fun j => if j + 2 ^ m < v.length then (r j).1 else x j
      let flags (fl : Flg) (r : Nat → Nat × Flg) : Flg := pairs.foldl (fun fl j => fl ||| (r j).2) fl
      vSum k rm st v = vSum k rm (if rm = .sr then skipDraws pairs.length st.1 else st.1, flags st.2 sum) (rest sum) ∧
        vExtreme k g v = (flags 0 ext ||| (vExtreme k g (rest ext)).1, (vExtreme k g (rest ext)).2)) ∧
  (∀ (s : State) (d a b : Reg) (f : BitVec 4) (q : Bit),
      let n := s.core.ctl.vn.toNat
      let bp := (s.core.reg b).toNat
      let nonzero (x : Nat) : Bool := match fmtKind f.toNat with
        | .ieee i => x % 2 ^ (i.width - 1) != 0
        | .lns => x != 0x10
        | _ => x != 0
      let idx := (List.range n).filter fun j => nonzero (vElem s.core.spad f (s.core.reg a).toNat j)
      s.issuesAlone [a, b] (d :: (if q = 1 then [a, b] else [])) →
      let rs := [vRange f (s.core.reg a).toNat 0 n false true, vRange 9 bp 0 n true false]
      (∀ cause at_, s.core.vectorRefused rs cause at_ → exec (.vscan d a b f q) s = s.trap cause (BitVec.ofNat 64 at_)) ∧ (s.vectorReady rs →
      ∃ t, exec (.vscan d a b f q) s = .next t ∧ plainVector s t bp (bp + 4 * idx.length) ∧ t.corrected = s.corrected + s.core.vSoft rs ∧
        (∀ i j, idx[i]? = some j → t.core.spad.readLE (bp + 4 * i) 4 = j) ∧
        advanced (s.core.setReg d (BitVec.ofNat 64 idx.length)) t.core (if q = 1 then [(a, vLen f n), (b, 4 * idx.length)] else [])))

/-- R225, R341: VCLAIM rounds the request up to a multiple of 32 within 32 to 256, gives back the core's extra lanes, grants 32 and as many
more as the cluster's pool of 224 holds, remembers the request and writes the grant to d; VREL leaves 32 and remembers 32. -/
def Obligations.LaneGrants : Prop :=
  ∀ (s : State) (d a : Reg),
    let n := (s.core.reg a).toNat
    let want := if n ≤ 32 then 32 else if 224 < n then 256 else (n + 31) / 32 * 32
    let others := (s.cores.filter fun c => c.pcn != s.core.pcn && clusterOf c.pcn == clusterOf s.core.pcn).map fun c => c.ctl.vl.toNat - 32
    let grant := 32 + min (want - 32) (224 - others.sum)
    (s.issuesAlone [a] [d] → ∃ t, exec (.vclaim d a) s = .next t ∧ holds t.core d (BitVec.ofNat 64 grant) ∧ otherRegs s.core t.core d ∧
      t.core.ctl.vl = BitVec.ofNat 9 grant ∧ t.core.nreq = BitVec.ofNat 9 want ∧
      t = { s with core := { s.core.doneFrom with
        regs := t.core.regs, pois := t.core.pois, nreq := t.core.nreq, ctl := { s.core.doneFrom.ctl with vl := t.core.ctl.vl } } }) ∧
    (s.issuesAlone [] [] → exec .vrel s = .next { s with core := { s.core.doneFrom with
      nreq := 32, ctl := { s.core.doneFrom.ctl with vl := 32 } } })

/-! ## Control registers, traps and system instructions (spec 05, 11, 12, 19) -/

/-- R251, R252, R284: CRD of a listed register writes its value to d and changes nothing else; TV, TWP, CAUSE, TVAL and EPC only in system mode. R251, R253, R17, R18, R31, R32, R113, R173, R174, R194, R285: CWR writes the RW bits of the register that the mode may write, keeps every other bit
and every other register, and with SEED or LCN sets the generator; an XB field above 0x800 traps 0x01. RET counts the CWR itself after
its write (the model's choice, log entry 41). -/
def Obligations.ControlRegisters : Prop :=
  (∀ (s : State) (d : Reg) (x : BitVec 12), s.issues [] [d] →
      x.toNat ≤ 0x013 ∨ 0x020 ≤ x.toNat ∧ x.toNat ≤ 0x02F ∨ 0x040 ≤ x.toNat ∧ x.toNat ≤ 0x044 →
      (¬(x = 0x004 ∨ 0x006 ≤ x.toNat ∧ x.toNat ≤ 0x009) ∨ s.core.ctl.mode = .system →
        ∃ t, exec (.crd d x) s = .next t ∧ writesReg s t d (s.core.cregValue s.tb x)) ∧
      (x = 0x004 ∨ 0x006 ≤ x.toNat ∧ x.toNat ≤ 0x009 → s.core.ctl.mode = .user →
        exec (.crd d x) s = s.trap 0x0C ((wordOf (.crd d x)).setWidth 64))) ∧
  (∀ (s : State) (a : Reg), s.issuesAlone [a] [] →
      let v := s.core.reg a
      let all : Word := BitVec.allOnes 64
      ∀ e ∈ ([(0x002, 0x7FFC0), (0x003, 0xF0), (0x004, 0x7FC00), (0x005, 0x3FF0001FFFC), (0x006, 0x7FE00), (0x007, 0xFF), (0x008, all),
        (0x009, all - 3), (0x00A, all), (0x00B, all), (0x00D, 0xFFFF), (0x00E, all), (0x010, all), (0x011, 0x1F), (0x020, 0x7FFC7),
        (0x021, 0x7FFC0), (0x022, 0x7FFC7), (0x023, 0x7FFC0), (0x024, 0x7FFC7), (0x025, 0x7FFC0), (0x026, 0x7FFC7), (0x027, 0x7FFC0),
        (0x028, 0x7FFC7), (0x029, 0x7FFC0), (0x02A, 0x7FFC7), (0x02B, 0x7FFC0), (0x02C, 0x7FFC7), (0x02D, 0x7FFC0), (0x02E, 0x7FFC7),
        (0x02F, 0x7FFC0), (0x040, all), (0x041, all), (0x042, all), (0x043, all)] : List (BitVec 12 × Word)),
      let x := e.1
      (x ∈ ([0x003, 0x00D, 0x010, 0x011] : List (BitVec 12)) ∨ s.core.ctl.mode = .system) →
        if x = 0x002 ∧ 0x800 < v.toNat / 64 % 8192 then exec (.cwr a x) s = s.trap 0x01 ((wordOf (.cwr a x)).setWidth 64)
        else ∃ t, exec (.cwr a x) s = .next t ∧
          t.core.cregValue s.tb x = ((s.core.cregValue s.tb x &&& ~~~e.2) ||| (v &&& e.2)) + (if x = 0x041 then 1 else 0) ∧
          (∀ y, y ≠ x → y ≠ 0x001 → y ≠ 0x041 → t.core.cregValue s.tb y = s.core.cregValue s.tb y) ∧
          t.core.gen = (if x = 0x00E then s.core.ctl.seed ^^^ (v * 0x9E3779B97F4A7C15) else
            if x = 0x010 then v ^^^ (s.core.ctl.lcn * 0x9E3779B97F4A7C15) else s.core.gen) ∧
          t = { s with core := { s.core.doneFrom with ctl := t.core.ctl, gen := t.core.gen } })

/-- R417, R420, R332: a trap or an interrupt enters as the rule's procedure says, its vector progress saved and then zero, and changes nothing else; a
trap that meets WP = TWP, whose switch to TWP fails or whose vector may not be fetched stops the core: it is halted, runs no slice once its phase has ended
(R292), and an error record
of type 3 with the cause, TVAL and EPC is written and signalled on vector 0. An image of the trap workspace with an uncorrectable error stops it too,
behind the record of that error (R443; that it is met as a double trap is the model's choice, log entry 15). -/
def Obligations.TrapEntryEffect : Prop :=
  ∀ (s : State) (cause : Nat) (tval epc : Word),
    let t := s.trapEntry cause tval epc
    let stops (t : State) : Prop := t.core.slice = if s.core.inPhase then s.core.slice else .none
    (cause < 256 → s.trapReady cause → trapTaken s t cause tval epc) ∧
    (∀ w, s.core.wp ≠ s.core.twp → s.core.switchCheck s.core.twp = none → s.core.switchBad s.core.twp = some w →
      t.core.run = .halted ∧ stops t ∧ t.mgmt.errhead = s.mgmt.errhead + 2 ∧ t.outputs = s.outputs ++ [.msix 0, .msix 0]) ∧
    (s.core.wp = s.core.twp ∨ (s.core.switchCheck s.core.twp).isSome = true ∨
        s.core.switchBad s.core.twp = none ∧ s.core.xb ≤ s.core.tv + 16 * cause →
      t.core.run = .halted ∧ stops t ∧ t.mgmt.errhead = s.mgmt.errhead + 1 ∧ t.outputs = s.outputs ++ [.msix 0] ∧ t.dram = s.dram ∧
      ∃ r, t.mgmt.errlog.find? (fun e => e.1 == s.mgmt.errhead.toNat % 64) = some (s.mgmt.errhead.toNat % 64, r) ∧
        r.cause = BitVec.ofNat 8 cause ∧ r.type = 3 ∧ r.addr = tval ∧ r.epc = epc ∧ r.pcn = BitVec.ofNat 11 s.core.pcn ∧ r.tb = s.tb)

/-- R258, R33, R259, R286, R287: TRAP, BRK, a word that is no instruction and a fetch that fails take their cause with the TVAL and EPC of
R419; a system instruction, and a CWR of a register that only system mode may write (R251), take 0x0C with their word in user mode. A chunk that is open closes first, and the instruction is reached again. -/
def Obligations.TrapCauses : Prop :=
  let sysWritable : List (BitVec 12) := [0x002, 0x004, 0x005, 0x006, 0x007, 0x008, 0x009, 0x00A, 0x00B, 0x00E, 0x020, 0x021, 0x022, 0x023, 0x024,
    0x025, 0x026, 0x027, 0x028, 0x029, 0x02A, 0x02B, 0x02C, 0x02D, 0x02E, 0x02F, 0x040, 0x041, 0x042, 0x043]
  ∀ (s : State) (a b : Reg) (x : BitVec 12) (w : BitVec 32),
    (s.issuesAlone [a] [] → s.trapReady 0x0D →
      ∃ t, exec (.trap a) s = .next t ∧ trapTaken { s with core := { s.core.doneFrom with pc := s.core.pc } } t 0x0D (s.core.reg a) (s.core.pc + 4)) ∧
    (s.issuesAlone [] [] → s.trapReady 0x0E → ∃ t, exec .brk s = .next t ∧ trapTaken s t 0x0E 6 s.core.pc) ∧
    (s.starts → s.core.chunk = none → s.trapReady 0x01 →
      ∃ t, exec (.illegalInstruction w) s = .next t ∧ trapTaken s t 0x01 (w.setWidth 64) s.core.pc) ∧
    (s.starts → s.core.chunk = none → s.core.pendingInt = none → s.core.budgetDue = false → s.core.pc.toNat % 4 ≠ 0 → s.trapReady 0x02 →
      ∃ t, exec .executeBoundaryFetch s = .next t ∧ trapTaken s t 0x02 s.core.pc s.core.pc) ∧
    (s.starts → s.core.chunk = none → s.core.pendingInt = none → s.core.budgetDue = false → s.core.pc.toNat % 4 = 0 →
      s.core.xb ≤ s.core.pc.toNat → s.trapReady 0x05 →
      ∃ t, exec .executeBoundaryFetch s = .next t ∧ trapTaken s t 0x05 s.core.pc s.core.pc) ∧
    (s.starts → s.core.chunk = none → s.core.ctl.mode = .user → s.trapReady 0x0C →
      ∀ i ∈ [Instr.eret, .tinv a b, .halt] ++ (if x ∈ sysWritable then [.cwr a x] else []),
        ∃ t, exec i s = .next t ∧ trapTaken s t 0x0C ((wordOf i).setWidth 64) s.core.pc) ∧
    (s.starts → s.core.chunk.isSome = true →
      ∀ i ∈ [Instr.trap a, .brk, .illegalInstruction w, .eret, .nop], exec i s = .next { s with core := s.core.close })

/-- R42, R259, R129: of every instruction that has a word, by the lists of the registers that it reads and writes: one that reads a poisoned register, none of
its registers being pending, takes 0x08 with the number of the first one in the order a, b, d; one that needs a pending register stalls, the open chunk
closing first, and one that acts alone is reached again once the open chunk has closed. The c register of the fused forms (R318) stands after b: R259 names
no place for it, so that is the model's choice (log entry 27). One that its mode may not execute is TrapCauses'. -/
def Obligations.PoisonAndPending : Prop :=
  (∀ i w, encode i = some w → i.regs.isSome = true) ∧
  ∀ (s : State) (i : Instr) (alone : Bool) (reads writes : List Reg), i.regs = some (alone, reads, writes) → s.starts →
    (alone = true → s.core.chunk.isSome = true → exec i s = .next { s with core := s.core.close }) ∧
    (alone = false ∨ s.core.chunk = none → i.systemOnly = false ∨ s.core.ctl.mode = .system →
      (∀ r, (∀ x ∈ reads ++ writes, s.core.pending x = false) → reads.find? s.core.poisoned = some r →
        exec i s = s.trap 0x08 (BitVec.ofNat 64 r.toNat)) ∧
      ((∃ x ∈ reads ++ writes, s.core.pending x = true) →
        exec i s = .next (if s.core.chunk.isSome = true then { s with core := s.core.close } else s)))

/-- R288, R421: ERET of a record whose workspace passes the checks of R39 switches to it, restores the mode, VPROG, GEN, the wake bit and the
remembered lane request, and goes on at EPC; another takes its cause. R39, R398, R116: SWP switches to the workspace at g[a]; UPRET switches to the one of a valid record, clears its valid bit and goes on at
its RESUME; of a valid record whose workspace fails the checks of R39 UPRET takes the cause of R39, and of an invalid one 0x01. Single-bit errors of what is read
are counted (R443). R417, R421: a trap that ERET leaves at once restores the interrupted workspace, registers, pending and poison bits, mode, PC (its word
address), VPROG, generator, wake bit and lane request. A record, an image or a save area with an uncorrectable error that such an instruction reads is
CAUSE 0x10 with its address, and a record of type 5 (R443). That these reads meet an error as a core's load does is the model's choice (log entry
15, DESIGN CHOICE). -/
def Obligations.ReturnsAndSwitches : Prop :=
  (∀ (s : State), s.issuesAlone [] [] → s.core.ctl.mode = .system →
      let c := s.core
      let ows := c.spad.readLE (c.wp + 0x100) 8
      let bad := c.badWord (c.wp + 0x100) 16
      let met := s.heal (c.softWords (c.wp + 0x100) 16)
      let broken (s : State) (i : Instr) (z : State) (w : Nat) : Prop :=
        exec i s = (z.logError c.pcn 0 5 (BitVec.ofNat 64 w) 0).trap 0x10 (BitVec.ofNat 64 w)
      (∀ w, bad = some w → broken s .eret s w) ∧
      (∀ w, bad = none → c.switchCheck ows = none → c.returnBad = some w → broken s .eret met w) ∧
      (∀ e, bad = none → c.switchCheck ows = some e → exec .eret s = met.trap e (BitVec.ofNat 64 ows)) ∧
      (bad = none → c.switchCheck ows = none → c.returnBad = none → ∃ t, exec .eret s = .next t ∧ switched c t.core ows ∧ imageWritten c t.core.spad ∧
        (∀ a, a < c.wp ∨ c.wp + 256 ≤ a → t.core.spad.read a = c.spad.read a) ∧
        t = { s.heal c.returnSoft with core := { c with
          regs := t.core.regs, pend := t.core.pend, pois := t.core.pois, spad := t.core.spad, ecc := t.core.ecc, pc := c.ctl.epc ++ 0#2
          copied := none, unstat := none, vprog := BitVec.ofNat 16 (c.spad.readLE (ows + 0x140) 8), gen := c.spad.dword (ows + 0x148)
          nreq := BitVec.ofNat 9 (c.spad.readLE (ows + 0x150) 8), wake := bitAt (c.spad.readLE (ows + 0x150) 8) 9
          ctl := { c.ctl with
            wpa := BitVec.ofNat 10 (ows / 512), ret := c.ctl.ret + 1
            mode := if bitAt (c.spad.readLE (c.wp + 0x108) 8) 0 then .system else .user } } })) ∧
  (∀ (s : State) (a : Reg), s.issuesAlone [a] [] →
      let c := s.core
      let ws := (c.reg a).toNat
      (∀ e, c.switchCheck ws = some e → exec (.swp a) s = s.trap e (c.reg a)) ∧
      (∀ w, c.switchCheck ws = none → c.switchBad ws = some w →
        exec (.swp a) s = (s.logError c.pcn 0 5 (BitVec.ofNat 64 w) 0).trap 0x10 (BitVec.ofNat 64 w)) ∧
      (∀ w, c.badWord (ws + 0x100) 32 = some w →
        exec (.upret a) s = (s.logError c.pcn 0 5 (BitVec.ofNat 64 w) 0).trap 0x10 (BitVec.ofNat 64 w)) ∧
      let met := s.heal (c.softWords (ws + 0x100) 32)
      let valid := bitAt (c.spad.readLE (ws + 0x118) 8) 31
      (c.badWord (ws + 0x100) 32 = none → ws + 0x118 < 0x60000 → valid = true →
        (∀ e, c.switchCheck ws = some e → exec (.upret a) s = met.trap e (c.reg a)) ∧
        ∀ w, c.switchCheck ws = none → c.switchBad ws = some w →
          exec (.upret a) s = (met.logError c.pcn 0 5 (BitVec.ofNat 64 w) 0).trap 0x10 (BitVec.ofNat 64 w)) ∧
      (c.badWord (ws + 0x100) 32 = none → valid = false → exec (.upret a) s = met.trap 0x01 (c.reg a)) ∧
      (c.switchCheck ws = none → c.switchBad ws = none →
      let frame (z t : State) (pc : Word) : Prop := switched c t.core ws ∧ imageWritten c t.core.spad ∧ t = { z.heal (c.switchSoft ws) with core := { c with
        regs := t.core.regs, pend := t.core.pend, pois := t.core.pois, spad := t.core.spad, ecc := t.core.ecc, pc := pc, vprog := 0, copied := none, unstat := none
        ctl := { c.ctl with wpa := BitVec.ofNat 10 (ws / 512), ret := c.ctl.ret + 1 } } }
      (∃ t, exec (.swp a) s = .next t ∧ frame s t (c.pc + 4) ∧ ∀ y, y < c.wp ∨ c.wp + 256 ≤ y → t.core.spad.read y = c.spad.read y) ∧
      (c.badWord (ws + 0x100) 32 = none → valid = true → ∃ t, exec (.upret a) s = .next t ∧ frame met t (c.spad.dword (ws + 0x108)) ∧
        t.core.spad.readLE (ws + 0x118) 8 + 2 ^ 31 = c.spad.readLE (ws + 0x118) 8 ∧
        ∀ y, y < c.wp ∨ c.wp + 256 ≤ y → y < ws + 0x118 ∨ ws + 0x120 ≤ y → t.core.spad.read y = c.spad.read y))) ∧
  (∀ (s t u : State) (cause : Nat) (tval epc : Word), s.trapReady cause → trapTaken s t cause tval epc → t.issuesAlone [] [] →
    s.core.switchCheck s.core.wp = none → t.core.badWord (t.core.wp + 0x100) 16 = none → t.core.returnBad = none → exec .eret t = .next u →
    u.core.wp = s.core.wp ∧ u.core.ctl.mode = s.core.ctl.mode ∧ u.core.pc = epc.extractLsb' 2 62 ++ 0#2 ∧
      (∀ r, u.core.reg r = s.core.reg r ∧ u.core.pending r = s.core.pending r ∧ u.core.poisoned r = s.core.poisoned r) ∧
      u.core.vprog = s.core.vprog ∧ u.core.gen = s.core.gen ∧ u.core.wake = s.core.wake ∧ u.core.nreq = s.core.nreq)

/-- R110, R139, R286, R289 to R292: NOP only advances; WFE completes on a notice or the wake bit and clears the bit, else it waits; REPLAY and HALT wait as
FENCE.P does, so they wait for the core's atomics and STR under way and land its CLEANs; REPLAY then asks for a retry pass and HALT stops the core; TINV
waits for the updates, host writes, host reads, near-memory controls and contributions that its range's translations gave, then drops the cached translations
of its range and marks its lines. What exactly the three wait for is the model's choice (log entry 31, DEDUCED). R291: a misaligned start or length takes 0x02, and a nonempty
range that starts below 2^32, passes 2^57 or leaves the node takes 0x04, both with TVAL the start. -/
def Obligations.SystemInstructions : Prop :=
  ∀ (s : State) (a b : Reg),
    (s.issuesAlone [] [] → exec .nop s = .next { s with core := s.core.doneFrom }) ∧
    (s.issuesAlone [] [] → s.core.acked = false → s.ackWith = none →
      exec .wfe s = .next (if s.core.events ≠ [] ∨ s.core.wake = true then { s with core := { s.core.doneFrom with wake := false, waiting := false } }
        else { s with core := { s.core with waiting := true } })) ∧
    (let p := s.core.pcn
      let u := s.landCleans p
      let open_ := ∃ w ∈ s.hostWrites ++ s.remoteWrites, w.pcn = p ∧ w.rmw.isSome = true
      (∀ c ∈ u.cleans, c.pcn ≠ p) ∧
      (s.issuesAlone [] [] → ¬open_ → exec .replay s = .next { u with core := s.core.doneFrom, retryWanted := min 2 (s.retryWanted + 1) }) ∧
      (s.issuesAlone [] [] → open_ → exec .replay s = .next s) ∧
      (s.issuesAlone [] [] → s.core.ctl.mode = .system → s.core.inPhase = false → ¬open_ →
        ∃ t, exec .halt s = .next t ∧ (t.getCore p).run = .halted ∧ (t.getCore p).slice = .none ∧ (t.getCore p).regs = s.core.regs ∧
          t.dram = u.dram ∧ t.l2 = u.l2 ∧ t.cleans = u.cleans) ∧
      (s.issuesAlone [] [] → s.core.ctl.mode = .system → s.core.inPhase = true ∨ open_ → exec .halt s = .next s)) ∧
    (s.issuesAlone [a, b] [] → s.core.ctl.mode = .system →
      let v := (s.core.reg a).toNat
      let n := (s.core.reg b).toNat
      (v % 65536 ≠ 0 ∨ n % 65536 ≠ 0 → exec (.tinv a b) s = s.trap 0x02 (s.core.reg a)) ∧
      (v % 65536 = 0 → n = 0 → exec (.tinv a b) s = .next { s with core := s.core.doneFrom }) ∧
      (v % 65536 = 0 → n % 65536 = 0 → 0 < n →
        v < 2 ^ 32 ∨ 2 ^ 57 < v + n ∨ nodeOf v ≠ s.core.ctl.node.toNat ∨ nodeOf (v + n - 1) ≠ s.core.ctl.node.toNat →
        exec (.tinv a b) s = s.trap 0x04 (s.core.reg a)) ∧
      (v % 65536 = 0 → n % 65536 = 0 → 0 < n → 2 ^ 32 ≤ v → v + n ≤ 2 ^ 57 → nodeOf v = s.core.ctl.node.toNat →
        nodeOf (v + n - 1) = s.core.ctl.node.toNat →
        let hit (x : Nat) : Prop := v ≤ x ∧ x < v + n
        ((∃ w ∈ s.seqQueue, hit (w.line * 64)) ∨ (∃ w ∈ s.hostWrites, hit (w.line * 64)) ∨
          (∃ c ∈ s.cores, ∃ x h, c.out = some (x, some h) ∧ hit x.va.toNat) ∨
          (∃ m ∈ s.mules, ∃ c ∈ m.controls, c.page < v + n ∧ v < c.page + c.size) ∨
          (∃ m ∈ s.mules, ∃ c ∈ m.parked, c.base < v + n ∧ v < c.base + c.len) → exec (.tinv a b) s = .next s) ∧
        (s.deferred s.core.pcn sigAll = false → s.translatedUse v n = false → ∃ t, exec (.tinv a b) s = .next t ∧ t.core = { s.core.doneFrom with l1 := t.core.l1 } ∧ t.dram = s.dram ∧
          (∀ e ∈ t.tlb, e ∈ s.tlb ∧ (e.page * 65536 + pageBytes e.big ≤ v ∨ v + n ≤ e.page * 65536)) ∧
          (∀ e ∈ s.tlb, e.page * 65536 + pageBytes e.big ≤ v ∨ v + n ≤ e.page * 65536 → e ∈ t.tlb) ∧
          t.l2 = s.l2.map (fun l => if v ≤ l.line * 64 ∧ l.line * 64 < v + n then { l with retrans := true } else l) ∧
          (∀ c ∈ t.cores, ∀ l ∈ c.l1, ¬(v ≤ l.line * 64 ∧ l.line * 64 < v + n)) ∧
          ∀ c ∈ t.others, ∀ k, c.chunk = some k → k.rsig ||| k.wsig = 0)))

/-! ## Queues, tasks, barriers, counters and messages (spec 09, 16, 18) -/

/-- R344, R196, R263: QPUSH and QPUSH.N of a command whose checks pass copy it to the end of its queue with the generator it draws from, and
take its draws at once; QPUSH.N writes 0, or 1 without draws when the queue is full, and QPUSH then waits, with the copy that it took at its issue
(R392). R345, R263, R117: QPOP and QPOP.N take the oldest completion element or notice; when there is none QPOP waits and QPOP.N writes all
ones. R344, R262, R379: a misaligned pointer takes 0x02, and a join's misaligned block too, with TVAL the block; a pointer that R21 refuses takes 0x03; an
unlisted class or code, another queue than the class's, bits [14:12], and an operand that R24 or the command's own entry refuses take 0x09 with TVAL the
pointer; then, by the ranges that the engine will write and read, 0x03 where the execute boundary or the LPU bars one (R25) and 0x06 where one written lies in a
stationary macro (R49), TVAL the first such offset; nothing is enqueued. That a join's parameter block is read at the push without a wait for a busy macro or for R144 is the model's choice (log entry 29, DEDUCED). -/
def Obligations.QueueInstructions : Prop :=
  (∀ (s : State) (d a : Reg) (w block : Nat),
      let p := (s.core.reg a).toNat
      let q := bits w 7 4 - 1
      let k := s.prepare w block
      let new : Cmd := { k.1 with num := s.core.pushed }
      s.issuesAlone [a] [d] → ∀ z, s.pushable p w block z →
      (s.core.room q k.1 = true →
        (∃ t, exec (.qpush a (BitVec.ofNat 4 q)) s = .next t ∧ t.core.queue q = { s.core.queue q with cmds := (s.core.queue q).cmds ++ [new] } ∧
          (∀ j, j ≠ q → t.core.queue j = s.core.queue j) ∧
          t = { z with core := { s.core.doneFrom with qs := t.core.qs, gen := skipDraws k.2 s.core.gen, pushed := s.core.pushed + 1 } }) ∧
        ∃ t, exec (.qpushN d a (BitVec.ofNat 4 q)) s = .next t ∧ t.core.queue q = { s.core.queue q with cmds := (s.core.queue q).cmds ++ [new] } ∧
          (∀ j, j ≠ q → t.core.queue j = s.core.queue j) ∧ holds t.core d 0 ∧ otherRegs s.core t.core d ∧
          t = { z with core := { s.core.doneFrom with
            qs := t.core.qs, gen := skipDraws k.2 s.core.gen, regs := t.core.regs, pois := t.core.pois, pushed := s.core.pushed + 1 } }) ∧
      (s.core.room q k.1 = false →
        exec (.qpush a (BitVec.ofNat 4 q)) s = .next { z with core := { s.core with copied := some (BitVec.ofNat 768 (w + block * 2 ^ 256)) } } ∧
          ∃ t, exec (.qpushN d a (BitVec.ofNat 4 q)) s = .next t ∧ aloneReg z t d 1)) ∧
  (∀ (s : State) (d a : Reg) (q : BitVec 4), s.issuesAlone [a] [d] → ∀ i ∈ [Instr.qpush a q, .qpushN d a q],
      let p := (s.core.reg a).toNat
      let w := s.core.localRead p 32
      let join := isJoin (bits w 7 4) (bits w 3 0)
      let wrong := codeListed (bits w 7 4) (bits w 3 0) = false ∨ q.toNat ≠ bits w 7 4 - 1 ∨ bits w 14 12 ≠ 0
      let block := bits w 127 64
      let met := s.heal (s.core.softWords p 32)
      (s.core.copied = none → p % 32 ≠ 0 → exec i s = s.trap 0x02 (s.core.reg a)) ∧
      (s.core.copied = none → p % 32 = 0 → s.core.localRefused false p 0x03 → exec i s = s.trap 0x03 (s.core.reg a)) ∧
      (s.core.copied = none → s.operandReadable p 32 →
        (wrong ∨ join = true ∧ (bits w 255 128 ≠ 0 ∨ bits w 63 32 ≠ 0 ∨ block % 64 = 0 ∧ 0x60000 < block + 64) →
          exec i s = met.trap 0x09 (s.core.reg a)) ∧
        (¬wrong → join = true → bits w 255 128 = 0 → bits w 63 32 = 0 → block % 64 ≠ 0 → exec i s = met.trap 0x02 (BitVec.ofNat 64 block))) ∧
      ∀ (w block : Nat) (z : State), s.pushReads p w block z → (s.core.copied = none → q.toNat = bits w 7 4 - 1) →
        (s.core.cmdUse w block = none → exec i s = z.trap 0x09 (s.core.reg a)) ∧
        ∀ u cause at_, s.core.cmdUse w block = some u → s.core.useRefused w u cause at_ → exec i s = z.trap cause (BitVec.ofNat 64 at_)) ∧
  (∀ (s : State) (d : Reg) (q : BitVec 4), q.toNat < 5 ∨ q = 15 → s.issuesAlone [] [d] →
      let held (c : Core) : List (BitVec 64) := if q = 15 then c.events ++ c.eventsWaiting else (c.queue q.toNat).elems
      (q = 15 → s.core.events.length = 64 ∨ s.core.eventsWaiting = []) →
      (∀ e rest, held s.core = e :: rest → ∀ i ∈ [Instr.qpop d q, .qpopN d q], ∃ t, exec i s = .next t ∧ holds t.core d e ∧
        otherRegs s.core t.core d ∧ held t.core = rest ∧
        (q ≠ 15 → (t.core.queue q.toNat).loose = (s.core.queue q.toNat).loose.filterMap fun i => if i = 0 then none else some (i - 1)) ∧ (∀ j, (t.core.queue j).cmds = (s.core.queue j).cmds ∧ (j ≠ q.toNat → t.core.queue j = s.core.queue j)) ∧
        (q ≠ 15 → t.core.events = s.core.events ∧ t.core.eventsWaiting = s.core.eventsWaiting ∧ t.core.irq = s.core.irq) ∧
        t = { s with core := { s.core.doneFrom with
          regs := t.core.regs, pois := t.core.pois, qs := t.core.qs, events := t.core.events, eventsWaiting := t.core.eventsWaiting
          irq := t.core.irq } }) ∧
      (held s.core = [] → exec (.qpop d q) s = .next s ∧ ∃ t, exec (.qpopN d q) s = .next t ∧ aloneReg s t d (BitVec.allOnes 64)))

/-- R204, R394, R209, R225, R429: TAKE outside a slice returns the earliest eligible entry: its record is written at g[a] and its WID to d, BG, DL
and LCN are set, the generator starts anew, the grant is 32 lanes, and the slice begins; with none it waits. Eligible are the plain entries of the
core's queue, at a reserved site the member entries of its team alone; the earliest has the least deadline, then TB, source and sequence number
(R203). In a slice TAKE waits for the end of a phase, and then ends the slice as DONE does and takes as outside one. By R429 no plain slice begins
once the context stops: that TAKE then finds no plain entry (state below 4) is the model's choice (log entry 22, DEDUCED); that the record is
written at g[a] as the core's own store, register cache and buffer included, is too (log entry 28, DEDUCED). -/
def Obligations.TaskTake : Prop :=
  (∀ (s : State) (p : Nat),
    let es := (s.queue (.core p)).entries
    (∀ e, e ∈ s.eligible p ↔ e ∈ es ∧ match (s.getCore p).reserved with
      | some slot => ∃ r i, e.body = .member r slot i
      | none => (s.getCore p).finished = false ∧ s.mgmt.state.toNat < 4 ∧ ∀ r slot i, e.body ≠ .member r slot i) ∧
    ((∀ x ∈ es, x.seq < 2 ^ 32) → ∀ e rest, s.eligible p = e :: rest → ∀ x ∈ rest, e.deadline.toNat ≤ x.deadline.toNat ∧ (e.deadline = x.deadline →
      e.tb.toNat ≤ x.tb.toNat ∧ (e.tb = x.tb → e.src.toNat ≤ x.src.toNat ∧ (e.src = x.src → e.seq ≤ x.seq))))) ∧
  (∀ (s : State) (d a : Reg), s.issuesAlone [a] [d] → s.operandWritable (s.core.reg a).toNat → s.core.slice ≠ .none →
    (s.core.inPhase = true → exec (.take d a) s = .next s) ∧
    (s.core.inPhase = false → exec (.take d a) s = exec (.take d a) s.endSlice ∧ s.endSlice.core.slice = .none) ∧
    (s.core.slice = .plain → (∀ c ∈ s.cores, c.marked = none) → s.endSlice = { s with core := { s.core with
      slice := .none, irq := { s.core.irq with timer := false, preempt := none, entered := false, budget := false } } })) ∧
  ∀ (s : State) (d a : Reg), s.issuesAlone [a] [d] → s.core.slice = .none →
    let p := (s.core.reg a).toNat
    s.operandWritable p →
    (∀ e rest r sl lcn, s.eligible s.core.pcn = e :: rest →
      ((e.body = .task r ∧ sl = .plain ∧ lcn = r.wid) ∨ ∃ slot m, e.body = .member r slot m ∧ sl = .member slot ∧ lcn = BitVec.ofNat 64 m) →
      ∃ t, exec (.take d a) s = .next t ∧ wrote32 s.core t.core p r.value d r.wid ∧ t.core.pc = s.core.pc + 4 ∧
        t.core.ctl = { s.core.doneFrom.ctl with bg := r.budget.setWidth 64, dl := r.deadline, lcn := lcn, vl := 32 } ∧
        t.core.gen = (s.core.ctl.seed ^^^ (lcn * 0x9E3779B97F4A7C15)) ∧ t.core.nreq = 32 ∧ t.core.slice = sl ∧
        (t.queue (.core s.core.pcn)).entries = (s.queue (.core s.core.pcn)).entries.filter (fun x => x.key != e.key) ∧
        t.others = s.others ∧ t.dram = s.dram ∧ t.l2 = s.l2) ∧
    (s.eligible s.core.pcn = [] → ∃ t, exec (.take d a) s = .next t ∧ t.core.taking = true ∧ t.core.pc = s.core.pc ∧
      t.core.regs = s.core.regs ∧ t.core.slice = .none ∧ t.dram = s.dram)

/-- R203, R208, R212, R395 to R397: SPAWN, SPAWNT and YIELD of a valid record insert it (a deadline of 0 becomes TB + 2^32, YIELD puts the
current BG in it) with a stamp of this core, and go on; YIELD ends the slice. A record that is not valid traps 0x09; an instruction that waits keeps
the record that it copied at its issue (R392); single-bit errors of a record are counted (R443). R215, R395, R399, R409: DONE ends the slice, a member's only outside its phase: the
member has finished, and its team retires once all have; outside a slice it traps 0x01; WIDF writes the field of
the WID that the launch header cuts, or with k = 6 the core's own mailbox word, and traps 0x01 for a field that is none. That YIELD puts the low 32
bits of BG and does not wait for earlier accesses is the model's choice (log entry 39, DEDUCED), and so is the word that WIDF with k = 6 gives
outside a team (log entry 40, DEDUCED), that records are read as the core's loads see them (log entry 28, DEDUCED), and that the stamp of SPAWNT's record names this core (log entry 82, DEDUCED). -/
def Obligations.TaskInsertions : Prop :=
  (∀ (s : State) (a : Reg) (v : Nat), s.issuesAlone [a] [] →
      let p := (s.core.reg a).toNat
      let r := taskOf v
      let due (d : Word) : Word := if d = 0 then BitVec.ofNat 64 (min (s.tb.toNat + 2 ^ 32) (2 ^ 64 - 1)) else d
      let added (t : State) (q : QueueId) (d : Word) (b : Body) : Prop := (s.queue q).entries.length < q.capacity →
        ∃ n, (t.queue q).entries = (s.queue q).entries ++ [⟨b, due d, s.tb, BitVec.ofNat 11 s.core.pcn, n⟩]
      (∀ z, s.recordAt p 32 v z → s.taskOk r = true → s.earlierDone s.core.pcn = false ∨ s.accepts (.core s.core.pcn) = false →
        exec (.spawn a) s = .next (z.keeping v)) ∧
      (∀ z, s.recordAt p 32 v z → s.accepts (.core s.core.pcn) = true → s.core.reserved = none →
        (s.taskOk r = true → s.earlierDone s.core.pcn = true → ∃ t, exec (.spawn a) s = .next t ∧ t.core = s.core.doneFrom ∧ t.others = s.others ∧ t.corrected = z.corrected ∧
          added t (.core s.core.pcn) r.deadline (.task { r with deadline := due r.deadline })) ∧
        (s.taskOk r = false → exec (.spawn a) s = z.trap 0x09 (s.core.reg a)) ∧
        (s.taskOk r = true → s.core.slice = .plain → (∀ c ∈ s.cores, c.marked = none) → ∃ t, exec (.yield a) s = .next t ∧ t.core.slice = .none ∧ t.core.pc = s.core.pc + 4 ∧
          t.core.regs = s.core.regs ∧ t.corrected = z.corrected ∧
          added t (.core s.core.pcn) r.deadline (.task { r with deadline := due r.deadline, budget := s.core.ctl.bg.setWidth 32 }))) ∧
      (s.core.slice ≠ .plain → exec (.yield a) s = s.trap 0x01 ((wordOf (.yield a)).setWidth 64)) ∧
      (∀ z, s.recordAt p 64 v z → s.teamOk v = true → s.earlierDone s.core.pcn = false ∨ s.accepts .package = false →
        exec (.spawnt a) s = .next (z.keeping v)) ∧
      (∀ z, s.recordAt p 64 v z → s.accepts .package = true →
        (s.teamOk v = true → s.earlierDone s.core.pcn = true → ∃ t, exec (.spawnt a) s = .next t ∧ t.core = s.core.doneFrom ∧ t.others = s.others ∧ t.corrected = z.corrected ∧
          added t .package (teamOf v).deadline (.team { teamOf v with deadline := due (teamOf v).deadline })) ∧
        (s.teamOk v = false → exec (.spawnt a) s = z.trap 0x09 (s.core.reg a)))) ∧
  (∀ (s : State) (d a : Reg) (k : BitVec 3),
      (s.issuesAlone [] [] → s.core.inPhase = false → s.core.slice ≠ .none → ∃ t, exec .done s = .next t ∧ t.core.slice = .none ∧
        t.core.pc = s.core.pc + 4 ∧ t.core.regs = s.core.regs ∧ t.core.spad = s.core.spad ∧ t.dram = s.dram ∧
        ∀ slot, s.core.slice = .member slot → (s.team slot = none → t.core.finished = true) ∧
          ∀ u, s.team slot = some u → u.placedNow = true →
            ((∃ p ∈ u.sites, p ≠ s.core.pcn ∧ (s.getCore p).finished = false) → t.core.finished = true ∧ t.team slot = some u) ∧
            ((∀ p ∈ u.sites, p = s.core.pcn ∨ (s.getCore p).finished = true) → t.team slot = none)) ∧
      (s.issuesAlone [] [] → s.core.slice = .none → exec .done s = s.trap 0x01 ((wordOf .done).setWidth 64)) ∧
      (s.issuesAlone [a] [d] →
        (k.toNat < 6 → k.toNat < s.header.nf → ∃ t, exec (.widf d a k) s = .next t ∧ aloneReg s t d (BitVec.ofNat 64
          ((s.core.reg a).toNat / 2 ^ (s.header.widths.take k.toNat).sum % 2 ^ (s.header.widths.getD k.toNat 0)))) ∧
        (k = 6 → ∃ t, exec (.widf d a k) s = .next t ∧ aloneReg s t d (match s.ownTeam with
          | some u => BitVec.ofNat 64 (u.gen.toNat * 2 ^ 32 + (match s.core.slice with | .member slot => slot | _ => 0) * 2 ^ 16 + s.core.member)
          | none => BitVec.ofNat 64 (0x7F * 2 ^ 16 + s.core.pcn))) ∧
        (k = 7 ∨ k.toNat < 6 ∧ s.header.nf ≤ k.toNat → exec (.widf d a k) s = s.trap 0x01 ((wordOf (.widf d a k)).setWidth 64))))

/-- R216, R217, R225, R292, R401: BAR and BARS arrive, BAR with 32 lanes; BAR returns once its phase has ended, BARS and a WAITP with no phase open
at once; outside a team BAR and BARS trap 0x0A with reason 7. When every member has arrived the root sets the release cycle, each member's parity
grows by one and its phase runs, and one that waits in BAR will get its lanes again at the release cycle; when every engine has finished the phases
end, and a member whose core a double trap has stopped meanwhile has then finished (R420). That phase and parity change when the root completes the arrivals,
and not at the release cycle, is the model's choice (log entry 99, DESIGN CHOICE). -/
def Obligations.Barriers : Prop :=
  ∀ (s : State) (slot : Nat) (u : Team),
    (s.issuesAlone [] [] →
      (s.ownTeam ≠ none →
        (s.core.phase = .ended → exec .bar s = .next { s with core := { s.core.doneFrom with phase := .idle, leftBar := false } }) ∧
        (s.core.phase = .idle → exec .bar s =
          .next { s with core := { s.core with phase := .arrived false, leftBar := false, ctl := { s.core.ctl with vl := 32 } } }) ∧
        (∀ b, s.core.phase = .arrived b ∨ s.core.phase = .running b → exec .bar s = .next { s with core := { s.core with leftBar := false } } ∧
          exec .bars s = .next s ∧ exec .waitp s = .next s) ∧
        (s.core.phase = .idle ∨ s.core.phase = .ended →
          exec .bars s = .next { s with core := { s.core.doneFrom with phase := .arrived true } })) ∧
      (s.ownTeam = none → ∀ i ∈ [Instr.bar, .bars], exec i s = s.trap 0x0A 0xFFF07) ∧
      (s.core.phase = .idle ∨ s.core.phase = .ended → exec .waitp s = .next { s with core := s.core.doneFrom })) ∧
    (s.team slot = some u → u.status = .resident ∨ u.status = .leaving →
      let live := u.sites.filter fun p => !(s.getCore p).finished
      live ≠ [] →
      ((∀ p ∈ live, ∃ b, (s.getCore p).phase = .arrived b) → ∃ t v, exec (.barrierRelease slot) s = .next t ∧ t.team slot = some v ∧
        v.rel = s.tb + BitVec.ofNat 64 (2 * (u.trec.width + u.trec.height) + 32) ∧ t.dram = s.dram ∧
        (∀ p, (p ∉ live → (t.getCore p).parity = (s.getCore p).parity) ∧ (live.count p = 1 → (t.getCore p).parity = (s.getCore p).parity + 1)) ∧
        (∀ p, (t.getCore p).regrantAt = if p ∈ live ∧ (s.getCore p).phase = .arrived false then some v.rel.toNat else (s.getCore p).regrantAt) ∧
        ∀ p, (t.getCore p).regs = (s.getCore p).regs ∧ (t.getCore p).phase =
          if p ∈ live then (match (s.getCore p).phase with | .arrived b => .running b | x => x) else (s.getCore p).phase) ∧
      ((∀ p ∈ live, ∃ b, (s.getCore p).phase = .running b ∧ (s.getCore p).ttPending = []) → u.stopped = false → u.rel.toNat ≤ s.tb.toNat →
        (∀ f ∈ s.flits, f.slot ≠ slot) → (∃ p ∈ live, (s.getCore p).run ≠ .halted) →
        (∀ p ∈ live, (s.getCore p).run = .halted → (s.getCore p).slice = .member slot) → ∃ t, exec (.phaseEnd slot) s = .next t ∧ t.dram = s.dram ∧
        ∀ p, (t.getCore p).regs = (s.getCore p).regs ∧ if p ∈ live ∧ (s.getCore p).run = .halted then
          (t.getCore p).finished = true ∧ (t.getCore p).slice = .none ∧ (t.getCore p).phase = .idle else (t.getCore p).phase = if p ∈ live then (match (s.getCore p).phase with
          | .running false => .ended | .running true => .idle | x => x) else (s.getCore p).phase))

/-- R226, R227, R406, R407: CTRADD adds the low word of g[a] to a counter, which stays at its largest value with the saturation bit once it
would pass it; every action of the counter whose threshold is passed fires, and it waits for the core's earlier far writes, which what it fires, now or with
later increments, follows (R142). CTRRD and a WAITC whose threshold is reached, or whose
core is woken, write the counter. ARM keeps an action until its threshold is reached and fires it at once when it already is; a 33rd
action traps 0x09. ARM.push waits as QPUSH does (log entry 95, the model's choice: R144 names QPUSH alone). That fired pushes which wait for a slot count among the 32, and that WAITC with its count reached leaves the wake bit, is the
model's choice (log entry 44, DEDUCED). -/
def Obligations.TriggerCounters : Prop :=
  ∀ (s : State) (d a b : Reg) (c : BitVec 4),
    let v (x : Core) := (x.ctrs[c.toNat]'c.isLt).value.toNat
    let word (x : Core) : Word := BitVec.ofNat 64 (v x + (x.ctrs[c.toNat]'c.isLt).sat.toNat * 2 ^ 32)
    let n := (s.core.reg a).toNat % 2 ^ 32
    let full := 32 ≤ s.core.armed.length + s.core.fired.length
    let hit (e : Armed) : Prop := e.ctr = c ∧ v s.core < e.thr.toNat ∧ e.thr.toNat ≤ min (v s.core + n) (2 ^ 32 - 1)
    (s.issuesAlone [a] [] → s.earlierDone s.core.pcn = false → exec (.ctradd a c) s = .next s) ∧
    (s.issuesAlone [a] [] → s.earlierDone s.core.pcn = true → ∃ t, exec (.ctradd a c) s = .next t ∧ v t.core = min (v s.core + n) (2 ^ 32 - 1) ∧
      (t.core.ctrs[c.toNat]'c.isLt).sat = (if 2 ^ 32 ≤ v s.core + n then 1 else (s.core.ctrs[c.toNat]'c.isLt).sat) ∧
      (∀ e, e ∈ t.core.armed ↔ e ∈ s.core.armed ∧ ¬hit e) ∧
      (t.core.wake = true ↔ s.core.wake = true ∨ ∃ e ∈ s.core.armed, e.kind = .wake ∧ hit e) ∧
      t.core.regs = s.core.regs ∧ t.core.pc = s.core.pc + 4 ∧ t.core.spad = s.core.spad ∧ onlyCore s t) ∧
    (s.issuesAlone [] [d] → ∃ t, exec (.ctrrd d c) s = .next t ∧ aloneReg s t d (word s.core)) ∧
    (s.issuesAlone [a] [d] →
      (n ≤ v s.core → ∃ t, exec (.waitc d a c) s = .next t ∧ aloneReg s t d (word s.core)) ∧
      (v s.core < n → s.core.wake = true → ∃ t, exec (.waitc d a c) s = .next t ∧ aloneReg { s with core := { s.core with wake := false } } t d (word s.core)) ∧
      (v s.core < n → s.core.wake = false → exec (.waitc d a c) s = .next s)) ∧
    (s.issuesAlone [a] [] → ∀ e ∈ ([(.armEvent a c, .event), (.armWake a c, .wake)] : List (Instr × ArmKind)),
      (full → exec e.1 s = s.trap 0x09 0) ∧
      (¬full → v s.core < n → exec e.1 s = .next { s with core := { s.core.doneFrom with armed := s.core.armed ++ [⟨c, BitVec.ofNat 32 n, e.2⟩] } }) ∧
      (¬full → n ≤ v s.core → ∃ t, exec e.1 s = .next t ∧ t.core.armed = s.core.armed ∧ t.core.pc = s.core.pc + 4 ∧ t.core.regs = s.core.regs ∧
        onlyCore s t ∧ (e.2 = .wake → t.core.wake = true) ∧
        (e.2 = .event → t.core.events ++ t.core.eventsWaiting = s.core.events ++ s.core.eventsWaiting ++ [element (v s.core) 0 (0xFF10 + c.toNat)] ∨
          s.core.events.length < 64 ∧ s.core.eventsWaiting ≠ []))) ∧
    (s.issuesAlone [a, b] [] → ∀ w block z, s.pushable (s.core.reg b).toNat w block z →
      let k := s.prepare w block
      (full → exec (.armPush a b c) s = z.trap 0x09 0) ∧
      (¬full → v s.core < n → exec (.armPush a b c) s = .next { z with core := { s.core.doneFrom with
        gen := skipDraws k.2 s.core.gen, armed := s.core.armed ++ [⟨c, BitVec.ofNat 32 n, .push (bits w 7 4 - 1) k.1⟩] } }) ∧
      (¬full → n ≤ v s.core → s.core.fired = [] → s.core.room (bits w 7 4 - 1) k.1 = true → ∃ t, exec (.armPush a b c) s = .next t ∧
        (t.core.queue (bits w 7 4 - 1)).cmds = (s.core.queue (bits w 7 4 - 1)).cmds ++ [{ k.1 with num := s.core.pushed }] ∧ t.core.armed = s.core.armed ∧
        t.core.fired = [] ∧ t.core.pushed = s.core.pushed + 1 ∧ t.core.regs = s.core.regs ∧ onlyCore z t))

/-- R408 to R412: MSEND sends its message and d is pending; MSENDW delivers and writes 0 or 2, or waits after a bounce, for at most 2^20 cycles,
then it traps 0x0B; MRECV and MRECV.N take the oldest message, and with none MRECV waits and MRECV.N writes all ones. R409, R410: message number n, behind no earlier message of its core to the same mailbox, is delivered to the mailbox its word names, bounces,
or is stale and counted; its status goes on its way to d. A word is stale with a nonzero reserved field, a slot without a team, another generation, a
member that the team has not or one that has finished; it bounces at a full mailbox, at a member whose pre-empt has been taken and at one that is not
at its site. An MSENDW that has waited 2^20 cycles is ended by its timeout. That MSEND and MSENDW read their record as the core's loads see it and that MRECV writes at g[a]
as the core's own store does, register cache and buffer included, is the model's choice (log entry 28, DEDUCED). That a message to a finished member is stale, that one to a member which
is absent or not yet placed bounces, and that an MSENDW past its time traps before another attempt, is the model's choice (log entry 45, DEDUCED). -/
def Obligations.MessageInstructions : Prop :=
  (∀ (s : State) (w : Word),
      let x := w.toNat
      let i := x % 2048
      let badWord := x / 2 ^ 48 ≠ 0 ∨ x / 2 ^ 23 % 2 ^ 9 ≠ 0 ∨ x / 2 ^ 11 % 2 ^ 5 ≠ 0
      (badWord ∨ s.team (x / 2 ^ 16 % 128) = none → s.boxOf w = .stale) ∧
      (∀ u, s.team (x / 2 ^ 16 % 128) = some u →
        (u.gen.toNat ≠ x / 2 ^ 32 % 2 ^ 16 ∨ u.trec.size ≤ i → s.boxOf w = .stale) ∧
        (¬badWord → u.gen.toNat = x / 2 ^ 32 % 2 ^ 16 → i < u.trec.size →
          let c := s.getCore (u.site i)
          let away := u.placed = true ∧ ∀ m ∈ u.images, m.index ≠ i
          s.boxOf w = if u.status = .resident ∨ u.status = .leaving then
              if c.finished then .stale
              else if c.irq.preempt.any Prod.snd = true ∨ c.irq.entered = true ∨ 16 ≤ c.mailbox.length then .bounce else .box (u.site i)
            else if away then .stale else .bounce))) ∧
  (∀ (s : State) (d a b : Reg) (v : Nat),
      let p := (s.core.reg a).toNat
      let w := s.core.reg b
      let m : Message := ⟨BitVec.ofNat 256 v, s.ownMailbox⟩
      let issued (k : Word) : Prop := (∃ x, s.core.msendw = some (k, x)) ∨ s.core.msendw = none ∧ k = s.tb
      (s.issuesAlone [a, b] [d] → ∀ z, s.recordAt p 32 v z → s.earlierDone s.core.pcn = false → exec (.msend d a b) s = .next (z.keeping v)) ∧
      (s.issuesAlone [a, b] [d] → ∀ z, s.recordAt p 32 v z → ∀ k, issued k → s.tb.toNat < k.toNat + 2 ^ 20 →
        s.earlierDone s.core.pcn = false ∨ (∃ e ∈ s.mails, e.owner.pcn = s.core.pcn ∧ e.dst = w) ∨ s.boxOf w = .bounce →
        exec (.msendw d a b) s = .next (State.keeping { z with core := { s.core with msendw := some (k, w) } } v)) ∧
      (s.issuesAlone [a, b] [d] → ∀ z, s.recordAt p 32 v z → ∀ k, issued k → k.toNat + 2 ^ 20 ≤ s.tb.toNat →
        exec (.msendw d a b) s = State.trap { z with core := { s.core with msendw := none } } 0x0B w) ∧
      (s.issuesAlone [a, b] [d] → ∀ z, s.recordAt p 32 v z → s.earlierDone s.core.pcn = true →
        (∃ t, exec (.msend d a b) s = .next t ∧ t.mails = s.mails ++ [⟨s.owner, d, w, m⟩] ∧
          (∀ r, t.core.pending r = (s.core.pending r || (r == d && r != 0))) ∧ (∀ r, r ≠ d → t.core.poisoned r = s.core.poisoned r) ∧
          t = { z with mails := t.mails, core := { s.core.doneFrom with pend := t.core.pend, pois := t.core.pois } }) ∧
        (∀ k, issued k → s.tb.toNat < k.toNat + 2 ^ 20 →
          (∀ e ∈ s.mails, e.owner.pcn = s.core.pcn → e.dst ≠ w) →
          match s.boxOf w with
          | .box q => ∃ t, exec (.msendw d a b) s = .next t ∧ (t.getCore q).mailbox = (s.getCore q).mailbox ++ [m] ∧ holds t.core d 0 ∧
              t.core.msendw = none ∧ t.core.pc = s.core.pc + 4 ∧ otherRegs s.core t.core d ∧ t.dram = s.dram ∧ t.mgmt = s.mgmt ∧ t.corrected = z.corrected
          | .stale => ∃ t, exec (.msendw d a b) s = .next t ∧ holds t.core d 2 ∧ t.mgmt.mdrop = s.mgmt.mdrop + 1 ∧ t.others = s.others ∧
              t.core.mailbox = s.core.mailbox ∧ t.core.msendw = none ∧ t.core.pc = s.core.pc + 4 ∧ otherRegs s.core t.core d ∧
              t.corrected = z.corrected
          | .bounce => True)) ∧
      (s.issuesAlone [a] [d] → s.operandWritable p → s.core.ttStall true p 32 = false →
        (∀ x rest, s.core.mailbox = x :: rest → ∀ i ∈ [Instr.mrecv d a, .mrecvN d a], ∃ t, exec i s = .next t ∧
          wrote32 s.core t.core p x.data.toNat d x.sender ∧ t.core.mailbox = rest ∧ t.core.pc = s.core.pc + 4 ∧ onlyCore s t) ∧
        (s.core.mailbox = [] → exec (.mrecv d a) s = .next s ∧ ∃ t, exec (.mrecvN d a) s = .next t ∧ aloneReg s t d (BitVec.allOnes 64)))) ∧
  (∀ (s : State) (n : Nat) (m : Mail), s.mails[n]? = some m →
      (∀ e ∈ s.mails.take n, e.owner.pcn = m.owner.pcn → e.dst ≠ m.dst) →
      (∃ t st, exec (.messageDeliver n) s = .next t ∧ t.mails = s.mails.eraseIdx n ∧
        t.replies = (if m.reg = 0 then s.replies else s.replies ++ [⟨m.owner, m.reg, BitVec.ofNat 64 st, true⟩]) ∧
        (match s.boxOf m.dst with
          | .box q => st = 0 ∧ (t.getCore q).mailbox = (s.getCore q).mailbox ++ [m.msg] ∧ (∀ p, p ≠ q → t.getCore p = s.getCore p) ∧ t.mgmt = s.mgmt
          | .bounce => st = 1 ∧ (∀ p, t.getCore p = s.getCore p) ∧ t.mgmt = s.mgmt
          | .stale => st = 2 ∧ (∀ p, t.getCore p = s.getCore p) ∧ t.mgmt = { s.mgmt with mdrop := s.mgmt.mdrop + 1 })) ∧
      ∀ p k w, (s.getCore p).msendw = some (k, w) → (s.getCore p).busy = false → (s.getCore p).chunk = none → k.toNat + 2 ^ 20 ≤ s.tb.toNat →
        (s.getCore p).pendingInt = none → (s.getCore p).budgetDue = false → (s.select p).trapReady 0x0B → ∃ u, exec (.msendwTimeout p) s = .next (u.select s.core.pcn) ∧
          trapTaken { s.select p with core := { (s.select p).core with msendw := none } } u 0x0B w (s.getCore p).pc
)

/-! ## The machine as a whole -/

/-- R33, R35, R258: a step of the active core, or of the core that the agenda names, once time has passed, performs the instruction that the word at its PC decodes to; a word
that is no instruction and a PC that may not be fetched perform their trap; an operation or event that the agenda names is performed as it
stands there. A single-bit error of the word is counted (R443). The agenda, and the time that a step takes, are the model's (log entries 1, 2). -/
def Obligations.StepRunsDecodedWord : Prop :=
  (∀ (s : State), s.powered = true → ∀ i rest, s.agenda = .ev i :: rest → encode i = none → (∀ x, i ≠ .illegalInstruction x) →
    step s = exec i ({ s with agenda := rest } : State).settleMarked) ∧
  ∀ (s u : State), s.powered = true →
    (s.agenda = [] ∧ u = (s.pass s.pace).raiseTimer) ∨
      (∃ p rest, p < 1536 ∧ s.agenda = .run p :: rest ∧ u = ((({ s with agenda := rest } : State).pass s.pace).select p).raiseTimer) →
    let byte (k : Nat) : Byte := u.core.spad.read (u.core.pc.toNat + k)
    let w : BitVec 32 := byte 3 ++ byte 2 ++ byte 1 ++ byte 0
    (u.tb = s.tb + BitVec.ofNat 64 s.pace ∧ u.dram = s.dram ∧ (s.agenda = [] → u.core.regs = s.core.regs ∧ u.core.pc = s.core.pc ∧
      u.core.spad = s.core.spad ∧ u.others.length = s.others.length)) ∧
    (u.fetches → match decode w with
      | .ok i => step s = exec i (u.heal (u.core.softWords u.core.pc.toNat 4))
      | .error _ => step s = exec (.illegalInstruction w) (u.heal (u.core.softWords u.core.pc.toNat 4))) ∧
    (u.core.run = .running → u.core.out = none → u.core.closing = false → u.core.early = none → u.core.pendingInt = none →
      u.core.budgetDue = false → u.lateUpcall = none → u.stalled = false → u.core.streak < 4 → u.core.pc.toNat % 4 ≠ 0 ∨ u.core.xb ≤ u.core.pc.toNat →
      step s = exec .executeBoundaryFetch u) ∧
    (u.core.run = .running → u.core.out = none → u.core.closing = false → ∀ e, u.core.pendingInt = some e → u.core.acked = false →
      u.core.sent = false → u.core.chunk = none → step s = exec (.interruptEntry u.core.pcn) { u with core := { u.core with early := none } })

/-- R254 to R258: decoding undoes encoding for every well-formed instruction with a word, with every operand at every value; and each word
that decodes to an instruction is the one word of that instruction, which is well-formed. -/
def Obligations.DecodeEncode : Prop :=
  (∀ (i : Instr), i.wf = true → ∀ w, encode i = some w → decode w = .ok i) ∧
    ∀ (w : BitVec 32) (i : Instr), decode w = .ok i → encode i = some w ∧ i.wf = true

/-- R446: a step stops, with the fault noPower, exactly when the power has been removed and the step is not the POWER_GOOD that brings it
back or a change of what is connected: nothing that an instruction, an event or an agent does is refused or ends the run. -/
def Obligations.MachineGoesOn : Prop :=
  ∀ (s : State),
    let off := s.powered = false ∧ ¬∃ f v t l rest, s.agenda = .ev (.powerGood f v t) :: rest ∨ s.agenda = .partners l :: rest
    (off → step s = .fault .noPower) ∧ (¬off → ∃ t, step s = .next t)

/-- Every step keeps the canonical form of every memory: the scratchpads, DRAM, host memory, the memory of other nodes, the launch queue and
the swap areas. -/
def Obligations.MemoryFormKept : Prop :=
  ∀ (s t : State), s.memoryForm → step s = .next t → t.memoryForm

/-- The state after reset: every memory has its canonical form, and the registers hold the reset values of R9, R17, R18, R31, R36, R45, R113,
R173, R174, R221, R226, R228, R253 and R432 at every core. -/
def Obligations.ResetState : Prop :=
  State.reset.memoryForm ∧ State.reset.mgmt.state = 0 ∧ State.reset.mgmt.quantum = 0x400000 ∧ State.reset.mgmt.rper = 0x100000 ∧
    State.reset.mgmt.nodew = 0 ∧ State.reset.mgmt.prien = 1 ∧ State.reset.mgmt.eol = 0xFFFF ∧ State.reset.mgmt.pcap = 1650 ∧
    ∀ p, let c := State.reset.getCore p
      c.pcn = p ∧ c.run = .noContext ∧ c.wp = 0 ∧ c.xb = 0x8000 ∧ c.ctl.mode = .system ∧ c.ctl.nte = 0 ∧ c.ctl.sre = 0 ∧ c.ctl.rm = 0 ∧
        c.tv = 0 ∧ c.uws = 0 ∧ c.upc = 0 ∧ c.twp = 0 ∧ c.ctl.cause = 0 ∧ c.ctl.tval = 0 ∧ c.ctl.epc = 0 ∧ c.ctl.vl = 0x20 ∧ c.ctl.vn = 0 ∧
        c.ctl.lcn = 0 ∧ c.ctl.seed = 0 ∧ c.ctl.fflags = 0 ∧ c.ctl.node = 0 ∧ (∀ b ∈ c.ctl.lpb.toList, b.en = 0) ∧
        (∀ m ∈ c.marks.toList, m = 0) ∧ (∀ k ∈ c.ctrs.toList, k.value = 0 ∧ k.sat = 0)

/-! ## Tables, macros and the engines (spec 02, 16, 17, 18) -/

/-- R45, R348: STAT and UNSTAT whose operands pass their checks and whose macros need no wait mark, and unmark, each macro of the range; an UNSTAT that
waits keeps the number of commands that were pushed before it. R349, R350, R183, R184: CTBL copies 64 entries of 24 bits and puts the copy into the command order; at its turn the inactive bank becomes
the copy, its single-bit errors counted (R443); CTSWAP at its turn makes the inactive bank active and completes. That CTBL reads its table without a wait for a busy macro, and that an
UNSTAT tells earlier pushes by the number kept at its first issue, is the model's choice (log entries 29 and 56, DEDUCED). -/
def Obligations.MacrosAndTables : Prop :=
  (∀ (s : State) (a b : Reg) (w : BitVec 4), s.issuesAlone [a, b] [] →
      let base := (s.core.reg a).toNat
      let v := (s.core.reg b).toNat
      let n := v % 32
      let geom := v / 65536 % 65536
      let first := base / 0x4000
      base % 0x4000 = 0 → 0x20000 ≤ base → base + n * 0x4000 ≤ 0x60000 → 1 ≤ n → n ≤ 16 →
      spansCheck (s.core.lpuCheck true) [(base, n * 0x4000)] = none →
      let marked (i : Instr) (f : Nat → BitVec 32) : Prop := ∃ t, exec i s = .next t ∧
        t = { s with core := { s.core.doneFrom with marks := t.core.marks } } ∧
        ∀ (m : Nat) (h : m < 24), t.core.marks[m] = if first ≤ m ∧ m < first + n then f (m - first) else s.core.marks[m]
      (v < 2 ^ 32 → v / 32 % 2048 = 0 → geom / 32 % 128 + n ≤ 128 → ¬(base ≤ s.core.wp ∧ s.core.wp < base + n * 0x4000) →
        (∀ j, j < n → s.macroBusy s.core.pcn (first + j) = false) →
        marked (.stat a b w) fun j => BitVec.ofNat 32 (2 ^ 31 + w.toNat * 2 ^ 24 + geom + 32 * j)) ∧
      let lim := s.core.unstat.getD s.pushLimits
      (v < 32 → (∀ j, j < n → s.gridOwed lim (first + j) = false) → marked (.unstat a b) fun _ => 0) ∧
      (v < 32 → s.gridOwed lim first = true → exec (.unstat a b) s = .next { s with core := { s.core with unstat := some lim } })) ∧
  (∀ (s : State) (a : Reg) (p k : Nat),
      let at_ := (s.core.reg a).toNat
      (s.issuesAlone [a] [] → at_ % 64 = 0 → s.core.rangeCheck false at_ 256 = none → s.core.badWord at_ 256 = none →
        ∃ t c tab, exec (.ctbl a) s = .next t ∧ t.core.queue 0 = { s.core.queue 0 with cmds := (s.core.queue 0).cmds ++ [c] } ∧ c.table = some tab ∧ c.num = s.core.pushed ∧
          tab.length = 64 ∧ (∀ i, i < 64 → tab[i]? = some (BitVec.ofNat 24 (s.core.localRead (at_ + 4 * i) 3))) ∧
          (∀ j, j ≠ 0 → t.core.queue j = s.core.queue j) ∧ t = { s.heal (s.core.softWords at_ 256) with core := { s.core.doneFrom with qs := t.core.qs, pushed := s.core.pushed + 1 } }) ∧
      (∀ c tab, s.mxNext k = some p → (s.getCore p).mxHead = some c → c.table = some tab →
        ∃ t, exec (.ctblBankWrite k) s = .next t ∧ (t.cluster k).bank (s.cluster k).inactive = tab ∧
          (t.cluster k).bank (s.cluster k).active = (s.cluster k).bank (s.cluster k).active ∧ (t.cluster k).active = (s.cluster k).active ∧
          (t.cluster k).last = clusterPos p ∧ (∀ j, j ≠ k → t.cluster j = s.cluster j) ∧
          (t.getCore p).queue 0 = { (s.getCore p).queue 0 with cmds := ((s.getCore p).queue 0).cmds.drop 1 } ∧
          (∀ q, q ≠ p → t.getCore q = s.getCore q) ∧ t.dram = s.dram) ∧
      ∀ c, s.headCmd p 0 1 4 = some c → s.mxNext (clusterOf p) = some p →
        ∃ t, exec (.mxCtswap p) s = .next t ∧ (t.cluster (clusterOf p)).active = (s.cluster (clusterOf p)).active ^^^ 1 ∧
          (t.cluster (clusterOf p)).bank0 = (s.cluster (clusterOf p)).bank0 ∧ (t.cluster (clusterOf p)).bank1 = (s.cluster (clusterOf p)).bank1 ∧
          t.getCore p = (s.getCore p).posted 0 c 0 0 ∧ (∀ q, q ≠ p → t.getCore q = s.getCore q) ∧ t.dram = s.dram)

/-- R354 to R357, R184, R190, R191, R360: a RUN whose grid and operands are valid starts at its turn with the bank that is then active, with every row or the rows
of its list, which must ascend below K (else status 0x03); a started RUN does its next row, each column the sum of its products over the selected
rows, read out into D as images or with one rounding an element, element i of the row taking the draw of its place in the command; after the last row
it completes with its flags. A RUN that a SAVE had stopped starts with the bank and the rows of its first start. Single-bit errors of what is read are
counted (R443). With no row selected nothing of A is read (R355). R189, R190: products add exactly, an accumulator stays at the bound that
a sum passes, and within the range a list of products adds up to its exact sum. R63: a pinned line leaves its slice for no other line, and a thirteenth
pinned way of a set is refused. That a saturated sum is read out as it stands is the model's choice (log entry 84, DEDUCED; R191 has two readings). -/
def Obligations.MatrixRun : Prop :=
  (∀ (x : XAcc) (i : Int), (x.s = true → x.add i = x) ∧ (x.s = false → x.add i =
    if 2 ^ 159 ≤ x.v + i then { x with v := 2 ^ 159 - 1, s := true } else if x.v + i < -2 ^ 159 then { x with v := -2 ^ 159, s := true }
    else { x with v := x.v + i })) ∧
  (∀ (x : XAcc) (ps : List Int), x.s = false → (∀ n, -2 ^ 159 ≤ x.v + (ps.take n).sum ∧ x.v + (ps.take n).sum < 2 ^ 159) →
    ps.foldl XAcc.add x = { x with v := x.v + ps.sum }) ∧
  (∀ (x : XAcc) (w : Val) (a b m n : Nat) (e f : Int) (u v y z : Bool) (tab : List (BitVec 24)),
    (0 ≤ e + f + 64 → x.mac (.fin u m e y) (.fin v n f z) = x.add ((if u = v then 1 else -1) * (m * n * 2 ^ (e + f + 64).toNat : Nat))) ∧
    x.mac .nar w = { x with n := true } ∧ x.mac w .nar = { x with n := true } ∧ x.mac (.zero u) (.fin v n f z) = x ∧
    x.mac (.fin u m e y) (.zero v) = x ∧ x.mac (.zero u) (.zero v) = x ∧
    (a = 0x30 ∨ b = 0x30 → x.macLns tab a b = { x with n := true }) ∧ (a ≠ 0x30 → b ≠ 0x30 → a = 0x10 ∨ b = 0x10 → x.macLns tab a b = x) ∧
    (a < 64 → b < 64 → a % 32 ≠ 16 → b % 32 ≠ 16 → x.macLns tab a b = x.add ((if a / 32 = b / 32 then 1 else -1) *
      ((tab.getD ((BitVec.ofNat 5 a).toInt + (BitVec.ofNat 5 b).toInt + 32).toNat 0).toNat * 2 ^ 48 : Nat))) ∧
    ∀ g rm d, x.n = false → x.v ≠ 0 → x.round g rm d = roundFin (fmtKind g.toNat) false rm d (decide (x.v < 0)) x.v.natAbs (-64) false) ∧
  (∀ (s : State) (p sl x : Nat) (l : L2Line), s.l2Find sl x = some l →
    (l.pins ≠ [] → s.evictL2 sl x = s ∧ ∀ y : L2Line, y.slice ≠ sl ∨ y.line ≠ x → (s.l2Put y).l2Find sl x = some l) ∧
    (∀ t, s.pinAt p sl x = some t → ∃ m, t.l2Find sl x = some m ∧ p ∈ m.pins) ∧
    (s.pinAt p sl x = none ↔ l.pins = [] ∧ 12 ≤ (s.l2.filter fun y => y.slice == sl && l2Set y.line == l2Set x && !y.pins.isEmpty).length)) ∧
  ∀ (s : State) (p : Nat) (k : Cmd), s.headCmd p 0 1 0 = some k →
    let r := mxRunOf k.word.toNat
    let c := s.getCore p
    (∀ g wf, k.started = none → s.mxNext (clusterOf p) = some p → s.findGrid p r = some (g, wf) → wfAccepts wf r.afmt.toNat = true →
      (k.wideBad = false ∨ cpbOf wf ≠ r.cpbs.2 ∨ r.cpbs.1 = r.cpbs.2) →
      (∀ e ∈ (if r.asrc then [] else rowSpans r.a r.astr r.aRow r.m) ++ (if r.sel then [(r.sl, 4 + 4 * r.k)] else []), s.spadFree p e.1 e.2) →
      let bank := (s.cluster (clusterOf p)).active
      let starts (met : Nat) (bank : Bit) (rows : List Nat) : Prop :=
        exec (.mxRun p 0) s = .next (((s.mxServe p).heal met).modCore p fun c => c.modHead 0 fun k => { k with
          started := some ⟨bank, BitVec.ofNat 4 wf, g, rows⟩ })
      let refused (met : Nat) : Prop := exec (.mxRun p 0) s = .next ((((s.mxServe p).heal met).unpin p fun _ => true).posted p 0 k 0 0x03)
      (∀ b, k.begun = some b → starts 0 b.bank b.rows) ∧ (k.begun = none → r.sel = false → starts 0 bank (List.range r.k)) ∧
      ∀ n, k.begun = none → r.sel = true → c.badWord r.sl 4 = none → n = c.spad.readLE r.sl 4 →
        (r.k < n → refused (c.softWords r.sl 4)) ∧ (n ≤ r.k → c.badWord (r.sl + 4) (4 * n) = none →
          let rows := (List.range n).map fun i => c.spad.readLE (r.sl + 4 + 4 * i) 4
          let valid := (∀ x ∈ rows, x < r.k) ∧ rows.Pairwise (fun x y => x < y)
          let met := c.softWords r.sl 4 + c.softWords (r.sl + 4) (4 * n)
          (valid → starts met bank rows) ∧ (¬valid → refused met))) ∧
    ∀ st, k.started = some st →
      let i := k.progress
      let n := r.nb * cpbOf st.wf.toNat
      let d := r.d + r.dstr * i
      let len := if r.dx then 32 * n else vLen r.dfmt n
      let start (j : Nat) : XAcc := if r.accum then XAcc.ofImage (c.spad.readLE (d + 32 * j) 32) else XAcc.zero
      (∀ g ∈ st.grid, (s.getCore g.2.2.1).badWord (g.2.2.2 * 0x4000) 0x4000 = none) → (r.accum = true → c.badWord d (32 * n) = none) →
      s.spadFree p d len → r.dfmt.toNat ≤ 6 → ∀ u row,
      (let met := s.heal (st.grid.map fun g => (s.getCore g.2.2.1).softWords (g.2.2.2 * 0x4000) 0x4000).sum
       st.rows = [] ∧ u = met ∧ row = 0 ∨ st.rows ≠ [] ∧ met.rowOfA p r i = .ok u row) →
      let sum (j : Nat) : XAcc := s.column r st ((s.cluster (clusterOf p)).bank st.bank) row j (start j)
      let draw (j : Nat) : Nat := if rmResolved r.rm = .sr then (Machine.draw (skipDraws (i * n + j) k.gen)).1 else 0
      let code (j : Nat) : Nat × Flg := (sum j).round r.dfmt (rmResolved r.rm) (draw j)
      let flags : BitVec 6 := k.flags ||| if r.dx then (if ∃ j, j < n ∧ ((start j).s = true ∨ (sum j).s = true) then 32 else 0)
        else ((List.range n).foldl (fun fl j => fl ||| (code j).2) 0).setWidth 6
      ∃ t m e, exec (.mxRun p 1) s = .next t ∧
        (∀ j, j < n → if r.dx then m.readLE (d + 32 * j) 32 = (sum j).image else vElem m r.dfmt d j = (code j).1 % 2 ^ elementBits r.dfmt) ∧
        (∀ y, y < d ∨ d + len ≤ y → m.read y = c.spad.read y) ∧ (∀ q, q ≠ p → t.getCore q = u.getCore q) ∧ t.dram = u.dram ∧
        t.corrected = u.corrected + (if r.accum then c.softWords d (32 * n) else 0) ∧
        t.l2 = (u.unpin p fun x => decide (r.m ≤ i + 1) || r.asrc && decide (x < lineOf (r.a + r.astr * (i + 1)))).l2 ∧
        let x := { u.getCore p with spad := m, ecc := e }
        if r.m ≤ i + 1 then t.getCore p = x.posted 0 k flags.toNat 0
        else t.getCore p = { x with qs := x.qs.setIfInBounds 0 { x.queue 0 with
          cmds := { k with progress := i + 1, flags := flags } :: (x.queue 0).cmds.drop 1 } }

/-- R358, R360: ACC, which starts at its turn, does its next row: each image is read, cleared if the command says so, and read out with one rounding
into its element; after the last row the command completes with the flags of all of them, bit 5 set when an image was saturated; one that meets an
uncorrectable error stops with 0x10 and the flags so far. Single-bit errors of an image are counted (R443). That a saturated image is read out as it stands is the model's choice (log entry 84,
DEDUCED; R191 has two readings). -/
def Obligations.AccumulatorReadout : Prop :=
  ∀ (s : State) (p : Nat) (k : Cmd), s.headCmd p 0 1 3 = some k → k.sent = true ∨ s.mxNext (clusterOf p) = some p →
    let r := mxAccOf k.word.toNat
    let rm := rmResolved r.rm
    let f := r.dfmt
    let image (x : State × Word × BitVec 6) (i : Nat) (y : State × Word × BitVec 6) : Prop :=
      let a := r.a + r.sstr * (i / r.n) + 32 * (i % r.n)
      let d := r.d + r.dstr * (i / r.n)
      let j := i % r.n
      let im := (x.1.getCore p).spad.readLE a 32
      let out := (XAcc.ofImage im).round f rm (drawn rm x.2.1).1
      let met := x.1.heal ((x.1.getCore p).softWords a 32)
      let clear := if r.clr then met.spadWritten p a 32 0 else met
      let old := if j % 5 = 0 then 0 else (clear.getCore p).spad.readLE (d + 4 * (j / 5)) 4
      (x.1.getCore p).badWord a 32 = none ∧ (r.clr = true → x.1.spadFree p a 32) ∧
        y.2.1 = (drawn rm x.2.1).2 ∧ y.2.2 = x.2.2 ||| out.2.setWidth 6 ||| (if bitAt im 161 then 32 else 0) ∧
        (if f = 6 then clear.spadFree p (d + 4 * (j / 5)) 4 ∧ y.1 = clear.spadWritten p (d + 4 * (j / 5)) 4 (old + out.1 * 2 ^ (6 * (j % 5)))
         else clear.spadFree p (d + fmtBytes f.toNat * j) (fmtBytes f.toNat) ∧
          y.1 = clear.spadWritten p (d + fmtBytes f.toNat * j) (fmtBytes f.toNat) out.1)
    r.d % fmtBytes f.toNat = 0 → r.d % 4 = 0 → f.toNat ≤ 6 → r.a % 32 = 0 →
    let row := (List.range r.n).map fun j => k.progress * r.n + j
    let begin_ := (if k.sent then s else s.mxServe p, if rm = .sr then skipDraws (k.progress * r.n) k.gen else k.gen, k.flags)
    (∀ u, chain image row begin_ u → exec (.mxAcc p) s = .next (if r.m ≤ k.progress + 1 then (u.1.unpin p fun _ => true).posted p 0 k u.2.2.toNat 0
      else u.1.modCore p fun c => c.modHead 0 fun k => { k with sent := true, progress := k.progress + 1, flags := u.2.2 })) ∧
    ∀ js j rest u, row = js ++ j :: rest → chain image js begin_ u →
      ((u.1.getCore p).badWord (r.a + r.sstr * (j / r.n) + 32 * (j % r.n)) 32).isSome = true →
      ∃ t : State, exec (.mxAcc p) s = .next (t.posted p 0 k u.2.2.toNat 0x10) ∧ t.cores = u.1.cores ∧ t.dram = s.dram

/-- R359, R360: SAVE stops the core's own command, waits while a command of another core uses the core's macros, writes the record (counts, active bank,
tables, command words, elements, generator states) and leaves its own element, which holds no slot, as the only one; RESTORE takes a record back: tables and active
bank, then commands and elements, the first command at its progress row. R25: later changes of the LPU, XB or the mode do not change an accepted command; that a
command which the core's SAVE or swap-out recorded comes back as its push left it and its start found it, which one that is (of the same record and place, else the latest equal
one), and that any other comes back as a push of its word would record it, is the model's choice (log entry 67, DEDUCED). -/
def Obligations.MatrixSaveRestore : Prop :=
  ∀ (s : State) (p : Nat) (k : Cmd), (s.getCore p).mxControl = some k →
    let c := s.getCore p
    let q := c.queue 0
    let a := k.field 127 64
    let cl := s.cluster (clusterOf p)
    let element (v : Nat) : BitVec 64 := BitVec.ofNat 64 (v * 2 ^ 24 + k.tag)
    let ends (t : State) (x : Core) : Prop := t.getCore p = x.counts k ∧
      (∀ j, j ≠ p → t.getCore j = s.getCore j) ∧ t.dram = s.dram
    let stopped := q.cmds.map fun x => { x with started := none, begun := if x.started.isSome then x.started else x.begun, sent := false }
    (k.code = 1 → (s.mxStop p).lendsMacro p = true → ∃ t, exec (.mxSave p) s = .next t ∧
      t.getCore p = { c with qs := c.qs.setIfInBounds 0 { q with cmds := stopped } } ∧ (∀ j, j ≠ p → t.getCore j = s.getCore j) ∧ t.dram = s.dram ∧
      ∀ l ∈ t.l2, p ∉ l.pins) ∧
    (k.code = 1 → (s.mxStop p).lendsMacro p = false → s.spadFree p a 2112 →
      let cs := stopped.filter Cmd.takesSlot
      cs.length ≤ 32 → q.elems.length ≤ 32 → (∀ x ∈ cs, x.progress < 2 ^ 32) → cl.bank0.length = 64 → cl.bank1.length = 64 →
      ∃ t m e, exec (.mxSave p) s = .next t ∧ m.readLE a 1 = cs.length ∧ m.readLE (a + 1) 1 = q.elems.length ∧
        m.readLE (a + 2) 1 = cl.active.toNat ∧ m.readLE (a + 8) 4 = (match cs with | x :: _ => x.progress | [] => 0) ∧
        (∀ i, i < 64 → m.readLE (a + 0x40 + 4 * i) 4 = (cl.bank0.getD i 0).toNat ∧ m.readLE (a + 0x140 + 4 * i) 4 = (cl.bank1.getD i 0).toNat) ∧
        (∀ i x, cs[i]? = some x → m.readLE (a + 0x240 + 32 * i) 32 = x.pushed.toNat ∧ m.readLE (a + 0x740 + 8 * i) 8 = x.gen.toNat) ∧
        (∀ i x, q.elems[i]? = some x → m.readLE (a + 0x640 + 8 * i) 8 = x.toNat) ∧
        (∀ y, y < a ∨ a + 2112 ≤ y → m.read y = c.spad.read y) ∧
        let left : EngineQ := ⟨(stopped.filter fun x => !x.takesSlot).eraseP Cmd.isControl, [element cs.length], [0]⟩
        ends t { c with spad := m, ecc := e, kept := keep c.kept a (cs.zipIdx.map Prod.swap), qs := c.qs.setIfInBounds 0 left }) ∧
    (k.code = 2 → c.badWord a 2112 = none → (∀ x ∈ q.cmds, x.takesSlot = false) → q.elems = [] →
      let n := c.spad.readLE a 1
      let e := c.spad.readLE (a + 1) 1
      n ≤ 32 → e ≤ 32 →
      ∃ t cs es, exec (.mxRestore p) s = .next t ∧ cs.length = n ∧ es.length = e ∧
        (∀ i x, cs[i]? = some x →
          let w := BitVec.ofNat 256 (c.spad.readLE (a + 0x240 + 32 * i) 32)
          let g := c.spad.dword (a + 0x740 + 8 * i)
          let equal (y : Kept) : Prop := y.cmd.pushed = w ∧ y.cmd.gen = g
          let as_ (y : Cmd) : Prop := x.word = y.word ∧ x.wideBad = y.wideBad ∧ x.block = y.block ∧ x.spans = y.spans ∧ x.table = y.table ∧
            x.begun = y.begun
          x.pushed = w ∧ x.gen = g ∧ x.progress = (if i = 0 then c.spad.readLE (a + 8) 4 else 0) ∧ x.started = none ∧ x.num = 0 ∧
            ((∀ y ∈ c.kept, ¬equal y) → as_ (c.recordCmd w.toNat 0 g)) ∧
            (∀ l y r, c.kept = l ++ y :: r → equal y → y.addr = a → y.place = i → (∀ z ∈ r, equal z → z.addr = a → z.place ≠ i) → as_ y.cmd) ∧
            ∀ l y r, c.kept = l ++ y :: r → equal y → (∀ z ∈ r, ¬equal z) → (∀ z ∈ c.kept, equal z → z.addr = a → z.place ≠ i) → as_ y.cmd) ∧
        (∀ i x, es[i]? = some x → x = c.spad.dword (a + 0x640 + 8 * i)) ∧
        (let u := t.cluster (clusterOf p)
         u.active = BitVec.ofNat 1 (c.spad.readLE (a + 2) 1) ∧ u.last = cl.last ∧ u.bank0.length = 64 ∧ u.bank1.length = 64 ∧
          ∀ i, i < 64 → u.bank0[i]? = some (BitVec.ofNat 24 (c.spad.readLE (a + 0x40 + 4 * i) 3)) ∧
            u.bank1[i]? = some (BitVec.ofNat 24 (c.spad.readLE (a + 0x140 + 4 * i) 3))) ∧
        ends t { c with qs := c.qs.setIfInBounds 0 ⟨cs ++ q.cmds.eraseP Cmd.isControl, es ++ [element n], [e]⟩ })

/-- R361, R362, R48, R49, R134, R367: GET, PUT and MCAST move their pieces in order, each at most one line: GET and MCAST read the line and write it
into the scratchpad of every core of the mask, PUT reads the scratchpad and writes the line; the command then completes with the bytes of
the tile. A single-bit error under what PUT reads of the scratchpad is counted (R443). A piece that faults stops the command, its status the fault's kind and its value the local offset. A line that its home slice holds is
read and written there. -/
def Obligations.TileWalks : Prop :=
  ∀ (s : State) (p : Nat) (k : Cmd),
    let t := twOf k.word.toNat
    let targets := (maskBitsOf t.mask).map (clusterCore (clusterOf p))
    let rows := (List.range t.rows).flatMap fun i => (pieces (t.g + t.gstr * i) t.rb).map fun x =>
      (x.1, t.l + t.lstr * i + (x.1 - (t.g + t.gstr * i)), x.2)
    let getOne (s : State) (x : Nat × Nat × Nat) (u : State) : Prop := ∃ m v, s.engRead p x.1 x.2.2 = .ok m v ∧
      (∀ q ∈ targets, m.spadFree q x.2.1 x.2.2) ∧ u = targets.foldl (fun m q => m.spadWritten q x.2.1 x.2.2 v) m
    let putOne (s : State) (x : Nat × Nat × Nat) (u : State) : Prop := ∃ m v, s.spadHolds (targets.headD 0) x.2.1 x.2.2 m v ∧
      m.engPut x.1 x.2.2 v = .ok u ()
    (∀ e ∈ [(0, Instr.twGet p), (2, .twMcast p)], s.headCmd p 1 2 e.1 = some k →
      (∀ u, chain getOne rows s u → exec e.2 s = .next (u.posted p 1 k (t.rows * t.rb) 0)) ∧
      (∀ done x rest m h f, rows = done ++ x :: rest → chain getOne done s m → m.isOwn x.1 = true → p < 1536 → x.1 < 2 ^ 57 →
        m.homeRead (p / 384) x.1 Req.read false = .fault h f → f.kind ≠ 0x44 →
        exec e.2 s = .next ((m.noteWalk h x.1 f).posted p 1 k x.2.1 f.kind.toNat))) ∧
    (s.headCmd p 1 2 1 = some k → t.mask % 256 ≠ 0 → ∀ u, chain putOne rows s u → exec (.twPut p) s = .next (u.posted p 1 k (t.rows * t.rb) 0)) ∧
    ∀ (va n v : Nat) (l : L2Line), s.isOwn va = true → 2 ^ 32 ≤ va → va < 2 ^ 57 → 0 < n → va % 64 + n ≤ 64 →
      (s.heldAtHome va Req.read l → s.engRead p va n = .ok s (lineGet l.data (va % 64) n)) ∧
      (s.heldAtHome va Req.write l → s.reservation = none → s.seqQueue.length < 512 → ∃ t, s.engPut va n v = .ok t () ∧ writtenAtHome s t va n v l)

/-- R363 to R365, R372: COPY reads each line of its source and writes it where it belongs, FILL writes the repeated pattern, MIGRATE copies a row and then
writes its forwarding word, its lines marked as moved; each completes with its bytes. COPY with fold = 1 sends its contribution, which
completes it on arrival. Commands start in push order (R363): a copy engine works on one of the queue whose contribution is not under way, while those before
it and the contributions of the die under way are fewer than the four engines (R96). That pieces are cut at the lines of the source and then of the destination, and that a fold COPY checks its
pages before it reads its source, is the model's choice (log entry 59, DEDUCED). -/
def Obligations.CopyEngines : Prop :=
  ∀ (s : State) (p : Nat) (k : Cmd),
    let e := ceOf k.word.toNat
    let writes (s : State) (xs : List (Nat × Nat × Nat)) (u : State) : Prop :=
      chain (fun (s : State) (x : Nat × Nat × Nat) u => s.engPut x.1 x.2.1 x.2.2 = .ok u ()) xs s u
    let copyOne (s : State) (x : Nat × Nat) (u : State) : Prop := ∃ m v, s.engRead p x.1 x.2 = .ok m v ∧
      let dest := e.dst + (x.1 - e.x)
      writes m ((pieces dest x.2).map fun y => (y.1, y.2, v / 256 ^ (y.1 - dest) % 256 ^ y.2)) u
    let pattern (o n : Nat) : Nat := ((List.range n).map fun i => e.x / 256 ^ ((o + i) % 8) % 256 * 256 ^ i).sum
    (∀ code x, (((s.getCore p).queue 2).cmds.filter fun y => !y.sent)[(s.getCore p).pick]? = some x → x.table = none → x.cls = 3 → x.code = code →
      (s.ceCmd p code = some x ↔
        (s.folds.filter fun c => c.sender < 2048 ∧ c.sender / 384 = p / 384).length + (s.getCore p).pick < 4)) ∧
    (s.ceCmd p 0 = some k → e.fold = false → ∀ u, chain copyOne (pieces e.x e.top) s u →
      exec (.ceCopy p) s = .next (u.posted p 2 k e.top 0)) ∧
    (s.ceCmd p 1 = some k → ∀ u, writes s ((pieces e.dst e.top).map fun y => (y.1, y.2, pattern (y.1 - e.dst) y.2)) u →
      exec (.ceFill p) s = .next (u.posted p 2 k e.top 0)) ∧
    (s.ceCmd p 2 = some k → ∀ m u, chain copyOne (pieces e.x e.rbytes) s m → m.engPut e.top 8 e.dst = .ok u () →
      ∃ t : State, exec (.ceMigrate p) s = .next (t.posted p 2 k e.rbytes 0) ∧ t = { u with moved := t.moved } ∧
        ∀ l, l ∈ t.moved ↔ l ∈ u.moved ∨ ∃ i, i < e.rbytes / 64 ∧ l = lineOf (e.x + 64 * i)) ∧
    (s.ceCmd p 0 = some k → e.fold = true → s.isOwn e.dst = true → ∀ m ps u v, s.foldPages 17 e.dst (e.dst + e.top) = (m, ps) → ps ≠ [] → ps.length ≤ 16 → (∀ x ∈ ps, x.denied = false ∧ x.nm = true) →
      m.engReadRange p e.x e.top = .ok u v → ∃ c, exec (.ceCopy p) s = .next ({ u with folds := u.folds ++ [c] }.modCore p fun x =>
          x.modQ 2 fun y => { y with cmds := y.cmds.map fun (z : Cmd) => if z.num = k.num then { z with sent := true } else z }) ∧
        c.base = e.dst ∧ c.len = e.top ∧ c.j = e.j ∧ c.ffmt = e.ffmt ∧ c.sender = p ∧ c.cmd = k.num ∧ some c.chan = ps.head?.map FoldPage.chan ∧
        ∀ i l, c.data[i]? = some l → l = BitVec.ofNat 512 (v / 256 ^ (64 * i)))

/-- R369 to R377, R380 to R382, R386 to R388, R391: a table command pins its table, takes the descriptor's hot-row map, goes through its indices in
order (GATHER copies the row or the default row, BAG sums the rows of each bag with one rounding an addition, SCATADD adds at the row's home) and
releases the pin; a join command reads its inputs, writes its outputs and last the header of a kpart; JTCHK checks the type word and then its
leaves. A read of a moved line stops a command (R372). Each completes with the value that its rule lays out. Single-bit errors under what is read of a
scratchpad are counted (R443). The runs of rising keys are what the keys are made of, and of inputs in order every
entry, record or row that a join command writes is spelt out: KDIR's key, first row, count and HOT bit; KGRP's count and lane sums, in stripes of 64
rows for a hot run; KPROD's and KUNION's counts, capped, and lanes, summed exactly and rounded once; KEXP's tuples in order; KBCAST's lanes, or
zeros and the missing mark. Exact sums and products are exact, and one rounding is the correct one. That a table command takes the hot-row map whole
at its start is the model's choice (log entry 60, DEDUCED), and so is that a join reads its inputs to their end before its first output (log entry
85, DEDUCED). -/
def Obligations.GanderCommands : Prop :=
  ∀ (s : State) (p : Nat) (k : Cmd),
    let t := gkTableOf k.word.toNat
    let b := gkBlockOf k.block.toNat
    (∀ s1 T v d s2 m, s.pinTable p t.h = .ok s1 (T, v) → gkDesc v = some d → s1.hotMap p d = .ok s2 m → d.rbytes ≤ t.dstr →
      let at_ (i : Nat) := t.il + t.isize * i
      let default (x : Nat) : Prop := x = 2 ^ (8 * t.isize) - 1 ∨ d.rows ≤ x
      let home (x : Nat) : Nat := match m.find? fun e => e.1 == x with
        | some e => if e.2 ≠ 0 then e.2 else d.base + d.rbytes * x
        | none => d.base + d.rbytes * x
      let row (s : State) (i : Nat) (u : State) (v n : Nat) : Prop := ∃ z x, s.spadHolds p (at_ i) t.isize z x ∧
        ((default x ∧ n = 1 ∧ z.lgRead p d.defrow d.rbytes = .ok u v) ∨ (¬default x ∧ n = 0 ∧ z.lgRead p (home x) d.rbytes = .ok u v))
      (s.headCmd p 3 4 0 = some k → ∀ u w,
        chain (fun (x : State × Nat) i (y : State × Nat) => ∃ a v n, row x.1 i a v n ∧ a.spadFree p (t.d + t.dstr * i) d.rbytes ∧
          y = (a.spadWritten p (t.d + t.dstr * i) d.rbytes v, x.2 + n)) (List.range t.n) (s2, 0) u → (∃ l, u.1.pinAdd p T false = .ok w l) →
        exec (.gkGather p) s = .next (w.posted p 3 k (t.n % 2 ^ 16 + u.2 % 2 ^ 16 * 2 ^ 16 + d.version % 256 * 2 ^ 32) 0)) ∧
      (s.headCmd p 3 4 1 = some k → ∀ u w s3 (off : Nat → Nat), (∀ i, off i = (s2.getCore p).spad.readLE (t.bl + 4 * i) 4) →
        s2.spadHolds p t.bl (4 * (t.nb + 1)) s3 ((s2.getCore p).spad.readLE t.bl (4 * (t.nb + 1))) → off 0 = 0 → off t.nb = t.n →
        (∀ i, i < t.nb → off i ≤ off (i + 1)) →
        chain (fun (x : State × Nat × Flg) i (y : State × Nat × Flg) => ∃ a : State × Option Nat × Nat × Flg,
          chain (fun (x : State × Option Nat × Nat × Flg) j (y : State × Option Nat × Nat × Flg) => ∃ a v n, row x.1 j a v n ∧
            y = (a, match x.2.1 with
              | none => (some v, x.2.2.1 + n, x.2.2.2)
              | some sum => (some (rowAdd d.rfmt d.rbytes sum v).1, x.2.2.1 + n, x.2.2.2 ||| (rowAdd d.rfmt d.rbytes sum v).2)))
            (List.range' (off i) (off (i + 1) - off i)) (x.1, none, 0, 0) a ∧
          a.1.spadFree p (t.d + t.dstr * i) d.rbytes ∧
          y = (a.1.spadWritten p (t.d + t.dstr * i) d.rbytes (a.2.1.getD 0), x.2.1 + a.2.2.1, x.2.2 ||| a.2.2.2))
          (List.range t.nb) (s3, 0, 0) u → (∃ l, u.1.pinAdd p T false = .ok w l) →
        exec (.gkBag p) s = .next (w.posted p 3 k (t.nb % 2 ^ 16 + u.2.1 % 2 ^ 16 * 2 ^ 16 + u.2.2.toNat * 2 ^ 32) 0)) ∧
      (s.headCmd p 3 4 2 = some k → ∀ u w,
        chain (fun (x : State × Nat × Nat × Flg) i (y : State × Nat × Nat × Flg) => ∃ z0 e, x.1.spadHolds p (at_ i) t.isize z0 e ∧
          ((default e ∧ y = (z0, x.2.1, x.2.2.1 + 1, x.2.2.2)) ∨
            (¬default e ∧ ∃ z1 src, z0.spadHolds p (t.d + t.dstr * i) d.rbytes z1 src ∧ ∃ a : State × Flg,
              chain (fun (z : State × Flg) (r : Nat × Nat) (z' : State × Flg) => ∃ g,
                z.1.scatLine p d.rfmt r.1 r.2 (src / 256 ^ (r.1 - home e) % 256 ^ r.2) = .ok z'.1 g ∧ z'.2 = z.2 ||| g)
                (pieces (home e) d.rbytes) (z1, x.2.2.2) a ∧
              y = (a.1, x.2.1 + 1, x.2.2.1, a.2)))) (List.range t.n) (s2, 0, 0, 0) u → (∃ l, u.1.pinAdd p T false = .ok w l) →
        exec (.gkScatadd p) s = .next (w.posted p 3 k (u.2.1 % 2 ^ 16 + u.2.2.1 % 2 ^ 16 * 2 ^ 16 + u.2.2.2.toNat * 2 ^ 32) 0))) ∧
    (∀ e ∈ [(3, Instr.gkKdir p), (4, .gkKgrp p), (5, .gkKprod p), (6, .gkKunion p), (7, .gkKexp p), (8, .gkKbcast p)],
      s.headCmd p 3 4 e.1 = some k → ∀ (h : State × List GkInput) (r : State × List GkData) (w u : State) (items : List GkItem),
      chain (fun (x : State × List GkInput) (a : Nat × Nat) (y : State × List GkInput) => ∃ i,
        x.1.gkHeader p b a.1 (joinInput e.1 a.2).1 (joinInput e.1 a.2).2 = .ok y.1 i ∧ y.2 = x.2 ++ [i]) (b.ins.take b.nc).zipIdx (s, []) h →
      (∀ x ∈ h.2.flatMap GkInput.ranges, x.1 < 2 ^ 32 → (s.getCore p).ttStall false x.1 x.2 = false) →
      spansMeet [b.out e.1] (h.2.flatMap GkInput.ranges) = false →
      (e.1 = 8 → ∀ i y, h.2.head? = some i → i.rel = some y → y.rows ≤ b.dcap) →
      chain (fun (x : State × List GkData) (a : GkInput × Nat) (y : State × List GkData) => ∃ d,
        x.1.gkData p b a.1 (joinInput e.1 a.2).2 = .ok y.1 d ∧ y.2 = x.2 ++ [d]) h.2.zipIdx (h.1, []) r →
      joinItems e.1 b r.2 = (items, 0) →
      chain (fun (s : State) (i : GkItem) u => s.gkPut p (b.d + i.off) i.n i.v = .ok u ()) items r.1 w →
      (if e.1 = 4 ∨ e.1 = 5 ∨ e.1 = 6 then w.gkPut p b.d 32 (items.length + b.lanes * 2 ^ 64 + b.lfmt * 2 ^ 72) = .ok u () else u = w) →
      exec e.2 s = .next (u.posted p 3 k (items.length + (items.foldl (fun f i => f ||| i.flags) (0 : Flg)).toNat * 2 ^ 32 +
        (if items.any GkItem.sat then 2 ^ 37 else 0) + if items.any GkItem.miss then 2 ^ 38 else 0) 0)) ∧
    (∀ ks : List Nat, ks.Pairwise (· ≤ ·) → ∃ rs, runsOf ks = (rs, none) ∧ (rs.flatMap fun r => List.replicate r.2.2 r.1) = ks ∧
      rs.Pairwise (fun x y => x.1 < y.1) ∧ ∀ i r, rs[i]? = some r → r.2.1 = ((rs.take i).map fun x => x.2.2).sum ∧ 0 < r.2.2) ∧
    (s.headCmd p 3 4 9 = some k →
      let word := k.field 127 64
      let n := word % 16
      let leaves := k.field 159 128
      (∀ j, treeFault word = some j → exec (.gkJtchk p) s = .next (s.posted p 3 k j 0x0A)) ∧
      (treeFault word = none → ∀ met, s.spadHolds p leaves 64 met ((s.getCore p).spad.readLE leaves 64) →
        let leaf (i : Nat) : Nat := (s.getCore p).spad.readLE (leaves + 8 * i) 8
        let good (s : State) (i : Nat) (u : State) : Prop := leaf i < 2 ^ 57 ∧ ∃ v, s.lgRead p (leaf i) 32 = .ok u v ∧ (gkRel (leaf i) v).isSome = true
        (∀ u, chain good (List.range n) met u → exec (.gkJtchk p) s = .next (u.posted p 3 k n 0)) ∧
        ∀ i u, i < n → chain good (List.range i) met u →
          (2 ^ 57 ≤ leaf i → exec (.gkJtchk p) s = .next (u.posted p 3 k i 0x0B)) ∧
          ∀ m v, leaf i < 2 ^ 57 → u.lgRead p (leaf i) 32 = .ok m v → gkRel (leaf i) v = none → exec (.gkJtchk p) s = .next (m.posted p 3 k i 0x0B))) ∧
    (∀ ds : List GkData, ds ≠ [] → (∀ x ∈ ds, x.bound = none ∧ x.brk = none ∧ x.ents.Pairwise (fun x y => x.1 < y.1) ∧ x.runs.Pairwise fun x y => x.1 < y.1) →
      let d := ds.headD ⟨[], [], [], [], none, none, 0⟩
      let lanes (f : Nat → Nat) : Nat := ((List.range b.lanes).map fun c => f c * 2 ^ (32 * c)).sum
      let size := (16 + 4 * b.lanes + 7) / 8 * 8
      let entry (i key : Nat) (count : Int) (lane : Nat → Nat × Flg) : GkItem := ⟨32 + size * i, size,
        key + (max (-2 ^ 63) (min (2 ^ 63 - 1) count) % 2 ^ 64).toNat * 2 ^ 64 + lanes (fun c => (lane c).1) * 2 ^ 128, (List.range b.lanes).foldl (fun f c => f ||| (lane c).2) 0,
        decide (count < -2 ^ 63 ∨ 2 ^ 63 ≤ count), false⟩
      let hot (n : Nat) : Bool := decide (b.hotlim ≠ 0 ∧ b.hotlim ≤ n)
      let sum (xs : List Nat) : Nat × Flg := match xs with
        | [] => (0, 0)
        | x :: xs => xs.foldl (fun a y => let r := addCode (fmtKind b.lfmt) .rne 0 a.1 y; (r.1, a.2 ||| r.2)) (x, 0)
      let get (x : GkData) (key : Nat) : Option (Int × List Nat) := (x.ents.find? fun e => e.1 == key).map fun e => e.2
      let exact (xs : List (Exact × Flg)) : Exact × Flg := let r := exactSum (xs.map fun x => x.1); (r.1, xs.foldl (fun f x => f ||| x.2) r.2)
      let once (x : Exact × Flg) : Nat × Flg := let r := x.1.round b.lfmt; (r.1, x.2 ||| r.2)
      let lane (e : Int × List Nat) (c : Nat) : Exact × Flg := exactOf b.lfmt (e.2.getD c 0)
      (d.runs.length ≤ b.dcap → joinItems 3 b ds = (d.runs.zipIdx.map fun r =>
        ⟨32 * r.2, 32, r.1.1 + r.1.2.1 * 2 ^ 64 + r.1.2.2 * 2 ^ 128 + (if hot r.1.2.2 then 2 ^ 192 else 0), 0, false, false⟩, 0)) ∧
      (d.runs.length ≤ b.dcap → (∀ v ∈ d.vals, v.length = b.lanes) → (∀ r ∈ d.runs, 0 < r.2.2 ∧ r.2.2 < 2 ^ 63 ∧ r.2.1 + r.2.2 ≤ d.vals.length) →
        joinItems 4 b ds = (d.runs.zipIdx.map fun r =>
          let rows := (d.vals.drop r.1.2.1).take r.1.2.2
          let column (c : Nat) (rows : List (List Nat)) : List Nat := rows.map fun v => v.getD c 0
          let stripes := (List.range ((rows.length + 63) / 64)).map fun j => (rows.drop (64 * j)).take 64
          entry r.2 r.1.1 r.1.2.2 fun c =>
            if hot r.1.2.2 then
              let parts := stripes.map fun v => sum (column c v)
              let whole := sum (parts.map fun x => x.1)
              (whole.1, parts.foldl (fun f x => f ||| x.2) whole.2)
            else sum (column c rows), 0)) ∧
      (∃ ks : List Nat, ks.Pairwise (· < ·) ∧ (∀ key, key ∈ ks ↔ ∀ x ∈ ds, (get x key).isSome = true) ∧
        let each (key : Nat) : List (Int × List Nat) := ds.map fun x => (get x key).getD (0, [])
        let count (key : Nat) : Int := ((each key).map fun e => e.1).prod
        let value (key c : Nat) : Exact × Flg := exact ((each key).zipIdx.map fun e =>
          let x := lane e.1 c
          let r := x.1.times (((each key).eraseIdx e.2).map fun y => y.1).prod
          (r.1, x.2 ||| r.2))
        (b.collapse = false → ks.length ≤ b.dcap → joinItems 5 b ds = (ks.zipIdx.map fun k =>
          entry k.2 k.1 (count k.1) fun c => once (value k.1 c), 0)) ∧
        (b.collapse = true → 1 ≤ b.dcap → joinItems 5 b ds =
          ([entry 0 0 (ks.map count).sum fun c => once (exact (ks.map fun k => value k c))], 0))) ∧
      (∃ ks : List Nat, ks.Pairwise (· < ·) ∧
        let each (key : Nat) : List (Int × List Nat) := ds.filterMap fun x => get x key
        let count (key : Nat) : Int := ((each key).map fun e => e.1).sum
        let value (key c : Nat) : Exact × Flg := exact ((each key).map fun e => lane e c)
        (∀ key, key ∈ ks ↔ each key ≠ [] ∧ ¬(count key = 0 ∧ ∀ c, c < b.lanes → (value key c).1 = .zero true ∨ (value key c).1 = .zero false)) ∧
        (ks.length ≤ b.dcap → joinItems 6 b ds = (ks.zipIdx.map fun k =>
          entry k.2 k.1 (count k.1) fun c => once (value k.1 c), 0))) ∧
      (∃ ts : List (Nat × List Nat), ts.Pairwise (fun x y => x.1 < y.1 ∨ x.1 = y.1 ∧ x.2 < y.2) ∧
        (∀ t, t ∈ ts ↔ t.2.length = ds.length ∧ ∀ (i : Nat) (x : GkData) (row : Nat), ds[i]? = some x → t.2[i]? = some row →
          ∃ r ∈ x.runs, r.1 = t.1 ∧ r.2.1 ≤ row ∧ row < r.2.1 + r.2.2) ∧
        (ts.length ≤ b.dcap → joinItems 7 b ds = (ts.zipIdx.map fun t =>
          let size := (8 + 4 * b.nc + 4 * b.lanes + 7) / 8 * 8
          let value (c : Nat) : Nat × Flg := once (exact ((ds.zip t.1.2).map fun x => exactOf b.lfmt ((x.1.vals.getD x.2 []).getD c 0)))
          ⟨size * t.2, size, t.1.1 + (t.1.2.zipIdx.map fun r => r.1 * 2 ^ (32 * r.2)).sum * 2 ^ 64 + lanes (fun c => (value c).1) * 2 ^ (64 + 32 * ds.length),
            (List.range b.lanes).foldl (fun f c => f ||| (value c).2) 0, false, false⟩, 0))) ∧
      (∀ y, ds = [d, y] → (∀ e ∈ y.ents, e.2.2.length = b.lanes) → joinItems 8 b ds = (d.keys.zipIdx.map fun k =>
        ⟨4 * b.lanes * k.2, 4 * b.lanes, lanes (fun c => ((get y k.1).map fun e => e.2.getD c 0).getD 0), 0, false, (get y k.1).isNone⟩, 0))) ∧
    ∀ (m : Int),
      let num (x : Exact) : Option Int := match x with
        | .fin v e => if m ≤ e then some (v * 2 ^ (e - m).toNat) else none
        | .zero _ => some 0
        | _ => none
      (∀ xs : List Exact, (∀ x ∈ xs, (num x).isSome = true) → num (exactSum xs).1 = some ((xs.map fun x => (num x).getD 0).sum) ∧ (exactSum xs).2 = 0) ∧
      (∀ x n v, num x = some v → num (x.times n).1 = some (v * n) ∧ (x.times n).2 = 0) ∧
      ∀ x v, num x = some v → v ≠ 0 →
        (ieee32.roundedTo .rne 0 (decide (v < 0)) (fun i => compare (2 ^ 32 * v * 2 ^ (m + 149).toNat) (i * 2 ^ (-(m + 149)).toNat)) (x.round 0).1) ∧
        tap32.roundedTo .rne 0 (decide (v < 0)) (fun i => compare (2 ^ 32 * v.natAbs * 2 ^ (m + 256).toNat) (i * 2 ^ (-(m + 256)).toNat)) (x.round 3).1

/-- R93 to R96, R413 to R416: FOLDARM arms a window whose pages pass its checks, or completes with 0x01 to 0x03 where they do not; a contribution
that is every line's next is added to the window's lines with one rounding and completes its sender, the last one completes the window and its counter
grows; a later one is staged; a repeated one is refused with 0x07, one of another format counts as empty with 0x08; one without a window is parked while
the park has room; FOLDWAIT waits for a complete window, disarms it and reports its flags. The order 0x01, 0x02, 0x03 of FOLDARM's checks is the
model's choice (log entry 27, DEDUCED; R413 and R415 only list them), and so is that its pages are translated for Rd and Wr at their first VA (log
entry 73, DEDUCED). -/
def Obligations.FoldWindows : Prop :=
  ∀ (s : State) (p n : Nat) (k : Cmd),
    (s.headCmd p 4 5 0 = some k →
      let a := clArmOf k.word.toNat
      ∀ s1 wp wf s2 sp sf, s.nmPages (64 * a.len / 0x10000 + 2) a.base (a.base + 64 * a.len) = .ok (s1, wp, wf) →
        s1.nmPages (a.stgBytes / 0x10000 + 2) a.stg (a.stg + a.stgBytes) = .ok (s2, sp, sf) →
        (∀ page chan, wf ≠ [(true, chan, page)] ∨ (∃ x ∈ sf, x.1 = false ∨ x.2.1 ≠ chan)) → exec (.clFoldarm p) s = .next (s2.posted p 4 k 0 0x01)) ∧
    (s.headCmd p 4 5 0 = some k →
      let a := clArmOf k.word.toNat
      ∀ s1 wp page chan s2 sp sf, s.nmPages (64 * a.len / 0x10000 + 2) a.base (a.base + 64 * a.len) = .ok (s1, wp, [(true, chan, page)]) →
        s1.nmPages (a.stgBytes / 0x10000 + 2) a.stg (a.stg + a.stgBytes) = .ok (s2, sp, sf) → (∀ x ∈ sf, x.1 = true ∧ x.2.1 = chan) →
        let ws := (s2.mule chan).windows
        (16 ≤ ws.length → exec (.clFoldarm p) s = .next (s2.posted p 4 k 0 0x02)) ∧
        (ws.length < 16 → (∃ x ∈ ws, x.base < a.base + 64 * a.len ∧ a.base < x.base + 64 * x.len) → exec (.clFoldarm p) s = .next (s2.posted p 4 k 0 0x03)) ∧
        (ws.length < 16 → (∀ x ∈ ws, 0 < x.len ∧ (x.base + 64 * x.len ≤ a.base ∨ a.base + 64 * a.len ≤ x.base)) →
          (∀ x ∈ (s2.mule chan).parked, x.base ≠ a.base ∨ x.len ≠ 64 * a.len) → s2.codes = [] → 0 < a.len →
          ∃ (w : Window) (u : State), exec (.clFoldarm p) s = .next (u.posted p 4 k 0 0) ∧ u = s2.putMule { s2.mule chan with windows := ws ++ [w] } ∧
            w.base = a.base ∧ w.len = a.len ∧ w.e = a.e ∧ w.ffmt = a.ffmt ∧ w.stg = a.stg ∧ w.pages = wp ++ sp ∧ w.next = List.replicate a.len 0 ∧
            w.staged = [] ∧ w.lost = [] ∧ w.seen = [] ∧ w.empty = [] ∧ w.flags = 0 ∧ w.err = false ∧ w.complete = false ∧
            w.wctr = (if a.wce then some ((s2.select p).owner, a.wctr) else none))) ∧
    (∀ c, s.folds[n]? = some c → (c.far = true → ∀ d ∈ s.folds.take n, d.far = true → d.port ≠ c.port) →
      let m := s.mule c.chan
      ∀ x, c.far = true ∨ ((s.getCore c.sender).queue 2).cmds.find? (fun y => y.sent && y.num == c.cmd) = some x ∧ x.cls = 3 →
      let ended (u : State) (value status : Nat) : State := match remoteNode c.sender with
        | some g => u.out (.remoteReply g (BitVec.ofNat 64 status))
        | none => u.modCore c.sender fun y => { y.posted 2 x value status with pick := y.pick }
      let after (d : Memory) (ms : List Mule) : State := { s with folds := s.folds.eraseIdx n, dram := d, mules := ms }
      let window (ms : List Mule) (w : Window) : Option Window := (({ s with mules := ms }).mule c.chan).windows.find? fun y => y.base == w.base
      let grown (w : Window) (u : State) : State := match w.wctr with
        | some (o, i) => match s.away o with
          | some (slot, j) => u.modImage slot j fun y => { y with incs := y.incs ++ [i] }
          | none => u.modCore (s.ownerCore o) fun y => if y.acked then { y with lateIncs := y.lateIncs ++ [i] } else y.bump i 1
        | none => u
      (∀ w, m.matching c = some w → c.j < w.e → c.j ∉ w.seen → w.ffmt = c.ffmt → w.complete = false → c.data.length = w.len → w.next.length = w.len → 0 < w.len →
        s.dramBad = [] → s.dramSoft = [] → (∀ l, l < w.len → s.raw (w.line l) = true) → (∀ i l, i < w.len → l < w.len → i ≠ l → w.line i + 64 ≤ w.line l ∨ w.line l + 64 ≤ w.line i) →
        (w.next = List.replicate w.len c.j → w.staged = [] → w.empty = [] →
          ∃ (d : Memory) (ms : List Mule) (v : Window),
            exec (.foldArrive n) s = .next (ended (if c.j + 1 = w.e then grown w (after d ms) else after d ms) c.len 0) ∧
            window ms w = some v ∧ v.next = List.replicate w.len (c.j + 1) ∧
            v.complete = decide (c.j + 1 = w.e) ∧ v.err = w.err ∧ v.seen = c.j :: w.seen ∧
            (∀ l y, c.data[l]? = some y → d.line (w.line l) = (lineAdd (addKind c.ffmt.toNat) (s.dram.line (w.line l)) y).1) ∧
            ∀ y, (∀ l, l < w.len → y < w.line l ∨ w.line l + 64 ≤ y) → d.read y = s.dram.read y) ∧
        ((∀ g ∈ w.next, g < c.j) → (∀ l, l < w.len → s.raw (w.slot l c.j) = true) →
          (∀ i l, i < w.len → l < w.len → i ≠ l → w.slot i c.j + 64 ≤ w.slot l c.j ∨ w.slot l c.j + 64 ≤ w.slot i c.j) →
          ∃ (d : Memory) (ms : List Mule) (v : Window), exec (.foldArrive n) s = .next (ended (after d ms) c.len 0) ∧
            window ms w = some v ∧ v.next = w.next ∧ v.complete = false ∧
            (∀ l, l < w.len → (l, c.j) ∈ v.staged) ∧ (∀ l y, c.data[l]? = some y → d.line (w.slot l c.j) = y) ∧
            ∀ y, (∀ l, l < w.len → y < w.slot l c.j ∨ w.slot l c.j + 64 ≤ y) → d.read y = s.dram.read y)) ∧
      (∀ w, m.matching c = some w → c.j < w.e → c.j ∉ w.seen → w.ffmt ≠ c.ffmt → w.complete = false → w.next.length = w.len → w.staged = [] → w.empty = [] →
        0 < w.len → ∃ (ms : List Mule) (v : Window),
          exec (.foldArrive n) s = .next (ended (if v.complete then grown w (after s.dram ms) else after s.dram ms) 0 0x08) ∧
          window ms w = some v ∧ v.err = true ∧ v.seen = c.j :: w.seen ∧ v.empty = [c.j] ∧
          v.next = w.next.map (fun g => if g = c.j then c.j + 1 else g) ∧ (v.complete = true ↔ ∀ g ∈ v.next, g = w.e)) ∧
      (∀ w, m.matching c = some w → w.e ≤ c.j ∨ c.j ∈ w.seen → ∃ ms : List Mule, exec (.foldArrive n) s = .next (ended (after s.dram ms) 0 0x07) ∧
        window ms w = some w) ∧
      (m.matching c = none → (m.parked.map fun y => y.len).sum + c.len ≤ 65536 → ∃ ms : List Mule, exec (.foldArrive n) s = .next (ended (after s.dram ms) c.len 0) ∧
        (({ s with mules := ms }).mule c.chan) = { m with parked := m.parked ++ [c] }) ∧
      (m.matching c = none → 65536 < (m.parked.map fun y => y.len).sum + c.len → exec (.foldArrive n) s = .next s)) ∧
    (s.headCmd p 4 5 1 = some k →
      let base := k.field 127 64
      (s.findWindow base = none → exec (.clFoldwait p) s = .next (s.posted p 4 k 0 0x04)) ∧
      ∀ chan w, s.findWindow base = some (chan, w) →
        (w.complete = false → exec (.clFoldwait p) s = .next s) ∧
        (w.complete = true → exec (.clFoldwait p) s = .next ((s.putMule { s.mule chan with
          windows := (s.mule chan).windows.filter fun x => x.base != base }).posted p 4 k (w.flags.toNat + if w.err then 32 else 0) 0)))

/-- R82 to R92, R309 to R311: a request reaches the Mule of its page after the checks of its page, or is refused or faults there; CONFIGURE sets the
kernel; an elementwise request computes every element of its destination, an aggregate one record for each run of keys; a query answers the
state; RESUME goes on at the stopped line with the reply in NMRES's register, ABANDON ends the stopped request with 0x20. A request that faults parks, and its
upcall comes at a later boundary. VALUE 0 in the replies to CONFIGURE and to a refused request is the model's choice (log entry 72, DESIGN CHOICE); so are MPC,
BANK and COL 0 in the answer to a query while no request runs or is stopped (log entry 88, DESIGN CHOICE), that an NMRES asks its page for a read (log entry 90,
DESIGN CHOICE), that a request waits under way while its park is full (log entry 92, DEDUCED); so are status 0x03 of an NMRES or NMSTAT out of range and
the place of a stop's BANK and COL (log entry 57, DEDUCED), and what becomes of a request that faults (log entry 33, DEDUCED). -/
def Obligations.MuleRequests : Prop :=
  ∀ (s : State) (c : Nat),
    let m := s.mule c
    let sent (u : State) (o : Owner) (r : Reg) (v : Nat) : State :=
      if r = 0 then u else { u with replies := u.replies ++ [⟨o, r, BitVec.ofNat 64 v, true⟩] }
    (∀ n r va reg (o : Owner) sys held port, s.nmFlight[n]? = some ⟨⟨.nmc r, va, reg⟩, o, sys, held, port⟩ → o.pcn < 2048 →
      let t := { s with nmFlight := s.nmFlight.eraseIdx n }
      let waits (full : Bool) : State := { s with nmFlight := s.nmFlight.set n ⟨⟨.nmc r, va, reg⟩, o, sys, full, port⟩ }
      (va.toNat < 2 ^ 32 ∨ 2 ^ 57 ≤ va.toNat → exec (.nmcRequestCheck n) s = .next (sent t o reg 0x03)) ∧
      (2 ^ 32 ≤ va.toNat → va.toNat < 2 ^ 57 → s.isOwn va.toNat = true →
        (∀ (u : State) leaf (big : Bool) pa, t.translate (homeOf (lineOf va.toNat)) va.toNat r.req = .ok (u, leaf, big, pa) →
          let chan := dramFlat (leafPa leaf) / 4096 / 365440
          let size := if big then 0x200000 else 0x10000
          let put (x : Mule) : State := u.putMule x
          let y : Mule := u.mule chan
          (leafNm leaf = false → exec (.nmcRequestCheck n) s = .next (sent u o reg 0x01)) ∧
          (leafNm leaf = true → leafComp leaf = true → exec (.nmcRequestCheck n) s = .next (sent u o reg 0x02)) ∧
          (leafNm leaf = true → leafComp leaf = false → match r with
            | .resume => exec (.nmcRequestCheck n) s = .next (put { y with controls := y.controls ++ [⟨false, o, reg, va.toNat / size * size, size⟩] })
            | .abandon => exec (.nmcRequestCheck n) s = .next (put { y with controls := y.controls ++ [⟨true, o, reg, va.toNat / size * size, size⟩] })
            | .request w0 w1 w2 w3 =>
              let j : NmJob := ⟨w0, w1, w2, w3, o, reg, va.toNat / size * size, size, dramFlat (leafPa leaf)⟩
              if w0.toNat % 16 = 3 then exec (.nmcRequestCheck n) s = .next (put { y with queries := y.queries ++ [j] })
              else if y.depth < 32 then exec (.nmcRequestCheck n) s = .next (put { y with queue := y.queue ++ [j] })
              else exec (.nmcRequestCheck n) s = .next (waits false))) ∧
        ∀ f, t.translate (homeOf (lineOf va.toNat)) va.toNat r.req = .error f →
          let late (u : State) : State := u.modCore (t.ownerCore o) fun k => { k with late := k.late ++ [((⟨.nmc r, va, reg⟩ : Access), f, sys, o.ws)] }
          let noted := t.noteAt (homeOf (lineOf va.toNat)) va.toNat f
          exec (.nmcRequestCheck n) s = .next (if sys then late noted
            else if s.parkCount (homeOf (lineOf va.toNat)) < 64 then
              late { noted with parks := t.parks ++ [(⟨homeOf (lineOf va.toNat), ⟨.nmc r, va, reg⟩, o, f, 0⟩ : Parked)] }
            else waits true))) ∧
    (∀ j rest, m.stopped = none → m.queue = j :: rest → j.owner.pcn < 2048 →
      let left := { m with queue := rest, mpc := none }
      (j.w0.toNat % 16 = 0 →
        let w := j.w1.toNat
        (w / 2 ^ 11 % 2 ^ 21 = 0 ∧ w / 16 % 16 ≤ 10 ∧ w / 16 % 16 ≠ 6 ∧ w % 16 ≤ 9 →
          exec (.nmConfigure c) s = .next (sent (s.putMule { left with kernel := some j.w1 }) j.owner j.reg 0)) ∧
        (¬(w / 2 ^ 11 % 2 ^ 21 = 0 ∧ w / 16 % 16 ≤ 10 ∧ w / 16 % 16 ≠ 6 ∧ w % 16 ≤ 9) →
          exec (.nmConfigure c) s = .next (sent (s.putMule left) j.owner j.reg 0x04))) ∧
      (∀ e ∈ [(1, Instr.nmElementwise c), (2, .nmAggregate c)], j.w0.toNat % 16 = e.1 → ∀ st, j.refusal m.kernel = st → st ≠ 0 →
        exec e.2 s = .next (sent (s.putMule left) j.owner j.reg st)) ∧
      ∀ k, m.kernel = some k → j.refusal (some k) = 0 → s.codes = [] → s.dramBad = [] → s.dramSoft = [] →
        let n := j.w0.toNat / 2 ^ 32
        let size := fmtBytes (k.toNat / 16 % 16)
        let at_ (w : Word) (i : Nat) : Nat := j.pageDram + (w.toNat - j.pageVa) + i
        (j.w0.toNat % 16 = 1 →
          let out (i : Nat) : Nat × Flg := kernelOne k (s.dram.readLE (at_ j.w2 (size * i)) size) (s.dram.readLE (at_ j.w3 (size * i)) size)
          ∃ d : Memory, exec (.nmElementwise c) s = .next (sent { s.putMule left with dram := d } j.owner j.reg
              (n * 2 ^ 16 + ((List.range n).foldl (fun f i => f ||| (out i).2) (0 : Flg)).toNat * 2 ^ 8)) ∧
            (∀ i, i < n → d.readLE (at_ j.w1 (size * i)) size = (out i).1 % 2 ^ (8 * size)) ∧
            ∀ y, y < at_ j.w1 0 ∨ at_ j.w1 (size * n) ≤ y → d.read y = s.dram.read y) ∧
        (j.w0.toNat % 16 = 2 →
          let recs := (List.range n).map fun i => (s.dram.dword (at_ j.w2 (16 * i)), BitVec.ofNat 64 (s.dram.readLE (at_ j.w2 (16 * i + 8)) size))
          recs.Pairwise (fun x y => x.1.toNat ≤ y.1.toNat) →
          ∃ (gs : List (List (Word × Word))) (fl : Flg) (d : Memory), gs.flatten = recs ∧ (∀ g ∈ gs, g ≠ [] ∧ ∀ x ∈ g, ∀ y ∈ g, x.1 = y.1) ∧
            gs.Pairwise (fun g h => ∀ x ∈ g, ∀ y ∈ h, x.1 ≠ y.1) ∧
            exec (.nmAggregate c) s = .next (sent { s.putMule left with dram := d } j.owner j.reg (gs.length * 2 ^ 16 + fl.toNat * 2 ^ 8)) ∧
            (∀ i x g, gs[i]? = some (x :: g) → d.dword (at_ j.w1 (16 * i)) = x.1 ∧ d.dword (at_ j.w1 (16 * i + 8)) =
              g.foldl (fun v r => BitVec.ofNat 64 (kernelOne k v.toNat r.2.toNat).1) x.2) ∧
            ∀ y, y < at_ j.w1 0 ∨ at_ j.w1 (16 * gs.length) ≤ y → d.read y = s.dram.read y)) ∧
    (∀ j rest, m.queries = j :: rest → j.owner.pcn < 2048 → m.stopped = none → exec (.nmQuery c) s = .next (sent (s.putMule { m with queries := rest })
      j.owner j.reg (m.windows.length * 2 ^ 22 + match m.mpc with
        | some u => (m.queue.length - 1) * 2 ^ 16 + u % 2 ^ 16 * 2 ^ 48 + 2 ^ 28
        | none => m.queue.length * 2 ^ 16 + if m.kernel = none then 0 else 2 ^ 27))) ∧
    (∀ j rest st, m.queries = j :: rest → j.owner.pcn < 2048 → m.stopped = some st → m.mpc = none → exec (.nmQuery c) s =
      .next (sent (s.putMule { m with queries := rest }) j.owner j.reg (m.windows.length * 2 ^ 22 + m.queue.length * 2 ^ 16 + st.upc % 2 ^ 16 * 2 ^ 48 +
        st.bank.toNat * 2 ^ 43 + st.col.toNat * 2 ^ 37 + st.cause.toNat * 2 ^ 29 + 3 * 2 ^ 27))) ∧
    ∀ (x : NmControl) rest, m.controls = x :: rest → x.owner.pcn < 2048 →
      let o := x.owner
      let r := x.reg
      let left := { m with controls := rest, mpc := none }
      (m.stopped = none → exec (if x.abandon then .nmAbandon c else .nmResume c) s = .next (sent (s.putMule { m with controls := rest }) o r 0x04)) ∧
      ∀ st, m.stopped = some st →
        (x.abandon = true → exec (.nmAbandon c) s = .next (sent (s.putMule { left with stopped := none }) o r
          (st.upc % 2 ^ 48 * 2 ^ 16 + st.flags.toNat * 2 ^ 8 + 0x20))) ∧
        (x.abandon = false → ∀ k, m.kernel = some k → st.job.w0.toNat % 16 = 1 → st.job.refusal (some k) = 0 → s.codes = [] → s.dramBad = [] → s.dramSoft = [] →
          let j := st.job
          let n := j.w0.toNat / 2 ^ 32
          let size := fmtBytes (k.toNat / 16 % 16)
          let at_ (w : Word) (i : Nat) : Nat := j.pageDram + (w.toNat - j.pageVa) + i
          let line (i : Nat) : Nat := (j.w1.toNat + size * i) / 64 - j.w1.toNat / 64
          ∃ (d : Memory) (fl : Flg), exec (.nmResume c) s = .next (sent { s.putMule { left with stopped := none } with dram := d } o r (n * 2 ^ 16 + fl.toNat * 2 ^ 8)) ∧
            ∀ i, i < n → d.readLE (at_ j.w1 (size * i)) size = if st.upc ≤ line i
              then (kernelOne k (s.dram.readLE (at_ j.w2 (size * i)) size) (s.dram.readLE (at_ j.w3 (size * i)) size)).1 % 2 ^ (8 * size)
              else s.dram.readLE (at_ j.w1 (size * i)) size)

/-- R132, R133, R135, R59, R76, R78, R148: a submitted chunk that the root may grant gets one number and commits: every other core gets its notice, the
lines of its own node are dirty at their homes with its bytes, those of replicated pages join the sequencer, those of host memory and other nodes
leave; its scratchpad stores reach the scratchpad, its lines of the own node become Clean in its L1 and those of host memory and other nodes Invalid, CMT and RET grow. A replica home applies the next number of the
sequencer and sends a notice to the cores of its die, which act on it when it arrives. A closing chunk with no write commits locally. When an update
leaves the sequencer's queue of 512 is the model's choice (log entry 77, DESIGN CHOICE); so are the bytes under the stored ones of a line that
becomes Clean (log entry 65, DEDUCED), that a write which meets a line marked for retranslation is the access that translates it (log entry 87, DEDUCED) and
whom a reservation binds (log entry 23, DEDUCED). -/
def Obligations.ChunkCommits : Prop :=
  ∀ (s : State) (p : Nat),
    let c := s.getCore p
    let drained (c : Core) (k : Chunk) (d : Core) : Prop := (∀ a, d.spad.read a = (bufByte k.sbuf a).getD (c.spad.read a)) ∧
      d = { c with chunk := none, streak := 0, spad := d.spad, ecc := d.ecc, l1 := d.l1
                   ctl := { c.ctl with cmt := c.ctl.cmt + 1, ret := c.ctl.ret + BitVec.ofNat 64 k.count } }
    let room (slice line n : Nat) : Prop := (s.l2.filter fun m => m.slice == slice && l2Set m.line == l2Set line).length + n ≤ 16
    let settled (slice line pa : Nat) : Prop := ∀ m, s.l2Find slice line = some m → m.retrans = true → m.pa = pa ∨ m.dirty = false
    (∀ k, c.chunk = some k → k.closing = true → p ∈ s.submits →
      (s.reservation = some p ∨ s.reservation = none ∧ ∀ q k', q ∈ s.submits.takeWhile (fun q => q != p) → q / 384 = p / 384 →
        (s.getCore q).chunk = some k' → (k'.rsig ||| k'.wsig) &&& (k.rsig ||| k.wsig) = 0) →
      let repls := k.dests.reverse.filterMap fun e => match e.2 with | .repl leaf pa => some (e.1, leaf, pa) | _ => none
      let hosts := k.dests.reverse.filterMap fun e => match e.2 with | .host a => some (e.1, a) | _ => none
      let nodes := k.dests.reverse.filterMap fun e => match e.2 with | .remote => some e.1 | _ => none
      let far (x base : Nat) (port : Option Nat) : FarWrite :=
        ⟨p, (s.select p).owner, c.ctl.mode == .system, lineCells k.gbuf x base, none, port, x, false⟩
      s.seqQueue.length + repls.length ≤ 512 →
      ∃ t, exec (.rootGrant p) s = .next t ∧ t.commits = s.commits + 1 ∧ p ∉ t.submits ∧ t.reservation = none ∧
        drained c k (t.getCore p) ∧ (∀ q, q ≠ p → noticed (s.getCore q) (t.getCore q) k.wsig) ∧
        ((∀ e ∈ k.dests, ∀ sl leaf pa, e.2.source p e.1 = some (sl, leaf, pa) → settled sl e.1 pa ∧
            room sl e.1 (k.dests.filter fun d => ((d.2.source p d.1).map fun y => y.1) == some sl && l2Set d.1 == l2Set e.1).length) →
          t.dram = s.dram ∧ ∀ x leaf pa, k.dests.filter (fun e => e.1 == x) = [(x, .own leaf pa)] → ∃ m, t.l2Find (homeOf x) x = some m ∧ m.dirty = true ∧
            let u := s.renew (homeOf x) x leaf pa
            m.pa = (match u.l2Find (homeOf x) x with | some l => l.pa | none => pa) ∧
            (∀ j, j < 64 → lineByte m.data j = (bufByte k.gbuf (64 * x + j)).getD (lineByte (u.fill (homeOf x) x leaf pa).2.1 j)) ∧
            (c.l1.length + k.dests.length ≤ 512 → m.bad = false → (∀ l ∈ c.l1, l.line ≠ x) → (∀ w ∈ s.seqQueue, w.line ≠ x) →
              (t.getCore p).l1Find x = some m.data)) ∧
        (c.l1.length + k.dests.length ≤ 512 → ∀ x, ((∀ e ∈ k.dests, e.1 ≠ x) → (t.getCore p).l1Find x = c.l1Find x) ∧
          ∀ dst, k.dests.filter (fun e => e.1 == x) = [(x, dst)] → match dst with
            | .host _ | .remote => (t.getCore p).l1Find x = none
            | _ => ∀ l, c.l1.filter (fun y => y.line == x) = [⟨x, l, false⟩] → ∃ l', (t.getCore p).l1Find x = some l' ∧
              ∀ j, j < 64 → lineByte l' j = (bufByte k.gbuf (64 * x + j)).getD (lineByte l j)) ∧
        t.seqQueue = s.seqQueue ++ (repls.zipIdx.map fun e =>
          ⟨s.seqNext + e.2, e.1.1, (bufLine k.gbuf e.1.1).1, (bufLine k.gbuf e.1.1).2, e.1.2.1, e.1.2.2, p⟩) ∧
        t.hostWrites = s.hostWrites ++ hosts.map (fun e => far e.1 e.2 none) ∧
        t.remoteWrites = s.remoteWrites ++ nodes.map fun x => far x (64 * x) (s.routePort (64 * x) 0)) ∧
    (let u := (s.pass s.pace).raiseTimer
      ∀ k, s.powered = true → s.agenda = [] → u.core.run = .running → u.core.out = none → u.core.chunk = some k → k.closing = true → k.wsig = 0 → 0 < k.count →
        ∃ t, step s = .next t ∧ drained u.core k t.core ∧ t.core.l1 = u.core.l1 ∧ t = { u with core := t.core, reservation := t.reservation } ∧
          t.reservation = if u.reservation = some u.core.pcn then none else u.reservation) ∧
    (∀ die, die < 4 → ∀ v, s.seqQueue.find? (fun v => v.num == s.applied die + 1) = some v →
      let h := replHome v.line die
      ∃ t, exec (.replUpdateApply die) s = .next t ∧ (∀ d, d < 4 → t.applied d = if d = die then v.num else s.applied d) ∧
        t.commits = s.commits ∧ (∀ w, w ∈ t.seqQueue ↔ w ∈ s.seqQueue ∧ ∃ d, d < 4 ∧ t.applied d < w.num) ∧ (∀ q, t.getCore q = s.getCore q) ∧
        (room h v.line 1 → settled h v.line (v.pa + die * 2 ^ 38) → t.dram = s.dram ∧ (v.mask ≠ 0 → ∃ m, t.l2Find h v.line = some m ∧ m.dirty = true ∧ ∀ j, j < 64 → lineByte m.data j =
          if v.mask.getLsbD j then lineByte v.data j
          else lineByte ((s.renew h v.line v.leaf (v.pa + die * 2 ^ 38)).fill h v.line v.leaf (v.pa + die * 2 ^ 38)).2.1 j)) ∧
        ∀ n, n ∈ t.notices ↔ n ∈ s.notices ∨ v.mask ≠ 0 ∧ n.2 = v.line ∧ n.1 / 384 = die ∧ n.1 ≠ v.src ∧
          ∃ e ∈ s.cores, e.pcn = n.1 ∧ e.noticeMatters (sigBit v.line) = true) ∧
    ∀ n rest, s.powered = true → s.agenda = .replNotice p :: rest → s.notices.find? (fun n => n.1 == p) = some n →
      (s.reservation = some p → ∀ k, c.chunk = some k → (k.rsig ||| k.wsig).getLsbD (sigOf n.2) = false) →
      ∃ t, step s = .next t ∧ noticed c (t.getCore p) (sigBit n.2) ∧ (∀ q, q ≠ p → t.getCore q = s.getCore q) ∧
        t = { s with core := t.core, others := t.others, agenda := rest, notices := s.notices.erase n, submits := t.submits }

/-- R295, R299, R43, R122, R139, R161, R302: a load that needs host memory or another node stalls in its open chunk until the data arrives
(with the commit reservation it closes that chunk first, and opens the next one, which holds no reservation, R136); the arrival completes it with the far bytes under its chunk's own, an LDA
or a returning atomic alone. A far write that is performed puts its bytes into the far memory, and ends the wait of an STR.S. A reply lands in
the register of the workspace that asked, in the register cache or in the workspace's image; one of an ended context is only counted. -/
def Obligations.FarAccesses : Prop :=
  (∀ (s : State) (d a : Reg) (i : BitVec 16), s.issues [a] [d] →
      let va := (s.core.reg a + i.signExtend 64).toNat
      ∀ p ∈ ([(.ldb d a i, 1, true), (.ldh d a i, 2, true), (.ldw d a i, 4, true), (.ldd d a i, 8, true), (.ldbu d a i, 1, false),
        (.ldhu d a i, 2, false), (.ldwu d a i, 4, false)] : List (Instr × Nat × Bool)),
      s.core.bufHas va p.2.1 = false → ∀ (u : State) (h port : Option Nat),
        ((s.core.otherNode va p.2.1 ∧ port.isSome = true ∧ s.routePort va 0 = port ∧ u = s ∧ h = none) ∨
          (s.core.ownNode va p.2.1 ∧ (∀ l ∈ s.core.l1, l.line ≠ lineOf va) ∧
            ∃ x, s.homeRead (s.core.pcn / 384) va Req.read false = .host u x ∧ h = some x ∧ port = none)) →
        (s.reservation ≠ some s.core.pcn ∨ s.core.chunk = none →
          ∃ t, exec p.1 s = .next t ∧ t.core.out = some (⟨.load p.2.1 p.2.2, BitVec.ofNat 64 va, d⟩, h) ∧ t.core.outPort = port ∧ t.core.pc = s.core.pc ∧
            t.core.regs = s.core.regs ∧ t.core.pois = s.core.pois ∧
            onlyCore { u with reservation := if s.reservation = some s.core.pcn then none else u.reservation } t ∧
            ∃ c, t.core.chunk = some c ∧ c.rsig.getLsbD (sigOf (lineOf va)) = true) ∧
        ∀ y, s.reservation = some s.core.pcn → s.core.chunk = some y →
          exec p.1 s = .next { u with core := { u.core with chunk := some { y with closing := true } } }) ∧
  ∀ (s : State) (p : Nat),
    let c := s.getCore p
    let arrives (a : Access) (h : Option Nat) : Prop :=
      c.out = some (a, h) ∧ (h = none → s.remoteFault a.va.toNat = none ∧ s.heldBehind c.outPort = false)
    let free : Core := { c with out := none, outPort := none }
    (∀ va n h, (∀ w ∈ s.hostWrites ++ s.remoteWrites, w.pcn ≠ p) → s.farRead p va n h = match h with
      | some x => s.hostMem.readLE (x / 64 * 64 + va % 64) n
      | none => s.remoteMem.readLE va n) ∧
    (∀ n sg va d h k, arrives ⟨.load n sg, va, d⟩ h → n ∈ [1, 2, 4, 8] → c.chunk = some k →
      ∃ e v, exec (.loadDataArrives p) s = .next (s.putCore e) ∧ holds e d v ∧ otherRegs c e d ∧ e.pc = c.pc + 4 ∧
        chunkCore free e ∧ counted c e ∧ bytesValue v n sg fun i =>
          (bufByte k.gbuf (va.toNat + i)).getD (BitVec.ofNat 8 (s.farRead p va.toNat n h / 256 ^ i))) ∧
    (∀ n sg z va d h, arrives ⟨.lda n sg z, va, d⟩ h → n ∈ [1, 2, 4, 8] →
      ∃ (e : Core) (v : Word), exec (.loadDataArrives p) s =
          .next (s.putCore { free.doneFrom with regs := e.regs, pois := e.pois }) ∧ holds e d v ∧ otherRegs c e d ∧
        bytesValue v n sg fun i => BitVec.ofNat 8 (s.farRead p va.toNat n h / 256 ^ i)) ∧
    (∀ (w : Bit) va d h, (∀ k, (∃ o y q, k = AccKind.amo o w y q) ∨ (∃ x y, k = AccKind.cas w x y) → arrives ⟨k, va, d⟩ h →
      s.lineOpen p va.toNat = false →
      let n := if w = 1 then 8 else 4
      let old := s.remoteMem.readLE va.toNat n
      ∃ (e : Core) (m : Memory), exec (.loadDataArrives p) s = .next (State.putCore { s with remoteMem := m }
          { free.doneFrom with regs := e.regs, pois := e.pois }) ∧ otherRegs c e d ∧
        holds e d (if w = 1 then BitVec.ofNat 64 old else BitVec.ofInt 64 (BitVec.ofNat 32 old).toInt) ∧
        m.readLE va.toNat n = ((k.rmw old).getD old) % 2 ^ (8 * n) ∧ ∀ a, a < va.toNat ∨ va.toNat + n ≤ a → m.read a = s.remoteMem.read a)) ∧
    (∀ n w, w.pcn = p →
      let ended (u : State) : State := match c.out with
        | some (⟨.str _ _ _, _, _⟩, _) => if (∃ x ∈ u.hostWrites ++ u.remoteWrites, x.pcn = p) then u else u.putCore free.doneFrom
        | _ => u
      let first (l : List FarWrite) : Prop := l[n]? = some w ∧ olderWrite l n w = false
      (first s.remoteWrites → w.port.isSome = true → s.heldBehind w.port = false → s.remoteFault w.va = none → ∃ m : Memory, exec (.remoteWriteAcknowledgement n) s =
          .next (ended { s with remoteMem := m, remoteWrites := s.remoteWrites.eraseIdx n }) ∧
        ((∀ a x, w.rmw = some a → a.kind.rmw x = none) → ∀ y, m.read y = (bufByte w.bytes y).getD (s.remoteMem.read y)) ∧
        (∀ a, w.rmw = some a → w.bytes = [] → let k := a.kind.size; let old := s.remoteMem.readLE a.va.toNat k
          m.readLE a.va.toNat k = ((a.kind.rmw old).getD old) % 2 ^ (8 * k) ∧ ∀ y, y < a.va.toNat ∨ a.va.toNat + k ≤ y → m.read y = s.remoteMem.read y)) ∧
      (first s.hostWrites → ∃ m : Memory, exec (.cxlCompletion n) s = .next (ended { s with hostMem := m, hostWrites := s.hostWrites.eraseIdx n }) ∧
        ∀ y, m.read y = (bufByte w.bytes y).getD (s.hostMem.read y))) ∧
    ∀ n r, s.replies[n]? = some r →
      let u : State := { s with replies := s.replies.eraseIdx n }
      (s.ended = true ∨ r.owner.ctxg ≠ s.mgmt.ctxg → exec (.replyLands n) s = .next { u with mgmt := { u.mgmt with nmlate := u.mgmt.nmlate + 1 } }) ∧
      (s.ended = false → r.owner.ctxg = s.mgmt.ctxg → r.reg = 0 → exec (.replyLands n) s = .next u) ∧
      (s.ended = false → r.owner.ctxg = s.mgmt.ctxg → r.reg ≠ 0 → s.away r.owner = none →
        let d := s.getCore (s.ownerCore r.owner)
        let ws := r.owner.ws.toNat * 512
        (d.ctl.wpa = r.owner.ws → ∃ e : Core, exec (.replyLands n) s = .next (u.putCore e) ∧ e.pending r.reg = false ∧
          e.reg r.reg = (if r.ok then r.value else d.reg r.reg) ∧ e.poisoned r.reg = (d.poisoned r.reg || !r.ok) ∧
          (∀ i, i ≠ r.reg → e.reg i = d.reg i ∧ e.pending i = d.pending i ∧ e.poisoned i = d.poisoned i) ∧
          e = { d with regs := e.regs, pend := e.pend, pois := e.pois, chunk := e.chunk } ∧
          ∀ k, d.chunk = some k → ∃ k', e.chunk = some k' ∧ k' = { k with regs0 := k'.regs0, pend0 := k'.pend0, pois0 := k'.pois0 } ∧
            k'.pend0.getLsbD r.reg.toNat = false ∧ (r.ok = true → k'.regs0.get r.reg = r.value)) ∧
        (d.ctl.wpa ≠ r.owner.ws → ∃ m : Memory, exec (.replyLands n) s = .next (u.putCore { d with spad := m }) ∧
          (r.ok = true → m.dword (ws + 8 * r.reg.toNat) = r.value) ∧
          (∀ i, i < 64 → bitAt (m.readLE ws 8) i = if i = r.reg.toNat then false else (bitAt (d.spad.readLE ws 8) i || (!r.ok && i == 32 + r.reg.toNat))) ∧
          ∀ y, ¬inRanges y ((ws, 8) :: if r.ok then [(ws + 8 * r.reg.toNat, 8)] else []) → m.read y = d.spad.read y))

/-- R15, R16, R79, R80, R107, R123, R134: a host access is refused and logged before the device is ready, reaches the physical window while it is ready and the
node's global memory from then on, where it is an access of the home like any other; an access of another node that comes through a port that is up
is translated at the port and performed at the home, an atomic indivisibly; an ATS invalidation reaches the runtime and its ATSACK the host. That a
fold page which denies gives 0x44 before a clear NM bit gives 0x05 is the model's choice (log entry 27, DEDUCED; R364 gives no order), and so is that an NMRES asks
its page for a read (log entry 90, DESIGN CHOICE). -/
def Obligations.HostAndNodeAccesses : Prop :=
  ∀ (s : State),
    (∀ (off : BitVec 48) (mask : BitVec 64) (data : Line),
      let line := off.toNat / 64 * 64
      let addr : Word := BitVec.ofNat 64 (s.mgmt.nodew.toNat * 2 ^ 48 + off.toNat)
      let va := (s.mgmt.nodew.toNat * 2 ^ 48 + off.toNat) / 64 * 64
      let refused := exec (.hostMemRead off) s = .next ((s.logError 0x7FF 0 1 addr 0).out (.hostPoison off)) ∧
        exec (.hostMemWrite off mask data) s = .next (s.logError 0x7FF 0 2 addr 0)
      (s.mgmt.state.toNat < 2 → refused) ∧
      (s.mgmt.state = 2 → 0xB270000000 < line + 64 → refused) ∧
      (3 ≤ s.mgmt.state.toNat → va < 2 ^ 32 → refused) ∧
      (s.mgmt.state = 2 → line + 64 ≤ 0xB270000000 → s.dramBad = [] → s.blockCode (dramFlat line / 128) ≠ 3 →
        (∃ t : State, exec (.hostMemRead off) s = .next (t.out (.hostData off (s.dram.line (dramFlat line)))) ∧ t = { s with metaCache := t.metaCache, corrected := t.corrected }) ∧
        ∃ t : State, exec (.hostMemWrite off mask data) s = .next (t.out (.hostWritten off)) ∧
          t = { s with dram := t.dram, codes := t.codes, metaCache := t.metaCache, dramSoft := t.dramSoft, corrected := t.corrected } ∧ t.codes = s.codes.filter (fun e => e.1 != dramFlat line / 64 * 64 / 128) ∧
          (∀ j, j < 64 → t.dram.read (dramFlat line / 64 * 64 + j) =
            if mask.getLsbD j then lineByte data j else lineByte (s.dram.line (dramFlat line)) j) ∧
          ∀ y, y < dramFlat line / 64 * 64 ∨ dramFlat line / 64 * 64 + 64 ≤ y → t.dram.read y = s.dram.read y) ∧
      (3 ≤ s.mgmt.state.toNat → 2 ^ 32 ≤ va →
        (∀ h f, s.homeRead 0 va hostRead true = .fault h f → exec (.hostMemRead off) s = .next (((s.noteWalk h va f).logError 0x7FF 0 1 addr 0).out (.hostPoison off))) ∧
        (∀ h f, s.writeCheck va hostWrite = .error (h, f) → exec (.hostMemWrite off mask data) s = .next ((s.noteWalk h va f).logError 0x7FF 0 2 addr 0)) ∧
        (∀ l, s.heldAtHome va hostRead l → exec (.hostMemRead off) s = .next (s.out (.hostData off l.data))) ∧
        ∀ l, s.heldAtHome va hostWrite l → s.reservation = none → ∃ (t : State) (m : L2Line), exec (.hostMemWrite off mask data) s = .next (t.out (.hostWritten off)) ∧
          t.l2Find (homeOf (lineOf va)) (lineOf va) = some m ∧ m.dirty = true ∧ t.commits = s.commits + 1 ∧ t.dram = s.dram ∧
          (∀ j, j < 64 → lineByte m.data j = if mask.getLsbD j then lineByte data j else lineByte l.data j) ∧
          ∀ q, q < 1536 → noticed (s.getCore q) (t.getCore q) (sigBit (lineOf va)))) ∧
    (∀ (port : Nat) (src : BitVec 9) (va : Word) (x : Port),
      let a := va.toNat
      s.ports.toList[port]? = some x → x.up = true → (∀ c ∈ s.folds, c.far = true → c.port ≠ port) → s.isOwn a = true → 2 ^ 32 ≤ a → a < 2 ^ 57 →
      let answered (op : RemoteOp) (u : State) (o : Output) : Prop := exec (.remoteAccessArrives port src va op) s = .next (u.out o)
      let fits (n : Nat) : Prop := 0 < n ∧ a % 64 + n ≤ 64
      (s.mgmt.state.toNat < 3 → ∀ n mask data, fits n →
        answered (.read n) s (.remoteFault src va 0x0A) ∧ answered (.write mask data) s (.remoteFault src va 0x0A)) ∧
      (3 ≤ s.mgmt.state.toNat →
        (∀ n, fits n →
          (∀ f, s.translate (ingress port) a Req.read = .error f → answered (.read n) (s.noteAt (ingress port) a f) (.remoteFault src va f.reason)) ∧
          (∀ f mask data, s.translate (ingress port) a Req.write = .error f → answered (.write mask data) (s.noteAt (ingress port) a f) (.remoteFault src va f.reason)) ∧
          (∀ u e l, s.translate (ingress port) a Req.read = .ok (u, e) → u.heldAtHome a Req.read l →
            answered (.read n) u (.remoteData src va (BitVec.ofNat 512 (lineGet l.data (a % 64) n)))) ∧
          (∀ u e l mask data, s.translate (ingress port) a Req.write = .ok (u, e) → u.heldAtHome a Req.write l → s.reservation = none →
            ∃ (t : State) (m : L2Line), answered (.write mask data) t (.remoteDone src va) ∧ t.l2Find (homeOf (lineOf a)) (lineOf a) = some m ∧ m.dirty = true ∧
              (∀ j, j < 64 → lineByte m.data j = if mask.getLsbD j then lineByte data j else lineByte l.data j) ∧ t.commits = u.commits + 1 ∧
              t.dram = u.dram ∧ ∀ q, q < 1536 → noticed (u.getCore q) (t.getCore q) (sigBit (lineOf a)))) ∧
        (∀ (w : Bit) o y x' y' u e l, x.features.getLsbD 1 = true → a % (if w = 1 then 8 else 4) = 0 → s.translate (ingress port) a Req.both = .ok (u, e) →
          u.heldAtHome a Req.both l → s.reservation = none →
          let n := if w = 1 then 8 else 4
          let old := lineGet l.data (a % 64) n
          (∃ t v, answered (.amo o w y) t (.remoteData src va (BitVec.ofNat 512 old)) ∧ amoRmw o w y old = some v ∧ writtenAtHome u t a n v l) ∧
          ∃ t, answered (.cas w x' y') t (.remoteData src va (BitVec.ofNat 512 old)) ∧
            if old = x'.toNat % 2 ^ (8 * n) then writtenAtHome u t a n (y'.toNat % 2 ^ (8 * n)) l else t = u) ∧
        (∀ b u leaf big pa, x.features.getLsbD 4 = true → s.translate (ingress port) a Req.read = .ok (u, leaf, big, pa) → leafNm leaf = true → leafComp leaf = false →
          let m := u.mule (dramFlat (leafPa leaf) / 4096 / 365440)
          let size := if big then 0x200000 else 0x10000
          exec (.remoteAccessArrives port src va (.nmres b)) s = .next (u.putMule { m with
            controls := m.controls ++ [⟨b, ⟨2048 + src.toNat, 0, s.mgmt.ctxg, none⟩, 1, a / size * size, size⟩] })) ∧
        (∀ j f len (d : List Line) u ps, x.features.getLsbD 0 = true → 1 ≤ len → d.length = (len + 63) / 64 → a % 2 ^ 48 + len ≤ 2 ^ 48 →
          s.foldPagesAt (ingress port) 17 a (a + len) = (u, ps) →
          let op := RemoteOp.fold j f len d
          (16 < ps.length → answered op u (.remoteReply src 0x05)) ∧
          (ps.length ≤ 16 → (∃ y ∈ ps, y.denied = true) →
            answered op u (.remoteReply src (BitVec.ofNat 64 (0x44 + 256 * (ps.zipIdx.map fun y => if y.1.denied then 2 ^ y.2 else 0).sum)))) ∧
          (ps.length ≤ 16 → (∀ y ∈ ps, y.denied = false) → (∃ y ∈ ps, y.nm = false) → answered op u (.remoteReply src 0x05)) ∧
          (ps.length ≤ 16 → (∀ y ∈ ps, y.denied = false ∧ y.nm = true) →
            ∃ c, exec (.remoteAccessArrives port src va op) s = .next { u with folds := u.folds ++ [c] } ∧
              c.base = a ∧ c.len = len ∧ c.j = j ∧ c.ffmt = f ∧ c.data = d ∧ c.far = true ∧ c.port = port ∧ remoteNode c.sender = some src)))) ∧
    ∀ (tag : BitVec 16) (va : Word) (n : Nat),
      exec (.atsInvalidation tag va n) s = .next ({ s with ats := s.ats ++ [tag] }.out (.atsEvent tag va n)) ∧
      (s.mgmt.state ≠ 0 → tag ∈ s.ats → exec (.atsack tag) s = .next ({ s with ats := s.ats.erase tag }.out (.atsDone tag)))

/-- R111, R112, R115, R117, R118, R120, R121, R122: once its chunk has gone, an access whose early check failed parks and enters the upcall, or traps 0x10 in
system mode; a fault reply of another node does the same to what its core waits for, or parks the core's oldest write there and leaves the
upcall due, while the park is full stalls the core; a retry pass owes every parked access one retry and tries them in order: one that succeeds leaves with
its notice, one with the same fault stays silently, one with another fault stays with a notice, one that must wait holds the later ones of its park; a retried load lands its value, a retried store is written at its home. A page request that the host refuses fails
the parked accesses of its pages: their registers are poisoned, their notices carry the fault. The model's choices here: which write a fault reply
concerns and when its upcall enters (log entry 33, DEDUCED), that a parked access counts in RET (log entry 41, DEDUCED), that a retry which must
wait keeps its REPLAY and holds those behind it in its park (log entry 61, DEDUCED), that one which waits for room in a full park is issued or checked anew (log
entry 92, DEDUCED), that a late reply to a write of an ended context is not counted (log entry 93, DESIGN CHOICE), that a late Response Failure clears PRIEN (log entry 74,
DEDUCED), and the fate of a retry that meets an uncorrectable error (log entry 15, DESIGN CHOICE). -/
def Obligations.ParkedAccesses : Prop :=
  ∀ (s : State),
    let notice (s : State) (e : Parked) (tag status reason : Nat) : State := s.postTo e.owner (element
      (reason * 2 ^ 15 + (if e.acc.kind.pends then e.acc.reg.toNat else 0) * 2 ^ 10 + e.owner.ws.toNat) status tag)
    let upcallReady (c : Core) : Prop := c.wp ≠ c.uws ∧ c.badWord (c.wp + 0x118) 8 = none ∧ bitAt (c.spad.readLE (c.wp + 0x118) 8) 31 = false ∧
      c.switchCheck c.uws = none ∧ c.switchBad c.uws = none
    let parked (u : State) (a : Access) (place : Nat) (f : FaultInfo) : State := { u with
      parks := u.parks ++ [⟨place, a, u.owner, f, 0⟩]
      core := { u.core with early := none, vprog := 0, copied := none, unstat := none, ctl := { u.core.ctl with ret := u.core.ctl.ret + 1 } } }
    let failed (s : State) (e : Parked) (status : Nat) : State :=
      notice (if e.acc.kind.pends then s.land e.owner e.acc.reg 0 false else s) e 0xFF02 status e.fault.reason.toNat
    (∀ p a place f, (s.getCore p).early = some (a, place, f) → (s.getCore p).chunk = none →
      let t := s.select p
      let noted := t.noteWalk place a.va.toNat f
      (t.preempted = true → exec (.earlyCheckFault p) s = .next (t.select s.core.pcn)) ∧
      (t.preempted = false → t.core.ctl.mode = .system → t.trapReady 0x10 → ∃ u, exec (.earlyCheckFault p) s = .next (u.select s.core.pcn) ∧ trapTaken noted u 0x10 a.va t.core.pc) ∧
      (t.preempted = false → t.core.ctl.mode = .user → s.parkCount place < 64 → upcallReady t.core →
        ∃ u, exec (.earlyCheckFault p) s = .next (u.select s.core.pcn) ∧ upcallTaken (parked noted a place f) u a f (t.core.pc + 4)) ∧
      (t.core.ctl.mode = .user → 64 ≤ s.parkCount place → ∃ u, exec (.earlyCheckFault p) s = .next u ∧ u.parks = s.parks ∧ ∀ q, u.getCore q = s.getCore q)) ∧
    (∀ p reason,
      let f : FaultInfo := ⟨0x43, reason, 0⟩
      (∀ a, s.awaited p = some a → s.heldBehind (s.getCore p).outPort = false → ∃ rf, State.remoteFault { s with remoteFaults := rf } a.va.toNat = some reason ∧
        let t := State.select { s with remoteFaults := rf } p
        (∀ n sg, a.kind = .load n sg → ∃ u : State, exec (.remoteFaultReply p reason) s = .next (u.select s.core.pcn) ∧
          u = { t with core := { t.core with out := none, outPort := none, early := some (a, 1536, f), chunk := t.core.chunk.map fun k => { k with closing := true } } }) ∧
        ((∃ n sg z, a.kind = .lda n sg z) ∨ (∃ o w y q, a.kind = .amo o w y q) ∨ (∃ w x y, a.kind = .cas w x y) →
          t.core.ctl.mode = .user → s.parkCount 1536 < 64 → upcallReady t.core → ∃ u : State, exec (.remoteFaultReply p reason) s = .next (u.select s.core.pcn) ∧
            upcallTaken (parked { t with core := { t.core with out := none, outPort := none } } a 1536 f) u a f (t.core.pc + 4))) ∧
      (∀ n w, s.awaited p = none → s.remoteWrites[n]? = some w → w.pcn = p → (∀ v ∈ s.remoteWrites.take n, v.pcn ≠ p) → s.heldBehind w.port = false →
        ∃ rf, State.remoteFault { s with remoteFaults := rf } w.va = some reason ∧
          let t : State := { s with remoteFaults := rf, remoteWrites := s.remoteWrites.eraseIdx n }
          let late (u : State) : State := u.modCore p fun c => { c with late := c.late ++ [(w.access, f, w.sys, w.owner.ws)] }
          exec (.remoteFaultReply p reason) s = .next (if s.ended = true ∨ w.owner.ctxg ≠ s.mgmt.ctxg then t
            else if w.sys = true then late t
            else if s.parkCount 1536 < 64 then late { t with parks := s.parks ++ [⟨1536, w.access, w.owner, f, 0⟩] }
            else { s with remoteFaults := rf, remoteWrites := s.remoteWrites.set n { w with held := true } }))) ∧
    (∀ u,
      let t : State := if s.retryWanted = 0 then s else
        { s with retryWanted := s.retryWanted - 1, parks := s.parks.map fun e => { e with owed := e.owed + 1 } }
      chain (fun (x : State × List Parked × List Nat) (e : Parked) (y : State × List Parked × List Nat) =>
          let tried : Parked := { e with owed := e.owed - 1 }
          if e.owed = 0 ∨ e.place ∈ x.2.2 then y = (x.1, x.2.1 ++ [e], x.2.2)
          else match x.1.retry e with
            | .done v => y = (notice v e 0xFF01 0 0, x.2.1, x.2.2)
            | .wait => y = (x.1, x.2.1 ++ [e], e.place :: x.2.2)
            | .bad v => y = (failed (v.logError e.owner.pcn 0 5 e.acc.va 0) e 0x10, x.2.1, x.2.2)
            | .fault f => let noted := match e.acc.kind with
                | .nmc _ => x.1.noteAt e.place e.acc.va.toNat f
                | _ => x.1.noteWalk e.place e.acc.va.toNat f
              if f.kind = e.fault.kind ∧ f.reason = e.fault.reason then y = (noted, x.2.1 ++ [tried], x.2.2)
              else y = (notice noted e 0xFF03 f.kind.toNat f.reason.toNat, x.2.1 ++ [{ tried with fault := f }], x.2.2)) t.parks (t, [], []) u →
      exec .replayPass s = .next { u.1 with parks := u.2.1 }) ∧
    (∀ (e : Parked) l,
      let va := e.acc.va.toNat
      s.isOwn va = true → (∀ w ∈ s.hostWrites, w.pcn ≠ s.ownerCore e.owner) →
      (∀ n sg, e.acc.kind = .load n sg → va % 64 + n ≤ 64 → n ∈ [1, 2, 4, 8] → s.heldAtHome va Req.read l →
        ∃ v, s.retry e = .done (s.land e.owner e.acc.reg v true) ∧
          bytesValue v n sg fun i => lineByte (s.ownUpdates (s.ownerCore e.owner) (lineOf va) l.data) (va % 64 + i)) ∧
      (∀ n v, e.acc.kind = .store n v → va % 64 + n ≤ 64 → 0 < n → s.heldAtHome va Req.write l → s.reservation = none →
        ∃ t, s.retry e = .done t ∧ writtenAtHome s t va n v.toNat l)) ∧
    ∀ n a r, s.requests[n]? = some r →
      let u : State := { s with requests := s.requests.eraseIdx n, mgmt := { s.mgmt with prien := if a = .responseFailure then 0 else s.mgmt.prien } }
      (s.ended = true ∨ r.ctxg ≠ s.mgmt.ctxg → exec (.pageRequestAnswer n a) s = .next { u with mgmt := { u.mgmt with prlate := u.mgmt.prlate + 1 } }) ∧
      (s.ended = false → r.ctxg = s.mgmt.ctxg → a = .success → exec (.pageRequestAnswer n a) s = .next { u with answered := u.answered ++ [r] }) ∧
      (s.ended = false → r.ctxg = s.mgmt.ctxg → a ≠ .success →
        let hit (e : Parked) : Bool := e.owner.ctxg == s.mgmt.ctxg && (e.fault.kind == 0x40 || e.fault.kind == 0x42) &&
          decide (r.va ≤ e.acc.va.toNat) && decide (e.acc.va.toNat < r.va + 0x10000 * r.count)
        ∃ t, exec (.pageRequestAnswer n a) s = .next t ∧ chain (fun (x : State) (e : Parked) y =>
            y = failed x e e.fault.kind.toNat)
          (s.parks.filter hit) { u with parks := s.parks.filter fun e => !hit e } t)

/-- R208, R210, R213, R214, R220, R221, R222, R422: the block of a queue moves into its parent, or into the spill region, whose records are written at their
places and read back; a queue below its low-water mark asks for a pull, and a pull, the first of those with its parent, moves the up to 8 earliest entries above
the queue into it; a queue that the block leaves low asks anew, and a parent asks once it is low, behind the queues beside it that were; an admission gives the earliest team record of the package queue the lowest free slot and joins it to the ring; the ring's head is placed
at the first origin in scan order whose sites are all idle: they are reserved, its quantum starts, and at its first placement each member's record is
delivered; the end of a quantum marks the head's target and pre-empts the expired teams on it; a plain slice on a marked site gets its
pre-empt one quantum after the mark. The model's choices here: the places and accesses of the spill region (log entry 70, DESIGN CHOICE), which
request for a pull is served and when the package queue refills (log entry 34, DEDUCED), that the target is chosen once and kept (log entry 37,
DEDUCED), and that an admitted team gets the lowest free slot (log entry 80, DESIGN CHOICE). -/
def Obligations.QueuesAndPlacement : Prop :=
  ∀ (s : State),
    (∀ n, let i := queueOf n
      let q := s.queue i
      q.upBlock ≠ [] → s.initial = [] → q.entries.length ≤ i.capacity → (∀ p, i = .core p → (s.getCore p).reserved = none) →
      (∀ p, i.parent = some p → (s.queue p).upBlock = [] → (s.queue p).entries.length + q.upBlock.length ≤ p.capacity → ∃ t : State,
        exec (.blockTransfer n) s = .next t ∧ t = { s with queues := t.queues } ∧ t.queue i = { q with upBlock := [] } ∧
          t.queue p = { s.queue p with entries := (s.queue p).entries ++ q.upBlock } ∧ ∀ j, j ≠ i → j ≠ p → t.queue j = s.queue j) ∧
      (i.parent = none → 8 + s.spill.length ≤ s.mgmt.pqsn.toNat → ∃ t : State, exec (.blockTransfer n) s = .next t ∧ t.spill = s.spill ++ q.upBlock ∧
        t.queue i = { q with upBlock := [] } ∧ (∀ j, j ≠ i → t.queue j = s.queue j) ∧
        t = q.upBlock.foldl State.spillIn { s with queues := t.queues } ∧
        ((∀ k, s.spillVa k = none) → t = { s with queues := t.queues, spill := t.spill, spillAt := t.spillAt }))) ∧
    (∀ (e : Entry) i l,
      let a := s.mgmt.pqsb.toNat + 64 * i
      a % 64 = 0 → 2 ^ 32 ≤ a → a < 2 ^ 57 → s.isOwn a = true →
      ((∀ x ∈ s.spillAt, x.2 ≠ i) → (∀ j, j < i → ∃ x ∈ s.spillAt, x.2 = j) → s.reservation = none → s.heldAtHome a Req.write l →
        (s.spillIn e).spill = s.spill ++ [e] ∧ (s.spillIn e).spillAt = s.spillAt ++ [(e.key, i)] ∧
        writtenAtHome s (s.spillIn e) a (if e.isTeam then 64 else 32) e.body.value l) ∧
      (s.spillAt.find? (fun x => x.1 == e.key) = some (e.key, i) → s.heldAtHome a Req.read l →
        let v := lineGet l.data 0 (if e.isTeam then 64 else 32)
        s.spillOut e = ({ s with spill := s.spill.filter fun x => x.key != e.key, spillAt := s.spillAt.filter fun x => x.1 != e.key },
          { e with body := match e.body with
            | .task _ => .task (taskOf v)
            | .member _ slot j => .member (taskOf v) slot j
            | .team _ => .team (teamOf v) }))) ∧
    (∀ i, ∃ l : List QueueId, s.noteLow i = { s with pulls := s.pulls ++ l } ∧ ∀ j, j ∈ s.pulls ++ l ↔ j ∈ s.pulls ∨ j ∈ i.siblings ∧ s.low j = true) ∧
    (∀ n, let i := queueOf n
      let up := s.above i
      let asked := (s.noteLow i).pulls
      i ∈ asked → (∀ j ∈ asked.takeWhile (fun j => j != i), j.parent = i.parent → (s.queue j).upBlock ≠ []) → (s.queue i).upBlock = [] → up ≠ [] →
      (s.queue i).entries.length + 8 ≤ i.capacity → (∀ p, i = .core p → (s.getCore p).reserved = none) →
      ∃ (t : State) (b d : List Entry), exec (.pull n) s = .next t ∧ b.length = min 8 up.length ∧ (∀ e ∈ b, e ∈ up ∧ ∀ x ∈ up, x ∉ b → e.key ≤ x.key) ∧
        b.Pairwise (fun x y => x.key ≤ y.key) ∧ (t.queue i).entries = (s.queue i).entries ++ d ∧ (d.map fun e => e.key) = b.map (fun e => e.key) ∧
        (i ∈ t.pulls ↔ t.low i = true) ∧
        (∀ p, i.parent = some p → d = b ∧ (t.queue p).entries = (s.queue p).entries.filter (fun e => !b.contains e) ∧
          (∀ j ∈ p.siblings, s.low j = true → j ∈ t.pulls) ∧ (t.low p = true → p ∈ t.pulls) ∧ t = { s with queues := t.queues, pulls := t.pulls }) ∧
        (i.parent = none → t.spill = s.spill.filter (fun e => b.all fun x => x.key != e.key) ∧
          ((∀ k, s.spillVa k = none) → d = b ∧ t = { s with queues := t.queues, pulls := t.pulls, spill := t.spill, spillAt := t.spillAt }))) ∧
    (∀ e r slot, s.mgmt.state.toNat < 4 → e ∈ (s.queue .package).entries → e.body = .team r →
      (∀ x ∈ (s.queue .package).entries, x.isTeam = true → e.key ≤ x.key ∧ (x.key = e.key → x = e)) → slot < 64 → s.team slot = none →
      (∀ j, j < slot → (s.team j).isSome = true) → 1 ≤ r.width → r.width ≤ 48 → 1 ≤ r.height → r.height ≤ 32 →
      (r.onedie = true → r.width ≤ 24 ∧ r.height ≤ 16) →
      ∃ (t : State) (m : Team), exec .teamAdmission s = .next t ∧ t = { s with queues := t.queues, teams := s.teams ++ [m], gens := t.gens, ring := s.ring ++ [slot] } ∧
        (t.queue .package).entries = (s.queue .package).entries.filter (fun x => x.key != e.key) ∧ m.slot = slot ∧ m.trec = r ∧ m.status = .waiting ∧
        m.placed = false ∧ m.gen = s.nextGen slot ∧ m.images = []) ∧
    (∀ (m : Team) ok x y, m.scan ok = some (x, y) →
      let allowed (x y : Nat) : Prop := x + m.trec.width ≤ 48 ∧ y + m.trec.height ≤ 32 ∧ (m.placed = true → x % 2 = m.x0 % 2 ∧ y % 4 = m.y0 % 4) ∧
        (m.trec.onedie = true → oneDie m.trec x y = true) ∧ ∀ p ∈ memberSites m.trec x y, ok p = true
      allowed x y ∧ ∀ x' y', allowed x' y' → y < y' ∨ y = y' ∧ x ≤ x') ∧
    (∀ slot rest m x y, s.ring = slot :: rest → s.team slot = some m → (∀ c ∈ s.cores, c.forTeam slot = false) → m.scan s.idle = some (x, y) →
      s.mgmt.state.toNat < 4 → 1 ≤ m.trec.width → m.trec.size ≤ m.trec.width * m.trec.height → (∀ p ∈ memberSites m.trec x y, s.queue (.core p) = ⟨.core p, [], []⟩) →
      ∃ (t : State) (u : Team), exec .teamPlace s = .next t ∧ t.ring = rest ∧ t.team slot = some u ∧ t.dram = s.dram ∧ t.spill = s.spill ∧
        u = { m with x0 := x, y0 := y, placed := true, expired := false, quantumEnd := s.tb + s.mgmt.quantum, status := u.status } ∧
        (m.placed = false → u.status = .resident) ∧ (m.placed = true → u.status = .arriving) ∧
        ∀ i, i < m.trec.size → let p := siteAt (x + i % m.trec.width) (y + i / m.trec.width)
          let c := t.getCore p
          let dl : Word := if m.trec.deadline = 0 then BitVec.ofNat 64 (min (s.tb.toNat + 2 ^ 32) (2 ^ 64 - 1)) else m.trec.deadline
          c.reserved = some slot ∧ c.marked = none ∧ c.finished = false ∧ c.phase = .idle ∧ c.parity = 0 ∧ c.mailbox = [] ∧ c.regs = (s.getCore p).regs ∧
            (m.placed = false → ∃ q, (t.queue (.core p)).entries = [⟨.member
              ⟨m.trec.bwid + BitVec.ofNat 64 i, m.trec.entry, m.trec.budget, dl, m.trec.arg⟩ slot i, dl, s.tb, 0x7FD, q⟩]) ∧
            (m.placed = true → t.queue (.core p) = s.queue (.core p))) ∧
    (∀ slot m, s.team slot = some m → m.status = .resident → m.quantumEnd.toNat ≤ s.tb.toNat → s.mgmt.state.toNat < 4 →
      let u := s.modTeam slot fun m => { m with expired := true }
      (s.ring = [] → exec (.quantumEnd slot) s = .next u) ∧
      ∀ k rest h x y, s.ring = k :: rest → u.team k = some h → (∀ c ∈ s.cores, c.forTeam k = false) → h.scan u.qualifies = some (x, y) →
        h.trec.size ≤ h.trec.width * h.trec.height → 1 ≤ h.trec.width →
        ∃ t, exec (.quantumEnd slot) s = .next t ∧ t.ring = s.ring ∧ t.dram = s.dram ∧
          (∀ p ∈ memberSites h.trec x y, if u.idle p then (t.getCore p).reserved = some k ∧ (t.getCore p).marked = none
            else (t.getCore p).marked = some (k, s.tb) ∧ (t.getCore p).reserved = (s.getCore p).reserved) ∧
          ∀ j v, u.team j = some v → v.status = .resident → v.expired = true ∨ v.quantumEnd.toNat ≤ s.tb.toNat → (∃ p ∈ v.sites, p ∈ memberSites h.trec x y) →
            (t.team j).map (·.status) = some .leaving ∧ ∀ p ∈ v.sites, (s.getCore p).finished = false → (s.getCore p).run = .running →
              (t.getCore p).irq.preempt = some ((s.getCore p).irq.preempt.getD (1, false))) ∧
    ∀ p k b, (s.getCore p).marked = some (k, b) → (s.getCore p).slice = .plain → b.toNat + s.mgmt.quantum.toNat ≤ s.tb.toNat →
      (s.getCore p).run = .running → (s.getCore p).irq.preempt = none →
      exec (.markedSiteTimeout p) s = .next (s.modCore p fun c => { c with irq := { c.irq with preempt := some (2, false) } })

/-- R423, R424: the WFE of a member's handler acknowledges a pre-empt of kind 1 or 3 when its save area names a valid block: the registers go
to the workspace, the block to its place, in it the fired pushes that wait, each with its counter, and the WFE waits for the swap-in. R53 to R56, R216, R416,
R425, R427: when every member that has not finished has acknowledged and no command of a member is under way but a FOLDWAIT and what stands behind it, the team
is swapped out: its members' records hold their scratchpads, markings, elements and FOLDWAITs, its sites take their workers back, and it joins the ring's
tail; once it is placed again each member resumes on its new site as its record and block say, counts what fell meanwhile, and its WFE completes.
The model's choices here: where a swap area lies (log entry 35, DESIGN CHOICE), what a released worker and its site find (log entry 20, DESIGN
CHOICE), what is kept beyond R54 and R424 (log entry 21, DESIGN CHOICE), when a team is drained and which elements stay (log entry 36, DEDUCED),
that a kept push comes back as it was recorded (log entry 67, DEDUCED) and a FOLDARM behind a FOLDWAIT with it (log entry 68, DEDUCED). -/
def Obligations.TeamSwaps : Prop :=
  (∀ (s : State) (k slot : Nat) (taken : Bool), s.core.irq.preempt = some (k, taken) → s.core.slice = .member slot → (s.team slot).isSome = true →
    s.core.ctl.mode = .system → (s.ackWith = if k = 1 ∨ k = 3 then s.core.csb else none)) ∧
  (∀ (s : State) (at_ : Nat), s.issuesAlone [] [] → s.core.acked = false → s.ackWith = some at_ → s.core.badWord (s.core.wp + 0x158) 8 = none →
    ∃ u, exec .wfe s = .next u ∧ u.core.acked = true ∧ u.core.pc = s.core.pc ∧ imageWritten s.core u.core.spad ∧
      u.core.spad.readLE at_ 8 = min 32 (s.core.fired.length + s.core.armed.length) + min 512 s.core.timetable.length * 2 ^ 16 ∧
      u.core.spad.dword (at_ + 8) = s.core.gen ∧ u.core.spad.readLE (at_ + 24) 8 = s.core.parity.toNat ∧
      u.core.spad.dword (at_ + 64) = BitVec.ofNat 64 s.core.wp ∧
      (∀ k, k < 16 → ∀ x, s.core.ctrs.toList[k]? = some x → u.core.spad.readLE (at_ + 0x180 + 8 * k) 8 = x.value.toNat + x.sat.toNat * 2 ^ 32) ∧
      (∀ k x, k < 32 → s.core.fired[k]? = some x → u.core.spad.readLE (at_ + 0x200 + 64 * k) 8 = x.1.toNat * 2 ^ 32 ∧
        u.core.spad.dword (at_ + 0x208 + 64 * k) = x.2.2.gen ∧ u.core.spad.readLE (at_ + 0x220 + 64 * k) 32 = x.2.2.pushed.toNat) ∧
      (∀ y, ¬inRanges y [(s.core.wp, 256), (at_, 0x1A00)] → u.core.spad.read y = s.core.spad.read y) ∧
      u = { s.heal (s.core.softWords (s.core.wp + 0x158) 8) with core := { s.core with
        spad := u.core.spad, ecc := u.core.ecc, acked := true, ackCsb := at_, lateIncs := [], waiting := false, kept := u.core.kept } } ∧
      u.core.kept = keep s.core.kept at_ s.core.armedCmds) ∧
  ∀ (s : State) (slot : Nat) (m : Team), s.team slot = some m →
    m.trec.size ≤ m.trec.width * m.trec.height → 1 ≤ m.trec.width → m.x0 + m.trec.width ≤ 48 → m.y0 + m.trec.height ≤ 32 →
    (m.status = .leaving →
      (∀ p ∈ m.sites, let c := s.getCore p
        (∀ q, q ∈ [1, 2, 3] → (c.queue q).cmds = []) ∧ (c.finished = false → c.acked = true ∧ (∀ b, c.phase ≠ .running b) ∧ (c.queue 0).cmds = [] ∧
          ∀ k, (c.queue 4).cmds.head? = some k → k.isFoldWait = true)) →
      ∃ (t : State) (u : Team), exec (.teamSwapOut slot) s = .next t ∧ t.team slot = some u ∧ t.ring = s.ring ++ [slot] ∧ t.dram = s.dram ∧
        u = { m with status := .swappedOut, expired := false, images := u.images } ∧ (∀ q, q ∉ m.sites → t.getCore q = s.getCore q) ∧
        ∀ p ∈ m.sites, let c := s.getCore p
          let d := t.getCore p
          (c.finished = false → ∃ i ∈ u.images, i.index = c.member ∧ i.pc = c.pc ∧ i.csb = c.ackCsb ∧ i.phase = c.phase ∧ i.events = c.events ++ c.eventsWaiting ∧ i.incs = c.lateIncs ∧
            (∀ y, y < 0x60000 → y < c.wp ∨ c.wp + 256 ≤ y → i.record.read y = c.spad.read y) ∧ (c.wp + 256 ≤ 0x60000 → imageWritten c i.record) ∧
            (∀ k x, c.marks.toList[k]? = some x → i.record.readLE (0x60000 + 4 * k) 4 = x.toNat) ∧
            (∀ q ∈ [1, 2, 3, 4], i.record.readLE (0x6005F + q) 1 = min 32 (c.queue q).elems.length ∧
              ∀ k x, k < 32 → (c.queue q).elems[k]? = some x → i.record.dword (0x60080 + 256 * (q - 1) + 8 * k) = x) ∧
            i.record.readLE 0x60064 1 = min 32 (c.queue 4).cmds.length ∧
            ∀ k x, k < 32 → (c.queue 4).cmds[k]? = some x → i.record.readLE (0x60480 + 32 * k) 32 = x.pushed.toNat ∧ ⟨0x60480, k, x⟩ ∈ i.kept) ∧
          d.finished = false ∧ d.phase = .idle ∧ d.timetable = [] ∧ d.mailbox = [] ∧ d.spad = c.spad ∧
          ∀ w, c.slice ≠ .none → c.worker = some w → d.slice = .none ∧ d.taking = true ∧ d.pc = w.pc ∧ d.regs = w.regs ∧ d.ctl.wpa = w.ws ∧ d.ctl.mode = w.mode ∧
            d.ctl.vl = 32 ∧ d.events = [] ∧ ∀ q, d.queue q = ⟨[], [], []⟩) ∧
    (m.status = .arriving → (∃ i ∈ m.images, i.index < m.trec.size) → (m.images.map (·.index)).Nodup →
      ∃ (t : State) (u : Team), exec (.teamSwapIn slot) s = .next t ∧ t.team slot = some u ∧ t.dram = s.dram ∧
        u = { m with status := .resident, images := [] } ∧ (∀ q, q ∉ m.sites → t.getCore q = s.getCore q) ∧
        ∀ j, j < m.trec.size →
          let c := s.getCore (m.site j)
          let d := t.getCore (m.site j)
          ((∀ i ∈ m.images, i.index ≠ j) → d = { c with reserved := none, finished := true }) ∧
          ∀ i ∈ m.images, i.index = j →
            let w (o : Nat) : Word := d.spad.dword (i.csb + o)
            let wp := (w 0x40).toNat / 512 % 1024 * 512
            (∀ y, d.spad.read y = if y < 0x60000 then i.record.read y else 0) ∧
            (∀ (k : Nat) (h : k < 24), d.marks[k] = BitVec.ofNat 32 (i.record.readLE (0x60000 + 4 * k) 4)) ∧
            d.slice = .member slot ∧ d.member = j ∧ d.reserved = none ∧ d.finished = false ∧ d.taking = false ∧ d.acked = false ∧
            d.pc = i.pc + 4 ∧ d.vprog = 0 ∧ d.phase = i.phase ∧ d.parity = (w 0x18).setWidth 2 ∧ d.mailbox = [] ∧
            d.worker = some ⟨c.pc, c.ctl.wpa, c.ctl.mode, c.regs⟩ ∧
            d.wp = wp ∧ (∀ r, r ≠ 0 → d.reg r = d.spad.dword (wp + 8 * r.toNat) ∧ d.pending r = bitAt (d.spad.readLE wp 4) r.toNat ∧
              d.poisoned r = bitAt (d.spad.readLE (wp + 4) 4) r.toNat) ∧
            d.gen = w 8 ∧ d.nreq = (w 0x10).setWidth 9 ∧ d.ctl.vl = 32 ∧ d.ctl.mode = (if (w 0x50).getLsbD 0 then .system else .user) ∧
            d.ctl.bg = w 0x88 ∧ d.ctl.dl = w 0x90 ∧ d.ctl.lcn = w 0xA0 ∧ d.ctl.seed = w 0xA8 ∧
            (∀ q ∈ [1, 2, 3, 4], (d.queue q).elems = (List.range (min 32 (i.record.readLE (0x6005F + q) 1))).map fun k =>
              i.record.dword (0x60080 + 256 * (q - 1) + 8 * k)) ∧
            d.timetable = (List.range (min 512 (d.spad.readLE (i.csb + 2) 2))).map (fun k => w (0xA00 + 8 * k)) ∧
            (d.spad.readLE i.csb 1 = 0 → d.armed = [] ∧ d.fired = [] ∧ d.wake = (w 0x10).getLsbD 9 ∧ d.events ++ d.eventsWaiting = i.events ∧
              ((d.queue 4).cmds.map fun x => x.pushed) = (List.range (min 32 (i.record.readLE 0x60064 1))).map (fun k =>
                BitVec.ofNat 256 (i.record.readLE (0x60480 + 32 * k) 32)) ∧
              ∀ (k : Nat) (h : k < 16), let v := (w (0x180 + 8 * k)).toNat % 2 ^ 32 + i.incs.count (BitVec.ofNat 4 k)
                d.ctrs[k].value.toNat = min v 0xFFFFFFFF ∧ d.ctrs[k].sat = (if 2 ^ 32 ≤ v then 1 else (w (0x180 + 8 * k)).extractLsb' 32 1)))

/-- R402, R403, R405: TTLOAD reads its member's directory entry and timetable from the team's memory and keeps it; the next flit of a team in the order of
cycles is executed once TB has reached its cycle: a send puts the 64 bytes on the port's link, the other actions take the flit that arrives on
their port in that cycle and store it, add it to the 64 bytes of their place, or send it on. That the flits of a team act in the order of their
cycles, each once TB has reached its cycle, is the model's choice (log entry 42, DESIGN CHOICE). -/
def Obligations.Timetables : Prop :=
  ∀ (s : State),
    (∀ (a : Reg) (m : Team), s.issuesAlone [a] [] → s.ownTeam = some m → m.trec.ttp ≠ 0 → (s.core.reg a).toNat ≤ 255 → s.core.phaseOpen = false →
      s.earlierDone s.core.pcn = true →
      let entry := m.trec.ttp.toNat + 16 * ((s.core.reg a).toNat * m.trec.size + s.core.ctl.lcn.toNat)
      let own (va : Nat) : Prop := va % 8 = 0 ∧ 2 ^ 32 ≤ va ∧ va < 2 ^ 57 ∧ nodeOf va = s.core.ctl.node.toNat
      own entry → ∀ u d w v, s.engReadRange s.core.pcn entry 16 = .ok u d →
        let va := d % 2 ^ 64
        let n := d / 2 ^ 64 % 2 ^ 32
        let es : List (BitVec 64) := (List.range n).map fun i => BitVec.ofNat 64 (v / 2 ^ (64 * i))
        own va ∨ va = 0 ∧ n = 0 → n ≤ 512 → d / 2 ^ 96 % 2 ^ 32 = 0 → u.engReadRange s.core.pcn va (8 * n) = .ok w v → (∀ e ∈ es, ttEntryOk e = true) →
        es.Pairwise (fun x y => ttOff x ≤ ttOff y) → exec (.ttload a) s = .next { w with core := { w.core.doneFrom with timetable := es } }) ∧
    ∀ (p e i j : Nat) (m : Team) (en : BitVec 64), s.siteTeam p = some (m, j) →
      let c := s.getCore p
      let cyc := ttOff en + i
      let now := m.rel.toNat + cyc
      let place := 64 * (ttAddr en + i)
      c.timetable[e]? = some en → (e, i) ∈ c.ttPending → m.status = .resident ∨ m.status = .leaving → m.stopped = false → c.finished = false →
      (∃ b, c.phase = .running b) → (∀ k ∈ s.liveMembers m, ∀ x ∈ k.ttPending, cyc ≤ k.ttCycle x) → now ≤ s.tb.toNat → s.stray m now = none →
      Core.ttCollision { c with ttDone := (e, i) :: c.ttDone } e cyc i en = false → c.badWord place 64 = none →
      let u := s.modCore p fun k => { k with ttDone := (e, i) :: k.ttDone }
      let runs (t : State) : Prop := exec (.timetableFlit p e i) s = .next t
      let sends (t : State) (port when_ : Nat) (d : Line) (q : Nat × Nat) : State :=
        { t with flits := t.flits ++ [⟨m.slot, m.gen, c.parity, q.1, opposite port, when_ + q.2, d, p, e⟩] }
      let met := c.softWords place 64
      (ttAct en = 0 → ∀ q, linkOf p (ttPort en) = some q → runs (sends (u.heal met) (ttPort en) now (c.spad.line place) q)) ∧
      ∀ f, (linkOf p (ttPort en)).isSome = true →
        s.flits.find? (fun f => f.slot == m.slot && f.gen == m.gen && f.dst == p && f.port == ttPort en && f.due == now) = some f → f.parity = c.parity →
        let taken : State := { u with flits := u.flits.filter fun x => x != f }
        let sum : Line := (lineAdd (addKind (ttFmt en)) (c.spad.line place) f.data).1
        (ttAct en = 1 → c.stationary place = false → runs (taken.modCore p fun k => k.pokeLE place 64 f.data.toNat)) ∧
        (ttAct en = 3 → c.stationary place = false → runs ((taken.heal met).modCore p fun k => k.pokeLE place 64 sum.toNat)) ∧
        (∀ q, linkOf p (opposite (ttPort en)) = some q → (ttAct en = 2 → runs (sends (taken.heal met) (opposite (ttPort en)) (now + 1) sum q)) ∧
          (ttAct en = 4 → runs (sends taken (opposite (ttPort en)) (now + 1) f.data q)))

/-- R418, R419, R205, R206, R219, R227, R260, R444: at a boundary of a core whose chunk has gone, the interrupt of the order timetable trap, pre-empt, timer, event is entered
as a trap, with EPC after a WFE that waits, else at the next instruction (a pre-empt one not while the member's phase runs, nor at a site that is placed
until its TAKE returns); the budget trap likewise, once no interrupt comes before it (R260); the timer interrupt is raised once in a user-mode slice
whose deadline TB has reached; a fired push enters its queue when a slot is free and R144 does not stall it; the scrubber reads its next granule,
corrects and counts, or logs. That a pre-empting entry is held at a site that is placed until its TAKE returns is the model's choice
(Core.preemptReady; log entry 81, DEDUCED), and so is that the budget trap waits for user mode (log entry 38, DEDUCED). -/
def Obligations.CoreEvents : Prop :=
  ∀ (s : State) (p : Nat),
    let t := s.select p
    let c := s.getCore p
    let ready := c.run = .running ∧ c.acked = false ∧ c.sent = false ∧ c.out = none ∧ c.closing = false ∧ c.chunk = none
    let held := c.inPhase = true ∨ c.reserved.isSome = true ∧ c.slice = .none
    (ready → c.wp ≠ c.twp → ∀ cause tval,
      (cause = 0x0A ∧ c.irq.tt = some tval) ∨
      (c.irq.tt = none ∧ c.inBar = false ∧
        ((cause = 0x20 ∧ ¬held ∧ ∃ k, c.irq.preempt = some (k, false) ∧ tval = BitVec.ofNat 64 k) ∨
          ((held ∨ ∀ k, c.irq.preempt ≠ some (k, false)) ∧
            ((cause = 0x21 ∧ c.irq.timer = true ∧ tval = c.ctl.dl) ∨
              (c.irq.timer = false ∧ cause = 0x22 ∧ c.irq.event = true ∧ tval = BitVec.ofNat 64 c.events.length))))) →
      let d : Core := { c with
        phase := if c.phase = .arrived false then .idle else c.phase
        leftBar := c.leftBar || c.inBar
        vprog := if c.waiting then 0 else c.vprog
        ctl := if c.waiting then { c.ctl with ret := c.ctl.ret + 1 } else c.ctl
        msendw := none, fence := none
        irq := if cause = 0x0A then { c.irq with tt := none } else if cause = 0x20 then { c.irq with preempt := c.irq.preempt.map fun k => (k.1, true), entered := true }
          else if cause = 0x21 then { c.irq with timer := false } else { c.irq with event := false } }
      t.trapReady cause → ∃ u : State, exec (.interruptEntry p) s = .next (u.select s.core.pcn) ∧
        trapTaken { t with core := d } u cause tval (if c.waiting then c.pc + 4 else c.pc)) ∧
    (t.intReady = true → exec (.budgetExhausted p) s = .next (t.select s.core.pcn)) ∧
    (ready → t.intReady = false → c.irq.budget = true → c.ctl.mode = .user → c.inBar = false → t.trapReady 0x07 → ∃ u : State,
      exec (.budgetExhausted p) s = .next (u.select s.core.pcn) ∧ trapTaken { t with core := { c with
        phase := if c.phase = .arrived false then .idle else c.phase, msendw := none, fence := none, irq := { c.irq with budget := false } } } u 0x07 0 c.pc) ∧
    (c.run = .running → c.slice ≠ .none → c.ctl.mode = .user → c.irq.timerTaken = false → c.ctl.dl.toNat ≤ s.tb.toNat →
      exec (.timer p) s = .next (s.modCore p fun c => { c with irq := { c.irq with timer := true, timerTaken := true } })) ∧
    (s.tb.toNat < c.ctl.dl.toNat ∨ c.irq.timerTaken = true ∨ c.slice = .none ∨ c.ctl.mode = .system → exec (.timer p) s = .next s) ∧
    (∀ i q k rest, c.fired = (i, q, k) :: rest → q < 5 →
      let enters := c.room q k = true ∧ ∀ r ∈ k.spans, c.ttStall true r.1 r.2 = false
      (c.acked = true → exec (.triggerPush p) s = .next s) ∧
      (c.acked = false → enters → ∃ e : Core, exec (.triggerPush p) s = .next (s.putCore e) ∧ e = { c with qs := e.qs, fired := rest, pushed := c.pushed + 1 } ∧
        e.queue q = { c.queue q with cmds := (c.queue q).cmds ++ [{ k with num := c.pushed }] } ∧ ∀ j, j ≠ q → e.queue j = c.queue j) ∧
      (c.acked = false → ¬enters → exec (.triggerPush p) s = .next (s.putCore c))) ∧
    (t.rangeBusy (64 * c.scrub) 64 = false →
      let here (e : Nat × Bool) : Bool := !e.2 && decide (8 * c.scrub ≤ e.1) && decide (e.1 < 8 * c.scrub + 8)
      let rest (u : State) : State := State.modCore { u with corrected := u.corrected + (c.ecc.filter here).length } p fun c => { c with
        scrub := if c.scrub + 1 < 6144 then c.scrub + 1 else 0
        ecc := c.ecc.filter fun e => !here e }
      (c.badWord (64 * c.scrub) 64 = none → exec (.scrubStep p) s = .next (rest s)) ∧
      ∀ w, c.badWord (64 * c.scrub) 64 = some w → exec (.scrubStep p) s = .next (rest (s.logError p 0 5 (BitVec.ofNat 64 w) 0)))

/-- R96, R199, R200, R212, R228, R396, R397, R429, R430, R434 to R437: a launch record of its kind, well formed and in its state, is performed at LQHEAD and its outcome written; START
prepares every core as the header says and enters state 3, one that fails leaves state 2; TASK and TEAM insert their record in the package queue; STOP pre-empts every core that
runs user work, QUIESCENT enters state 5 when none does, END writes the dirty lines back, empties every cache, counts the contributions that no window has
claimed and enters state 2. A launch from the rack is
answered; a residency report gives the counts; each goes through a port that negotiated it (R439). The model's choices here: the counters and caches
of START, the order of its checks and its waiting records (log entry 47, DEDUCED), the generator of a core at START (log entry 96, DESIGN CHOICE), that END discards
what other nodes have queued at a Mule without a reply (log entry 89, DESIGN CHOICE) and its waiting notices without a count (log entry 93, DESIGN CHOICE), that a LAUNCH is accepted in states 3 to 5 (log entry 49,
DEDUCED), and which teams a report counts as resident (log entry 54, DEDUCED). -/
def Obligations.ContextLife : Prop :=
  ∀ (s : State),
    let slot := s.mgmt.lqhead.toNat % 64
    let field (o n : Nat) : Nat := s.mgmt.lq.readLE (128 * slot + o) n
    let bytes (o n : Nat) : Prop := ∀ i, i < n → s.mgmt.lq.read (128 * slot + o + i) = 0
    let kind := field 0 1
    let wrote (u t : State) (k st : Nat) : Prop := ∃ lo, t = State.out { u with mgmt := { u.mgmt with lqout := lo, lqhead := u.mgmt.lqhead + 1 } } (.msix 1) ∧
      lo.find? (fun x => x.1 == slot) = some (slot, BitVec.ofNat 64 (u.mgmt.ctxg.toNat * 2 ^ 48 + st * 256 + k))
    let pending := s.mgmt.lqhead ≠ s.mgmt.doorbell ∧ s.initial = [] ∧ s.mgmt.state ≠ 4
    let ev : Instr := if kind = 2 then .task else if kind = 3 then .team else if kind = 4 then .stop else if kind = 5 then .endCtx else .start
    let wellFormed := 1 ≤ kind ∧ kind ≤ 5 ∧ bytes 1 7 ∧ bytes 0x18 40 ∧ (kind ≠ 1 → bytes 8 16) ∧ (kind = 2 → bytes 0x60 32) ∧ (kind ≠ 2 → kind ≠ 3 → bytes 0x40 64)
    (pending → ¬wellFormed → ∃ t, exec ev s = .next t ∧ wrote s t kind 1) ∧
    (pending → wellFormed → s.mgmt.state ≠ (if kind = 1 then 2 else if kind = 5 then 5 else 3) → ∃ t, exec ev s = .next t ∧ wrote s t kind 2) ∧
    (pending → wellFormed → s.mgmt.state = 2 → kind = 1 →
      let lhp := field 16 8
      let root := field 8 8 / 65536 % 2 ^ 40
      let u : State := { s with mgmt := { s.mgmt with root := BitVec.ofNat 40 root, ctxg := s.mgmt.ctxg + 1, prlate := 0, mdrop := 0, fpdrop := 0, nmlate := 0 }, ended := false }
      (0xB270000000 ≤ root * 4096 ∨ lhp % 64 ≠ 0 ∨ lhp < 2 ^ 32 → ∃ t, exec .start s = .next t ∧
        wrote (State.logError { u with l2 := [], tlb := [] } 0x7FF 0 4 (BitVec.ofNat 64 lhp) 0) t 1 3) ∧
      (root * 4096 < 0xB270000000 → ∀ v x, u.prepareStart lhp = .ok v x → x.recs = [] → ∃ t w, exec .start s = .next t ∧ wrote w t 1 0 ∧
        w.mgmt = { u.mgmt with state := 3, errlog := w.mgmt.errlog, errhead := w.mgmt.errhead } ∧ w.dram = v.dram ∧ w.header = headerOf x.head ∧ w.initial = [] ∧
        ∀ p, p < 1536 → s.core.pcn < 1536 →
          let c := t.getCore p
          let seed : Word := BitVec.ofNat 64 (x.head / 2 ^ 64 % 2 ^ 64)
          let boot := x.head / 2 ^ 160 % 2 ^ 32
          let iws := x.head / 2 ^ 288 % 2 ^ 32
          c.pcn = p ∧ c.run = .running ∧ c.spad = x.spad ∧ c.pc = BitVec.ofNat 64 (if boot = 0 then x.head / 2 ^ 128 % 2 ^ 32 else boot) ∧ c.ctl.mode = .system ∧
            c.ctl.seed = seed ∧ c.gen = seed ∧ c.ctl.lhp = BitVec.ofNat 64 lhp ∧ c.ctl.node = s.mgmt.nodew ∧ c.pend = 0 ∧ c.pois = 0 ∧
            (iws % 512 = 0 → iws ≤ 0x5FE00 → c.wp = if iws = 0 then 0x8400 else iws) ∧ c.slice = .none ∧ c.ctl.vl = 32)) ∧
    (pending → wellFormed → s.mgmt.state = 3 →
      (kind = 2 →
        let r := taskOf (field 0x40 32)
        (s.taskOk r = false → ∃ t, exec .task s = .next t ∧ wrote s t 2 4) ∧
        (s.taskOk r = true → s.accepts .package = true → ∃ t, exec .task s = .next t ∧ wrote (s.insertBody .package (.task r) 0x7FF) t 2 0)) ∧
      (kind = 3 →
        let v := field 0x40 64
        (s.teamOk v = false → ∃ t, exec .team s = .next t ∧ wrote s t 3 4) ∧
        (s.teamOk v = true → s.accepts .package = true → ∃ t, exec .team s = .next t ∧ wrote (s.insertBody .package (.team (teamOf v)) 0x7FF) t 3 0)) ∧
      (kind = 4 → ∃ t : State, exec .stop s = .next t ∧ t.mgmt = { s.mgmt with state := 4 } ∧ t.dram = s.dram ∧ t.queues = s.queues ∧
        (∀ c ∈ t.cores, c.marked = none) ∧ ∀ q : Nat, let c := s.getCore q
          let d := t.getCore q
          d.regs = c.regs ∧ d.spad = c.spad ∧ d.pc = c.pc ∧ (c.slice = .plain → c.run = .running → d.irq.preempt = some (match c.irq.preempt with
            | some (3, taken) => (3, taken)
            | _ => (3, false))))) ∧
    (pending → wellFormed → s.mgmt.state = 5 → kind = 5 → s.seqQueue = [] → s.dramBad = [] → (∀ l ∈ s.l2, l.bad = false) → ∃ t w : State, exec .endCtx s = .next t ∧ wrote w t 5 0 ∧
      w.mgmt = { s.mgmt with state := 2, fpdrop := s.mgmt.fpdrop + BitVec.ofNat 64 ((s.mules.map fun m => m.parked.length).sum + s.folds.length) } ∧ w.mules = [] ∧ w.folds = [] ∧ w.l2 = [] ∧ w.tlb = [] ∧ w.parks = [] ∧
      w.teams = [] ∧ w.queues = [] ∧ w.mails = [] ∧ w.ended = true ∧ w.hostMem = s.hostMem ∧ (∀ l, s.l2 = [l] → l.dirty = true → w.dram.line (dramFlat l.pa / 64 * 64) = l.data) ∧
      ((∀ l ∈ s.l2, l.dirty = false) → w.dram = s.dram) ∧ ∀ c ∈ w.cores, c.run = .noContext ∧ c.l1 = [] ∧ c.chunk = none) ∧
    (s.mgmt.state = 4 → s.isQuiescent = true → ∃ t, exec .quiescent s = .next t ∧ wrote { s with mgmt := { s.mgmt with state := 5 } } t 4 0) ∧
    (∀ (team : Bool) (packet : Line),
      let v := packet.toNat
      let wid : Word := BitVec.ofNat 64 v
      let ok := if team then s.teamOk v else s.taskOk (taskOf v)
      (s.anyPort 4 = false → exec (.zfpLaunch team packet) s = .next s) ∧
      (s.anyPort 4 = true → s.mgmt.state.toNat < 3 → exec (.zfpLaunch team packet) s = .next (s.out (.launchAnswer false wid 0x0A 0))) ∧
      (s.anyPort 4 = true → 3 ≤ s.mgmt.state.toNat → ok = false → exec (.zfpLaunch team packet) s = .next (s.out (.launchAnswer false wid 0x0B s.mgmt.ctxg))) ∧
      (s.anyPort 4 = true → 3 ≤ s.mgmt.state.toNat → ok = true → s.accepts .package = true → s.initial = [] → exec (.zfpLaunch team packet) s = .next
        ((s.insertBody .package (if team then .team (teamOf v) else .task (taskOf v)) 0x7FE).out (.launchAnswer true wid 0 s.mgmt.ctxg)))) ∧
    let idle := (List.range 1536).countP s.idle
    let here := s.teams.countP Team.placedNow
    (s.anyPort 8 = false → exec .residencyReport s = .next s) ∧ (s.anyPort 8 = true → exec .residencyReport s = .next (s.out (.residency
      (BitVec.ofNat 64 (s.mgmt.ctxg.toNat * 2 ^ 48 + idle * 2 ^ 37 + here * 2 ^ 30 + (s.teams.length - here) * 2 ^ 23 + (s.queue .package).entries.length * 2 ^ 9))
      (BitVec.ofNat 64 s.spill.length) (BitVec.ofNat 64 ((List.range 4).map fun d => (s.queue (.die d)).entries.length).sum))))

/-- R432 to R434, R438, R439, R441, R442, R445, R446: an error record goes to its slot, ERRHEAD grows and vector 0 is signalled; a doorbell at most 64 ahead is taken, another is
logged; a write of a management register changes that register, if its state lets it; a link comes up with the partner's features, or is logged for another
major version; a port that goes down is logged, and the writes under way on it park in the order of their sending; power brings the device up as far as verification and training let it, and trains its ports; measurements are
answered once measured; the health record is kept every 2^47 cycles; BAR0 reads give ID and STATE in every state and zero where the table lists
nothing; a thermal trip at 110 °C is logged and removes the power. The model's choices here: that an unaligned or untimely write has no effect and
that values out of range are kept (log entry 48, DEDUCED), what becomes of writes on their way through a port that goes down (log entry 51,
DEDUCED), and what power brings back (log entry 52, DEDUCED). -/
def Obligations.Management : Prop :=
  ∀ (s : State),
    (∀ pcn cause type addr epc, let t := s.logError pcn cause type addr epc
      let n := s.mgmt.errhead.toNat % 64
      t.mgmt.errhead = s.mgmt.errhead + 1 ∧ t.outputs = s.outputs ++ [.msix 0] ∧
        t.mgmt.errlog.find? (fun x => x.1 == n) = some (n, ⟨if s.mgmt.state.toNat < 3 then 0 else s.mgmt.ctxg, BitVec.ofNat 11 pcn, cause, type, addr, epc, s.tb⟩) ∧
        (∀ k, k ≠ n → t.mgmt.errlog.find? (fun x => x.1 == k) = s.mgmt.errlog.find? fun x => x.1 == k) ∧
        t = { s with outputs := t.outputs, mgmt := { s.mgmt with errlog := t.mgmt.errlog, errhead := t.mgmt.errhead } }) ∧
    (∀ v : BitVec 16, s.mgmt.state ≠ 0 →
      ((v - s.mgmt.lqhead).toNat ≤ 64 → exec (.doorbell v) s = .next { s with mgmt := { s.mgmt with doorbell := v } }) ∧
      (64 < (v - s.mgmt.lqhead).toNat → ∃ a, exec (.doorbell v) s = .next (State.logError { s with free := s.free + 1 } 0x7FF 0 6 a 0))) ∧
    (∀ (off : BitVec 16) (v : Word), s.mgmt.state ≠ 0 →
      let m := s.mgmt
      let wrote (x : Mgmt) : Prop := exec (.mgmtRegisterWrite off v) s = .next { s with mgmt := x }
      (off.toNat % 8 ≠ 0 → wrote m) ∧ (off = 0x30 → wrote { m with prien := v.setWidth 1 }) ∧ (off = 0x198 → wrote { m with pcap := v &&& 0xFFFF }) ∧
      (m.state = 2 → (off = 0x10 → wrote { m with nodew := v.setWidth 9 }) ∧ (off = 0x100 → wrote { m with quantum := v }) ∧ (off = 0x108 → wrote { m with pqsb := v }) ∧
        (off = 0x110 → wrote { m with pqsn := v }) ∧ (off = 0x118 → wrote { m with rper := v })) ∧
      (m.state ≠ 2 → off ∈ ([0x10, 0x100, 0x108, 0x110, 0x118] : List (BitVec 16)) → wrote m) ∧
      (off.toNat % 8 = 0 → 0x2000 ≤ off.toNat → off.toNat < 0x4000 → ∃ q : Memory, wrote { m with lq := q } ∧ q.dword (off.toNat - 0x2000) = v ∧
        ∀ a, a < off.toNat - 0x2000 ∨ off.toNat - 0x2000 + 8 ≤ a → q.read a = m.lq.read a) ∧
      (off.toNat % 8 = 0 → 0x8000 ≤ off.toNat → off.toNat < 0x9000 → ∃ r, wrote { m with route := r } ∧
        ∀ k, (r.find? fun x => x.1 == k).map (·.2) = if k = (off.toNat - 0x8000) / 8 then some (v &&& 0xFFF) else (m.route.find? fun x => x.1 == k).map (·.2))) ∧
    (∀ n (version : BitVec 16) (features : Word), n < 12 → (s.port n).up = false → 2 ≤ s.mgmt.state.toNat →
      (version.toNat / 256 = 1 → exec (.linkUp n version features) s = .next { s with ports := s.ports.setIfInBounds n ⟨true, 0x0100, features &&& 0x1F⟩ }) ∧
      (version.toNat / 256 ≠ 1 → exec (.linkUp n version features) s = .next (s.logError 0x7FF 0 7 (BitVec.ofNat 64 n) 0))) ∧
    (∀ n, n < 12 → (s.port n).up = true → ∃ t, exec (.portDown n) s = .next t ∧ (t.port n).up = false ∧ (∀ k, k ≠ n → t.port k = s.port k) ∧
      t.dram = s.dram ∧
      ((∀ w ∈ s.remoteWrites, w.port = some n → w.sys = false ∧ s.ended = false ∧ w.owner.ctxg = s.mgmt.ctxg) → (∀ x ∈ s.nmFlight, x.port ≠ some n) →
        (∀ c ∈ s.cores, c.outPort ≠ some n) → s.parkCount 1536 + (s.remoteWrites.filter fun w => w.port == some n).length ≤ 64 →
        t.parks = s.parks ++ (s.remoteWrites.filter fun w => w.port == some n).map (fun w => ⟨1536, w.access, w.owner, ⟨0x43, 0x09, 0⟩, 0⟩) ∧
        t.remoteWrites = s.remoteWrites.filter fun w => w.port != some n) ∧
      ((∀ w ∈ s.remoteWrites, w.port ≠ some n) → (∀ x ∈ s.nmFlight, x.port ≠ some n) → (∀ c ∈ s.cores, c.outPort ≠ some n) →
        t = State.logError { s with ports := s.ports.setIfInBounds n ⟨false, 0, 0⟩ } 0x7FF 0 7 (BitVec.ofNat 64 n) 0)) ∧
    (∀ fw verified trained, ∃ t, exec (.powerGood fw verified trained) s = .next t ∧ t.powered = true ∧ t.dram = [] ∧ t.hostMem = s.hostMem ∧ t.firmware = fw ∧
      t.measured = verified ∧ t.mgmt.state = (if verified then (if trained then 2 else 1) else 0) ∧ (∀ p, t.getCore p = State.reset.getCore p) ∧
      let other (n : Nat) : Bool := decide ((s.partners.getD n (0, 0)).1.toNat / 256 ≠ 1)
      t.mgmt.errhead = (if verified then if trained then BitVec.ofNat 32 ((List.range 12).countP other) else 1 else 0) ∧
      ∀ n, n < 12 → t.port n = if verified = true ∧ trained = true ∧ other n = false then ⟨true, 0x0100, (s.partners.getD n (0, 0)).2 &&& 0x1F⟩ else ⟨false, 0, 0⟩) ∧
    (∀ i, 1 ≤ i → i ≤ 4 → s.measured = true → ∃ a b, exec (.spdmRequest i) s = .next ({ s with free := s.free + 1 }.out (.spdm i a b))) ∧
    (∀ (x : BitVec 8) (months : BitVec 16), x.toNat ≤ 3 →
      (s.tb.toNat < s.eolNext → exec (.eolUpdate x months) s = .next s) ∧
      (s.eolNext ≤ s.tb.toNat → exec (.eolUpdate x months) s = .next { s with eolNext := s.eolNext + 2 ^ 47, mgmt := { s.mgmt with
        eol := BitVec.ofNat 64 (x.toNat * 65536 + if s.tb.toNat < 30 * 24 * 3600 * 1900000000 then 0xFFFF else months.toNat) } })) ∧
    s.barRead 0 = s.out (.barData 0 0x0000000100001648) ∧
    s.barRead 8 = s.out (.barData 8 (s.mgmt.state.setWidth 64)) ∧
    (∀ off, off % 8 = 0 → 0x9000 ≤ off → off < 0x10000 → s.barRead off = if s.mgmt.state = 0 then s else s.out (.barData off 0)) ∧
    (s.mgmt.therm.toNat % 65536 < 1760 → exec .thermalTrip s = .next s) ∧
    (1760 ≤ s.mgmt.therm.toNat % 65536 → ∃ a, exec .thermalTrip s = .next { State.logError { s with free := s.free + 1 } 0x7FF 0 8 a 0 with powered := false })

/-- R254 to R258 and the encodings of chapters 11 to 18: words that the spec works out from its tables decode to their instructions, and words
that break a rule are refused by its name. -/
def Obligations.DecodeWords : Prop :=
  (∀ p ∈ ([
    (0x00000001, .nop), (0x00090004, .upret 9), (0x0C642800, .add 3 4 5), (0xBC642806, .vadd 3 4 5 0 1 1 0), (0x04E00040, .crd 7 0x040), (0x08050004, .cwr 5 0x004),
    (0x3484_0007, .lis 4 4 7), (0x3CC42800, .gaddr 6 4 5), (0x4803FFFC, .bne 0 3 0xFFFC), (0x60000040, .jal 0x40), (0x64010000, .jalr 0 1 0),
    (0x74A70000, .ldd 5 7 0), (0x90850008, .std 4 5 8), (0x94A70007, .lda 5 7 0 1 3), (0x98062803, .str 6 5 0 3), (0x9C0F7030, .amoAdd 0 15 14 1 1),
    (0xA1281801, .cas 9 8 3 1), (0xA4085003, .inv 8 10), (0xA8642F02, .fmul 3 4 5 7), (0xAC642980, .fma 3 4 5 6 0), (0xB0642800, .tadd 3 4 5 0), (0xB1070045, .tcls 8 7 2),
    (0xB8641190, .cvt 3 4 1 0 1 9 0), (0xD00A0000, .qpush 10 0), (0xD580F000, .qpop 12 15), (0xD8C40046, .widf 6 4 2), (0xDC042984, .armPush 4 5 3), (0xDCC40187, .waitc 6 4 3),
    (0xE0C42801, .msendw 6 4 5), (0xE4C40021, .nmresAbandon 6 4)] : List (BitVec 32 × Instr)),
    decode p.1 = .ok p.2 ∧ decodeTableWord 32 p.1.toNat = some p.2) ∧
  ∀ p ∈ ([(0x00000000, .reservedMinor), (0x00090804, .nonzeroField), (0x0C642813, .reservedMinor), (0xBC64285E, .badFormat), (0xEC000000, .reservedMajor),
    (0x04E00050, .badIndex), (0x08050000, .badIndex), (0xFFFFFFFF, .reservedMajor)] : List (BitVec 32 × Reject)),
    decode p.1 = .error p.2 ∧ decodeTableWord 32 p.1.toNat = none

/-- R17, R31, R113, R251, R252: no instruction that leaves its core in user mode changes XB, TV, TWP, UV, CAUSE, TVAL, EPC, a region of the local protection unit,
NODE or LHP, whatever its operands: what a user-mode program may reach is decided in system mode alone. -/
def Obligations.PrivilegeKept : Prop :=
  ∀ (s t : State) (i : Instr), i.wf = true → (encode i).isSome = true → s.core.ctl.mode = .user → exec i s = .next t → t.core.ctl.mode = .user →
    let a := s.core.ctl
    let b := t.core.ctl
    t.core.pcn = s.core.pcn ∧ b.xb = a.xb ∧ b.tvb = a.tvb ∧ b.twa = a.twa ∧ b.uws = a.uws ∧ b.upc = a.upc ∧ b.cause = a.cause ∧ b.tval = a.tval ∧ b.epc = a.epc ∧
      b.lpb = a.lpb ∧ b.lpl = a.lpl ∧ b.node = a.node ∧ b.lhp = a.lhp

end
end

