-- ==== Sys2Proof/Laws/Mem.lean ====
section
/-! SUPPORT. The laws of memories: a read after a write, and the canonical form that every write keeps. -/

namespace Sys2Proof.Machine

/-! ## Reading parts of a list -/

theorem Memory.read_append (m n : Memory) (x : Nat) :
    Memory.read (m ++ n) x = if x ∈ m.map Prod.fst then m.read x else n.read x := by
  induction m with
  | nil => simp
  | cons c m ih =>
    obtain ⟨k, v⟩ := c
    simp only [List.cons_append, Memory.read, List.map_cons, List.mem_cons]
    by_cases h : k = x
    · simp [h]
    · have h' : ¬x = k := fun e => h e.symm
      simp [h, h', ih]

theorem Memory.read_of_not_mem (m : Memory) (x : Nat) (h : x ∉ m.map Prod.fst) : m.read x = Memory.unlisted := by
  induction m with
  | nil => rfl
  | cons c m ih =>
    obtain ⟨k, v⟩ := c
    simp only [List.map_cons, List.mem_cons, not_or] at h
    have h' : ¬k = x := fun e => h.1 e.symm
    simp [Memory.read, h', ih h.2]

theorem Memory.read_filter (m : Memory) (p : Nat → Bool) (x : Nat) (h : p x = true) :
    Memory.read (m.filter fun c => p c.1) x = m.read x := by
  induction m with
  | nil => rfl
  | cons c m ih =>
    obtain ⟨k, v⟩ := c
    by_cases hk : k = x
    · subst hk; simp [h, Memory.read]
    · by_cases hp : p k = true
      · simp [hp, Memory.read, hk, ih]
      · simp [hp, Memory.read, hk, ih]

theorem Memory.not_mem_filter (m : Memory) (p : Nat → Bool) (x : Nat) (h : p x = false) :
    x ∉ (m.filter fun c => p c.1).map Prod.fst := by
  intro hx
  obtain ⟨c, hc, rfl⟩ := List.mem_map.1 hx
  simp [h] at hc

theorem Memory.mem_cells {a x : Nat} {bs : List Byte} (h : x ∈ (Memory.cells a bs).map Prod.fst) : a ≤ x ∧ x < a + bs.length := by
  induction bs generalizing a with
  | nil => simp [Memory.cells] at h
  | cons b bs ih =>
    simp only [Memory.cells] at h
    split at h
    · have := ih h; simp; omega
    · simp only [List.map_cons, List.mem_cons] at h
      rcases h with h | h
      · simp; omega
      · have := ih h; simp; omega

theorem Memory.read_cells (a x : Nat) (bs : List Byte) :
    (Memory.cells a bs).read x = if a ≤ x then bs.getD (x - a) Memory.unlisted else Memory.unlisted := by
  induction bs generalizing a with
  | nil => simp [Memory.cells, Memory.read]
  | cons b bs ih =>
    simp only [Memory.cells]
    split
    · rename_i hb
      rw [ih]
      by_cases h : a = x
      · subst h; simp [hb]
      · by_cases h' : a ≤ x
        · have e : x - a = (x - (a + 1)) + 1 := by omega
          rw [if_pos (by omega), if_pos h', e, List.getD_cons_succ]
        · rw [if_neg (by omega), if_neg h']
    · rename_i hb
      simp only [Memory.read]
      by_cases h : a = x
      · subst h; simp
      · rw [if_neg h, ih]
        by_cases h' : a ≤ x
        · have e : x - a = (x - (a + 1)) + 1 := by omega
          rw [if_pos (by omega), if_pos h', e, List.getD_cons_succ]
        · rw [if_neg (by omega), if_neg h']

/-! ## A read after a write -/

theorem Memory.read_append_right {m n : Memory} {x : Nat} (h : x ∉ m.map Prod.fst) : Memory.read (m ++ n) x = n.read x := by
  rw [Memory.read_append, if_neg h]

theorem Memory.read_append_left {m n : Memory} {x : Nat} (h : x ∉ n.map Prod.fst) : Memory.read (m ++ n) x = m.read x := by
  rw [Memory.read_append]
  split
  · rfl
  · rename_i hm
    rw [Memory.read_of_not_mem _ _ h, Memory.read_of_not_mem _ _ hm]

/-- A byte after a block has been written: the block's byte inside it, the old byte outside. -/
theorem Memory.read_writeBlock (m : Memory) (a x : Nat) (bs : List Byte) :
    (m.writeBlock a bs).read x = if a ≤ x ∧ x < a + bs.length then bs.getD (x - a) Memory.unlisted else m.read x := by
  have low : ¬x < a → x ∉ (m.filter fun c => decide (c.1 < a)).map Prod.fst := fun h =>
    Memory.not_mem_filter m (fun k => decide (k < a)) x (by simpa using h)
  have mid : ¬(a ≤ x ∧ x < a + bs.length) → x ∉ (Memory.cells a bs).map Prod.fst := fun h hx => h (Memory.mem_cells hx)
  have high : x < a + bs.length → x ∉ (m.filter fun c => decide (a + bs.length ≤ c.1)).map Prod.fst := fun h =>
    Memory.not_mem_filter m (fun k => decide (a + bs.length ≤ k)) x (by simpa using h)
  unfold Memory.writeBlock
  by_cases h1 : x < a
  · rw [Memory.read_append_left (high (by omega)), Memory.read_append_left (mid (by omega)), if_neg (by omega)]
    exact Memory.read_filter m (fun k => decide (k < a)) x (by simpa using h1)
  · by_cases h2 : x < a + bs.length
    · rw [Memory.read_append_left (high h2), Memory.read_append_right (low h1), Memory.read_cells, if_pos (by omega), if_pos ⟨by omega, h2⟩]
    · rw [List.append_assoc, Memory.read_append_right (low h1), Memory.read_append_right (mid (by omega)), if_neg (by omega)]
      exact Memory.read_filter m (fun k => decide (a + bs.length ≤ k)) x (by simpa using h2)

/-- A write leaves every byte outside its block. -/
theorem Memory.read_writeBlock_outside (m : Memory) (a x : Nat) (bs : List Byte) (h : x < a ∨ a + bs.length ≤ x) :
    (m.writeBlock a bs).read x = m.read x := by
  rw [Memory.read_writeBlock, if_neg (by omega)]

theorem Memory.read_write (m : Memory) (a x : Nat) (b : Byte) : (m.write a b).read x = if x = a then b else m.read x := by
  unfold Memory.write
  rw [Memory.read_writeBlock]
  by_cases h : x = a
  · subst h; simp
  · rw [if_neg h, if_neg (by simp; omega)]

@[simp] theorem length_bytesOf (n v : Nat) : (bytesOf n v).length = n := by
  induction n generalizing v with
  | zero => rfl
  | succ n ih => simp [bytesOf, ih]

theorem bytesOf_getD (n v i : Nat) (h : i < n) : (bytesOf n v).getD i Memory.unlisted = BitVec.ofNat 8 (v / 256 ^ i) := by
  induction n generalizing v i with
  | zero => omega
  | succ n ih =>
    cases i with
    | zero => simp [bytesOf]
    | succ i =>
      rw [bytesOf, List.getD_cons_succ, ih _ _ (by omega), Nat.div_div_eq_div_mul, pow_succ, Nat.mul_comm]

theorem ofBytes_bytesOf (n v : Nat) : ofBytes (bytesOf n v) = v % 256 ^ n := by
  induction n generalizing v with
  | zero => simp [bytesOf, ofBytes, Nat.mod_one]
  | succ n ih =>
    simp only [bytesOf, ofBytes, ih, BitVec.toNat_ofNat]
    rw [show (256 : Nat) ^ (n + 1) = 256 * 256 ^ n by rw [pow_succ, Nat.mul_comm], Nat.mod_mul]

theorem Memory.readBlock_congr {m k : Memory} (a n : Nat) (h : ∀ x, a ≤ x → x < a + n → m.read x = k.read x) :
    m.readBlock a n = k.readBlock a n := by
  induction n generalizing a with
  | zero => rfl
  | succ n ih =>
    rw [Memory.readBlock, Memory.readBlock, h a (by omega) (by omega), ih (a + 1) fun x h1 h2 => h x (by omega) (by omega)]

theorem Memory.readBlock_writeBlock (m : Memory) (a : Nat) (bs : List Byte) : (m.writeBlock a bs).readBlock a bs.length = bs := by
  have key : ∀ (n o : Nat), o + n = bs.length → (m.writeBlock a bs).readBlock (a + o) n = bs.drop o := by
    intro n
    induction n with
    | zero => intro o h; simp [Memory.readBlock, show o = bs.length by omega]
    | succ n ih =>
      intro o h
      rw [Memory.readBlock, Memory.read_writeBlock, if_pos ⟨by omega, by omega⟩, show a + o + 1 = a + (o + 1) by omega, ih (o + 1) (by omega),
        show a + o - a = o by omega, List.getD_eq_getElem bs _ (by omega : o < bs.length)]
      exact (List.drop_eq_getElem_cons (by omega : o < bs.length)).symm
  simpa using key bs.length 0 (by omega)

/-- A number read where it was written: its low bytes. -/
theorem Memory.readLE_writeLE (m : Memory) (a n v : Nat) : (m.writeLE a n v).readLE a n = v % 256 ^ n := by
  have h := Memory.readBlock_writeBlock m a (bytesOf n v)
  rw [length_bytesOf] at h
  rw [Memory.readLE, Memory.writeLE, h, ofBytes_bytesOf]

/-- A number read apart from the bytes written. -/
theorem Memory.readLE_writeBlock_apart (m : Memory) (a : Nat) (bs : List Byte) (b n : Nat) (h : b + n ≤ a ∨ a + bs.length ≤ b) :
    (m.writeBlock a bs).readLE b n = m.readLE b n := by
  rw [Memory.readLE, Memory.readLE, Memory.readBlock_congr b n fun x h1 h2 => Memory.read_writeBlock_outside m a x bs (by omega)]

theorem Memory.readLE_writeLE_apart (m : Memory) (a n v b k : Nat) (h : b + k ≤ a ∨ a + n ≤ b) :
    (m.writeLE a n v).readLE b k = m.readLE b k :=
  Memory.readLE_writeBlock_apart m a _ b k (by rw [length_bytesOf]; exact h)

/-! ## The canonical form -/

theorem Memory.wfFrom_mono {lo k : Nat} {m : Memory} (h : lo ≤ k) (hm : Memory.wfFrom k m = true) : Memory.wfFrom lo m = true := by
  cases m with
  | nil => rfl
  | cons c m =>
    obtain ⟨a, b⟩ := c
    simp only [Memory.wfFrom, Bool.and_eq_true, decide_eq_true_eq] at hm ⊢
    exact ⟨⟨by omega, hm.1.2⟩, hm.2⟩

theorem Memory.wfFrom_filter {lo : Nat} {m : Memory} (p : Host.Cell → Bool) (hm : Memory.wfFrom lo m = true) :
    Memory.wfFrom lo (m.filter p) = true := by
  induction m generalizing lo with
  | nil => rfl
  | cons c m ih =>
    obtain ⟨a, b⟩ := c
    simp only [Memory.wfFrom, Bool.and_eq_true, decide_eq_true_eq] at hm
    by_cases hp : p (a, b) = true
    · simp only [List.filter_cons, hp, if_true, Memory.wfFrom, Bool.and_eq_true, decide_eq_true_eq]
      exact ⟨hm.1, ih hm.2⟩
    · simp only [List.filter_cons, hp]
      exact Memory.wfFrom_mono (by omega) (ih hm.2)

/-- Two canonical pieces join when every address of the first lies below the second. -/
theorem Memory.wfFrom_append {lo k : Nat} {m n : Memory} (hm : Memory.wfFrom lo m = true) (hn : Memory.wfFrom k n = true) (hk : lo ≤ k)
    (h : ∀ c ∈ m, c.1 < k) : Memory.wfFrom lo (m ++ n) = true := by
  induction m generalizing lo with
  | nil => exact Memory.wfFrom_mono hk hn
  | cons c m ih =>
    obtain ⟨a, b⟩ := c
    simp only [List.cons_append, Memory.wfFrom, Bool.and_eq_true, decide_eq_true_eq] at hm ⊢
    exact ⟨hm.1, ih hm.2 (h (a, b) (List.mem_cons_self ..)) fun c hc => h c (List.mem_cons_of_mem _ hc)⟩

theorem Memory.wfFrom_cells (a : Nat) (bs : List Byte) : Memory.wfFrom a (Memory.cells a bs) = true := by
  induction bs generalizing a with
  | nil => rfl
  | cons b bs ih =>
    simp only [Memory.cells]
    split
    · exact Memory.wfFrom_mono (by omega) (ih (a + 1))
    · rename_i hb
      simp [Memory.wfFrom, ih (a + 1), hb]

theorem Memory.wfFrom_above {lo k : Nat} {m : Memory} (hm : Memory.wfFrom lo m = true) :
    Memory.wfFrom k (m.filter fun c => decide (k ≤ c.1)) = true := by
  induction m generalizing lo with
  | nil => rfl
  | cons c m ih =>
    obtain ⟨a, b⟩ := c
    simp only [Memory.wfFrom, Bool.and_eq_true, decide_eq_true_eq] at hm
    by_cases hp : k ≤ a
    · simp only [List.filter_cons, hp, decide_true, if_true, Memory.wfFrom, Bool.and_eq_true]
      exact ⟨⟨trivial, hm.1.2⟩, Memory.wfFrom_filter _ hm.2⟩
    · simp only [List.filter_cons, hp, decide_false]
      exact ih hm.2

/-- Every write keeps the canonical form. -/
theorem Memory.wf_writeBlock {m : Memory} (hm : m.wf = true) (a : Nat) (bs : List Byte) : (m.writeBlock a bs).wf = true := by
  unfold Memory.wf Memory.writeBlock at *
  have h3 := Memory.wfFrom_above (k := a + bs.length) hm
  have h2 := Memory.wfFrom_append (Memory.wfFrom_cells a bs) h3 (by omega) fun c hc =>
    (Memory.mem_cells (List.mem_map_of_mem (f := Prod.fst) hc)).2
  rw [List.append_assoc]
  exact Memory.wfFrom_append (Memory.wfFrom_filter _ hm) h2 (Nat.zero_le a) fun c hc => by simpa using (List.mem_filter.1 hc).2

theorem Memory.wf_write {m : Memory} (hm : m.wf = true) (a : Nat) (b : Byte) : (m.write a b).wf = true := Memory.wf_writeBlock hm a [b]

theorem Memory.wf_writeLE {m : Memory} (hm : m.wf = true) (a n v : Nat) : (m.writeLE a n v).wf = true := Memory.wf_writeBlock hm a _

theorem Memory.wf_writeLine {m : Memory} (hm : m.wf = true) (a : Nat) (l : Line) : (m.writeLine a l).wf = true := Memory.wf_writeBlock hm a _

theorem Memory.wf_writeCells {m : Memory} (hm : m.wf = true) (cs : List Host.Cell) : (m.writeCells cs).wf = true := by
  induction cs generalizing m with
  | nil => exact hm
  | cons c cs ih =>
    obtain ⟨a, b⟩ := c
    exact ih (Memory.wf_write hm a b)

theorem Memory.wf_writeBuf {m : Memory} (hm : m.wf = true) (buf : List Host.Cell) : (m.writeBuf buf).wf = true := Memory.wf_writeCells hm _

end Sys2Proof.Machine
end

