-- ==== Sys2Proof/Laws/State.lean ====
section
/-! SUPPORT. What each named update of a core or of the package leaves as it is: one lemma per field, so that no later proof unfolds a
record update. -/

namespace Sys2Proof.Machine

/-! ## Registers -/

@[simp] theorem Core.setReg_pcn (c : Core) (r : Reg) (v : Word) : (c.setReg r v).pcn = c.pcn := by unfold Core.setReg; split <;> rfl
@[simp] theorem Core.setReg_run (c : Core) (r : Reg) (v : Word) : (c.setReg r v).run = c.run := by unfold Core.setReg; split <;> rfl
@[simp] theorem Core.setReg_pend (c : Core) (r : Reg) (v : Word) : (c.setReg r v).pend = c.pend := by unfold Core.setReg; split <;> rfl
@[simp] theorem Core.setReg_pc (c : Core) (r : Reg) (v : Word) : (c.setReg r v).pc = c.pc := by unfold Core.setReg; split <;> rfl
@[simp] theorem Core.setReg_ctl (c : Core) (r : Reg) (v : Word) : (c.setReg r v).ctl = c.ctl := by unfold Core.setReg; split <;> rfl
@[simp] theorem Core.setReg_gen (c : Core) (r : Reg) (v : Word) : (c.setReg r v).gen = c.gen := by unfold Core.setReg; split <;> rfl
@[simp] theorem Core.setReg_vprog (c : Core) (r : Reg) (v : Word) : (c.setReg r v).vprog = c.vprog := by unfold Core.setReg; split <;> rfl
@[simp] theorem Core.setReg_nreq (c : Core) (r : Reg) (v : Word) : (c.setReg r v).nreq = c.nreq := by unfold Core.setReg; split <;> rfl
@[simp] theorem Core.setReg_wake (c : Core) (r : Reg) (v : Word) : (c.setReg r v).wake = c.wake := by unfold Core.setReg; split <;> rfl
@[simp] theorem Core.setReg_spad (c : Core) (r : Reg) (v : Word) : (c.setReg r v).spad = c.spad := by unfold Core.setReg; split <;> rfl
@[simp] theorem Core.setReg_marks (c : Core) (r : Reg) (v : Word) : (c.setReg r v).marks = c.marks := by unfold Core.setReg; split <;> rfl
@[simp] theorem Core.setReg_ecc (c : Core) (r : Reg) (v : Word) : (c.setReg r v).ecc = c.ecc := by unfold Core.setReg; split <;> rfl
@[simp] theorem Core.setReg_chunk (c : Core) (r : Reg) (v : Word) : (c.setReg r v).chunk = c.chunk := by unfold Core.setReg; split <;> rfl
@[simp] theorem Core.setReg_streak (c : Core) (r : Reg) (v : Word) : (c.setReg r v).streak = c.streak := by unfold Core.setReg; split <;> rfl
@[simp] theorem Core.setReg_l1 (c : Core) (r : Reg) (v : Word) : (c.setReg r v).l1 = c.l1 := by unfold Core.setReg; split <;> rfl
@[simp] theorem Core.setReg_early (c : Core) (r : Reg) (v : Word) : (c.setReg r v).early = c.early := by unfold Core.setReg; split <;> rfl
@[simp] theorem Core.setReg_late (c : Core) (r : Reg) (v : Word) : (c.setReg r v).late = c.late := by unfold Core.setReg; split <;> rfl
@[simp] theorem Core.setReg_out (c : Core) (r : Reg) (v : Word) : (c.setReg r v).out = c.out := by unfold Core.setReg; split <;> rfl
@[simp] theorem Core.setReg_slice (c : Core) (r : Reg) (v : Word) : (c.setReg r v).slice = c.slice := by unfold Core.setReg; split <;> rfl
@[simp] theorem Core.setReg_member (c : Core) (r : Reg) (v : Word) : (c.setReg r v).member = c.member := by unfold Core.setReg; split <;> rfl
@[simp] theorem Core.setReg_finished (c : Core) (r : Reg) (v : Word) : (c.setReg r v).finished = c.finished := by unfold Core.setReg; split <;> rfl
@[simp] theorem Core.setReg_phase (c : Core) (r : Reg) (v : Word) : (c.setReg r v).phase = c.phase := by unfold Core.setReg; split <;> rfl
@[simp] theorem Core.setReg_parity (c : Core) (r : Reg) (v : Word) : (c.setReg r v).parity = c.parity := by unfold Core.setReg; split <;> rfl
@[simp] theorem Core.setReg_leftBar (c : Core) (r : Reg) (v : Word) : (c.setReg r v).leftBar = c.leftBar := by unfold Core.setReg; split <;> rfl
@[simp] theorem Core.setReg_regrantAt (c : Core) (r : Reg) (v : Word) : (c.setReg r v).regrantAt = c.regrantAt := by unfold Core.setReg; split <;> rfl
@[simp] theorem Core.setReg_timetable (c : Core) (r : Reg) (v : Word) : (c.setReg r v).timetable = c.timetable := by unfold Core.setReg; split <;> rfl
@[simp] theorem Core.setReg_ttDone (c : Core) (r : Reg) (v : Word) : (c.setReg r v).ttDone = c.ttDone := by unfold Core.setReg; split <;> rfl
@[simp] theorem Core.setReg_ctrs (c : Core) (r : Reg) (v : Word) : (c.setReg r v).ctrs = c.ctrs := by unfold Core.setReg; split <;> rfl
@[simp] theorem Core.setReg_armed (c : Core) (r : Reg) (v : Word) : (c.setReg r v).armed = c.armed := by unfold Core.setReg; split <;> rfl
@[simp] theorem Core.setReg_fired (c : Core) (r : Reg) (v : Word) : (c.setReg r v).fired = c.fired := by unfold Core.setReg; split <;> rfl
@[simp] theorem Core.setReg_qs (c : Core) (r : Reg) (v : Word) : (c.setReg r v).qs = c.qs := by unfold Core.setReg; split <;> rfl
@[simp] theorem Core.setReg_events (c : Core) (r : Reg) (v : Word) : (c.setReg r v).events = c.events := by unfold Core.setReg; split <;> rfl
@[simp] theorem Core.setReg_eventsWaiting (c : Core) (r : Reg) (v : Word) : (c.setReg r v).eventsWaiting = c.eventsWaiting := by unfold Core.setReg; split <;> rfl
@[simp] theorem Core.setReg_mailbox (c : Core) (r : Reg) (v : Word) : (c.setReg r v).mailbox = c.mailbox := by unfold Core.setReg; split <;> rfl
@[simp] theorem Core.setReg_irq (c : Core) (r : Reg) (v : Word) : (c.setReg r v).irq = c.irq := by unfold Core.setReg; split <;> rfl
@[simp] theorem Core.setReg_msendw (c : Core) (r : Reg) (v : Word) : (c.setReg r v).msendw = c.msendw := by unfold Core.setReg; split <;> rfl
@[simp] theorem Core.setReg_reserved (c : Core) (r : Reg) (v : Word) : (c.setReg r v).reserved = c.reserved := by unfold Core.setReg; split <;> rfl
@[simp] theorem Core.setReg_marked (c : Core) (r : Reg) (v : Word) : (c.setReg r v).marked = c.marked := by unfold Core.setReg; split <;> rfl
@[simp] theorem Core.setReg_fence (c : Core) (r : Reg) (v : Word) : (c.setReg r v).fence = c.fence := by unfold Core.setReg; split <;> rfl
@[simp] theorem Core.setReg_waiting (c : Core) (r : Reg) (v : Word) : (c.setReg r v).waiting = c.waiting := by unfold Core.setReg; split <;> rfl
@[simp] theorem Core.setReg_taking (c : Core) (r : Reg) (v : Word) : (c.setReg r v).taking = c.taking := by unfold Core.setReg; split <;> rfl
@[simp] theorem Core.setReg_worker (c : Core) (r : Reg) (v : Word) : (c.setReg r v).worker = c.worker := by unfold Core.setReg; split <;> rfl
@[simp] theorem Core.setReg_scrub (c : Core) (r : Reg) (v : Word) : (c.setReg r v).scrub = c.scrub := by unfold Core.setReg; split <;> rfl
@[simp] theorem Core.setReg_acked (c : Core) (r : Reg) (v : Word) : (c.setReg r v).acked = c.acked := by unfold Core.setReg; split <;> rfl
@[simp] theorem Core.setReg_ackCsb (c : Core) (r : Reg) (v : Word) : (c.setReg r v).ackCsb = c.ackCsb := by unfold Core.setReg; split <;> rfl
@[simp] theorem Core.setReg_lateIncs (c : Core) (r : Reg) (v : Word) : (c.setReg r v).lateIncs = c.lateIncs := by unfold Core.setReg; split <;> rfl
@[simp] theorem Core.setReg_copied (c : Core) (r : Reg) (v : Word) : (c.setReg r v).copied = c.copied := by unfold Core.setReg; split <;> rfl
@[simp] theorem Core.setReg_sent (c : Core) (r : Reg) (v : Word) : (c.setReg r v).sent = c.sent := by unfold Core.setReg; split <;> rfl
@[simp] theorem Core.setReg_outPort (c : Core) (r : Reg) (v : Word) : (c.setReg r v).outPort = c.outPort := by unfold Core.setReg; split <;> rfl
@[simp] theorem Core.setReg_pushed (c : Core) (r : Reg) (v : Word) : (c.setReg r v).pushed = c.pushed := by unfold Core.setReg; split <;> rfl
@[simp] theorem Core.setReg_unstat (c : Core) (r : Reg) (v : Word) : (c.setReg r v).unstat = c.unstat := by unfold Core.setReg; split <;> rfl
@[simp] theorem Core.setReg_kept (c : Core) (r : Reg) (v : Word) : (c.setReg r v).kept = c.kept := by unfold Core.setReg; split <;> rfl
@[simp] theorem Core.setReg_pick (c : Core) (r : Reg) (v : Word) : (c.setReg r v).pick = c.pick := by unfold Core.setReg; split <;> rfl
@[simp] theorem Core.setReg_part (c : Core) (r : Reg) (v : Word) : (c.setReg r v).part = c.part := by unfold Core.setReg; split <;> rfl
@[simp] theorem Core.setReg_slowClean (c : Core) (r : Reg) (v : Word) : (c.setReg r v).slowClean = c.slowClean := by unfold Core.setReg; split <;> rfl

/-! ## Pending registers -/

@[simp] theorem Core.setPending_pcn (c : Core) (r : Reg) : (c.setPending r).pcn = c.pcn := by unfold Core.setPending; split <;> rfl
@[simp] theorem Core.setPending_run (c : Core) (r : Reg) : (c.setPending r).run = c.run := by unfold Core.setPending; split <;> rfl
@[simp] theorem Core.setPending_regs (c : Core) (r : Reg) : (c.setPending r).regs = c.regs := by unfold Core.setPending; split <;> rfl
@[simp] theorem Core.setPending_pc (c : Core) (r : Reg) : (c.setPending r).pc = c.pc := by unfold Core.setPending; split <;> rfl
@[simp] theorem Core.setPending_ctl (c : Core) (r : Reg) : (c.setPending r).ctl = c.ctl := by unfold Core.setPending; split <;> rfl
@[simp] theorem Core.setPending_gen (c : Core) (r : Reg) : (c.setPending r).gen = c.gen := by unfold Core.setPending; split <;> rfl
@[simp] theorem Core.setPending_vprog (c : Core) (r : Reg) : (c.setPending r).vprog = c.vprog := by unfold Core.setPending; split <;> rfl
@[simp] theorem Core.setPending_nreq (c : Core) (r : Reg) : (c.setPending r).nreq = c.nreq := by unfold Core.setPending; split <;> rfl
@[simp] theorem Core.setPending_wake (c : Core) (r : Reg) : (c.setPending r).wake = c.wake := by unfold Core.setPending; split <;> rfl
@[simp] theorem Core.setPending_spad (c : Core) (r : Reg) : (c.setPending r).spad = c.spad := by unfold Core.setPending; split <;> rfl
@[simp] theorem Core.setPending_marks (c : Core) (r : Reg) : (c.setPending r).marks = c.marks := by unfold Core.setPending; split <;> rfl
@[simp] theorem Core.setPending_ecc (c : Core) (r : Reg) : (c.setPending r).ecc = c.ecc := by unfold Core.setPending; split <;> rfl
@[simp] theorem Core.setPending_chunk (c : Core) (r : Reg) : (c.setPending r).chunk = c.chunk := by unfold Core.setPending; split <;> rfl
@[simp] theorem Core.setPending_streak (c : Core) (r : Reg) : (c.setPending r).streak = c.streak := by unfold Core.setPending; split <;> rfl
@[simp] theorem Core.setPending_l1 (c : Core) (r : Reg) : (c.setPending r).l1 = c.l1 := by unfold Core.setPending; split <;> rfl
@[simp] theorem Core.setPending_early (c : Core) (r : Reg) : (c.setPending r).early = c.early := by unfold Core.setPending; split <;> rfl
@[simp] theorem Core.setPending_late (c : Core) (r : Reg) : (c.setPending r).late = c.late := by unfold Core.setPending; split <;> rfl
@[simp] theorem Core.setPending_out (c : Core) (r : Reg) : (c.setPending r).out = c.out := by unfold Core.setPending; split <;> rfl
@[simp] theorem Core.setPending_slice (c : Core) (r : Reg) : (c.setPending r).slice = c.slice := by unfold Core.setPending; split <;> rfl
@[simp] theorem Core.setPending_member (c : Core) (r : Reg) : (c.setPending r).member = c.member := by unfold Core.setPending; split <;> rfl
@[simp] theorem Core.setPending_finished (c : Core) (r : Reg) : (c.setPending r).finished = c.finished := by unfold Core.setPending; split <;> rfl
@[simp] theorem Core.setPending_phase (c : Core) (r : Reg) : (c.setPending r).phase = c.phase := by unfold Core.setPending; split <;> rfl
@[simp] theorem Core.setPending_parity (c : Core) (r : Reg) : (c.setPending r).parity = c.parity := by unfold Core.setPending; split <;> rfl
@[simp] theorem Core.setPending_leftBar (c : Core) (r : Reg) : (c.setPending r).leftBar = c.leftBar := by unfold Core.setPending; split <;> rfl
@[simp] theorem Core.setPending_regrantAt (c : Core) (r : Reg) : (c.setPending r).regrantAt = c.regrantAt := by unfold Core.setPending; split <;> rfl
@[simp] theorem Core.setPending_timetable (c : Core) (r : Reg) : (c.setPending r).timetable = c.timetable := by unfold Core.setPending; split <;> rfl
@[simp] theorem Core.setPending_ttDone (c : Core) (r : Reg) : (c.setPending r).ttDone = c.ttDone := by unfold Core.setPending; split <;> rfl
@[simp] theorem Core.setPending_ctrs (c : Core) (r : Reg) : (c.setPending r).ctrs = c.ctrs := by unfold Core.setPending; split <;> rfl
@[simp] theorem Core.setPending_armed (c : Core) (r : Reg) : (c.setPending r).armed = c.armed := by unfold Core.setPending; split <;> rfl
@[simp] theorem Core.setPending_fired (c : Core) (r : Reg) : (c.setPending r).fired = c.fired := by unfold Core.setPending; split <;> rfl
@[simp] theorem Core.setPending_qs (c : Core) (r : Reg) : (c.setPending r).qs = c.qs := by unfold Core.setPending; split <;> rfl
@[simp] theorem Core.setPending_events (c : Core) (r : Reg) : (c.setPending r).events = c.events := by unfold Core.setPending; split <;> rfl
@[simp] theorem Core.setPending_eventsWaiting (c : Core) (r : Reg) : (c.setPending r).eventsWaiting = c.eventsWaiting := by unfold Core.setPending; split <;> rfl
@[simp] theorem Core.setPending_mailbox (c : Core) (r : Reg) : (c.setPending r).mailbox = c.mailbox := by unfold Core.setPending; split <;> rfl
@[simp] theorem Core.setPending_irq (c : Core) (r : Reg) : (c.setPending r).irq = c.irq := by unfold Core.setPending; split <;> rfl
@[simp] theorem Core.setPending_msendw (c : Core) (r : Reg) : (c.setPending r).msendw = c.msendw := by unfold Core.setPending; split <;> rfl
@[simp] theorem Core.setPending_reserved (c : Core) (r : Reg) : (c.setPending r).reserved = c.reserved := by unfold Core.setPending; split <;> rfl
@[simp] theorem Core.setPending_marked (c : Core) (r : Reg) : (c.setPending r).marked = c.marked := by unfold Core.setPending; split <;> rfl
@[simp] theorem Core.setPending_fence (c : Core) (r : Reg) : (c.setPending r).fence = c.fence := by unfold Core.setPending; split <;> rfl
@[simp] theorem Core.setPending_waiting (c : Core) (r : Reg) : (c.setPending r).waiting = c.waiting := by unfold Core.setPending; split <;> rfl
@[simp] theorem Core.setPending_taking (c : Core) (r : Reg) : (c.setPending r).taking = c.taking := by unfold Core.setPending; split <;> rfl
@[simp] theorem Core.setPending_worker (c : Core) (r : Reg) : (c.setPending r).worker = c.worker := by unfold Core.setPending; split <;> rfl
@[simp] theorem Core.setPending_scrub (c : Core) (r : Reg) : (c.setPending r).scrub = c.scrub := by unfold Core.setPending; split <;> rfl
@[simp] theorem Core.setPending_acked (c : Core) (r : Reg) : (c.setPending r).acked = c.acked := by unfold Core.setPending; split <;> rfl
@[simp] theorem Core.setPending_ackCsb (c : Core) (r : Reg) : (c.setPending r).ackCsb = c.ackCsb := by unfold Core.setPending; split <;> rfl
@[simp] theorem Core.setPending_lateIncs (c : Core) (r : Reg) : (c.setPending r).lateIncs = c.lateIncs := by unfold Core.setPending; split <;> rfl
@[simp] theorem Core.setPending_copied (c : Core) (r : Reg) : (c.setPending r).copied = c.copied := by unfold Core.setPending; split <;> rfl
@[simp] theorem Core.setPending_sent (c : Core) (r : Reg) : (c.setPending r).sent = c.sent := by unfold Core.setPending; split <;> rfl
@[simp] theorem Core.setPending_outPort (c : Core) (r : Reg) : (c.setPending r).outPort = c.outPort := by unfold Core.setPending; split <;> rfl
@[simp] theorem Core.setPending_pushed (c : Core) (r : Reg) : (c.setPending r).pushed = c.pushed := by unfold Core.setPending; split <;> rfl
@[simp] theorem Core.setPending_unstat (c : Core) (r : Reg) : (c.setPending r).unstat = c.unstat := by unfold Core.setPending; split <;> rfl
@[simp] theorem Core.setPending_kept (c : Core) (r : Reg) : (c.setPending r).kept = c.kept := by unfold Core.setPending; split <;> rfl
@[simp] theorem Core.setPending_pick (c : Core) (r : Reg) : (c.setPending r).pick = c.pick := by unfold Core.setPending; split <;> rfl
@[simp] theorem Core.setPending_part (c : Core) (r : Reg) : (c.setPending r).part = c.part := by unfold Core.setPending; split <;> rfl
@[simp] theorem Core.setPending_slowClean (c : Core) (r : Reg) : (c.setPending r).slowClean = c.slowClean := by unfold Core.setPending; split <;> rfl

/-! ## The program counter -/

@[simp] theorem Core.step4_pcn (c : Core) : (c.step4).pcn = c.pcn := rfl
@[simp] theorem Core.step4_run (c : Core) : (c.step4).run = c.run := rfl
@[simp] theorem Core.step4_regs (c : Core) : (c.step4).regs = c.regs := rfl
@[simp] theorem Core.step4_pend (c : Core) : (c.step4).pend = c.pend := rfl
@[simp] theorem Core.step4_pois (c : Core) : (c.step4).pois = c.pois := rfl
@[simp] theorem Core.step4_ctl (c : Core) : (c.step4).ctl = c.ctl := rfl
@[simp] theorem Core.step4_gen (c : Core) : (c.step4).gen = c.gen := rfl
@[simp] theorem Core.step4_vprog (c : Core) : (c.step4).vprog = c.vprog := rfl
@[simp] theorem Core.step4_nreq (c : Core) : (c.step4).nreq = c.nreq := rfl
@[simp] theorem Core.step4_wake (c : Core) : (c.step4).wake = c.wake := rfl
@[simp] theorem Core.step4_spad (c : Core) : (c.step4).spad = c.spad := rfl
@[simp] theorem Core.step4_marks (c : Core) : (c.step4).marks = c.marks := rfl
@[simp] theorem Core.step4_ecc (c : Core) : (c.step4).ecc = c.ecc := rfl
@[simp] theorem Core.step4_chunk (c : Core) : (c.step4).chunk = c.chunk := rfl
@[simp] theorem Core.step4_streak (c : Core) : (c.step4).streak = c.streak := rfl
@[simp] theorem Core.step4_l1 (c : Core) : (c.step4).l1 = c.l1 := rfl
@[simp] theorem Core.step4_early (c : Core) : (c.step4).early = c.early := rfl
@[simp] theorem Core.step4_late (c : Core) : (c.step4).late = c.late := rfl
@[simp] theorem Core.step4_out (c : Core) : (c.step4).out = c.out := rfl
@[simp] theorem Core.step4_slice (c : Core) : (c.step4).slice = c.slice := rfl
@[simp] theorem Core.step4_member (c : Core) : (c.step4).member = c.member := rfl
@[simp] theorem Core.step4_finished (c : Core) : (c.step4).finished = c.finished := rfl
@[simp] theorem Core.step4_phase (c : Core) : (c.step4).phase = c.phase := rfl
@[simp] theorem Core.step4_parity (c : Core) : (c.step4).parity = c.parity := rfl
@[simp] theorem Core.step4_leftBar (c : Core) : (c.step4).leftBar = c.leftBar := rfl
@[simp] theorem Core.step4_regrantAt (c : Core) : (c.step4).regrantAt = c.regrantAt := rfl
@[simp] theorem Core.step4_timetable (c : Core) : (c.step4).timetable = c.timetable := rfl
@[simp] theorem Core.step4_ttDone (c : Core) : (c.step4).ttDone = c.ttDone := rfl
@[simp] theorem Core.step4_ctrs (c : Core) : (c.step4).ctrs = c.ctrs := rfl
@[simp] theorem Core.step4_armed (c : Core) : (c.step4).armed = c.armed := rfl
@[simp] theorem Core.step4_fired (c : Core) : (c.step4).fired = c.fired := rfl
@[simp] theorem Core.step4_qs (c : Core) : (c.step4).qs = c.qs := rfl
@[simp] theorem Core.step4_events (c : Core) : (c.step4).events = c.events := rfl
@[simp] theorem Core.step4_eventsWaiting (c : Core) : (c.step4).eventsWaiting = c.eventsWaiting := rfl
@[simp] theorem Core.step4_mailbox (c : Core) : (c.step4).mailbox = c.mailbox := rfl
@[simp] theorem Core.step4_irq (c : Core) : (c.step4).irq = c.irq := rfl
@[simp] theorem Core.step4_msendw (c : Core) : (c.step4).msendw = c.msendw := rfl
@[simp] theorem Core.step4_reserved (c : Core) : (c.step4).reserved = c.reserved := rfl
@[simp] theorem Core.step4_marked (c : Core) : (c.step4).marked = c.marked := rfl
@[simp] theorem Core.step4_fence (c : Core) : (c.step4).fence = c.fence := rfl
@[simp] theorem Core.step4_waiting (c : Core) : (c.step4).waiting = c.waiting := rfl
@[simp] theorem Core.step4_taking (c : Core) : (c.step4).taking = c.taking := rfl
@[simp] theorem Core.step4_worker (c : Core) : (c.step4).worker = c.worker := rfl
@[simp] theorem Core.step4_scrub (c : Core) : (c.step4).scrub = c.scrub := rfl
@[simp] theorem Core.step4_acked (c : Core) : (c.step4).acked = c.acked := rfl
@[simp] theorem Core.step4_ackCsb (c : Core) : (c.step4).ackCsb = c.ackCsb := rfl
@[simp] theorem Core.step4_lateIncs (c : Core) : (c.step4).lateIncs = c.lateIncs := rfl
@[simp] theorem Core.step4_copied (c : Core) : (c.step4).copied = c.copied := rfl
@[simp] theorem Core.step4_sent (c : Core) : (c.step4).sent = c.sent := rfl
@[simp] theorem Core.step4_outPort (c : Core) : (c.step4).outPort = c.outPort := rfl
@[simp] theorem Core.step4_pushed (c : Core) : (c.step4).pushed = c.pushed := rfl
@[simp] theorem Core.step4_unstat (c : Core) : (c.step4).unstat = c.unstat := rfl
@[simp] theorem Core.step4_kept (c : Core) : (c.step4).kept = c.kept := rfl
@[simp] theorem Core.step4_pick (c : Core) : (c.step4).pick = c.pick := rfl
@[simp] theorem Core.step4_part (c : Core) : (c.step4).part = c.part := rfl
@[simp] theorem Core.step4_slowClean (c : Core) : (c.step4).slowClean = c.slowClean := rfl
@[simp] theorem Core.jump_pcn (c : Core) (t : Word) : (c.jump t).pcn = c.pcn := rfl
@[simp] theorem Core.jump_run (c : Core) (t : Word) : (c.jump t).run = c.run := rfl
@[simp] theorem Core.jump_regs (c : Core) (t : Word) : (c.jump t).regs = c.regs := rfl
@[simp] theorem Core.jump_pend (c : Core) (t : Word) : (c.jump t).pend = c.pend := rfl
@[simp] theorem Core.jump_pois (c : Core) (t : Word) : (c.jump t).pois = c.pois := rfl
@[simp] theorem Core.jump_ctl (c : Core) (t : Word) : (c.jump t).ctl = c.ctl := rfl
@[simp] theorem Core.jump_gen (c : Core) (t : Word) : (c.jump t).gen = c.gen := rfl
@[simp] theorem Core.jump_vprog (c : Core) (t : Word) : (c.jump t).vprog = c.vprog := rfl
@[simp] theorem Core.jump_nreq (c : Core) (t : Word) : (c.jump t).nreq = c.nreq := rfl
@[simp] theorem Core.jump_wake (c : Core) (t : Word) : (c.jump t).wake = c.wake := rfl
@[simp] theorem Core.jump_spad (c : Core) (t : Word) : (c.jump t).spad = c.spad := rfl
@[simp] theorem Core.jump_marks (c : Core) (t : Word) : (c.jump t).marks = c.marks := rfl
@[simp] theorem Core.jump_ecc (c : Core) (t : Word) : (c.jump t).ecc = c.ecc := rfl
@[simp] theorem Core.jump_chunk (c : Core) (t : Word) : (c.jump t).chunk = c.chunk := rfl
@[simp] theorem Core.jump_streak (c : Core) (t : Word) : (c.jump t).streak = c.streak := rfl
@[simp] theorem Core.jump_l1 (c : Core) (t : Word) : (c.jump t).l1 = c.l1 := rfl
@[simp] theorem Core.jump_early (c : Core) (t : Word) : (c.jump t).early = c.early := rfl
@[simp] theorem Core.jump_late (c : Core) (t : Word) : (c.jump t).late = c.late := rfl
@[simp] theorem Core.jump_out (c : Core) (t : Word) : (c.jump t).out = c.out := rfl
@[simp] theorem Core.jump_slice (c : Core) (t : Word) : (c.jump t).slice = c.slice := rfl
@[simp] theorem Core.jump_member (c : Core) (t : Word) : (c.jump t).member = c.member := rfl
@[simp] theorem Core.jump_finished (c : Core) (t : Word) : (c.jump t).finished = c.finished := rfl
@[simp] theorem Core.jump_phase (c : Core) (t : Word) : (c.jump t).phase = c.phase := rfl
@[simp] theorem Core.jump_parity (c : Core) (t : Word) : (c.jump t).parity = c.parity := rfl
@[simp] theorem Core.jump_leftBar (c : Core) (t : Word) : (c.jump t).leftBar = c.leftBar := rfl
@[simp] theorem Core.jump_regrantAt (c : Core) (t : Word) : (c.jump t).regrantAt = c.regrantAt := rfl
@[simp] theorem Core.jump_timetable (c : Core) (t : Word) : (c.jump t).timetable = c.timetable := rfl
@[simp] theorem Core.jump_ttDone (c : Core) (t : Word) : (c.jump t).ttDone = c.ttDone := rfl
@[simp] theorem Core.jump_ctrs (c : Core) (t : Word) : (c.jump t).ctrs = c.ctrs := rfl
@[simp] theorem Core.jump_armed (c : Core) (t : Word) : (c.jump t).armed = c.armed := rfl
@[simp] theorem Core.jump_fired (c : Core) (t : Word) : (c.jump t).fired = c.fired := rfl
@[simp] theorem Core.jump_qs (c : Core) (t : Word) : (c.jump t).qs = c.qs := rfl
@[simp] theorem Core.jump_events (c : Core) (t : Word) : (c.jump t).events = c.events := rfl
@[simp] theorem Core.jump_eventsWaiting (c : Core) (t : Word) : (c.jump t).eventsWaiting = c.eventsWaiting := rfl
@[simp] theorem Core.jump_mailbox (c : Core) (t : Word) : (c.jump t).mailbox = c.mailbox := rfl
@[simp] theorem Core.jump_irq (c : Core) (t : Word) : (c.jump t).irq = c.irq := rfl
@[simp] theorem Core.jump_msendw (c : Core) (t : Word) : (c.jump t).msendw = c.msendw := rfl
@[simp] theorem Core.jump_reserved (c : Core) (t : Word) : (c.jump t).reserved = c.reserved := rfl
@[simp] theorem Core.jump_marked (c : Core) (t : Word) : (c.jump t).marked = c.marked := rfl
@[simp] theorem Core.jump_fence (c : Core) (t : Word) : (c.jump t).fence = c.fence := rfl
@[simp] theorem Core.jump_waiting (c : Core) (t : Word) : (c.jump t).waiting = c.waiting := rfl
@[simp] theorem Core.jump_taking (c : Core) (t : Word) : (c.jump t).taking = c.taking := rfl
@[simp] theorem Core.jump_worker (c : Core) (t : Word) : (c.jump t).worker = c.worker := rfl
@[simp] theorem Core.jump_scrub (c : Core) (t : Word) : (c.jump t).scrub = c.scrub := rfl
@[simp] theorem Core.jump_acked (c : Core) (t : Word) : (c.jump t).acked = c.acked := rfl
@[simp] theorem Core.jump_ackCsb (c : Core) (t : Word) : (c.jump t).ackCsb = c.ackCsb := rfl
@[simp] theorem Core.jump_lateIncs (c : Core) (t : Word) : (c.jump t).lateIncs = c.lateIncs := rfl
@[simp] theorem Core.jump_copied (c : Core) (t : Word) : (c.jump t).copied = c.copied := rfl
@[simp] theorem Core.jump_sent (c : Core) (t : Word) : (c.jump t).sent = c.sent := rfl
@[simp] theorem Core.jump_outPort (c : Core) (t : Word) : (c.jump t).outPort = c.outPort := rfl
@[simp] theorem Core.jump_pushed (c : Core) (t : Word) : (c.jump t).pushed = c.pushed := rfl
@[simp] theorem Core.jump_unstat (c : Core) (t : Word) : (c.jump t).unstat = c.unstat := rfl
@[simp] theorem Core.jump_kept (c : Core) (t : Word) : (c.jump t).kept = c.kept := rfl
@[simp] theorem Core.jump_pick (c : Core) (t : Word) : (c.jump t).pick = c.pick := rfl
@[simp] theorem Core.jump_part (c : Core) (t : Word) : (c.jump t).part = c.part := rfl
@[simp] theorem Core.jump_slowClean (c : Core) (t : Word) : (c.jump t).slowClean = c.slowClean := rfl

/-! ## Chunks -/

@[simp] theorem Core.openChunk_pcn (c : Core) : (c.openChunk).pcn = c.pcn := by unfold Core.openChunk; split <;> rfl
@[simp] theorem Core.openChunk_run (c : Core) : (c.openChunk).run = c.run := by unfold Core.openChunk; split <;> rfl
@[simp] theorem Core.openChunk_regs (c : Core) : (c.openChunk).regs = c.regs := by unfold Core.openChunk; split <;> rfl
@[simp] theorem Core.openChunk_pend (c : Core) : (c.openChunk).pend = c.pend := by unfold Core.openChunk; split <;> rfl
@[simp] theorem Core.openChunk_pois (c : Core) : (c.openChunk).pois = c.pois := by unfold Core.openChunk; split <;> rfl
@[simp] theorem Core.openChunk_pc (c : Core) : (c.openChunk).pc = c.pc := by unfold Core.openChunk; split <;> rfl
@[simp] theorem Core.openChunk_ctl (c : Core) : (c.openChunk).ctl = c.ctl := by unfold Core.openChunk; split <;> rfl
@[simp] theorem Core.openChunk_gen (c : Core) : (c.openChunk).gen = c.gen := by unfold Core.openChunk; split <;> rfl
@[simp] theorem Core.openChunk_vprog (c : Core) : (c.openChunk).vprog = c.vprog := by unfold Core.openChunk; split <;> rfl
@[simp] theorem Core.openChunk_nreq (c : Core) : (c.openChunk).nreq = c.nreq := by unfold Core.openChunk; split <;> rfl
@[simp] theorem Core.openChunk_wake (c : Core) : (c.openChunk).wake = c.wake := by unfold Core.openChunk; split <;> rfl
@[simp] theorem Core.openChunk_spad (c : Core) : (c.openChunk).spad = c.spad := by unfold Core.openChunk; split <;> rfl
@[simp] theorem Core.openChunk_marks (c : Core) : (c.openChunk).marks = c.marks := by unfold Core.openChunk; split <;> rfl
@[simp] theorem Core.openChunk_ecc (c : Core) : (c.openChunk).ecc = c.ecc := by unfold Core.openChunk; split <;> rfl
@[simp] theorem Core.openChunk_streak (c : Core) : (c.openChunk).streak = c.streak := by unfold Core.openChunk; split <;> rfl
@[simp] theorem Core.openChunk_l1 (c : Core) : (c.openChunk).l1 = c.l1 := by unfold Core.openChunk; split <;> rfl
@[simp] theorem Core.openChunk_early (c : Core) : (c.openChunk).early = c.early := by unfold Core.openChunk; split <;> rfl
@[simp] theorem Core.openChunk_late (c : Core) : (c.openChunk).late = c.late := by unfold Core.openChunk; split <;> rfl
@[simp] theorem Core.openChunk_out (c : Core) : (c.openChunk).out = c.out := by unfold Core.openChunk; split <;> rfl
@[simp] theorem Core.openChunk_slice (c : Core) : (c.openChunk).slice = c.slice := by unfold Core.openChunk; split <;> rfl
@[simp] theorem Core.openChunk_member (c : Core) : (c.openChunk).member = c.member := by unfold Core.openChunk; split <;> rfl
@[simp] theorem Core.openChunk_finished (c : Core) : (c.openChunk).finished = c.finished := by unfold Core.openChunk; split <;> rfl
@[simp] theorem Core.openChunk_phase (c : Core) : (c.openChunk).phase = c.phase := by unfold Core.openChunk; split <;> rfl
@[simp] theorem Core.openChunk_parity (c : Core) : (c.openChunk).parity = c.parity := by unfold Core.openChunk; split <;> rfl
@[simp] theorem Core.openChunk_leftBar (c : Core) : (c.openChunk).leftBar = c.leftBar := by unfold Core.openChunk; split <;> rfl
@[simp] theorem Core.openChunk_regrantAt (c : Core) : (c.openChunk).regrantAt = c.regrantAt := by unfold Core.openChunk; split <;> rfl
@[simp] theorem Core.openChunk_timetable (c : Core) : (c.openChunk).timetable = c.timetable := by unfold Core.openChunk; split <;> rfl
@[simp] theorem Core.openChunk_ttDone (c : Core) : (c.openChunk).ttDone = c.ttDone := by unfold Core.openChunk; split <;> rfl
@[simp] theorem Core.openChunk_ctrs (c : Core) : (c.openChunk).ctrs = c.ctrs := by unfold Core.openChunk; split <;> rfl
@[simp] theorem Core.openChunk_armed (c : Core) : (c.openChunk).armed = c.armed := by unfold Core.openChunk; split <;> rfl
@[simp] theorem Core.openChunk_fired (c : Core) : (c.openChunk).fired = c.fired := by unfold Core.openChunk; split <;> rfl
@[simp] theorem Core.openChunk_qs (c : Core) : (c.openChunk).qs = c.qs := by unfold Core.openChunk; split <;> rfl
@[simp] theorem Core.openChunk_events (c : Core) : (c.openChunk).events = c.events := by unfold Core.openChunk; split <;> rfl
@[simp] theorem Core.openChunk_eventsWaiting (c : Core) : (c.openChunk).eventsWaiting = c.eventsWaiting := by unfold Core.openChunk; split <;> rfl
@[simp] theorem Core.openChunk_mailbox (c : Core) : (c.openChunk).mailbox = c.mailbox := by unfold Core.openChunk; split <;> rfl
@[simp] theorem Core.openChunk_irq (c : Core) : (c.openChunk).irq = c.irq := by unfold Core.openChunk; split <;> rfl
@[simp] theorem Core.openChunk_msendw (c : Core) : (c.openChunk).msendw = c.msendw := by unfold Core.openChunk; split <;> rfl
@[simp] theorem Core.openChunk_reserved (c : Core) : (c.openChunk).reserved = c.reserved := by unfold Core.openChunk; split <;> rfl
@[simp] theorem Core.openChunk_marked (c : Core) : (c.openChunk).marked = c.marked := by unfold Core.openChunk; split <;> rfl
@[simp] theorem Core.openChunk_fence (c : Core) : (c.openChunk).fence = c.fence := by unfold Core.openChunk; split <;> rfl
@[simp] theorem Core.openChunk_waiting (c : Core) : (c.openChunk).waiting = c.waiting := by unfold Core.openChunk; split <;> rfl
@[simp] theorem Core.openChunk_taking (c : Core) : (c.openChunk).taking = c.taking := by unfold Core.openChunk; split <;> rfl
@[simp] theorem Core.openChunk_worker (c : Core) : (c.openChunk).worker = c.worker := by unfold Core.openChunk; split <;> rfl
@[simp] theorem Core.openChunk_scrub (c : Core) : (c.openChunk).scrub = c.scrub := by unfold Core.openChunk; split <;> rfl
@[simp] theorem Core.openChunk_acked (c : Core) : (c.openChunk).acked = c.acked := by unfold Core.openChunk; split <;> rfl
@[simp] theorem Core.openChunk_ackCsb (c : Core) : (c.openChunk).ackCsb = c.ackCsb := by unfold Core.openChunk; split <;> rfl
@[simp] theorem Core.openChunk_lateIncs (c : Core) : (c.openChunk).lateIncs = c.lateIncs := by unfold Core.openChunk; split <;> rfl
@[simp] theorem Core.openChunk_copied (c : Core) : (c.openChunk).copied = c.copied := by unfold Core.openChunk; split <;> rfl
@[simp] theorem Core.openChunk_sent (c : Core) : (c.openChunk).sent = c.sent := by unfold Core.openChunk; split <;> rfl
@[simp] theorem Core.openChunk_outPort (c : Core) : (c.openChunk).outPort = c.outPort := by unfold Core.openChunk; split <;> rfl
@[simp] theorem Core.openChunk_pushed (c : Core) : (c.openChunk).pushed = c.pushed := by unfold Core.openChunk; split <;> rfl
@[simp] theorem Core.openChunk_unstat (c : Core) : (c.openChunk).unstat = c.unstat := by unfold Core.openChunk; split <;> rfl
@[simp] theorem Core.openChunk_kept (c : Core) : (c.openChunk).kept = c.kept := by unfold Core.openChunk; split <;> rfl
@[simp] theorem Core.openChunk_pick (c : Core) : (c.openChunk).pick = c.pick := by unfold Core.openChunk; split <;> rfl
@[simp] theorem Core.openChunk_part (c : Core) : (c.openChunk).part = c.part := by unfold Core.openChunk; split <;> rfl
@[simp] theorem Core.openChunk_slowClean (c : Core) : (c.openChunk).slowClean = c.slowClean := by unfold Core.openChunk; split <;> rfl
@[simp] theorem Core.modChunk_pcn (c : Core) (f : Chunk → Chunk) : (c.modChunk f).pcn = c.pcn := rfl
@[simp] theorem Core.modChunk_run (c : Core) (f : Chunk → Chunk) : (c.modChunk f).run = c.run := rfl
@[simp] theorem Core.modChunk_regs (c : Core) (f : Chunk → Chunk) : (c.modChunk f).regs = c.regs := rfl
@[simp] theorem Core.modChunk_pend (c : Core) (f : Chunk → Chunk) : (c.modChunk f).pend = c.pend := rfl
@[simp] theorem Core.modChunk_pois (c : Core) (f : Chunk → Chunk) : (c.modChunk f).pois = c.pois := rfl
@[simp] theorem Core.modChunk_pc (c : Core) (f : Chunk → Chunk) : (c.modChunk f).pc = c.pc := rfl
@[simp] theorem Core.modChunk_ctl (c : Core) (f : Chunk → Chunk) : (c.modChunk f).ctl = c.ctl := rfl
@[simp] theorem Core.modChunk_gen (c : Core) (f : Chunk → Chunk) : (c.modChunk f).gen = c.gen := rfl
@[simp] theorem Core.modChunk_vprog (c : Core) (f : Chunk → Chunk) : (c.modChunk f).vprog = c.vprog := rfl
@[simp] theorem Core.modChunk_nreq (c : Core) (f : Chunk → Chunk) : (c.modChunk f).nreq = c.nreq := rfl
@[simp] theorem Core.modChunk_wake (c : Core) (f : Chunk → Chunk) : (c.modChunk f).wake = c.wake := rfl
@[simp] theorem Core.modChunk_spad (c : Core) (f : Chunk → Chunk) : (c.modChunk f).spad = c.spad := rfl
@[simp] theorem Core.modChunk_marks (c : Core) (f : Chunk → Chunk) : (c.modChunk f).marks = c.marks := rfl
@[simp] theorem Core.modChunk_ecc (c : Core) (f : Chunk → Chunk) : (c.modChunk f).ecc = c.ecc := rfl
@[simp] theorem Core.modChunk_streak (c : Core) (f : Chunk → Chunk) : (c.modChunk f).streak = c.streak := rfl
@[simp] theorem Core.modChunk_l1 (c : Core) (f : Chunk → Chunk) : (c.modChunk f).l1 = c.l1 := rfl
@[simp] theorem Core.modChunk_early (c : Core) (f : Chunk → Chunk) : (c.modChunk f).early = c.early := rfl
@[simp] theorem Core.modChunk_late (c : Core) (f : Chunk → Chunk) : (c.modChunk f).late = c.late := rfl
@[simp] theorem Core.modChunk_out (c : Core) (f : Chunk → Chunk) : (c.modChunk f).out = c.out := rfl
@[simp] theorem Core.modChunk_slice (c : Core) (f : Chunk → Chunk) : (c.modChunk f).slice = c.slice := rfl
@[simp] theorem Core.modChunk_member (c : Core) (f : Chunk → Chunk) : (c.modChunk f).member = c.member := rfl
@[simp] theorem Core.modChunk_finished (c : Core) (f : Chunk → Chunk) : (c.modChunk f).finished = c.finished := rfl
@[simp] theorem Core.modChunk_phase (c : Core) (f : Chunk → Chunk) : (c.modChunk f).phase = c.phase := rfl
@[simp] theorem Core.modChunk_parity (c : Core) (f : Chunk → Chunk) : (c.modChunk f).parity = c.parity := rfl
@[simp] theorem Core.modChunk_leftBar (c : Core) (f : Chunk → Chunk) : (c.modChunk f).leftBar = c.leftBar := rfl
@[simp] theorem Core.modChunk_regrantAt (c : Core) (f : Chunk → Chunk) : (c.modChunk f).regrantAt = c.regrantAt := rfl
@[simp] theorem Core.modChunk_timetable (c : Core) (f : Chunk → Chunk) : (c.modChunk f).timetable = c.timetable := rfl
@[simp] theorem Core.modChunk_ttDone (c : Core) (f : Chunk → Chunk) : (c.modChunk f).ttDone = c.ttDone := rfl
@[simp] theorem Core.modChunk_ctrs (c : Core) (f : Chunk → Chunk) : (c.modChunk f).ctrs = c.ctrs := rfl
@[simp] theorem Core.modChunk_armed (c : Core) (f : Chunk → Chunk) : (c.modChunk f).armed = c.armed := rfl
@[simp] theorem Core.modChunk_fired (c : Core) (f : Chunk → Chunk) : (c.modChunk f).fired = c.fired := rfl
@[simp] theorem Core.modChunk_qs (c : Core) (f : Chunk → Chunk) : (c.modChunk f).qs = c.qs := rfl
@[simp] theorem Core.modChunk_events (c : Core) (f : Chunk → Chunk) : (c.modChunk f).events = c.events := rfl
@[simp] theorem Core.modChunk_eventsWaiting (c : Core) (f : Chunk → Chunk) : (c.modChunk f).eventsWaiting = c.eventsWaiting := rfl
@[simp] theorem Core.modChunk_mailbox (c : Core) (f : Chunk → Chunk) : (c.modChunk f).mailbox = c.mailbox := rfl
@[simp] theorem Core.modChunk_irq (c : Core) (f : Chunk → Chunk) : (c.modChunk f).irq = c.irq := rfl
@[simp] theorem Core.modChunk_msendw (c : Core) (f : Chunk → Chunk) : (c.modChunk f).msendw = c.msendw := rfl
@[simp] theorem Core.modChunk_reserved (c : Core) (f : Chunk → Chunk) : (c.modChunk f).reserved = c.reserved := rfl
@[simp] theorem Core.modChunk_marked (c : Core) (f : Chunk → Chunk) : (c.modChunk f).marked = c.marked := rfl
@[simp] theorem Core.modChunk_fence (c : Core) (f : Chunk → Chunk) : (c.modChunk f).fence = c.fence := rfl
@[simp] theorem Core.modChunk_waiting (c : Core) (f : Chunk → Chunk) : (c.modChunk f).waiting = c.waiting := rfl
@[simp] theorem Core.modChunk_taking (c : Core) (f : Chunk → Chunk) : (c.modChunk f).taking = c.taking := rfl
@[simp] theorem Core.modChunk_worker (c : Core) (f : Chunk → Chunk) : (c.modChunk f).worker = c.worker := rfl
@[simp] theorem Core.modChunk_scrub (c : Core) (f : Chunk → Chunk) : (c.modChunk f).scrub = c.scrub := rfl
@[simp] theorem Core.modChunk_acked (c : Core) (f : Chunk → Chunk) : (c.modChunk f).acked = c.acked := rfl
@[simp] theorem Core.modChunk_ackCsb (c : Core) (f : Chunk → Chunk) : (c.modChunk f).ackCsb = c.ackCsb := rfl
@[simp] theorem Core.modChunk_lateIncs (c : Core) (f : Chunk → Chunk) : (c.modChunk f).lateIncs = c.lateIncs := rfl
@[simp] theorem Core.modChunk_copied (c : Core) (f : Chunk → Chunk) : (c.modChunk f).copied = c.copied := rfl
@[simp] theorem Core.modChunk_sent (c : Core) (f : Chunk → Chunk) : (c.modChunk f).sent = c.sent := rfl
@[simp] theorem Core.modChunk_outPort (c : Core) (f : Chunk → Chunk) : (c.modChunk f).outPort = c.outPort := rfl
@[simp] theorem Core.modChunk_pushed (c : Core) (f : Chunk → Chunk) : (c.modChunk f).pushed = c.pushed := rfl
@[simp] theorem Core.modChunk_unstat (c : Core) (f : Chunk → Chunk) : (c.modChunk f).unstat = c.unstat := rfl
@[simp] theorem Core.modChunk_kept (c : Core) (f : Chunk → Chunk) : (c.modChunk f).kept = c.kept := rfl
@[simp] theorem Core.modChunk_pick (c : Core) (f : Chunk → Chunk) : (c.modChunk f).pick = c.pick := rfl
@[simp] theorem Core.modChunk_part (c : Core) (f : Chunk → Chunk) : (c.modChunk f).part = c.part := rfl
@[simp] theorem Core.modChunk_slowClean (c : Core) (f : Chunk → Chunk) : (c.modChunk f).slowClean = c.slowClean := rfl
@[simp] theorem Core.close_pcn (c : Core) : (c.close).pcn = c.pcn := rfl
@[simp] theorem Core.close_run (c : Core) : (c.close).run = c.run := rfl
@[simp] theorem Core.close_regs (c : Core) : (c.close).regs = c.regs := rfl
@[simp] theorem Core.close_pend (c : Core) : (c.close).pend = c.pend := rfl
@[simp] theorem Core.close_pois (c : Core) : (c.close).pois = c.pois := rfl
@[simp] theorem Core.close_pc (c : Core) : (c.close).pc = c.pc := rfl
@[simp] theorem Core.close_ctl (c : Core) : (c.close).ctl = c.ctl := rfl
@[simp] theorem Core.close_gen (c : Core) : (c.close).gen = c.gen := rfl
@[simp] theorem Core.close_vprog (c : Core) : (c.close).vprog = c.vprog := rfl
@[simp] theorem Core.close_nreq (c : Core) : (c.close).nreq = c.nreq := rfl
@[simp] theorem Core.close_wake (c : Core) : (c.close).wake = c.wake := rfl
@[simp] theorem Core.close_spad (c : Core) : (c.close).spad = c.spad := rfl
@[simp] theorem Core.close_marks (c : Core) : (c.close).marks = c.marks := rfl
@[simp] theorem Core.close_ecc (c : Core) : (c.close).ecc = c.ecc := rfl
@[simp] theorem Core.close_streak (c : Core) : (c.close).streak = c.streak := rfl
@[simp] theorem Core.close_l1 (c : Core) : (c.close).l1 = c.l1 := rfl
@[simp] theorem Core.close_early (c : Core) : (c.close).early = c.early := rfl
@[simp] theorem Core.close_late (c : Core) : (c.close).late = c.late := rfl
@[simp] theorem Core.close_out (c : Core) : (c.close).out = c.out := rfl
@[simp] theorem Core.close_slice (c : Core) : (c.close).slice = c.slice := rfl
@[simp] theorem Core.close_member (c : Core) : (c.close).member = c.member := rfl
@[simp] theorem Core.close_finished (c : Core) : (c.close).finished = c.finished := rfl
@[simp] theorem Core.close_phase (c : Core) : (c.close).phase = c.phase := rfl
@[simp] theorem Core.close_parity (c : Core) : (c.close).parity = c.parity := rfl
@[simp] theorem Core.close_leftBar (c : Core) : (c.close).leftBar = c.leftBar := rfl
@[simp] theorem Core.close_regrantAt (c : Core) : (c.close).regrantAt = c.regrantAt := rfl
@[simp] theorem Core.close_timetable (c : Core) : (c.close).timetable = c.timetable := rfl
@[simp] theorem Core.close_ttDone (c : Core) : (c.close).ttDone = c.ttDone := rfl
@[simp] theorem Core.close_ctrs (c : Core) : (c.close).ctrs = c.ctrs := rfl
@[simp] theorem Core.close_armed (c : Core) : (c.close).armed = c.armed := rfl
@[simp] theorem Core.close_fired (c : Core) : (c.close).fired = c.fired := rfl
@[simp] theorem Core.close_qs (c : Core) : (c.close).qs = c.qs := rfl
@[simp] theorem Core.close_events (c : Core) : (c.close).events = c.events := rfl
@[simp] theorem Core.close_eventsWaiting (c : Core) : (c.close).eventsWaiting = c.eventsWaiting := rfl
@[simp] theorem Core.close_mailbox (c : Core) : (c.close).mailbox = c.mailbox := rfl
@[simp] theorem Core.close_irq (c : Core) : (c.close).irq = c.irq := rfl
@[simp] theorem Core.close_msendw (c : Core) : (c.close).msendw = c.msendw := rfl
@[simp] theorem Core.close_reserved (c : Core) : (c.close).reserved = c.reserved := rfl
@[simp] theorem Core.close_marked (c : Core) : (c.close).marked = c.marked := rfl
@[simp] theorem Core.close_fence (c : Core) : (c.close).fence = c.fence := rfl
@[simp] theorem Core.close_waiting (c : Core) : (c.close).waiting = c.waiting := rfl
@[simp] theorem Core.close_taking (c : Core) : (c.close).taking = c.taking := rfl
@[simp] theorem Core.close_worker (c : Core) : (c.close).worker = c.worker := rfl
@[simp] theorem Core.close_scrub (c : Core) : (c.close).scrub = c.scrub := rfl
@[simp] theorem Core.close_acked (c : Core) : (c.close).acked = c.acked := rfl
@[simp] theorem Core.close_ackCsb (c : Core) : (c.close).ackCsb = c.ackCsb := rfl
@[simp] theorem Core.close_lateIncs (c : Core) : (c.close).lateIncs = c.lateIncs := rfl
@[simp] theorem Core.close_copied (c : Core) : (c.close).copied = c.copied := rfl
@[simp] theorem Core.close_sent (c : Core) : (c.close).sent = c.sent := rfl
@[simp] theorem Core.close_outPort (c : Core) : (c.close).outPort = c.outPort := rfl
@[simp] theorem Core.close_pushed (c : Core) : (c.close).pushed = c.pushed := rfl
@[simp] theorem Core.close_unstat (c : Core) : (c.close).unstat = c.unstat := rfl
@[simp] theorem Core.close_kept (c : Core) : (c.close).kept = c.kept := rfl
@[simp] theorem Core.close_pick (c : Core) : (c.close).pick = c.pick := rfl
@[simp] theorem Core.close_part (c : Core) : (c.close).part = c.part := rfl
@[simp] theorem Core.close_slowClean (c : Core) : (c.close).slowClean = c.slowClean := rfl
@[simp] theorem Core.countIn_pcn (c : Core) : (c.countIn).pcn = c.pcn := rfl
@[simp] theorem Core.countIn_run (c : Core) : (c.countIn).run = c.run := rfl
@[simp] theorem Core.countIn_regs (c : Core) : (c.countIn).regs = c.regs := rfl
@[simp] theorem Core.countIn_pend (c : Core) : (c.countIn).pend = c.pend := rfl
@[simp] theorem Core.countIn_pois (c : Core) : (c.countIn).pois = c.pois := rfl
@[simp] theorem Core.countIn_pc (c : Core) : (c.countIn).pc = c.pc := rfl
@[simp] theorem Core.countIn_ctl (c : Core) : (c.countIn).ctl = c.ctl := rfl
@[simp] theorem Core.countIn_gen (c : Core) : (c.countIn).gen = c.gen := rfl
@[simp] theorem Core.countIn_nreq (c : Core) : (c.countIn).nreq = c.nreq := rfl
@[simp] theorem Core.countIn_wake (c : Core) : (c.countIn).wake = c.wake := rfl
@[simp] theorem Core.countIn_spad (c : Core) : (c.countIn).spad = c.spad := rfl
@[simp] theorem Core.countIn_marks (c : Core) : (c.countIn).marks = c.marks := rfl
@[simp] theorem Core.countIn_ecc (c : Core) : (c.countIn).ecc = c.ecc := rfl
@[simp] theorem Core.countIn_streak (c : Core) : (c.countIn).streak = c.streak := rfl
@[simp] theorem Core.countIn_l1 (c : Core) : (c.countIn).l1 = c.l1 := rfl
@[simp] theorem Core.countIn_early (c : Core) : (c.countIn).early = c.early := rfl
@[simp] theorem Core.countIn_late (c : Core) : (c.countIn).late = c.late := rfl
@[simp] theorem Core.countIn_out (c : Core) : (c.countIn).out = c.out := rfl
@[simp] theorem Core.countIn_slice (c : Core) : (c.countIn).slice = c.slice := rfl
@[simp] theorem Core.countIn_member (c : Core) : (c.countIn).member = c.member := rfl
@[simp] theorem Core.countIn_finished (c : Core) : (c.countIn).finished = c.finished := rfl
@[simp] theorem Core.countIn_phase (c : Core) : (c.countIn).phase = c.phase := rfl
@[simp] theorem Core.countIn_parity (c : Core) : (c.countIn).parity = c.parity := rfl
@[simp] theorem Core.countIn_leftBar (c : Core) : (c.countIn).leftBar = c.leftBar := rfl
@[simp] theorem Core.countIn_regrantAt (c : Core) : (c.countIn).regrantAt = c.regrantAt := rfl
@[simp] theorem Core.countIn_timetable (c : Core) : (c.countIn).timetable = c.timetable := rfl
@[simp] theorem Core.countIn_ttDone (c : Core) : (c.countIn).ttDone = c.ttDone := rfl
@[simp] theorem Core.countIn_ctrs (c : Core) : (c.countIn).ctrs = c.ctrs := rfl
@[simp] theorem Core.countIn_armed (c : Core) : (c.countIn).armed = c.armed := rfl
@[simp] theorem Core.countIn_fired (c : Core) : (c.countIn).fired = c.fired := rfl
@[simp] theorem Core.countIn_qs (c : Core) : (c.countIn).qs = c.qs := rfl
@[simp] theorem Core.countIn_events (c : Core) : (c.countIn).events = c.events := rfl
@[simp] theorem Core.countIn_eventsWaiting (c : Core) : (c.countIn).eventsWaiting = c.eventsWaiting := rfl
@[simp] theorem Core.countIn_mailbox (c : Core) : (c.countIn).mailbox = c.mailbox := rfl
@[simp] theorem Core.countIn_irq (c : Core) : (c.countIn).irq = c.irq := rfl
@[simp] theorem Core.countIn_msendw (c : Core) : (c.countIn).msendw = c.msendw := rfl
@[simp] theorem Core.countIn_reserved (c : Core) : (c.countIn).reserved = c.reserved := rfl
@[simp] theorem Core.countIn_marked (c : Core) : (c.countIn).marked = c.marked := rfl
@[simp] theorem Core.countIn_fence (c : Core) : (c.countIn).fence = c.fence := rfl
@[simp] theorem Core.countIn_waiting (c : Core) : (c.countIn).waiting = c.waiting := rfl
@[simp] theorem Core.countIn_taking (c : Core) : (c.countIn).taking = c.taking := rfl
@[simp] theorem Core.countIn_worker (c : Core) : (c.countIn).worker = c.worker := rfl
@[simp] theorem Core.countIn_scrub (c : Core) : (c.countIn).scrub = c.scrub := rfl
@[simp] theorem Core.countIn_acked (c : Core) : (c.countIn).acked = c.acked := rfl
@[simp] theorem Core.countIn_ackCsb (c : Core) : (c.countIn).ackCsb = c.ackCsb := rfl
@[simp] theorem Core.countIn_lateIncs (c : Core) : (c.countIn).lateIncs = c.lateIncs := rfl
@[simp] theorem Core.countIn_copied (c : Core) : (c.countIn).copied = c.copied := rfl
@[simp] theorem Core.countIn_sent (c : Core) : (c.countIn).sent = c.sent := rfl
@[simp] theorem Core.countIn_outPort (c : Core) : (c.countIn).outPort = c.outPort := rfl
@[simp] theorem Core.countIn_pushed (c : Core) : (c.countIn).pushed = c.pushed := rfl
@[simp] theorem Core.countIn_unstat (c : Core) : (c.countIn).unstat = c.unstat := rfl
@[simp] theorem Core.countIn_kept (c : Core) : (c.countIn).kept = c.kept := rfl
@[simp] theorem Core.countIn_pick (c : Core) : (c.countIn).pick = c.pick := rfl
@[simp] theorem Core.countIn_part (c : Core) : (c.countIn).part = c.part := rfl
@[simp] theorem Core.countIn_slowClean (c : Core) : (c.countIn).slowClean = c.slowClean := rfl
@[simp] theorem Core.retired_pcn (c : Core) : (c.retired).pcn = c.pcn := rfl
@[simp] theorem Core.retired_run (c : Core) : (c.retired).run = c.run := rfl
@[simp] theorem Core.retired_regs (c : Core) : (c.retired).regs = c.regs := rfl
@[simp] theorem Core.retired_pend (c : Core) : (c.retired).pend = c.pend := rfl
@[simp] theorem Core.retired_pois (c : Core) : (c.retired).pois = c.pois := rfl
@[simp] theorem Core.retired_pc (c : Core) : (c.retired).pc = c.pc := rfl
@[simp] theorem Core.retired_gen (c : Core) : (c.retired).gen = c.gen := rfl
@[simp] theorem Core.retired_nreq (c : Core) : (c.retired).nreq = c.nreq := rfl
@[simp] theorem Core.retired_wake (c : Core) : (c.retired).wake = c.wake := rfl
@[simp] theorem Core.retired_spad (c : Core) : (c.retired).spad = c.spad := rfl
@[simp] theorem Core.retired_marks (c : Core) : (c.retired).marks = c.marks := rfl
@[simp] theorem Core.retired_ecc (c : Core) : (c.retired).ecc = c.ecc := rfl
@[simp] theorem Core.retired_chunk (c : Core) : (c.retired).chunk = c.chunk := rfl
@[simp] theorem Core.retired_streak (c : Core) : (c.retired).streak = c.streak := rfl
@[simp] theorem Core.retired_l1 (c : Core) : (c.retired).l1 = c.l1 := rfl
@[simp] theorem Core.retired_early (c : Core) : (c.retired).early = c.early := rfl
@[simp] theorem Core.retired_late (c : Core) : (c.retired).late = c.late := rfl
@[simp] theorem Core.retired_out (c : Core) : (c.retired).out = c.out := rfl
@[simp] theorem Core.retired_slice (c : Core) : (c.retired).slice = c.slice := rfl
@[simp] theorem Core.retired_member (c : Core) : (c.retired).member = c.member := rfl
@[simp] theorem Core.retired_finished (c : Core) : (c.retired).finished = c.finished := rfl
@[simp] theorem Core.retired_phase (c : Core) : (c.retired).phase = c.phase := rfl
@[simp] theorem Core.retired_parity (c : Core) : (c.retired).parity = c.parity := rfl
@[simp] theorem Core.retired_leftBar (c : Core) : (c.retired).leftBar = c.leftBar := rfl
@[simp] theorem Core.retired_regrantAt (c : Core) : (c.retired).regrantAt = c.regrantAt := rfl
@[simp] theorem Core.retired_timetable (c : Core) : (c.retired).timetable = c.timetable := rfl
@[simp] theorem Core.retired_ttDone (c : Core) : (c.retired).ttDone = c.ttDone := rfl
@[simp] theorem Core.retired_ctrs (c : Core) : (c.retired).ctrs = c.ctrs := rfl
@[simp] theorem Core.retired_armed (c : Core) : (c.retired).armed = c.armed := rfl
@[simp] theorem Core.retired_fired (c : Core) : (c.retired).fired = c.fired := rfl
@[simp] theorem Core.retired_qs (c : Core) : (c.retired).qs = c.qs := rfl
@[simp] theorem Core.retired_events (c : Core) : (c.retired).events = c.events := rfl
@[simp] theorem Core.retired_eventsWaiting (c : Core) : (c.retired).eventsWaiting = c.eventsWaiting := rfl
@[simp] theorem Core.retired_mailbox (c : Core) : (c.retired).mailbox = c.mailbox := rfl
@[simp] theorem Core.retired_irq (c : Core) : (c.retired).irq = c.irq := rfl
@[simp] theorem Core.retired_msendw (c : Core) : (c.retired).msendw = c.msendw := rfl
@[simp] theorem Core.retired_reserved (c : Core) : (c.retired).reserved = c.reserved := rfl
@[simp] theorem Core.retired_marked (c : Core) : (c.retired).marked = c.marked := rfl
@[simp] theorem Core.retired_fence (c : Core) : (c.retired).fence = c.fence := rfl
@[simp] theorem Core.retired_waiting (c : Core) : (c.retired).waiting = c.waiting := rfl
@[simp] theorem Core.retired_taking (c : Core) : (c.retired).taking = c.taking := rfl
@[simp] theorem Core.retired_worker (c : Core) : (c.retired).worker = c.worker := rfl
@[simp] theorem Core.retired_scrub (c : Core) : (c.retired).scrub = c.scrub := rfl
@[simp] theorem Core.retired_acked (c : Core) : (c.retired).acked = c.acked := rfl
@[simp] theorem Core.retired_ackCsb (c : Core) : (c.retired).ackCsb = c.ackCsb := rfl
@[simp] theorem Core.retired_lateIncs (c : Core) : (c.retired).lateIncs = c.lateIncs := rfl
@[simp] theorem Core.retired_sent (c : Core) : (c.retired).sent = c.sent := rfl
@[simp] theorem Core.retired_outPort (c : Core) : (c.retired).outPort = c.outPort := rfl
@[simp] theorem Core.retired_pushed (c : Core) : (c.retired).pushed = c.pushed := rfl
@[simp] theorem Core.retired_kept (c : Core) : (c.retired).kept = c.kept := rfl
@[simp] theorem Core.retired_pick (c : Core) : (c.retired).pick = c.pick := rfl
@[simp] theorem Core.retired_part (c : Core) : (c.retired).part = c.part := rfl
@[simp] theorem Core.retired_slowClean (c : Core) : (c.retired).slowClean = c.slowClean := rfl
@[simp] theorem Core.addFlags_pcn (c : Core) (f : Flg) : (c.addFlags f).pcn = c.pcn := rfl
@[simp] theorem Core.addFlags_run (c : Core) (f : Flg) : (c.addFlags f).run = c.run := rfl
@[simp] theorem Core.addFlags_regs (c : Core) (f : Flg) : (c.addFlags f).regs = c.regs := rfl
@[simp] theorem Core.addFlags_pend (c : Core) (f : Flg) : (c.addFlags f).pend = c.pend := rfl
@[simp] theorem Core.addFlags_pois (c : Core) (f : Flg) : (c.addFlags f).pois = c.pois := rfl
@[simp] theorem Core.addFlags_pc (c : Core) (f : Flg) : (c.addFlags f).pc = c.pc := rfl
@[simp] theorem Core.addFlags_gen (c : Core) (f : Flg) : (c.addFlags f).gen = c.gen := rfl
@[simp] theorem Core.addFlags_vprog (c : Core) (f : Flg) : (c.addFlags f).vprog = c.vprog := rfl
@[simp] theorem Core.addFlags_nreq (c : Core) (f : Flg) : (c.addFlags f).nreq = c.nreq := rfl
@[simp] theorem Core.addFlags_wake (c : Core) (f : Flg) : (c.addFlags f).wake = c.wake := rfl
@[simp] theorem Core.addFlags_spad (c : Core) (f : Flg) : (c.addFlags f).spad = c.spad := rfl
@[simp] theorem Core.addFlags_marks (c : Core) (f : Flg) : (c.addFlags f).marks = c.marks := rfl
@[simp] theorem Core.addFlags_ecc (c : Core) (f : Flg) : (c.addFlags f).ecc = c.ecc := rfl
@[simp] theorem Core.addFlags_chunk (c : Core) (f : Flg) : (c.addFlags f).chunk = c.chunk := rfl
@[simp] theorem Core.addFlags_streak (c : Core) (f : Flg) : (c.addFlags f).streak = c.streak := rfl
@[simp] theorem Core.addFlags_l1 (c : Core) (f : Flg) : (c.addFlags f).l1 = c.l1 := rfl
@[simp] theorem Core.addFlags_early (c : Core) (f : Flg) : (c.addFlags f).early = c.early := rfl
@[simp] theorem Core.addFlags_late (c : Core) (f : Flg) : (c.addFlags f).late = c.late := rfl
@[simp] theorem Core.addFlags_out (c : Core) (f : Flg) : (c.addFlags f).out = c.out := rfl
@[simp] theorem Core.addFlags_slice (c : Core) (f : Flg) : (c.addFlags f).slice = c.slice := rfl
@[simp] theorem Core.addFlags_member (c : Core) (f : Flg) : (c.addFlags f).member = c.member := rfl
@[simp] theorem Core.addFlags_finished (c : Core) (f : Flg) : (c.addFlags f).finished = c.finished := rfl
@[simp] theorem Core.addFlags_phase (c : Core) (f : Flg) : (c.addFlags f).phase = c.phase := rfl
@[simp] theorem Core.addFlags_parity (c : Core) (f : Flg) : (c.addFlags f).parity = c.parity := rfl
@[simp] theorem Core.addFlags_leftBar (c : Core) (f : Flg) : (c.addFlags f).leftBar = c.leftBar := rfl
@[simp] theorem Core.addFlags_regrantAt (c : Core) (f : Flg) : (c.addFlags f).regrantAt = c.regrantAt := rfl
@[simp] theorem Core.addFlags_timetable (c : Core) (f : Flg) : (c.addFlags f).timetable = c.timetable := rfl
@[simp] theorem Core.addFlags_ttDone (c : Core) (f : Flg) : (c.addFlags f).ttDone = c.ttDone := rfl
@[simp] theorem Core.addFlags_ctrs (c : Core) (f : Flg) : (c.addFlags f).ctrs = c.ctrs := rfl
@[simp] theorem Core.addFlags_armed (c : Core) (f : Flg) : (c.addFlags f).armed = c.armed := rfl
@[simp] theorem Core.addFlags_fired (c : Core) (f : Flg) : (c.addFlags f).fired = c.fired := rfl
@[simp] theorem Core.addFlags_qs (c : Core) (f : Flg) : (c.addFlags f).qs = c.qs := rfl
@[simp] theorem Core.addFlags_events (c : Core) (f : Flg) : (c.addFlags f).events = c.events := rfl
@[simp] theorem Core.addFlags_eventsWaiting (c : Core) (f : Flg) : (c.addFlags f).eventsWaiting = c.eventsWaiting := rfl
@[simp] theorem Core.addFlags_mailbox (c : Core) (f : Flg) : (c.addFlags f).mailbox = c.mailbox := rfl
@[simp] theorem Core.addFlags_irq (c : Core) (f : Flg) : (c.addFlags f).irq = c.irq := rfl
@[simp] theorem Core.addFlags_msendw (c : Core) (f : Flg) : (c.addFlags f).msendw = c.msendw := rfl
@[simp] theorem Core.addFlags_reserved (c : Core) (f : Flg) : (c.addFlags f).reserved = c.reserved := rfl
@[simp] theorem Core.addFlags_marked (c : Core) (f : Flg) : (c.addFlags f).marked = c.marked := rfl
@[simp] theorem Core.addFlags_fence (c : Core) (f : Flg) : (c.addFlags f).fence = c.fence := rfl
@[simp] theorem Core.addFlags_waiting (c : Core) (f : Flg) : (c.addFlags f).waiting = c.waiting := rfl
@[simp] theorem Core.addFlags_taking (c : Core) (f : Flg) : (c.addFlags f).taking = c.taking := rfl
@[simp] theorem Core.addFlags_worker (c : Core) (f : Flg) : (c.addFlags f).worker = c.worker := rfl
@[simp] theorem Core.addFlags_scrub (c : Core) (f : Flg) : (c.addFlags f).scrub = c.scrub := rfl
@[simp] theorem Core.addFlags_acked (c : Core) (f : Flg) : (c.addFlags f).acked = c.acked := rfl
@[simp] theorem Core.addFlags_ackCsb (c : Core) (f : Flg) : (c.addFlags f).ackCsb = c.ackCsb := rfl
@[simp] theorem Core.addFlags_lateIncs (c : Core) (f : Flg) : (c.addFlags f).lateIncs = c.lateIncs := rfl
@[simp] theorem Core.addFlags_copied (c : Core) (f : Flg) : (c.addFlags f).copied = c.copied := rfl
@[simp] theorem Core.addFlags_sent (c : Core) (f : Flg) : (c.addFlags f).sent = c.sent := rfl
@[simp] theorem Core.addFlags_outPort (c : Core) (f : Flg) : (c.addFlags f).outPort = c.outPort := rfl
@[simp] theorem Core.addFlags_pushed (c : Core) (f : Flg) : (c.addFlags f).pushed = c.pushed := rfl
@[simp] theorem Core.addFlags_unstat (c : Core) (f : Flg) : (c.addFlags f).unstat = c.unstat := rfl
@[simp] theorem Core.addFlags_kept (c : Core) (f : Flg) : (c.addFlags f).kept = c.kept := rfl
@[simp] theorem Core.addFlags_pick (c : Core) (f : Flg) : (c.addFlags f).pick = c.pick := rfl
@[simp] theorem Core.addFlags_part (c : Core) (f : Flg) : (c.addFlags f).part = c.part := rfl
@[simp] theorem Core.addFlags_slowClean (c : Core) (f : Flg) : (c.addFlags f).slowClean = c.slowClean := rfl

/-! ## The scratchpad -/

@[simp] theorem Core.poke_pcn (c : Core) (a : Nat) (bs : List Byte) : (c.poke a bs).pcn = c.pcn := rfl
@[simp] theorem Core.poke_run (c : Core) (a : Nat) (bs : List Byte) : (c.poke a bs).run = c.run := rfl
@[simp] theorem Core.poke_regs (c : Core) (a : Nat) (bs : List Byte) : (c.poke a bs).regs = c.regs := rfl
@[simp] theorem Core.poke_pend (c : Core) (a : Nat) (bs : List Byte) : (c.poke a bs).pend = c.pend := rfl
@[simp] theorem Core.poke_pois (c : Core) (a : Nat) (bs : List Byte) : (c.poke a bs).pois = c.pois := rfl
@[simp] theorem Core.poke_pc (c : Core) (a : Nat) (bs : List Byte) : (c.poke a bs).pc = c.pc := rfl
@[simp] theorem Core.poke_ctl (c : Core) (a : Nat) (bs : List Byte) : (c.poke a bs).ctl = c.ctl := rfl
@[simp] theorem Core.poke_gen (c : Core) (a : Nat) (bs : List Byte) : (c.poke a bs).gen = c.gen := rfl
@[simp] theorem Core.poke_vprog (c : Core) (a : Nat) (bs : List Byte) : (c.poke a bs).vprog = c.vprog := rfl
@[simp] theorem Core.poke_nreq (c : Core) (a : Nat) (bs : List Byte) : (c.poke a bs).nreq = c.nreq := rfl
@[simp] theorem Core.poke_wake (c : Core) (a : Nat) (bs : List Byte) : (c.poke a bs).wake = c.wake := rfl
@[simp] theorem Core.poke_marks (c : Core) (a : Nat) (bs : List Byte) : (c.poke a bs).marks = c.marks := rfl
@[simp] theorem Core.poke_chunk (c : Core) (a : Nat) (bs : List Byte) : (c.poke a bs).chunk = c.chunk := rfl
@[simp] theorem Core.poke_streak (c : Core) (a : Nat) (bs : List Byte) : (c.poke a bs).streak = c.streak := rfl
@[simp] theorem Core.poke_l1 (c : Core) (a : Nat) (bs : List Byte) : (c.poke a bs).l1 = c.l1 := rfl
@[simp] theorem Core.poke_early (c : Core) (a : Nat) (bs : List Byte) : (c.poke a bs).early = c.early := rfl
@[simp] theorem Core.poke_late (c : Core) (a : Nat) (bs : List Byte) : (c.poke a bs).late = c.late := rfl
@[simp] theorem Core.poke_out (c : Core) (a : Nat) (bs : List Byte) : (c.poke a bs).out = c.out := rfl
@[simp] theorem Core.poke_slice (c : Core) (a : Nat) (bs : List Byte) : (c.poke a bs).slice = c.slice := rfl
@[simp] theorem Core.poke_member (c : Core) (a : Nat) (bs : List Byte) : (c.poke a bs).member = c.member := rfl
@[simp] theorem Core.poke_finished (c : Core) (a : Nat) (bs : List Byte) : (c.poke a bs).finished = c.finished := rfl
@[simp] theorem Core.poke_phase (c : Core) (a : Nat) (bs : List Byte) : (c.poke a bs).phase = c.phase := rfl
@[simp] theorem Core.poke_parity (c : Core) (a : Nat) (bs : List Byte) : (c.poke a bs).parity = c.parity := rfl
@[simp] theorem Core.poke_leftBar (c : Core) (a : Nat) (bs : List Byte) : (c.poke a bs).leftBar = c.leftBar := rfl
@[simp] theorem Core.poke_regrantAt (c : Core) (a : Nat) (bs : List Byte) : (c.poke a bs).regrantAt = c.regrantAt := rfl
@[simp] theorem Core.poke_timetable (c : Core) (a : Nat) (bs : List Byte) : (c.poke a bs).timetable = c.timetable := rfl
@[simp] theorem Core.poke_ttDone (c : Core) (a : Nat) (bs : List Byte) : (c.poke a bs).ttDone = c.ttDone := rfl
@[simp] theorem Core.poke_ctrs (c : Core) (a : Nat) (bs : List Byte) : (c.poke a bs).ctrs = c.ctrs := rfl
@[simp] theorem Core.poke_armed (c : Core) (a : Nat) (bs : List Byte) : (c.poke a bs).armed = c.armed := rfl
@[simp] theorem Core.poke_fired (c : Core) (a : Nat) (bs : List Byte) : (c.poke a bs).fired = c.fired := rfl
@[simp] theorem Core.poke_qs (c : Core) (a : Nat) (bs : List Byte) : (c.poke a bs).qs = c.qs := rfl
@[simp] theorem Core.poke_events (c : Core) (a : Nat) (bs : List Byte) : (c.poke a bs).events = c.events := rfl
@[simp] theorem Core.poke_eventsWaiting (c : Core) (a : Nat) (bs : List Byte) : (c.poke a bs).eventsWaiting = c.eventsWaiting := rfl
@[simp] theorem Core.poke_mailbox (c : Core) (a : Nat) (bs : List Byte) : (c.poke a bs).mailbox = c.mailbox := rfl
@[simp] theorem Core.poke_irq (c : Core) (a : Nat) (bs : List Byte) : (c.poke a bs).irq = c.irq := rfl
@[simp] theorem Core.poke_msendw (c : Core) (a : Nat) (bs : List Byte) : (c.poke a bs).msendw = c.msendw := rfl
@[simp] theorem Core.poke_reserved (c : Core) (a : Nat) (bs : List Byte) : (c.poke a bs).reserved = c.reserved := rfl
@[simp] theorem Core.poke_marked (c : Core) (a : Nat) (bs : List Byte) : (c.poke a bs).marked = c.marked := rfl
@[simp] theorem Core.poke_fence (c : Core) (a : Nat) (bs : List Byte) : (c.poke a bs).fence = c.fence := rfl
@[simp] theorem Core.poke_waiting (c : Core) (a : Nat) (bs : List Byte) : (c.poke a bs).waiting = c.waiting := rfl
@[simp] theorem Core.poke_taking (c : Core) (a : Nat) (bs : List Byte) : (c.poke a bs).taking = c.taking := rfl
@[simp] theorem Core.poke_worker (c : Core) (a : Nat) (bs : List Byte) : (c.poke a bs).worker = c.worker := rfl
@[simp] theorem Core.poke_scrub (c : Core) (a : Nat) (bs : List Byte) : (c.poke a bs).scrub = c.scrub := rfl
@[simp] theorem Core.poke_acked (c : Core) (a : Nat) (bs : List Byte) : (c.poke a bs).acked = c.acked := rfl
@[simp] theorem Core.poke_ackCsb (c : Core) (a : Nat) (bs : List Byte) : (c.poke a bs).ackCsb = c.ackCsb := rfl
@[simp] theorem Core.poke_lateIncs (c : Core) (a : Nat) (bs : List Byte) : (c.poke a bs).lateIncs = c.lateIncs := rfl
@[simp] theorem Core.poke_copied (c : Core) (a : Nat) (bs : List Byte) : (c.poke a bs).copied = c.copied := rfl
@[simp] theorem Core.poke_sent (c : Core) (a : Nat) (bs : List Byte) : (c.poke a bs).sent = c.sent := rfl
@[simp] theorem Core.poke_outPort (c : Core) (a : Nat) (bs : List Byte) : (c.poke a bs).outPort = c.outPort := rfl
@[simp] theorem Core.poke_pushed (c : Core) (a : Nat) (bs : List Byte) : (c.poke a bs).pushed = c.pushed := rfl
@[simp] theorem Core.poke_unstat (c : Core) (a : Nat) (bs : List Byte) : (c.poke a bs).unstat = c.unstat := rfl
@[simp] theorem Core.poke_kept (c : Core) (a : Nat) (bs : List Byte) : (c.poke a bs).kept = c.kept := rfl
@[simp] theorem Core.poke_pick (c : Core) (a : Nat) (bs : List Byte) : (c.poke a bs).pick = c.pick := rfl
@[simp] theorem Core.poke_part (c : Core) (a : Nat) (bs : List Byte) : (c.poke a bs).part = c.part := rfl
@[simp] theorem Core.poke_slowClean (c : Core) (a : Nat) (bs : List Byte) : (c.poke a bs).slowClean = c.slowClean := rfl
@[simp] theorem Core.pokeLE_pcn (c : Core) (a n v : Nat) : (c.pokeLE a n v).pcn = c.pcn := rfl
@[simp] theorem Core.pokeLE_run (c : Core) (a n v : Nat) : (c.pokeLE a n v).run = c.run := rfl
@[simp] theorem Core.pokeLE_regs (c : Core) (a n v : Nat) : (c.pokeLE a n v).regs = c.regs := rfl
@[simp] theorem Core.pokeLE_pend (c : Core) (a n v : Nat) : (c.pokeLE a n v).pend = c.pend := rfl
@[simp] theorem Core.pokeLE_pois (c : Core) (a n v : Nat) : (c.pokeLE a n v).pois = c.pois := rfl
@[simp] theorem Core.pokeLE_pc (c : Core) (a n v : Nat) : (c.pokeLE a n v).pc = c.pc := rfl
@[simp] theorem Core.pokeLE_ctl (c : Core) (a n v : Nat) : (c.pokeLE a n v).ctl = c.ctl := rfl
@[simp] theorem Core.pokeLE_gen (c : Core) (a n v : Nat) : (c.pokeLE a n v).gen = c.gen := rfl
@[simp] theorem Core.pokeLE_vprog (c : Core) (a n v : Nat) : (c.pokeLE a n v).vprog = c.vprog := rfl
@[simp] theorem Core.pokeLE_nreq (c : Core) (a n v : Nat) : (c.pokeLE a n v).nreq = c.nreq := rfl
@[simp] theorem Core.pokeLE_wake (c : Core) (a n v : Nat) : (c.pokeLE a n v).wake = c.wake := rfl
@[simp] theorem Core.pokeLE_marks (c : Core) (a n v : Nat) : (c.pokeLE a n v).marks = c.marks := rfl
@[simp] theorem Core.pokeLE_chunk (c : Core) (a n v : Nat) : (c.pokeLE a n v).chunk = c.chunk := rfl
@[simp] theorem Core.pokeLE_streak (c : Core) (a n v : Nat) : (c.pokeLE a n v).streak = c.streak := rfl
@[simp] theorem Core.pokeLE_l1 (c : Core) (a n v : Nat) : (c.pokeLE a n v).l1 = c.l1 := rfl
@[simp] theorem Core.pokeLE_early (c : Core) (a n v : Nat) : (c.pokeLE a n v).early = c.early := rfl
@[simp] theorem Core.pokeLE_late (c : Core) (a n v : Nat) : (c.pokeLE a n v).late = c.late := rfl
@[simp] theorem Core.pokeLE_out (c : Core) (a n v : Nat) : (c.pokeLE a n v).out = c.out := rfl
@[simp] theorem Core.pokeLE_slice (c : Core) (a n v : Nat) : (c.pokeLE a n v).slice = c.slice := rfl
@[simp] theorem Core.pokeLE_member (c : Core) (a n v : Nat) : (c.pokeLE a n v).member = c.member := rfl
@[simp] theorem Core.pokeLE_finished (c : Core) (a n v : Nat) : (c.pokeLE a n v).finished = c.finished := rfl
@[simp] theorem Core.pokeLE_phase (c : Core) (a n v : Nat) : (c.pokeLE a n v).phase = c.phase := rfl
@[simp] theorem Core.pokeLE_parity (c : Core) (a n v : Nat) : (c.pokeLE a n v).parity = c.parity := rfl
@[simp] theorem Core.pokeLE_leftBar (c : Core) (a n v : Nat) : (c.pokeLE a n v).leftBar = c.leftBar := rfl
@[simp] theorem Core.pokeLE_regrantAt (c : Core) (a n v : Nat) : (c.pokeLE a n v).regrantAt = c.regrantAt := rfl
@[simp] theorem Core.pokeLE_timetable (c : Core) (a n v : Nat) : (c.pokeLE a n v).timetable = c.timetable := rfl
@[simp] theorem Core.pokeLE_ttDone (c : Core) (a n v : Nat) : (c.pokeLE a n v).ttDone = c.ttDone := rfl
@[simp] theorem Core.pokeLE_ctrs (c : Core) (a n v : Nat) : (c.pokeLE a n v).ctrs = c.ctrs := rfl
@[simp] theorem Core.pokeLE_armed (c : Core) (a n v : Nat) : (c.pokeLE a n v).armed = c.armed := rfl
@[simp] theorem Core.pokeLE_fired (c : Core) (a n v : Nat) : (c.pokeLE a n v).fired = c.fired := rfl
@[simp] theorem Core.pokeLE_qs (c : Core) (a n v : Nat) : (c.pokeLE a n v).qs = c.qs := rfl
@[simp] theorem Core.pokeLE_events (c : Core) (a n v : Nat) : (c.pokeLE a n v).events = c.events := rfl
@[simp] theorem Core.pokeLE_eventsWaiting (c : Core) (a n v : Nat) : (c.pokeLE a n v).eventsWaiting = c.eventsWaiting := rfl
@[simp] theorem Core.pokeLE_mailbox (c : Core) (a n v : Nat) : (c.pokeLE a n v).mailbox = c.mailbox := rfl
@[simp] theorem Core.pokeLE_irq (c : Core) (a n v : Nat) : (c.pokeLE a n v).irq = c.irq := rfl
@[simp] theorem Core.pokeLE_msendw (c : Core) (a n v : Nat) : (c.pokeLE a n v).msendw = c.msendw := rfl
@[simp] theorem Core.pokeLE_reserved (c : Core) (a n v : Nat) : (c.pokeLE a n v).reserved = c.reserved := rfl
@[simp] theorem Core.pokeLE_marked (c : Core) (a n v : Nat) : (c.pokeLE a n v).marked = c.marked := rfl
@[simp] theorem Core.pokeLE_fence (c : Core) (a n v : Nat) : (c.pokeLE a n v).fence = c.fence := rfl
@[simp] theorem Core.pokeLE_waiting (c : Core) (a n v : Nat) : (c.pokeLE a n v).waiting = c.waiting := rfl
@[simp] theorem Core.pokeLE_taking (c : Core) (a n v : Nat) : (c.pokeLE a n v).taking = c.taking := rfl
@[simp] theorem Core.pokeLE_worker (c : Core) (a n v : Nat) : (c.pokeLE a n v).worker = c.worker := rfl
@[simp] theorem Core.pokeLE_scrub (c : Core) (a n v : Nat) : (c.pokeLE a n v).scrub = c.scrub := rfl
@[simp] theorem Core.pokeLE_acked (c : Core) (a n v : Nat) : (c.pokeLE a n v).acked = c.acked := rfl
@[simp] theorem Core.pokeLE_ackCsb (c : Core) (a n v : Nat) : (c.pokeLE a n v).ackCsb = c.ackCsb := rfl
@[simp] theorem Core.pokeLE_lateIncs (c : Core) (a n v : Nat) : (c.pokeLE a n v).lateIncs = c.lateIncs := rfl
@[simp] theorem Core.pokeLE_copied (c : Core) (a n v : Nat) : (c.pokeLE a n v).copied = c.copied := rfl
@[simp] theorem Core.pokeLE_sent (c : Core) (a n v : Nat) : (c.pokeLE a n v).sent = c.sent := rfl
@[simp] theorem Core.pokeLE_outPort (c : Core) (a n v : Nat) : (c.pokeLE a n v).outPort = c.outPort := rfl
@[simp] theorem Core.pokeLE_pushed (c : Core) (a n v : Nat) : (c.pokeLE a n v).pushed = c.pushed := rfl
@[simp] theorem Core.pokeLE_unstat (c : Core) (a n v : Nat) : (c.pokeLE a n v).unstat = c.unstat := rfl
@[simp] theorem Core.pokeLE_kept (c : Core) (a n v : Nat) : (c.pokeLE a n v).kept = c.kept := rfl
@[simp] theorem Core.pokeLE_pick (c : Core) (a n v : Nat) : (c.pokeLE a n v).pick = c.pick := rfl
@[simp] theorem Core.pokeLE_part (c : Core) (a n v : Nat) : (c.pokeLE a n v).part = c.part := rfl
@[simp] theorem Core.pokeLE_slowClean (c : Core) (a n v : Nat) : (c.pokeLE a n v).slowClean = c.slowClean := rfl

/-! ## Engine queues -/

@[simp] theorem Core.modQ_pcn (c : Core) (q : Nat) (f : EngineQ → EngineQ) : (c.modQ q f).pcn = c.pcn := rfl
@[simp] theorem Core.modQ_run (c : Core) (q : Nat) (f : EngineQ → EngineQ) : (c.modQ q f).run = c.run := rfl
@[simp] theorem Core.modQ_regs (c : Core) (q : Nat) (f : EngineQ → EngineQ) : (c.modQ q f).regs = c.regs := rfl
@[simp] theorem Core.modQ_pend (c : Core) (q : Nat) (f : EngineQ → EngineQ) : (c.modQ q f).pend = c.pend := rfl
@[simp] theorem Core.modQ_pois (c : Core) (q : Nat) (f : EngineQ → EngineQ) : (c.modQ q f).pois = c.pois := rfl
@[simp] theorem Core.modQ_pc (c : Core) (q : Nat) (f : EngineQ → EngineQ) : (c.modQ q f).pc = c.pc := rfl
@[simp] theorem Core.modQ_ctl (c : Core) (q : Nat) (f : EngineQ → EngineQ) : (c.modQ q f).ctl = c.ctl := rfl
@[simp] theorem Core.modQ_gen (c : Core) (q : Nat) (f : EngineQ → EngineQ) : (c.modQ q f).gen = c.gen := rfl
@[simp] theorem Core.modQ_vprog (c : Core) (q : Nat) (f : EngineQ → EngineQ) : (c.modQ q f).vprog = c.vprog := rfl
@[simp] theorem Core.modQ_nreq (c : Core) (q : Nat) (f : EngineQ → EngineQ) : (c.modQ q f).nreq = c.nreq := rfl
@[simp] theorem Core.modQ_wake (c : Core) (q : Nat) (f : EngineQ → EngineQ) : (c.modQ q f).wake = c.wake := rfl
@[simp] theorem Core.modQ_spad (c : Core) (q : Nat) (f : EngineQ → EngineQ) : (c.modQ q f).spad = c.spad := rfl
@[simp] theorem Core.modQ_marks (c : Core) (q : Nat) (f : EngineQ → EngineQ) : (c.modQ q f).marks = c.marks := rfl
@[simp] theorem Core.modQ_ecc (c : Core) (q : Nat) (f : EngineQ → EngineQ) : (c.modQ q f).ecc = c.ecc := rfl
@[simp] theorem Core.modQ_chunk (c : Core) (q : Nat) (f : EngineQ → EngineQ) : (c.modQ q f).chunk = c.chunk := rfl
@[simp] theorem Core.modQ_streak (c : Core) (q : Nat) (f : EngineQ → EngineQ) : (c.modQ q f).streak = c.streak := rfl
@[simp] theorem Core.modQ_l1 (c : Core) (q : Nat) (f : EngineQ → EngineQ) : (c.modQ q f).l1 = c.l1 := rfl
@[simp] theorem Core.modQ_early (c : Core) (q : Nat) (f : EngineQ → EngineQ) : (c.modQ q f).early = c.early := rfl
@[simp] theorem Core.modQ_late (c : Core) (q : Nat) (f : EngineQ → EngineQ) : (c.modQ q f).late = c.late := rfl
@[simp] theorem Core.modQ_out (c : Core) (q : Nat) (f : EngineQ → EngineQ) : (c.modQ q f).out = c.out := rfl
@[simp] theorem Core.modQ_slice (c : Core) (q : Nat) (f : EngineQ → EngineQ) : (c.modQ q f).slice = c.slice := rfl
@[simp] theorem Core.modQ_member (c : Core) (q : Nat) (f : EngineQ → EngineQ) : (c.modQ q f).member = c.member := rfl
@[simp] theorem Core.modQ_finished (c : Core) (q : Nat) (f : EngineQ → EngineQ) : (c.modQ q f).finished = c.finished := rfl
@[simp] theorem Core.modQ_phase (c : Core) (q : Nat) (f : EngineQ → EngineQ) : (c.modQ q f).phase = c.phase := rfl
@[simp] theorem Core.modQ_parity (c : Core) (q : Nat) (f : EngineQ → EngineQ) : (c.modQ q f).parity = c.parity := rfl
@[simp] theorem Core.modQ_leftBar (c : Core) (q : Nat) (f : EngineQ → EngineQ) : (c.modQ q f).leftBar = c.leftBar := rfl
@[simp] theorem Core.modQ_regrantAt (c : Core) (q : Nat) (f : EngineQ → EngineQ) : (c.modQ q f).regrantAt = c.regrantAt := rfl
@[simp] theorem Core.modQ_timetable (c : Core) (q : Nat) (f : EngineQ → EngineQ) : (c.modQ q f).timetable = c.timetable := rfl
@[simp] theorem Core.modQ_ttDone (c : Core) (q : Nat) (f : EngineQ → EngineQ) : (c.modQ q f).ttDone = c.ttDone := rfl
@[simp] theorem Core.modQ_ctrs (c : Core) (q : Nat) (f : EngineQ → EngineQ) : (c.modQ q f).ctrs = c.ctrs := rfl
@[simp] theorem Core.modQ_armed (c : Core) (q : Nat) (f : EngineQ → EngineQ) : (c.modQ q f).armed = c.armed := rfl
@[simp] theorem Core.modQ_fired (c : Core) (q : Nat) (f : EngineQ → EngineQ) : (c.modQ q f).fired = c.fired := rfl
@[simp] theorem Core.modQ_events (c : Core) (q : Nat) (f : EngineQ → EngineQ) : (c.modQ q f).events = c.events := rfl
@[simp] theorem Core.modQ_eventsWaiting (c : Core) (q : Nat) (f : EngineQ → EngineQ) : (c.modQ q f).eventsWaiting = c.eventsWaiting := rfl
@[simp] theorem Core.modQ_mailbox (c : Core) (q : Nat) (f : EngineQ → EngineQ) : (c.modQ q f).mailbox = c.mailbox := rfl
@[simp] theorem Core.modQ_irq (c : Core) (q : Nat) (f : EngineQ → EngineQ) : (c.modQ q f).irq = c.irq := rfl
@[simp] theorem Core.modQ_msendw (c : Core) (q : Nat) (f : EngineQ → EngineQ) : (c.modQ q f).msendw = c.msendw := rfl
@[simp] theorem Core.modQ_reserved (c : Core) (q : Nat) (f : EngineQ → EngineQ) : (c.modQ q f).reserved = c.reserved := rfl
@[simp] theorem Core.modQ_marked (c : Core) (q : Nat) (f : EngineQ → EngineQ) : (c.modQ q f).marked = c.marked := rfl
@[simp] theorem Core.modQ_fence (c : Core) (q : Nat) (f : EngineQ → EngineQ) : (c.modQ q f).fence = c.fence := rfl
@[simp] theorem Core.modQ_waiting (c : Core) (q : Nat) (f : EngineQ → EngineQ) : (c.modQ q f).waiting = c.waiting := rfl
@[simp] theorem Core.modQ_taking (c : Core) (q : Nat) (f : EngineQ → EngineQ) : (c.modQ q f).taking = c.taking := rfl
@[simp] theorem Core.modQ_worker (c : Core) (q : Nat) (f : EngineQ → EngineQ) : (c.modQ q f).worker = c.worker := rfl
@[simp] theorem Core.modQ_scrub (c : Core) (q : Nat) (f : EngineQ → EngineQ) : (c.modQ q f).scrub = c.scrub := rfl
@[simp] theorem Core.modQ_acked (c : Core) (q : Nat) (f : EngineQ → EngineQ) : (c.modQ q f).acked = c.acked := rfl
@[simp] theorem Core.modQ_ackCsb (c : Core) (q : Nat) (f : EngineQ → EngineQ) : (c.modQ q f).ackCsb = c.ackCsb := rfl
@[simp] theorem Core.modQ_lateIncs (c : Core) (q : Nat) (f : EngineQ → EngineQ) : (c.modQ q f).lateIncs = c.lateIncs := rfl
@[simp] theorem Core.modQ_copied (c : Core) (q : Nat) (f : EngineQ → EngineQ) : (c.modQ q f).copied = c.copied := rfl
@[simp] theorem Core.modQ_sent (c : Core) (q : Nat) (f : EngineQ → EngineQ) : (c.modQ q f).sent = c.sent := rfl
@[simp] theorem Core.modQ_outPort (c : Core) (q : Nat) (f : EngineQ → EngineQ) : (c.modQ q f).outPort = c.outPort := rfl
@[simp] theorem Core.modQ_pushed (c : Core) (q : Nat) (f : EngineQ → EngineQ) : (c.modQ q f).pushed = c.pushed := rfl
@[simp] theorem Core.modQ_unstat (c : Core) (q : Nat) (f : EngineQ → EngineQ) : (c.modQ q f).unstat = c.unstat := rfl
@[simp] theorem Core.modQ_kept (c : Core) (q : Nat) (f : EngineQ → EngineQ) : (c.modQ q f).kept = c.kept := rfl
@[simp] theorem Core.modQ_pick (c : Core) (q : Nat) (f : EngineQ → EngineQ) : (c.modQ q f).pick = c.pick := rfl
@[simp] theorem Core.modQ_part (c : Core) (q : Nat) (f : EngineQ → EngineQ) : (c.modQ q f).part = c.part := rfl
@[simp] theorem Core.modQ_slowClean (c : Core) (q : Nat) (f : EngineQ → EngineQ) : (c.modQ q f).slowClean = c.slowClean := rfl
@[simp] theorem Core.enqueue_pcn (c : Core) (q : Nat) (k : Cmd) : (c.enqueue q k).pcn = c.pcn := rfl
@[simp] theorem Core.enqueue_run (c : Core) (q : Nat) (k : Cmd) : (c.enqueue q k).run = c.run := rfl
@[simp] theorem Core.enqueue_regs (c : Core) (q : Nat) (k : Cmd) : (c.enqueue q k).regs = c.regs := rfl
@[simp] theorem Core.enqueue_pend (c : Core) (q : Nat) (k : Cmd) : (c.enqueue q k).pend = c.pend := rfl
@[simp] theorem Core.enqueue_pois (c : Core) (q : Nat) (k : Cmd) : (c.enqueue q k).pois = c.pois := rfl
@[simp] theorem Core.enqueue_pc (c : Core) (q : Nat) (k : Cmd) : (c.enqueue q k).pc = c.pc := rfl
@[simp] theorem Core.enqueue_ctl (c : Core) (q : Nat) (k : Cmd) : (c.enqueue q k).ctl = c.ctl := rfl
@[simp] theorem Core.enqueue_gen (c : Core) (q : Nat) (k : Cmd) : (c.enqueue q k).gen = c.gen := rfl
@[simp] theorem Core.enqueue_vprog (c : Core) (q : Nat) (k : Cmd) : (c.enqueue q k).vprog = c.vprog := rfl
@[simp] theorem Core.enqueue_nreq (c : Core) (q : Nat) (k : Cmd) : (c.enqueue q k).nreq = c.nreq := rfl
@[simp] theorem Core.enqueue_wake (c : Core) (q : Nat) (k : Cmd) : (c.enqueue q k).wake = c.wake := rfl
@[simp] theorem Core.enqueue_spad (c : Core) (q : Nat) (k : Cmd) : (c.enqueue q k).spad = c.spad := rfl
@[simp] theorem Core.enqueue_marks (c : Core) (q : Nat) (k : Cmd) : (c.enqueue q k).marks = c.marks := rfl
@[simp] theorem Core.enqueue_ecc (c : Core) (q : Nat) (k : Cmd) : (c.enqueue q k).ecc = c.ecc := rfl
@[simp] theorem Core.enqueue_chunk (c : Core) (q : Nat) (k : Cmd) : (c.enqueue q k).chunk = c.chunk := rfl
@[simp] theorem Core.enqueue_streak (c : Core) (q : Nat) (k : Cmd) : (c.enqueue q k).streak = c.streak := rfl
@[simp] theorem Core.enqueue_l1 (c : Core) (q : Nat) (k : Cmd) : (c.enqueue q k).l1 = c.l1 := rfl
@[simp] theorem Core.enqueue_early (c : Core) (q : Nat) (k : Cmd) : (c.enqueue q k).early = c.early := rfl
@[simp] theorem Core.enqueue_late (c : Core) (q : Nat) (k : Cmd) : (c.enqueue q k).late = c.late := rfl
@[simp] theorem Core.enqueue_out (c : Core) (q : Nat) (k : Cmd) : (c.enqueue q k).out = c.out := rfl
@[simp] theorem Core.enqueue_slice (c : Core) (q : Nat) (k : Cmd) : (c.enqueue q k).slice = c.slice := rfl
@[simp] theorem Core.enqueue_member (c : Core) (q : Nat) (k : Cmd) : (c.enqueue q k).member = c.member := rfl
@[simp] theorem Core.enqueue_finished (c : Core) (q : Nat) (k : Cmd) : (c.enqueue q k).finished = c.finished := rfl
@[simp] theorem Core.enqueue_phase (c : Core) (q : Nat) (k : Cmd) : (c.enqueue q k).phase = c.phase := rfl
@[simp] theorem Core.enqueue_parity (c : Core) (q : Nat) (k : Cmd) : (c.enqueue q k).parity = c.parity := rfl
@[simp] theorem Core.enqueue_leftBar (c : Core) (q : Nat) (k : Cmd) : (c.enqueue q k).leftBar = c.leftBar := rfl
@[simp] theorem Core.enqueue_regrantAt (c : Core) (q : Nat) (k : Cmd) : (c.enqueue q k).regrantAt = c.regrantAt := rfl
@[simp] theorem Core.enqueue_timetable (c : Core) (q : Nat) (k : Cmd) : (c.enqueue q k).timetable = c.timetable := rfl
@[simp] theorem Core.enqueue_ttDone (c : Core) (q : Nat) (k : Cmd) : (c.enqueue q k).ttDone = c.ttDone := rfl
@[simp] theorem Core.enqueue_ctrs (c : Core) (q : Nat) (k : Cmd) : (c.enqueue q k).ctrs = c.ctrs := rfl
@[simp] theorem Core.enqueue_armed (c : Core) (q : Nat) (k : Cmd) : (c.enqueue q k).armed = c.armed := rfl
@[simp] theorem Core.enqueue_fired (c : Core) (q : Nat) (k : Cmd) : (c.enqueue q k).fired = c.fired := rfl
@[simp] theorem Core.enqueue_events (c : Core) (q : Nat) (k : Cmd) : (c.enqueue q k).events = c.events := rfl
@[simp] theorem Core.enqueue_eventsWaiting (c : Core) (q : Nat) (k : Cmd) : (c.enqueue q k).eventsWaiting = c.eventsWaiting := rfl
@[simp] theorem Core.enqueue_mailbox (c : Core) (q : Nat) (k : Cmd) : (c.enqueue q k).mailbox = c.mailbox := rfl
@[simp] theorem Core.enqueue_irq (c : Core) (q : Nat) (k : Cmd) : (c.enqueue q k).irq = c.irq := rfl
@[simp] theorem Core.enqueue_msendw (c : Core) (q : Nat) (k : Cmd) : (c.enqueue q k).msendw = c.msendw := rfl
@[simp] theorem Core.enqueue_reserved (c : Core) (q : Nat) (k : Cmd) : (c.enqueue q k).reserved = c.reserved := rfl
@[simp] theorem Core.enqueue_marked (c : Core) (q : Nat) (k : Cmd) : (c.enqueue q k).marked = c.marked := rfl
@[simp] theorem Core.enqueue_fence (c : Core) (q : Nat) (k : Cmd) : (c.enqueue q k).fence = c.fence := rfl
@[simp] theorem Core.enqueue_waiting (c : Core) (q : Nat) (k : Cmd) : (c.enqueue q k).waiting = c.waiting := rfl
@[simp] theorem Core.enqueue_taking (c : Core) (q : Nat) (k : Cmd) : (c.enqueue q k).taking = c.taking := rfl
@[simp] theorem Core.enqueue_worker (c : Core) (q : Nat) (k : Cmd) : (c.enqueue q k).worker = c.worker := rfl
@[simp] theorem Core.enqueue_scrub (c : Core) (q : Nat) (k : Cmd) : (c.enqueue q k).scrub = c.scrub := rfl
@[simp] theorem Core.enqueue_acked (c : Core) (q : Nat) (k : Cmd) : (c.enqueue q k).acked = c.acked := rfl
@[simp] theorem Core.enqueue_ackCsb (c : Core) (q : Nat) (k : Cmd) : (c.enqueue q k).ackCsb = c.ackCsb := rfl
@[simp] theorem Core.enqueue_lateIncs (c : Core) (q : Nat) (k : Cmd) : (c.enqueue q k).lateIncs = c.lateIncs := rfl
@[simp] theorem Core.enqueue_copied (c : Core) (q : Nat) (k : Cmd) : (c.enqueue q k).copied = c.copied := rfl
@[simp] theorem Core.enqueue_sent (c : Core) (q : Nat) (k : Cmd) : (c.enqueue q k).sent = c.sent := rfl
@[simp] theorem Core.enqueue_outPort (c : Core) (q : Nat) (k : Cmd) : (c.enqueue q k).outPort = c.outPort := rfl
@[simp] theorem Core.enqueue_unstat (c : Core) (q : Nat) (k : Cmd) : (c.enqueue q k).unstat = c.unstat := rfl
@[simp] theorem Core.enqueue_kept (c : Core) (q : Nat) (k : Cmd) : (c.enqueue q k).kept = c.kept := rfl
@[simp] theorem Core.enqueue_pick (c : Core) (q : Nat) (k : Cmd) : (c.enqueue q k).pick = c.pick := rfl
@[simp] theorem Core.enqueue_part (c : Core) (q : Nat) (k : Cmd) : (c.enqueue q k).part = c.part := rfl
@[simp] theorem Core.enqueue_slowClean (c : Core) (q : Nat) (k : Cmd) : (c.enqueue q k).slowClean = c.slowClean := rfl

/-! ## The L1 -/

@[simp] theorem Core.l1Drop_pcn (c : Core) (x : Nat) : (c.l1Drop x).pcn = c.pcn := rfl
@[simp] theorem Core.l1Drop_run (c : Core) (x : Nat) : (c.l1Drop x).run = c.run := rfl
@[simp] theorem Core.l1Drop_regs (c : Core) (x : Nat) : (c.l1Drop x).regs = c.regs := rfl
@[simp] theorem Core.l1Drop_pend (c : Core) (x : Nat) : (c.l1Drop x).pend = c.pend := rfl
@[simp] theorem Core.l1Drop_pois (c : Core) (x : Nat) : (c.l1Drop x).pois = c.pois := rfl
@[simp] theorem Core.l1Drop_pc (c : Core) (x : Nat) : (c.l1Drop x).pc = c.pc := rfl
@[simp] theorem Core.l1Drop_ctl (c : Core) (x : Nat) : (c.l1Drop x).ctl = c.ctl := rfl
@[simp] theorem Core.l1Drop_gen (c : Core) (x : Nat) : (c.l1Drop x).gen = c.gen := rfl
@[simp] theorem Core.l1Drop_vprog (c : Core) (x : Nat) : (c.l1Drop x).vprog = c.vprog := rfl
@[simp] theorem Core.l1Drop_nreq (c : Core) (x : Nat) : (c.l1Drop x).nreq = c.nreq := rfl
@[simp] theorem Core.l1Drop_wake (c : Core) (x : Nat) : (c.l1Drop x).wake = c.wake := rfl
@[simp] theorem Core.l1Drop_spad (c : Core) (x : Nat) : (c.l1Drop x).spad = c.spad := rfl
@[simp] theorem Core.l1Drop_marks (c : Core) (x : Nat) : (c.l1Drop x).marks = c.marks := rfl
@[simp] theorem Core.l1Drop_ecc (c : Core) (x : Nat) : (c.l1Drop x).ecc = c.ecc := rfl
@[simp] theorem Core.l1Drop_chunk (c : Core) (x : Nat) : (c.l1Drop x).chunk = c.chunk := rfl
@[simp] theorem Core.l1Drop_streak (c : Core) (x : Nat) : (c.l1Drop x).streak = c.streak := rfl
@[simp] theorem Core.l1Drop_early (c : Core) (x : Nat) : (c.l1Drop x).early = c.early := rfl
@[simp] theorem Core.l1Drop_late (c : Core) (x : Nat) : (c.l1Drop x).late = c.late := rfl
@[simp] theorem Core.l1Drop_out (c : Core) (x : Nat) : (c.l1Drop x).out = c.out := rfl
@[simp] theorem Core.l1Drop_slice (c : Core) (x : Nat) : (c.l1Drop x).slice = c.slice := rfl
@[simp] theorem Core.l1Drop_member (c : Core) (x : Nat) : (c.l1Drop x).member = c.member := rfl
@[simp] theorem Core.l1Drop_finished (c : Core) (x : Nat) : (c.l1Drop x).finished = c.finished := rfl
@[simp] theorem Core.l1Drop_phase (c : Core) (x : Nat) : (c.l1Drop x).phase = c.phase := rfl
@[simp] theorem Core.l1Drop_parity (c : Core) (x : Nat) : (c.l1Drop x).parity = c.parity := rfl
@[simp] theorem Core.l1Drop_leftBar (c : Core) (x : Nat) : (c.l1Drop x).leftBar = c.leftBar := rfl
@[simp] theorem Core.l1Drop_regrantAt (c : Core) (x : Nat) : (c.l1Drop x).regrantAt = c.regrantAt := rfl
@[simp] theorem Core.l1Drop_timetable (c : Core) (x : Nat) : (c.l1Drop x).timetable = c.timetable := rfl
@[simp] theorem Core.l1Drop_ttDone (c : Core) (x : Nat) : (c.l1Drop x).ttDone = c.ttDone := rfl
@[simp] theorem Core.l1Drop_ctrs (c : Core) (x : Nat) : (c.l1Drop x).ctrs = c.ctrs := rfl
@[simp] theorem Core.l1Drop_armed (c : Core) (x : Nat) : (c.l1Drop x).armed = c.armed := rfl
@[simp] theorem Core.l1Drop_fired (c : Core) (x : Nat) : (c.l1Drop x).fired = c.fired := rfl
@[simp] theorem Core.l1Drop_qs (c : Core) (x : Nat) : (c.l1Drop x).qs = c.qs := rfl
@[simp] theorem Core.l1Drop_events (c : Core) (x : Nat) : (c.l1Drop x).events = c.events := rfl
@[simp] theorem Core.l1Drop_eventsWaiting (c : Core) (x : Nat) : (c.l1Drop x).eventsWaiting = c.eventsWaiting := rfl
@[simp] theorem Core.l1Drop_mailbox (c : Core) (x : Nat) : (c.l1Drop x).mailbox = c.mailbox := rfl
@[simp] theorem Core.l1Drop_irq (c : Core) (x : Nat) : (c.l1Drop x).irq = c.irq := rfl
@[simp] theorem Core.l1Drop_msendw (c : Core) (x : Nat) : (c.l1Drop x).msendw = c.msendw := rfl
@[simp] theorem Core.l1Drop_reserved (c : Core) (x : Nat) : (c.l1Drop x).reserved = c.reserved := rfl
@[simp] theorem Core.l1Drop_marked (c : Core) (x : Nat) : (c.l1Drop x).marked = c.marked := rfl
@[simp] theorem Core.l1Drop_fence (c : Core) (x : Nat) : (c.l1Drop x).fence = c.fence := rfl
@[simp] theorem Core.l1Drop_waiting (c : Core) (x : Nat) : (c.l1Drop x).waiting = c.waiting := rfl
@[simp] theorem Core.l1Drop_taking (c : Core) (x : Nat) : (c.l1Drop x).taking = c.taking := rfl
@[simp] theorem Core.l1Drop_worker (c : Core) (x : Nat) : (c.l1Drop x).worker = c.worker := rfl
@[simp] theorem Core.l1Drop_scrub (c : Core) (x : Nat) : (c.l1Drop x).scrub = c.scrub := rfl
@[simp] theorem Core.l1Drop_acked (c : Core) (x : Nat) : (c.l1Drop x).acked = c.acked := rfl
@[simp] theorem Core.l1Drop_ackCsb (c : Core) (x : Nat) : (c.l1Drop x).ackCsb = c.ackCsb := rfl
@[simp] theorem Core.l1Drop_lateIncs (c : Core) (x : Nat) : (c.l1Drop x).lateIncs = c.lateIncs := rfl
@[simp] theorem Core.l1Drop_copied (c : Core) (x : Nat) : (c.l1Drop x).copied = c.copied := rfl
@[simp] theorem Core.l1Drop_sent (c : Core) (x : Nat) : (c.l1Drop x).sent = c.sent := rfl
@[simp] theorem Core.l1Drop_outPort (c : Core) (x : Nat) : (c.l1Drop x).outPort = c.outPort := rfl
@[simp] theorem Core.l1Drop_pushed (c : Core) (x : Nat) : (c.l1Drop x).pushed = c.pushed := rfl
@[simp] theorem Core.l1Drop_unstat (c : Core) (x : Nat) : (c.l1Drop x).unstat = c.unstat := rfl
@[simp] theorem Core.l1Drop_kept (c : Core) (x : Nat) : (c.l1Drop x).kept = c.kept := rfl
@[simp] theorem Core.l1Drop_pick (c : Core) (x : Nat) : (c.l1Drop x).pick = c.pick := rfl
@[simp] theorem Core.l1Drop_part (c : Core) (x : Nat) : (c.l1Drop x).part = c.part := rfl
@[simp] theorem Core.l1Drop_slowClean (c : Core) (x : Nat) : (c.l1Drop x).slowClean = c.slowClean := rfl
@[simp] theorem Core.l1Room_pcn (c : Core) (x : Nat) : (c.l1Room x).pcn = c.pcn := by unfold Core.l1Room; split; rfl; split <;> rfl
@[simp] theorem Core.l1Room_run (c : Core) (x : Nat) : (c.l1Room x).run = c.run := by unfold Core.l1Room; split; rfl; split <;> rfl
@[simp] theorem Core.l1Room_regs (c : Core) (x : Nat) : (c.l1Room x).regs = c.regs := by unfold Core.l1Room; split; rfl; split <;> rfl
@[simp] theorem Core.l1Room_pend (c : Core) (x : Nat) : (c.l1Room x).pend = c.pend := by unfold Core.l1Room; split; rfl; split <;> rfl
@[simp] theorem Core.l1Room_pois (c : Core) (x : Nat) : (c.l1Room x).pois = c.pois := by unfold Core.l1Room; split; rfl; split <;> rfl
@[simp] theorem Core.l1Room_pc (c : Core) (x : Nat) : (c.l1Room x).pc = c.pc := by unfold Core.l1Room; split; rfl; split <;> rfl
@[simp] theorem Core.l1Room_ctl (c : Core) (x : Nat) : (c.l1Room x).ctl = c.ctl := by unfold Core.l1Room; split; rfl; split <;> rfl
@[simp] theorem Core.l1Room_gen (c : Core) (x : Nat) : (c.l1Room x).gen = c.gen := by unfold Core.l1Room; split; rfl; split <;> rfl
@[simp] theorem Core.l1Room_vprog (c : Core) (x : Nat) : (c.l1Room x).vprog = c.vprog := by unfold Core.l1Room; split; rfl; split <;> rfl
@[simp] theorem Core.l1Room_nreq (c : Core) (x : Nat) : (c.l1Room x).nreq = c.nreq := by unfold Core.l1Room; split; rfl; split <;> rfl
@[simp] theorem Core.l1Room_wake (c : Core) (x : Nat) : (c.l1Room x).wake = c.wake := by unfold Core.l1Room; split; rfl; split <;> rfl
@[simp] theorem Core.l1Room_spad (c : Core) (x : Nat) : (c.l1Room x).spad = c.spad := by unfold Core.l1Room; split; rfl; split <;> rfl
@[simp] theorem Core.l1Room_marks (c : Core) (x : Nat) : (c.l1Room x).marks = c.marks := by unfold Core.l1Room; split; rfl; split <;> rfl
@[simp] theorem Core.l1Room_ecc (c : Core) (x : Nat) : (c.l1Room x).ecc = c.ecc := by unfold Core.l1Room; split; rfl; split <;> rfl
@[simp] theorem Core.l1Room_chunk (c : Core) (x : Nat) : (c.l1Room x).chunk = c.chunk := by unfold Core.l1Room; split; rfl; split <;> rfl
@[simp] theorem Core.l1Room_streak (c : Core) (x : Nat) : (c.l1Room x).streak = c.streak := by unfold Core.l1Room; split; rfl; split <;> rfl
@[simp] theorem Core.l1Room_early (c : Core) (x : Nat) : (c.l1Room x).early = c.early := by unfold Core.l1Room; split; rfl; split <;> rfl
@[simp] theorem Core.l1Room_late (c : Core) (x : Nat) : (c.l1Room x).late = c.late := by unfold Core.l1Room; split; rfl; split <;> rfl
@[simp] theorem Core.l1Room_out (c : Core) (x : Nat) : (c.l1Room x).out = c.out := by unfold Core.l1Room; split; rfl; split <;> rfl
@[simp] theorem Core.l1Room_slice (c : Core) (x : Nat) : (c.l1Room x).slice = c.slice := by unfold Core.l1Room; split; rfl; split <;> rfl
@[simp] theorem Core.l1Room_member (c : Core) (x : Nat) : (c.l1Room x).member = c.member := by unfold Core.l1Room; split; rfl; split <;> rfl
@[simp] theorem Core.l1Room_finished (c : Core) (x : Nat) : (c.l1Room x).finished = c.finished := by unfold Core.l1Room; split; rfl; split <;> rfl
@[simp] theorem Core.l1Room_phase (c : Core) (x : Nat) : (c.l1Room x).phase = c.phase := by unfold Core.l1Room; split; rfl; split <;> rfl
@[simp] theorem Core.l1Room_parity (c : Core) (x : Nat) : (c.l1Room x).parity = c.parity := by unfold Core.l1Room; split; rfl; split <;> rfl
@[simp] theorem Core.l1Room_leftBar (c : Core) (x : Nat) : (c.l1Room x).leftBar = c.leftBar := by unfold Core.l1Room; split; rfl; split <;> rfl
@[simp] theorem Core.l1Room_regrantAt (c : Core) (x : Nat) : (c.l1Room x).regrantAt = c.regrantAt := by unfold Core.l1Room; split; rfl; split <;> rfl
@[simp] theorem Core.l1Room_timetable (c : Core) (x : Nat) : (c.l1Room x).timetable = c.timetable := by unfold Core.l1Room; split; rfl; split <;> rfl
@[simp] theorem Core.l1Room_ttDone (c : Core) (x : Nat) : (c.l1Room x).ttDone = c.ttDone := by unfold Core.l1Room; split; rfl; split <;> rfl
@[simp] theorem Core.l1Room_ctrs (c : Core) (x : Nat) : (c.l1Room x).ctrs = c.ctrs := by unfold Core.l1Room; split; rfl; split <;> rfl
@[simp] theorem Core.l1Room_armed (c : Core) (x : Nat) : (c.l1Room x).armed = c.armed := by unfold Core.l1Room; split; rfl; split <;> rfl
@[simp] theorem Core.l1Room_fired (c : Core) (x : Nat) : (c.l1Room x).fired = c.fired := by unfold Core.l1Room; split; rfl; split <;> rfl
@[simp] theorem Core.l1Room_qs (c : Core) (x : Nat) : (c.l1Room x).qs = c.qs := by unfold Core.l1Room; split; rfl; split <;> rfl
@[simp] theorem Core.l1Room_events (c : Core) (x : Nat) : (c.l1Room x).events = c.events := by unfold Core.l1Room; split; rfl; split <;> rfl
@[simp] theorem Core.l1Room_eventsWaiting (c : Core) (x : Nat) : (c.l1Room x).eventsWaiting = c.eventsWaiting := by unfold Core.l1Room; split; rfl; split <;> rfl
@[simp] theorem Core.l1Room_mailbox (c : Core) (x : Nat) : (c.l1Room x).mailbox = c.mailbox := by unfold Core.l1Room; split; rfl; split <;> rfl
@[simp] theorem Core.l1Room_irq (c : Core) (x : Nat) : (c.l1Room x).irq = c.irq := by unfold Core.l1Room; split; rfl; split <;> rfl
@[simp] theorem Core.l1Room_msendw (c : Core) (x : Nat) : (c.l1Room x).msendw = c.msendw := by unfold Core.l1Room; split; rfl; split <;> rfl
@[simp] theorem Core.l1Room_reserved (c : Core) (x : Nat) : (c.l1Room x).reserved = c.reserved := by unfold Core.l1Room; split; rfl; split <;> rfl
@[simp] theorem Core.l1Room_marked (c : Core) (x : Nat) : (c.l1Room x).marked = c.marked := by unfold Core.l1Room; split; rfl; split <;> rfl
@[simp] theorem Core.l1Room_fence (c : Core) (x : Nat) : (c.l1Room x).fence = c.fence := by unfold Core.l1Room; split; rfl; split <;> rfl
@[simp] theorem Core.l1Room_waiting (c : Core) (x : Nat) : (c.l1Room x).waiting = c.waiting := by unfold Core.l1Room; split; rfl; split <;> rfl
@[simp] theorem Core.l1Room_taking (c : Core) (x : Nat) : (c.l1Room x).taking = c.taking := by unfold Core.l1Room; split; rfl; split <;> rfl
@[simp] theorem Core.l1Room_worker (c : Core) (x : Nat) : (c.l1Room x).worker = c.worker := by unfold Core.l1Room; split; rfl; split <;> rfl
@[simp] theorem Core.l1Room_scrub (c : Core) (x : Nat) : (c.l1Room x).scrub = c.scrub := by unfold Core.l1Room; split; rfl; split <;> rfl
@[simp] theorem Core.l1Room_acked (c : Core) (x : Nat) : (c.l1Room x).acked = c.acked := by unfold Core.l1Room; split; rfl; split <;> rfl
@[simp] theorem Core.l1Room_ackCsb (c : Core) (x : Nat) : (c.l1Room x).ackCsb = c.ackCsb := by unfold Core.l1Room; split; rfl; split <;> rfl
@[simp] theorem Core.l1Room_lateIncs (c : Core) (x : Nat) : (c.l1Room x).lateIncs = c.lateIncs := by unfold Core.l1Room; split; rfl; split <;> rfl
@[simp] theorem Core.l1Room_copied (c : Core) (x : Nat) : (c.l1Room x).copied = c.copied := by unfold Core.l1Room; split; rfl; split <;> rfl
@[simp] theorem Core.l1Room_sent (c : Core) (x : Nat) : (c.l1Room x).sent = c.sent := by unfold Core.l1Room; split; rfl; split <;> rfl
@[simp] theorem Core.l1Room_outPort (c : Core) (x : Nat) : (c.l1Room x).outPort = c.outPort := by unfold Core.l1Room; split; rfl; split <;> rfl
@[simp] theorem Core.l1Room_pushed (c : Core) (x : Nat) : (c.l1Room x).pushed = c.pushed := by unfold Core.l1Room; split; rfl; split <;> rfl
@[simp] theorem Core.l1Room_unstat (c : Core) (x : Nat) : (c.l1Room x).unstat = c.unstat := by unfold Core.l1Room; split; rfl; split <;> rfl
@[simp] theorem Core.l1Room_kept (c : Core) (x : Nat) : (c.l1Room x).kept = c.kept := by unfold Core.l1Room; split; rfl; split <;> rfl
@[simp] theorem Core.l1Room_pick (c : Core) (x : Nat) : (c.l1Room x).pick = c.pick := by unfold Core.l1Room; split; rfl; split <;> rfl
@[simp] theorem Core.l1Room_part (c : Core) (x : Nat) : (c.l1Room x).part = c.part := by unfold Core.l1Room; split; rfl; split <;> rfl
@[simp] theorem Core.l1Room_slowClean (c : Core) (x : Nat) : (c.l1Room x).slowClean = c.slowClean := by unfold Core.l1Room; split; rfl; split <;> rfl
@[simp] theorem Core.l1Put_pcn (c : Core) (x : Nat) (d : Line) : (c.l1Put x d).pcn = c.pcn := by simp [Core.l1Put]
@[simp] theorem Core.l1Put_run (c : Core) (x : Nat) (d : Line) : (c.l1Put x d).run = c.run := by simp [Core.l1Put]
@[simp] theorem Core.l1Put_regs (c : Core) (x : Nat) (d : Line) : (c.l1Put x d).regs = c.regs := by simp [Core.l1Put]
@[simp] theorem Core.l1Put_pend (c : Core) (x : Nat) (d : Line) : (c.l1Put x d).pend = c.pend := by simp [Core.l1Put]
@[simp] theorem Core.l1Put_pois (c : Core) (x : Nat) (d : Line) : (c.l1Put x d).pois = c.pois := by simp [Core.l1Put]
@[simp] theorem Core.l1Put_pc (c : Core) (x : Nat) (d : Line) : (c.l1Put x d).pc = c.pc := by simp [Core.l1Put]
@[simp] theorem Core.l1Put_ctl (c : Core) (x : Nat) (d : Line) : (c.l1Put x d).ctl = c.ctl := by simp [Core.l1Put]
@[simp] theorem Core.l1Put_gen (c : Core) (x : Nat) (d : Line) : (c.l1Put x d).gen = c.gen := by simp [Core.l1Put]
@[simp] theorem Core.l1Put_vprog (c : Core) (x : Nat) (d : Line) : (c.l1Put x d).vprog = c.vprog := by simp [Core.l1Put]
@[simp] theorem Core.l1Put_nreq (c : Core) (x : Nat) (d : Line) : (c.l1Put x d).nreq = c.nreq := by simp [Core.l1Put]
@[simp] theorem Core.l1Put_wake (c : Core) (x : Nat) (d : Line) : (c.l1Put x d).wake = c.wake := by simp [Core.l1Put]
@[simp] theorem Core.l1Put_spad (c : Core) (x : Nat) (d : Line) : (c.l1Put x d).spad = c.spad := by simp [Core.l1Put]
@[simp] theorem Core.l1Put_marks (c : Core) (x : Nat) (d : Line) : (c.l1Put x d).marks = c.marks := by simp [Core.l1Put]
@[simp] theorem Core.l1Put_ecc (c : Core) (x : Nat) (d : Line) : (c.l1Put x d).ecc = c.ecc := by simp [Core.l1Put]
@[simp] theorem Core.l1Put_chunk (c : Core) (x : Nat) (d : Line) : (c.l1Put x d).chunk = c.chunk := by simp [Core.l1Put]
@[simp] theorem Core.l1Put_streak (c : Core) (x : Nat) (d : Line) : (c.l1Put x d).streak = c.streak := by simp [Core.l1Put]
@[simp] theorem Core.l1Put_early (c : Core) (x : Nat) (d : Line) : (c.l1Put x d).early = c.early := by simp [Core.l1Put]
@[simp] theorem Core.l1Put_late (c : Core) (x : Nat) (d : Line) : (c.l1Put x d).late = c.late := by simp [Core.l1Put]
@[simp] theorem Core.l1Put_out (c : Core) (x : Nat) (d : Line) : (c.l1Put x d).out = c.out := by simp [Core.l1Put]
@[simp] theorem Core.l1Put_slice (c : Core) (x : Nat) (d : Line) : (c.l1Put x d).slice = c.slice := by simp [Core.l1Put]
@[simp] theorem Core.l1Put_member (c : Core) (x : Nat) (d : Line) : (c.l1Put x d).member = c.member := by simp [Core.l1Put]
@[simp] theorem Core.l1Put_finished (c : Core) (x : Nat) (d : Line) : (c.l1Put x d).finished = c.finished := by simp [Core.l1Put]
@[simp] theorem Core.l1Put_phase (c : Core) (x : Nat) (d : Line) : (c.l1Put x d).phase = c.phase := by simp [Core.l1Put]
@[simp] theorem Core.l1Put_parity (c : Core) (x : Nat) (d : Line) : (c.l1Put x d).parity = c.parity := by simp [Core.l1Put]
@[simp] theorem Core.l1Put_leftBar (c : Core) (x : Nat) (d : Line) : (c.l1Put x d).leftBar = c.leftBar := by simp [Core.l1Put]
@[simp] theorem Core.l1Put_regrantAt (c : Core) (x : Nat) (d : Line) : (c.l1Put x d).regrantAt = c.regrantAt := by simp [Core.l1Put]
@[simp] theorem Core.l1Put_timetable (c : Core) (x : Nat) (d : Line) : (c.l1Put x d).timetable = c.timetable := by simp [Core.l1Put]
@[simp] theorem Core.l1Put_ttDone (c : Core) (x : Nat) (d : Line) : (c.l1Put x d).ttDone = c.ttDone := by simp [Core.l1Put]
@[simp] theorem Core.l1Put_ctrs (c : Core) (x : Nat) (d : Line) : (c.l1Put x d).ctrs = c.ctrs := by simp [Core.l1Put]
@[simp] theorem Core.l1Put_armed (c : Core) (x : Nat) (d : Line) : (c.l1Put x d).armed = c.armed := by simp [Core.l1Put]
@[simp] theorem Core.l1Put_fired (c : Core) (x : Nat) (d : Line) : (c.l1Put x d).fired = c.fired := by simp [Core.l1Put]
@[simp] theorem Core.l1Put_qs (c : Core) (x : Nat) (d : Line) : (c.l1Put x d).qs = c.qs := by simp [Core.l1Put]
@[simp] theorem Core.l1Put_events (c : Core) (x : Nat) (d : Line) : (c.l1Put x d).events = c.events := by simp [Core.l1Put]
@[simp] theorem Core.l1Put_eventsWaiting (c : Core) (x : Nat) (d : Line) : (c.l1Put x d).eventsWaiting = c.eventsWaiting := by simp [Core.l1Put]
@[simp] theorem Core.l1Put_mailbox (c : Core) (x : Nat) (d : Line) : (c.l1Put x d).mailbox = c.mailbox := by simp [Core.l1Put]
@[simp] theorem Core.l1Put_irq (c : Core) (x : Nat) (d : Line) : (c.l1Put x d).irq = c.irq := by simp [Core.l1Put]
@[simp] theorem Core.l1Put_msendw (c : Core) (x : Nat) (d : Line) : (c.l1Put x d).msendw = c.msendw := by simp [Core.l1Put]
@[simp] theorem Core.l1Put_reserved (c : Core) (x : Nat) (d : Line) : (c.l1Put x d).reserved = c.reserved := by simp [Core.l1Put]
@[simp] theorem Core.l1Put_marked (c : Core) (x : Nat) (d : Line) : (c.l1Put x d).marked = c.marked := by simp [Core.l1Put]
@[simp] theorem Core.l1Put_fence (c : Core) (x : Nat) (d : Line) : (c.l1Put x d).fence = c.fence := by simp [Core.l1Put]
@[simp] theorem Core.l1Put_waiting (c : Core) (x : Nat) (d : Line) : (c.l1Put x d).waiting = c.waiting := by simp [Core.l1Put]
@[simp] theorem Core.l1Put_taking (c : Core) (x : Nat) (d : Line) : (c.l1Put x d).taking = c.taking := by simp [Core.l1Put]
@[simp] theorem Core.l1Put_worker (c : Core) (x : Nat) (d : Line) : (c.l1Put x d).worker = c.worker := by simp [Core.l1Put]
@[simp] theorem Core.l1Put_scrub (c : Core) (x : Nat) (d : Line) : (c.l1Put x d).scrub = c.scrub := by simp [Core.l1Put]
@[simp] theorem Core.l1Put_acked (c : Core) (x : Nat) (d : Line) : (c.l1Put x d).acked = c.acked := by simp [Core.l1Put]
@[simp] theorem Core.l1Put_ackCsb (c : Core) (x : Nat) (d : Line) : (c.l1Put x d).ackCsb = c.ackCsb := by simp [Core.l1Put]
@[simp] theorem Core.l1Put_lateIncs (c : Core) (x : Nat) (d : Line) : (c.l1Put x d).lateIncs = c.lateIncs := by simp [Core.l1Put]
@[simp] theorem Core.l1Put_copied (c : Core) (x : Nat) (d : Line) : (c.l1Put x d).copied = c.copied := by simp [Core.l1Put]
@[simp] theorem Core.l1Put_sent (c : Core) (x : Nat) (d : Line) : (c.l1Put x d).sent = c.sent := by simp [Core.l1Put]
@[simp] theorem Core.l1Put_outPort (c : Core) (x : Nat) (d : Line) : (c.l1Put x d).outPort = c.outPort := by simp [Core.l1Put]
@[simp] theorem Core.l1Put_pushed (c : Core) (x : Nat) (d : Line) : (c.l1Put x d).pushed = c.pushed := by simp [Core.l1Put]
@[simp] theorem Core.l1Put_unstat (c : Core) (x : Nat) (d : Line) : (c.l1Put x d).unstat = c.unstat := by simp [Core.l1Put]
@[simp] theorem Core.l1Put_kept (c : Core) (x : Nat) (d : Line) : (c.l1Put x d).kept = c.kept := by simp [Core.l1Put]
@[simp] theorem Core.l1Put_pick (c : Core) (x : Nat) (d : Line) : (c.l1Put x d).pick = c.pick := by simp [Core.l1Put]
@[simp] theorem Core.l1Put_part (c : Core) (x : Nat) (d : Line) : (c.l1Put x d).part = c.part := by simp [Core.l1Put]
@[simp] theorem Core.l1Put_slowClean (c : Core) (x : Nat) (d : Line) : (c.l1Put x d).slowClean = c.slowClean := by simp [Core.l1Put]
@[simp] theorem Core.l1Touch_pcn (c : Core) (x : Nat) : (c.l1Touch x).pcn = c.pcn := by unfold Core.l1Touch; split <;> simp
@[simp] theorem Core.l1Touch_run (c : Core) (x : Nat) : (c.l1Touch x).run = c.run := by unfold Core.l1Touch; split <;> simp
@[simp] theorem Core.l1Touch_regs (c : Core) (x : Nat) : (c.l1Touch x).regs = c.regs := by unfold Core.l1Touch; split <;> simp
@[simp] theorem Core.l1Touch_pend (c : Core) (x : Nat) : (c.l1Touch x).pend = c.pend := by unfold Core.l1Touch; split <;> simp
@[simp] theorem Core.l1Touch_pois (c : Core) (x : Nat) : (c.l1Touch x).pois = c.pois := by unfold Core.l1Touch; split <;> simp
@[simp] theorem Core.l1Touch_pc (c : Core) (x : Nat) : (c.l1Touch x).pc = c.pc := by unfold Core.l1Touch; split <;> simp
@[simp] theorem Core.l1Touch_ctl (c : Core) (x : Nat) : (c.l1Touch x).ctl = c.ctl := by unfold Core.l1Touch; split <;> simp
@[simp] theorem Core.l1Touch_gen (c : Core) (x : Nat) : (c.l1Touch x).gen = c.gen := by unfold Core.l1Touch; split <;> simp
@[simp] theorem Core.l1Touch_vprog (c : Core) (x : Nat) : (c.l1Touch x).vprog = c.vprog := by unfold Core.l1Touch; split <;> simp
@[simp] theorem Core.l1Touch_nreq (c : Core) (x : Nat) : (c.l1Touch x).nreq = c.nreq := by unfold Core.l1Touch; split <;> simp
@[simp] theorem Core.l1Touch_wake (c : Core) (x : Nat) : (c.l1Touch x).wake = c.wake := by unfold Core.l1Touch; split <;> simp
@[simp] theorem Core.l1Touch_spad (c : Core) (x : Nat) : (c.l1Touch x).spad = c.spad := by unfold Core.l1Touch; split <;> simp
@[simp] theorem Core.l1Touch_marks (c : Core) (x : Nat) : (c.l1Touch x).marks = c.marks := by unfold Core.l1Touch; split <;> simp
@[simp] theorem Core.l1Touch_ecc (c : Core) (x : Nat) : (c.l1Touch x).ecc = c.ecc := by unfold Core.l1Touch; split <;> simp
@[simp] theorem Core.l1Touch_chunk (c : Core) (x : Nat) : (c.l1Touch x).chunk = c.chunk := by unfold Core.l1Touch; split <;> simp
@[simp] theorem Core.l1Touch_streak (c : Core) (x : Nat) : (c.l1Touch x).streak = c.streak := by unfold Core.l1Touch; split <;> simp
@[simp] theorem Core.l1Touch_early (c : Core) (x : Nat) : (c.l1Touch x).early = c.early := by unfold Core.l1Touch; split <;> simp
@[simp] theorem Core.l1Touch_late (c : Core) (x : Nat) : (c.l1Touch x).late = c.late := by unfold Core.l1Touch; split <;> simp
@[simp] theorem Core.l1Touch_out (c : Core) (x : Nat) : (c.l1Touch x).out = c.out := by unfold Core.l1Touch; split <;> simp
@[simp] theorem Core.l1Touch_slice (c : Core) (x : Nat) : (c.l1Touch x).slice = c.slice := by unfold Core.l1Touch; split <;> simp
@[simp] theorem Core.l1Touch_member (c : Core) (x : Nat) : (c.l1Touch x).member = c.member := by unfold Core.l1Touch; split <;> simp
@[simp] theorem Core.l1Touch_finished (c : Core) (x : Nat) : (c.l1Touch x).finished = c.finished := by unfold Core.l1Touch; split <;> simp
@[simp] theorem Core.l1Touch_phase (c : Core) (x : Nat) : (c.l1Touch x).phase = c.phase := by unfold Core.l1Touch; split <;> simp
@[simp] theorem Core.l1Touch_parity (c : Core) (x : Nat) : (c.l1Touch x).parity = c.parity := by unfold Core.l1Touch; split <;> simp
@[simp] theorem Core.l1Touch_leftBar (c : Core) (x : Nat) : (c.l1Touch x).leftBar = c.leftBar := by unfold Core.l1Touch; split <;> simp
@[simp] theorem Core.l1Touch_regrantAt (c : Core) (x : Nat) : (c.l1Touch x).regrantAt = c.regrantAt := by unfold Core.l1Touch; split <;> simp
@[simp] theorem Core.l1Touch_timetable (c : Core) (x : Nat) : (c.l1Touch x).timetable = c.timetable := by unfold Core.l1Touch; split <;> simp
@[simp] theorem Core.l1Touch_ttDone (c : Core) (x : Nat) : (c.l1Touch x).ttDone = c.ttDone := by unfold Core.l1Touch; split <;> simp
@[simp] theorem Core.l1Touch_ctrs (c : Core) (x : Nat) : (c.l1Touch x).ctrs = c.ctrs := by unfold Core.l1Touch; split <;> simp
@[simp] theorem Core.l1Touch_armed (c : Core) (x : Nat) : (c.l1Touch x).armed = c.armed := by unfold Core.l1Touch; split <;> simp
@[simp] theorem Core.l1Touch_fired (c : Core) (x : Nat) : (c.l1Touch x).fired = c.fired := by unfold Core.l1Touch; split <;> simp
@[simp] theorem Core.l1Touch_qs (c : Core) (x : Nat) : (c.l1Touch x).qs = c.qs := by unfold Core.l1Touch; split <;> simp
@[simp] theorem Core.l1Touch_events (c : Core) (x : Nat) : (c.l1Touch x).events = c.events := by unfold Core.l1Touch; split <;> simp
@[simp] theorem Core.l1Touch_eventsWaiting (c : Core) (x : Nat) : (c.l1Touch x).eventsWaiting = c.eventsWaiting := by unfold Core.l1Touch; split <;> simp
@[simp] theorem Core.l1Touch_mailbox (c : Core) (x : Nat) : (c.l1Touch x).mailbox = c.mailbox := by unfold Core.l1Touch; split <;> simp
@[simp] theorem Core.l1Touch_irq (c : Core) (x : Nat) : (c.l1Touch x).irq = c.irq := by unfold Core.l1Touch; split <;> simp
@[simp] theorem Core.l1Touch_msendw (c : Core) (x : Nat) : (c.l1Touch x).msendw = c.msendw := by unfold Core.l1Touch; split <;> simp
@[simp] theorem Core.l1Touch_reserved (c : Core) (x : Nat) : (c.l1Touch x).reserved = c.reserved := by unfold Core.l1Touch; split <;> simp
@[simp] theorem Core.l1Touch_marked (c : Core) (x : Nat) : (c.l1Touch x).marked = c.marked := by unfold Core.l1Touch; split <;> simp
@[simp] theorem Core.l1Touch_fence (c : Core) (x : Nat) : (c.l1Touch x).fence = c.fence := by unfold Core.l1Touch; split <;> simp
@[simp] theorem Core.l1Touch_waiting (c : Core) (x : Nat) : (c.l1Touch x).waiting = c.waiting := by unfold Core.l1Touch; split <;> simp
@[simp] theorem Core.l1Touch_taking (c : Core) (x : Nat) : (c.l1Touch x).taking = c.taking := by unfold Core.l1Touch; split <;> simp
@[simp] theorem Core.l1Touch_worker (c : Core) (x : Nat) : (c.l1Touch x).worker = c.worker := by unfold Core.l1Touch; split <;> simp
@[simp] theorem Core.l1Touch_scrub (c : Core) (x : Nat) : (c.l1Touch x).scrub = c.scrub := by unfold Core.l1Touch; split <;> simp
@[simp] theorem Core.l1Touch_acked (c : Core) (x : Nat) : (c.l1Touch x).acked = c.acked := by unfold Core.l1Touch; split <;> simp
@[simp] theorem Core.l1Touch_ackCsb (c : Core) (x : Nat) : (c.l1Touch x).ackCsb = c.ackCsb := by unfold Core.l1Touch; split <;> simp
@[simp] theorem Core.l1Touch_lateIncs (c : Core) (x : Nat) : (c.l1Touch x).lateIncs = c.lateIncs := by unfold Core.l1Touch; split <;> simp
@[simp] theorem Core.l1Touch_copied (c : Core) (x : Nat) : (c.l1Touch x).copied = c.copied := by unfold Core.l1Touch; split <;> simp
@[simp] theorem Core.l1Touch_sent (c : Core) (x : Nat) : (c.l1Touch x).sent = c.sent := by unfold Core.l1Touch; split <;> simp
@[simp] theorem Core.l1Touch_outPort (c : Core) (x : Nat) : (c.l1Touch x).outPort = c.outPort := by unfold Core.l1Touch; split <;> simp
@[simp] theorem Core.l1Touch_pushed (c : Core) (x : Nat) : (c.l1Touch x).pushed = c.pushed := by unfold Core.l1Touch; split <;> simp
@[simp] theorem Core.l1Touch_unstat (c : Core) (x : Nat) : (c.l1Touch x).unstat = c.unstat := by unfold Core.l1Touch; split <;> simp
@[simp] theorem Core.l1Touch_kept (c : Core) (x : Nat) : (c.l1Touch x).kept = c.kept := by unfold Core.l1Touch; split <;> simp
@[simp] theorem Core.l1Touch_pick (c : Core) (x : Nat) : (c.l1Touch x).pick = c.pick := by unfold Core.l1Touch; split <;> simp
@[simp] theorem Core.l1Touch_part (c : Core) (x : Nat) : (c.l1Touch x).part = c.part := by unfold Core.l1Touch; split <;> simp
@[simp] theorem Core.l1Touch_slowClean (c : Core) (x : Nat) : (c.l1Touch x).slowClean = c.slowClean := by unfold Core.l1Touch; split <;> simp

/-! ## The package -/

@[simp] theorem State.out_core (s : State) (x : Output) : (s.out x).core = s.core := rfl
@[simp] theorem State.out_others (s : State) (x : Output) : (s.out x).others = s.others := rfl
@[simp] theorem State.out_agenda (s : State) (x : Output) : (s.out x).agenda = s.agenda := rfl
@[simp] theorem State.out_pace (s : State) (x : Output) : (s.out x).pace = s.pace := rfl
@[simp] theorem State.out_free (s : State) (x : Output) : (s.out x).free = s.free := rfl
@[simp] theorem State.out_tb (s : State) (x : Output) : (s.out x).tb = s.tb := rfl
@[simp] theorem State.out_clusters (s : State) (x : Output) : (s.out x).clusters = s.clusters := rfl
@[simp] theorem State.out_l2 (s : State) (x : Output) : (s.out x).l2 = s.l2 := rfl
@[simp] theorem State.out_moved (s : State) (x : Output) : (s.out x).moved = s.moved := rfl
@[simp] theorem State.out_tlb (s : State) (x : Output) : (s.out x).tlb = s.tlb := rfl
@[simp] theorem State.out_dram (s : State) (x : Output) : (s.out x).dram = s.dram := rfl
@[simp] theorem State.out_codes (s : State) (x : Output) : (s.out x).codes = s.codes := rfl
@[simp] theorem State.out_dramBad (s : State) (x : Output) : (s.out x).dramBad = s.dramBad := rfl
@[simp] theorem State.out_dramSoft (s : State) (x : Output) : (s.out x).dramSoft = s.dramSoft := rfl
@[simp] theorem State.out_corrected (s : State) (x : Output) : (s.out x).corrected = s.corrected := rfl
@[simp] theorem State.out_metaCache (s : State) (x : Output) : (s.out x).metaCache = s.metaCache := rfl
@[simp] theorem State.out_cleans (s : State) (x : Output) : (s.out x).cleans = s.cleans := rfl
@[simp] theorem State.out_hostMem (s : State) (x : Output) : (s.out x).hostMem = s.hostMem := rfl
@[simp] theorem State.out_remoteMem (s : State) (x : Output) : (s.out x).remoteMem = s.remoteMem := rfl
@[simp] theorem State.out_seqNext (s : State) (x : Output) : (s.out x).seqNext = s.seqNext := rfl
@[simp] theorem State.out_seqQueue (s : State) (x : Output) : (s.out x).seqQueue = s.seqQueue := rfl
@[simp] theorem State.out_seqApplied (s : State) (x : Output) : (s.out x).seqApplied = s.seqApplied := rfl
@[simp] theorem State.out_notices (s : State) (x : Output) : (s.out x).notices = s.notices := rfl
@[simp] theorem State.out_commits (s : State) (x : Output) : (s.out x).commits = s.commits := rfl
@[simp] theorem State.out_reservation (s : State) (x : Output) : (s.out x).reservation = s.reservation := rfl
@[simp] theorem State.out_resWait (s : State) (x : Output) : (s.out x).resWait = s.resWait := rfl
@[simp] theorem State.out_parks (s : State) (x : Output) : (s.out x).parks = s.parks := rfl
@[simp] theorem State.out_submits (s : State) (x : Output) : (s.out x).submits = s.submits := rfl
@[simp] theorem State.out_remoteFaults (s : State) (x : Output) : (s.out x).remoteFaults = s.remoteFaults := rfl
@[simp] theorem State.out_retryWanted (s : State) (x : Output) : (s.out x).retryWanted = s.retryWanted := rfl
@[simp] theorem State.out_nmFlight (s : State) (x : Output) : (s.out x).nmFlight = s.nmFlight := rfl
@[simp] theorem State.out_replies (s : State) (x : Output) : (s.out x).replies = s.replies := rfl
@[simp] theorem State.out_hostWrites (s : State) (x : Output) : (s.out x).hostWrites = s.hostWrites := rfl
@[simp] theorem State.out_remoteWrites (s : State) (x : Output) : (s.out x).remoteWrites = s.remoteWrites := rfl
@[simp] theorem State.out_mules (s : State) (x : Output) : (s.out x).mules = s.mules := rfl
@[simp] theorem State.out_folds (s : State) (x : Output) : (s.out x).folds = s.folds := rfl
@[simp] theorem State.out_queues (s : State) (x : Output) : (s.out x).queues = s.queues := rfl
@[simp] theorem State.out_pulls (s : State) (x : Output) : (s.out x).pulls = s.pulls := rfl
@[simp] theorem State.out_spill (s : State) (x : Output) : (s.out x).spill = s.spill := rfl
@[simp] theorem State.out_spillAt (s : State) (x : Output) : (s.out x).spillAt = s.spillAt := rfl
@[simp] theorem State.out_initial (s : State) (x : Output) : (s.out x).initial = s.initial := rfl
@[simp] theorem State.out_stamps (s : State) (x : Output) : (s.out x).stamps = s.stamps := rfl
@[simp] theorem State.out_teams (s : State) (x : Output) : (s.out x).teams = s.teams := rfl
@[simp] theorem State.out_gens (s : State) (x : Output) : (s.out x).gens = s.gens := rfl
@[simp] theorem State.out_ring (s : State) (x : Output) : (s.out x).ring = s.ring := rfl
@[simp] theorem State.out_flits (s : State) (x : Output) : (s.out x).flits = s.flits := rfl
@[simp] theorem State.out_mails (s : State) (x : Output) : (s.out x).mails = s.mails := rfl
@[simp] theorem State.out_header (s : State) (x : Output) : (s.out x).header = s.header := rfl
@[simp] theorem State.out_mgmt (s : State) (x : Output) : (s.out x).mgmt = s.mgmt := rfl
@[simp] theorem State.out_ports (s : State) (x : Output) : (s.out x).ports = s.ports := rfl
@[simp] theorem State.out_partners (s : State) (x : Output) : (s.out x).partners = s.partners := rfl
@[simp] theorem State.out_requests (s : State) (x : Output) : (s.out x).requests = s.requests := rfl
@[simp] theorem State.out_answered (s : State) (x : Output) : (s.out x).answered = s.answered := rfl
@[simp] theorem State.out_ats (s : State) (x : Output) : (s.out x).ats = s.ats := rfl
@[simp] theorem State.out_firmware (s : State) (x : Output) : (s.out x).firmware = s.firmware := rfl
@[simp] theorem State.out_measured (s : State) (x : Output) : (s.out x).measured = s.measured := rfl
@[simp] theorem State.out_powered (s : State) (x : Output) : (s.out x).powered = s.powered := rfl
@[simp] theorem State.out_ended (s : State) (x : Output) : (s.out x).ended = s.ended := rfl
@[simp] theorem State.out_eolNext (s : State) (x : Output) : (s.out x).eolNext = s.eolNext := rfl
@[simp] theorem State.setQueue_core (s : State) (q : SchedQ) : (s.setQueue q).core = s.core := rfl
@[simp] theorem State.setQueue_others (s : State) (q : SchedQ) : (s.setQueue q).others = s.others := rfl
@[simp] theorem State.setQueue_agenda (s : State) (q : SchedQ) : (s.setQueue q).agenda = s.agenda := rfl
@[simp] theorem State.setQueue_pace (s : State) (q : SchedQ) : (s.setQueue q).pace = s.pace := rfl
@[simp] theorem State.setQueue_free (s : State) (q : SchedQ) : (s.setQueue q).free = s.free := rfl
@[simp] theorem State.setQueue_tb (s : State) (q : SchedQ) : (s.setQueue q).tb = s.tb := rfl
@[simp] theorem State.setQueue_clusters (s : State) (q : SchedQ) : (s.setQueue q).clusters = s.clusters := rfl
@[simp] theorem State.setQueue_l2 (s : State) (q : SchedQ) : (s.setQueue q).l2 = s.l2 := rfl
@[simp] theorem State.setQueue_moved (s : State) (q : SchedQ) : (s.setQueue q).moved = s.moved := rfl
@[simp] theorem State.setQueue_tlb (s : State) (q : SchedQ) : (s.setQueue q).tlb = s.tlb := rfl
@[simp] theorem State.setQueue_dram (s : State) (q : SchedQ) : (s.setQueue q).dram = s.dram := rfl
@[simp] theorem State.setQueue_codes (s : State) (q : SchedQ) : (s.setQueue q).codes = s.codes := rfl
@[simp] theorem State.setQueue_dramBad (s : State) (q : SchedQ) : (s.setQueue q).dramBad = s.dramBad := rfl
@[simp] theorem State.setQueue_dramSoft (s : State) (q : SchedQ) : (s.setQueue q).dramSoft = s.dramSoft := rfl
@[simp] theorem State.setQueue_corrected (s : State) (q : SchedQ) : (s.setQueue q).corrected = s.corrected := rfl
@[simp] theorem State.setQueue_metaCache (s : State) (q : SchedQ) : (s.setQueue q).metaCache = s.metaCache := rfl
@[simp] theorem State.setQueue_cleans (s : State) (q : SchedQ) : (s.setQueue q).cleans = s.cleans := rfl
@[simp] theorem State.setQueue_hostMem (s : State) (q : SchedQ) : (s.setQueue q).hostMem = s.hostMem := rfl
@[simp] theorem State.setQueue_remoteMem (s : State) (q : SchedQ) : (s.setQueue q).remoteMem = s.remoteMem := rfl
@[simp] theorem State.setQueue_seqNext (s : State) (q : SchedQ) : (s.setQueue q).seqNext = s.seqNext := rfl
@[simp] theorem State.setQueue_seqQueue (s : State) (q : SchedQ) : (s.setQueue q).seqQueue = s.seqQueue := rfl
@[simp] theorem State.setQueue_seqApplied (s : State) (q : SchedQ) : (s.setQueue q).seqApplied = s.seqApplied := rfl
@[simp] theorem State.setQueue_notices (s : State) (q : SchedQ) : (s.setQueue q).notices = s.notices := rfl
@[simp] theorem State.setQueue_commits (s : State) (q : SchedQ) : (s.setQueue q).commits = s.commits := rfl
@[simp] theorem State.setQueue_reservation (s : State) (q : SchedQ) : (s.setQueue q).reservation = s.reservation := rfl
@[simp] theorem State.setQueue_resWait (s : State) (q : SchedQ) : (s.setQueue q).resWait = s.resWait := rfl
@[simp] theorem State.setQueue_parks (s : State) (q : SchedQ) : (s.setQueue q).parks = s.parks := rfl
@[simp] theorem State.setQueue_submits (s : State) (q : SchedQ) : (s.setQueue q).submits = s.submits := rfl
@[simp] theorem State.setQueue_remoteFaults (s : State) (q : SchedQ) : (s.setQueue q).remoteFaults = s.remoteFaults := rfl
@[simp] theorem State.setQueue_retryWanted (s : State) (q : SchedQ) : (s.setQueue q).retryWanted = s.retryWanted := rfl
@[simp] theorem State.setQueue_nmFlight (s : State) (q : SchedQ) : (s.setQueue q).nmFlight = s.nmFlight := rfl
@[simp] theorem State.setQueue_replies (s : State) (q : SchedQ) : (s.setQueue q).replies = s.replies := rfl
@[simp] theorem State.setQueue_hostWrites (s : State) (q : SchedQ) : (s.setQueue q).hostWrites = s.hostWrites := rfl
@[simp] theorem State.setQueue_remoteWrites (s : State) (q : SchedQ) : (s.setQueue q).remoteWrites = s.remoteWrites := rfl
@[simp] theorem State.setQueue_mules (s : State) (q : SchedQ) : (s.setQueue q).mules = s.mules := rfl
@[simp] theorem State.setQueue_folds (s : State) (q : SchedQ) : (s.setQueue q).folds = s.folds := rfl
@[simp] theorem State.setQueue_pulls (s : State) (q : SchedQ) : (s.setQueue q).pulls = s.pulls := rfl
@[simp] theorem State.setQueue_spill (s : State) (q : SchedQ) : (s.setQueue q).spill = s.spill := rfl
@[simp] theorem State.setQueue_spillAt (s : State) (q : SchedQ) : (s.setQueue q).spillAt = s.spillAt := rfl
@[simp] theorem State.setQueue_initial (s : State) (q : SchedQ) : (s.setQueue q).initial = s.initial := rfl
@[simp] theorem State.setQueue_stamps (s : State) (q : SchedQ) : (s.setQueue q).stamps = s.stamps := rfl
@[simp] theorem State.setQueue_teams (s : State) (q : SchedQ) : (s.setQueue q).teams = s.teams := rfl
@[simp] theorem State.setQueue_gens (s : State) (q : SchedQ) : (s.setQueue q).gens = s.gens := rfl
@[simp] theorem State.setQueue_ring (s : State) (q : SchedQ) : (s.setQueue q).ring = s.ring := rfl
@[simp] theorem State.setQueue_flits (s : State) (q : SchedQ) : (s.setQueue q).flits = s.flits := rfl
@[simp] theorem State.setQueue_mails (s : State) (q : SchedQ) : (s.setQueue q).mails = s.mails := rfl
@[simp] theorem State.setQueue_header (s : State) (q : SchedQ) : (s.setQueue q).header = s.header := rfl
@[simp] theorem State.setQueue_mgmt (s : State) (q : SchedQ) : (s.setQueue q).mgmt = s.mgmt := rfl
@[simp] theorem State.setQueue_ports (s : State) (q : SchedQ) : (s.setQueue q).ports = s.ports := rfl
@[simp] theorem State.setQueue_partners (s : State) (q : SchedQ) : (s.setQueue q).partners = s.partners := rfl
@[simp] theorem State.setQueue_requests (s : State) (q : SchedQ) : (s.setQueue q).requests = s.requests := rfl
@[simp] theorem State.setQueue_answered (s : State) (q : SchedQ) : (s.setQueue q).answered = s.answered := rfl
@[simp] theorem State.setQueue_ats (s : State) (q : SchedQ) : (s.setQueue q).ats = s.ats := rfl
@[simp] theorem State.setQueue_outputs (s : State) (q : SchedQ) : (s.setQueue q).outputs = s.outputs := rfl
@[simp] theorem State.setQueue_firmware (s : State) (q : SchedQ) : (s.setQueue q).firmware = s.firmware := rfl
@[simp] theorem State.setQueue_measured (s : State) (q : SchedQ) : (s.setQueue q).measured = s.measured := rfl
@[simp] theorem State.setQueue_powered (s : State) (q : SchedQ) : (s.setQueue q).powered = s.powered := rfl
@[simp] theorem State.setQueue_ended (s : State) (q : SchedQ) : (s.setQueue q).ended = s.ended := rfl
@[simp] theorem State.setQueue_eolNext (s : State) (q : SchedQ) : (s.setQueue q).eolNext = s.eolNext := rfl
@[simp] theorem State.modTeam_core (s : State) (i : Nat) (f : Team → Team) : (s.modTeam i f).core = s.core := rfl
@[simp] theorem State.modTeam_others (s : State) (i : Nat) (f : Team → Team) : (s.modTeam i f).others = s.others := rfl
@[simp] theorem State.modTeam_agenda (s : State) (i : Nat) (f : Team → Team) : (s.modTeam i f).agenda = s.agenda := rfl
@[simp] theorem State.modTeam_pace (s : State) (i : Nat) (f : Team → Team) : (s.modTeam i f).pace = s.pace := rfl
@[simp] theorem State.modTeam_free (s : State) (i : Nat) (f : Team → Team) : (s.modTeam i f).free = s.free := rfl
@[simp] theorem State.modTeam_tb (s : State) (i : Nat) (f : Team → Team) : (s.modTeam i f).tb = s.tb := rfl
@[simp] theorem State.modTeam_clusters (s : State) (i : Nat) (f : Team → Team) : (s.modTeam i f).clusters = s.clusters := rfl
@[simp] theorem State.modTeam_l2 (s : State) (i : Nat) (f : Team → Team) : (s.modTeam i f).l2 = s.l2 := rfl
@[simp] theorem State.modTeam_moved (s : State) (i : Nat) (f : Team → Team) : (s.modTeam i f).moved = s.moved := rfl
@[simp] theorem State.modTeam_tlb (s : State) (i : Nat) (f : Team → Team) : (s.modTeam i f).tlb = s.tlb := rfl
@[simp] theorem State.modTeam_dram (s : State) (i : Nat) (f : Team → Team) : (s.modTeam i f).dram = s.dram := rfl
@[simp] theorem State.modTeam_codes (s : State) (i : Nat) (f : Team → Team) : (s.modTeam i f).codes = s.codes := rfl
@[simp] theorem State.modTeam_dramBad (s : State) (i : Nat) (f : Team → Team) : (s.modTeam i f).dramBad = s.dramBad := rfl
@[simp] theorem State.modTeam_dramSoft (s : State) (i : Nat) (f : Team → Team) : (s.modTeam i f).dramSoft = s.dramSoft := rfl
@[simp] theorem State.modTeam_corrected (s : State) (i : Nat) (f : Team → Team) : (s.modTeam i f).corrected = s.corrected := rfl
@[simp] theorem State.modTeam_metaCache (s : State) (i : Nat) (f : Team → Team) : (s.modTeam i f).metaCache = s.metaCache := rfl
@[simp] theorem State.modTeam_cleans (s : State) (i : Nat) (f : Team → Team) : (s.modTeam i f).cleans = s.cleans := rfl
@[simp] theorem State.modTeam_hostMem (s : State) (i : Nat) (f : Team → Team) : (s.modTeam i f).hostMem = s.hostMem := rfl
@[simp] theorem State.modTeam_remoteMem (s : State) (i : Nat) (f : Team → Team) : (s.modTeam i f).remoteMem = s.remoteMem := rfl
@[simp] theorem State.modTeam_seqNext (s : State) (i : Nat) (f : Team → Team) : (s.modTeam i f).seqNext = s.seqNext := rfl
@[simp] theorem State.modTeam_seqQueue (s : State) (i : Nat) (f : Team → Team) : (s.modTeam i f).seqQueue = s.seqQueue := rfl
@[simp] theorem State.modTeam_seqApplied (s : State) (i : Nat) (f : Team → Team) : (s.modTeam i f).seqApplied = s.seqApplied := rfl
@[simp] theorem State.modTeam_notices (s : State) (i : Nat) (f : Team → Team) : (s.modTeam i f).notices = s.notices := rfl
@[simp] theorem State.modTeam_commits (s : State) (i : Nat) (f : Team → Team) : (s.modTeam i f).commits = s.commits := rfl
@[simp] theorem State.modTeam_reservation (s : State) (i : Nat) (f : Team → Team) : (s.modTeam i f).reservation = s.reservation := rfl
@[simp] theorem State.modTeam_resWait (s : State) (i : Nat) (f : Team → Team) : (s.modTeam i f).resWait = s.resWait := rfl
@[simp] theorem State.modTeam_parks (s : State) (i : Nat) (f : Team → Team) : (s.modTeam i f).parks = s.parks := rfl
@[simp] theorem State.modTeam_submits (s : State) (i : Nat) (f : Team → Team) : (s.modTeam i f).submits = s.submits := rfl
@[simp] theorem State.modTeam_remoteFaults (s : State) (i : Nat) (f : Team → Team) : (s.modTeam i f).remoteFaults = s.remoteFaults := rfl
@[simp] theorem State.modTeam_retryWanted (s : State) (i : Nat) (f : Team → Team) : (s.modTeam i f).retryWanted = s.retryWanted := rfl
@[simp] theorem State.modTeam_nmFlight (s : State) (i : Nat) (f : Team → Team) : (s.modTeam i f).nmFlight = s.nmFlight := rfl
@[simp] theorem State.modTeam_replies (s : State) (i : Nat) (f : Team → Team) : (s.modTeam i f).replies = s.replies := rfl
@[simp] theorem State.modTeam_hostWrites (s : State) (i : Nat) (f : Team → Team) : (s.modTeam i f).hostWrites = s.hostWrites := rfl
@[simp] theorem State.modTeam_remoteWrites (s : State) (i : Nat) (f : Team → Team) : (s.modTeam i f).remoteWrites = s.remoteWrites := rfl
@[simp] theorem State.modTeam_mules (s : State) (i : Nat) (f : Team → Team) : (s.modTeam i f).mules = s.mules := rfl
@[simp] theorem State.modTeam_folds (s : State) (i : Nat) (f : Team → Team) : (s.modTeam i f).folds = s.folds := rfl
@[simp] theorem State.modTeam_queues (s : State) (i : Nat) (f : Team → Team) : (s.modTeam i f).queues = s.queues := rfl
@[simp] theorem State.modTeam_pulls (s : State) (i : Nat) (f : Team → Team) : (s.modTeam i f).pulls = s.pulls := rfl
@[simp] theorem State.modTeam_spill (s : State) (i : Nat) (f : Team → Team) : (s.modTeam i f).spill = s.spill := rfl
@[simp] theorem State.modTeam_spillAt (s : State) (i : Nat) (f : Team → Team) : (s.modTeam i f).spillAt = s.spillAt := rfl
@[simp] theorem State.modTeam_initial (s : State) (i : Nat) (f : Team → Team) : (s.modTeam i f).initial = s.initial := rfl
@[simp] theorem State.modTeam_stamps (s : State) (i : Nat) (f : Team → Team) : (s.modTeam i f).stamps = s.stamps := rfl
@[simp] theorem State.modTeam_gens (s : State) (i : Nat) (f : Team → Team) : (s.modTeam i f).gens = s.gens := rfl
@[simp] theorem State.modTeam_ring (s : State) (i : Nat) (f : Team → Team) : (s.modTeam i f).ring = s.ring := rfl
@[simp] theorem State.modTeam_flits (s : State) (i : Nat) (f : Team → Team) : (s.modTeam i f).flits = s.flits := rfl
@[simp] theorem State.modTeam_mails (s : State) (i : Nat) (f : Team → Team) : (s.modTeam i f).mails = s.mails := rfl
@[simp] theorem State.modTeam_header (s : State) (i : Nat) (f : Team → Team) : (s.modTeam i f).header = s.header := rfl
@[simp] theorem State.modTeam_mgmt (s : State) (i : Nat) (f : Team → Team) : (s.modTeam i f).mgmt = s.mgmt := rfl
@[simp] theorem State.modTeam_ports (s : State) (i : Nat) (f : Team → Team) : (s.modTeam i f).ports = s.ports := rfl
@[simp] theorem State.modTeam_partners (s : State) (i : Nat) (f : Team → Team) : (s.modTeam i f).partners = s.partners := rfl
@[simp] theorem State.modTeam_requests (s : State) (i : Nat) (f : Team → Team) : (s.modTeam i f).requests = s.requests := rfl
@[simp] theorem State.modTeam_answered (s : State) (i : Nat) (f : Team → Team) : (s.modTeam i f).answered = s.answered := rfl
@[simp] theorem State.modTeam_ats (s : State) (i : Nat) (f : Team → Team) : (s.modTeam i f).ats = s.ats := rfl
@[simp] theorem State.modTeam_outputs (s : State) (i : Nat) (f : Team → Team) : (s.modTeam i f).outputs = s.outputs := rfl
@[simp] theorem State.modTeam_firmware (s : State) (i : Nat) (f : Team → Team) : (s.modTeam i f).firmware = s.firmware := rfl
@[simp] theorem State.modTeam_measured (s : State) (i : Nat) (f : Team → Team) : (s.modTeam i f).measured = s.measured := rfl
@[simp] theorem State.modTeam_powered (s : State) (i : Nat) (f : Team → Team) : (s.modTeam i f).powered = s.powered := rfl
@[simp] theorem State.modTeam_ended (s : State) (i : Nat) (f : Team → Team) : (s.modTeam i f).ended = s.ended := rfl
@[simp] theorem State.modTeam_eolNext (s : State) (i : Nat) (f : Team → Team) : (s.modTeam i f).eolNext = s.eolNext := rfl
@[simp] theorem State.putMule_core (s : State) (m : Mule) : (s.putMule m).core = s.core := rfl
@[simp] theorem State.putMule_others (s : State) (m : Mule) : (s.putMule m).others = s.others := rfl
@[simp] theorem State.putMule_agenda (s : State) (m : Mule) : (s.putMule m).agenda = s.agenda := rfl
@[simp] theorem State.putMule_pace (s : State) (m : Mule) : (s.putMule m).pace = s.pace := rfl
@[simp] theorem State.putMule_free (s : State) (m : Mule) : (s.putMule m).free = s.free := rfl
@[simp] theorem State.putMule_tb (s : State) (m : Mule) : (s.putMule m).tb = s.tb := rfl
@[simp] theorem State.putMule_clusters (s : State) (m : Mule) : (s.putMule m).clusters = s.clusters := rfl
@[simp] theorem State.putMule_l2 (s : State) (m : Mule) : (s.putMule m).l2 = s.l2 := rfl
@[simp] theorem State.putMule_moved (s : State) (m : Mule) : (s.putMule m).moved = s.moved := rfl
@[simp] theorem State.putMule_tlb (s : State) (m : Mule) : (s.putMule m).tlb = s.tlb := rfl
@[simp] theorem State.putMule_dram (s : State) (m : Mule) : (s.putMule m).dram = s.dram := rfl
@[simp] theorem State.putMule_codes (s : State) (m : Mule) : (s.putMule m).codes = s.codes := rfl
@[simp] theorem State.putMule_dramBad (s : State) (m : Mule) : (s.putMule m).dramBad = s.dramBad := rfl
@[simp] theorem State.putMule_dramSoft (s : State) (m : Mule) : (s.putMule m).dramSoft = s.dramSoft := rfl
@[simp] theorem State.putMule_corrected (s : State) (m : Mule) : (s.putMule m).corrected = s.corrected := rfl
@[simp] theorem State.putMule_metaCache (s : State) (m : Mule) : (s.putMule m).metaCache = s.metaCache := rfl
@[simp] theorem State.putMule_cleans (s : State) (m : Mule) : (s.putMule m).cleans = s.cleans := rfl
@[simp] theorem State.putMule_hostMem (s : State) (m : Mule) : (s.putMule m).hostMem = s.hostMem := rfl
@[simp] theorem State.putMule_remoteMem (s : State) (m : Mule) : (s.putMule m).remoteMem = s.remoteMem := rfl
@[simp] theorem State.putMule_seqNext (s : State) (m : Mule) : (s.putMule m).seqNext = s.seqNext := rfl
@[simp] theorem State.putMule_seqQueue (s : State) (m : Mule) : (s.putMule m).seqQueue = s.seqQueue := rfl
@[simp] theorem State.putMule_seqApplied (s : State) (m : Mule) : (s.putMule m).seqApplied = s.seqApplied := rfl
@[simp] theorem State.putMule_notices (s : State) (m : Mule) : (s.putMule m).notices = s.notices := rfl
@[simp] theorem State.putMule_commits (s : State) (m : Mule) : (s.putMule m).commits = s.commits := rfl
@[simp] theorem State.putMule_reservation (s : State) (m : Mule) : (s.putMule m).reservation = s.reservation := rfl
@[simp] theorem State.putMule_resWait (s : State) (m : Mule) : (s.putMule m).resWait = s.resWait := rfl
@[simp] theorem State.putMule_parks (s : State) (m : Mule) : (s.putMule m).parks = s.parks := rfl
@[simp] theorem State.putMule_submits (s : State) (m : Mule) : (s.putMule m).submits = s.submits := rfl
@[simp] theorem State.putMule_remoteFaults (s : State) (m : Mule) : (s.putMule m).remoteFaults = s.remoteFaults := rfl
@[simp] theorem State.putMule_retryWanted (s : State) (m : Mule) : (s.putMule m).retryWanted = s.retryWanted := rfl
@[simp] theorem State.putMule_nmFlight (s : State) (m : Mule) : (s.putMule m).nmFlight = s.nmFlight := rfl
@[simp] theorem State.putMule_replies (s : State) (m : Mule) : (s.putMule m).replies = s.replies := rfl
@[simp] theorem State.putMule_hostWrites (s : State) (m : Mule) : (s.putMule m).hostWrites = s.hostWrites := rfl
@[simp] theorem State.putMule_remoteWrites (s : State) (m : Mule) : (s.putMule m).remoteWrites = s.remoteWrites := rfl
@[simp] theorem State.putMule_folds (s : State) (m : Mule) : (s.putMule m).folds = s.folds := rfl
@[simp] theorem State.putMule_queues (s : State) (m : Mule) : (s.putMule m).queues = s.queues := rfl
@[simp] theorem State.putMule_pulls (s : State) (m : Mule) : (s.putMule m).pulls = s.pulls := rfl
@[simp] theorem State.putMule_spill (s : State) (m : Mule) : (s.putMule m).spill = s.spill := rfl
@[simp] theorem State.putMule_spillAt (s : State) (m : Mule) : (s.putMule m).spillAt = s.spillAt := rfl
@[simp] theorem State.putMule_initial (s : State) (m : Mule) : (s.putMule m).initial = s.initial := rfl
@[simp] theorem State.putMule_stamps (s : State) (m : Mule) : (s.putMule m).stamps = s.stamps := rfl
@[simp] theorem State.putMule_teams (s : State) (m : Mule) : (s.putMule m).teams = s.teams := rfl
@[simp] theorem State.putMule_gens (s : State) (m : Mule) : (s.putMule m).gens = s.gens := rfl
@[simp] theorem State.putMule_ring (s : State) (m : Mule) : (s.putMule m).ring = s.ring := rfl
@[simp] theorem State.putMule_flits (s : State) (m : Mule) : (s.putMule m).flits = s.flits := rfl
@[simp] theorem State.putMule_mails (s : State) (m : Mule) : (s.putMule m).mails = s.mails := rfl
@[simp] theorem State.putMule_header (s : State) (m : Mule) : (s.putMule m).header = s.header := rfl
@[simp] theorem State.putMule_mgmt (s : State) (m : Mule) : (s.putMule m).mgmt = s.mgmt := rfl
@[simp] theorem State.putMule_ports (s : State) (m : Mule) : (s.putMule m).ports = s.ports := rfl
@[simp] theorem State.putMule_partners (s : State) (m : Mule) : (s.putMule m).partners = s.partners := rfl
@[simp] theorem State.putMule_requests (s : State) (m : Mule) : (s.putMule m).requests = s.requests := rfl
@[simp] theorem State.putMule_answered (s : State) (m : Mule) : (s.putMule m).answered = s.answered := rfl
@[simp] theorem State.putMule_ats (s : State) (m : Mule) : (s.putMule m).ats = s.ats := rfl
@[simp] theorem State.putMule_outputs (s : State) (m : Mule) : (s.putMule m).outputs = s.outputs := rfl
@[simp] theorem State.putMule_firmware (s : State) (m : Mule) : (s.putMule m).firmware = s.firmware := rfl
@[simp] theorem State.putMule_measured (s : State) (m : Mule) : (s.putMule m).measured = s.measured := rfl
@[simp] theorem State.putMule_powered (s : State) (m : Mule) : (s.putMule m).powered = s.powered := rfl
@[simp] theorem State.putMule_ended (s : State) (m : Mule) : (s.putMule m).ended = s.ended := rfl
@[simp] theorem State.putMule_eolNext (s : State) (m : Mule) : (s.putMule m).eolNext = s.eolNext := rfl
@[simp] theorem State.putCluster_core (s : State) (c : Cluster) : (s.putCluster c).core = s.core := rfl
@[simp] theorem State.putCluster_others (s : State) (c : Cluster) : (s.putCluster c).others = s.others := rfl
@[simp] theorem State.putCluster_agenda (s : State) (c : Cluster) : (s.putCluster c).agenda = s.agenda := rfl
@[simp] theorem State.putCluster_pace (s : State) (c : Cluster) : (s.putCluster c).pace = s.pace := rfl
@[simp] theorem State.putCluster_free (s : State) (c : Cluster) : (s.putCluster c).free = s.free := rfl
@[simp] theorem State.putCluster_tb (s : State) (c : Cluster) : (s.putCluster c).tb = s.tb := rfl
@[simp] theorem State.putCluster_l2 (s : State) (c : Cluster) : (s.putCluster c).l2 = s.l2 := rfl
@[simp] theorem State.putCluster_moved (s : State) (c : Cluster) : (s.putCluster c).moved = s.moved := rfl
@[simp] theorem State.putCluster_tlb (s : State) (c : Cluster) : (s.putCluster c).tlb = s.tlb := rfl
@[simp] theorem State.putCluster_dram (s : State) (c : Cluster) : (s.putCluster c).dram = s.dram := rfl
@[simp] theorem State.putCluster_codes (s : State) (c : Cluster) : (s.putCluster c).codes = s.codes := rfl
@[simp] theorem State.putCluster_dramBad (s : State) (c : Cluster) : (s.putCluster c).dramBad = s.dramBad := rfl
@[simp] theorem State.putCluster_dramSoft (s : State) (c : Cluster) : (s.putCluster c).dramSoft = s.dramSoft := rfl
@[simp] theorem State.putCluster_corrected (s : State) (c : Cluster) : (s.putCluster c).corrected = s.corrected := rfl
@[simp] theorem State.putCluster_metaCache (s : State) (c : Cluster) : (s.putCluster c).metaCache = s.metaCache := rfl
@[simp] theorem State.putCluster_cleans (s : State) (c : Cluster) : (s.putCluster c).cleans = s.cleans := rfl
@[simp] theorem State.putCluster_hostMem (s : State) (c : Cluster) : (s.putCluster c).hostMem = s.hostMem := rfl
@[simp] theorem State.putCluster_remoteMem (s : State) (c : Cluster) : (s.putCluster c).remoteMem = s.remoteMem := rfl
@[simp] theorem State.putCluster_seqNext (s : State) (c : Cluster) : (s.putCluster c).seqNext = s.seqNext := rfl
@[simp] theorem State.putCluster_seqQueue (s : State) (c : Cluster) : (s.putCluster c).seqQueue = s.seqQueue := rfl
@[simp] theorem State.putCluster_seqApplied (s : State) (c : Cluster) : (s.putCluster c).seqApplied = s.seqApplied := rfl
@[simp] theorem State.putCluster_notices (s : State) (c : Cluster) : (s.putCluster c).notices = s.notices := rfl
@[simp] theorem State.putCluster_commits (s : State) (c : Cluster) : (s.putCluster c).commits = s.commits := rfl
@[simp] theorem State.putCluster_reservation (s : State) (c : Cluster) : (s.putCluster c).reservation = s.reservation := rfl
@[simp] theorem State.putCluster_resWait (s : State) (c : Cluster) : (s.putCluster c).resWait = s.resWait := rfl
@[simp] theorem State.putCluster_parks (s : State) (c : Cluster) : (s.putCluster c).parks = s.parks := rfl
@[simp] theorem State.putCluster_submits (s : State) (c : Cluster) : (s.putCluster c).submits = s.submits := rfl
@[simp] theorem State.putCluster_remoteFaults (s : State) (c : Cluster) : (s.putCluster c).remoteFaults = s.remoteFaults := rfl
@[simp] theorem State.putCluster_retryWanted (s : State) (c : Cluster) : (s.putCluster c).retryWanted = s.retryWanted := rfl
@[simp] theorem State.putCluster_nmFlight (s : State) (c : Cluster) : (s.putCluster c).nmFlight = s.nmFlight := rfl
@[simp] theorem State.putCluster_replies (s : State) (c : Cluster) : (s.putCluster c).replies = s.replies := rfl
@[simp] theorem State.putCluster_hostWrites (s : State) (c : Cluster) : (s.putCluster c).hostWrites = s.hostWrites := rfl
@[simp] theorem State.putCluster_remoteWrites (s : State) (c : Cluster) : (s.putCluster c).remoteWrites = s.remoteWrites := rfl
@[simp] theorem State.putCluster_mules (s : State) (c : Cluster) : (s.putCluster c).mules = s.mules := rfl
@[simp] theorem State.putCluster_folds (s : State) (c : Cluster) : (s.putCluster c).folds = s.folds := rfl
@[simp] theorem State.putCluster_queues (s : State) (c : Cluster) : (s.putCluster c).queues = s.queues := rfl
@[simp] theorem State.putCluster_pulls (s : State) (c : Cluster) : (s.putCluster c).pulls = s.pulls := rfl
@[simp] theorem State.putCluster_spill (s : State) (c : Cluster) : (s.putCluster c).spill = s.spill := rfl
@[simp] theorem State.putCluster_spillAt (s : State) (c : Cluster) : (s.putCluster c).spillAt = s.spillAt := rfl
@[simp] theorem State.putCluster_initial (s : State) (c : Cluster) : (s.putCluster c).initial = s.initial := rfl
@[simp] theorem State.putCluster_stamps (s : State) (c : Cluster) : (s.putCluster c).stamps = s.stamps := rfl
@[simp] theorem State.putCluster_teams (s : State) (c : Cluster) : (s.putCluster c).teams = s.teams := rfl
@[simp] theorem State.putCluster_gens (s : State) (c : Cluster) : (s.putCluster c).gens = s.gens := rfl
@[simp] theorem State.putCluster_ring (s : State) (c : Cluster) : (s.putCluster c).ring = s.ring := rfl
@[simp] theorem State.putCluster_flits (s : State) (c : Cluster) : (s.putCluster c).flits = s.flits := rfl
@[simp] theorem State.putCluster_mails (s : State) (c : Cluster) : (s.putCluster c).mails = s.mails := rfl
@[simp] theorem State.putCluster_header (s : State) (c : Cluster) : (s.putCluster c).header = s.header := rfl
@[simp] theorem State.putCluster_mgmt (s : State) (c : Cluster) : (s.putCluster c).mgmt = s.mgmt := rfl
@[simp] theorem State.putCluster_ports (s : State) (c : Cluster) : (s.putCluster c).ports = s.ports := rfl
@[simp] theorem State.putCluster_partners (s : State) (c : Cluster) : (s.putCluster c).partners = s.partners := rfl
@[simp] theorem State.putCluster_requests (s : State) (c : Cluster) : (s.putCluster c).requests = s.requests := rfl
@[simp] theorem State.putCluster_answered (s : State) (c : Cluster) : (s.putCluster c).answered = s.answered := rfl
@[simp] theorem State.putCluster_ats (s : State) (c : Cluster) : (s.putCluster c).ats = s.ats := rfl
@[simp] theorem State.putCluster_outputs (s : State) (c : Cluster) : (s.putCluster c).outputs = s.outputs := rfl
@[simp] theorem State.putCluster_firmware (s : State) (c : Cluster) : (s.putCluster c).firmware = s.firmware := rfl
@[simp] theorem State.putCluster_measured (s : State) (c : Cluster) : (s.putCluster c).measured = s.measured := rfl
@[simp] theorem State.putCluster_powered (s : State) (c : Cluster) : (s.putCluster c).powered = s.powered := rfl
@[simp] theorem State.putCluster_ended (s : State) (c : Cluster) : (s.putCluster c).ended = s.ended := rfl
@[simp] theorem State.putCluster_eolNext (s : State) (c : Cluster) : (s.putCluster c).eolNext = s.eolNext := rfl
@[simp] theorem State.unpin_core (s : State) (p : Nat) (f : Nat → Bool) : (s.unpin p f).core = s.core := rfl
@[simp] theorem State.unpin_others (s : State) (p : Nat) (f : Nat → Bool) : (s.unpin p f).others = s.others := rfl
@[simp] theorem State.unpin_agenda (s : State) (p : Nat) (f : Nat → Bool) : (s.unpin p f).agenda = s.agenda := rfl
@[simp] theorem State.unpin_pace (s : State) (p : Nat) (f : Nat → Bool) : (s.unpin p f).pace = s.pace := rfl
@[simp] theorem State.unpin_free (s : State) (p : Nat) (f : Nat → Bool) : (s.unpin p f).free = s.free := rfl
@[simp] theorem State.unpin_tb (s : State) (p : Nat) (f : Nat → Bool) : (s.unpin p f).tb = s.tb := rfl
@[simp] theorem State.unpin_clusters (s : State) (p : Nat) (f : Nat → Bool) : (s.unpin p f).clusters = s.clusters := rfl
@[simp] theorem State.unpin_moved (s : State) (p : Nat) (f : Nat → Bool) : (s.unpin p f).moved = s.moved := rfl
@[simp] theorem State.unpin_tlb (s : State) (p : Nat) (f : Nat → Bool) : (s.unpin p f).tlb = s.tlb := rfl
@[simp] theorem State.unpin_dram (s : State) (p : Nat) (f : Nat → Bool) : (s.unpin p f).dram = s.dram := rfl
@[simp] theorem State.unpin_codes (s : State) (p : Nat) (f : Nat → Bool) : (s.unpin p f).codes = s.codes := rfl
@[simp] theorem State.unpin_dramBad (s : State) (p : Nat) (f : Nat → Bool) : (s.unpin p f).dramBad = s.dramBad := rfl
@[simp] theorem State.unpin_dramSoft (s : State) (p : Nat) (f : Nat → Bool) : (s.unpin p f).dramSoft = s.dramSoft := rfl
@[simp] theorem State.unpin_corrected (s : State) (p : Nat) (f : Nat → Bool) : (s.unpin p f).corrected = s.corrected := rfl
@[simp] theorem State.unpin_metaCache (s : State) (p : Nat) (f : Nat → Bool) : (s.unpin p f).metaCache = s.metaCache := rfl
@[simp] theorem State.unpin_cleans (s : State) (p : Nat) (f : Nat → Bool) : (s.unpin p f).cleans = s.cleans := rfl
@[simp] theorem State.unpin_hostMem (s : State) (p : Nat) (f : Nat → Bool) : (s.unpin p f).hostMem = s.hostMem := rfl
@[simp] theorem State.unpin_remoteMem (s : State) (p : Nat) (f : Nat → Bool) : (s.unpin p f).remoteMem = s.remoteMem := rfl
@[simp] theorem State.unpin_seqNext (s : State) (p : Nat) (f : Nat → Bool) : (s.unpin p f).seqNext = s.seqNext := rfl
@[simp] theorem State.unpin_seqQueue (s : State) (p : Nat) (f : Nat → Bool) : (s.unpin p f).seqQueue = s.seqQueue := rfl
@[simp] theorem State.unpin_seqApplied (s : State) (p : Nat) (f : Nat → Bool) : (s.unpin p f).seqApplied = s.seqApplied := rfl
@[simp] theorem State.unpin_notices (s : State) (p : Nat) (f : Nat → Bool) : (s.unpin p f).notices = s.notices := rfl
@[simp] theorem State.unpin_commits (s : State) (p : Nat) (f : Nat → Bool) : (s.unpin p f).commits = s.commits := rfl
@[simp] theorem State.unpin_reservation (s : State) (p : Nat) (f : Nat → Bool) : (s.unpin p f).reservation = s.reservation := rfl
@[simp] theorem State.unpin_resWait (s : State) (p : Nat) (f : Nat → Bool) : (s.unpin p f).resWait = s.resWait := rfl
@[simp] theorem State.unpin_parks (s : State) (p : Nat) (f : Nat → Bool) : (s.unpin p f).parks = s.parks := rfl
@[simp] theorem State.unpin_submits (s : State) (p : Nat) (f : Nat → Bool) : (s.unpin p f).submits = s.submits := rfl
@[simp] theorem State.unpin_remoteFaults (s : State) (p : Nat) (f : Nat → Bool) : (s.unpin p f).remoteFaults = s.remoteFaults := rfl
@[simp] theorem State.unpin_retryWanted (s : State) (p : Nat) (f : Nat → Bool) : (s.unpin p f).retryWanted = s.retryWanted := rfl
@[simp] theorem State.unpin_nmFlight (s : State) (p : Nat) (f : Nat → Bool) : (s.unpin p f).nmFlight = s.nmFlight := rfl
@[simp] theorem State.unpin_replies (s : State) (p : Nat) (f : Nat → Bool) : (s.unpin p f).replies = s.replies := rfl
@[simp] theorem State.unpin_hostWrites (s : State) (p : Nat) (f : Nat → Bool) : (s.unpin p f).hostWrites = s.hostWrites := rfl
@[simp] theorem State.unpin_remoteWrites (s : State) (p : Nat) (f : Nat → Bool) : (s.unpin p f).remoteWrites = s.remoteWrites := rfl
@[simp] theorem State.unpin_mules (s : State) (p : Nat) (f : Nat → Bool) : (s.unpin p f).mules = s.mules := rfl
@[simp] theorem State.unpin_folds (s : State) (p : Nat) (f : Nat → Bool) : (s.unpin p f).folds = s.folds := rfl
@[simp] theorem State.unpin_queues (s : State) (p : Nat) (f : Nat → Bool) : (s.unpin p f).queues = s.queues := rfl
@[simp] theorem State.unpin_pulls (s : State) (p : Nat) (f : Nat → Bool) : (s.unpin p f).pulls = s.pulls := rfl
@[simp] theorem State.unpin_spill (s : State) (p : Nat) (f : Nat → Bool) : (s.unpin p f).spill = s.spill := rfl
@[simp] theorem State.unpin_spillAt (s : State) (p : Nat) (f : Nat → Bool) : (s.unpin p f).spillAt = s.spillAt := rfl
@[simp] theorem State.unpin_initial (s : State) (p : Nat) (f : Nat → Bool) : (s.unpin p f).initial = s.initial := rfl
@[simp] theorem State.unpin_stamps (s : State) (p : Nat) (f : Nat → Bool) : (s.unpin p f).stamps = s.stamps := rfl
@[simp] theorem State.unpin_teams (s : State) (p : Nat) (f : Nat → Bool) : (s.unpin p f).teams = s.teams := rfl
@[simp] theorem State.unpin_gens (s : State) (p : Nat) (f : Nat → Bool) : (s.unpin p f).gens = s.gens := rfl
@[simp] theorem State.unpin_ring (s : State) (p : Nat) (f : Nat → Bool) : (s.unpin p f).ring = s.ring := rfl
@[simp] theorem State.unpin_flits (s : State) (p : Nat) (f : Nat → Bool) : (s.unpin p f).flits = s.flits := rfl
@[simp] theorem State.unpin_mails (s : State) (p : Nat) (f : Nat → Bool) : (s.unpin p f).mails = s.mails := rfl
@[simp] theorem State.unpin_header (s : State) (p : Nat) (f : Nat → Bool) : (s.unpin p f).header = s.header := rfl
@[simp] theorem State.unpin_mgmt (s : State) (p : Nat) (f : Nat → Bool) : (s.unpin p f).mgmt = s.mgmt := rfl
@[simp] theorem State.unpin_ports (s : State) (p : Nat) (f : Nat → Bool) : (s.unpin p f).ports = s.ports := rfl
@[simp] theorem State.unpin_partners (s : State) (p : Nat) (f : Nat → Bool) : (s.unpin p f).partners = s.partners := rfl
@[simp] theorem State.unpin_requests (s : State) (p : Nat) (f : Nat → Bool) : (s.unpin p f).requests = s.requests := rfl
@[simp] theorem State.unpin_answered (s : State) (p : Nat) (f : Nat → Bool) : (s.unpin p f).answered = s.answered := rfl
@[simp] theorem State.unpin_ats (s : State) (p : Nat) (f : Nat → Bool) : (s.unpin p f).ats = s.ats := rfl
@[simp] theorem State.unpin_outputs (s : State) (p : Nat) (f : Nat → Bool) : (s.unpin p f).outputs = s.outputs := rfl
@[simp] theorem State.unpin_firmware (s : State) (p : Nat) (f : Nat → Bool) : (s.unpin p f).firmware = s.firmware := rfl
@[simp] theorem State.unpin_measured (s : State) (p : Nat) (f : Nat → Bool) : (s.unpin p f).measured = s.measured := rfl
@[simp] theorem State.unpin_powered (s : State) (p : Nat) (f : Nat → Bool) : (s.unpin p f).powered = s.powered := rfl
@[simp] theorem State.unpin_ended (s : State) (p : Nat) (f : Nat → Bool) : (s.unpin p f).ended = s.ended := rfl
@[simp] theorem State.unpin_eolNext (s : State) (p : Nat) (f : Nat → Bool) : (s.unpin p f).eolNext = s.eolNext := rfl
@[simp] theorem State.l2Drop_core (s : State) (i l : Nat) : (s.l2Drop i l).core = s.core := rfl
@[simp] theorem State.l2Drop_others (s : State) (i l : Nat) : (s.l2Drop i l).others = s.others := rfl
@[simp] theorem State.l2Drop_agenda (s : State) (i l : Nat) : (s.l2Drop i l).agenda = s.agenda := rfl
@[simp] theorem State.l2Drop_pace (s : State) (i l : Nat) : (s.l2Drop i l).pace = s.pace := rfl
@[simp] theorem State.l2Drop_free (s : State) (i l : Nat) : (s.l2Drop i l).free = s.free := rfl
@[simp] theorem State.l2Drop_tb (s : State) (i l : Nat) : (s.l2Drop i l).tb = s.tb := rfl
@[simp] theorem State.l2Drop_clusters (s : State) (i l : Nat) : (s.l2Drop i l).clusters = s.clusters := rfl
@[simp] theorem State.l2Drop_moved (s : State) (i l : Nat) : (s.l2Drop i l).moved = s.moved := rfl
@[simp] theorem State.l2Drop_tlb (s : State) (i l : Nat) : (s.l2Drop i l).tlb = s.tlb := rfl
@[simp] theorem State.l2Drop_dram (s : State) (i l : Nat) : (s.l2Drop i l).dram = s.dram := rfl
@[simp] theorem State.l2Drop_codes (s : State) (i l : Nat) : (s.l2Drop i l).codes = s.codes := rfl
@[simp] theorem State.l2Drop_dramBad (s : State) (i l : Nat) : (s.l2Drop i l).dramBad = s.dramBad := rfl
@[simp] theorem State.l2Drop_dramSoft (s : State) (i l : Nat) : (s.l2Drop i l).dramSoft = s.dramSoft := rfl
@[simp] theorem State.l2Drop_corrected (s : State) (i l : Nat) : (s.l2Drop i l).corrected = s.corrected := rfl
@[simp] theorem State.l2Drop_metaCache (s : State) (i l : Nat) : (s.l2Drop i l).metaCache = s.metaCache := rfl
@[simp] theorem State.l2Drop_cleans (s : State) (i l : Nat) : (s.l2Drop i l).cleans = s.cleans := rfl
@[simp] theorem State.l2Drop_hostMem (s : State) (i l : Nat) : (s.l2Drop i l).hostMem = s.hostMem := rfl
@[simp] theorem State.l2Drop_remoteMem (s : State) (i l : Nat) : (s.l2Drop i l).remoteMem = s.remoteMem := rfl
@[simp] theorem State.l2Drop_seqNext (s : State) (i l : Nat) : (s.l2Drop i l).seqNext = s.seqNext := rfl
@[simp] theorem State.l2Drop_seqQueue (s : State) (i l : Nat) : (s.l2Drop i l).seqQueue = s.seqQueue := rfl
@[simp] theorem State.l2Drop_seqApplied (s : State) (i l : Nat) : (s.l2Drop i l).seqApplied = s.seqApplied := rfl
@[simp] theorem State.l2Drop_notices (s : State) (i l : Nat) : (s.l2Drop i l).notices = s.notices := rfl
@[simp] theorem State.l2Drop_commits (s : State) (i l : Nat) : (s.l2Drop i l).commits = s.commits := rfl
@[simp] theorem State.l2Drop_reservation (s : State) (i l : Nat) : (s.l2Drop i l).reservation = s.reservation := rfl
@[simp] theorem State.l2Drop_resWait (s : State) (i l : Nat) : (s.l2Drop i l).resWait = s.resWait := rfl
@[simp] theorem State.l2Drop_parks (s : State) (i l : Nat) : (s.l2Drop i l).parks = s.parks := rfl
@[simp] theorem State.l2Drop_submits (s : State) (i l : Nat) : (s.l2Drop i l).submits = s.submits := rfl
@[simp] theorem State.l2Drop_remoteFaults (s : State) (i l : Nat) : (s.l2Drop i l).remoteFaults = s.remoteFaults := rfl
@[simp] theorem State.l2Drop_retryWanted (s : State) (i l : Nat) : (s.l2Drop i l).retryWanted = s.retryWanted := rfl
@[simp] theorem State.l2Drop_nmFlight (s : State) (i l : Nat) : (s.l2Drop i l).nmFlight = s.nmFlight := rfl
@[simp] theorem State.l2Drop_replies (s : State) (i l : Nat) : (s.l2Drop i l).replies = s.replies := rfl
@[simp] theorem State.l2Drop_hostWrites (s : State) (i l : Nat) : (s.l2Drop i l).hostWrites = s.hostWrites := rfl
@[simp] theorem State.l2Drop_remoteWrites (s : State) (i l : Nat) : (s.l2Drop i l).remoteWrites = s.remoteWrites := rfl
@[simp] theorem State.l2Drop_mules (s : State) (i l : Nat) : (s.l2Drop i l).mules = s.mules := rfl
@[simp] theorem State.l2Drop_folds (s : State) (i l : Nat) : (s.l2Drop i l).folds = s.folds := rfl
@[simp] theorem State.l2Drop_queues (s : State) (i l : Nat) : (s.l2Drop i l).queues = s.queues := rfl
@[simp] theorem State.l2Drop_pulls (s : State) (i l : Nat) : (s.l2Drop i l).pulls = s.pulls := rfl
@[simp] theorem State.l2Drop_spill (s : State) (i l : Nat) : (s.l2Drop i l).spill = s.spill := rfl
@[simp] theorem State.l2Drop_spillAt (s : State) (i l : Nat) : (s.l2Drop i l).spillAt = s.spillAt := rfl
@[simp] theorem State.l2Drop_initial (s : State) (i l : Nat) : (s.l2Drop i l).initial = s.initial := rfl
@[simp] theorem State.l2Drop_stamps (s : State) (i l : Nat) : (s.l2Drop i l).stamps = s.stamps := rfl
@[simp] theorem State.l2Drop_teams (s : State) (i l : Nat) : (s.l2Drop i l).teams = s.teams := rfl
@[simp] theorem State.l2Drop_gens (s : State) (i l : Nat) : (s.l2Drop i l).gens = s.gens := rfl
@[simp] theorem State.l2Drop_ring (s : State) (i l : Nat) : (s.l2Drop i l).ring = s.ring := rfl
@[simp] theorem State.l2Drop_flits (s : State) (i l : Nat) : (s.l2Drop i l).flits = s.flits := rfl
@[simp] theorem State.l2Drop_mails (s : State) (i l : Nat) : (s.l2Drop i l).mails = s.mails := rfl
@[simp] theorem State.l2Drop_header (s : State) (i l : Nat) : (s.l2Drop i l).header = s.header := rfl
@[simp] theorem State.l2Drop_mgmt (s : State) (i l : Nat) : (s.l2Drop i l).mgmt = s.mgmt := rfl
@[simp] theorem State.l2Drop_ports (s : State) (i l : Nat) : (s.l2Drop i l).ports = s.ports := rfl
@[simp] theorem State.l2Drop_partners (s : State) (i l : Nat) : (s.l2Drop i l).partners = s.partners := rfl
@[simp] theorem State.l2Drop_requests (s : State) (i l : Nat) : (s.l2Drop i l).requests = s.requests := rfl
@[simp] theorem State.l2Drop_answered (s : State) (i l : Nat) : (s.l2Drop i l).answered = s.answered := rfl
@[simp] theorem State.l2Drop_ats (s : State) (i l : Nat) : (s.l2Drop i l).ats = s.ats := rfl
@[simp] theorem State.l2Drop_outputs (s : State) (i l : Nat) : (s.l2Drop i l).outputs = s.outputs := rfl
@[simp] theorem State.l2Drop_firmware (s : State) (i l : Nat) : (s.l2Drop i l).firmware = s.firmware := rfl
@[simp] theorem State.l2Drop_measured (s : State) (i l : Nat) : (s.l2Drop i l).measured = s.measured := rfl
@[simp] theorem State.l2Drop_powered (s : State) (i l : Nat) : (s.l2Drop i l).powered = s.powered := rfl
@[simp] theorem State.l2Drop_ended (s : State) (i l : Nat) : (s.l2Drop i l).ended = s.ended := rfl
@[simp] theorem State.l2Drop_eolNext (s : State) (i l : Nat) : (s.l2Drop i l).eolNext = s.eolNext := rfl

/-! ## What the updates change -/

@[simp] theorem Core.step4_pc (c : Core) : c.step4.pc = c.pc + 4 := rfl
@[simp] theorem Core.jump_pc (c : Core) (t : Word) : (c.jump t).pc = t := rfl
@[simp] theorem Core.countIn_vprog (c : Core) : c.countIn.vprog = 0 := rfl
@[simp] theorem Core.retired_vprog (c : Core) : c.retired.vprog = 0 := rfl
@[simp] theorem Core.retired_copied (c : Core) : c.retired.copied = none := rfl
@[simp] theorem Core.retired_unstat (c : Core) : c.retired.unstat = none := rfl
@[simp] theorem Core.retired_ctl (c : Core) : c.retired.ctl = { c.ctl with ret := c.ctl.ret + 1 } := rfl
@[simp] theorem Core.addFlags_ctl (c : Core) (f : Flg) : (c.addFlags f).ctl = { c.ctl with fflags := c.ctl.fflags ||| f } := rfl
@[simp] theorem Core.poke_spad (c : Core) (a : Nat) (bs : List Byte) : (c.poke a bs).spad = c.spad.writeBlock a bs := rfl
@[simp] theorem Core.enqueue_pushed (c : Core) (q : Nat) (k : Cmd) : (c.enqueue q k).pushed = c.pushed + 1 := rfl
@[simp] theorem Core.pokeLE_spad (c : Core) (a n v : Nat) : (c.pokeLE a n v).spad = c.spad.writeLE a n v := rfl

/-- A slice that holds a line already needs no room for it (R61). -/
theorem State.l2Put_held (s : State) (l : L2Line) (h : (s.l2Find l.slice l.line).isSome = true) :
    s.l2Put l = { s with l2 := upsert (fun x => x.slice == l.slice && x.line == l.line) (fun _ => l) l s.l2 } := by
  simp [State.l2Put, State.l2Room, h]

/-- A core with its own chunk fields changed reads its registers as before. -/
@[simp] theorem Core.reg_step4 (c : Core) (r : Reg) : c.step4.reg r = c.reg r := rfl
@[simp] theorem Core.reg_jump (c : Core) (t : Word) (r : Reg) : (c.jump t).reg r = c.reg r := rfl
@[simp] theorem Core.reg_countIn (c : Core) (r : Reg) : c.countIn.reg r = c.reg r := rfl
@[simp] theorem Core.reg_retired (c : Core) (r : Reg) : c.retired.reg r = c.reg r := rfl
@[simp] theorem Core.reg_modChunk (c : Core) (f : Chunk → Chunk) (r : Reg) : (c.modChunk f).reg r = c.reg r := rfl
@[simp] theorem Core.reg_addFlags (c : Core) (f : Flg) (r : Reg) : (c.addFlags f).reg r = c.reg r := rfl
@[simp] theorem Core.reg_openChunk (c : Core) (r : Reg) : c.openChunk.reg r = c.reg r := by simp [Core.reg]
@[simp] theorem Core.reg_setPending (c : Core) (d r : Reg) : (c.setPending d).reg r = c.reg r := by simp [Core.reg]
@[simp] theorem Core.reg_poke (c : Core) (a : Nat) (bs : List Byte) (r : Reg) : (c.poke a bs).reg r = c.reg r := rfl

/-- g0 reads as zero (R250). -/
@[simp] theorem Core.reg_zero (c : Core) : c.reg 0 = 0 := rfl

/-- An entry of the register cache by its number. -/
theorem Regs.get_eq (v : Regs) (r : Reg) : v.get r = v[r.toNat]'r.isLt := rfl

/-- An entry of the register cache after one has been replaced. -/
theorem Regs.get_put (v : Regs) (d r : Reg) (x : Word) : (v.put d x).get r = if d = r then x else v.get r := by
  by_cases h : d = r
  · subst h; simp [Regs.get_eq, Regs.put]
  · have : (d.toNat : Nat) ≠ r.toNat := fun e => h (BitVec.eq_of_toNat_eq e)
    simp [Regs.get_eq, Regs.put, h, this]

/-- A register read after a write: the value written, unless it is g0 or another register (R250, R266). -/
theorem Core.reg_setReg (c : Core) (d r : Reg) (v : Word) : (c.setReg d v).reg r = if r = d ∧ d ≠ 0 then v else c.reg r := by
  unfold Core.setReg Core.reg
  by_cases hd : d = 0
  · simp [hd]
  · rw [if_neg hd]
    by_cases hr : r = d
    · subst hr
      rw [if_neg hd, if_pos ⟨rfl, hd⟩, Regs.get_put, if_pos rfl]
    · simp only [Regs.get_put, if_neg (Ne.symm hr), hr, false_and, if_false]

/-- Writing a register leaves every other one. -/
theorem Core.reg_setReg_ne (c : Core) {d r : Reg} (v : Word) (h : r ≠ d) : (c.setReg d v).reg r = c.reg r := by
  simp [Core.reg_setReg, h]

/-- Writing a register other than g0 makes it read as the value. -/
theorem Core.reg_setReg_self (c : Core) {d : Reg} (v : Word) (h : d ≠ 0) : (c.setReg d v).reg d = v := by
  rw [Core.reg_setReg, if_pos ⟨rfl, h⟩]

end Sys2Proof.Machine
end

