-- ==== Sys2Proof/Laws/Ops.lean ====
section
/-! SUPPORT. What each shared operation of a core does, said once: the checks before an instruction, its completion, and a trap. -/

namespace Sys2Proof.Machine

/-! ## The checks before an instruction (R259) -/

theorem State.not_busy {s : State} (h : s.starts) : s.core.busy = false := by
  obtain ⟨h1, h2, h3, h4⟩ := h
  simp [Core.busy, h1, h2, h3, h4]

theorem any_pending_false {c : Core} {l : List Reg} (h : ∀ r ∈ l, c.pending r = false) : l.any c.pending = false := by
  simpa [List.any_eq_false] using h

theorem firstPoisoned_none {c : Core} {l : List Reg} (h : ∀ r ∈ l, c.poisoned r = false) : c.firstPoisoned l = none := by
  simpa [Core.firstPoisoned, List.find?_eq_none] using h

/-- An instruction of the open chunk passes its checks. -/
theorem State.gate_of_issues {s : State} {reads writes : List Reg} (h : s.issues reads writes) (k : Res) : s.gate reads writes k = k := by
  obtain ⟨hs, hp, hq⟩ := h
  simp only [State.gate, State.not_busy hs, any_pending_false hp, firstPoisoned_none hq]
  rfl

/-- An instruction that acts alone passes its checks. -/
theorem State.alone_of_issuesAlone {s : State} {sys : Bool} {w : Word} {reads writes : List Reg} (h : s.issuesAlone reads writes)
    (hm : sys = true → s.core.ctl.mode = .system) (k : Res) : s.alone sys w reads writes k = k := by
  obtain ⟨hs, hc, hp, hq⟩ := h
  have hm' : (sys && s.core.ctl.mode == Mode.user) = false := by
    cases sys
    · rfl
    · simp [hm rfl]
  simp only [State.alone, State.not_busy hs, hc, hm', any_pending_false hp, firstPoisoned_none hq]
  rfl

/-! ## Poison bits -/

@[simp] theorem Core.poisoned_step4 (c : Core) (r : Reg) : c.step4.poisoned r = c.poisoned r := rfl
@[simp] theorem Core.poisoned_jump (c : Core) (t : Word) (r : Reg) : (c.jump t).poisoned r = c.poisoned r := rfl
@[simp] theorem Core.poisoned_countIn (c : Core) (r : Reg) : c.countIn.poisoned r = c.poisoned r := rfl
@[simp] theorem Core.poisoned_retired (c : Core) (r : Reg) : c.retired.poisoned r = c.poisoned r := rfl
@[simp] theorem Core.poisoned_modChunk (c : Core) (f : Chunk → Chunk) (r : Reg) : (c.modChunk f).poisoned r = c.poisoned r := rfl
@[simp] theorem Core.poisoned_addFlags (c : Core) (f : Flg) (r : Reg) : (c.addFlags f).poisoned r = c.poisoned r := rfl

/-- The mask of a register has its one bit. -/
theorem regBit_getLsbD (d r : Reg) : (regBit d).getLsbD r.toNat = decide (r = d) := by
  have h1 := d.isLt
  have h2 := r.isLt
  simp only [regBit, BitVec.getLsbD_shiftLeft]
  by_cases h : r = d
  · subst h; simp [h2]
  · have hn : r.toNat ≠ d.toNat := fun e => h (BitVec.eq_of_toNat_eq e)
    by_cases hl : r.toNat < d.toNat
    · simp [hl, h]
    · have : r.toNat - d.toNat ≠ 0 := by omega
      simp [h, this]

/-- A write clears the poison bit of its register and no other (R42). -/
theorem Core.poisoned_setReg (c : Core) (d r : Reg) (v : Word) : (c.setReg d v).poisoned r = if r = d then false else c.poisoned r := by
  have h2 := r.isLt
  unfold Core.setReg Core.poisoned
  by_cases hd : d = 0
  · subst hd
    by_cases h : r = 0
    · simp [h]
    · rw [if_pos rfl, if_neg h]
  · rw [if_neg hd]
    simp only [BitVec.getLsbD_and, BitVec.getLsbD_not, regBit_getLsbD]
    by_cases h : r = d <;> simp [h, h2]

@[simp] theorem Core.poisoned_openChunk (c : Core) (r : Reg) : c.openChunk.poisoned r = c.poisoned r := by simp [Core.poisoned]

/-! ## Completion -/

@[simp] theorem Core.openChunk_isSome (c : Core) : c.openChunk.chunk.isSome = true := by
  unfold Core.openChunk
  split <;> simp_all

/-- Opening a chunk changes nothing but the chunk. -/
theorem Core.openChunk_eq (c : Core) : c.openChunk = { c with chunk := c.openChunk.chunk } := by
  unfold Core.openChunk
  split <;> rfl

/-- A new chunk buffers nothing, so nothing reads differently in it. -/
theorem Core.gbuf_openChunk (c : Core) : c.openChunk.gbuf = c.gbuf := by
  unfold Core.gbuf Core.openChunk
  cases h : c.chunk <;> simp [h]

theorem Core.localByte_openChunk (c : Core) (a : Nat) : c.openChunk.localByte a = c.localByte a := by
  unfold Core.localByte Core.openChunk Core.cacheSlot Core.slot0 Core.wp
  cases h : c.chunk <;> simp [bufByte, h]

/-- Opening a chunk and counting one instruction in it. -/
theorem Core.counted_openChunk (c k : Core) (h : k.chunk = c.openChunk.chunk) : counted c k.countIn := by
  unfold counted Core.countIn Core.modChunk
  simp only [h]
  unfold Core.openChunk
  cases hc : c.chunk <;> simp [hc]

/-- A byte outside the register image does not depend on the register cache. -/
theorem Core.localByte_congr (c k : Core) (a : Nat) (h : a < c.wp ∨ c.wp + 256 ≤ a) (hw : k.ctl.wpa = c.ctl.wpa) (hs : k.spad = c.spad)
    (hb : ((k.chunk.map (·.sbuf)).getD []) = (c.chunk.map (·.sbuf)).getD []) : k.localByte a = c.localByte a := by
  have hk : k.wp = c.wp := by simp [Core.wp, hw]
  unfold Core.localByte
  rw [hk, if_neg (by omega), if_neg (by omega), hs]
  cases h1 : k.chunk <;> cases h2 : c.chunk <;> simp_all [bufByte]

/-- An instruction of the chunk that writes one register and the PC: its whole effect. -/
theorem State.inChunk_setReg (s : State) (d : Reg) (v t : Word) : ∃ u, (s.inChunk fun c => (c.setReg d v).jump t) = .next u ∧
    holds u.core d v ∧ u.core.pc = t ∧ regFrame s u d ∧ counted s.core u.core := by
  refine ⟨_, rfl, ⟨?_, ?_⟩, ?_, ⟨?_, ⟨?_, ?_⟩, ⟨?_, ?_⟩, ?_⟩, ?_⟩
  · simp only [Core.reg_countIn, Core.reg_jump, Core.reg_setReg]
    by_cases h : d = 0
    · subst h; rfl
    · simp only [h, ne_eq, not_false_eq_true, and_self, if_true, if_false]
  · simp [Core.poisoned_setReg]
  · simp
  · rfl
  · simp only [Core.countIn, Core.modChunk, Core.jump, Core.setReg]
    rw [Core.openChunk_eq]
    split <;> rfl
  · rfl
  · intro a h
    refine Core.localByte_congr _ _ a h (by simp) (by simp) ?_
    simp only [Core.countIn, Core.modChunk, Core.jump_chunk, Core.setReg_chunk]
    unfold Core.openChunk
    cases hc : s.core.chunk <;> simp [hc]
  · intro a
    rw [← Core.gbuf_openChunk s.core]
    simp only [Core.gbuf, Core.countIn, Core.modChunk, Core.jump_chunk, Core.setReg_chunk]
    cases s.core.openChunk.chunk <;> rfl
  · intro r hr
    simp [Core.reg_setReg, Core.poisoned_setReg, hr]
  · exact Core.counted_openChunk _ _ (by simp)

/-- The same with PC + 4. -/
theorem State.inChunk_writesReg (s : State) (d : Reg) (v : Word) : ∃ u, (s.inChunk fun c => (c.setReg d v).step4) = .next u ∧
    writesReg s u d v := by
  obtain ⟨u, h, h1, h2, h3, h4⟩ := State.inChunk_setReg s d v (s.core.pc + 4)
  refine ⟨u, ?_, h1, h2, h3, h4⟩
  rw [← h]
  simp [State.inChunk, Core.step4, Core.jump]

/-! ## Traps -/

/-- A trap with no chunk open is taken at once. -/
theorem State.trap_of_noChunk {s : State} (h : s.core.chunk = none) (cause : Nat) (tval : Word) :
    s.trap cause tval = .next (s.trapEntry cause tval s.core.pc) := by
  simp [State.trap, State.trapAt, h]

/-- With an open chunk, the chunk closes first and the instruction is reached again (R137). -/
theorem State.trap_of_chunk {s : State} (h : s.core.chunk.isSome = true) (cause : Nat) (tval : Word) :
    s.trap cause tval = .next { s with core := s.core.close } := by
  simp [State.trap, State.trapAt, h]

end Sys2Proof.Machine
end

