-- ==== Sys2Proof/Laws/PerInstr.lean ====
section
/-! SUPPORT. Decoding undoes encoding, one lemma per constructor (spec 11 R254 to R258): the fields of a word are cut apart as they were put
together. -/

namespace Sys2Proof.Laws

/-! ## Cutting a word -/

/-- A field above the last part is a field of what stands above it. -/
theorem cutHi {n m : Nat} (x : BitVec n) (y : BitVec m) (s l : Nat) (h : m ≤ s) :
    (x ++ y).extractLsb' s l = x.extractLsb' (s - m) l := BitVec.extractLsb'_append_eq_of_le h

/-- The last part. -/
theorem cutLast {n m : Nat} (x : BitVec n) (y : BitVec m) : (x ++ y).extractLsb' 0 m = y :=
  (BitVec.extractLsb'_append_eq_of_add_le (by simp)).trans BitVec.extractLsb'_eq_self

/-- The five fields of a word are those it was made of. -/
theorem decodeRaw_word (m : BitVec 6) (d a b : BitVec 5) (fn : BitVec 11) : decodeRaw (word m d a b fn) = decodeFields m d a b fn := by
  have e1 : (m ++ d ++ a ++ b ++ fn).extractLsb' 26 6 = m := (cutHi _ _ _ _ (by decide)).trans ((cutHi _ _ _ _ (by decide)).trans
    ((cutHi _ _ _ _ (by decide)).trans ((cutHi _ _ _ _ (by decide)).trans BitVec.extractLsb'_eq_self)))
  have e2 : (m ++ d ++ a ++ b ++ fn).extractLsb' 21 5 = d := (cutHi _ _ _ _ (by decide)).trans ((cutHi _ _ _ _ (by decide)).trans
    ((cutHi _ _ _ _ (by decide)).trans (cutLast _ _)))
  have e3 : (m ++ d ++ a ++ b ++ fn).extractLsb' 16 5 = a :=
    (cutHi _ _ _ _ (by decide)).trans ((cutHi _ _ _ _ (by decide)).trans (cutLast _ _))
  have e4 : (m ++ d ++ a ++ b ++ fn).extractLsb' 11 5 = b := (cutHi _ _ _ _ (by decide)).trans (cutLast _ _)
  have e5 : (m ++ d ++ a ++ b ++ fn).extractLsb' 0 11 = fn := cutLast _ _
  exact congr (congr (congr (congr (congrArg decodeFields e1) e2) e3) e4) e5

theorem join_16 (i : BitVec 16) : (i.extractLsb' 11 5 ++ i.extractLsb' 0 11 : BitVec 16) = i :=
  (BitVec.extractLsb'_append_extractLsb'_eq_extractLsb' rfl).trans BitVec.extractLsb'_eq_self

theorem join_26 (o : BitVec 26) :
    (o.extractLsb' 21 5 ++ o.extractLsb' 16 5 ++ o.extractLsb' 11 5 ++ o.extractLsb' 0 11 : BitVec 26) = o := by
  have e1 : o.extractLsb' 21 5 ++ o.extractLsb' 16 5 = o.extractLsb' 16 10 := BitVec.extractLsb'_append_extractLsb'_eq_extractLsb' rfl
  have e2 : o.extractLsb' 16 10 ++ o.extractLsb' 11 5 = o.extractLsb' 11 15 := BitVec.extractLsb'_append_extractLsb'_eq_extractLsb' rfl
  have e3 : o.extractLsb' 11 15 ++ o.extractLsb' 0 11 = o :=
    (BitVec.extractLsb'_append_extractLsb'_eq_extractLsb' rfl).trans BitVec.extractLsb'_eq_self
  exact (congrArg (fun (x : BitVec 10) => x ++ o.extractLsb' 11 5 ++ o.extractLsb' 0 11) e1).trans
    ((congrArg (fun (x : BitVec 15) => x ++ o.extractLsb' 0 11) e2).trans e3)

theorem join_12 (x : BitVec 12) : (x.extractLsb' 11 1 ++ x.extractLsb' 0 11 : BitVec 12) = x :=
  (BitVec.extractLsb'_append_extractLsb'_eq_extractLsb' rfl).trans BitVec.extractLsb'_eq_self

theorem cut_x_at_0 (p0 : BitVec 4) (p1 : BitVec 1) : (p0 ++ p1 : BitVec 5).extractLsb' 0 1 = p1 := cutLast _ _

theorem cut_x_at_1 (p0 : BitVec 4) (p1 : BitVec 1) : (p0 ++ p1 : BitVec 5).extractLsb' 1 4 = p0 :=
  (cutHi _ _ _ _ (by decide)).trans BitVec.extractLsb'_eq_self

theorem cut_5_6_at_0 (p0 : BitVec 5) (p1 : BitVec 6) : (p0 ++ p1 : BitVec 11).extractLsb' 0 6 = p1 :=
  cutLast _ _

theorem cut_5_6_at_6_2 (p0 : BitVec 5) (p1 : BitVec 6) : (p0 ++ p1 : BitVec 11).extractLsb' 6 2 = p0.extractLsb' 0 2 :=
  (cutHi _ _ _ _ (by decide)).trans (rfl)

theorem cut_5_6_at_8_3 (p0 : BitVec 5) (p1 : BitVec 6) : (p0 ++ p1 : BitVec 11).extractLsb' 8 3 = p0.extractLsb' 2 3 :=
  (cutHi _ _ _ _ (by decide)).trans (rfl)

theorem cut_4_1_1_2_3_at_0 (p0 : BitVec 4) (p1 : BitVec 1) (p2 : BitVec 1) (p3 : BitVec 2) (p4 : BitVec 3) : (p0 ++ p1 ++ p2 ++ p3 ++ p4 : BitVec 11).extractLsb' 0 3 = p4 :=
  cutLast _ _

theorem cut_4_1_1_2_3_at_3 (p0 : BitVec 4) (p1 : BitVec 1) (p2 : BitVec 1) (p3 : BitVec 2) (p4 : BitVec 3) : (p0 ++ p1 ++ p2 ++ p3 ++ p4 : BitVec 11).extractLsb' 3 2 = p3 :=
  (cutHi _ _ _ _ (by decide)).trans (cutLast _ _)

theorem cut_4_1_1_2_3_at_5 (p0 : BitVec 4) (p1 : BitVec 1) (p2 : BitVec 1) (p3 : BitVec 2) (p4 : BitVec 3) : (p0 ++ p1 ++ p2 ++ p3 ++ p4 : BitVec 11).extractLsb' 5 1 = p2 :=
  (cutHi _ _ _ _ (by decide)).trans ((cutHi _ _ _ _ (by decide)).trans (cutLast _ _))

theorem cut_4_1_1_2_3_at_6 (p0 : BitVec 4) (p1 : BitVec 1) (p2 : BitVec 1) (p3 : BitVec 2) (p4 : BitVec 3) : (p0 ++ p1 ++ p2 ++ p3 ++ p4 : BitVec 11).extractLsb' 6 1 = p1 :=
  (cutHi _ _ _ _ (by decide)).trans ((cutHi _ _ _ _ (by decide)).trans ((cutHi _ _ _ _ (by decide)).trans (cutLast _ _)))

theorem cut_4_1_1_2_3_at_7 (p0 : BitVec 4) (p1 : BitVec 1) (p2 : BitVec 1) (p3 : BitVec 2) (p4 : BitVec 3) : (p0 ++ p1 ++ p2 ++ p3 ++ p4 : BitVec 11).extractLsb' 7 4 = p0 :=
  (cutHi _ _ _ _ (by decide)).trans ((cutHi _ _ _ _ (by decide)).trans ((cutHi _ _ _ _ (by decide)).trans ((cutHi _ _ _ _ (by decide)).trans (BitVec.extractLsb'_eq_self))))

theorem cut_5_1_2_3_at_0 (p0 : BitVec 5) (p1 : BitVec 1) (p2 : BitVec 2) (p3 : BitVec 3) : (p0 ++ p1 ++ p2 ++ p3 : BitVec 11).extractLsb' 0 3 = p3 :=
  cutLast _ _

theorem cut_5_1_2_3_at_3 (p0 : BitVec 5) (p1 : BitVec 1) (p2 : BitVec 2) (p3 : BitVec 3) : (p0 ++ p1 ++ p2 ++ p3 : BitVec 11).extractLsb' 3 2 = p2 :=
  (cutHi _ _ _ _ (by decide)).trans (cutLast _ _)

theorem cut_5_1_2_3_at_5 (p0 : BitVec 5) (p1 : BitVec 1) (p2 : BitVec 2) (p3 : BitVec 3) : (p0 ++ p1 ++ p2 ++ p3 : BitVec 11).extractLsb' 5 1 = p1 :=
  (cutHi _ _ _ _ (by decide)).trans ((cutHi _ _ _ _ (by decide)).trans (cutLast _ _))

theorem cut_5_1_2_3_at_6_1 (p0 : BitVec 5) (p1 : BitVec 1) (p2 : BitVec 2) (p3 : BitVec 3) : (p0 ++ p1 ++ p2 ++ p3 : BitVec 11).extractLsb' 6 1 = p0.extractLsb' 0 1 :=
  (cutHi _ _ _ _ (by decide)).trans ((cutHi _ _ _ _ (by decide)).trans ((cutHi _ _ _ _ (by decide)).trans (rfl)))

theorem cut_5_1_2_3_at_6 (p0 : BitVec 5) (p1 : BitVec 1) (p2 : BitVec 2) (p3 : BitVec 3) : (p0 ++ p1 ++ p2 ++ p3 : BitVec 11).extractLsb' 6 5 = p0 :=
  (cutHi _ _ _ _ (by decide)).trans ((cutHi _ _ _ _ (by decide)).trans ((cutHi _ _ _ _ (by decide)).trans (BitVec.extractLsb'_eq_self)))

theorem cut_5_1_2_3_at_7_4 (p0 : BitVec 5) (p1 : BitVec 1) (p2 : BitVec 2) (p3 : BitVec 3) : (p0 ++ p1 ++ p2 ++ p3 : BitVec 11).extractLsb' 7 4 = p0.extractLsb' 1 4 :=
  (cutHi _ _ _ _ (by decide)).trans ((cutHi _ _ _ _ (by decide)).trans ((cutHi _ _ _ _ (by decide)).trans (rfl)))

theorem cut_7_1_1_2_at_0 (p0 : BitVec 7) (p1 : BitVec 1) (p2 : BitVec 1) (p3 : BitVec 2) : (p0 ++ p1 ++ p2 ++ p3 : BitVec 11).extractLsb' 0 2 = p3 :=
  cutLast _ _

theorem cut_7_1_1_2_at_2 (p0 : BitVec 7) (p1 : BitVec 1) (p2 : BitVec 1) (p3 : BitVec 2) : (p0 ++ p1 ++ p2 ++ p3 : BitVec 11).extractLsb' 2 1 = p2 :=
  (cutHi _ _ _ _ (by decide)).trans (cutLast _ _)

theorem cut_7_1_1_2_at_3 (p0 : BitVec 7) (p1 : BitVec 1) (p2 : BitVec 1) (p3 : BitVec 2) : (p0 ++ p1 ++ p2 ++ p3 : BitVec 11).extractLsb' 3 1 = p1 :=
  (cutHi _ _ _ _ (by decide)).trans ((cutHi _ _ _ _ (by decide)).trans (cutLast _ _))

theorem cut_7_1_1_2_at_4 (p0 : BitVec 7) (p1 : BitVec 1) (p2 : BitVec 1) (p3 : BitVec 2) : (p0 ++ p1 ++ p2 ++ p3 : BitVec 11).extractLsb' 4 7 = p0 :=
  (cutHi _ _ _ _ (by decide)).trans ((cutHi _ _ _ _ (by decide)).trans ((cutHi _ _ _ _ (by decide)).trans (BitVec.extractLsb'_eq_self)))

theorem cut_8_1_2_at_0 (p0 : BitVec 8) (p1 : BitVec 1) (p2 : BitVec 2) : (p0 ++ p1 ++ p2 : BitVec 11).extractLsb' 0 2 = p2 :=
  cutLast _ _

theorem cut_8_1_2_at_2 (p0 : BitVec 8) (p1 : BitVec 1) (p2 : BitVec 2) : (p0 ++ p1 ++ p2 : BitVec 11).extractLsb' 2 1 = p1 :=
  (cutHi _ _ _ _ (by decide)).trans (cutLast _ _)

theorem cut_8_1_2_at_3 (p0 : BitVec 8) (p1 : BitVec 1) (p2 : BitVec 2) : (p0 ++ p1 ++ p2 : BitVec 11).extractLsb' 3 8 = p0 :=
  (cutHi _ _ _ _ (by decide)).trans ((cutHi _ _ _ _ (by decide)).trans (BitVec.extractLsb'_eq_self))

theorem cut_5_1_1_4_at_0 (p0 : BitVec 5) (p1 : BitVec 1) (p2 : BitVec 1) (p3 : BitVec 4) : (p0 ++ p1 ++ p2 ++ p3 : BitVec 11).extractLsb' 0 4 = p3 :=
  cutLast _ _

theorem cut_5_1_1_4_at_4 (p0 : BitVec 5) (p1 : BitVec 1) (p2 : BitVec 1) (p3 : BitVec 4) : (p0 ++ p1 ++ p2 ++ p3 : BitVec 11).extractLsb' 4 1 = p2 :=
  (cutHi _ _ _ _ (by decide)).trans (cutLast _ _)

theorem cut_5_1_1_4_at_5 (p0 : BitVec 5) (p1 : BitVec 1) (p2 : BitVec 1) (p3 : BitVec 4) : (p0 ++ p1 ++ p2 ++ p3 : BitVec 11).extractLsb' 5 1 = p1 :=
  (cutHi _ _ _ _ (by decide)).trans ((cutHi _ _ _ _ (by decide)).trans (cutLast _ _))

theorem cut_5_1_1_4_at_6 (p0 : BitVec 5) (p1 : BitVec 1) (p2 : BitVec 1) (p3 : BitVec 4) : (p0 ++ p1 ++ p2 ++ p3 : BitVec 11).extractLsb' 6 5 = p0 :=
  (cutHi _ _ _ _ (by decide)).trans ((cutHi _ _ _ _ (by decide)).trans ((cutHi _ _ _ _ (by decide)).trans (BitVec.extractLsb'_eq_self)))

theorem cut_10_1_at_0 (p0 : BitVec 10) (p1 : BitVec 1) : (p0 ++ p1 : BitVec 11).extractLsb' 0 1 = p1 :=
  cutLast _ _

theorem cut_10_1_at_1 (p0 : BitVec 10) (p1 : BitVec 1) : (p0 ++ p1 : BitVec 11).extractLsb' 1 10 = p0 :=
  (cutHi _ _ _ _ (by decide)).trans (BitVec.extractLsb'_eq_self)

theorem cut_3_8_at_0_5 (p0 : BitVec 3) (p1 : BitVec 8) : (p0 ++ p1 : BitVec 11).extractLsb' 0 5 = p1.extractLsb' 0 5 :=
  BitVec.extractLsb'_append_eq_of_add_le (by decide)

theorem cut_3_8_at_5_3 (p0 : BitVec 3) (p1 : BitVec 8) : (p0 ++ p1 : BitVec 11).extractLsb' 5 3 = p1.extractLsb' 5 3 :=
  BitVec.extractLsb'_append_eq_of_add_le (by decide)

theorem cut_3_8_at_8 (p0 : BitVec 3) (p1 : BitVec 8) : (p0 ++ p1 : BitVec 11).extractLsb' 8 3 = p0 :=
  (cutHi _ _ _ _ (by decide)).trans (BitVec.extractLsb'_eq_self)

theorem cut_5_3_3_at_0 (p0 : BitVec 5) (p1 : BitVec 3) (p2 : BitVec 3) : (p0 ++ p1 ++ p2 : BitVec 11).extractLsb' 0 3 = p2 :=
  cutLast _ _

theorem cut_5_3_3_at_3 (p0 : BitVec 5) (p1 : BitVec 3) (p2 : BitVec 3) : (p0 ++ p1 ++ p2 : BitVec 11).extractLsb' 3 3 = p1 :=
  (cutHi _ _ _ _ (by decide)).trans (cutLast _ _)

theorem cut_5_3_3_at_6 (p0 : BitVec 5) (p1 : BitVec 3) (p2 : BitVec 3) : (p0 ++ p1 ++ p2 : BitVec 11).extractLsb' 6 5 = p0 :=
  (cutHi _ _ _ _ (by decide)).trans ((cutHi _ _ _ _ (by decide)).trans (BitVec.extractLsb'_eq_self))

theorem cut_3_8_at_5_2 (p0 : BitVec 3) (p1 : BitVec 8) : (p0 ++ p1 : BitVec 11).extractLsb' 5 2 = p1.extractLsb' 5 2 :=
  BitVec.extractLsb'_append_eq_of_add_le (by decide)

theorem cut_4_2_5_at_0 (p0 : BitVec 4) (p1 : BitVec 2) (p2 : BitVec 5) : (p0 ++ p1 ++ p2 : BitVec 11).extractLsb' 0 5 = p2 :=
  cutLast _ _

theorem cut_4_2_5_at_5 (p0 : BitVec 4) (p1 : BitVec 2) (p2 : BitVec 5) : (p0 ++ p1 ++ p2 : BitVec 11).extractLsb' 5 2 = p1 :=
  (cutHi _ _ _ _ (by decide)).trans (cutLast _ _)

theorem cut_4_2_5_at_7 (p0 : BitVec 4) (p1 : BitVec 2) (p2 : BitVec 5) : (p0 ++ p1 ++ p2 : BitVec 11).extractLsb' 7 4 = p0 :=
  (cutHi _ _ _ _ (by decide)).trans ((cutHi _ _ _ _ (by decide)).trans (BitVec.extractLsb'_eq_self))

theorem cut_4_2_5_at_8_3 (p0 : BitVec 4) (p1 : BitVec 2) (p2 : BitVec 5) : (p0 ++ p1 ++ p2 : BitVec 11).extractLsb' 8 3 = p0.extractLsb' 1 3 :=
  (cutHi _ _ _ _ (by decide)).trans ((cutHi _ _ _ _ (by decide)).trans (rfl))

theorem cut_3_1_1_at_0 (p0 : BitVec 3) (p1 : BitVec 1) (p2 : BitVec 1) : (p0 ++ p1 ++ p2 : BitVec 5).extractLsb' 0 1 = p2 :=
  cutLast _ _

theorem cut_3_1_1_at_1 (p0 : BitVec 3) (p1 : BitVec 1) (p2 : BitVec 1) : (p0 ++ p1 ++ p2 : BitVec 5).extractLsb' 1 1 = p1 :=
  (cutHi _ _ _ _ (by decide)).trans (cutLast _ _)

theorem cut_3_1_1_at_2 (p0 : BitVec 3) (p1 : BitVec 1) (p2 : BitVec 1) : (p0 ++ p1 ++ p2 : BitVec 5).extractLsb' 2 3 = p0 :=
  (cutHi _ _ _ _ (by decide)).trans ((cutHi _ _ _ _ (by decide)).trans (BitVec.extractLsb'_eq_self))

theorem cut_3_4_4_at_0 (p0 : BitVec 3) (p1 : BitVec 4) (p2 : BitVec 4) : (p0 ++ p1 ++ p2 : BitVec 11).extractLsb' 0 4 = p2 :=
  cutLast _ _

theorem cut_3_4_4_at_4 (p0 : BitVec 3) (p1 : BitVec 4) (p2 : BitVec 4) : (p0 ++ p1 ++ p2 : BitVec 11).extractLsb' 4 4 = p1 :=
  (cutHi _ _ _ _ (by decide)).trans (cutLast _ _)

theorem cut_3_4_4_at_8 (p0 : BitVec 3) (p1 : BitVec 4) (p2 : BitVec 4) : (p0 ++ p1 ++ p2 : BitVec 11).extractLsb' 8 3 = p0 :=
  (cutHi _ _ _ _ (by decide)).trans ((cutHi _ _ _ _ (by decide)).trans (BitVec.extractLsb'_eq_self))

theorem cut_4_4_1_1_1_at_0 (p0 : BitVec 4) (p1 : BitVec 4) (p2 : BitVec 1) (p3 : BitVec 1) (p4 : BitVec 1) : (p0 ++ p1 ++ p2 ++ p3 ++ p4 : BitVec 11).extractLsb' 0 1 = p4 :=
  cutLast _ _

theorem cut_4_4_1_1_1_at_1 (p0 : BitVec 4) (p1 : BitVec 4) (p2 : BitVec 1) (p3 : BitVec 1) (p4 : BitVec 1) : (p0 ++ p1 ++ p2 ++ p3 ++ p4 : BitVec 11).extractLsb' 1 1 = p3 :=
  (cutHi _ _ _ _ (by decide)).trans (cutLast _ _)

theorem cut_4_4_1_1_1_at_2 (p0 : BitVec 4) (p1 : BitVec 4) (p2 : BitVec 1) (p3 : BitVec 1) (p4 : BitVec 1) : (p0 ++ p1 ++ p2 ++ p3 ++ p4 : BitVec 11).extractLsb' 2 1 = p2 :=
  (cutHi _ _ _ _ (by decide)).trans ((cutHi _ _ _ _ (by decide)).trans (cutLast _ _))

theorem cut_4_4_1_1_1_at_3 (p0 : BitVec 4) (p1 : BitVec 4) (p2 : BitVec 1) (p3 : BitVec 1) (p4 : BitVec 1) : (p0 ++ p1 ++ p2 ++ p3 ++ p4 : BitVec 11).extractLsb' 3 4 = p1 :=
  (cutHi _ _ _ _ (by decide)).trans ((cutHi _ _ _ _ (by decide)).trans ((cutHi _ _ _ _ (by decide)).trans (cutLast _ _)))

theorem cut_4_4_1_1_1_at_7 (p0 : BitVec 4) (p1 : BitVec 4) (p2 : BitVec 1) (p3 : BitVec 1) (p4 : BitVec 1) : (p0 ++ p1 ++ p2 ++ p3 ++ p4 : BitVec 11).extractLsb' 7 4 = p0 :=
  (cutHi _ _ _ _ (by decide)).trans ((cutHi _ _ _ _ (by decide)).trans ((cutHi _ _ _ _ (by decide)).trans ((cutHi _ _ _ _ (by decide)).trans (BitVec.extractLsb'_eq_self))))

theorem cut_4_4_1_2_at_0_1 (p0 : BitVec 4) (p1 : BitVec 4) (p2 : BitVec 1) (p3 : BitVec 2) : (p0 ++ p1 ++ p2 ++ p3 : BitVec 11).extractLsb' 0 1 = p3.extractLsb' 0 1 :=
  BitVec.extractLsb'_append_eq_of_add_le (by decide)

theorem cut_4_4_1_2_at_0 (p0 : BitVec 4) (p1 : BitVec 4) (p2 : BitVec 1) (p3 : BitVec 2) : (p0 ++ p1 ++ p2 ++ p3 : BitVec 11).extractLsb' 0 2 = p3 :=
  cutLast _ _

theorem cut_4_4_1_2_at_1_1 (p0 : BitVec 4) (p1 : BitVec 4) (p2 : BitVec 1) (p3 : BitVec 2) : (p0 ++ p1 ++ p2 ++ p3 : BitVec 11).extractLsb' 1 1 = p3.extractLsb' 1 1 :=
  BitVec.extractLsb'_append_eq_of_add_le (by decide)

theorem cut_4_4_1_2_at_2 (p0 : BitVec 4) (p1 : BitVec 4) (p2 : BitVec 1) (p3 : BitVec 2) : (p0 ++ p1 ++ p2 ++ p3 : BitVec 11).extractLsb' 2 1 = p2 :=
  (cutHi _ _ _ _ (by decide)).trans (cutLast _ _)

theorem cut_4_4_1_2_at_3 (p0 : BitVec 4) (p1 : BitVec 4) (p2 : BitVec 1) (p3 : BitVec 2) : (p0 ++ p1 ++ p2 ++ p3 : BitVec 11).extractLsb' 3 4 = p1 :=
  (cutHi _ _ _ _ (by decide)).trans ((cutHi _ _ _ _ (by decide)).trans (cutLast _ _))

theorem cut_4_4_1_2_at_7 (p0 : BitVec 4) (p1 : BitVec 4) (p2 : BitVec 1) (p3 : BitVec 2) : (p0 ++ p1 ++ p2 ++ p3 : BitVec 11).extractLsb' 7 4 = p0 :=
  (cutHi _ _ _ _ (by decide)).trans ((cutHi _ _ _ _ (by decide)).trans ((cutHi _ _ _ _ (by decide)).trans (BitVec.extractLsb'_eq_self)))

theorem cut_1_4_at_0 (p0 : BitVec 1) (p1 : BitVec 4) : (p0 ++ p1 : BitVec 5).extractLsb' 0 4 = p1 :=
  cutLast _ _

theorem cut_1_4_at_4 (p0 : BitVec 1) (p1 : BitVec 4) : (p0 ++ p1 : BitVec 5).extractLsb' 4 1 = p0 :=
  (cutHi _ _ _ _ (by decide)).trans (BitVec.extractLsb'_eq_self)

theorem cut_4_1_at_0 (p0 : BitVec 4) (p1 : BitVec 1) : (p0 ++ p1 : BitVec 5).extractLsb' 0 1 = p1 :=
  cutLast _ _

theorem cut_4_1_at_1 (p0 : BitVec 4) (p1 : BitVec 1) : (p0 ++ p1 : BitVec 5).extractLsb' 1 4 = p0 :=
  (cutHi _ _ _ _ (by decide)).trans (BitVec.extractLsb'_eq_self)

theorem cut_3_3_5_at_0 (p0 : BitVec 3) (p1 : BitVec 3) (p2 : BitVec 5) : (p0 ++ p1 ++ p2 : BitVec 11).extractLsb' 0 5 = p2 :=
  cutLast _ _

theorem cut_3_3_5_at_5 (p0 : BitVec 3) (p1 : BitVec 3) (p2 : BitVec 5) : (p0 ++ p1 ++ p2 : BitVec 11).extractLsb' 5 3 = p1 :=
  (cutHi _ _ _ _ (by decide)).trans (cutLast _ _)

theorem cut_3_3_5_at_8 (p0 : BitVec 3) (p1 : BitVec 3) (p2 : BitVec 5) : (p0 ++ p1 ++ p2 : BitVec 11).extractLsb' 8 3 = p0 :=
  (cutHi _ _ _ _ (by decide)).trans ((cutHi _ _ _ _ (by decide)).trans (BitVec.extractLsb'_eq_self))

theorem cut_4_7_at_0 (p0 : BitVec 4) (p1 : BitVec 7) : (p0 ++ p1 : BitVec 11).extractLsb' 0 7 = p1 :=
  cutLast _ _

theorem cut_4_7_at_7 (p0 : BitVec 4) (p1 : BitVec 7) : (p0 ++ p1 : BitVec 11).extractLsb' 7 4 = p0 :=
  (cutHi _ _ _ _ (by decide)).trans (BitVec.extractLsb'_eq_self)

theorem cut_2_4_5_at_0 (p0 : BitVec 2) (p1 : BitVec 4) (p2 : BitVec 5) : (p0 ++ p1 ++ p2 : BitVec 11).extractLsb' 0 5 = p2 :=
  cutLast _ _

theorem cut_2_4_5_at_5 (p0 : BitVec 2) (p1 : BitVec 4) (p2 : BitVec 5) : (p0 ++ p1 ++ p2 : BitVec 11).extractLsb' 5 4 = p1 :=
  (cutHi _ _ _ _ (by decide)).trans (cutLast _ _)

theorem cut_2_4_5_at_9 (p0 : BitVec 2) (p1 : BitVec 4) (p2 : BitVec 5) : (p0 ++ p1 ++ p2 : BitVec 11).extractLsb' 9 2 = p0 :=
  (cutHi _ _ _ _ (by decide)).trans ((cutHi _ _ _ _ (by decide)).trans (BitVec.extractLsb'_eq_self))

/-! ## The family -/

/-- Decoding the word of a well-formed instruction gives the instruction back. -/
def RoundTrip.Statement (i : Instr) : Prop := i.wf = true → ∀ w, encode i = some w → decode w = .ok i

theorem RoundTrip.of_none {i : Instr} (h : encode i = none) : RoundTrip.Statement i := by
  intro _ w hw
  rw [h] at hw
  cases hw

theorem RoundTrip.of_word {i : Instr} {v : BitVec 32} (h : encode i = some v) (hr : decodeRaw v = .ok i) : RoundTrip.Statement i := by
  intro hf w hw
  rw [h] at hw
  cases hw
  have hd : i.defect = none := by simpa [Instr.wf] using hf
  simp [decode, hr, hd]

theorem RoundTrip.nop : RoundTrip.Statement .nop := 
  RoundTrip.of_word rfl (by rw [decodeRaw_word]; simp [decodeFields, decodeSys])
theorem RoundTrip.trap (a : Reg) : RoundTrip.Statement (.trap a) := 
  RoundTrip.of_word rfl (by rw [decodeRaw_word]; simp [decodeFields, decodeSys])
theorem RoundTrip.eret : RoundTrip.Statement .eret := 
  RoundTrip.of_word rfl (by rw [decodeRaw_word]; simp [decodeFields, decodeSys])
theorem RoundTrip.upret (a : Reg) : RoundTrip.Statement (.upret a) := 
  RoundTrip.of_word rfl (by rw [decodeRaw_word]; simp [decodeFields, decodeSys])
theorem RoundTrip.wfe : RoundTrip.Statement .wfe := 
  RoundTrip.of_word rfl (by rw [decodeRaw_word]; simp [decodeFields, decodeSys])
theorem RoundTrip.brk : RoundTrip.Statement .brk := 
  RoundTrip.of_word rfl (by rw [decodeRaw_word]; simp [decodeFields, decodeSys])
theorem RoundTrip.replay : RoundTrip.Statement .replay := 
  RoundTrip.of_word rfl (by rw [decodeRaw_word]; simp [decodeFields, decodeSys])
theorem RoundTrip.tinv (a : Reg) (b : Reg) : RoundTrip.Statement (.tinv a b) := 
  RoundTrip.of_word rfl (by rw [decodeRaw_word]; simp [decodeFields, decodeSys])
theorem RoundTrip.halt : RoundTrip.Statement .halt := 
  RoundTrip.of_word rfl (by rw [decodeRaw_word]; simp [decodeFields, decodeSys])
theorem RoundTrip.crd (d : Reg) (x : BitVec 12) : RoundTrip.Statement (.crd d x) := 
  RoundTrip.of_word rfl (by rw [decodeRaw_word]; simp [decodeFields, join_12, cut_x_at_0, cut_x_at_1])
theorem RoundTrip.cwr (a : Reg) (x : BitVec 12) : RoundTrip.Statement (.cwr a x) := 
  RoundTrip.of_word rfl (by rw [decodeRaw_word]; simp [decodeFields, join_12, cut_x_at_0, cut_x_at_1])
theorem RoundTrip.add (d : Reg) (a : Reg) (b : Reg) : RoundTrip.Statement (.add d a b) := 
  RoundTrip.of_word rfl (by rw [decodeRaw_word]; simp [decodeFields, decodeAlu])
theorem RoundTrip.sub (d : Reg) (a : Reg) (b : Reg) : RoundTrip.Statement (.sub d a b) := 
  RoundTrip.of_word rfl (by rw [decodeRaw_word]; simp [decodeFields, decodeAlu])
theorem RoundTrip.and (d : Reg) (a : Reg) (b : Reg) : RoundTrip.Statement (.and d a b) := 
  RoundTrip.of_word rfl (by rw [decodeRaw_word]; simp [decodeFields, decodeAlu])
theorem RoundTrip.or (d : Reg) (a : Reg) (b : Reg) : RoundTrip.Statement (.or d a b) := 
  RoundTrip.of_word rfl (by rw [decodeRaw_word]; simp [decodeFields, decodeAlu])
theorem RoundTrip.xor (d : Reg) (a : Reg) (b : Reg) : RoundTrip.Statement (.xor d a b) := 
  RoundTrip.of_word rfl (by rw [decodeRaw_word]; simp [decodeFields, decodeAlu])
theorem RoundTrip.sll (d : Reg) (a : Reg) (b : Reg) : RoundTrip.Statement (.sll d a b) := 
  RoundTrip.of_word rfl (by rw [decodeRaw_word]; simp [decodeFields, decodeAlu])
theorem RoundTrip.srl (d : Reg) (a : Reg) (b : Reg) : RoundTrip.Statement (.srl d a b) := 
  RoundTrip.of_word rfl (by rw [decodeRaw_word]; simp [decodeFields, decodeAlu])
theorem RoundTrip.sra (d : Reg) (a : Reg) (b : Reg) : RoundTrip.Statement (.sra d a b) := 
  RoundTrip.of_word rfl (by rw [decodeRaw_word]; simp [decodeFields, decodeAlu])
theorem RoundTrip.slt (d : Reg) (a : Reg) (b : Reg) : RoundTrip.Statement (.slt d a b) := 
  RoundTrip.of_word rfl (by rw [decodeRaw_word]; simp [decodeFields, decodeAlu])
theorem RoundTrip.sltu (d : Reg) (a : Reg) (b : Reg) : RoundTrip.Statement (.sltu d a b) := 
  RoundTrip.of_word rfl (by rw [decodeRaw_word]; simp [decodeFields, decodeAlu])
theorem RoundTrip.min (d : Reg) (a : Reg) (b : Reg) : RoundTrip.Statement (.min d a b) := 
  RoundTrip.of_word rfl (by rw [decodeRaw_word]; simp [decodeFields, decodeAlu])
theorem RoundTrip.max (d : Reg) (a : Reg) (b : Reg) : RoundTrip.Statement (.max d a b) := 
  RoundTrip.of_word rfl (by rw [decodeRaw_word]; simp [decodeFields, decodeAlu])
theorem RoundTrip.minu (d : Reg) (a : Reg) (b : Reg) : RoundTrip.Statement (.minu d a b) := 
  RoundTrip.of_word rfl (by rw [decodeRaw_word]; simp [decodeFields, decodeAlu])
theorem RoundTrip.maxu (d : Reg) (a : Reg) (b : Reg) : RoundTrip.Statement (.maxu d a b) := 
  RoundTrip.of_word rfl (by rw [decodeRaw_word]; simp [decodeFields, decodeAlu])
theorem RoundTrip.clz (d : Reg) (a : Reg) : RoundTrip.Statement (.clz d a) := 
  RoundTrip.of_word rfl (by rw [decodeRaw_word]; simp [decodeFields, decodeAlu])
theorem RoundTrip.ctz (d : Reg) (a : Reg) : RoundTrip.Statement (.ctz d a) := 
  RoundTrip.of_word rfl (by rw [decodeRaw_word]; simp [decodeFields, decodeAlu])
theorem RoundTrip.popc (d : Reg) (a : Reg) : RoundTrip.Statement (.popc d a) := 
  RoundTrip.of_word rfl (by rw [decodeRaw_word]; simp [decodeFields, decodeAlu])
theorem RoundTrip.sext (d : Reg) (a : Reg) (b : Reg) : RoundTrip.Statement (.sext d a b) := 
  RoundTrip.of_word rfl (by rw [decodeRaw_word]; simp [decodeFields, decodeAlu])
theorem RoundTrip.zext (d : Reg) (a : Reg) (b : Reg) : RoundTrip.Statement (.zext d a b) := 
  RoundTrip.of_word rfl (by rw [decodeRaw_word]; simp [decodeFields, decodeAlu])
theorem RoundTrip.mul (d : Reg) (a : Reg) (b : Reg) : RoundTrip.Statement (.mul d a b) := 
  RoundTrip.of_word rfl (by rw [decodeRaw_word]; simp [decodeFields, decodeMulDiv])
theorem RoundTrip.mulh (d : Reg) (a : Reg) (b : Reg) : RoundTrip.Statement (.mulh d a b) := 
  RoundTrip.of_word rfl (by rw [decodeRaw_word]; simp [decodeFields, decodeMulDiv])
theorem RoundTrip.mulhu (d : Reg) (a : Reg) (b : Reg) : RoundTrip.Statement (.mulhu d a b) := 
  RoundTrip.of_word rfl (by rw [decodeRaw_word]; simp [decodeFields, decodeMulDiv])
theorem RoundTrip.div (d : Reg) (a : Reg) (b : Reg) : RoundTrip.Statement (.div d a b) := 
  RoundTrip.of_word rfl (by rw [decodeRaw_word]; simp [decodeFields, decodeMulDiv])
theorem RoundTrip.divu (d : Reg) (a : Reg) (b : Reg) : RoundTrip.Statement (.divu d a b) := 
  RoundTrip.of_word rfl (by rw [decodeRaw_word]; simp [decodeFields, decodeMulDiv])
theorem RoundTrip.rem (d : Reg) (a : Reg) (b : Reg) : RoundTrip.Statement (.rem d a b) := 
  RoundTrip.of_word rfl (by rw [decodeRaw_word]; simp [decodeFields, decodeMulDiv])
theorem RoundTrip.remu (d : Reg) (a : Reg) (b : Reg) : RoundTrip.Statement (.remu d a b) := 
  RoundTrip.of_word rfl (by rw [decodeRaw_word]; simp [decodeFields, decodeMulDiv])
theorem RoundTrip.addi (d : Reg) (a : Reg) (i : BitVec 16) : RoundTrip.Statement (.addi d a i) := 
  RoundTrip.of_word rfl (by rw [decodeRaw_word]; simp [decodeFields, join_16])
theorem RoundTrip.andi (d : Reg) (a : Reg) (i : BitVec 16) : RoundTrip.Statement (.andi d a i) := 
  RoundTrip.of_word rfl (by rw [decodeRaw_word]; simp [decodeFields, join_16])
theorem RoundTrip.ori (d : Reg) (a : Reg) (i : BitVec 16) : RoundTrip.Statement (.ori d a i) := 
  RoundTrip.of_word rfl (by rw [decodeRaw_word]; simp [decodeFields, join_16])
theorem RoundTrip.xori (d : Reg) (a : Reg) (i : BitVec 16) : RoundTrip.Statement (.xori d a i) := 
  RoundTrip.of_word rfl (by rw [decodeRaw_word]; simp [decodeFields, join_16])
theorem RoundTrip.slti (d : Reg) (a : Reg) (i : BitVec 16) : RoundTrip.Statement (.slti d a i) := 
  RoundTrip.of_word rfl (by rw [decodeRaw_word]; simp [decodeFields, join_16])
theorem RoundTrip.sltiu (d : Reg) (a : Reg) (i : BitVec 16) : RoundTrip.Statement (.sltiu d a i) := 
  RoundTrip.of_word rfl (by rw [decodeRaw_word]; simp [decodeFields, join_16])
theorem RoundTrip.slli (d : Reg) (a : Reg) (n : BitVec 6) : RoundTrip.Statement (.slli d a n) := 
  RoundTrip.of_word rfl (by rw [decodeRaw_word]; simp [decodeFields, decodeShi, cut_5_6_at_0, cut_5_6_at_6_2, cut_5_6_at_8_3])
theorem RoundTrip.srli (d : Reg) (a : Reg) (n : BitVec 6) : RoundTrip.Statement (.srli d a n) := 
  RoundTrip.of_word rfl (by rw [decodeRaw_word]; simp [decodeFields, decodeShi, cut_5_6_at_0, cut_5_6_at_6_2, cut_5_6_at_8_3])
theorem RoundTrip.srai (d : Reg) (a : Reg) (n : BitVec 6) : RoundTrip.Statement (.srai d a n) := 
  RoundTrip.of_word rfl (by rw [decodeRaw_word]; simp [decodeFields, decodeShi, cut_5_6_at_0, cut_5_6_at_6_2, cut_5_6_at_8_3])
theorem RoundTrip.li (d : Reg) (i : BitVec 16) : RoundTrip.Statement (.li d i) := 
  RoundTrip.of_word rfl (by rw [decodeRaw_word]; simp [decodeFields, join_16])
theorem RoundTrip.lis (d : Reg) (a : Reg) (i : BitVec 16) : RoundTrip.Statement (.lis d a i) := 
  RoundTrip.of_word rfl (by rw [decodeRaw_word]; simp [decodeFields, join_16])
theorem RoundTrip.adpc (d : Reg) (i : BitVec 16) : RoundTrip.Statement (.adpc d i) := 
  RoundTrip.of_word rfl (by rw [decodeRaw_word]; simp [decodeFields, join_16])
theorem RoundTrip.gaddr (d : Reg) (a : Reg) (b : Reg) : RoundTrip.Statement (.gaddr d a b) := 
  RoundTrip.of_word rfl (by rw [decodeRaw_word]; simp [decodeFields])
theorem RoundTrip.padd (d : Reg) (a : Reg) (b : Reg) (t : Bit) (s : Bit) (w : BitVec 2) : RoundTrip.Statement (.padd d a b t s w) := 
  RoundTrip.of_word rfl (by rw [decodeRaw_word]; simp [decodeFields, decodePsimd, cut_4_1_1_2_3_at_0, cut_4_1_1_2_3_at_3, cut_4_1_1_2_3_at_5, cut_4_1_1_2_3_at_6, cut_4_1_1_2_3_at_7])
theorem RoundTrip.psub (d : Reg) (a : Reg) (b : Reg) (t : Bit) (s : Bit) (w : BitVec 2) : RoundTrip.Statement (.psub d a b t s w) := 
  RoundTrip.of_word rfl (by rw [decodeRaw_word]; simp [decodeFields, decodePsimd, cut_4_1_1_2_3_at_0, cut_4_1_1_2_3_at_3, cut_4_1_1_2_3_at_5, cut_4_1_1_2_3_at_6, cut_4_1_1_2_3_at_7])
theorem RoundTrip.pmul (d : Reg) (a : Reg) (b : Reg) (t : Bit) (s : Bit) (w : BitVec 2) : RoundTrip.Statement (.pmul d a b t s w) := 
  RoundTrip.of_word rfl (by rw [decodeRaw_word]; simp [decodeFields, decodePsimd, cut_4_1_1_2_3_at_0, cut_4_1_1_2_3_at_3, cut_4_1_1_2_3_at_5, cut_4_1_1_2_3_at_6, cut_4_1_1_2_3_at_7])
theorem RoundTrip.pmin (d : Reg) (a : Reg) (b : Reg) (s : Bit) (w : BitVec 2) : RoundTrip.Statement (.pmin d a b s w) := 
  RoundTrip.of_word rfl (by rw [decodeRaw_word]; simp [decodeFields, decodePsimd, cut_5_1_2_3_at_0, cut_5_1_2_3_at_3, cut_5_1_2_3_at_5, cut_5_1_2_3_at_6])
theorem RoundTrip.pmax (d : Reg) (a : Reg) (b : Reg) (s : Bit) (w : BitVec 2) : RoundTrip.Statement (.pmax d a b s w) := 
  RoundTrip.of_word rfl (by rw [decodeRaw_word]; simp [decodeFields, decodePsimd, cut_5_1_2_3_at_0, cut_5_1_2_3_at_3, cut_5_1_2_3_at_5, cut_5_1_2_3_at_6])
theorem RoundTrip.pavg (d : Reg) (a : Reg) (b : Reg) (s : Bit) (w : BitVec 2) : RoundTrip.Statement (.pavg d a b s w) := 
  RoundTrip.of_word rfl (by rw [decodeRaw_word]; simp [decodeFields, decodePsimd, cut_5_1_2_3_at_0, cut_5_1_2_3_at_3, cut_5_1_2_3_at_5, cut_5_1_2_3_at_6])
theorem RoundTrip.beq (b : Reg) (a : Reg) (i : BitVec 16) : RoundTrip.Statement (.beq b a i) := 
  RoundTrip.of_word rfl (by rw [decodeRaw_word]; simp [decodeFields, join_16])
theorem RoundTrip.bne (b : Reg) (a : Reg) (i : BitVec 16) : RoundTrip.Statement (.bne b a i) := 
  RoundTrip.of_word rfl (by rw [decodeRaw_word]; simp [decodeFields, join_16])
theorem RoundTrip.blt (b : Reg) (a : Reg) (i : BitVec 16) : RoundTrip.Statement (.blt b a i) := 
  RoundTrip.of_word rfl (by rw [decodeRaw_word]; simp [decodeFields, join_16])
theorem RoundTrip.bge (b : Reg) (a : Reg) (i : BitVec 16) : RoundTrip.Statement (.bge b a i) := 
  RoundTrip.of_word rfl (by rw [decodeRaw_word]; simp [decodeFields, join_16])
theorem RoundTrip.bltu (b : Reg) (a : Reg) (i : BitVec 16) : RoundTrip.Statement (.bltu b a i) := 
  RoundTrip.of_word rfl (by rw [decodeRaw_word]; simp [decodeFields, join_16])
theorem RoundTrip.bgeu (b : Reg) (a : Reg) (i : BitVec 16) : RoundTrip.Statement (.bgeu b a i) := 
  RoundTrip.of_word rfl (by rw [decodeRaw_word]; simp [decodeFields, join_16])
theorem RoundTrip.j (o : BitVec 26) : RoundTrip.Statement (.j o) := 
  RoundTrip.of_word rfl (by rw [decodeRaw_word]; simp [decodeFields, join_26])
theorem RoundTrip.jal (o : BitVec 26) : RoundTrip.Statement (.jal o) := 
  RoundTrip.of_word rfl (by rw [decodeRaw_word]; simp [decodeFields, join_26])
theorem RoundTrip.jalr (d : Reg) (a : Reg) (i : BitVec 16) : RoundTrip.Statement (.jalr d a i) := 
  RoundTrip.of_word rfl (by rw [decodeRaw_word]; simp [decodeFields, join_16])
theorem RoundTrip.ldb (d : Reg) (a : Reg) (i : BitVec 16) : RoundTrip.Statement (.ldb d a i) := 
  RoundTrip.of_word rfl (by rw [decodeRaw_word]; simp [decodeFields, join_16])
theorem RoundTrip.ldh (d : Reg) (a : Reg) (i : BitVec 16) : RoundTrip.Statement (.ldh d a i) := 
  RoundTrip.of_word rfl (by rw [decodeRaw_word]; simp [decodeFields, join_16])
theorem RoundTrip.ldw (d : Reg) (a : Reg) (i : BitVec 16) : RoundTrip.Statement (.ldw d a i) := 
  RoundTrip.of_word rfl (by rw [decodeRaw_word]; simp [decodeFields, join_16])
theorem RoundTrip.ldd (d : Reg) (a : Reg) (i : BitVec 16) : RoundTrip.Statement (.ldd d a i) := 
  RoundTrip.of_word rfl (by rw [decodeRaw_word]; simp [decodeFields, join_16])
theorem RoundTrip.ldbu (d : Reg) (a : Reg) (i : BitVec 16) : RoundTrip.Statement (.ldbu d a i) := 
  RoundTrip.of_word rfl (by rw [decodeRaw_word]; simp [decodeFields, join_16])
theorem RoundTrip.ldhu (d : Reg) (a : Reg) (i : BitVec 16) : RoundTrip.Statement (.ldhu d a i) := 
  RoundTrip.of_word rfl (by rw [decodeRaw_word]; simp [decodeFields, join_16])
theorem RoundTrip.ldwu (d : Reg) (a : Reg) (i : BitVec 16) : RoundTrip.Statement (.ldwu d a i) := 
  RoundTrip.of_word rfl (by rw [decodeRaw_word]; simp [decodeFields, join_16])
theorem RoundTrip.stb (b : Reg) (a : Reg) (i : BitVec 16) : RoundTrip.Statement (.stb b a i) := 
  RoundTrip.of_word rfl (by rw [decodeRaw_word]; simp [decodeFields, join_16])
theorem RoundTrip.sth (b : Reg) (a : Reg) (i : BitVec 16) : RoundTrip.Statement (.sth b a i) := 
  RoundTrip.of_word rfl (by rw [decodeRaw_word]; simp [decodeFields, join_16])
theorem RoundTrip.stw (b : Reg) (a : Reg) (i : BitVec 16) : RoundTrip.Statement (.stw b a i) := 
  RoundTrip.of_word rfl (by rw [decodeRaw_word]; simp [decodeFields, join_16])
theorem RoundTrip.std (b : Reg) (a : Reg) (i : BitVec 16) : RoundTrip.Statement (.std b a i) := 
  RoundTrip.of_word rfl (by rw [decodeRaw_word]; simp [decodeFields, join_16])
theorem RoundTrip.lda (d : Reg) (a : Reg) (u : Bit) (s : Bit) (z : BitVec 2) : RoundTrip.Statement (.lda d a u s z) := 
  RoundTrip.of_word rfl (by rw [decodeRaw_word]; simp [decodeFields, cut_7_1_1_2_at_0, cut_7_1_1_2_at_2, cut_7_1_1_2_at_3, cut_7_1_1_2_at_4])
theorem RoundTrip.str (a : Reg) (b : Reg) (s : Bit) (z : BitVec 2) : RoundTrip.Statement (.str a b s z) := 
  RoundTrip.of_word rfl (by rw [decodeRaw_word]; simp [decodeFields, cut_8_1_2_at_0, cut_8_1_2_at_2, cut_8_1_2_at_3])
theorem RoundTrip.amoAdd (d : Reg) (a : Reg) (b : Reg) (n : Bit) (w : Bit) : RoundTrip.Statement (.amoAdd d a b n w) := 
  RoundTrip.of_word rfl (by rw [decodeRaw_word]; simp [decodeFields, decodeAmo, cut_5_1_1_4_at_0, cut_5_1_1_4_at_4, cut_5_1_1_4_at_5, cut_5_1_1_4_at_6])
theorem RoundTrip.amoAnd (d : Reg) (a : Reg) (b : Reg) (n : Bit) (w : Bit) : RoundTrip.Statement (.amoAnd d a b n w) := 
  RoundTrip.of_word rfl (by rw [decodeRaw_word]; simp [decodeFields, decodeAmo, cut_5_1_1_4_at_0, cut_5_1_1_4_at_4, cut_5_1_1_4_at_5, cut_5_1_1_4_at_6])
theorem RoundTrip.amoOr (d : Reg) (a : Reg) (b : Reg) (n : Bit) (w : Bit) : RoundTrip.Statement (.amoOr d a b n w) := 
  RoundTrip.of_word rfl (by rw [decodeRaw_word]; simp [decodeFields, decodeAmo, cut_5_1_1_4_at_0, cut_5_1_1_4_at_4, cut_5_1_1_4_at_5, cut_5_1_1_4_at_6])
theorem RoundTrip.amoXor (d : Reg) (a : Reg) (b : Reg) (n : Bit) (w : Bit) : RoundTrip.Statement (.amoXor d a b n w) := 
  RoundTrip.of_word rfl (by rw [decodeRaw_word]; simp [decodeFields, decodeAmo, cut_5_1_1_4_at_0, cut_5_1_1_4_at_4, cut_5_1_1_4_at_5, cut_5_1_1_4_at_6])
theorem RoundTrip.amoMin (d : Reg) (a : Reg) (b : Reg) (n : Bit) (w : Bit) : RoundTrip.Statement (.amoMin d a b n w) := 
  RoundTrip.of_word rfl (by rw [decodeRaw_word]; simp [decodeFields, decodeAmo, cut_5_1_1_4_at_0, cut_5_1_1_4_at_4, cut_5_1_1_4_at_5, cut_5_1_1_4_at_6])
theorem RoundTrip.amoMax (d : Reg) (a : Reg) (b : Reg) (n : Bit) (w : Bit) : RoundTrip.Statement (.amoMax d a b n w) := 
  RoundTrip.of_word rfl (by rw [decodeRaw_word]; simp [decodeFields, decodeAmo, cut_5_1_1_4_at_0, cut_5_1_1_4_at_4, cut_5_1_1_4_at_5, cut_5_1_1_4_at_6])
theorem RoundTrip.amoMinu (d : Reg) (a : Reg) (b : Reg) (n : Bit) (w : Bit) : RoundTrip.Statement (.amoMinu d a b n w) := 
  RoundTrip.of_word rfl (by rw [decodeRaw_word]; simp [decodeFields, decodeAmo, cut_5_1_1_4_at_0, cut_5_1_1_4_at_4, cut_5_1_1_4_at_5, cut_5_1_1_4_at_6])
theorem RoundTrip.amoMaxu (d : Reg) (a : Reg) (b : Reg) (n : Bit) (w : Bit) : RoundTrip.Statement (.amoMaxu d a b n w) := 
  RoundTrip.of_word rfl (by rw [decodeRaw_word]; simp [decodeFields, decodeAmo, cut_5_1_1_4_at_0, cut_5_1_1_4_at_4, cut_5_1_1_4_at_5, cut_5_1_1_4_at_6])
theorem RoundTrip.amoSwap (d : Reg) (a : Reg) (b : Reg) (n : Bit) (w : Bit) : RoundTrip.Statement (.amoSwap d a b n w) := 
  RoundTrip.of_word rfl (by rw [decodeRaw_word]; simp [decodeFields, decodeAmo, cut_5_1_1_4_at_0, cut_5_1_1_4_at_4, cut_5_1_1_4_at_5, cut_5_1_1_4_at_6])
theorem RoundTrip.amoFadd (d : Reg) (a : Reg) (b : Reg) (n : Bit) (w : Bit) : RoundTrip.Statement (.amoFadd d a b n w) := 
  RoundTrip.of_word rfl (by rw [decodeRaw_word]; simp [decodeFields, decodeAmo, cut_5_1_1_4_at_0, cut_5_1_1_4_at_4, cut_5_1_1_4_at_5, cut_5_1_1_4_at_6])
theorem RoundTrip.amoFmax (d : Reg) (a : Reg) (b : Reg) (n : Bit) (w : Bit) : RoundTrip.Statement (.amoFmax d a b n w) := 
  RoundTrip.of_word rfl (by rw [decodeRaw_word]; simp [decodeFields, decodeAmo, cut_5_1_1_4_at_0, cut_5_1_1_4_at_4, cut_5_1_1_4_at_5, cut_5_1_1_4_at_6])
theorem RoundTrip.amoFmin (d : Reg) (a : Reg) (b : Reg) (n : Bit) (w : Bit) : RoundTrip.Statement (.amoFmin d a b n w) := 
  RoundTrip.of_word rfl (by rw [decodeRaw_word]; simp [decodeFields, decodeAmo, cut_5_1_1_4_at_0, cut_5_1_1_4_at_4, cut_5_1_1_4_at_5, cut_5_1_1_4_at_6])
theorem RoundTrip.amoTadd (d : Reg) (a : Reg) (b : Reg) (n : Bit) (w : Bit) : RoundTrip.Statement (.amoTadd d a b n w) := 
  RoundTrip.of_word rfl (by rw [decodeRaw_word]; simp [decodeFields, decodeAmo, cut_5_1_1_4_at_0, cut_5_1_1_4_at_4, cut_5_1_1_4_at_5, cut_5_1_1_4_at_6])
theorem RoundTrip.cas (d : Reg) (a : Reg) (b : Reg) (w : Bit) : RoundTrip.Statement (.cas d a b w) := 
  RoundTrip.of_word rfl (by rw [decodeRaw_word]; simp [decodeFields, cut_10_1_at_0, cut_10_1_at_1])
theorem RoundTrip.fenceP : RoundTrip.Statement .fenceP := 
  RoundTrip.of_word rfl (by rw [decodeRaw_word]; simp [decodeFields, decodeMemc])
theorem RoundTrip.fenceS : RoundTrip.Statement .fenceS := 
  RoundTrip.of_word rfl (by rw [decodeRaw_word]; simp [decodeFields, decodeMemc])
theorem RoundTrip.clean (a : Reg) (b : Reg) : RoundTrip.Statement (.clean a b) := 
  RoundTrip.of_word rfl (by rw [decodeRaw_word]; simp [decodeFields, decodeMemc])
theorem RoundTrip.inv (a : Reg) (b : Reg) : RoundTrip.Statement (.inv a b) := 
  RoundTrip.of_word rfl (by rw [decodeRaw_word]; simp [decodeFields, decodeMemc])
theorem RoundTrip.clinv (a : Reg) (b : Reg) : RoundTrip.Statement (.clinv a b) := 
  RoundTrip.of_word rfl (by rw [decodeRaw_word]; simp [decodeFields, decodeMemc])
theorem RoundTrip.pref (a : Reg) (b : Reg) : RoundTrip.Statement (.pref a b) := 
  RoundTrip.of_word rfl (by rw [decodeRaw_word]; simp [decodeFields, decodeMemc])
theorem RoundTrip.fadd (d : Reg) (a : Reg) (b : Reg) (r : BitVec 3) : RoundTrip.Statement (.fadd d a b r) := 
  RoundTrip.of_word rfl (by rw [decodeRaw_word]; simp [decodeFields, decodeFop, cut_3_8_at_0_5, cut_3_8_at_5_3, cut_3_8_at_8])
theorem RoundTrip.fsub (d : Reg) (a : Reg) (b : Reg) (r : BitVec 3) : RoundTrip.Statement (.fsub d a b r) := 
  RoundTrip.of_word rfl (by rw [decodeRaw_word]; simp [decodeFields, decodeFop, cut_3_8_at_0_5, cut_3_8_at_5_3, cut_3_8_at_8])
theorem RoundTrip.fmul (d : Reg) (a : Reg) (b : Reg) (r : BitVec 3) : RoundTrip.Statement (.fmul d a b r) := 
  RoundTrip.of_word rfl (by rw [decodeRaw_word]; simp [decodeFields, decodeFop, cut_3_8_at_0_5, cut_3_8_at_5_3, cut_3_8_at_8])
theorem RoundTrip.fdiv (d : Reg) (a : Reg) (b : Reg) (r : BitVec 3) : RoundTrip.Statement (.fdiv d a b r) := 
  RoundTrip.of_word rfl (by rw [decodeRaw_word]; simp [decodeFields, decodeFop, cut_3_8_at_0_5, cut_3_8_at_5_3, cut_3_8_at_8])
theorem RoundTrip.fsqrt (d : Reg) (a : Reg) (r : BitVec 3) : RoundTrip.Statement (.fsqrt d a r) := 
  RoundTrip.of_word rfl (by rw [decodeRaw_word]; simp [decodeFields, decodeFop, cut_3_8_at_0_5, cut_3_8_at_5_3, cut_3_8_at_8])
theorem RoundTrip.fmin (d : Reg) (a : Reg) (b : Reg) : RoundTrip.Statement (.fmin d a b) := 
  RoundTrip.of_word rfl (by rw [decodeRaw_word]; simp [decodeFields, decodeFop])
theorem RoundTrip.fmax (d : Reg) (a : Reg) (b : Reg) : RoundTrip.Statement (.fmax d a b) := 
  RoundTrip.of_word rfl (by rw [decodeRaw_word]; simp [decodeFields, decodeFop])
theorem RoundTrip.feq (d : Reg) (a : Reg) (b : Reg) : RoundTrip.Statement (.feq d a b) := 
  RoundTrip.of_word rfl (by rw [decodeRaw_word]; simp [decodeFields, decodeFop])
theorem RoundTrip.flt (d : Reg) (a : Reg) (b : Reg) : RoundTrip.Statement (.flt d a b) := 
  RoundTrip.of_word rfl (by rw [decodeRaw_word]; simp [decodeFields, decodeFop])
theorem RoundTrip.fle (d : Reg) (a : Reg) (b : Reg) : RoundTrip.Statement (.fle d a b) := 
  RoundTrip.of_word rfl (by rw [decodeRaw_word]; simp [decodeFields, decodeFop])
theorem RoundTrip.fclass (d : Reg) (a : Reg) : RoundTrip.Statement (.fclass d a) := 
  RoundTrip.of_word rfl (by rw [decodeRaw_word]; simp [decodeFields, decodeFop])
theorem RoundTrip.fma (d : Reg) (a : Reg) (b : Reg) (c : Reg) (r : BitVec 3) : RoundTrip.Statement (.fma d a b c r) := 
  RoundTrip.of_word rfl (by rw [decodeRaw_word]; simp [decodeFields, decodeFma, cut_5_3_3_at_0, cut_5_3_3_at_3, cut_5_3_3_at_6])
theorem RoundTrip.fms (d : Reg) (a : Reg) (b : Reg) (c : Reg) (r : BitVec 3) : RoundTrip.Statement (.fms d a b c r) := 
  RoundTrip.of_word rfl (by rw [decodeRaw_word]; simp [decodeFields, decodeFma, cut_5_3_3_at_0, cut_5_3_3_at_3, cut_5_3_3_at_6])
theorem RoundTrip.fnma (d : Reg) (a : Reg) (b : Reg) (c : Reg) (r : BitVec 3) : RoundTrip.Statement (.fnma d a b c r) := 
  RoundTrip.of_word rfl (by rw [decodeRaw_word]; simp [decodeFields, decodeFma, cut_5_3_3_at_0, cut_5_3_3_at_3, cut_5_3_3_at_6])
theorem RoundTrip.fnms (d : Reg) (a : Reg) (b : Reg) (c : Reg) (r : BitVec 3) : RoundTrip.Statement (.fnms d a b c r) := 
  RoundTrip.of_word rfl (by rw [decodeRaw_word]; simp [decodeFields, decodeFma, cut_5_3_3_at_0, cut_5_3_3_at_3, cut_5_3_3_at_6])
theorem RoundTrip.tadd (d : Reg) (a : Reg) (b : Reg) (r : BitVec 3) : RoundTrip.Statement (.tadd d a b r) := 
  RoundTrip.of_word rfl (by rw [decodeRaw_word]; simp [decodeFields, decodeTop, cut_3_8_at_0_5, cut_3_8_at_5_3, cut_3_8_at_8])
theorem RoundTrip.tsub (d : Reg) (a : Reg) (b : Reg) (r : BitVec 3) : RoundTrip.Statement (.tsub d a b r) := 
  RoundTrip.of_word rfl (by rw [decodeRaw_word]; simp [decodeFields, decodeTop, cut_3_8_at_0_5, cut_3_8_at_5_3, cut_3_8_at_8])
theorem RoundTrip.tmul (d : Reg) (a : Reg) (b : Reg) (r : BitVec 3) : RoundTrip.Statement (.tmul d a b r) := 
  RoundTrip.of_word rfl (by rw [decodeRaw_word]; simp [decodeFields, decodeTop, cut_3_8_at_0_5, cut_3_8_at_5_3, cut_3_8_at_8])
theorem RoundTrip.tdiv (d : Reg) (a : Reg) (b : Reg) (r : BitVec 3) : RoundTrip.Statement (.tdiv d a b r) := 
  RoundTrip.of_word rfl (by rw [decodeRaw_word]; simp [decodeFields, decodeTop, cut_3_8_at_0_5, cut_3_8_at_5_3, cut_3_8_at_8])
theorem RoundTrip.tsqrt (d : Reg) (a : Reg) (r : BitVec 3) : RoundTrip.Statement (.tsqrt d a r) := 
  RoundTrip.of_word rfl (by rw [decodeRaw_word]; simp [decodeFields, decodeTop, cut_3_8_at_0_5, cut_3_8_at_5_3, cut_3_8_at_8])
theorem RoundTrip.tcls (d : Reg) (a : Reg) (w : BitVec 2) : RoundTrip.Statement (.tcls d a w) := 
  RoundTrip.of_word rfl (by rw [decodeRaw_word]; simp [decodeFields, decodeTop, cut_4_2_5_at_0, cut_4_2_5_at_5, cut_4_2_5_at_7])
theorem RoundTrip.tfma (d : Reg) (a : Reg) (b : Reg) (c : Reg) (r : BitVec 3) : RoundTrip.Statement (.tfma d a b c r) := 
  RoundTrip.of_word rfl (by rw [decodeRaw_word]; simp [decodeFields, decodeTfma, cut_5_3_3_at_0, cut_5_3_3_at_3, cut_5_3_3_at_6])
theorem RoundTrip.tfms (d : Reg) (a : Reg) (b : Reg) (c : Reg) (r : BitVec 3) : RoundTrip.Statement (.tfms d a b c r) := 
  RoundTrip.of_word rfl (by rw [decodeRaw_word]; simp [decodeFields, decodeTfma, cut_5_3_3_at_0, cut_5_3_3_at_3, cut_5_3_3_at_6])
theorem RoundTrip.tfnma (d : Reg) (a : Reg) (b : Reg) (c : Reg) (r : BitVec 3) : RoundTrip.Statement (.tfnma d a b c r) := 
  RoundTrip.of_word rfl (by rw [decodeRaw_word]; simp [decodeFields, decodeTfma, cut_5_3_3_at_0, cut_5_3_3_at_3, cut_5_3_3_at_6])
theorem RoundTrip.tfnms (d : Reg) (a : Reg) (b : Reg) (c : Reg) (r : BitVec 3) : RoundTrip.Statement (.tfnms d a b c r) := 
  RoundTrip.of_word rfl (by rw [decodeRaw_word]; simp [decodeFields, decodeTfma, cut_5_3_3_at_0, cut_5_3_3_at_3, cut_5_3_3_at_6])
theorem RoundTrip.cvt (d : Reg) (a : Reg) (p : Bit) (q : Bit) (r : BitVec 3) (t : BitVec 4) (s : BitVec 4) : RoundTrip.Statement (.cvt d a p q r t s) := 
  RoundTrip.of_word rfl (by rw [decodeRaw_word]; simp [decodeFields, cut_3_1_1_at_0, cut_3_1_1_at_1, cut_3_1_1_at_2, cut_3_4_4_at_0, cut_3_4_4_at_4, cut_3_4_4_at_8])
theorem RoundTrip.vadd (d : Reg) (a : Reg) (b : Reg) (f : BitVec 4) (p : Bit) (q : Bit) (s : Bit) : RoundTrip.Statement (.vadd d a b f p q s) := 
  RoundTrip.of_word rfl (by rw [decodeRaw_word]; simp [decodeFields, decodeVar, cut_4_4_1_1_1_at_0, cut_4_4_1_1_1_at_1, cut_4_4_1_1_1_at_2, cut_4_4_1_1_1_at_3, cut_4_4_1_1_1_at_7])
theorem RoundTrip.vsub (d : Reg) (a : Reg) (b : Reg) (f : BitVec 4) (p : Bit) (q : Bit) (s : Bit) : RoundTrip.Statement (.vsub d a b f p q s) := 
  RoundTrip.of_word rfl (by rw [decodeRaw_word]; simp [decodeFields, decodeVar, cut_4_4_1_1_1_at_0, cut_4_4_1_1_1_at_1, cut_4_4_1_1_1_at_2, cut_4_4_1_1_1_at_3, cut_4_4_1_1_1_at_7])
theorem RoundTrip.vmul (d : Reg) (a : Reg) (b : Reg) (f : BitVec 4) (p : Bit) (q : Bit) (s : Bit) : RoundTrip.Statement (.vmul d a b f p q s) := 
  RoundTrip.of_word rfl (by rw [decodeRaw_word]; simp [decodeFields, decodeVar, cut_4_4_1_1_1_at_0, cut_4_4_1_1_1_at_1, cut_4_4_1_1_1_at_2, cut_4_4_1_1_1_at_3, cut_4_4_1_1_1_at_7])
theorem RoundTrip.vfma (d : Reg) (a : Reg) (b : Reg) (f : BitVec 4) (p : Bit) (q : Bit) (s : Bit) : RoundTrip.Statement (.vfma d a b f p q s) := 
  RoundTrip.of_word rfl (by rw [decodeRaw_word]; simp [decodeFields, decodeVar, cut_4_4_1_1_1_at_0, cut_4_4_1_1_1_at_1, cut_4_4_1_1_1_at_2, cut_4_4_1_1_1_at_3, cut_4_4_1_1_1_at_7])
theorem RoundTrip.vmin (d : Reg) (a : Reg) (b : Reg) (f : BitVec 4) (p : Bit) (q : Bit) (s : Bit) : RoundTrip.Statement (.vmin d a b f p q s) := 
  RoundTrip.of_word rfl (by rw [decodeRaw_word]; simp [decodeFields, decodeVar, cut_4_4_1_1_1_at_0, cut_4_4_1_1_1_at_1, cut_4_4_1_1_1_at_2, cut_4_4_1_1_1_at_3, cut_4_4_1_1_1_at_7])
theorem RoundTrip.vmax (d : Reg) (a : Reg) (b : Reg) (f : BitVec 4) (p : Bit) (q : Bit) (s : Bit) : RoundTrip.Statement (.vmax d a b f p q s) := 
  RoundTrip.of_word rfl (by rw [decodeRaw_word]; simp [decodeFields, decodeVar, cut_4_4_1_1_1_at_0, cut_4_4_1_1_1_at_1, cut_4_4_1_1_1_at_2, cut_4_4_1_1_1_at_3, cut_4_4_1_1_1_at_7])
theorem RoundTrip.vand (d : Reg) (a : Reg) (b : Reg) (f : BitVec 4) (p : Bit) (q : Bit) (s : Bit) : RoundTrip.Statement (.vand d a b f p q s) := 
  RoundTrip.of_word rfl (by rw [decodeRaw_word]; simp [decodeFields, decodeVar, cut_4_4_1_1_1_at_0, cut_4_4_1_1_1_at_1, cut_4_4_1_1_1_at_2, cut_4_4_1_1_1_at_3, cut_4_4_1_1_1_at_7])
theorem RoundTrip.vor (d : Reg) (a : Reg) (b : Reg) (f : BitVec 4) (p : Bit) (q : Bit) (s : Bit) : RoundTrip.Statement (.vor d a b f p q s) := 
  RoundTrip.of_word rfl (by rw [decodeRaw_word]; simp [decodeFields, decodeVar, cut_4_4_1_1_1_at_0, cut_4_4_1_1_1_at_1, cut_4_4_1_1_1_at_2, cut_4_4_1_1_1_at_3, cut_4_4_1_1_1_at_7])
theorem RoundTrip.vxor (d : Reg) (a : Reg) (b : Reg) (f : BitVec 4) (p : Bit) (q : Bit) (s : Bit) : RoundTrip.Statement (.vxor d a b f p q s) := 
  RoundTrip.of_word rfl (by rw [decodeRaw_word]; simp [decodeFields, decodeVar, cut_4_4_1_1_1_at_0, cut_4_4_1_1_1_at_1, cut_4_4_1_1_1_at_2, cut_4_4_1_1_1_at_3, cut_4_4_1_1_1_at_7])
theorem RoundTrip.vshl (d : Reg) (a : Reg) (b : Reg) (f : BitVec 4) (p : Bit) (q : Bit) (s : Bit) : RoundTrip.Statement (.vshl d a b f p q s) := 
  RoundTrip.of_word rfl (by rw [decodeRaw_word]; simp [decodeFields, decodeVar, cut_4_4_1_1_1_at_0, cut_4_4_1_1_1_at_1, cut_4_4_1_1_1_at_2, cut_4_4_1_1_1_at_3, cut_4_4_1_1_1_at_7])
theorem RoundTrip.vcmpeq (d : Reg) (a : Reg) (b : Reg) (f : BitVec 4) (p : Bit) (q : Bit) (s : Bit) : RoundTrip.Statement (.vcmpeq d a b f p q s) := 
  RoundTrip.of_word rfl (by rw [decodeRaw_word]; simp [decodeFields, decodeVar, cut_4_4_1_1_1_at_0, cut_4_4_1_1_1_at_1, cut_4_4_1_1_1_at_2, cut_4_4_1_1_1_at_3, cut_4_4_1_1_1_at_7])
theorem RoundTrip.vcmplt (d : Reg) (a : Reg) (b : Reg) (f : BitVec 4) (p : Bit) (q : Bit) (s : Bit) : RoundTrip.Statement (.vcmplt d a b f p q s) := 
  RoundTrip.of_word rfl (by rw [decodeRaw_word]; simp [decodeFields, decodeVar, cut_4_4_1_1_1_at_0, cut_4_4_1_1_1_at_1, cut_4_4_1_1_1_at_2, cut_4_4_1_1_1_at_3, cut_4_4_1_1_1_at_7])
theorem RoundTrip.vsel (d : Reg) (a : Reg) (b : Reg) (f : BitVec 4) (p : Bit) (q : Bit) (s : Bit) : RoundTrip.Statement (.vsel d a b f p q s) := 
  RoundTrip.of_word rfl (by rw [decodeRaw_word]; simp [decodeFields, decodeVar, cut_4_4_1_1_1_at_0, cut_4_4_1_1_1_at_1, cut_4_4_1_1_1_at_2, cut_4_4_1_1_1_at_3, cut_4_4_1_1_1_at_7])
theorem RoundTrip.vexp (d : Reg) (a : Reg) (f : BitVec 4) (p : Bit) (q : Bit) : RoundTrip.Statement (.vexp d a f p q) := 
  RoundTrip.of_word rfl (by rw [decodeRaw_word]; simp [decodeFields, decodeVsf, cut_4_4_1_1_1_at_0, cut_4_4_1_1_1_at_1, cut_4_4_1_1_1_at_2, cut_4_4_1_1_1_at_3, cut_4_4_1_1_1_at_7])
theorem RoundTrip.vlog2 (d : Reg) (a : Reg) (f : BitVec 4) (p : Bit) (q : Bit) : RoundTrip.Statement (.vlog2 d a f p q) := 
  RoundTrip.of_word rfl (by rw [decodeRaw_word]; simp [decodeFields, decodeVsf, cut_4_4_1_1_1_at_0, cut_4_4_1_1_1_at_1, cut_4_4_1_1_1_at_2, cut_4_4_1_1_1_at_3, cut_4_4_1_1_1_at_7])
theorem RoundTrip.vrcp (d : Reg) (a : Reg) (f : BitVec 4) (p : Bit) (q : Bit) : RoundTrip.Statement (.vrcp d a f p q) := 
  RoundTrip.of_word rfl (by rw [decodeRaw_word]; simp [decodeFields, decodeVsf, cut_4_4_1_1_1_at_0, cut_4_4_1_1_1_at_1, cut_4_4_1_1_1_at_2, cut_4_4_1_1_1_at_3, cut_4_4_1_1_1_at_7])
theorem RoundTrip.vrsq (d : Reg) (a : Reg) (f : BitVec 4) (p : Bit) (q : Bit) : RoundTrip.Statement (.vrsq d a f p q) := 
  RoundTrip.of_word rfl (by rw [decodeRaw_word]; simp [decodeFields, decodeVsf, cut_4_4_1_1_1_at_0, cut_4_4_1_1_1_at_1, cut_4_4_1_1_1_at_2, cut_4_4_1_1_1_at_3, cut_4_4_1_1_1_at_7])
theorem RoundTrip.vsigm (d : Reg) (a : Reg) (f : BitVec 4) (p : Bit) (q : Bit) : RoundTrip.Statement (.vsigm d a f p q) := 
  RoundTrip.of_word rfl (by rw [decodeRaw_word]; simp [decodeFields, decodeVsf, cut_4_4_1_1_1_at_0, cut_4_4_1_1_1_at_1, cut_4_4_1_1_1_at_2, cut_4_4_1_1_1_at_3, cut_4_4_1_1_1_at_7])
theorem RoundTrip.vtanh (d : Reg) (a : Reg) (f : BitVec 4) (p : Bit) (q : Bit) : RoundTrip.Statement (.vtanh d a f p q) := 
  RoundTrip.of_word rfl (by rw [decodeRaw_word]; simp [decodeFields, decodeVsf, cut_4_4_1_1_1_at_0, cut_4_4_1_1_1_at_1, cut_4_4_1_1_1_at_2, cut_4_4_1_1_1_at_3, cut_4_4_1_1_1_at_7])
theorem RoundTrip.vmov (d : Reg) (a : Reg) (f : BitVec 4) (p : Bit) (q : Bit) : RoundTrip.Statement (.vmov d a f p q) := 
  RoundTrip.of_word rfl (by rw [decodeRaw_word]; simp [decodeFields, decodeVxf, cut_4_4_1_1_1_at_0, cut_4_4_1_1_1_at_1, cut_4_4_1_1_1_at_2, cut_4_4_1_1_1_at_3, cut_4_4_1_1_1_at_7])
theorem RoundTrip.vset (d : Reg) (b : Reg) (f : BitVec 4) (p : Bit) : RoundTrip.Statement (.vset d b f p) := 
  RoundTrip.of_word rfl (by rw [decodeRaw_word]; simp [decodeFields, decodeVxf, cut_4_4_1_2_at_0, cut_4_4_1_2_at_2, cut_4_4_1_2_at_3, cut_4_4_1_2_at_7])
theorem RoundTrip.vcvt (d : Reg) (a : Reg) (c : BitVec 4) (f : BitVec 4) (p : Bit) (q : Bit) : RoundTrip.Statement (.vcvt d a c f p q) := 
  RoundTrip.of_word rfl (by rw [decodeRaw_word]; simp [decodeFields, decodeVxf, cut_1_4_at_0, cut_1_4_at_4, cut_4_4_1_1_1_at_0, cut_4_4_1_1_1_at_1, cut_4_4_1_1_1_at_2, cut_4_4_1_1_1_at_3, cut_4_4_1_1_1_at_7])
theorem RoundTrip.vgath (d : Reg) (a : Reg) (b : Reg) (f : BitVec 4) (p : Bit) (q : Bit) : RoundTrip.Statement (.vgath d a b f p q) := 
  RoundTrip.of_word rfl (by rw [decodeRaw_word]; simp [decodeFields, decodeVxf, cut_4_4_1_1_1_at_0, cut_4_4_1_1_1_at_1, cut_4_4_1_1_1_at_2, cut_4_4_1_1_1_at_3, cut_4_4_1_1_1_at_7])
theorem RoundTrip.vscat (d : Reg) (a : Reg) (b : Reg) (f : BitVec 4) (q : Bit) : RoundTrip.Statement (.vscat d a b f q) := 
  RoundTrip.of_word rfl (by rw [decodeRaw_word]; simp [decodeFields, decodeVxf, cut_4_4_1_1_1_at_0, cut_4_4_1_1_1_at_1, cut_4_4_1_1_1_at_2, cut_4_4_1_1_1_at_3, cut_4_4_1_1_1_at_7])
theorem RoundTrip.viota (d : Reg) (b : Reg) (f : BitVec 4) (p : Bit) : RoundTrip.Statement (.viota d b f p) := 
  RoundTrip.of_word rfl (by rw [decodeRaw_word]; simp [decodeFields, decodeVxf, cut_4_4_1_2_at_0, cut_4_4_1_2_at_2, cut_4_4_1_2_at_3, cut_4_4_1_2_at_7])
theorem RoundTrip.vrsum (d : Reg) (a : Reg) (f : BitVec 4) (q : Bit) : RoundTrip.Statement (.vrsum d a f q) := 
  RoundTrip.of_word rfl (by rw [decodeRaw_word]; simp [decodeFields, decodeVrd, cut_4_4_1_1_1_at_0, cut_4_4_1_1_1_at_1, cut_4_4_1_1_1_at_2, cut_4_4_1_1_1_at_3, cut_4_4_1_1_1_at_7])
theorem RoundTrip.vrmax (d : Reg) (a : Reg) (f : BitVec 4) (q : Bit) : RoundTrip.Statement (.vrmax d a f q) := 
  RoundTrip.of_word rfl (by rw [decodeRaw_word]; simp [decodeFields, decodeVrd, cut_4_4_1_1_1_at_0, cut_4_4_1_1_1_at_1, cut_4_4_1_1_1_at_2, cut_4_4_1_1_1_at_3, cut_4_4_1_1_1_at_7])
theorem RoundTrip.vrmin (d : Reg) (a : Reg) (f : BitVec 4) (q : Bit) : RoundTrip.Statement (.vrmin d a f q) := 
  RoundTrip.of_word rfl (by rw [decodeRaw_word]; simp [decodeFields, decodeVrd, cut_4_4_1_1_1_at_0, cut_4_4_1_1_1_at_1, cut_4_4_1_1_1_at_2, cut_4_4_1_1_1_at_3, cut_4_4_1_1_1_at_7])
theorem RoundTrip.vdot (d : Reg) (a : Reg) (b : Reg) (f : BitVec 4) (q : Bit) : RoundTrip.Statement (.vdot d a b f q) := 
  RoundTrip.of_word rfl (by rw [decodeRaw_word]; simp [decodeFields, decodeVrd, cut_4_4_1_1_1_at_0, cut_4_4_1_1_1_at_1, cut_4_4_1_1_1_at_2, cut_4_4_1_1_1_at_3, cut_4_4_1_1_1_at_7])
theorem RoundTrip.vclaim (d : Reg) (a : Reg) : RoundTrip.Statement (.vclaim d a) := 
  RoundTrip.of_word rfl (by rw [decodeRaw_word]; simp [decodeFields, decodeVct])
theorem RoundTrip.vrel : RoundTrip.Statement .vrel := 
  RoundTrip.of_word rfl (by rw [decodeRaw_word]; simp [decodeFields, decodeVct])
theorem RoundTrip.vscan (d : Reg) (a : Reg) (b : Reg) (f : BitVec 4) (q : Bit) : RoundTrip.Statement (.vscan d a b f q) := 
  RoundTrip.of_word rfl (by rw [decodeRaw_word]; simp [decodeFields, decodeVct, cut_4_4_1_1_1_at_0, cut_4_4_1_1_1_at_1, cut_4_4_1_1_1_at_2, cut_4_4_1_1_1_at_3, cut_4_4_1_1_1_at_7])
theorem RoundTrip.qpush (a : Reg) (q : BitVec 4) : RoundTrip.Statement (.qpush a q) := 
  RoundTrip.of_word rfl (by rw [decodeRaw_word]; simp [decodeFields, decodeQpush, cut_4_1_at_0, cut_4_1_at_1])
theorem RoundTrip.qpushN (d : Reg) (a : Reg) (q : BitVec 4) : RoundTrip.Statement (.qpushN d a q) := 
  RoundTrip.of_word rfl (by rw [decodeRaw_word]; simp [decodeFields, decodeQpush, cut_4_1_at_0, cut_4_1_at_1])
theorem RoundTrip.qpop (d : Reg) (q : BitVec 4) : RoundTrip.Statement (.qpop d q) := 
  RoundTrip.of_word rfl (by rw [decodeRaw_word]; simp [decodeFields, decodeQpop, cut_4_1_at_0, cut_4_1_at_1])
theorem RoundTrip.qpopN (d : Reg) (q : BitVec 4) : RoundTrip.Statement (.qpopN d q) := 
  RoundTrip.of_word rfl (by rw [decodeRaw_word]; simp [decodeFields, decodeQpop, cut_4_1_at_0, cut_4_1_at_1])
theorem RoundTrip.take (d : Reg) (a : Reg) : RoundTrip.Statement (.take d a) := 
  RoundTrip.of_word rfl (by rw [decodeRaw_word]; simp [decodeFields, decodeTask])
theorem RoundTrip.spawn (a : Reg) : RoundTrip.Statement (.spawn a) := 
  RoundTrip.of_word rfl (by rw [decodeRaw_word]; simp [decodeFields, decodeTask])
theorem RoundTrip.spawnt (a : Reg) : RoundTrip.Statement (.spawnt a) := 
  RoundTrip.of_word rfl (by rw [decodeRaw_word]; simp [decodeFields, decodeTask])
theorem RoundTrip.yield (a : Reg) : RoundTrip.Statement (.yield a) := 
  RoundTrip.of_word rfl (by rw [decodeRaw_word]; simp [decodeFields, decodeTask])
theorem RoundTrip.done : RoundTrip.Statement .done := 
  RoundTrip.of_word rfl (by rw [decodeRaw_word]; simp [decodeFields, decodeTask])
theorem RoundTrip.swp (a : Reg) : RoundTrip.Statement (.swp a) := 
  RoundTrip.of_word rfl (by rw [decodeRaw_word]; simp [decodeFields, decodeTask])
theorem RoundTrip.widf (d : Reg) (a : Reg) (k : BitVec 3) : RoundTrip.Statement (.widf d a k) := 
  RoundTrip.of_word rfl (by rw [decodeRaw_word]; simp [decodeFields, decodeTask, cut_3_3_5_at_0, cut_3_3_5_at_5, cut_3_3_5_at_8])
theorem RoundTrip.bar : RoundTrip.Statement .bar := 
  RoundTrip.of_word rfl (by rw [decodeRaw_word]; simp [decodeFields, decodeSync])
theorem RoundTrip.bars : RoundTrip.Statement .bars := 
  RoundTrip.of_word rfl (by rw [decodeRaw_word]; simp [decodeFields, decodeSync])
theorem RoundTrip.waitp : RoundTrip.Statement .waitp := 
  RoundTrip.of_word rfl (by rw [decodeRaw_word]; simp [decodeFields, decodeSync])
theorem RoundTrip.ttload (a : Reg) : RoundTrip.Statement (.ttload a) := 
  RoundTrip.of_word rfl (by rw [decodeRaw_word]; simp [decodeFields, decodeSync])
theorem RoundTrip.armPush (a : Reg) (b : Reg) (c : BitVec 4) : RoundTrip.Statement (.armPush a b c) := 
  RoundTrip.of_word rfl (by rw [decodeRaw_word]; simp [decodeFields, decodeSync, cut_4_7_at_0, cut_4_7_at_7])
theorem RoundTrip.armEvent (a : Reg) (c : BitVec 4) : RoundTrip.Statement (.armEvent a c) := 
  RoundTrip.of_word rfl (by rw [decodeRaw_word]; simp [decodeFields, decodeSync, cut_4_7_at_0, cut_4_7_at_7])
theorem RoundTrip.armWake (a : Reg) (c : BitVec 4) : RoundTrip.Statement (.armWake a c) := 
  RoundTrip.of_word rfl (by rw [decodeRaw_word]; simp [decodeFields, decodeSync, cut_4_7_at_0, cut_4_7_at_7])
theorem RoundTrip.ctradd (a : Reg) (c : BitVec 4) : RoundTrip.Statement (.ctradd a c) := 
  RoundTrip.of_word rfl (by rw [decodeRaw_word]; simp [decodeFields, decodeSync, cut_4_7_at_0, cut_4_7_at_7])
theorem RoundTrip.ctrrd (d : Reg) (c : BitVec 4) : RoundTrip.Statement (.ctrrd d c) := 
  RoundTrip.of_word rfl (by rw [decodeRaw_word]; simp [decodeFields, decodeSync, cut_4_7_at_0, cut_4_7_at_7])
theorem RoundTrip.waitc (d : Reg) (a : Reg) (c : BitVec 4) : RoundTrip.Statement (.waitc d a c) := 
  RoundTrip.of_word rfl (by rw [decodeRaw_word]; simp [decodeFields, decodeSync, cut_4_7_at_0, cut_4_7_at_7])
theorem RoundTrip.msend (d : Reg) (a : Reg) (b : Reg) : RoundTrip.Statement (.msend d a b) := 
  RoundTrip.of_word rfl (by rw [decodeRaw_word]; simp [decodeFields, decodeMsg])
theorem RoundTrip.msendw (d : Reg) (a : Reg) (b : Reg) : RoundTrip.Statement (.msendw d a b) := 
  RoundTrip.of_word rfl (by rw [decodeRaw_word]; simp [decodeFields, decodeMsg])
theorem RoundTrip.mrecv (d : Reg) (a : Reg) : RoundTrip.Statement (.mrecv d a) := 
  RoundTrip.of_word rfl (by rw [decodeRaw_word]; simp [decodeFields, decodeMsg])
theorem RoundTrip.mrecvN (d : Reg) (a : Reg) : RoundTrip.Statement (.mrecvN d a) := 
  RoundTrip.of_word rfl (by rw [decodeRaw_word]; simp [decodeFields, decodeMsg])
theorem RoundTrip.nmc (d : Reg) (a : Reg) : RoundTrip.Statement (.nmc d a) := 
  RoundTrip.of_word rfl (by rw [decodeRaw_word]; simp [decodeFields, decodeNmc])
theorem RoundTrip.nmres (d : Reg) (a : Reg) : RoundTrip.Statement (.nmres d a) := 
  RoundTrip.of_word rfl (by rw [decodeRaw_word]; simp [decodeFields, decodeNmc])
theorem RoundTrip.nmresAbandon (d : Reg) (a : Reg) : RoundTrip.Statement (.nmresAbandon d a) := 
  RoundTrip.of_word rfl (by rw [decodeRaw_word]; simp [decodeFields, decodeNmc])
theorem RoundTrip.nmstat (d : Reg) (a : Reg) : RoundTrip.Statement (.nmstat d a) := 
  RoundTrip.of_word rfl (by rw [decodeRaw_word]; simp [decodeFields, decodeNmc])
theorem RoundTrip.stat (a : Reg) (b : Reg) (w : BitVec 4) : RoundTrip.Statement (.stat a b w) := 
  RoundTrip.of_word rfl (by rw [decodeRaw_word]; simp [decodeFields, decodeCim, cut_2_4_5_at_0, cut_2_4_5_at_5, cut_2_4_5_at_9])
theorem RoundTrip.unstat (a : Reg) (b : Reg) : RoundTrip.Statement (.unstat a b) := 
  RoundTrip.of_word rfl (by rw [decodeRaw_word]; simp [decodeFields, decodeCim])
theorem RoundTrip.ctbl (a : Reg) : RoundTrip.Statement (.ctbl a) := 
  RoundTrip.of_word rfl (by rw [decodeRaw_word]; simp [decodeFields, decodeCim])
theorem RoundTrip.ctblBankWrite (k : Nat) : RoundTrip.Statement (.ctblBankWrite k) := RoundTrip.of_none rfl
theorem RoundTrip.mxRun (p : Nat) (rows : Nat) : RoundTrip.Statement (.mxRun p rows) := RoundTrip.of_none rfl
theorem RoundTrip.mxSave (p : Nat) : RoundTrip.Statement (.mxSave p) := RoundTrip.of_none rfl
theorem RoundTrip.mxRestore (p : Nat) : RoundTrip.Statement (.mxRestore p) := RoundTrip.of_none rfl
theorem RoundTrip.mxAcc (p : Nat) : RoundTrip.Statement (.mxAcc p) := RoundTrip.of_none rfl
theorem RoundTrip.mxCtswap (p : Nat) : RoundTrip.Statement (.mxCtswap p) := RoundTrip.of_none rfl
theorem RoundTrip.twGet (p : Nat) : RoundTrip.Statement (.twGet p) := RoundTrip.of_none rfl
theorem RoundTrip.twPut (p : Nat) : RoundTrip.Statement (.twPut p) := RoundTrip.of_none rfl
theorem RoundTrip.twMcast (p : Nat) : RoundTrip.Statement (.twMcast p) := RoundTrip.of_none rfl
theorem RoundTrip.ceCopy (p : Nat) : RoundTrip.Statement (.ceCopy p) := RoundTrip.of_none rfl
theorem RoundTrip.ceFill (p : Nat) : RoundTrip.Statement (.ceFill p) := RoundTrip.of_none rfl
theorem RoundTrip.ceMigrate (p : Nat) : RoundTrip.Statement (.ceMigrate p) := RoundTrip.of_none rfl
theorem RoundTrip.gkGather (p : Nat) : RoundTrip.Statement (.gkGather p) := RoundTrip.of_none rfl
theorem RoundTrip.gkBag (p : Nat) : RoundTrip.Statement (.gkBag p) := RoundTrip.of_none rfl
theorem RoundTrip.gkScatadd (p : Nat) : RoundTrip.Statement (.gkScatadd p) := RoundTrip.of_none rfl
theorem RoundTrip.gkKdir (p : Nat) : RoundTrip.Statement (.gkKdir p) := RoundTrip.of_none rfl
theorem RoundTrip.gkKgrp (p : Nat) : RoundTrip.Statement (.gkKgrp p) := RoundTrip.of_none rfl
theorem RoundTrip.gkKprod (p : Nat) : RoundTrip.Statement (.gkKprod p) := RoundTrip.of_none rfl
theorem RoundTrip.gkKunion (p : Nat) : RoundTrip.Statement (.gkKunion p) := RoundTrip.of_none rfl
theorem RoundTrip.gkKexp (p : Nat) : RoundTrip.Statement (.gkKexp p) := RoundTrip.of_none rfl
theorem RoundTrip.gkKbcast (p : Nat) : RoundTrip.Statement (.gkKbcast p) := RoundTrip.of_none rfl
theorem RoundTrip.gkJtchk (p : Nat) : RoundTrip.Statement (.gkJtchk p) := RoundTrip.of_none rfl
theorem RoundTrip.clFoldarm (p : Nat) : RoundTrip.Statement (.clFoldarm p) := RoundTrip.of_none rfl
theorem RoundTrip.clFoldwait (p : Nat) : RoundTrip.Statement (.clFoldwait p) := RoundTrip.of_none rfl
theorem RoundTrip.nmcRequestCheck (n : Nat) : RoundTrip.Statement (.nmcRequestCheck n) := RoundTrip.of_none rfl
theorem RoundTrip.nmConfigure (c : Nat) : RoundTrip.Statement (.nmConfigure c) := RoundTrip.of_none rfl
theorem RoundTrip.nmElementwise (c : Nat) : RoundTrip.Statement (.nmElementwise c) := RoundTrip.of_none rfl
theorem RoundTrip.nmAggregate (c : Nat) : RoundTrip.Statement (.nmAggregate c) := RoundTrip.of_none rfl
theorem RoundTrip.nmQuery (c : Nat) : RoundTrip.Statement (.nmQuery c) := RoundTrip.of_none rfl
theorem RoundTrip.nmResume (c : Nat) : RoundTrip.Statement (.nmResume c) := RoundTrip.of_none rfl
theorem RoundTrip.nmAbandon (c : Nat) : RoundTrip.Statement (.nmAbandon c) := RoundTrip.of_none rfl
theorem RoundTrip.foldArrive (n : Nat) : RoundTrip.Statement (.foldArrive n) := RoundTrip.of_none rfl
theorem RoundTrip.rootGrant (p : Nat) : RoundTrip.Statement (.rootGrant p) := RoundTrip.of_none rfl
theorem RoundTrip.loadDataArrives (p : Nat) : RoundTrip.Statement (.loadDataArrives p) := RoundTrip.of_none rfl
theorem RoundTrip.replyLands (n : Nat) : RoundTrip.Statement (.replyLands n) := RoundTrip.of_none rfl
theorem RoundTrip.earlyCheckFault (p : Nat) : RoundTrip.Statement (.earlyCheckFault p) := RoundTrip.of_none rfl
theorem RoundTrip.remoteFaultReply (p : Nat) (reason : BitVec 8) : RoundTrip.Statement (.remoteFaultReply p reason) := RoundTrip.of_none rfl
theorem RoundTrip.replayPass : RoundTrip.Statement .replayPass := RoundTrip.of_none rfl
theorem RoundTrip.pageRequestAnswer (n : Nat) (a : PriAnswer) : RoundTrip.Statement (.pageRequestAnswer n a) := RoundTrip.of_none rfl
theorem RoundTrip.atsInvalidation (tag : BitVec 16) (va : Word) (bytes : Nat) : RoundTrip.Statement (.atsInvalidation tag va bytes) := RoundTrip.of_none rfl
theorem RoundTrip.atsack (tag : BitVec 16) : RoundTrip.Statement (.atsack tag) := RoundTrip.of_none rfl
theorem RoundTrip.hostMemRead (off : BitVec 48) : RoundTrip.Statement (.hostMemRead off) := RoundTrip.of_none rfl
theorem RoundTrip.hostMemWrite (off : BitVec 48) (mask : BitVec 64) (data : Line) : RoundTrip.Statement (.hostMemWrite off mask data) := RoundTrip.of_none rfl
theorem RoundTrip.remoteAccessArrives (port : Nat) (src : BitVec 9) (va : Word) (op : RemoteOp) : RoundTrip.Statement (.remoteAccessArrives port src va op) := RoundTrip.of_none rfl
theorem RoundTrip.replUpdateApply (die : Nat) : RoundTrip.Statement (.replUpdateApply die) := RoundTrip.of_none rfl
theorem RoundTrip.messageDeliver (n : Nat) : RoundTrip.Statement (.messageDeliver n) := RoundTrip.of_none rfl
theorem RoundTrip.msendwTimeout (p : Nat) : RoundTrip.Statement (.msendwTimeout p) := RoundTrip.of_none rfl
theorem RoundTrip.triggerPush (p : Nat) : RoundTrip.Statement (.triggerPush p) := RoundTrip.of_none rfl
theorem RoundTrip.blockTransfer (n : Nat) : RoundTrip.Statement (.blockTransfer n) := RoundTrip.of_none rfl
theorem RoundTrip.pull (n : Nat) : RoundTrip.Statement (.pull n) := RoundTrip.of_none rfl
theorem RoundTrip.teamAdmission : RoundTrip.Statement .teamAdmission := RoundTrip.of_none rfl
theorem RoundTrip.teamPlace : RoundTrip.Statement .teamPlace := RoundTrip.of_none rfl
theorem RoundTrip.quantumEnd (slot : Nat) : RoundTrip.Statement (.quantumEnd slot) := RoundTrip.of_none rfl
theorem RoundTrip.markedSiteTimeout (p : Nat) : RoundTrip.Statement (.markedSiteTimeout p) := RoundTrip.of_none rfl
theorem RoundTrip.teamSwapOut (slot : Nat) : RoundTrip.Statement (.teamSwapOut slot) := RoundTrip.of_none rfl
theorem RoundTrip.teamSwapIn (slot : Nat) : RoundTrip.Statement (.teamSwapIn slot) := RoundTrip.of_none rfl
theorem RoundTrip.barrierRelease (slot : Nat) : RoundTrip.Statement (.barrierRelease slot) := RoundTrip.of_none rfl
theorem RoundTrip.timetableFlit (p : Nat) (e : Nat) (i : Nat) : RoundTrip.Statement (.timetableFlit p e i) := RoundTrip.of_none rfl
theorem RoundTrip.phaseEnd (slot : Nat) : RoundTrip.Statement (.phaseEnd slot) := RoundTrip.of_none rfl
theorem RoundTrip.interruptEntry (p : Nat) : RoundTrip.Statement (.interruptEntry p) := RoundTrip.of_none rfl
theorem RoundTrip.budgetExhausted (p : Nat) : RoundTrip.Statement (.budgetExhausted p) := RoundTrip.of_none rfl
theorem RoundTrip.timer (p : Nat) : RoundTrip.Statement (.timer p) := RoundTrip.of_none rfl
theorem RoundTrip.start : RoundTrip.Statement .start := RoundTrip.of_none rfl
theorem RoundTrip.task : RoundTrip.Statement .task := RoundTrip.of_none rfl
theorem RoundTrip.team : RoundTrip.Statement .team := RoundTrip.of_none rfl
theorem RoundTrip.stop : RoundTrip.Statement .stop := RoundTrip.of_none rfl
theorem RoundTrip.endCtx : RoundTrip.Statement .endCtx := RoundTrip.of_none rfl
theorem RoundTrip.quiescent : RoundTrip.Statement .quiescent := RoundTrip.of_none rfl
theorem RoundTrip.doorbell (v : BitVec 16) : RoundTrip.Statement (.doorbell v) := RoundTrip.of_none rfl
theorem RoundTrip.mgmtRegisterWrite (off : BitVec 16) (v : Word) : RoundTrip.Statement (.mgmtRegisterWrite off v) := RoundTrip.of_none rfl
theorem RoundTrip.zfpLaunch (team : Bool) (rec : Line) : RoundTrip.Statement (.zfpLaunch team rec) := RoundTrip.of_none rfl
theorem RoundTrip.residencyReport : RoundTrip.Statement .residencyReport := RoundTrip.of_none rfl
theorem RoundTrip.linkUp (port : Nat) (version : BitVec 16) (features : Word) : RoundTrip.Statement (.linkUp port version features) := RoundTrip.of_none rfl
theorem RoundTrip.portDown (port : Nat) : RoundTrip.Statement (.portDown port) := RoundTrip.of_none rfl
theorem RoundTrip.powerGood (firmware : BitVec 256) (verified : Bool) (trained : Bool) :
    RoundTrip.Statement (.powerGood firmware verified trained) := RoundTrip.of_none rfl
theorem RoundTrip.spdmRequest (index : Nat) : RoundTrip.Statement (.spdmRequest index) := RoundTrip.of_none rfl
theorem RoundTrip.scrubStep (p : Nat) : RoundTrip.Statement (.scrubStep p) := RoundTrip.of_none rfl
theorem RoundTrip.eolUpdate (src : BitVec 8) (months : BitVec 16) : RoundTrip.Statement (.eolUpdate src months) := RoundTrip.of_none rfl
theorem RoundTrip.thermalTrip : RoundTrip.Statement .thermalTrip := RoundTrip.of_none rfl
theorem RoundTrip.illegalInstruction (w : BitVec 32) : RoundTrip.Statement (.illegalInstruction w) := RoundTrip.of_none rfl
theorem RoundTrip.executeBoundaryFetch : RoundTrip.Statement .executeBoundaryFetch := RoundTrip.of_none rfl
theorem RoundTrip.remoteWriteAcknowledgement (n : Nat) : RoundTrip.Statement (.remoteWriteAcknowledgement n) := RoundTrip.of_none rfl
theorem RoundTrip.cxlCompletion (n : Nat) : RoundTrip.Statement (.cxlCompletion n) := RoundTrip.of_none rfl

end Sys2Proof.Laws
end

