-- ==== Sys2Proof/Tests/Slice0.lean ====
section
/-! SUPPORT. Tests: words and results that the spec works out, ill-formed instructions, and for every statement with hypotheses a state that
meets them. -/

set_option maxRecDepth 8000

namespace Sys2Proof.Tests
open Sys2Proof Sys2Proof.Machine

/-! ## Small states -/

/-- Core 0 running in system mode with some registers. -/
def core0 (rs : List (Nat × Word)) : Core :=
  rs.foldl (fun c r => c.setReg (BitVec.ofNat 5 r.1) r.2) { Core.reset 0 with run := .running }

/-- The package at reset but for its active core. -/
def at0 (c : Core) : State := { State.reset with core := c }

/-- Core 0 in system mode. -/
def sys (rs : List (Nat × Word)) : State := at0 (core0 rs)

/-- Core 0 in user mode, XB at 0x8000, one region of the local protection unit over the whole scratchpad, TWP 0x8200, WP 0x8400. -/
def userCore (rs : List (Nat × Word)) : Core :=
  let c := core0 rs
  { c with ctl := { c.ctl with
      mode := .user, twa := 0x41, wpa := 0x42
      lpb := Vector.replicate 8 (LpuBase.of 7), lpl := Vector.replicate 8 0x17FF } }

def user (rs : List (Nat × Word)) : State := at0 (userCore rs)

/-- A leaf of package memory at a page's physical address: readable, writable, accessed, dirty. -/
def leaf (pa : Nat) : Word := BitVec.ofNat 64 (pa + 0x3F)

/-- What holds of the next state. -/
def next (r : Res) (p : State → Bool) : Bool := match r with
  | .next t => p t
  | _ => false

/-- VA 0x1_0000_0000, the first global address of node 0. -/
def va0 : Word := 0x100000000

/-- A line that the home of an address holds, with its data, under a leaf of physical page 0. -/
def heldLine (va : Word) (d : Line) : L2Line := ⟨homeOf (lineOf va.toNat), lineOf va.toNat, d, false, 0, leaf 0, false, [], false⟩

/-- The home of va0 holds its line. -/
def held (s : State) (d : Line) : State := { s with l2 := [heldLine va0 d] }

/-! ## Ill-formed instructions: one for each check -/

theorem test_bad_index : (Instr.crd 1 0x050).defect = some .badIndex ∧ (Instr.cwr 1 0x000).defect = some .badIndex := by decide
theorem test_bad_lanes : (Instr.padd 1 2 3 0 0 3).defect = some .badModifier ∧ (Instr.pavg 1 2 3 0 3).defect = some .badModifier := by decide
theorem test_bad_lda : (Instr.lda 1 2 1 0 3).defect = some .badModifier := by decide
theorem test_bad_amo : (Instr.amoAdd 1 2 3 1 0).defect = some .badModifier ∧ (Instr.amoFadd 1 2 3 0 1).defect = some .badModifier := by decide
theorem test_bad_rounding : (Instr.fadd 1 2 3 5).defect = some .reservedRounding ∧ (Instr.tsqrt 1 2 6).defect = some .reservedRounding ∧
    (Instr.fma 1 2 3 4 5).defect = some .reservedRounding ∧ (Instr.tfnms 1 2 3 4 6).defect = some .reservedRounding := by decide
theorem test_bad_tcls : (Instr.tcls 1 2 3).defect = some .badModifier := by decide
theorem test_bad_cvt : (Instr.cvt 1 2 0 0 5 0 0).defect = some .reservedRounding ∧ (Instr.cvt 1 2 0 0 0 11 0).defect = some .badFormat ∧
    (Instr.cvt 1 2 1 0 0 0 7).defect = some .badModifier := by decide
theorem test_bad_format : (Instr.vadd 1 2 3 6 0 0 0).defect = some .badFormat ∧ (Instr.vmul 1 2 3 11 0 0 0).defect = some .badFormat ∧
    (Instr.vshl 1 2 3 0 0 0 0).defect = some .badFormat ∧ (Instr.vexp 1 2 0 0 0).defect = some .badFormat ∧ (Instr.vcvt 1 2 11 0 0 0).defect = some .badFormat := by decide
theorem test_bad_queue : (Instr.qpush 1 5).defect = some .badQueue ∧ (Instr.qpop 1 14).defect = some .badQueue := by decide
theorem test_bad_widf : (Instr.widf 1 2 7).defect = some .badModifier := by decide
theorem test_bad_stat : (Instr.stat 1 2 3).defect = some .badModifier := by decide
theorem test_wf_ok : (Instr.qpop 1 15).wf = true ∧ (Instr.stat 1 2 6).wf = true ∧ (Instr.cvt 1 2 1 0 1 9 0).wf = true := by decide

/-! ## Words of each family (the spec's worked words, and fields put together from its layouts) -/

/-- A word decodes to an instruction, and is its encoding. -/
def spells (w : BitVec 32) (i : Instr) : Bool := (match decode w with
  | .ok j => j == i
  | .error _ => false) && encode i == some w

theorem test_word_system : spells 0x00090004 (.upret 9) ∧ spells 0x00000001 .nop ∧ spells 0x00000005 .wfe ∧ spells 0x04E00040 (.crd 7 0x040) ∧
    spells 0x08050004 (.cwr 5 0x004) := by decide
theorem test_word_alu : spells 0x0C642800 (.add 3 4 5) ∧ spells 0x0D260000 (.add 9 6 0) := by decide
theorem test_word_muldiv : spells (0x04#6 ++ 3#5 ++ 4#5 ++ 0#5 ++ 3#11) (.div 3 4 0) := by decide
theorem test_word_immediate : spells 0x30800008 (.li 4 8) ∧ spells 0x34840007 (.lis 4 4 7) ∧ spells 0x3A800002 (.adpc 20 2) := by decide
theorem test_word_shift : spells (0x0B#6 ++ 3#5 ++ 4#5 ++ 0#8 ++ 2#2 ++ 63#6) (.srai 3 4 63) := by decide
theorem test_word_gaddr : spells 0x3CC42800 (.gaddr 6 4 5) := by decide
theorem test_word_psimd : spells (0x10#6 ++ 3#5 ++ 4#5 ++ 5#5 ++ 0x068#11) (.padd 3 4 5 1 1 1) := by decide
theorem test_word_branch : spells 0x4803FFFC (.bne 0 3 0xFFFC) ∧ spells 0x440D000A (.beq 0 13 10) ∧ spells 0x60000040 (.jal 0x40) ∧
    spells 0x64010002 (.jalr 0 1 2) ∧ spells 0x5C00008C (.j 0x8C) := by decide
theorem test_word_memory : spells 0x74A70000 (.ldd 5 7 0) ∧ spells 0x90850008 (.std 4 5 8) := by decide
theorem test_word_acquire : spells 0x94A70003 (.lda 5 7 0 0 3) ∧ spells 0x94A70007 (.lda 5 7 0 1 3) ∧ spells 0x98062803 (.str 6 5 0 3) ∧ spells 0x98155007 (.str 21 10 1 3) := by decide
theorem test_word_atomic : spells 0x9C642810 (.amoAdd 3 4 5 0 1) ∧ spells 0x9C04282A (.amoFmax 0 4 5 1 0) ∧ spells 0xA0642801 (.cas 3 4 5 1) := by decide
theorem test_word_maintenance : spells 0xA4000001 .fenceS ∧ spells 0xA4042802 (.clean 4 5) ∧ spells 0xA4042805 (.pref 4 5) := by decide
theorem test_word_float : spells 0xA8642800 (.fadd 3 4 5 0) ∧ spells 0xA8642F02 (.fmul 3 4 5 7) ∧ spells 0xAC642980 (.fma 3 4 5 6 0) := by decide
theorem test_word_taper : spells 0xB0642800 (.tadd 3 4 5 0) ∧ spells 0xB1070045 (.tcls 8 7 2) ∧ spells 0xB4642980 (.tfma 3 4 5 6 0) := by decide
theorem test_word_convert : spells 0xB8640040 (.cvt 3 4 0 0 0 4 0) ∧ spells 0xB8641190 (.cvt 3 4 1 0 1 9 0) := by decide
theorem test_word_vector : spells 0xBC642806 (.vadd 3 4 5 0 1 1 0) ∧ spells (0x30#6 ++ 3#5 ++ 4#5 ++ 0#5 ++ 5#4 ++ 4#4 ++ 0#3) (.vtanh 3 4 4 0 0) ∧
    spells (0x31#6 ++ 3#5 ++ 4#5 ++ 9#5 ++ 2#4 ++ 0#4 ++ 0#3) (.vcvt 3 4 9 0 0 0) ∧ spells (0x32#6 ++ 3#5 ++ 4#5 ++ 5#5 ++ 3#4 ++ 7#4 ++ 2#3) (.vdot 3 4 5 7 1) ∧
    spells (0x33#6 ++ 6#5 ++ 7#5 ++ 0#16) (.vclaim 6 7) := by decide
theorem test_word_queue : spells 0xD00A0000 (.qpush 10 0) ∧ spells 0xD5600000 (.qpop 11 0) ∧ spells 0xD580F000 (.qpop 12 15) ∧
    spells (0x34#6 ++ 9#5 ++ 10#5 ++ 4#4 ++ 1#12) (.qpushN 9 10 4) := by decide
theorem test_word_task : spells 0xD8850000 (.take 4 5) ∧ spells 0xD8050003 (.yield 5) ∧ spells 0xD8C40046 (.widf 6 4 2) := by decide
theorem test_word_sync : spells 0xDC000001 .bars ∧ spells 0xDC042984 (.armPush 4 5 3) ∧ spells 0xDC0401A4 (.armEvent 4 3) ∧ spells 0xDCC40187 (.waitc 6 4 3) := by decide
theorem test_word_message : spells 0xE0C42800 (.msend 6 4 5) ∧ spells 0xE0C40022 (.mrecvN 6 4) := by decide
theorem test_word_near_memory : spells 0xE4C70000 (.nmc 6 7) ∧ spells 0xE4C40021 (.nmresAbandon 6 4) := by decide
theorem test_word_macros : spells (0x3A#6 ++ 0#5 ++ 4#5 ++ 5#5 ++ 0#2 ++ 6#4 ++ 0#5) (.stat 4 5 6) ∧ spells (0x3A#6 ++ 0#5 ++ 4#5 ++ 0#5 ++ 2#11) (.ctbl 4) := by decide
theorem test_word_refused : decodeTableWord 32 0 = none ∧ decodeTableWord 32 0x00090804 = none ∧ decodeTableWord 32 0x0C642813 = none ∧
    decodeTableWord 32 0xBC64285E = none ∧ decodeTableWord 32 0xEC000000 = none ∧ decodeTableWord 32 0x04E00050 = none ∧ decodeTableWord 32 0x08050000 = none := by decide

/-! ## States and operands that meet the hypotheses of each statement -/

theorem ex_of_next {r : Res} {p : State → Bool} (h : next r p = true) : ∃ t, r = .next t ∧ p t = true := by
  cases r with
  | next t => exact ⟨t, rfl, h⟩
  | _ => exact absurd h (by simp [next])

/-- Registers may be used: decided on a small state. -/
theorem witness_AluOperations : (sys [(4, 9), (5, 3)]).issues [4, 5] [3] ∧ (sys [(4, 0)]).issues [4] [0] := by
  unfold State.issues State.starts State.regsFree; decide


theorem witness_AluImmediateForms : (sys [(4, 9)]).issues [4] [3] := by unfold State.issues State.starts State.regsFree; decide

theorem witness_ControlTransfer : (sys [(4, 9), (5, 9)]).issues [4, 5] [] ∧ (sys []).issues [] [] ∧ (sys []).issues [] [1] ∧ (sys [(4, 0x8000)]).issues [4] [0] ∧
    ((sys [(4, 0x8000)]).core.reg 4 + (0xFFFC : BitVec 16).signExtend 64).toNat % 4 = 0 ∧
    ((sys [(4, 0x8002)]).core.reg 4 + (0xFFFC : BitVec 16).signExtend 64).toNat % 4 ≠ 0 := by unfold State.issues State.starts State.regsFree; decide

theorem witness_PackedLanes : (2 : BitVec 2) ≠ 3 ∧ (sys [(4, 9), (5, 3)]).issues [4, 5] [3] := by unfold State.issues State.starts State.regsFree; decide

/-- Doublewords in the scratchpad from an address. -/
def dws (c : Core) (a : Nat) (ws : List Nat) : Core := c.pokeLE a (8 * ws.length) (ws.foldr (fun w v => w + 2 ^ 64 * v) 0)

/-- The table of the worked GADDR example (R277): a 10 × 12 array in blocks of 2 × 3, with N0 as given. -/
def gaddrAt (n0 : Nat) (c0 c1 : Nat) : State :=
  at0 (dws (core0 [(4, BitVec.ofNat 64 (c0 + 65536 * c1)), (5, 0x10000)]) 0x10000
    [0x20000, 0x200000004, n0 + 0x200000000, 0x200000002, 0x30000000C, 0x100000002])

theorem test_gaddr : next (exec (.gaddr 6 4 5) (gaddrAt 10 7 8)) (fun t => t.core.reg 6 == 0x000200000002005C) = true ∧
    next (exec (.gaddr 6 4 5) (gaddrAt 10 10 8)) (fun t => t.core.reg 6 == BitVec.allOnes 64) = true := by decide

theorem witness_GaddrResult : let s := gaddrAt 10 7 8
    s.issues [4, 5] [6] ∧ (s.core.reg 5).toNat % 16 = 0 ∧ s.core.rangeCheck false 0x10000 80 = none ∧ s.rangeBusy 0x10000 80 = false ∧
      s.core.ttStall false 0x10000 80 = false ∧ s.core.badWord 0x10000 80 = none ∧ s.core.localRead 0x10000 8 < 2 ^ 48 ∧ s.core.localRead 0x10008 4 = 4 ∧
      s.core.localRead 0x1000C 4 = 2 ∧ (gaddrAt 0 7 8).core.localRead 0x10010 4 = 0 ∧ (gaddrAt 0 7 8).issues [4, 5] [6] ∧
      (sys [(5, 0x10008)]).issues [4, 5] [6] := by
  unfold State.issues State.starts State.regsFree; decide

theorem witness_LocalAccesses : (sys [(4, 0x5FFF8)]).issues [4] [3] ∧ (sys [(4, 0x5FFF8)]).core.mayAccess false 0x5FFF8 ∧
    (sys [(4, 0x5FFF8)]).rangeBusy 0x5FFF8 8 = false ∧ (sys [(4, 0x5FFF8)]).core.ttStall false 0x5FFF8 8 = false ∧ (sys [(4, 0x5FFF8)]).core.badWord 0x5FFF8 8 = none ∧
    (user [(4, 0x8500)]).issues [4, 5] [] ∧ (user [(4, 0x8500)]).core.mayAccess true 0x8500 ∧ (user [(4, 0x8500)]).core.wp + 256 ≤ 0x8500 ∧
    (user [(4, 0x8407)]).core.mayAccess true 0x8407 ∧ (user [(4, 0x8407)]).core.wp ≤ 0x8407 ∧ 0x8407 < (user [(4, 0x8407)]).core.wp + 8 := by
  refine ⟨?_, ⟨by decide, fun h => absurd h (by decide), fun h => absurd h (by decide)⟩, by decide, by decide, by decide, ?_,
    ⟨by decide, fun _ => ⟨by decide, 0, by decide⟩, by decide⟩, by decide, ⟨by decide, fun _ => ⟨by decide, 0, by decide⟩, by decide⟩, by decide, by decide⟩ <;>
    unfold State.issues State.starts State.regsFree <;> decide

/-- Core 0 in user mode with macro 3 stationary, and with a local protection unit that grants nothing. -/
def marked : State := at0 { userCore [] with marks := (userCore []).marks.setIfInBounds 3 0x80000000 }

def shut : State := let c := userCore []; at0 { c with ctl := { c.ctl with lpb := Vector.replicate 8 (LpuBase.of 0) } }

/-- R21's refusals of a local access: misaligned, unbacked, below XB, not granted by the LPU, a store to a stationary macro. -/
theorem witness_LocalAccesses_refused : (user []).core.refused false 0x10001 8 0x02 ∧ (user []).core.refused false 0x60000 8 0x03 ∧ (user []).core.refused true 0x7FF8 8 0x03 ∧
    shut.core.refused false 0x10000 8 0x03 ∧ marked.core.refused true 0xC000 8 0x06 := by
  refine ⟨.inl (by decide), .inr ⟨by decide, .inl ⟨by decide, .inl ⟨.inl (by decide), rfl⟩⟩⟩, .inr ⟨by decide, .inl ⟨by decide, .inl ⟨.inr ⟨rfl, .inl (by decide)⟩, rfl⟩⟩⟩,
    .inr ⟨by decide, .inl ⟨by decide, .inl ⟨.inr ⟨rfl, .inr ?_⟩, rfl⟩⟩⟩, .inr ⟨by decide, .inl ⟨by decide, .inr ⟨rfl, by decide, ?_, by decide, rfl⟩⟩⟩⟩
  · rintro ⟨i, h, _⟩
    revert h
    revert i
    decide
  · rintro ⟨_, h | h⟩
    · exact absurd h (by decide)
    · exact h ⟨0, by decide⟩

/-- A core with an open chunk. -/
def opened (c : Core) (f : Chunk → Chunk) : Core := c.openChunk.modChunk f

/-- An uplink: the route of node 1 over port 0, up with every feature. -/
def routed (s : State) : State := { s with
  mgmt := { s.mgmt with route := [(1, 1)] }, ports := s.ports.setIfInBounds 0 ⟨true, 0x0100, 0x1F⟩ }

/-- The first global address of node 1. -/
def va1 : Word := 0x0001000100000000

theorem witness_GlobalAccesses : let s := held (sys [(4, va0), (5, 7)]) 5
    s.issues [4] [3] ∧ s.issues [4, 5] [] ∧ s.core.ownNode va0.toNat 8 ∧ s.core.bufHas va0.toNat 8 = false ∧ s.core.l1Find (lineOf va0.toNat) = none ∧
      (∃ r m, (s.l1Heal (lineOf va0.toNat)).homeRead (s.core.pcn / 384) va0.toNat Req.read false = .done r m) ∧
      (∃ u g, s.writeCheck va0.toNat Req.write = .ok (u, g)) ∧ (s.core.chunk.map (·.dests)).getD [] = [] := by
  refine ⟨?_, ?_, ?_, ?_, ?_, ⟨_, _, rfl⟩, ⟨_, _, rfl⟩, rfl⟩ <;> (try unfold State.issues State.starts State.regsFree) <;> (try unfold Core.ownNode) <;> decide

theorem witness_GlobalAccesses_buffered :
    let s := at0 (opened (core0 [(4, va0), (5, 7)]) fun k => { k with gbuf := cellsOf va0.toNat 8 5, dests := [(va0.toNat / 64, .remote)] })
    let t := at0 ((core0 [(4, va0)]).l1Put (lineOf va0.toNat) 5)
    let u := routed (sys [(4, va1), (5, 7)])
    s.issues [4] [3] ∧ s.core.bufHas va0.toNat 8 = true ∧ (s.core.chunk.map fun k => k.dests.any fun e => e.1 == va0.toNat / 64) = some true ∧
      t.issues [4] [3] ∧ t.core.l1Find (lineOf va0.toNat) = some 5 ∧ u.issues [4, 5] [] ∧ u.core.otherNode va1.toNat 8 ∧ (u.routePort va1.toNat 0).isSome = true ∧
      u.remoteFault va1.toNat = none := by
  unfold State.issues State.starts State.regsFree Core.otherNode; decide

/-- The home of va0 holds a host-memory line for it. -/
def heldHost (s : State) : State := { s with l2 := [{ heldLine va0 0 with pa := 2 ^ 50, leaf := leaf (2 ^ 50) }] }

theorem heldAt (q : Req) (h : q = .read ∨ q = .write ∨ q = .both) : (held (sys [(4, va0), (5, 7)]) 5).heldAtHome va0.toNat q (heldLine va0 5) := by
  refine ⟨rfl, rfl, rfl, ?_, rfl, by decide, rfl⟩
  rcases h with rfl | rfl | rfl <;> decide

theorem witness_AcquireAndRelease : let s := held (sys [(4, va0), (5, 7)]) 5
    let u := routed (sys [(4, va1), (5, 7)])
    s.issuesAlone [4] [3] ∧ s.issuesAlone [4, 5] [] ∧ s.core.ownNode va0.toNat 8 ∧ s.fencePDone 0 = true ∧ s.fenceSDone = true ∧
      (∃ r l, s.homeRead 0 va0.toNat Req.read true = .done r l ∧ (r.heldLeaf va0.toNat).map leafRepl = some false) ∧
      (s.landCleans 0).heldAtHome va0.toNat Req.write (heldLine va0 5) ∧ s.seqDone 0 = true ∧ s.noticed 0 = true ∧
      (u.issuesAlone [4] [3] ∧ u.core.otherNode va1.toNat 8 ∧ (u.routePort va1.toNat 0).isSome = true) ∧
      (∃ r h, (heldHost (sys [(4, va0)])).homeRead 0 va0.toNat Req.read false = .host r h) ∧ (sys [(4, 0xFFFFFFF8)]).issuesAlone [4] [3] := by
  refine ⟨?_, ?_, ?_, ?_, ?_, ⟨_, _, rfl, ?_⟩, heldAt _ (by decide), ?_, ?_, ?_, ⟨_, _, rfl⟩, ?_⟩ <;>
    (try unfold State.issuesAlone State.starts State.regsFree) <;> (try unfold Core.ownNode) <;> (try unfold Core.otherNode) <;> decide

theorem witness_AtomicOperations : let s := held (sys [(4, va0), (5, 7)]) 5
    s.issuesAlone [4, 5] [3] ∧ s.issuesAlone [4, 5, 3] [3] ∧ s.core.ownNode va0.toNat 8 ∧ s.heldAtHome va0.toNat Req.both (heldLine va0 5) := by
  refine ⟨?_, ?_, ?_, heldAt _ (by decide)⟩ <;> (try unfold State.issuesAlone State.starts State.regsFree) <;> (try unfold Core.ownNode) <;> decide

theorem witness_FarStoresAndAtomics : let u := routed (sys [(4, va1), (5, 7)])
    u.issuesAlone [4, 5] [3] ∧ u.core.otherNode va1.toNat 8 ∧ (u.routePort va1.toNat 0).isSome = true ∧ (u.routePort va1.toNat 2).isSome = true ∧
      u.fencePDone 0 = true ∧ u.fenceSDone = true ∧ u.core.poisoned 3 = false := by
  unfold State.issuesAlone State.starts State.regsFree Core.otherNode; decide

/-- The home of va0 holds a dirty line that a CLEAN of core 0 has sent for. -/
def cleaning : State := { sys [] with l2 := [{ heldLine va0 5 with dirty := true }], cleans := [⟨0, homeOf (lineOf va0.toNat), lineOf va0.toNat, false⟩] }

theorem witness_MaintenanceAndFences : let s := held (sys [(4, va0), (5, 64)]) 5
    let w : FarWrite := ⟨0, s.owner, true, [(0, 5)], some ⟨.str 1 5 true, va0, 0⟩, none, 0, false⟩
    s.issuesAlone [4, 5] [] ∧ s.issuesAlone [] [] ∧ 2 ^ 32 ≤ va0.toNat ∧ nodeOf va0.toNat = 0 ∧ s.core.part = none ∧ s.core.slowClean = false ∧
      (s.l2.filter fun l => decide (lineOf va0.toNat ≤ l.line) && decide (l.line ≤ lineOf (va0.toNat + 63))) = [heldLine va0 5] ∧
      s.hostWrites ++ s.remoteWrites = [] ∧ s.core.fence.getD (s.seqNext - 1) ≤ s.seqApplied.toList.getD 0 0 ∧ s.notices = [] ∧
      (sys [(4, 0xFFFFFFFF), (5, 1)]).issuesAlone [4, 5] [] ∧ (sys [(4, va1), (5, 1)]).issuesAlone [4, 5] [] ∧ nodeOf va1.toNat ≠ 0 ∧
      ((at0 { core0 [(4, va0), (5, 64)] with slowClean := true, part := some 0 }).issuesAlone [4, 5] [] ∧ lineOf va0.toNat + 0 ≤ lineOf (va0.toNat + 63)) ∧
      (held (at0 { core0 [(4, va0), (5, 64)] with slowClean := true }) 5).issuesAlone [4, 5] [] ∧
      (cleaning.issuesAlone [] [] ∧ cleaning.l2Find (homeOf (lineOf va0.toNat)) (lineOf va0.toNat) = some { heldLine va0 5 with dirty := true }) ∧
      ∃ x ∈ ({ s with hostWrites := [w] } : State).hostWrites, x.pcn = 0 ∧ x.rmw.isSome = true := by
  refine ⟨?_, ?_, ?_, ?_, ?_, ?_, ?_, ?_, ?_, ?_, ?_, ?_, ?_, ?_, ?_, ⟨?_, rfl⟩, ?_⟩ <;> (try unfold State.issuesAlone State.starts State.regsFree) <;> decide

/-- A QUERY request at 0x10000. -/
def nmcAt (kind : Nat) : State := at0 (dws (core0 [(4, 0x10000)]) 0x10000 [kind, va0.toNat, 0, 0])

theorem witness_NearMemoryRequests : let s := nmcAt 3
    s.issuesAlone [4] [3] ∧ s.core.rangeCheck false 0x10000 32 = none ∧ s.rangeBusy 0x10000 32 = false ∧ s.core.ttStall false 0x10000 32 = false ∧
      s.core.badWord 0x10000 32 = none ∧ s.core.localRead 0x10000 8 = 3 ∧ s.core.localRead 0x10010 8 = 0 ∧ s.core.localRead 0x10018 8 = 0 ∧
      (nmcAt 4).core.localRead 0x10000 8 = 4 ∧ (nmcAt 4).issuesAlone [4] [3] ∧ (sys [(4, 0x10010)]).issuesAlone [4] [3] := by
  unfold State.issuesAlone State.starts State.regsFree; decide

/-- Operands 1.0 and a NaN under stochastic rounding. -/
def floats : State := at0 { core0 [(4, 0x3F800000), (5, 0x7FC00000), (6, 0)] with ctl := { (core0 []).ctl with rm := 0, sre := 1, nte := 1 } }

theorem witness_FloatOperations : floats.issues [4, 5] [3] ∧ floats.issues [4] [3] ∧ floats.issues [4, 5, 6] [3] := by
  unfold State.issues State.starts State.regsFree; decide

theorem witness_IeeeRounding : ieee16 ∈ [ieee32, ieeeBf16, ieee16] ∧ 5 < 2 ^ 32 ∧ (0 < 3) ∧ (∀ x ∈ [0x3F800000, 0xBF800000, 0x40490FDB], ieee32.isFinite x) ∧
    ieee32.units 0x3F800000 + ieee32.units 0x40490FDB ≠ 0 ∧ 0 < ieee32.units 0x3F800000 ∧ ieee32.units 0x3F800000 + ieee32.units 0xBF800000 = 0 := by
  unfold Ieee.isFinite; decide

theorem witness_TaperRounding : tap8 ∈ [tap32, tap16, tap8] ∧ (0x40 < 2 ^ tap8.n ∧ 0xC0 < 2 ^ tap8.n) ∧ tap8.nar ∉ [0x40, 0xC0, 0x42] ∧
    0 < tap8.units 0x40 ∧ tap8.units 0x40 ≠ tap8.units 0x42 := by decide

theorem witness_TaperOperations : floats.issues [4, 5] [3] ∧ floats.issues [4] [3] ∧ floats.issues [4, 5, 6] [3] ∧ floats.core.ctl.nte = 1 := by
  unfold State.issues State.starts State.regsFree; decide

theorem witness_ConvertAndClassify : floats.issues [4] [3] ∧ (0 : BitVec 2) ≠ 3 ∧ floats.core.ctl.nte = 1 := by
  unfold State.issues State.starts State.regsFree; decide

/-- Core 0 in system mode with VN = n and vector progress p. -/
def vec (n p : Nat) (rs : List (Nat × Word)) : State :=
  at0 { core0 rs with vprog := BitVec.ofNat 16 p, ctl := { (core0 rs).ctl with vn := BitVec.ofNat 16 n, vl := 32 } }

/-- No macro of a small state is busy. -/
theorem noBusy (c : Core) (h : c.qs[0].cmds = []) (p m : Nat) : (at0 c).macroBusy p m = false := by
  simp [State.macroBusy, State.cores, at0, State.reset, h]

/-- Three arrays of four f32 elements, with one element done; two scalars. -/
def vec3 : State := vec 4 1 [(3, 0x10000), (4, 0x11000), (5, 0x12000)]

theorem witness_VectorArithmetic : vec3.issuesAlone [4, 5, 3] [3, 4, 5] ∧
    vec3.vectorReady [vRange 0 0x10000 1 4 true true, vRange 0 0x11000 1 4 false true, vRange 0 0x12000 1 4 false true] ∧
    vec3.vectorReady [vRange 6 0x10000 1 4 true false, vRange 6 0x11000 1 4 false true] := by
  unfold State.vectorReady State.issuesAlone State.starts State.regsFree
  refine ⟨by decide, ⟨by decide, by decide, by decide, by decide, noBusy _ rfl, by decide⟩, by decide, by decide, by decide, by decide, noBusy _ rfl, by decide⟩

theorem witness_VectorFunctionsAndFills : vec3.issuesAlone [4, 3] [3, 4] ∧ vec3.issuesAlone [4, 3] [3] ∧
    vec3.vectorReady [vRange 0 0x10000 1 4 true false, vRange 9 0x11000 1 4 false true] ∧ vec3.vectorReady [vRange 0 0x10000 1 4 true false] := by
  unfold State.vectorReady State.issuesAlone State.starts State.regsFree
  refine ⟨by decide, by decide, ⟨by decide, by decide, by decide, by decide, noBusy _ rfl, by decide⟩, by decide, by decide, by decide, by decide, noBusy _ rfl, by decide⟩

theorem witness_GatherAndScatter : (0 : BitVec 4) ≠ 6 ∧ vec3.issuesAlone [4, 5, 3] [3, 5] ∧ vec3.issuesAlone [4, 5, 3] [4, 5] ∧
    vec3.vectorReady [vRange 0 0x10000 1 4 true false, vRange 9 0x12000 1 4 false true] ∧
    vec3.vectorReady (((List.range 4).drop 1).map fun j => ⟨0x11000 + 4 * vec3.core.spad.readLE (0x12000 + 4 * j) 4, 4, 0x11000 + 4 * vec3.core.spad.readLE (0x12000 + 4 * j) 4, 4, false, true⟩) ∧
    (∀ j ∈ (List.range 4).drop 1, vec3.core.vIndirect false 4 [vRange 0 0x10000 1 4 true false, vRange 9 0x12000 1 4 false true] (0x11000 + 4 * vec3.core.spad.readLE (0x12000 + 4 * j) 4) = none) ∧
    vec3.vectorReady [vRange 0 0x11000 1 4 false true, vRange 9 0x12000 1 4 false true] ∧
    vec3.core.vStall (((List.range 4).drop 1).map fun j => ⟨0x10000 + 4 * vec3.core.spad.readLE (0x12000 + 4 * j) 4, 4, 0x10000 + 4 * vec3.core.spad.readLE (0x12000 + 4 * j) 4, 4, true, false⟩) = false ∧
    (∀ j ∈ (List.range 4).drop 1, vec3.core.vIndirect true 4 [vRange 0 0x11000 1 4 false true, vRange 9 0x12000 1 4 false true] (0x10000 + 4 * vec3.core.spad.readLE (0x12000 + 4 * j) 4) = none) := by
  unfold State.vectorReady State.issuesAlone State.starts State.regsFree
  refine ⟨by decide, by decide, by decide, ⟨by decide, by decide, by decide, by decide, noBusy _ rfl, by decide⟩, ⟨by decide, by decide, by decide, by decide, noBusy _ rfl, by decide⟩, by decide,
    ⟨by decide, by decide, by decide, by decide, noBusy _ rfl, by decide⟩, by decide, by decide⟩

theorem witness_VectorReductions : vec3.issuesAlone [4] [6, 4] ∧ vec3.issuesAlone [4, 5] [6, 4, 5] ∧ vec3.vectorReady [vRange 0 0x11000 0 4 false true] ∧
    vec3.vectorReady [vRange 0 0x11000 0 4 false true, vRange 0 0x12000 0 4 false true] ∧
    vec3.vectorReady [vRange 0 0x11000 0 4 false true, vRange 9 0x12000 0 4 true false] ∧ (vec 0 0 [(4, 0x11000)]).vectorReady [vRange 0 0x11000 0 0 false true] := by
  unfold State.vectorReady State.issuesAlone State.starts State.regsFree
  refine ⟨by decide, by decide, ⟨by decide, by decide, by decide, by decide, noBusy _ rfl, by decide⟩, ⟨by decide, by decide, by decide, by decide, noBusy _ rfl, by decide⟩,
    ⟨by decide, by decide, by decide, by decide, noBusy _ rfl, by decide⟩, by decide, by decide, by decide, by decide, noBusy _ rfl, by decide⟩

/-- Reductions of three elements, and of none of 8 bits. -/
theorem witness_VectorReductions_pairs : 2 ^ 1 < [5, 6, 7].length ∧ [5, 6, 7].length ≤ 2 ^ (1 + 1) ∧ 0 < 8 ∧ 8 ≤ 64 := by decide

theorem witness_LaneGrants : (sys [(4, 256)]).issuesAlone [4] [3] ∧ (sys []).issuesAlone [] [] := by unfold State.issuesAlone State.starts State.regsFree; decide

theorem witness_ControlRegisters : (sys []).issues [] [3] ∧ (user []).issues [] [3] ∧ (user []).core.ctl.mode = .user ∧ (sys []).core.ctl.mode = .system ∧
    (0x020 ≤ (0x02F : BitVec 12).toNat ∧ (0x02F : BitVec 12).toNat ≤ 0x02F) ∧ (0x040 ≤ (0x044 : BitVec 12).toNat ∧ (0x044 : BitVec 12).toNat ≤ 0x044) ∧
    (sys [(4, 0x20040)]).issuesAlone [4] [] ∧ (user [(4, 1)]).issuesAlone [4] [] ∧ 0x800 < ((sys [(4, 0x20040)]).core.reg 4).toNat / 64 % 8192 := by
  unfold State.issues State.issuesAlone State.starts State.regsFree; decide

/-- The double traps: WP = TWP, a TWP in a stationary macro, a vector at or above XB. -/
theorem witness_TrapEntryEffect : (user []).trapReady 0x22 ∧ (sys []).core.wp = (sys []).core.twp ∧
    ((at0 { userCore [] with marks := (userCore []).marks.setIfInBounds 2 0x80000000 }).core.switchCheck (user []).core.twp).isSome = true ∧
    (at0 { userCore [] with ctl := { (userCore []).ctl with tvb := 32 } }).core.xb ≤ 32 * 1024 + 16 * 0 ∧
    (at0 { userCore [] with ecc := [(0x8208 / 8, true)] }).core.switchBad (user []).core.twp = some 0x8208 := by
  unfold State.trapReady; decide

/-- Core 0 in user mode with its PC at an address. -/
def userAt (pc : Word) (rs : List (Nat × Word)) : State := at0 { userCore rs with pc := pc }

theorem witness_TrapCauses : (user []).issuesAlone [4] [] ∧ (user []).issuesAlone [] [] ∧ (user []).starts ∧ (user []).core.chunk = none ∧ (user []).core.ctl.mode = .user ∧
    (∀ k ∈ [0x01, 0x02, 0x05, 0x0C, 0x0D, 0x0E], (user []).trapReady k) ∧ (userAt 2 []).starts ∧ (userAt 2 []).trapReady 2 ∧ (userAt 2 []).core.pc.toNat % 4 ≠ 0 ∧
    (userAt 0x8000 []).starts ∧ (userAt 0x8000 []).trapReady 5 ∧ (userAt 0x8000 []).core.xb ≤ 0x8000 ∧
    (at0 (userCore []).openChunk).starts ∧ (at0 (userCore []).openChunk).core.chunk.isSome = true := by
  refine ⟨?_, ?_, ?_, ?_, ?_, ?_, ?_, ?_, ?_, ?_, ?_, ?_, ?_, ?_⟩ <;> (try unfold State.issuesAlone State.regsFree) <;> (try unfold State.trapReady) <;>
    (try unfold State.starts) <;> decide

theorem witness_PoisonAndPending : let s := at0 { core0 [] with pois := 0x20 }
    let t := at0 { core0 [] with pend := 0x20 }
    (at0 { core0 [] with pois := 0x40 }).starts ∧ [4, 5, 6].find? (at0 { core0 [] with pois := 0x40 }).core.poisoned = some 6 ∧
    s.starts ∧ s.core.chunk = none ∧ [4, 5].find? s.core.poisoned = some 5 ∧ (∀ x ∈ [4, 5, 3], s.core.pending x = false) ∧ t.starts ∧ t.core.chunk = none ∧
      t.core.pending 5 = true := by unfold State.starts; decide

theorem witness_ReturnsAndSwitches : let s := at0 (dws (core0 [(4, 0x8600)]) 0x100 [0x8600, 0])
    let t := at0 (dws (core0 [(4, 0x8600)]) 0x8718 [2 ^ 31])
    s.issuesAlone [] [] ∧ s.core.ctl.mode = .system ∧ s.core.spad.readLE (s.core.wp + 0x100) 8 = 0x8600 ∧ s.core.switchCheck 0x8600 = none ∧
      s.core.switchCheck 0x60000 = some 0x03 ∧ s.issuesAlone [4] [] ∧ bitAt (s.core.spad.readLE 0x8718 8) 31 = false ∧ t.issuesAlone [4] [] ∧
      bitAt (t.core.spad.readLE 0x8718 8) 31 = true ∧ s.core.badWord 0x100 16 = none ∧ s.core.returnBad = none ∧ s.core.switchBad 0x8600 = none ∧ s.core.badWord 0x8700 32 = none ∧
      t.core.switchBad 0x8600 = none ∧ t.core.badWord 0x8700 32 = none := by unfold State.issuesAlone State.starts State.regsFree; decide

/-- Uncorrectable errors in the trap record, in the image, in the save area and in the upcall record. -/
theorem witness_ReturnsAndSwitches_errors : let s (w : Nat) := at0 { dws (core0 [(4, 0x8600)]) 0x100 [0x8600, 0] with ecc := [(w / 8, true)] }
    (∀ w ∈ [0x108, 0x8608, 0x8748, 0x8718], (s w).issuesAlone [] [] ∧ (s w).issuesAlone [4] []) ∧ (s 0x108).core.badWord 0x100 16 = some 0x108 ∧
      (s 0x8608).core.switchCheck 0x8600 = none ∧ (s 0x8608).core.returnBad = some 0x8608 ∧ (s 0x8748).core.returnBad = some 0x8748 ∧
      (s 0x8608).core.switchBad 0x8600 = some 0x8608 ∧ (s 0x8718).core.badWord 0x8700 32 = some 0x8718 := by
  refine ⟨?_, ?_⟩ <;> (try unfold State.issuesAlone State.starts State.regsFree) <;> decide

theorem witness_SystemInstructions : let s := sys [(4, va0), (5, 65536)]
    let h := { s with hostWrites := [⟨0, s.owner, true, [(0, 5)], some ⟨.str 1 5 true, va0, 0⟩, none, lineOf va0.toNat, false⟩] }
    s.issuesAlone [] [] ∧ s.core.acked = false ∧ s.fencePDone 0 = true ∧ s.core.ctl.mode = .system ∧ s.core.inPhase = false ∧ s.issuesAlone [4, 5] [] ∧
      va0.toNat % 65536 = 0 ∧ 2 ^ 32 ≤ va0.toNat ∧ va0.toNat + 65536 ≤ 2 ^ 57 ∧ nodeOf va0.toNat = s.core.ctl.node.toNat ∧ nodeOf (va0.toNat + 65535) = 0 ∧
      s.deferred 0 sigAll = false ∧ s.translatedUse va0.toNat 65536 = false ∧ (∃ w ∈ h.hostWrites, va0.toNat ≤ w.line * 64 ∧ w.line * 64 < va0.toNat + 65536) ∧
      (sys [(4, va0), (5, 0)]).issuesAlone [4, 5] [] ∧ (sys [(4, va0), (5, 1)]).issuesAlone [4, 5] [] ∧ (sys []).ackWith = none ∧
      (∃ w ∈ h.hostWrites ++ h.remoteWrites, w.pcn = 0 ∧ w.rmw.isSome = true) ∧ (∀ w ∈ s.hostWrites ++ s.remoteWrites, ¬(w.pcn = 0 ∧ w.rmw.isSome = true)) := by
  refine ⟨?_, ?_, ?_, ?_, ?_, ?_, ?_, ?_, ?_, ?_, ?_, ?_, ?_, ?_, ?_, ?_, rfl, ?_, ?_⟩ <;> (try unfold State.issuesAlone State.starts State.regsFree) <;> decide

/-- A trap of the small user state: what it leaves. -/
theorem trapSpad : ((user []).trapEntry 0x0E 6 0x100).core.spad = [(0x8301, 0x84), (0x8550, 0x20)] := by decide

theorem witness_ReturnsAndSwitches_trap : let s := user []
    let t := s.trapEntry 0x0E 6 0x100
    s.trapReady 0x0E ∧ trapTaken s t 0x0E 6 0x100 ∧ t.issuesAlone [] [] ∧ s.core.switchCheck s.core.wp = none ∧ t.core.badWord (t.core.wp + 0x100) 16 = none ∧
      t.core.returnBad = none ∧ ∃ u, exec .eret t = .next u := by
  refine ⟨by unfold State.trapReady; decide, ⟨?_, ?_, ?_, ?_, ?_, ?_, ?_, ?_, by decide⟩, by unfold State.issuesAlone State.starts State.regsFree; decide, by decide, by decide, by decide, (ex_of_next (p := fun _ => true) (by decide)).imp fun _ h => h.1⟩
  · unfold switched; decide
  · unfold imageWritten; decide
  · decide
  · decide
  · decide
  · decide
  · decide
  · intro a h
    show Memory.read ((user []).trapEntry 0x0E 6 0x100).core.spad a = Memory.read [] a
    rw [trapSpad]
    have h1 : 0x8301 ≠ a := fun e => h ⟨(0x8300, 16), by decide, by omega, by omega⟩
    have h2 : 0x8550 ≠ a := fun e => h ⟨(0x8540, 24), by decide, by omega, by omega⟩
    simp [Memory.read, h1, h2]

/-- A command of a word, its generator state 0. -/
def cmd (w : Nat) : Cmd := Cmd.of (BitVec.ofNat 256 w) 0

/-- CTSWAP with tag 5. -/
def ctswap : Nat := 0x50014

def fill (c : Core) (q n : Nat) (k : Cmd) : Core := { c with qs := c.qs.setIfInBounds q ⟨List.replicate n k, [], []⟩ }

/-- The word of CTSWAP in the scratchpad passes every check of a push. -/
theorem pushes (s : State) (h : s.core.copied = none ∧ s.core.rangeCheck false 0x10000 32 = none ∧ s.rangeBusy 0x10000 32 = false ∧
    s.core.ttStall false 0x10000 32 = false ∧ s.core.badWord 0x10000 32 = none ∧ ctswap = s.core.localRead 0x10000 32 ∧ s.core.cmdUse ctswap 0 = some ⟨[], []⟩ ∧
    s.core.useCheck ⟨[], []⟩ = none ∧ (∀ r ∈ (s.core.stallUse ctswap ⟨[], []⟩).writes ++ (s.core.stallUse ctswap ⟨[], []⟩).reads, s.core.ttStall true r.1 r.2 = false) ∧
    s.earlierDone s.core.pcn = true) : ∃ z, s.pushable 0x10000 ctswap 0 z := by
  obtain ⟨h0, h1, h2, h3, h4, h5, h6, h7, h8, h9⟩ := h
  exact ⟨s.heal (s.core.softWords 0x10000 32), .inl ⟨h0, ⟨by decide, h1, h2, h3, h4⟩, h5, by decide, by decide, rfl, rfl⟩, fun h => absurd h (by decide), ⟨_, h6, h7, h8⟩, h9⟩

/-- A record of n bytes at 0x10000 may be read. -/
theorem records (s : State) (n v : Nat) (h : s.core.copied = none ∧ 0x10000 % n = 0 ∧ s.core.rangeCheck false 0x10000 n = none ∧ s.rangeBusy 0x10000 n = false ∧
    s.core.ttStall false 0x10000 n = false ∧ s.core.badWord 0x10000 n = none ∧ v = s.core.localRead 0x10000 n) : ∃ z, s.recordAt 0x10000 n v z := by
  obtain ⟨h0, h1, h2, h3, h4, h5, h6⟩ := h
  refine ⟨s.heal (s.core.softWords 0x10000 n), ?_⟩
  unfold State.recordAt
  rw [h0]
  exact ⟨⟨h1, h2, h3, h4, h5⟩, h6, rfl⟩

theorem witness_QueueInstructions : let s := at0 (dws (core0 [(4, 0x10000)]) 0x10000 [ctswap])
    let t := at0 (fill (dws (core0 [(4, 0x10000)]) 0x10000 [ctswap]) 0 32 (cmd ctswap))
    let u := at0 { core0 [(4, 0x10000)] with copied := some (BitVec.ofNat 768 ctswap) }
    s.issuesAlone [4] [3] ∧ (∃ z, s.pushable 0x10000 ctswap 0 z) ∧ s.core.room 0 (s.prepare ctswap 0).1 = true ∧ t.issuesAlone [4] [3] ∧ (∃ z, t.pushable 0x10000 ctswap 0 z) ∧
      t.core.room 0 (t.prepare ctswap 0).1 = false ∧ u.issuesAlone [4] [3] ∧ ∃ z, u.pushable 0x10000 ctswap 0 z := by
  refine ⟨?_, pushes _ (by decide), by decide, ?_, pushes _ (by decide), by decide, ?_, _, .inr ⟨rfl, by decide, by decide, rfl⟩, fun h => absurd h (by decide),
    ⟨⟨[], []⟩, by decide, by decide, by decide⟩, by decide⟩ <;> unfold State.issuesAlone State.starts State.regsFree <;> decide

theorem witness_QueueInstructions_pop : let s := at0 { core0 [] with events := [7], qs := (core0 []).qs.setIfInBounds 4 ⟨[], [9], []⟩ }
    s.issuesAlone [] [3] ∧ (s.core.events.length = 64 ∨ s.core.eventsWaiting = []) ∧ s.core.events ++ s.core.eventsWaiting = [7] ∧ (s.core.queue 4).elems = [9] ∧
      (s.core.queue 0).elems = [] ∧ (15 : BitVec 4) = 15 ∧ (4 : BitVec 4).toNat < 5 := by
  unfold State.issuesAlone State.starts State.regsFree; decide

/-- A task record of WID 1 and the entry of core 0's queue that holds it. -/
def rec1 : TaskRec := ⟨1, 0x100, 7, 9, 5⟩

def entry1 : Entry := ⟨.task rec1, 9, 0, 0, 0⟩

theorem witness_TaskTake : let s := { sys [(4, 0x10000)] with queues := [⟨.core 0, [entry1], []⟩] }
    let t (ph : Phase) := at0 { core0 [(4, 0x10000)] with slice := .plain, phase := ph }
    s.issuesAlone [4] [3] ∧ s.core.slice = .none ∧ s.operandWritable 0x10000 ∧ s.eligible s.core.pcn = [entry1] ∧ (sys [(4, 0x10000)]).eligible 0 = [] ∧
      (∀ x ∈ (s.queue (.core 0)).entries, x.seq < 2 ^ 32) ∧ (t .idle).issuesAlone [4] [3] ∧ (t .idle).operandWritable 0x10000 ∧ (t .idle).core.slice = .plain ∧
      (t .idle).core.inPhase = false ∧ (∀ c ∈ (t .idle).cores, c.marked = none) ∧ (t (.running true)).issuesAlone [4] [3] ∧ (t (.running true)).core.inPhase = true := by
  unfold State.issuesAlone State.starts State.regsFree State.operandWritable; decide

/-- Core 0 in a slice, the record of rec1 at 0x10000, the header with one field of 8 bits. -/
def spawning (sl : Slice) (rs : List (Nat × Word)) (ws : List Nat) : State :=
  { at0 { dws (core0 rs) 0x10000 ws with slice := sl } with header := ⟨1, 0, [8, 0, 0, 0, 0, 0]⟩, mgmt := { Mgmt.reset with state := 3 } }

theorem witness_TaskInsertions : let s := spawning .plain [(4, 0x10000)] [1, 0x700000100, 9, 5]
    let u := spawning .plain [(4, 0x10000)] [0, 0x100, 9, 5, 0x01010001]
    let w (s : State) : State := { s with hostWrites := [⟨0, s.owner, true, [(0, 5)], none, none, 0, false⟩] }
    s.issuesAlone [4] [] ∧ (∃ z, s.recordAt 0x10000 32 (s.core.localRead 0x10000 32) z) ∧ s.accepts (.core 0) = true ∧ s.core.reserved = none ∧
      s.taskOk (taskOf (s.core.localRead 0x10000 32)) = true ∧ (∃ z, (w s).recordAt 0x10000 32 (s.core.localRead 0x10000 32) z) ∧ (w s).earlierDone 0 = false ∧
      (∃ z, (w u).recordAt 0x10000 64 (u.core.localRead 0x10000 64) z) ∧ (w u).earlierDone 0 = false ∧
      s.earlierDone 0 = true ∧ s.core.slice = .plain ∧ (∀ c ∈ s.cores, c.marked = none) ∧ (spawning .none [(4, 0x10000)] [256]).core.slice ≠ .plain ∧
      (spawning .none [(4, 0x10000)] [256]).taskOk (taskOf ((spawning .none [(4, 0x10000)] [256]).core.localRead 0x10000 32)) = false ∧
      (∃ z, u.recordAt 0x10000 64 (u.core.localRead 0x10000 64) z) ∧ u.accepts .package = true ∧ u.teamOk (u.core.localRead 0x10000 64) = true ∧
      s.teamOk (s.core.localRead 0x10000 64) = false ∧
      s.core.inPhase = false ∧ s.issuesAlone [] [] ∧ s.issuesAlone [4] [3] ∧ (0 : BitVec 3).toNat < s.header.nf ∧ s.header.nf ≤ (1 : BitVec 3).toNat := by
  refine ⟨?_, ?_, ?_, ?_, ?_, ?_, ?_, ?_, ?_, ?_, ?_, ?_, ?_, ?_, ?_, ?_, ?_, ?_, ?_, ?_, ?_, ?_, ?_⟩ <;> (try unfold State.issuesAlone State.starts State.regsFree) <;>
    first | exact records _ _ _ (by decide) | decide

/-- A team record of two members side by side. -/
def pair : TeamRec := ⟨0, 0x100, 7, 9, 5, 2, 2, 1, false, 0⟩

/-- The team of slot 0, at the sites of cores 0 and 1. -/
def team0 (st : TeamStatus) : Team := ⟨0, 0, pair, st, 0, 0, true, 0, false, 0, false, []⟩

/-- Member i of it in a phase. -/
def member (i : Nat) (ph : Phase) : Core := { core0 [] with pcn := i, slice := .member 0, member := i, phase := ph }

def pairAt (a b : Phase) : State := { at0 (member 0 a) with others := [member 1 b], teams := [team0 .resident] }

/-- A member that is done: the other one runs on, or has finished. -/
theorem witness_TaskInsertions_member : let s := pairAt .idle .idle
    let t := { s with others := [{ member 1 .idle with finished := true }] }
    s.issuesAlone [] [] ∧ s.core.inPhase = false ∧ s.core.slice = .member 0 ∧ s.team 0 = some (team0 .resident) ∧ (team0 .resident).placedNow = true ∧
      (∃ p ∈ (team0 .resident).sites, p ≠ 0 ∧ (s.getCore p).finished = false) ∧ ∀ p ∈ (team0 .resident).sites, p = 0 ∨ (t.getCore p).finished = true := by
  unfold State.issuesAlone State.starts State.regsFree; decide

theorem witness_Barriers : let s := pairAt .idle .ended
    s.issuesAlone [] [] ∧ s.ownTeam ≠ none ∧ s.core.phase = .idle ∧ (pairAt .ended .idle).issuesAlone [] [] ∧ (pairAt .ended .idle).core.phase = .ended ∧
      (sys []).ownTeam = none ∧ (sys []).issuesAlone [] [] ∧ s.team 0 = some (team0 .resident) ∧
      ((team0 .resident).sites.filter fun p => !(s.getCore p).finished) = [0, 1] := by
  refine ⟨?_, ?_, ?_, ?_, ?_, ?_, ?_, ?_, ?_⟩ <;> (try unfold State.issuesAlone State.starts State.regsFree) <;> decide

theorem witness_Barriers_release : let s := pairAt (.arrived false) (.arrived true)
    let t := pairAt (.running false) (.running true)
    (∀ p ∈ [0, 1], ∃ b, (s.getCore p).phase = .arrived b) ∧ (∀ p ∈ [0, 1], (∃ b, (t.getCore p).phase = .running b) ∧ (t.getCore p).ttPending = []) ∧
      (team0 .resident).stopped = false ∧ (team0 .resident).rel.toNat ≤ t.tb.toNat ∧ t.flits = [] := by decide

/-- Counter 3 at a value, actions armed at it. -/
def counting (v : BitVec 32) (w : Bool) (l : List Armed) (rs : List (Nat × Word)) : State :=
  at0 { dws (core0 rs) 0x10000 [ctswap] with ctrs := (core0 rs).ctrs.setIfInBounds 3 ⟨v, 0⟩, armed := l, wake := w }

theorem witness_TriggerCounters : let s := counting 0xFFFFFFFF false [] [(4, 0xFFFFFFFF), (5, 0x10000)]
    let t := counting 4 true [] [(4, 5), (5, 0x10000)]
    let u := counting 4 false (List.replicate 32 ⟨0, 5, .event⟩) [(4, 5), (5, 0x10000)]
    let w := { counting 4 false [⟨3, 5, .event⟩] [(4, 5)] with hostWrites := [⟨0, (sys []).owner, true, [(0, 5)], none, none, 0, false⟩] }
    s.issuesAlone [4] [] ∧ s.issuesAlone [] [3] ∧ s.issuesAlone [4] [3] ∧ s.issuesAlone [4, 5] [] ∧ (∃ z, s.pushable 0x10000 ctswap 0 z) ∧ s.earlierDone 0 = true ∧
      (s.core.ctrs[3]).value.toNat = 0xFFFFFFFF ∧ s.core.fired = [] ∧ s.core.room 0 (s.prepare ctswap 0).1 = true ∧ t.issuesAlone [4] [3] ∧ t.issuesAlone [4, 5] [] ∧
      (∃ z, t.pushable 0x10000 ctswap 0 z) ∧ (t.core.ctrs[3]).value.toNat = 4 ∧ t.core.wake = true ∧ 32 ≤ u.core.armed.length + u.core.fired.length ∧ u.issuesAlone [4] [] ∧
      w.issuesAlone [4] [] ∧ w.earlierDone 0 = false ∧ (∃ e ∈ w.core.armed, e.ctr = 3 ∧ 4 < e.thr.toNat ∧ e.thr.toNat ≤ min (4 + 5) (2 ^ 32 - 1)) := by
  refine ⟨?_, ?_, ?_, ?_, pushes _ (by decide), ?_, ?_, ?_, ?_, ?_, ?_, pushes _ (by decide), ?_⟩ <;> (try unfold State.issuesAlone State.starts State.regsFree) <;> decide

/-- The members of the pair send: core 0 with registers, core 1 as a mailbox. -/
def mailing (rs : List (Nat × Word)) (box : List Message) (k : Option (Word × Word)) : State :=
  { pairAt .idle .idle with core := { dws (rs.foldl (fun c r => c.setReg (BitVec.ofNat 5 r.1) r.2) (member 0 .idle)) 0x10000 [1] with mailbox := box, msendw := k } }

theorem witness_MessageInstructions : let s := mailing [(4, 0x10000), (5, 1)] [⟨7, 1⟩] none
    let t := mailing [(4, 0x10000), (5, 2)] [] (some (0, 2))
    let w := { s with hostWrites := [⟨0, (sys []).owner, true, [(0, 5)], none, none, 0, false⟩] }
    s.issuesAlone [4, 5] [3] ∧ (∃ z, s.recordAt 0x10000 32 1 z) ∧ s.earlierDone 0 = true ∧ s.mails = [] ∧ s.boxOf (s.core.reg 5) = .box 1 ∧ t.issuesAlone [4, 5] [3] ∧
      (∃ z, t.recordAt 0x10000 32 1 z) ∧ (∃ z, w.recordAt 0x10000 32 1 z) ∧ w.earlierDone 0 = false ∧ s.core.msendw = none ∧
      t.core.msendw = some (0, t.core.reg 5) ∧ t.boxOf (t.core.reg 5) = .stale ∧ s.issuesAlone [4] [3] ∧ s.operandWritable 0x10000 ∧ s.core.ttStall true 0x10000 32 = false ∧
      s.core.mailbox = [⟨7, 1⟩] ∧ t.core.mailbox = [] ∧ ({ t with tb := 2 ^ 20 } : State).core.msendw = some (0, 2) ∧
      ({ s with others := [{ member 1 .idle with mailbox := List.replicate 16 ⟨7, 1⟩ }] } : State).boxOf 1 = .bounce ∧
      ({ s with others := [{ member 1 .idle with irq := { Irq.reset with entered := true } }] } : State).boxOf 1 = .bounce ∧
      s.team ((1 : Word).toNat / 2 ^ 16 % 128) = some (team0 .resident) ∧ (team0 .resident).gen.toNat = (1 : Word).toNat / 2 ^ 32 % 2 ^ 16 ∧
      (sys []).team ((1 : Word).toNat / 2 ^ 16 % 128) = none ∧ (2 ^ 48 : Word).toNat / 2 ^ 48 ≠ 0 := by
  refine ⟨?_, records _ _ _ (by decide), ?_, ?_, ?_, ?_, records _ _ _ (by decide), records _ _ _ (by decide), ?_⟩ <;> (try unfold State.issuesAlone State.starts State.regsFree) <;>
    (try unfold State.operandWritable) <;> decide

theorem witness_MessageInstructions_events : let s := { at0 { userCore [] with msendw := some (0, 1) } with tb := 2 ^ 20, mails := [⟨(sys []).owner, 3, 1, ⟨7, 1⟩⟩] }
    s.mails[0]? = some ⟨(sys []).owner, 3, 1, ⟨7, 1⟩⟩ ∧ (∀ e ∈ s.mails.take 0, e.owner.pcn = 0 → e.dst ≠ 1) ∧ (s.getCore 0).msendw = some (0, 1) ∧
      (s.getCore 0).busy = false ∧ (s.getCore 0).chunk = none ∧ 2 ^ 20 ≤ s.tb.toNat ∧ (s.select 0).trapReady 0x0B := by
  refine ⟨?_, ?_, ?_, ?_, ?_, ?_, ?_⟩ <;> (try unfold State.trapReady) <;> decide

theorem witness_StepRunsDecodedWord : let s := sys []
    let u := (s.pass s.pace).raiseTimer
    let m := { user [] with core := { userCore [] with pc := 2 } }
    let i := { user [] with core := { userCore [] with irq := { Irq.reset with preempt := some (1, false) } } }
    s.powered = true ∧ s.agenda = [] ∧ u.fetches ∧ ((m.pass m.pace).raiseTimer).core.pc.toNat % 4 ≠ 0 ∧ ((i.pass i.pace).raiseTimer).core.pendingInt.isSome = true ∧
      ((i.pass i.pace).raiseTimer).core.sent = false ∧ ((i.pass i.pace).raiseTimer).core.chunk = none ∧ ((m.pass m.pace).raiseTimer).stalled = false ∧
      ((m.pass m.pace).raiseTimer).lateUpcall.isNone = true ∧
      encode Instr.teamPlace = none ∧ ({ s with agenda := [.ev .teamPlace, .run 1] } : State).agenda = .ev .teamPlace :: [.run 1] := by
  refine ⟨?_, ?_, ⟨?_, ?_, ?_, ?_, ?_, ?_, rfl, ?_, ?_, ?_, ?_, ?_⟩, ?_⟩ <;> decide

theorem witness_MachineGoesOn : ({ State.reset with powered := false } : State).powered = false ∧ State.reset.powered = true := by decide

theorem witness_MemoryFormKept : State.reset.memoryForm ∧ ∃ t, step State.reset = .next t := by
  exact ⟨by unfold State.memoryForm; decide, (ex_of_next (p := fun _ => true) (by decide)).imp fun _ h => h.1⟩

theorem witness_DecodeEncode : (Instr.add 1 2 3).wf = true ∧ encode (Instr.add 1 2 3) = some 0x0C221800 ∧ decode 0x0C221800 = .ok (.add 1 2 3) := ⟨rfl, rfl, rfl⟩

/-- Bytes of the scratchpad in no stationary macro. -/
theorem free_of (s : State) (p a n : Nat) (h : ∀ (m : Nat) (_ : m < 24), a < m * 0x4000 + 0x4000 → m * 0x4000 < a + n → (s.getCore p).marks[m].getLsbD 31 = false) :
    s.spadFree p a n := by
  intro y h1 h2
  unfold Core.stationary
  split
  · next hm => exact h _ hm (by omega) (by omega)
  · rfl

theorem witness_MacrosAndTables : let s := sys [(4, 0x5C000), (5, 0x0FE00001)]
    let t := at0 (fill (core0 [(4, 0x10000)]) 0 1 { cmd 0 with table := some (List.replicate 64 7) })
    let w := at0 { fill (core0 [(4, 0x20000), (5, 1)]) 0 1 (cmd 0x10) with marks := (core0 []).marks.setIfInBounds 8 0x84000000, pushed := 1 }
    s.issuesAlone [4, 5] [] ∧ (s.core.reg 4).toNat + 0x4000 ≤ 0x60000 ∧ (s.core.reg 5).toNat / 65536 % 65536 / 32 % 128 + 1 ≤ 128 ∧
      spansCheck (s.core.lpuCheck true) [(0x5C000, 0x4000)] = none ∧ s.macroBusy 0 23 = false ∧ s.gridOwed s.pushLimits 23 = false ∧ (sys [(5, 16)]).issuesAlone [4, 5] [] ∧
      w.issuesAlone [4, 5] [] ∧ spansCheck (w.core.lpuCheck true) [(0x20000, 0x4000)] = none ∧ w.core.unstat = none ∧ w.gridOwed w.pushLimits 8 = true ∧ w.gridOwed [0] 8 = false ∧
      t.issuesAlone [4] [] ∧ t.core.rangeCheck false 0x10000 256 = none ∧ t.core.badWord 0x10000 256 = none ∧ t.mxNext 0 = some 0 ∧
      (t.getCore 0).mxHead = some { cmd 0 with table := some (List.replicate 64 7) } ∧ (at0 (fill (core0 []) 0 1 (cmd ctswap))).headCmd 0 0 1 4 = some (cmd ctswap) ∧
      (at0 (fill (core0 []) 0 1 (cmd ctswap))).mxNext 0 = some 0 := by
  refine ⟨?_, ?_, ?_, ?_, ?_, ?_, ?_, ?_, ?_, ?_, ?_, ?_, ?_, ?_, ?_, ?_, ?_, ?_, ?_⟩ <;> (try unfold State.issuesAlone State.starts State.regsFree) <;> decide

/-- A RUN of one row over one macro, i8 activations at 0x11000, f32 results at 0x10000. -/
def run1 : Nat := 0x10 + 2 ^ 32 + 4 * 2 ^ 44 + 0x11000 * 2 ^ 64 + 0x10000 * 2 ^ 128 + 2 ^ 192 + 2 ^ 208

/-- Core 0 with it at the head of its queue, macro 8 stationary in its grid. -/
def running (st : Option MxStart) : State :=
  at0 { fill (core0 []) 0 1 { cmd run1 with started := st } with marks := (core0 []).marks.setIfInBounds 8 0x84000000 }

def start1 : MxStart := ⟨0, 4, [(0, 0, 0, 8)], List.range 128⟩

/-- The same with row selection, its list at 0x12000: one row, row 5. -/
def run2 : Nat := run1 + 2 ^ 40 + 0x12000 * 2 ^ 224

/-- An accumulator at rest, and a line that core 0 has pinned. -/
theorem witness_MatrixRun_sums : XAcc.zero.s = false ∧ (∀ n, -2 ^ 159 ≤ XAcc.zero.v + (([3, -4] : List Int).take n).sum ∧ XAcc.zero.v + (([3, -4] : List Int).take n).sum < 2 ^ 159) ∧
    (0 : Int) ≤ 0 + 0 + 64 ∧ (0 : Nat) % 32 ≠ 16 ∧ XAcc.zero.n = false ∧ ({ XAcc.zero with v := 5 } : XAcc).v ≠ 0 ∧
    (held (sys []) 5).l2Find (homeOf (lineOf va0.toNat)) (lineOf va0.toNat) = some (heldLine va0 5) ∧ ({ heldLine va0 5 with pins := [0] } : L2Line).pins ≠ [] := by
  refine ⟨rfl, fun n => ?_, by decide, by decide, rfl, by decide, by decide, by decide⟩
  rcases n with _ | _ | n <;> simp [XAcc.zero]

theorem witness_MatrixRun : let s := running none
    let t := running (some start1)
    let r := mxRunOf run1
    s.headCmd 0 0 1 0 = some (cmd run1) ∧ s.mxNext 0 = some 0 ∧ s.findGrid 0 r = some ([(0, 0, 0, 8)], 4) ∧ wfAccepts 4 r.afmt.toNat = true ∧ r.sel = false ∧
      (cmd run1).wideBad = false ∧ s.spadFree 0 r.a r.aRow ∧ t.headCmd 0 0 1 0 = some { cmd run1 with started := some start1 } ∧ (t.getCore 0).badWord 0x20000 0x4000 = none ∧
      t.spadFree 0 r.d (vLen 0 64) ∧ start1.rows ≠ [] ∧ (∃ u row, t.rowOfA 0 r 0 = .ok u row) ∧ r.dfmt.toNat ≤ 6 := by
  refine ⟨by decide, by decide, by decide, by decide, by decide, by decide, free_of _ _ _ _ (by decide), by decide, by decide, free_of _ _ _ _ (by decide), by decide,
    ⟨_, _, rfl⟩, by decide⟩

def selecting (n : Nat) : State :=
  at0 { fill (dws (core0 []) 0x12000 [n + 5 * 2 ^ 32]) 0 1 (cmd run2) with marks := (core0 []).marks.setIfInBounds 8 0x84000000 }

theorem witness_MatrixRun_selected : let r := mxRunOf run2
    r.sel = true ∧ r.sl = 0x12000 ∧ r.k = 128 ∧ (selecting 1).headCmd 0 0 1 0 = some (cmd run2) ∧ (selecting 1).mxNext 0 = some 0 ∧
      ((selecting 1).getCore 0).spad.readLE 0x12000 4 = 1 ∧ ((selecting 1).getCore 0).spad.readLE 0x12004 4 = 5 ∧ ((selecting 200).getCore 0).spad.readLE 0x12000 4 = 200 ∧
      (selecting 200).headCmd 0 0 1 0 = some (cmd run2) ∧ (selecting 1).findGrid 0 r = some ([(0, 0, 0, 8)], 4) ∧ ((selecting 1).getCore 0).badWord 0x12000 8 = none ∧
      rowSpans r.a r.astr r.aRow r.m = [(r.a, r.aRow)] ∧ (selecting 1).spadFree 0 r.a r.aRow ∧ (selecting 1).spadFree 0 r.sl (4 + 4 * r.k) := by
  refine ⟨by decide, by decide, by decide, by decide, by decide, by decide, by decide, by decide, by decide, by decide, by decide, by decide, free_of _ _ _ _ (by decide),
    free_of _ _ _ _ (by decide)⟩

/-- An ACC of one image at 0x10000 to an f32 element at 0x11000. -/
def acc1 : Nat := 0x13 + 2 ^ 32 + 2 ^ 39 + 2 ^ 40 + 0x10000 * 2 ^ 64 + 0x11000 * 2 ^ 128

theorem witness_AccumulatorReadout : let s := at0 (fill (core0 []) 0 1 (cmd acc1))
    let t := at0 { fill (core0 []) 0 1 { cmd acc1 with sent := true } with ecc := [(0x2000, true)] }
    s.headCmd 0 0 1 3 = some (cmd acc1) ∧ s.mxNext 0 = some 0 ∧ (mxAccOf acc1).m = 1 ∧ (mxAccOf acc1).n = 1 ∧ (mxAccOf acc1).a % 32 = 0 ∧
      (s.getCore 0).badWord 0x10000 32 = none ∧ s.spadFree 0 0x10000 32 ∧ s.spadFree 0 0x11000 4 ∧
      t.headCmd 0 0 1 3 = some { cmd acc1 with sent := true } ∧ ((t.getCore 0).badWord 0x10000 32).isSome = true := by
  refine ⟨by decide, by decide, by decide, by decide, by decide, by decide, free_of _ _ _ _ (by decide), free_of _ _ _ _ (by decide), by decide, by decide⟩

theorem witness_MatrixSaveRestore : let s := at0 (fill (core0 []) 0 1 (cmd (0x11 + 0x10000 * 2 ^ 64)))
    let t := at0 (fill (core0 []) 0 1 (cmd (0x12 + 0x10000 * 2 ^ 64)))
    (s.getCore 0).mxControl = some (cmd (0x11 + 0x10000 * 2 ^ 64)) ∧ s.lendsMacro 0 = false ∧ s.spadFree 0 0x10000 2112 ∧ (s.cluster 0).bank0.length = 64 ∧
      (t.getCore 0).mxControl = some (cmd (0x12 + 0x10000 * 2 ^ 64)) ∧ (t.getCore 0).badWord 0x10000 2112 = none ∧ (∀ x ∈ ((t.getCore 0).queue 0).cmds, x.takesSlot = false) ∧
      ((t.getCore 0).queue 0).elems = [] ∧ (t.getCore 0).spad.readLE 0x10000 1 ≤ 32 := by
  refine ⟨by decide, by decide, free_of _ _ _ _ (by decide), by decide, by decide, by decide, by decide, by decide, by decide⟩

/-- A tile of one row of 16 bytes between va0 and 0x10000 of core 0. -/
def tile (code : Nat) : Nat := 0x20 + code + 2 ^ 32 + 2 ^ 48 + va0.toNat * 2 ^ 64 + 0x10000 * 2 ^ 128 + 16 * 2 ^ 160

theorem witness_TileWalks : let s (c : Nat) := held (at0 (fill (core0 []) 1 1 (cmd (tile c)))) 5
    let u := at0 (fill (core0 []) 1 1 (cmd (tile 0)))
    (∀ c ∈ [0, 1, 2], (s c).headCmd 0 1 2 c = some (cmd (tile c))) ∧ pieces va0.toNat 16 = [(va0.toNat, 16)] ∧ maskBitsOf (twOf (tile 0)).mask = [0] ∧
      (∃ m v, (s 0).engRead 0 va0.toNat 16 = .ok m v ∧ m.spadFree 0 0x10000 16) ∧ (∃ m, (s 1).spadHolds 0 0x10000 16 m 0) ∧ (∃ t, (s 1).engPut va0.toNat 16 0 = .ok t ()) ∧
      u.headCmd 0 1 2 0 = some (cmd (tile 0)) ∧ u.isOwn va0.toNat = true ∧
      (∃ h, u.homeRead 0 va0.toNat Req.read false = .fault h (faultOf 0x40 0x01)) := by
  exact ⟨by decide, by decide, by decide, ⟨_, _, rfl, free_of _ _ _ _ (by decide)⟩, ⟨_, by decide, by decide, by decide, rfl⟩, ⟨_, rfl⟩, by decide, by decide, ⟨_, rfl⟩⟩

/-- 16 bytes from va0 to va0 + 32; a fill; a row of 64 bytes moved to the next line but one, its forwarding word two lines on. -/
def copy1 : Nat := 0x30 + va0.toNat * 2 ^ 64 + (va0.toNat + 32) * 2 ^ 128 + 16 * 2 ^ 192

def fill1 : Nat := 0x31 + 0x1234 * 2 ^ 64 + va0.toNat * 2 ^ 128 + 16 * 2 ^ 192

def migrate1 : Nat := 0x32 + 64 * 2 ^ 32 + va0.toNat * 2 ^ 64 + (va0.toNat + 64) * 2 ^ 128 + (va0.toNat + 128) * 2 ^ 192

def foldcopy : Nat := 0x30 + 2 ^ 32 + (va0.toNat + 64) * 2 ^ 64 + va0.toNat * 2 ^ 128 + 64 * 2 ^ 192

/-- Lines held at their homes from va0 on, with data. -/
def lines (s : State) (ds : List Nat) : State :=
  { s with l2 := ds.zipIdx.map fun d => { heldLine (va0 + BitVec.ofNat 64 (64 * d.2)) (BitVec.ofNat 512 d.1) with pa := 64 * d.2 } }

/-- A leaf of near memory: NM, channel 0. -/
def nmLeaf : Word := 0x800000000013F

/-- The homes of the first lines of the page of va0 have its NM leaf in their translation caches. -/
def nmPage (s : State) : State := { s with tlb := (List.range 4).map fun i => ⟨homeOf (lineOf (va0.toNat + 64 * i)), va0.toNat / 65536, false, nmLeaf⟩ }

theorem witness_CopyEngines : let s (w : Nat) := lines (at0 (fill (core0 []) 2 1 (cmd w))) [5, 6, 7]
    let f := nmPage { s foldcopy with l2 := (s foldcopy).l2.drop 1 }
    (s copy1).ceCmd 0 0 = some (cmd copy1) ∧ (s fill1).ceCmd 0 1 = some (cmd fill1) ∧ (s migrate1).ceCmd 0 2 = some (cmd migrate1) ∧
      f.ceCmd 0 0 = some (cmd foldcopy) ∧ (ceOf copy1).fold = false ∧ (ceOf foldcopy).fold = true ∧ f.isOwn va0.toNat = true ∧
      (((s copy1).getCore 0).queue 2).cmds.filter (fun y => !y.sent) = [cmd copy1] ∧ ((s copy1).getCore 0).pick = 0 ∧ (cmd copy1).table = none ∧ (cmd copy1).cls = 3 ∧ (cmd copy1).code = 0 ∧
      (∃ m v u, (s copy1).engRead 0 va0.toNat 16 = .ok m v ∧ m.engPut (va0.toNat + 32) 16 v = .ok u ()) ∧ (∃ u, (s fill1).engPut va0.toNat 16 0 = .ok u ()) ∧
      (∃ m v u w, (s migrate1).engRead 0 va0.toNat 64 = .ok m v ∧ m.engPut (va0.toNat + 64) 64 v = .ok u () ∧ u.engPut (va0.toNat + 128) 8 (va0.toNat + 64) = .ok w ()) ∧
      (∃ m ps u v, f.foldPages 17 va0.toNat (va0.toNat + 64) = (m, ps) ∧ ps = [⟨false, true, 0⟩] ∧ m.engReadRange 0 (va0.toNat + 64) 64 = .ok u v) := by
  refine ⟨by decide, by decide, by decide, by decide, by decide, by decide, by decide, by decide, by decide, by decide, by decide, by decide, ⟨_, _, _, rfl, rfl⟩, ⟨_, rfl⟩,
    ⟨_, _, _, _, rfl, rfl, rfl⟩, ⟨_, _, _, _, rfl, by decide, rfl⟩⟩

/-- A table command: handle at va0, one index at 0x10000, one row of 16 bytes at 0x11000, one bag with its offsets at 0x12000. -/
def gk (code : Nat) : Nat := 0x40 + code + 2 ^ 32 + (if code = 1 then 0x12000 * 2 ^ 64 + 2 ^ 96 else 0) + 2 ^ 112 + 0x11000 * 2 ^ 128 + 0x10000 * 2 ^ 160 + va0.toNat * 2 ^ 192

/-- The handle, the descriptor one line on (four f32 rows of 16 bytes at the next line, the default row at the one after, version 3), and their lines. -/
def table (code : Nat) : State := lines (at0 (fill (dws (core0 []) 0x12000 [2 ^ 32]) 3 1 (cmd (gk code))))
  [va0.toNat + 64, va0.toNat + 128 + 4 * 2 ^ 64 + 16 * 2 ^ 128 + (va0.toNat + 192) * 2 ^ 192 + 3 * 2 ^ 256, 7, 8]

theorem witness_GanderCommands : (∀ c ∈ [0, 1, 2], (table c).headCmd 0 3 4 c = some (cmd (gk c))) ∧
    (∃ s1 T v d s2 m, (table 0).pinTable 0 va0.toNat = .ok s1 (T, v) ∧ gkDesc v = some d ∧ s1.hotMap 0 d = .ok s2 m ∧ d.rbytes ≤ (gkTableOf (gk 0)).dstr ∧
      (∃ z, s2.spadHolds 0 0x10000 4 z 0) ∧ ¬(0 = 2 ^ 32 - 1 ∨ d.rows ≤ 0) ∧ (∃ u v, s2.lgRead 0 d.base d.rbytes = .ok u v ∧ u.spadFree 0 0x11000 16 ∧ ∃ w l, u.pinAdd 0 T false = .ok w l) ∧
      (∃ u v, s2.lgRead 0 d.defrow d.rbytes = .ok u v) ∧ (∃ z, s2.spadHolds 0 0x12000 8 z (2 ^ 32)) ∧ (∃ z, s2.spadHolds 0 0x11000 16 z 0) ∧ ∃ u g, s2.scatLine 0 d.rfmt d.base 16 0 = .ok u g) := by
  refine ⟨by decide, ⟨_, _, _, _, _, _, rfl, rfl, rfl, by decide, ⟨_, by decide, by decide, by decide, rfl⟩, by decide, ⟨_, _, rfl, free_of _ _ _ _ (by decide), _, _, rfl⟩, ⟨_, _, rfl⟩,
    ⟨_, by decide, by decide, by decide, rfl⟩, ⟨_, by decide, by decide, by decide, rfl⟩, _, _, rfl⟩⟩

/-- KDIR of a relation of two rows at 0x10000, its keys at 0x10100, to 0x11000. -/
def kdirBlock : BitVec 512 := BitVec.ofNat 512 (0x10000 + 0x11000 * 2 ^ 256 + 4 * 2 ^ 320 + 2 ^ 352)

def kdir : State := at0 (fill (dws (dws (core0 []) 0x10000 [0x10100, 2, 8, 0]) 0x10100 [5, 6]) 3 1 { cmd 0x43 with block := kdirBlock })

theorem witness_GanderCommands_join : let b := gkBlockOf kdirBlock.toNat
    let i : GkInput := ⟨0x10000, some ⟨0x10100, 2, 8, 0, 0⟩, 0, [(0x10000, 32), (0x10100, 16)]⟩
    kdir.headCmd 0 3 4 3 = some { cmd 0x43 with block := kdirBlock } ∧ kdir.gkHeader 0 b 0x10000 true false = .ok kdir i ∧
      (∀ x ∈ i.ranges, x.1 < 2 ^ 32 → (kdir.getCore 0).ttStall false x.1 x.2 = false) ∧ spansMeet [b.out 3] i.ranges = false ∧
      (∃ d items, kdir.gkData 0 b i false = .ok kdir d ∧ joinItems 3 b [d] = (items, 0) ∧ items.map GkItem.off = [0, 32] ∧ ∃ u, kdir.gkPut 0 0x11000 32 5 = .ok u ()) := by
  refine ⟨by decide, rfl, by decide, by decide, ⟨_, _, rfl, rfl, by decide, _, rfl⟩⟩

/-- JTCHK of the tree of one leaf, the relation of kdir. -/
def jtchk : State := at0 (fill (dws (dws (core0 []) 0x10000 [0x10100, 2, 8, 0]) 0x12000 [0x10000]) 3 1 (cmd (0x49 + (1 + 15 * 16) * 2 ^ 64 + 0x12000 * 2 ^ 128)))

theorem witness_GanderCommands_tree : jtchk.headCmd 0 3 4 9 = some (cmd (0x49 + (1 + 15 * 16) * 2 ^ 64 + 0x12000 * 2 ^ 128)) ∧
    (∃ z, jtchk.spadHolds 0 0x12000 64 z 0x10000) ∧ (treeFault 0).isSome = true ∧ ∃ v, jtchk.lgRead 0 0x10000 32 = .ok jtchk v ∧ (gkRel 0x10000 v).isSome = true := by
  exact ⟨by decide, ⟨_, by decide, by decide, by decide, rfl⟩, by decide, ⟨_, rfl, by decide⟩⟩

theorem witness_runs : [1, 1, 2].Pairwise (· ≤ ·) := by decide

/-- Two inputs in order: two runs of rows with one lane each, and entries of the same keys. -/
theorem witness_GanderCommands_entries : let x : GkData := ⟨[3, 3, 5], [(3, 0, 2), (5, 2, 1)], [[0x3F800000], [0x40000000], [0x3F800000]], [(3, 2, [0x3F800000]), (5, 1, [0])], none, none, 3⟩
    (∀ z ∈ [x, x], z.bound = none ∧ z.brk = none ∧ z.ents.Pairwise (fun a b => a.1 < b.1) ∧ z.runs.Pairwise fun a b => a.1 < b.1) ∧ [x, x] ≠ [] ∧ x.runs.length ≤ 2 ∧
      (∀ v ∈ x.vals, v.length = 1) ∧ (∀ r ∈ x.runs, 0 < r.2.2 ∧ r.2.2 < 2 ^ 63 ∧ r.2.1 + r.2.2 ≤ x.vals.length) ∧ (∀ e ∈ x.ents, e.2.2.length = 1) := by decide

/-- FOLDARM of one line at va0 for two contributors, staged at the next line; FOLDWAIT of it. -/
def arm1 : Nat := 0x50 + va0.toNat * 2 ^ 64 + 1 * 2 ^ 128 + (va0.toNat + 64) * 2 ^ 160 + 2 * 2 ^ 224

def wait1 : Nat := 0x51 + va0.toNat * 2 ^ 64

def window1 : Window := ⟨va0.toNat, 1, 0, 2, va0.toNat + 64, [(va0.toNat / 65536, 0)], [0], [], [], [], [], 0, false, false, none⟩

def contribution1 (j : Nat) : Contribution := ⟨va0.toNat, 64, 0, j, 0, [7], 0, 0, 0⟩

def mule0 (f : Mule → Mule) : List Mule := [f (Mule.empty 0)]

/-- A copy command of core 0 whose contribution j for window w is under way. -/
def sentCopy : Cmd := { cmd 0x30 with sent := true }

def folding (w : List Window) (j : Nat) : State :=
  { at0 (fill (core0 []) 2 1 sentCopy) with mules := mule0 fun m => { m with windows := w }, folds := [contribution1 j] }

theorem witness_FoldWindows : let s := nmPage (at0 (fill (core0 []) 4 1 (cmd arm1)))
    let t := folding [window1] 0
    let u := folding [{ window1 with complete := true }] 0
    let x : State := { u with core := fill (core0 []) 4 1 (cmd wait1) }
    s.headCmd 0 4 5 0 = some (cmd arm1) ∧
      (∃ s1 wp s2 sp sf, s.nmPages 2 va0.toNat (va0.toNat + 64) = .ok (s1, wp, [(true, 0, va0.toNat)]) ∧ s1.nmPages 2 (va0.toNat + 64) (va0.toNat + 128) = .ok (s2, sp, sf) ∧
        (∀ x ∈ sf, x.1 = true ∧ x.2.1 = 0) ∧ (s2.mule 0).windows = [] ∧ (s2.mule 0).parked = [] ∧ s2.codes = []) ∧
      t.folds[0]? = some (contribution1 0) ∧ ((t.getCore 0).queue 2).cmds.find? (fun y => y.sent && y.num == (contribution1 0).cmd) = some sentCopy ∧ sentCopy.cls = 3 ∧
      ({ contribution1 0 with sender := 2049 } : Contribution).far = true ∧ (t.mule 0).matching (contribution1 0) = some window1 ∧
      t.raw (window1.line 0) = true ∧ t.raw (window1.slot 0 1) = true ∧ (t.mule 0).matching { contribution1 0 with base := 0 } = none ∧
      ((folding [window1] 1).mule 0).matching (contribution1 1) = some window1 ∧ ((folding [window1] 2).mule 0).matching (contribution1 2) = some window1 ∧ window1.e ≤ 2 ∧
      (contribution1 0).data.length = window1.len ∧ window1.next = List.replicate 1 0 ∧ window1.staged = [] ∧ window1.empty = [] ∧ 0 ∉ window1.seen ∧ (∀ g ∈ window1.next, g < 1) ∧
      x.headCmd 0 4 5 1 = some (cmd wait1) ∧ x.findWindow va0.toNat = some (0, { window1 with complete := true }) ∧ (sys []).findWindow va0.toNat = none ∧
      t.findWindow va0.toNat = some (0, window1) ∧ ((folding [] 0).mule 0).matching (contribution1 0) = none ∧ (((folding [] 0).mule 0).parked.map fun y => y.len).sum + 64 ≤ 65536 := by
  refine ⟨by decide, ⟨_, _, _, _, _, rfl, rfl, by decide, by decide, by decide, by decide⟩, ?_⟩
  decide

/-- FOLDARM beside a full Mule, beside a window that overlaps, and of a page that is no near memory; a contribution of another format, and one that finds no room. -/
theorem witness_FoldWindows_refused : let s (ws : List Window) : State := { nmPage (at0 (fill (core0 []) 4 1 (cmd arm1))) with mules := mule0 fun m => { m with windows := ws } }
    let u : State := { s [] with tlb := (List.range 4).map fun i => ⟨homeOf (lineOf (va0.toNat + 64 * i)), va0.toNat / 65536, false, leaf 0⟩ }
    let f : State := { folding [{ window1 with ffmt := 3, wctr := some ((sys []).owner, 2) }] 0 with parks := [] }
    let full : State := { folding [] 0 with mules := mule0 fun m => { m with parked := [{ contribution1 0 with base := 0, len := 65536 }] } }
    (∃ s1 wp wf s2 sp sf, u.nmPages 2 va0.toNat (va0.toNat + 64) = .ok (s1, wp, wf) ∧ s1.nmPages 2 (va0.toNat + 64) (va0.toNat + 128) = .ok (s2, sp, sf) ∧
        ∃ x ∈ sf, x.1 = false) ∧
      ((s (List.replicate 16 window1)).mule 0).windows.length = 16 ∧ (∃ x ∈ ((s [window1]).mule 0).windows, x.base < va0.toNat + 64 ∧ va0.toNat < x.base + 64 * x.len) ∧
      (f.mule 0).matching (contribution1 0) = some { window1 with ffmt := 3, wctr := some ((sys []).owner, 2) } ∧ (contribution1 0).ffmt ≠ 3 ∧ f.away (sys []).owner = none ∧
      (full.mule 0).matching (contribution1 0) = none ∧ 65536 < ((full.mule 0).parked.map fun y => y.len).sum + (contribution1 0).len := by
  refine ⟨⟨_, _, _, _, _, _, rfl, rfl, by decide⟩, ?_⟩
  decide

/-- A request of core 0 to the Mule of channel 0: its job, elementwise f32 ADD of one element. -/
def job (kind n : Nat) : NmJob :=
  ⟨BitVec.ofNat 64 (kind + n * 2 ^ 32), va0, va0 + 64, va0 + 128, (sys []).owner, 3, va0.toNat, 65536, 0⟩

def muling (f : Mule → Mule) : State := { sys [] with mules := mule0 f }

def adds : Word := 1

/-- A parked load at the home of va0. -/
def parkedThere : Parked := ⟨homeOf (lineOf va0.toNat), ⟨.load 8 true, va0, 3⟩, (sys []).owner, faultOf 0x40 1, 0⟩

theorem witness_MuleRequests : let s (r : NmReq) : State := { nmPage (sys []) with nmFlight := [⟨⟨.nmc r, va0, 3⟩, (sys []).owner, false, false, none⟩] }
    let t := { sys [] with nmFlight := [⟨⟨.nmc .resume, va0, 3⟩, (sys []).owner, false, false, none⟩] }
    (s .resume).nmFlight[0]? = some ⟨⟨.nmc .resume, va0, 3⟩, (sys []).owner, false, false, none⟩ ∧ (sys []).owner.pcn < 2048 ∧ 2 ^ 32 ≤ va0.toNat ∧ (s .resume).isOwn va0.toNat = true ∧
      (∃ u big pa, (s .resume).translate (homeOf (lineOf va0.toNat)) va0.toNat Req.read = .ok (u, nmLeaf, big, pa)) ∧ leafNm nmLeaf = true ∧ leafComp nmLeaf = false ∧
      (Mule.empty 0).depth < 32 ∧ t.translate (homeOf (lineOf va0.toNat)) va0.toNat Req.read = .error (faultOf 0x40 1) ∧ t.parkCount (homeOf (lineOf va0.toNat)) < 64 ∧
      ({ t with parks := List.replicate 64 parkedThere } : State).parkCount (homeOf (lineOf va0.toNat)) = 64 := by
  refine ⟨by decide, by decide, by decide, by decide, ⟨_, _, _, rfl⟩, by decide, by decide, by decide, rfl, by decide, by decide⟩

theorem witness_MuleRequests_runs : let s (kind n : Nat) := muling fun m => { m with kernel := some adds, queue := [job kind n] }
    let st : NmStopped := ⟨job 1 1, 0, 0, 0x10, 0, 0, 0, none⟩
    let t (b : Bool) := muling fun m => { m with kernel := some adds, stopped := some st, controls := [⟨b, (sys []).owner, 3, va0.toNat, 65536⟩], queries := [job 3 0] }
    ((s 1 1).mule 0).stopped = none ∧ ((s 1 1).mule 0).queue = [job 1 1] ∧ (job 1 1).refusal (some adds) = 0 ∧ (job 2 1).refusal (some adds) ≠ 0 ∧
      (job 2 1).refusal (some 8) = 0 ∧ (s 1 1).codes = [] ∧ (s 1 1).dramBad = [] ∧ (s 1 1).dramSoft = [] ∧
      ((muling fun m => { m with queries := [job 3 0] }).mule 0).queries = [job 3 0] ∧ ((t false).mule 0).queries = [job 3 0] ∧ ((t false).mule 0).mpc = none ∧
      ((t false).mule 0).controls = [⟨false, (sys []).owner, 3, va0.toNat, 65536⟩] ∧ ((t true).mule 0).controls = [⟨true, (sys []).owner, 3, va0.toNat, 65536⟩] ∧ ((t false).mule 0).stopped = some st ∧
      ((muling fun m => { m with controls := [⟨false, (sys []).owner, 3, va0.toNat, 65536⟩] }).mule 0).stopped = none ∧ (job 0 0).w0.toNat % 16 = 0 ∧
      ((muling fun m => { m with mpc := some 9, queries := [job 3 0], controls := [⟨true, (sys []).owner, 3, va0.toNat, 65536⟩] }).mule 0).stopped = none := by decide

/-- A closing chunk that has written 8 bytes at va0, submitted. -/
def closing (k : Chunk) : Chunk := { k with
  count := 1, closing := true, gbuf := cellsOf va0.toNat 8 5, dests := [(va0.toNat / 64, .own (leaf 0) 0)], wsig := sigBit (lineOf va0.toNat) }

def submitted : State := { at0 (opened (core0 []) closing) with submits := [0] }

def update1 : ReplUpdate := ⟨1, lineOf va0.toNat, 1, 5, leaf 0 + 0x80, 0, 0⟩

theorem witness_ChunkCommits : let l : State := at0 (opened (core0 []) fun k => { k with count := 1, closing := true })
    (∃ k, (submitted.getCore 0).chunk = some k ∧ k.closing = true ∧ k.dests.filter (fun e => e.1 == va0.toNat / 64) = [(va0.toNat / 64, .own (leaf 0) 0)]) ∧ 0 ∈ submitted.submits ∧
      submitted.reservation = none ∧ submitted.submits.takeWhile (fun q => q != 0) = [] ∧ submitted.seqQueue = [] ∧ (∃ k, ((l.pass l.pace).raiseTimer).core.chunk = some k ∧
        k.closing = true ∧ k.wsig = 0 ∧ 0 < k.count) ∧ ((l.pass l.pace).raiseTimer).core.run = .running ∧
      ({ sys [] with seqQueue := [update1] } : State).seqQueue.find? (fun v => v.num == (sys []).applied 3 + 1) = some update1 := by
  refine ⟨⟨_, rfl, by decide, by decide⟩, by decide, by decide, by decide, by decide, ⟨_, rfl, by decide, by decide, by decide⟩, by decide, by decide⟩

/-- The same with the reservation, with room at its home and in its L1; an update with room at its replica home; a notice on its way to core 0. -/
theorem witness_ChunkCommits_room : let x := lineOf va0.toNat
    let h := replHome update1.line 3
    let n : State := { at0 (opened (core0 []) closing) with notices := [(0, x)], agenda := [.replNotice 0], submits := [0] }
    ({ submitted with reservation := some 0 } : State).reservation = some 0 ∧ (submitted.getCore 0).chunk.map (·.dests) = some [(x, .own (leaf 0) 0)] ∧ (submitted.l2.filter fun m => m.slice == homeOf x && l2Set m.line == l2Set x).length + 1 ≤ 16 ∧
      (submitted.getCore 0).l1 = [] ∧ (sys []).seqQueue.length + 1 ≤ 512 ∧
      (({ sys [] with seqQueue := [update1] } : State).l2.filter fun m => m.slice == h && l2Set m.line == l2Set update1.line).length + 1 ≤ 16 ∧ update1.mask ≠ 0 ∧
      n.powered = true ∧ n.agenda = [.replNotice 0] ∧ n.notices.find? (fun e => e.1 == 0) = some (0, x) ∧ n.reservation ≠ some 0 ∧
      ({ core0 [] with l1 := [⟨x, 5, false⟩] } : Core).l1.filter (fun y => y.line == x) = [⟨x, 5, false⟩] := by decide

theorem witness_FarAccesses : let s := routed (sys [(4, va1)])
    let h := { sys [(4, va0)] with l2 := [{ heldLine va0 0 with pa := 2 ^ 50, leaf := leaf (2 ^ 50) }] }
    let w (k : AccKind) := routed (at0 { core0 [] with out := some (⟨k, va1, 3⟩, none), outPort := some 0 })
    let c : State := at0 (opened { core0 [] with out := some (⟨.load 8 true, va1, 3⟩, none), outPort := some 0 } fun k => k)
    let g : State := routed { at0 (opened (core0 [(4, va1)]) fun k => k) with reservation := some 0 }
    let a : FarWrite := ⟨0, (sys []).owner, true, cellsOf va1.toNat 8 5, none, some 0, lineOf va1.toNat, false⟩
    let b : FarWrite := ⟨0, (sys []).owner, true, [(0, 5)], none, none, 0, false⟩
    let f : State := { sys [] with remoteWrites := [a], hostWrites := [b] }
    let r : Reply := ⟨(sys []).owner, 3, 7, true⟩
    s.issues [4] [3] ∧ s.reservation ≠ some 0 ∧ s.core.otherNode va1.toNat 8 ∧ (s.routePort va1.toNat 0).isSome = true ∧ s.core.bufHas va1.toNat 8 = false ∧
      g.issues [4] [3] ∧ g.reservation = some g.core.pcn ∧ g.core.chunk.isSome = true ∧ g.core.bufHas va1.toNat 8 = false ∧
      h.issues [4] [3] ∧ (∀ l ∈ h.core.l1, l.line ≠ lineOf va0.toNat) ∧ (∃ u x, h.homeRead 0 va0.toNat Req.read false = .host u x) ∧
      (c.getCore 0).out = some (⟨.load 8 true, va1, 3⟩, none) ∧ c.heldBehind (some 0) = false ∧ c.remoteFault va1.toNat = none ∧ (c.getCore 0).chunk.isSome = true ∧
      (∀ x ∈ c.hostWrites ++ c.remoteWrites, x.pcn ≠ 0) ∧
      ((w (.lda 8 true true)).getCore 0).out.isSome = true ∧ ((w (.cas 1 5 6)).getCore 0).out = some (⟨.cas 1 5 6, va1, 3⟩, none) ∧ (w (.cas 1 5 6)).lineOpen 0 va1.toNat = false ∧
      f.remoteWrites[0]? = some a ∧ olderWrite f.remoteWrites 0 a = false ∧ a.port.isSome = true ∧ f.heldBehind a.port = false ∧ f.remoteFault a.va = none ∧ a.pcn = 0 ∧
      f.hostWrites[0]? = some b ∧ olderWrite f.hostWrites 0 b = false ∧ ({ sys [] with replies := [r] } : State).replies[0]? = some r ∧ (sys []).ended = false ∧
      r.owner.ctxg = (sys []).mgmt.ctxg ∧ r.reg ≠ 0 ∧ (sys []).away r.owner = none ∧ ((sys []).getCore ((sys []).ownerCore r.owner)).ctl.wpa = r.owner.ws ∧
      ({ r with owner := { r.owner with ws := 9 } } : Reply).owner.ws ≠ (sys []).core.ctl.wpa := by
  refine ⟨?_, ?_, ?_, ?_, ?_, ?_, ?_, ?_, ?_, ?_, ?_, ⟨_, _, rfl⟩, ?_, ?_, ?_, ?_, ?_, ?_, ?_, ?_, ?_, ?_, ?_, ?_, ?_, ?_, ?_, ?_, ?_, ?_, ?_, ?_, ?_, ?_, ?_⟩ <;>
    (try unfold State.issues State.starts State.regsFree) <;> (try unfold Core.otherNode) <;> decide

/-- A ready device: state n, no context or a running one. -/
def device (n : BitVec 3) (s : State) : State := { s with mgmt := { s.mgmt with state := n } }

/-- A port that is up with every feature, and the leaf of the page of va0 in its ingress interface. -/
def port0 (s : State) : State := { s with
  ports := s.ports.setIfInBounds 0 ⟨true, 0x0100, 0x1F⟩, tlb := [⟨1536, va0.toNat / 65536, false, leaf 0⟩] }

theorem heldAt' (q : Req) (h : leafCheck (leaf 0) false q = none) :
    (device 3 (held (sys []) 5)).heldAtHome va0.toNat q (heldLine va0 5) ∧ (port0 (device 3 (held (sys []) 5))).heldAtHome va0.toNat q (heldLine va0 5) := by
  exact ⟨⟨rfl, rfl, rfl, h, rfl, by decide, rfl⟩, rfl, rfl, rfl, h, rfl, by decide, rfl⟩

theorem witness_HostAndNodeAccesses : let s := device 3 (held (sys []) 5)
    let u := device 3 (sys [])
    let p := port0 s
    (device 2 (sys [])).mgmt.state = 2 ∧ 0xB26FFFFFC0 + 64 ≤ 0xB270000000 ∧ 3 ≤ s.mgmt.state.toNat ∧ s.heldAtHome va0.toNat hostRead (heldLine va0 5) ∧
      s.heldAtHome va0.toNat hostWrite (heldLine va0 5) ∧ (∃ h f, u.homeRead 0 va0.toNat hostRead true = .fault h f) ∧ (∃ h f, u.writeCheck va0.toNat hostWrite = .error (h, f)) ∧
      (∃ x, p.ports.toList[0]? = some x ∧ x.up = true ∧ x.features.getLsbD 0 = true ∧ x.features.getLsbD 1 = true) ∧ p.isOwn va0.toNat = true ∧
      (∀ q ∈ [Req.read, Req.write, Req.both], ∃ e, p.translate (ingress 0) va0.toNat q = .ok (p, e)) ∧ p.heldAtHome va0.toNat Req.both (heldLine va0 5) ∧
      (∃ f, u.translate (ingress 0) va0.toNat Req.read = .error f) ∧ p.folds = [] ∧
      (∃ t, ({ p with tlb := [⟨1536, va0.toNat / 65536, false, nmLeaf⟩] } : State).foldPagesAt (ingress 0) 17 va0.toNat (va0.toNat + 64) = (t, [⟨false, true, 0⟩])) := by
  refine ⟨by decide, by decide, by decide, (heldAt' _ (by decide)).1, (heldAt' _ (by decide)).1, ⟨_, _, rfl⟩, ⟨_, _, rfl⟩, ⟨_, rfl, by decide, by decide, by decide⟩, by decide, ?_,
    (heldAt' _ (by decide)).2, ⟨_, rfl⟩, by decide, ⟨_, rfl⟩⟩
  intro q h
  simp only [List.mem_cons, List.not_mem_nil, or_false] at h
  rcases h with rfl | rfl | rfl <;> exact ⟨_, rfl⟩

/-- The window of a ready device; folds of another node that the port's leaf denies, and whose pages are no near memory. -/
theorem witness_HostAndNodeAccesses_more : let w := device 2 (sys [])
    let p := port0 (device 3 (sys []))
    w.dramBad = [] ∧ w.blockCode (dramFlat 0 / 128) ≠ 3 ∧ (∃ t, p.foldPagesAt (ingress 0) 17 va0.toNat (va0.toNat + 64) = (t, [⟨false, false, 0⟩])) ∧
      (∃ t, ({ p with tlb := [] } : State).foldPagesAt (ingress 0) 17 va0.toNat (va0.toNat + 64) = (t, [⟨true, false, 0⟩])) ∧
      (7 : BitVec 16) ∈ ({ w with ats := [7] } : State).ats ∧ 0xB270000000 < 0xB26FFFFFC0 + 64 + 64 ∧ 0xFFFFFFC0 < 2 ^ 32 ∧
      16 < (({ p with tlb := (List.range 17).map fun i => ⟨1536, va0.toNat / 65536 + i, false, leaf 0⟩ } : State).foldPagesAt (ingress 0) 17 va0.toNat (va0.toNat + 17 * 0x10000)).2.length ∧
      ((p.ports.toList[0]?).map (fun x => x.features.getLsbD 4) = some true ∧ ∃ u big pa, ({ p with tlb := [⟨1536, va0.toNat / 65536, false, nmLeaf⟩] } : State).translate (ingress 0) va0.toNat Req.read = .ok (u, nmLeaf, big, pa)) := by
  refine ⟨by decide, by decide, ⟨_, rfl⟩, ⟨_, rfl⟩, by decide, by decide, by decide, by decide, by decide, _, _, _, rfl⟩

/-- A load of va0 that faults, its upcall workspace at 0x8600. -/
def load0 : Access := ⟨.load 8 true, va0, 3⟩

def parked0 : Parked := ⟨homeOf (lineOf va0.toNat), load0, (sys []).owner, faultOf 0x40 1, 0⟩

def faulting : State := at0 { userCore [] with early := some (load0, 5, faultOf 0x40 1), ctl := { (userCore []).ctl with uws := 0x43 } }

theorem witness_ParkedAccesses : let s := sys []
    let u := { at0 { userCore [] with ctl := { (userCore []).ctl with uws := 0x43 }, out := some (⟨.lda 8 true true, 0x0001000100000000, 3⟩, none), outPort := some 0 } with remoteFaults := [] }
    let x : FarWrite := ⟨0, (sys []).owner, false, [(0x0001000100000000, 5)], none, some 0, lineOf 0x0001000100000000, false⟩
    let w := { sys [] with remoteWrites := [x] }
    let h := { held (sys []) 5 with retryWanted := 1, parks := [parked0] }
    let r := { sys [] with requests := [⟨va0.toNat, 1, false, 0, 0⟩], parks := [parked0] }
    (faulting.getCore 0).early = some (load0, 5, faultOf 0x40 1) ∧ (faulting.getCore 0).chunk = none ∧ (faulting.select 0).core.ctl.mode = .user ∧ faulting.parkCount 5 < 64 ∧
      (faulting.select 0).core.wp ≠ (faulting.select 0).core.uws ∧ bitAt ((faulting.select 0).core.spad.readLE 0x8518 8) 31 = false ∧ (faulting.select 0).core.switchCheck 0x8600 = none ∧
      faulting.trapReady 0x10 ∧ (u.getCore 0).out = some (⟨.lda 8 true true, 0x0001000100000000, 3⟩, none) ∧ u.heldBehind (u.getCore 0).outPort = false ∧
      (w.getCore 0).out = none ∧ w.remoteWrites[0]? = some x ∧ x.pcn = 0 ∧ (∀ v ∈ w.remoteWrites.take 0, v.pcn ≠ 0) ∧ w.heldBehind x.port = false ∧ w.parkCount 1536 < 64 ∧
      ({ w with parks := List.replicate 64 { parked0 with place := 1536 } } : State).parkCount 1536 = 64 ∧
      (∃ v, h.retry parked0 = .done v) ∧ h.isOwn va0.toNat = true ∧ h.hostWrites = [] ∧ s.retryWanted = 0 ∧ (∃ f, s.retry parked0 = .fault f ∧ f.kind = parked0.fault.kind) ∧
      r.requests[0]? = some ⟨va0.toNat, 1, false, 0, 0⟩ ∧ (0 : BitVec 16) = r.mgmt.ctxg ∧ r.ended = false := by
  refine ⟨by decide, by decide, by decide, by decide, by decide, by decide, by decide, by unfold State.trapReady; decide, by decide, by decide, by decide, by decide, by decide,
    by decide, by decide, by decide, by decide, ⟨_, rfl⟩, by decide, by decide, by decide, ⟨_, rfl, rfl⟩, by decide, by decide, by decide⟩

theorem witness_ParkedAccesses_retry : let s := held (sys [(4, va0), (5, 7)]) 5
    s.isOwn load0.va.toNat = true ∧ (∀ w ∈ s.hostWrites, w.pcn ≠ s.ownerCore (sys []).owner) ∧ s.heldAtHome va0.toNat Req.read (heldLine va0 5) ∧
      s.heldAtHome va0.toNat Req.write (heldLine va0 5) ∧ s.reservation = none ∧ (⟨.store 8 5, va0, 3⟩ : Access).va.toNat % 64 + 8 ≤ 64 :=
  ⟨by decide, by decide, heldAt _ (by decide), heldAt _ (by decide), rfl, by decide⟩

/-- A team record in the package queue. -/
def teamEntry : Entry := ⟨.team pair, 9, 0, 0, 0⟩

/-- Both cores wait in TAKE. -/
def waiting : State := { at0 { core0 [] with taking := true } with others := [{ core0 [] with pcn := 1, taking := true }], teams := [{ team0 .waiting with placed := false }], ring := [0] }

theorem witness_QueuesAndPlacement : let s := { sys [] with queues := [⟨.core 0, [], [entry1]⟩] }
    let p := { sys [] with queues := [⟨.package, [], [entry1]⟩], mgmt := { Mgmt.reset with pqsn := 8 } }
    let l := { sys [] with queues := [⟨.cluster 0, [entry1], []⟩] }
    let a := { sys [] with queues := [⟨.package, [teamEntry], []⟩] }
    (s.queue (queueOf 0)).upBlock ≠ [] ∧ (s.queue (.cluster 0)).entries.length + 1 ≤ 128 ∧ (p.queue (queueOf 1732)).upBlock ≠ [] ∧ 8 + p.spill.length ≤ p.mgmt.pqsn.toNat ∧
      l.wantsPull (queueOf 0) = true ∧ l.above (queueOf 0) ≠ [] ∧ teamEntry ∈ (a.queue .package).entries ∧ a.team 0 = none ∧ waiting.team 0 = some { team0 .waiting with placed := false } ∧
      (∀ c ∈ waiting.cores, c.forTeam 0 = false) ∧ ({ team0 .waiting with placed := false } : Team).scan waiting.idle = some (0, 0) ∧
      (∀ q ∈ memberSites pair 0 0, waiting.queue (.core q) = ⟨.core q, [], []⟩) := by decide

/-- The spill region at va0: its first place free, and then one record in it. -/
theorem witness_QueuesAndPlacement_spill : let s : State := { held (sys [(4, va0), (5, 7)]) 5 with mgmt := { (sys []).mgmt with pqsb := va0 } }
    let u : State := { s with spill := [entry1], spillAt := [(entry1.key, 0)] }
    s.mgmt.pqsb.toNat % 64 = 0 ∧ 2 ^ 32 ≤ s.mgmt.pqsb.toNat ∧ s.mgmt.pqsb.toNat < 2 ^ 57 ∧ s.isOwn s.mgmt.pqsb.toNat = true ∧ (∀ x ∈ s.spillAt, x.2 ≠ 0) ∧
      s.reservation = none ∧ s.heldAtHome va0.toNat Req.write (heldLine va0 5) ∧ u.heldAtHome va0.toNat Req.read (heldLine va0 5) ∧
      u.spillAt.find? (fun x => x.1 == entry1.key) = some (entry1.key, 0) ∧ (∀ k, ({ s with mgmt := { s.mgmt with pqsb := 2 ^ 57 } } : State).spillVa k = none) ∧ queueOf 0 ∈ (({ sys [] with pulls := [queueOf 0] } : State).noteLow (queueOf 0)).pulls := by
  refine ⟨by decide, by decide, by decide, by decide, by decide, rfl, ⟨rfl, rfl, rfl, by decide, rfl, by decide, rfl⟩, ⟨rfl, rfl, rfl, by decide, rfl, by decide, rfl⟩, by decide, fun k => ?_, by decide⟩
  have h : ((2 : BitVec 64) ^ 57).toNat = 2 ^ 57 := by decide
  simp only [State.spillVa, h]
  exact if_neg (by omega)

theorem witness_QueuesAndPlacement_quantum : let s := { pairAt .idle .idle with ring := [1], teams := [team0 .resident, { team0 .waiting with slot := 1, placed := false }] }
    let m := at0 { core0 [] with marked := some (1, 0), slice := .plain }
    s.team 0 = some (team0 .resident) ∧ (team0 .resident).quantumEnd.toNat ≤ s.tb.toNat ∧ (∀ c ∈ s.cores, c.forTeam 1 = false) ∧
      ({ team0 .waiting with slot := 1, placed := false } : Team).scan (s.modTeam 0 fun m => { m with expired := true }).qualifies = some (0, 0) ∧
      (m.getCore 0).marked = some (1, 0) ∧ (m.getCore 0).slice = .plain ∧ ({ m with tb := 0x400000 } : State).mgmt.quantum.toNat ≤ 0x400000 := by decide

/-- A member in the WFE of its pre-empt handler, its block at 0x20000; then acknowledged, swapped out, and about to come back. -/
def handler : State :=
  { at0 { dws (member 0 .idle) 0x158 [0x20000] with irq := { Irq.reset with preempt := some (1, true) } } with teams := [team0 .resident] }

def leaving : State :=
  { at0 { member 0 .idle with acked := true } with others := [{ member 1 .idle with finished := true }], teams := [team0 .leaving] }

def arriving : State := { sys [] with teams := [{ team0 .arriving with images := [(member 0 .idle).image] }] }

theorem witness_TeamSwaps : handler.issuesAlone [] [] ∧ handler.core.acked = false ∧ handler.ackWith = some 0x20000 ∧ leaving.team 0 = some (team0 .leaving) ∧
    pair.size ≤ pair.width * pair.height ∧ (∀ p ∈ (team0 .leaving).sites, (leaving.getCore p).finished = false → (leaving.getCore p).acked = true ∧
      (∀ q, q < 4 → ((leaving.getCore p).queue q).cmds = []) ∧ ((leaving.getCore p).queue 4).cmds = []) ∧
    (∃ t, arriving.team 0 = some t ∧ t.status = .arriving ∧ (∃ i ∈ t.images, i.index < t.trec.size) ∧ (t.images.map (·.index)).Nodup) := by
  refine ⟨by unfold State.issuesAlone State.starts State.regsFree; decide, by decide, by decide, by decide, by decide, by decide, ⟨_, rfl, by decide, by decide, by decide⟩⟩

/-- A pre-empt taken by a member's handler; a member behind whose FOLDWAIT nothing else is under way; and a member that comes back without counts in its block. -/
theorem witness_TeamSwaps_members : handler.core.irq.preempt = some (1, true) ∧ handler.core.slice = .member 0 ∧ (handler.team 0).isSome = true ∧ handler.core.ctl.mode = .system ∧
    ({ leaving with core := fill (leaving.core) 4 1 (cmd 0x51) }.getCore 0).queue 4 = ⟨[cmd 0x51], [], []⟩ ∧ (cmd 0x51).isFoldWait = true ∧
    (∀ b, leaving.core.phase ≠ .running b) ∧ 1 ≤ pair.width ∧ (team0 .leaving).x0 + pair.width ≤ 48 ∧ (team0 .leaving).y0 + pair.height ≤ 32 ∧
    ((member 0 .idle).image.record.readLE (member 0 .idle).image.csb 1) = 0 ∧ (team0 .arriving).trec.size = 2 := by
  refine ⟨by decide, by decide, by decide, by decide, by decide, by decide, ?_, by decide, by decide, by decide, by decide, by decide⟩
  intro b h; cases h

/-- Entries of a timetable: a send on the loop port 4 at offset 0 from line 0x400, and a receive from it. -/
def sendEntry : BitVec 64 := BitVec.ofNat 64 (4 * 2 ^ 28 + 0x400 * 2 ^ 32 + 2 ^ 48)

def takeEntry (act : Nat) : BitVec 64 := BitVec.ofNat 64 (1 + act * 2 ^ 24 + (if act % 2 = 0 then 1 else 4) * 2 ^ 28 + (if act = 4 then 0 else 0x400 * 2 ^ 32) + 2 ^ 48)

def lone (tt : List (BitVec 64)) (fl : List Flit) : State :=
  { at0 { member 0 (.running true) with timetable := tt } with teams := [{ team0 .resident with trec := { pair with size := 1, ttp := va0 } }], flits := fl, tb := 1 }

theorem witness_Timetables : let s := { lines (lone [] []) [va0.toNat + 16 + 2 ^ 64 + sendEntry.toNat * 2 ^ 128] with core := { member 0 .idle with regs := (core0 []).regs } }
    let a := lone [sendEntry] []
    let f : Flit := ⟨0, 0, 0, 0, 4, 1, 7, 0, 0⟩
    let r := lone [takeEntry 1] [f]
    s.issuesAlone [0] [] ∧ s.ownTeam.isSome = true ∧ s.core.phaseOpen = false ∧ s.earlierDone 0 = true ∧ (s.ownTeam.map fun m => m.trec.ttp) = some va0 ∧
      (∃ u d w v, s.engReadRange 0 va0.toNat 16 = .ok u d ∧ d % 2 ^ 64 = va0.toNat + 16 ∧ d / 2 ^ 64 % 2 ^ 32 = 1 ∧ u.engReadRange 0 (va0.toNat + 16) 8 = .ok w v ∧
        ttEntryOk (BitVec.ofNat 64 v) = true) ∧
      (∃ m, a.siteTeam 0 = some (m, 0) ∧ m.stopped = false ∧ m.rel.toNat + 0 ≤ a.tb.toNat ∧ a.stray m 0 = none) ∧ (0, 0) ∈ (a.getCore 0).ttPending ∧
      Core.ttCollision { a.getCore 0 with ttDone := [(0, 0)] } 0 0 0 sendEntry = false ∧ linkOf 0 4 = some (0, 1) ∧ (a.getCore 0).badWord 0x10000 64 = none ∧
      (∃ m, r.siteTeam 0 = some (m, 0) ∧ r.stray m 1 = none) ∧ r.flits.find? (fun f => f.slot == 0 && f.gen == 0 && f.dst == 0 && f.port == 4 && f.due == 1) = some f ∧
      (0, 0) ∈ (r.getCore 0).ttPending ∧ (r.getCore 0).stationary 0x10000 = false ∧ ttEntryOk (takeEntry 4) = true ∧ ttEntryOk (takeEntry 2) = true ∧ ttEntryOk (takeEntry 3) = true := by
  refine ⟨?_, ?_, ?_, ?_, ?_, ⟨_, _, _, _, rfl, by decide, by decide, rfl, by decide⟩, ⟨_, rfl, ?_, ?_, ?_⟩, ?_, ?_, ?_, ?_, ⟨_, rfl, ?_⟩, ?_, ?_, ?_, ?_, ?_, ?_⟩ <;>
    (try unfold State.issuesAlone State.starts State.regsFree) <;> decide

/-- A user core with an interrupt pending, in a slice, ready at a boundary. -/
def interrupted (i : Irq) : State := at0 { userCore [] with irq := i, slice := .plain }

theorem witness_CoreEvents : let s := interrupted { Irq.reset with tt := some 5, preempt := some (1, false), timer := true, event := true, budget := true }
    let f := at0 { core0 [] with fired := [(3, 0, cmd ctswap)] }
    let g := at0 { fill (core0 []) 0 32 (cmd ctswap) with fired := [(3, 0, cmd ctswap)] }
    let e := at0 { core0 [] with ecc := [(7, true)] }
    ((s.getCore 0).run = .running ∧ (s.getCore 0).acked = false ∧ (s.getCore 0).out = none ∧ (s.getCore 0).closing = false ∧ (s.getCore 0).chunk = none) ∧
      (s.getCore 0).wp ≠ (s.getCore 0).twp ∧ (s.getCore 0).irq.tt = some 5 ∧ (∀ k ∈ [0x0A, 0x20, 0x21, 0x22, 0x07], (s.select 0).trapReady k) ∧
      (interrupted { Irq.reset with preempt := some (1, false) }).core.inPhase = false ∧ (s.getCore 0).inBar = false ∧ (s.getCore 0).ctl.mode = .user ∧
      (s.getCore 0).slice ≠ .none ∧ (s.getCore 0).ctl.dl.toNat ≤ s.tb.toNat ∧ (f.getCore 0).fired = [(3, 0, cmd ctswap)] ∧ (f.getCore 0).room 0 (cmd ctswap) = true ∧
      (g.getCore 0).room 0 (cmd ctswap) = false ∧ (e.select 0).rangeBusy (64 * (e.getCore 0).scrub) 64 = false ∧ (e.getCore 0).badWord 0 64 = some 56 ∧ (f.getCore 0).badWord 0 64 = none := by
  unfold State.trapReady; decide

/-- What a core that has just started, or whose deadline TB has not reached, answers; and a correctable error for its scrubber. -/
theorem witness_CoreEvents_more : let s := interrupted { Irq.reset with preempt := some (1, false), timer := true }
    let e := at0 { core0 [] with ecc := [(7, false)] }
    (s.getCore 0).sent = false ∧ ((interrupted Irq.reset).getCore 0).irq.timerTaken = false ∧ ((sys []).getCore 0).slice = .none ∧
      (interrupted { Irq.reset with event := true }).core.irq.preempt = none ∧ (e.getCore 0).badWord 0 64 = none ∧ (e.select 0).rangeBusy 0 64 = false ∧
      ((at0 { core0 [] with fired := [(3, 0, cmd ctswap)], acked := true }).getCore 0).acked = true ∧ (∀ r ∈ (cmd ctswap).spans, (core0 []).ttStall true r.1 r.2 = false) := by decide

/-- The launch queue holds one record, its doorbell rung. -/
def launching (n : BitVec 3) (v : Nat) : State := device n { sys [] with mgmt := { Mgmt.reset with doorbell := 1, lq := Memory.writeLE [] 0 128 v } }

/-- A header with one 8-bit field and no lists, at va0. -/
def head0 : Nat := 1 + 0xFF * 2 ^ 8 + 8 * 2 ^ 16

theorem witness_ContextLife : let s := launching 2 (1 + va0.toNat * 2 ^ 128)
    let u := lines s [head0]
    let t := launching 3 2
    s.mgmt.lqhead ≠ s.mgmt.doorbell ∧ s.initial = [] ∧ s.mgmt.state ≠ 4 ∧ s.mgmt.lq.readLE 0 1 = 1 ∧ s.mgmt.lq.readLE 16 8 = va0.toNat ∧
      (∃ v x, u.prepareStart va0.toNat = .ok v x ∧ x.recs = []) ∧ (launching 3 6).mgmt.lq.readLE 0 1 = 6 ∧ t.mgmt.lq.readLE 0 1 = 2 ∧ t.taskOk (taskOf 0) = true ∧
      t.accepts .package = true ∧ t.taskOk (taskOf 1) = false ∧ t.teamOk 0 = false ∧ ({ t with header := ⟨1, 0, [8, 0, 0, 0, 0, 0]⟩ } : State).teamOk (0x01010001 * 2 ^ 256) = true ∧
      (launching 5 5).seqQueue = [] ∧ (device 4 State.reset).isQuiescent = true := by
  refine ⟨by decide, by decide, by decide, by decide, by decide, ⟨_, _, rfl, by decide⟩, ?_⟩; decide

/-- A port that carries launches and residency reports; a STOP, an END with one dirty line, and a launch from the rack. -/
theorem witness_ContextLife_more : let p := port0 (device 3 (sys []))
    let e := { launching 5 5 with l2 := [{ heldLine va0 5 with dirty := true }] }
    (sys []).anyPort 4 = false ∧ p.anyPort 4 = true ∧ (sys []).anyPort 8 = false ∧ p.anyPort 8 = true ∧ p.taskOk (taskOf 0) = true ∧ p.accepts .package = true ∧ p.initial = [] ∧
      (port0 (device 2 (sys []))).mgmt.state.toNat < 3 ∧ (∀ l ∈ e.l2, l.bad = false) ∧ e.seqQueue = [] ∧ (launching 3 4).mgmt.lq.readLE 0 1 = 4 ∧
      (launching 3 4).mgmt.lqhead ≠ (launching 3 4).mgmt.doorbell ∧ (launching 5 5).mgmt.lq.readLE 0 1 = 5 ∧ (launching 2 (1 + 2 ^ 60)).mgmt.lq.read 7 ≠ 0 := by decide

theorem witness_Management : (device 2 State.reset).mgmt.state ≠ 0 ∧ 2 ≤ (device 2 State.reset).mgmt.state.toNat ∧
    ((64 : BitVec 16) - State.reset.mgmt.lqhead).toNat ≤ 64 ∧ 64 < ((65 : BitVec 16) - State.reset.mgmt.lqhead).toNat ∧
    (State.reset.port 11).up = false ∧ ((port0 State.reset).port 0).up = true ∧ (∀ c ∈ State.reset.cores, c.out = none) ∧ ({ State.reset with measured := true } : State).measured = true ∧
    (0x0100 : BitVec 16).toNat / 256 = 1 ∧ (0x0200 : BitVec 16).toNat / 256 ≠ 1 ∧ (device 3 State.reset).mgmt.state ≠ 2 := by decide

theorem witness_Management_more : let s := device 2 State.reset
    let h (t : Word) : State := { s with mgmt := { s.mgmt with therm := t } }
    s.remoteWrites = [] ∧ (∀ c ∈ s.cores, c.outPort = none) ∧ s.tb.toNat < ({ s with eolNext := 9 } : State).eolNext ∧ ({ s with eolNext := 0 } : State).eolNext ≤ s.tb.toNat ∧
      (h 9).mgmt.therm.toNat % 65536 < 1760 ∧ 1760 ≤ (h 1760).mgmt.therm.toNat % 65536 := by decide

theorem witness_PrivilegeKept : (Instr.add 3 4 5).wf = true ∧ (encode (Instr.add 3 4 5)).isSome = true ∧ (user []).core.ctl.mode = .user ∧
    ∃ t, exec (.add 3 4 5) (user []) = .next t ∧ (t.core.ctl.mode == Mode.user) = true := ⟨rfl, rfl, rfl, ex_of_next (by decide)⟩

/-! ## Further clauses: refusals, forms and boundary values -/

theorem witness_GlobalAccesses_refused : let s (a : Word) : State := sys [(4, a)]
    (s (va0 + 1)).issues [4] [3] ∧ (s (va0 + 1)).core.refused false (va0.toNat + 1) 8 0x02 ∧ (s (2 ^ 57)).issues [4, 5] [] ∧
      (s (2 ^ 57)).core.refused true (2 ^ 57) 8 0x04 := by
  refine ⟨?_, .inl (by decide), ?_, .inr ⟨by decide, .inr (by decide)⟩⟩ <;> unfold State.issues State.starts State.regsFree <;> decide

/-- R21 for LDA, STR, atomics and CAS: misaligned, local, at 2^57. -/
theorem witness_refusedGlobal : refusedGlobal (va0.toNat + 1) 2 0x02 ∧ refusedGlobal 0xFFFFFFF8 8 0x03 ∧ refusedGlobal (2 ^ 57) 4 0x04 ∧
    (sys [(4, va0 + 1)]).issuesAlone [4] [3] ∧ (sys [(4, 0xFFFFFFF8)]).issuesAlone [4, 5] [3] ∧ (sys [(4, 0x200000000000000)]).issuesAlone [4, 5, 3] [3] := by
  refine ⟨.inl (by decide), .inr ⟨by decide, .inl (by decide)⟩, .inr ⟨by decide, .inr (by decide)⟩, ?_, ?_, ?_⟩ <;>
    unfold State.issuesAlone State.starts State.regsFree <;> decide

/-- Leaves of the page of va0 at its home and at the three replica homes. -/
def paged (l : Word) (s : State) : State := { s with tlb := (List.range 4).map fun d => ⟨replHome (lineOf va0.toNat) d, va0.toNat / 65536, false, l⟩ }

/-- A leaf of a replicated page. -/
def replLeaf : Word := leaf (9 * 2 ^ 48) + 0x80

/-- STR to a line that its home does not hold, to a replicated page and to host memory. -/
theorem witness_AcquireAndRelease_forms : let s := paged (leaf 0) (sys [(4, va0), (5, 7)])
    let r := paged replLeaf (sys [(4, va0), (5, 7)])
    s.issuesAlone [4, 5] [] ∧ r.issuesAlone [4, 5] [] ∧ (∃ u, (s.landCleans 0).writeCheck va0.toNat Req.write = .ok (u, .own (leaf 0) 0) ∧ u.l2 = []) ∧
      (∃ u, (r.landCleans 0).writeCheck va0.toNat Req.write = .ok (u, .repl replLeaf (9 * 2 ^ 48))) ∧ s.deferred 0 (sigBit (lineOf va0.toNat)) = false ∧ r.seqQueue = [] ∧
      ∃ u h, ((heldHost (sys [(4, va0), (5, 7)])).landCleans 0).writeCheck va0.toNat Req.write = .ok (u, .host h) := by
  refine ⟨?_, ?_, ⟨_, rfl, rfl⟩, ⟨_, rfl⟩, by decide, by decide, ⟨_, _, rfl⟩⟩ <;> unfold State.issuesAlone State.starts State.regsFree <;> decide

/-- Words of every class of the IEEE-style formats, and sums that cancel. -/
theorem witness_IeeeRounding_classes : ieee16.isNaN 0x7C01 = true ∧ ieee16.isSig 0x7C01 = true ∧ ieee16.isSig 0x7E00 = false ∧ ieee16.isInf 0xFC00 = true ∧
    ieee16.isNeg 0xFC00 = true ∧ ieee16.isZero 0x8000 = true ∧ ieee16.isNaN 0xFBFF = false ∧ 0xFFFF < 2 ^ ieee16.width ∧ ieee16.units 1 = 1 ∧
    ieee16.units 0x3C00 * ieee16.units 0x3C00 + ieee16.units 0xBC00 * ieee16.one = 0 := by decide

theorem witness_TaperRounding_classes : tap8.nar ∈ [0x80, 0x40] ∧ 0x80 < 2 ^ tap8.n ∧ tap8.nar < 0xFF ∧ 0xFF < 2 ^ tap8.n ∧ (0x7F : Nat) ≠ tap8.nar := by decide

/-- A conversion of each kind, at the ends of the operands. -/
theorem witness_ConvertAndClassify_kinds : (10 : BitVec 4).toNat ≤ 10 ∧ (true = true → 7 ≤ (10 : BitVec 4).toNat) ∧ 2 ^ 64 - 1 < 2 ^ (fmtKind 10).width ∧
    0x3F < 2 ^ (fmtKind 6).width ∧ fmtKind 6 = .lns ∧ fmtKind 7 ≠ fmtKind 8 ∧ (5 < 2 ^ 32) := by decide

theorem witness_VectorArithmetic_integers : 8 ∈ [8, 16, 32, 64] ∧ 0xFF < 2 ^ 8 ∧ 64 ∈ [8, 16, 32, 64] ∧ 2 ^ 64 - 1 < 2 ^ 64 := by decide

/-- Zeros, infinities, a NaN, a negative number and powers of two of f16 and tap16. -/
theorem witness_VectorFunctionsAndFills_words : ieee16 ∈ [ieeeBf16, ieee16] ∧ ieee16.isNaN 0xFFFF = true ∧ ieee16.isInf 0x7C00 = true ∧ ieee16.isZero 0 = true ∧
    ieee16.isFinite 0xBC00 ∧ ieee16.units 0xBC00 < 0 ∧ ieee16.isFinite 0x4000 ∧ ieee16.units 0x4000 = 2 ^ 25 ∧ tap16.units 0x4000 = 2 ^ 256 ∧ 0x8000 < 0xC000 ∧
    0xC000 < 2 ^ 16 := by unfold Ieee.isFinite; decide

/-- No direct range is refused: system mode, aligned backed ranges, no stationary macro. -/
theorem unrefused (c : Core) (rs : List VRange) (hm : c.ctl.mode = .system) (hs : ∀ a, c.stationary a = false)
    (hr : ∀ r ∈ rs, r.ptr % r.align = 0 ∧ r.lo + r.len ≤ 0x60000) (e a : Nat) : ¬c.directRefused rs e a := by
  rintro (⟨i, r, hi, hn, _⟩ | ⟨_, i, r, hi, ⟨_, hl, _⟩, hg, _⟩)
  · exact hn (hr r (List.mem_of_getElem? hi)).1
  · have h := (hr r (List.mem_of_getElem? hi)).2
    simp only [Core.granuleRefused, Core.localRefused, Core.barred, hm, hs] at hg
    rcases hg with ⟨_, ⟨h | h, _⟩ | h⟩ | ⟨_, _, ⟨h | h, _⟩ | h⟩ <;> first | omega | simp at h

theorem stays (rs : List (Nat × Word)) (a : Nat) : (core0 rs).marks = (Core.reset 0).marks → (core0 rs).stationary a = false := by
  intro h
  unfold Core.stationary
  split
  · next hm => rw [h]; simp [Core.reset]
  · rfl

theorem free3 : ∀ e a, ¬vec3.core.directRefused [vRange 0 0x10000 1 4 true true, vRange 0 0x10008 1 4 false true] e a :=
  unrefused _ _ rfl (fun a => stays _ a rfl) (by decide)

/-- A misaligned pointer, a range past the scratchpad's end, an overlap. -/
theorem witness_vectorRefused : vec3.core.vectorRefused [vRange 0 0x10000 1 4 true true, vRange 0 0x11002 1 4 false true] 0x02 0x11002 ∧
    vec3.core.vectorRefused [vRange 0 0x5FFF4 1 4 true false] 0x03 0x60000 ∧ vec3.core.vectorRefused [vRange 0 0x10000 1 4 true true, vRange 0 0x10008 1 4 false true] 0x03 0x1000C := by
  refine ⟨.inl (.inl ⟨1, _, rfl, by decide, ?_, rfl, rfl⟩), .inl (.inr ⟨by decide, 0, _, rfl, by decide, .inl ⟨rfl, .inl ⟨.inl (by decide), rfl⟩⟩, ?_, fun j q h => absurd h (by omega)⟩),
    .inr ⟨free3, ⟨⟨_, List.mem_cons_self .., _, List.mem_cons_of_mem _ (List.mem_cons_self ..), by decide⟩, ?_⟩, rfl⟩⟩
  · intro j q h hq
    obtain rfl : j = 0 := by omega
    obtain rfl := Option.some.inj hq
    decide
  · rintro a ⟨h1, h2, h3⟩ h ⟨e, h4⟩
    simp only [show vRange 0 0x5FFF4 1 4 true false = ⟨0x5FFF4, 4, 0x5FFF8, 12, true, false⟩ from rfl] at h1 h2 h3 h4
    simp only [Core.granuleRefused, Core.localRefused, Core.barred, show vec3.core.ctl.mode = .system from rfl, show vec3.core.stationary a = false from stays _ a rfl] at h4
    rcases h4 with ⟨_, ⟨h | h, _⟩ | h⟩ | ⟨h, _⟩ <;> first | omega | simp at h
  · rintro a h ⟨w, hw, r, hr, h1, h2, h3⟩
    have e1 : vRange 0 0x10000 1 4 true true = ⟨0x10000, 4, 0x10004, 12, true, true⟩ := rfl
    have e2 : vRange 0 0x10008 1 4 false true = ⟨0x10008, 4, 0x1000C, 12, false, true⟩ := rfl
    rw [e1, e2] at hw hr
    simp only [List.mem_cons, List.not_mem_nil, or_false] at hw hr
    rcases hw with rfl | rfl <;> rcases hr with rfl | rfl <;> simp at h1 h2 h3 <;> omega

/-- VGATH from a base. -/
def gathering (a : Word) : State := vec 4 1 [(3, 0x10000), (4, a), (5, 0x12000)]

/-- VGATH whose first element is misaligned, unbacked, or in the destination. -/
theorem witness_GatherAndScatter_refused : let list := vRange 9 0x12000 1 4 false true
    (∀ a e x, ¬(gathering a).core.directRefused [vRange 0 0x10000 1 4 true false, list] e x) ∧ (gathering 0x11002).issuesAlone [4, 5, 3] [3, 5] ∧
      (gathering 0x11002).vBusy [list] = false ∧ (gathering 0x11002).core.vBad [list] = none ∧ (gathering 0x11002).core.spad.readLE 0x12004 4 = 0 ∧ 1 ∈ (List.range 4).drop 1 ∧
      (gathering 0x60000).core.localRefused false 0x60000 0x03 ∧ (∀ e, ¬(gathering 0x10004).core.localRefused false 0x10004 e) ∧
      ∃ r ∈ [vRange 0 0x10000 1 4 true false, list], r.store = true ∧ ¬(r.lo = 0x10004 ∧ r.len = 4) ∧ r.lo ≤ 0x10004 ∧ 0x10004 < r.lo + r.len := by
  refine ⟨fun a => unrefused _ _ rfl (fun b => stays _ b rfl) (by decide), ?_, by decide, by decide, by decide, by decide, .inl ⟨.inl (by decide), rfl⟩, ?_, by decide⟩
  · unfold State.issuesAlone State.starts State.regsFree; decide
  · intro e h
    simp only [Core.localRefused, Core.barred, show (gathering 0x10004).core.ctl.mode = .system from rfl] at h
    rcases h with ⟨h | h, _⟩ | h <;> simp at h

/-- The lists of registers of an instruction; a core with an open chunk, and one with a poisoned or a pending register. -/
theorem witness_PoisonAndPending_all : (Instr.add 3 4 5).regs = some (false, [4, 5], [3]) ∧ encode (.add 3 4 5) = some 0x0C642800 ∧ (Instr.fenceS).regs = some (true, [], []) ∧
    (at0 (core0 []).openChunk).core.chunk.isSome = true ∧ (at0 (core0 []).openChunk).starts ∧ (Instr.add 3 4 5).systemOnly = false ∧ (Instr.eret).systemOnly = true ∧
    (sys []).core.ctl.mode = .system ∧ (∃ x ∈ [4, 5] ++ [3], (at0 { core0 [] with pend := 0x20 }).core.pending x = true) := by unfold State.starts; decide

/-- An UPRET whose record is valid, to a workspace above the scratchpad's end. -/
theorem witness_ReturnsAndSwitches_upret : let t := at0 (dws (core0 [(4, 0x5FF00)]) 0x5FF00 [0])
    t.issuesAlone [4] [] ∧ t.core.badWord (0x8600 + 0x100) 32 = none ∧ (at0 { dws (core0 [(4, 0x8600)]) 0x8718 [2 ^ 31] with ecc := [(0x8608 / 8, true)] }).core.switchBad 0x8600 = some 0x8608 ∧
    (at0 { dws (core0 [(4, 0x8600)]) 0x8718 [2 ^ 31] with marks := (core0 []).marks.setIfInBounds 2 0x80000000 }).core.switchCheck 0x8600 = some 0x06 ∧
    (at0 { dws (core0 [(4, 0x8600)]) 0x8718 [2 ^ 31] with ecc := [(0x8608 / 8, true)] }).core.switchCheck 0x8600 = none := by
  unfold State.issuesAlone State.starts State.regsFree; decide

/-- TINV of two pages below 2^32, past 2^57, and of two nodes. -/
theorem witness_SystemInstructions_refused : let s (a : Word) := sys [(4, a), (5, 131072)]
    (s 0xFFFE0000).issuesAlone [4, 5] [] ∧ (s 0x0200000000000000).issuesAlone [4, 5] [] ∧ (s 0x0000FFFFFFFF0000).issuesAlone [4, 5] [] ∧
      0x0000FFFFFFFF0000 % 65536 = 0 ∧ 2 ^ 57 < (0x0200000000000000 : Word).toNat + 131072 ∧ nodeOf 0x0000FFFFFFFF0000 = 0 ∧
      nodeOf (0x0000FFFFFFFF0000 + 131072 - 1) ≠ (sys []).core.ctl.node.toNat := by
  refine ⟨?_, ?_, ?_, by decide, by decide, by decide, by decide⟩ <;> unfold State.issuesAlone State.starts State.regsFree <;> decide

/-- A phase ends beside a member whose core a double trap has stopped. -/
theorem witness_Barriers_halted : let t := { pairAt (.running false) (.running true) with others := [{ member 1 (.running true) with run := .halted }] }
    (∃ p ∈ [0, 1], (t.getCore p).run ≠ .halted) ∧ (∀ p ∈ [0, 1], (t.getCore p).run = .halted → (t.getCore p).slice = .member 0) ∧ (t.getCore 1).run = .halted ∧
      ∀ p ∈ [0, 1], (∃ b, (t.getCore p).phase = .running b) ∧ (t.getCore p).ttPending = [] := by decide

/-- Words of pushes: CTSWAP, one with bit 12 set, a JPART whose block is misaligned, a GET to 0x7F00. -/
def pushing (c : Core) (p : Nat) (w : Nat) : State := at0 (dws (c.setReg 4 (BitVec.ofNat 64 p)) p [w % 2 ^ 64, w / 2 ^ 64 % 2 ^ 64, w / 2 ^ 128 % 2 ^ 64, w / 2 ^ 192])

theorem readable (c : Core) (p w : Nat) (h : let s := pushing c p w
    p % 32 = 0 ∧ s.core.rangeCheck false p 32 = none ∧ s.rangeBusy p 32 = false ∧ s.core.ttStall false p 32 = false ∧ s.core.badWord p 32 = none) : (pushing c p w).operandReadable p 32 := h

/-- The command may be read, and is no join. -/
theorem reads (c : Core) (p w : Nat) (h : let s := pushing c p w
    s.core.copied = none ∧ (p % 32 = 0 ∧ s.core.rangeCheck false p 32 = none ∧ s.rangeBusy p 32 = false ∧ s.core.ttStall false p 32 = false ∧ s.core.badWord p 32 = none) ∧
      w = s.core.localRead p 32 ∧ codeListed (bits w 7 4) (bits w 3 0) = true ∧ bits w 14 12 = 0 ∧ isJoin (bits w 7 4) (bits w 3 0) = false) : ∃ z, (pushing c p w).pushReads p w 0 z := by
  obtain ⟨h1, h2, h3, h4, h5, h6⟩ := h
  refine ⟨(pushing c p w).heal ((pushing c p w).core.softWords p 32), .inl ⟨h1, h2, h3, h4, h5, ?_⟩⟩
  rw [h6]
  exact ⟨rfl, rfl⟩

/-- R344: a misaligned pointer, one that user mode may not read, a reserved bit, another queue, a join's misaligned block. -/
theorem witness_QueueInstructions_refused : (pushing (core0 []) 0x10008 ctswap).issuesAlone [4] [3] ∧ (pushing (userCore []) 0x7FE0 ctswap).issuesAlone [4] [3] ∧
    (pushing (userCore []) 0x7FE0 ctswap).core.localRefused false 0x7FE0 0x03 ∧ (pushing (core0 []) 0x10000 (ctswap + 0x1000)).operandReadable 0x10000 32 ∧
    bits ((pushing (core0 []) 0x10000 (ctswap + 0x1000)).core.localRead 0x10000 32) 14 12 ≠ 0 ∧ (pushing (core0 []) 0x10000 ctswap).operandReadable 0x10000 32 ∧
    (1 : BitVec 4).toNat ≠ bits ctswap 7 4 - 1 ∧ (pushing (core0 []) 0x10000 (0x44 + 0x12008 * 2 ^ 64)).operandReadable 0x10000 32 ∧
    (pushing (core0 []) 0x10000 (0x44 + 0x12008 * 2 ^ 64)).core.localRead 0x10000 32 = 0x44 + 0x12008 * 2 ^ 64 ∧ isJoin 4 4 = true ∧ codeListed 4 4 = true ∧ 0x12008 % 64 ≠ 0 := by
  refine ⟨?_, ?_, .inl ⟨.inr ⟨rfl, .inl (by decide)⟩, rfl⟩, readable _ _ _ (by decide), by decide, readable _ _ _ (by decide), by decide, readable _ _ _ (by decide), by decide, by decide, by decide, by decide⟩ <;>
    unfold State.issuesAlone State.starts State.regsFree <;> decide

/-- A GET that writes 16 bytes below the execute boundary, and one that writes into a stationary macro. -/
def get (at_ : Nat) : Nat := 0x20 + 2 ^ 32 + 2 ^ 48 + va0.toNat * 2 ^ 64 + at_ * 2 ^ 128 + 16 * 2 ^ 160

theorem witness_QueueInstructions_ranges : let s := pushing (userCore []) 0x10000 (get 0x7F00)
    let t := pushing { core0 [] with marks := (core0 []).marks.setIfInBounds 8 0x80000000 } 0x10000 (get 0x20000)
    (∃ z, s.pushReads 0x10000 (get 0x7F00) 0 z) ∧ s.core.cmdUse (get 0x7F00) 0 = some ⟨[(0x7F00, 16)], []⟩ ∧ s.core.useRefused (get 0x7F00) ⟨[(0x7F00, 16)], []⟩ 0x03 0x7F00 ∧
      (∃ z, t.pushReads 0x10000 (get 0x20000) 0 z) ∧ t.core.cmdUse (get 0x20000) 0 = some ⟨[(0x20000, 16)], []⟩ ∧ t.core.useRefused (get 0x20000) ⟨[(0x20000, 16)], []⟩ 0x06 0x20000 := by
  have noJoin (s : State) (w : Nat) (h : isJoin (bits w 7 4) (bits w 3 0) = false) (x : Nat) :
      ¬firstGranule (if isJoin (bits w 7 4) (bits w 3 0) = true then [(bits w 127 64, 64)] else []) (s.core.barred false) x := by
    rw [h]; rintro ⟨i, r, hi, _⟩; simp at hi
  refine ⟨reads _ _ _ (by decide), by decide, ?_, reads _ _ _ (by decide), by decide, ?_⟩
  · refine .inl ⟨rfl, .inr ⟨noJoin _ _ (by decide), .inl ⟨0, _, rfl, by decide, ⟨rfl, .inl (by decide)⟩, ?_, fun j q h => absurd h (by omega)⟩⟩⟩
    rintro a ⟨h1, _⟩ h
    simp at h1
    omega
  · refine .inr ⟨rfl, fun x h => ?_, 0, _, rfl, by decide, by decide, ?_, fun j q h => absurd h (by omega)⟩
    · rcases h with h | ⟨_, h | ⟨_, h⟩⟩
      · exact noJoin _ _ (by decide) x h
      · obtain ⟨_, _, _, _, h, _⟩ := h; exact absurd h.1 (by decide)
      · obtain ⟨_, _, hi, _⟩ := h; simp at hi
    · rintro a ⟨h1, _⟩ h
      simp at h1
      omega

/-- An MSENDW that its timeout ends at the instruction, and one before it. -/
theorem witness_MessageInstructions_timeout : let t := { mailing [(4, 0x10000), (5, 2)] [] (some (0, 2)) with tb := 2 ^ 20 }
    (∃ z, t.recordAt 0x10000 32 1 z) ∧ t.core.msendw = some (0, 2) ∧ (0 : Word).toNat + 2 ^ 20 ≤ t.tb.toNat ∧ t.issuesAlone [4, 5] [3] := by
  refine ⟨records _ _ _ (by decide), by decide, by decide, ?_⟩
  unfold State.issuesAlone State.starts State.regsFree; decide

/-- A RUN that a SAVE has stopped; cores 0 and 1 with a command on a macro of the other. -/
theorem witness_MatrixRun_begun : let s := at0 { fill (core0 []) 0 1 { cmd run1 with begun := some start1 } with marks := (core0 []).marks.setIfInBounds 8 0x84000000 }
    s.headCmd 0 0 1 0 = some { cmd run1 with begun := some start1 } ∧ s.findGrid 0 (mxRunOf run1) = some ([(0, 0, 0, 8)], 4) := by decide

theorem witness_MatrixSaveRestore_lends : let k := cmd (0x11 + 0x10000 * 2 ^ 64)
    let s := { at0 (fill (core0 []) 0 1 k) with others := [{ fill (core0 []) 0 1 { cmd run1 with started := some start1 } with pcn := 1 }] }
    (s.getCore 0).mxControl = some k ∧ k.code = 1 ∧ (s.mxStop 0).lendsMacro 0 = true := by decide

/-- Three contributions of the die under way leave one copy engine. -/
theorem witness_CopyEngines_engines : let s : State := { at0 (fill (core0 []) 2 2 (cmd copy1)) with folds := List.replicate 3 ⟨va0.toNat, 64, 0, 5, 0, [5], 0, 0, 0⟩ }
    (((s.getCore 0).queue 2).cmds.filter fun y => !y.sent)[(s.getCore 0).pick]? = some (cmd copy1) ∧ (cmd copy1).table = none ∧ (cmd copy1).cls = 3 ∧
      (s.folds.filter fun c => c.sender < 2048 ∧ c.sender / 384 = 0).length + (s.getCore 0).pick < 4 := by decide

/-- A commit to a line that its home holds marked, to host memory and to another node; an L1 line at each. -/
theorem witness_ChunkCommits_marked : let x := lineOf va0.toNat
    let s := { submitted with l2 := [{ heldLine va0 5 with retrans := true }] }
    let d : List (Nat × Dest) := [(x + 1, .host 0x40), (lineOf va1.toNat, .remote)]
    (∀ m, s.l2Find (homeOf x) x = some m → m.retrans = true → m.pa = 0 ∨ m.dirty = false) ∧ d.filter (fun e => e.1 == x + 1) = [(x + 1, .host 0x40)] ∧
      d.filter (fun e => e.1 == lineOf va1.toNat) = [(lineOf va1.toNat, .remote)] := by
  refine ⟨fun m h _ => ?_, by decide, by decide⟩
  obtain rfl := Option.some.inj ((show some { heldLine va0 5 with retrans := true } = some m from h))
  exact .inl rfl

/-- An early check's fault before a pending interrupt, and without one; a late fault whose core waits. -/
theorem witness_ParkedAccesses_order : (faulting.select 0).preempted = false ∧ (faulting.select 0).core.badWord 0x8518 8 = none ∧ (faulting.select 0).core.switchBad 0x8600 = none ∧
    (at0 { faulting.core with irq := { Irq.reset with timer := true } }).preempted = true ∧
    ({ faulting with parks := List.replicate 64 { parked0 with place := 5 } } : State).parkCount 5 = 64 ∧ (sys []).awaited 0 = none ∧
    (routed (at0 { userCore [] with out := some (⟨.load 8 true, va1, 3⟩, none), outPort := some 0 })).awaited 0 = some ⟨.load 8 true, va1, 3⟩ := by decide

/-- Two queues of a cluster low at once, both asking. -/
theorem witness_QueuesAndPlacement_pull : let s : State := { sys [] with queues := [⟨.cluster 0, [entry1], []⟩] }
    queueOf 0 ∈ (s.noteLow (queueOf 0)).pulls ∧ (s.noteLow (queueOf 0)).pulls.takeWhile (fun j => j != queueOf 0) = [] ∧ (s.queue (queueOf 0)).upBlock = [] ∧
      s.above (queueOf 0) ≠ [] ∧ (s.getCore 0).reserved = none ∧ (s.queue (queueOf 0)).entries.length + 8 ≤ (queueOf 0).capacity := by decide

theorem witness_TeamSwaps_ack : handler.core.badWord (handler.core.wp + 0x158) 8 = none ∧ handler.core.waiting = false := by decide

/-- A budget trap that an interrupt comes before, and one that none does. -/
theorem witness_CoreEvents_order : let s (i : Irq) := (interrupted i).select 0
    (s { Irq.reset with timer := true, budget := true }).intReady = true ∧ (s { Irq.reset with budget := true }).intReady = false ∧
      ((interrupted { Irq.reset with budget := true }).getCore 0).irq.budget = true := by decide

/-- Two writes of user mode wait on a port. -/
theorem witness_Management_parks : let w (b : Nat) : FarWrite := ⟨0, (sys []).owner, false, cellsOf va1.toNat 8 b, none, some 0, lineOf va1.toNat, false⟩
    let s : State := { port0 (device 3 (sys [])) with remoteWrites := [w 5, w 6] }
    (s.port 0).up = true ∧ (∀ x ∈ s.remoteWrites, x.port = some 0 → x.sys = false ∧ s.ended = false ∧ x.owner.ctxg = s.mgmt.ctxg) ∧ s.nmFlight = [] ∧
      (∀ c ∈ s.cores, c.outPort ≠ some 0) ∧ s.parkCount 1536 + 2 ≤ 64 := by decide

/-- A request on its way over a port; a context that ends with a fold waiting. -/
theorem witness_MuleRequests_far : let s : State := { sys [] with nmFlight := [⟨⟨.nmc .resume, va1, 3⟩, (sys []).owner, true, true, some 0⟩] }
    s.nmFlight[0]? = some ⟨⟨.nmc .resume, va1, 3⟩, (sys []).owner, true, true, some 0⟩ ∧ ({ launching 5 5 with folds := [⟨va0.toNat, 64, 0, 5, 0, [5], 0, 0, 0⟩] } : State).dramBad = [] := by decide

/-! ## Results that the spec works out, one instruction each -/

/-- Register 3 and FFLAGS after one instruction on registers 4, 5 and 6. -/
def gives (i : Instr) (x y z : Nat) (v : Word) (f : Flg) : Bool :=
  next (exec i (sys [(4, x), (5, y), (6, z)])) fun t => t.core.reg 3 == v && t.core.ctl.fflags == f

/-- R268: shift amounts are y[5:0]; CLZ of 0 is 64; SEXT from bit n. -/
theorem test_shift_amount : gives (.sra 3 4 5) 0x8000000000000000 65 0 0xC000000000000000 0 = true ∧
    gives (.sll 3 4 5) 3 64 0 3 0 = true ∧ gives (.srl 3 4 5) 0x8000000000000000 63 0 1 0 = true := by decide

theorem test_counts : gives (.clz 3 0) 0 0 0 64 0 = true ∧ gives (.ctz 3 0) 0 0 0 64 0 = true ∧ gives (.popc 3 4) 0xF0F 0 0 8 0 = true ∧
    gives (.clz 3 4) 1 0 0 63 0 = true ∧ gives (.ctz 3 4) 0x8000 0 0 15 0 = true := by decide

theorem test_extend : gives (.sext 3 4 5) 0x180 7 0 0xFFFFFFFFFFFFFF80 0 = true ∧ gives (.zext 3 4 5) 0x180 7 0 0x80 0 = true ∧
    gives (.sext 3 4 5) 0x8000000000000001 63 0 0x8000000000000001 0 = true := by decide

theorem test_compare : gives (.slt 3 4 5) 0xFFFFFFFFFFFFFFFF 1 0 1 0 = true ∧ gives (.sltu 3 4 5) 0xFFFFFFFFFFFFFFFF 1 0 0 0 = true ∧
    gives (.min 3 4 5) 0xFFFFFFFFFFFFFFFF 1 0 0xFFFFFFFFFFFFFFFF 0 = true ∧ gives (.minu 3 4 5) 0xFFFFFFFFFFFFFFFF 1 0 1 0 = true ∧
    gives (.max 3 4 5) 0xFFFFFFFFFFFFFFFF 1 0 1 0 = true ∧ gives (.maxu 3 4 5) 0xFFFFFFFFFFFFFFFF 1 0 0xFFFFFFFFFFFFFFFF 0 = true := by decide

/-- R269, R270: the high products and the corners of division. -/
theorem test_high_product : gives (.mulh 3 4 5) 0xFFFFFFFFFFFFFFFF 0xFFFFFFFFFFFFFFFF 0 0 0 = true ∧
    gives (.mulhu 3 4 5) 0xFFFFFFFFFFFFFFFF 0xFFFFFFFFFFFFFFFF 0 0xFFFFFFFFFFFFFFFE 0 = true ∧
    gives (.mul 3 4 5) 0xFFFFFFFFFFFFFFFF 0xFFFFFFFFFFFFFFFF 0 1 0 = true := by decide

theorem test_divide_by_zero : gives (.div 3 4 0) 9 0 0 0xFFFFFFFFFFFFFFFF 0 = true ∧ gives (.divu 3 4 0) 9 0 0 0xFFFFFFFFFFFFFFFF 0 = true ∧
    gives (.rem 3 4 0) 0xFFFFFFFFFFFFFFF7 0 0 0xFFFFFFFFFFFFFFF7 0 = true ∧ gives (.remu 3 4 0) 9 0 0 9 0 = true := by decide

theorem test_divide_truncates : gives (.div 3 4 5) 0xFFFFFFFFFFFFFFF7 2 0 0xFFFFFFFFFFFFFFFC 0 = true ∧
    gives (.rem 3 4 5) 0xFFFFFFFFFFFFFFF7 2 0 0xFFFFFFFFFFFFFFFF 0 = true ∧
    gives (.div 3 4 5) 0x8000000000000000 0xFFFFFFFFFFFFFFFF 0 0x8000000000000000 0 = true ∧
    gives (.rem 3 4 5) 0x8000000000000000 0xFFFFFFFFFFFFFFFF 0 0 0 = true := by decide

/-- R272 to R274. -/
theorem test_immediates : gives (.sltiu 3 4 0xFFFF) 5 0 0 1 0 = true ∧ gives (.sltiu 3 4 0xFFFF) 0xFFFFFFFFFFFFFFFF 0 0 0 0 = true ∧
    gives (.addi 3 4 0xFFFF) 5 0 0 4 0 = true ∧ gives (.andi 3 4 0xFFFF) 0x12345678 0 0 0x5678 0 = true ∧
    gives (.ori 3 0 0x8000) 0 0 0 0x8000 0 = true ∧ gives (.xori 3 4 0xFFFF) 0xFFFFFFFFFFFFFFFF 0 0 0xFFFFFFFFFFFF0000 0 = true ∧
    gives (.slti 3 4 0xFFFF) 0xFFFFFFFFFFFFFFFE 0 0 1 0 = true := by decide

theorem test_constants : gives (.li 3 0xFFFF) 0 0 0 0xFFFFFFFFFFFFFFFF 0 = true ∧ gives (.lis 3 4 0x8000) 0x453B 0 0 0x453B8000 0 = true ∧
    gives (.adpc 3 0xFFFE) 0 0 0 ((Core.reset 0).pc - 8) 0 = true := by decide

/-- R279: packed lanes, with and without saturation. -/
theorem test_packed_add : gives (.padd 3 4 5 0 0 0) 0x11F0 0x0120 0 0x1210 0 = true ∧ gives (.padd 3 4 5 1 0 0) 0x11F0 0x0120 0 0x12FF 0 = true ∧
    gives (.psub 3 4 5 1 1 0) 0x80 0x01 0 0x80 0 = true ∧ gives (.psub 3 4 5 1 0 0) 0x01 0x02 0 0 0 = true := by decide

/-- Core 0 in system mode with trap workspaces. -/
def trapping (rs : List (Nat × Word)) : State := let c := userCore rs; at0 { c with ctl := { c.ctl with mode := .system } }

/-- R31: XB takes no address that is above the scratchpad. -/
theorem test_cwr_xb : next (exec (.cwr 4 0x002) (trapping [(4, 0x20040)])) (fun t => t.core.ctl.cause == 0x01) = true ∧
    next (exec (.cwr 4 0x002) (trapping [(4, 0x10040)])) (fun t => t.core.xb == 0x10040) = true := by decide

/-- R21: a local doubleword load from user mode below XB is denied, and one at an odd address is misaligned. -/
theorem test_local_checks : next (exec (.ldd 3 4 0) (user [(4, 0x7FF8)])) (fun t => t.core.ctl.cause == 0x03 || t.core.ctl.cause == 0x04) = true ∧
    next (exec (.ldd 3 4 1) (user [(4, 0x10000)])) (fun t => t.core.ctl.cause == 0x02) = true := by decide

/-! ### f32 (R316, R317) -/

theorem test_f32_add : gives (.fadd 3 4 5 0) 0x7F800000 0xFF800000 0 0x7FC00000 0x10 = true ∧ gives (.fsub 3 4 5 0) 0x7F800000 0x7F800000 0 0x7FC00000 0x10 = true ∧
    gives (.fadd 3 4 5 0) 0x3F800000 0xBF800000 0 0 0 = true ∧ gives (.fadd 3 4 5 2) 0x3F800000 0xBF800000 0 0x80000000 0 = true := by decide

theorem test_f32_add_rounds : gives (.fadd 3 4 5 0) 0x4B800000 0x3F800000 0 0x4B800000 1 = true ∧ gives (.fadd 3 4 5 3) 0x4B800000 0x3F800000 0 0x4B800001 1 = true ∧
    gives (.fadd 3 4 5 0) 0x7F7FFFFF 0x7F7FFFFF 0 0x7F800000 5 = true ∧ gives (.fadd 3 4 5 1) 0x7F7FFFFF 0x7F7FFFFF 0 0x7F7FFFFF 5 = true := by decide

theorem test_f32_mul : gives (.fmul 3 4 5 0) 0 0x7F800000 0 0x7FC00000 0x10 = true ∧ gives (.fmul 3 4 5 0) 0x40400000 0x40000000 0 0x40C00000 0 = true ∧
    gives (.fmul 3 4 5 0) 0x00800000 0x3F000000 0 0x00400000 0 = true ∧ gives (.fmul 3 4 5 0) 0x00000001 0x3F000000 0 0 3 = true := by decide

theorem test_f32_div : gives (.fdiv 3 4 5 0) 0x3F800000 0 0 0x7F800000 8 = true ∧ gives (.fdiv 3 4 5 0) 0xBF800000 0 0 0xFF800000 8 = true ∧
    gives (.fdiv 3 4 5 0) 0 0 0 0x7FC00000 0x10 = true ∧ gives (.fdiv 3 4 5 0) 0x7F800000 0xFF800000 0 0x7FC00000 0x10 = true ∧
    gives (.fdiv 3 4 5 0) 0x3F800000 0x40400000 0 0x3EAAAAAB 1 = true := by decide

theorem test_f32_sqrt : gives (.fsqrt 3 4 0) 0x80000000 0 0 0x80000000 0 = true ∧ gives (.fsqrt 3 4 0) 0xBF800000 0 0 0x7FC00000 0x10 = true ∧
    gives (.fsqrt 3 4 0) 0x40800000 0 0 0x40000000 0 = true ∧ gives (.fsqrt 3 4 0) 0x40000000 0 0 0x3FB504F3 1 = true := by decide

theorem test_f32_compare : gives (.feq 3 4 5) 0 0x80000000 0 1 0 = true ∧ gives (.flt 3 4 5) 0x7FC00000 0x3F800000 0 0 0x10 = true ∧
    gives (.feq 3 4 5) 0x7FC00000 0x3F800000 0 0 0 = true ∧ gives (.fle 3 4 5) 0x3F800000 0x3F800000 0 1 0 = true := by decide

theorem test_f32_min_max : gives (.fmin 3 4 5) 0x7FC00000 0x3F800000 0 0x3F800000 0 = true ∧ gives (.fmax 3 4 5) 0x80000000 0 0 0 0 = true ∧
    gives (.fmin 3 4 5) 0 0x80000000 0 0x80000000 0 = true ∧ gives (.fmax 3 4 5) 0x7F800001 0x3F800000 0 0x3F800000 0x10 = true := by decide

theorem test_f32_class : gives (.fclass 3 4) 0x7F800001 0 0 0x100 0 = true ∧ gives (.fclass 3 4) 0x7FC00000 0 0 0x200 0 = true ∧
    gives (.fclass 3 4) 1 0 0 0x20 0 = true ∧ gives (.fclass 3 4) 0x80000000 0 0 8 0 = true ∧ gives (.fclass 3 4) 0xFF800000 0 0 1 0 = true := by decide

theorem test_f32_fused : gives (.fma 3 4 5 6 0) 0 0x7F800000 0x7FC00000 0x7FC00000 0x10 = true ∧
    gives (.fma 3 4 5 6 0) 0x40400000 0x40000000 0x3F800000 0x40E00000 0 = true ∧ gives (.fms 3 4 5 6 0) 0x40400000 0x40000000 0x3F800000 0x40A00000 0 = true ∧
    gives (.fnma 3 4 5 6 0) 0x40400000 0x40000000 0x3F800000 0xC0A00000 0 = true ∧ gives (.fnms 3 4 5 6 0) 0x40400000 0x40000000 0x3F800000 0xC0E00000 0 = true := by decide

/-! ### Tapered formats (R176, R177, R179, R322) -/

/-- The value of a tapered word of chapter 08's tables, as m·2^e. -/
def tapIs (f : Tap) (p : Nat) (s : Bool) (m : Nat) (e : Int) : Bool := match f.decode p with
  | .fin s' m' e' false => s == s' && m * 2 ^ (e - min e e').toNat == m' * 2 ^ (e' - min e e').toNat
  | _ => false

theorem test_tap8_words : tapIs tap8 0x40 false 1 0 = true ∧ tapIs tap8 0x42 false 9 (-3) = true ∧ tapIs tap8 0x48 false 3 (-1) = true ∧
    tapIs tap8 0x5A false 13 (-2) = true ∧ tapIs tap8 0x60 false 4 0 = true ∧ tapIs tap8 0x30 false 1 (-1) = true ∧ tapIs tap8 0xC0 true 1 0 = true ∧
    tapIs tap8 0x7E false 1024 0 = true ∧ tapIs tap8 0x7F false 4096 0 = true ∧ tapIs tap8 0x02 false 1 (-10) = true ∧ tapIs tap8 0x01 false 1 (-12) = true ∧
    tapIs tap8 0x81 true 4096 0 = true ∧ tapIs tap8 0xFF true 1 (-12) = true ∧ tap8.decode 0x80 = .nar := by decide

theorem test_tap16_words : tapIs tap16 0x4555 false (4096 + 1365) (-12) = true ∧ tapIs tap16 0x4800 false 3 (-1) = true ∧ tapIs tap16 0x5A00 false 13 (-2) = true ∧
    tapIs tap16 0x3000 false 1 (-1) = true ∧ tapIs tap16 0xC000 true 1 0 = true ∧ tapIs tap16 0x7FFF false 1 28 = true ∧ tapIs tap16 0x0001 false 1 (-28) = true ∧
    tapIs tap16 0x8001 true 1 28 = true := by decide

theorem test_tap32_words : tapIs tap32 0x40000000 false 1 0 = true ∧ tapIs tap32 0x44000000 false 3 (-1) = true ∧ tapIs tap32 0x48000000 false 2 0 = true ∧
    tapIs tap32 0x38000000 false 1 (-1) = true ∧ tapIs tap32 0x60000000 false 16 0 = true ∧ tapIs tap32 0xC0000000 true 1 0 = true ∧
    tapIs tap32 0x7FFFFFFF false 1 120 = true ∧ tapIs tap32 0x00000001 false 1 (-120) = true := by decide

theorem test_tcls : gives (.tcls 3 4 2) 0x5A 0 0 0x04010001 0 = true ∧ gives (.tcls 3 4 0) 0x38000000 0 0 0x1B03FF01 0 = true ∧
    gives (.tcls 3 4 2) 0x7F 0 0 0x0607 0 = true ∧ gives (.tcls 3 4 2) 0x80 0 0 0x400000000 0 = true ∧ gives (.tcls 3 4 2) 0 0 0 0x200000000 0 = true := by decide

/-- R177: 1.1 goes to 0x42, 2,048 is the tie, 3,000 goes up under RNE and down under RTZ, 5,000 saturates, 2^-13 under RTZ does too. -/
theorem test_to_tap8 : gives (.cvt 3 4 0 0 0 5 0) 0x3F8CCCCD 0 0 0x42 1 = true ∧ gives (.cvt 3 4 0 0 0 5 0) 0x45000000 0 0 0x7E 1 = true ∧
    gives (.cvt 3 4 0 0 0 5 0) 0x453B8000 0 0 0x7F 1 = true ∧ gives (.cvt 3 4 0 0 1 5 0) 0x453B8000 0 0 0x7E 1 = true ∧
    gives (.cvt 3 4 0 0 0 5 0) 0x459C4000 0 0 0x7F 5 = true ∧ gives (.cvt 3 4 0 0 1 5 0) 0x39000000 0 0 0x01 3 = true := by decide

/-- R186, R312: +∞ to tap32 is NaR, sign extended, with NV; with NTE it traps; 1.5 is exact. -/
theorem test_to_tap32 : gives (.cvt 3 4 0 0 0 3 0) 0x7F800000 0 0 0xFFFFFFFF80000000 0x10 = true ∧ gives (.cvt 3 4 0 0 0 3 0) 0x3FC00000 0 0 0x44000000 0 = true ∧
    gives (.cvt 3 4 0 0 0 4 0) 0x3FAAAAAB 0 0 0x4555 1 = true := by decide

theorem test_nar_trap : let s := user [(4, 0x7F800000)]
    next (exec (.cvt 3 4 0 0 0 3 0) { s with core := { s.core with ctl := { s.core.ctl with nte := 1 } } })
      (fun t => t.core.ctl.cause == 0x0F && t.core.reg 3 == 0 && t.core.ctl.fflags == 0) = true := by decide

theorem test_to_integer : gives (.cvt 3 4 0 0 1 9 0) 0xBF99999A 0 0 0xFFFFFFFFFFFFFFFF 1 = true ∧ gives (.cvt 3 4 1 0 0 9 0) 0xBE99999A 0 0 0 1 = true ∧
    gives (.cvt 3 4 1 0 1 9 0) 0xBF99999A 0 0 0 0x10 = true ∧ gives (.cvt 3 4 0 0 0 7 0) 0x7FC00000 0 0 0xFFFFFFFFFFFFFF80 0x10 = true ∧
    gives (.cvt 3 4 0 0 0 0 9) 0x01000001 0 0 0x4B800000 1 = true := by decide

theorem test_to_lns : gives (.cvt 3 4 0 0 0 6 0) 0x40000000 0 0 4 0 = true ∧ gives (.cvt 3 4 0 0 0 6 0) 0xBF800000 0 0 0x20 0 = true ∧
    gives (.cvt 3 4 0 0 0 6 0) 0x3F000000 0 0 0x1C 0 = true ∧ gives (.cvt 3 4 0 0 0 6 0) 0 0 0 0x10 0 = true ∧ gives (.cvt 3 4 0 0 0 6 0) 0x7FC00000 0 0 0x30 0 = true ∧
    gives (.cvt 3 4 0 0 1 6 0) 0x42C80000 0 0 0x0F 5 = true := by decide

theorem test_from_lns : gives (.cvt 3 4 0 0 0 0 6) 0x01 0 0 0x3F9837F0 1 = true ∧ gives (.cvt 3 4 0 0 0 0 6) 0x04 0 0 0x40000000 0 = true := by decide

theorem test_tap32_ops : gives (.tadd 3 4 5 0) 0x40000000 0x40000000 0 0x48000000 0 = true ∧ gives (.tsub 3 4 5 0) 0x40000000 0x40000000 0 0 0 = true ∧
    gives (.tmul 3 4 5 0) 0x48000000 0xC0000000 0 0xFFFFFFFFB8000000 0 = true ∧ gives (.tdiv 3 4 5 0) 0x40000000 0 0 0xFFFFFFFF80000000 8 = true ∧
    gives (.tdiv 3 4 5 0) 0x40000000 0x48000000 0 0x38000000 0 = true ∧ gives (.tsqrt 3 4 0) 0xC0000000 0 0 0xFFFFFFFF80000000 0x10 = true ∧
    gives (.tsqrt 3 4 0) 0x60000000 0 0 0x50000000 0 = true := by decide

theorem test_tap32_fused : gives (.tfma 3 4 5 6 0) 0x48000000 0x48000000 0x40000000 0x52000000 0 = true ∧
    gives (.tfms 3 4 5 6 0) 0x48000000 0x40000000 0x48000000 0 0 = true ∧ gives (.tfnma 3 4 5 6 0) 0 0x40000000 0x40000000 0x40000000 0 = true ∧
    gives (.tfnms 3 4 5 6 0) 0x80000000 0x40000000 0x40000000 0xFFFFFFFF80000000 0 = true := by decide

/-- R195: 3,000 to tap8 under SR goes up exactly when the draw is below 2,762,648,234. -/
theorem test_sr_bound : tap8.round .sr 2762648233 false 3000 0 false = (0x7F, 1) ∧ tap8.round .sr 2762648234 false 3000 0 false = (0x7E, 1) ∧
    tap8.round .sr 0xFFFFFFFF false 5000 0 false = (0x7F, 5) := by decide

/-- R183, R184: the default table and two products. -/
theorem test_lns_table : lnsDefault 2 = 362 ∧ lnsDefault 31 = 55109 ∧ lnsDefault 33 = 77936 ∧ lnsDefault 62 = 11863283 := by decide

/-! ### Homes and signatures -/

/-- R51's worked home, and the two signature bits of the ordering chapter. -/
theorem test_home : homeOf (lineOf 0x200001040) = 1089 := by decide

theorem test_signature : sigOf 0x8000041 = 193 ∧ sigOf 0x8000082 = 2 := by decide

end Sys2Proof.Tests
end

section
/-! SUPPORT. The protection state of a core: which operations keep it. -/

namespace Sys2Proof.Machine

/-! ## The protection state -/

/-- What decides which addresses, modes and handlers a program may reach: the core's number and mode, and the control registers that only system mode writes
(R17, R18, R31, R113, R251, R252). -/
structure Protection where
  pcn : Nat
  mode : Mode
  xb : BitVec 13
  tvb : BitVec 9
  twa : BitVec 10
  uws : BitVec 10
  upc : BitVec 15
  cause : BitVec 8
  tval : Word
  epc : BitVec 62
  lpb : Vector LpuBase 8
  lpl : Vector (BitVec 13) 8
  node : BitVec 9
  lhp : Word

/-- The protection state that a core's number and its control registers make. -/
def Ctl.protection (k : Ctl) (pcn : Nat) : Protection :=
  ⟨pcn, k.mode, k.xb, k.tvb, k.twa, k.uws, k.upc, k.cause, k.tval, k.epc, k.lpb, k.lpl, k.node, k.lhp⟩

/-- The protection state of a core. -/
@[simp] abbrev Core.protection (c : Core) : Protection := c.ctl.protection c.pcn

/-- The control registers that any mode or the hardware may change are no part of the protection state. -/
@[simp] theorem Ctl.protection_open (k : Ctl) (n : Nat) (wpa : BitVec 10) (nte sre : Bit) (rm : BitVec 2) (bg dl : Word) (vl : BitVec 9)
    (vn : BitVec 16) (lcn seed : Word) (fflags : BitVec 5) (cyc ret sqz cmt : Word) :
    Ctl.protection ⟨wpa, k.xb, k.mode, nte, sre, rm, k.tvb, k.uws, k.upc, k.twa, k.cause, k.tval, k.epc, bg, dl, vl, vn, lcn, seed, fflags, k.node,
      k.lhp, k.lpb, k.lpl, cyc, ret, sqz, cmt⟩ n = k.protection n := rfl

/-! ## Operations of a core -/

@[simp] theorem Core.squash_protection (c : Core) : c.squash.protection = c.protection := by
  unfold Core.squash
  split <;> simp

@[simp] theorem Core.notice_protection (c : Core) (sig : BitVec 1024) : (c.notice sig).protection = c.protection := by
  simp only [Core.notice]
  split
  · split
    · rfl
    · rw [Core.squash_protection]
  · rfl

@[simp] theorem Core.leaveTeam_protection (c : Core) : c.leaveTeam.protection = c.protection := rfl
@[simp] theorem Core.loadCache_protection (c : Core) (a : Nat) : (c.loadCache a).protection = c.protection := by
  simp [Core.loadCache]
@[simp] theorem Core.saveArea_protection (c : Core) : c.saveArea.protection = c.protection := rfl
/-- A switch of the workspace changes WP and the register cache alone (R39). -/
@[simp] theorem Core.switchTo_protection (c : Core) (a : Nat) : (c.switchTo a).protection = c.protection := by
  simp only [Core.switchTo, Core.loadCache_protection]
  rfl

@[simp] theorem Core.cacheStore_protection (c : Core) (va size v : Nat) : (c.cacheStore va size v).protection = c.protection := by
  simp [Core.cacheStore]

@[simp] theorem Core.vPutLns_protection (c : Core) (ptr j : Nat) (vs : List Nat) : (c.vPutLns ptr j vs).protection = c.protection := by
  induction vs generalizing c j with
  | nil => rfl
  | cons v vs ih => exact ih _ _

@[simp] theorem Core.vPut_protection (c : Core) (f : BitVec 4) (ptr start : Nat) (vs : List Nat) : (c.vPut f ptr start vs).protection = c.protection := by
  unfold Core.vPut
  split
  · rw [Core.vPutLns_protection]
  · rfl

@[simp] theorem Core.vScatter_protection (c : Core) (size : Nat) (l : List (Nat × Nat)) : (c.vScatter size l).protection = c.protection := by
  induction l generalizing c with
  | nil => rfl
  | cons x l ih => exact ih _

@[simp] theorem Core.incrementFrom_protection (c : Core) (seen : List Reg) (l : List (Reg × Nat)) : (c.incrementFrom seen l).protection = c.protection := by
  induction l generalizing c seen with
  | nil => rfl
  | cons x l ih =>
    simp only [Core.incrementFrom]
    split
    · exact ih _ _
    · rw [ih, Core.protection, Core.setReg_ctl, Core.setReg_pcn]

@[simp] theorem Core.increment_protection (c : Core) (l : List (Reg × Nat)) : (c.increment l).protection = c.protection := c.incrementFrom_protection [] l

@[simp] theorem Core.postEvent_protection (c : Core) (e : BitVec 64) : (c.postEvent e).protection = c.protection := by
  unfold Core.postEvent
  split <;> rfl

@[simp] theorem Core.popFront_protection (c : Core) (q : Nat) : (c.popFront q).protection = c.protection := by
  unfold Core.popFront
  split
  · dsimp only
    split
    · rfl
    · rw [Core.postEvent_protection]
  · rfl

@[simp] theorem Core.push_protection (c : Core) (q : Nat) (k : Cmd) (n : Nat) : (c.push q k n).protection = c.protection := rfl

@[simp] theorem Core.pushFired_protection (c : Core) : c.pushFired.protection = c.protection := by
  unfold Core.pushFired
  split
  · rfl
  · split <;> rfl

@[simp] theorem Core.drainFired_protection (n : Nat) (c : Core) : (Core.drainFired n c).protection = c.protection := by
  induction n generalizing c with
  | zero => rfl
  | succ n ih => rw [Core.drainFired, ih, Core.pushFired_protection]

@[simp] theorem Core.fire_protection (v : Nat) (c : Core) (a : Armed) : (Core.fire v c a).protection = c.protection := by
  unfold Core.fire
  split
  · rfl
  · rw [Core.postEvent_protection]
  · rfl

/-- A fold of updates that keep the protection state keeps it. -/
theorem Core.foldl_protection {α : Type} (f : Core → α → Core) (h : ∀ c x, (f c x).protection = c.protection) (l : List α) (c : Core) :
    (l.foldl f c).protection = c.protection := by
  induction l generalizing c with
  | nil => rfl
  | cons x l ih => rw [List.foldl_cons, ih, h]

@[simp] theorem Core.fireAll_protection (c : Core) (hit : Armed → Bool) (v : Nat) : (c.fireAll hit v).protection = c.protection := by
  rw [Core.fireAll, Core.drainFired_protection, Core.foldl_protection _ (Core.fire_protection v)]

@[simp] theorem Core.bump_protection (c : Core) (i : BitVec 4) (k : Nat) : (c.bump i k).protection = c.protection := by
  rw [Core.bump, Core.fireAll_protection]

@[simp] theorem Core.arm_protection (c : Core) (a : Armed) : (c.arm a).protection = c.protection := by
  simp only [Core.arm]
  split
  · rw [Core.drainFired_protection, Core.fire_protection]
  · rfl

@[simp] theorem Core.writeDword_protection (c : Core) (a : Nat) (v : Word) : (c.writeDword a v).protection = c.protection := by
  unfold Core.writeDword
  split
  · simp
  · rfl

@[simp] theorem Core.writeDwords_protection (c : Core) (a n v : Nat) : (c.writeDwords a n v).protection = c.protection := by
  induction n generalizing c a v with
  | zero => rfl
  | succ n ih => rw [Core.writeDwords, ih, Core.writeDword_protection]

/-- TAKE sets BG, DL, LCN and VL of the slice, none of which protects anything (R204). -/
@[simp] theorem Core.takeEntry_protection (c : Core) (d : Reg) (p : Nat) (r : TaskRec) (sl : Slice) (lcn : Word) (m : Nat) :
    (c.takeEntry d p r sl lcn m).protection = c.protection := by
  rw [← c.writeDwords_protection p 4 r.value]
  simp [Core.takeEntry]

/-- A control register that any mode may write is no part of the protection state (R251). -/
theorem Core.cregWrite_protection (c : Core) {x : BitVec 12} (h : cregAnyWrite x = true) (v : Word) : (c.cregWrite x v).protection = c.protection := by
  simp only [cregAnyWrite, Bool.or_eq_true, beq_iff_eq] at h
  rcases h with ((rfl | rfl) | rfl) | rfl <;> rfl

/-! ## The cores of the package -/

theorem State.getCore_pcn (s : State) (p : Nat) : (s.getCore p).pcn = p := by
  unfold State.getCore
  split
  · assumption
  · cases h : s.others.find? fun c => c.pcn == p with
    | none => rfl
    | some c => simpa using List.find?_some h

/-- An update of one core that keeps its protection state keeps that of the active core. -/
theorem State.modCore_protection (s : State) (p : Nat) (f : Core → Core) (h : ∀ c, (f c).protection = c.protection) :
    (s.modCore p f).core.protection = s.core.protection := by
  have hf : (f (s.getCore p)).pcn = p := (congrArg Protection.pcn (h _)).trans (s.getCore_pcn p)
  simp only [State.modCore, State.putCore, hf]
  split
  next hp =>
    rw [h]
    simp only [State.getCore, if_pos hp]
  next => rfl

theorem State.allCores_protection (s : State) (f : Core → Core) (h : ∀ c, (f c).protection = c.protection) :
    (s.allCores f).core.protection = s.core.protection := h s.core

/-- A fold of updates of the package that keep something of the active core keeps it. -/
theorem State.foldl_keeps {α β : Type} (g : Core → β) (f : State → α → State) (h : ∀ s x, g (f s x).core = g s.core) (l : List α) (s : State) :
    g (l.foldl f s).core = g s.core := by
  induction l generalizing s with
  | nil => rfl
  | cons x l ih => rw [List.foldl_cons, ih, h]

end Sys2Proof.Machine
end

section
namespace Sys2Proof.Machine

/-! ## Operations of the package that leave the active core as it is -/

@[simp] theorem State.logError_core (s : State) (p : Nat) (c t : BitVec 8) (a e : Word) : (s.logError p c t a e).core = s.core := rfl
@[simp] theorem State.heal_core (s : State) (n : Nat) : (s.heal n).core = s.core := rfl

@[simp] theorem State.metaUse_core (s : State) (flat : Nat) : (s.metaUse flat).core = s.core := by
  unfold State.metaUse
  dsimp only
  split <;> rfl

@[simp] theorem State.dramUse_core (s : State) (flat : Nat) : (s.dramUse flat).core = s.core := s.metaUse_core flat

@[simp] theorem State.dramMeets_core (s : State) (flat : Nat) (comp : Bool) : (s.dramMeets flat comp).core = s.core := by
  unfold State.dramMeets
  dsimp only
  split
  · split
    · exact s.dramUse_core _
    · exact s.dramUse_core _
  · exact s.metaUse_core flat

@[simp] theorem State.dramWrite_core (s : State) (flat : Nat) (d : Line) (comp : Bool) : (s.dramWrite flat d comp).core = s.core :=
  s.dramMeets_core flat comp

@[simp] theorem State.walked_core (s : State) (va : Nat) : (s.walked va).core = s.core := State.foldl_keeps id _ State.dramUse_core _ s

@[simp] theorem State.noteBad_core (s : State) (va : Nat) (f : FaultInfo) : (s.noteBad va f).core = s.core := by
  unfold State.noteBad
  split <;> rfl

@[simp] theorem State.noteAt_core (s : State) (place va : Nat) (f : FaultInfo) : (s.noteAt place va f).core = s.core := by
  unfold State.noteAt
  split
  · rfl
  · rw [State.noteBad_core, State.walked_core]

@[simp] theorem State.noteWalk_core (s : State) (place va : Nat) (f : FaultInfo) : (s.noteWalk place va f).core = s.core := by
  unfold State.noteWalk
  split
  · dsimp only
    split
    · rfl
    · rw [State.noteBad_core]
      exact State.foldl_keeps id _ (fun s _ => s.walked_core va) _ s
  · split
    · rfl
    · exact s.noteAt_core place va f

@[simp] theorem State.writeBackLine_core (s : State) (l : L2Line) : (s.writeBackLine l).core = s.core := by
  unfold State.writeBackLine
  split
  · dsimp only
    split
    · exact s.dramWrite_core _ l.data _
    · exact s.dramWrite_core _ l.data _
  · rfl

@[simp] theorem State.l2Room_core (s : State) (sl line : Nat) : (s.l2Room sl line).core = s.core := by
  unfold State.l2Room
  dsimp only
  split
  · rfl
  · split
    · exact s.writeBackLine_core _
    · rfl

@[simp] theorem State.l2Put_core (s : State) (l : L2Line) : (s.l2Put l).core = s.core := s.l2Room_core _ _

@[simp] theorem State.cleanLine_core (s : State) (l : L2Line) : (s.cleanLine l).core = s.core := by
  rw [State.cleanLine, State.l2Put_core, State.writeBackLine_core]

@[simp] theorem State.landClean_core (s : State) (c : Cleaning) : (s.landClean c).core = s.core := by
  unfold State.landClean
  dsimp only
  split
  · split
    · rw [State.l2Drop_core, State.writeBackLine_core]
    · rw [State.cleanLine_core]
  · rfl

@[simp] theorem State.landCleans_core (s : State) (p : Nat) : (s.landCleans p).core = s.core := State.foldl_keeps id _ State.landClean_core _ s

@[simp] theorem State.renew_core (s : State) (sl line : Nat) (leaf : Word) (pa : Nat) : (s.renew sl line leaf pa).core = s.core := by
  unfold State.renew
  split
  · split
    · rfl
    · split
      · rw [State.l2Put_core]
      · rw [State.l2Drop_core, State.writeBackLine_core]
  · rfl

@[simp] theorem State.fill_core (s : State) (sl line : Nat) (leaf : Word) (pa : Nat) : (s.fill sl line leaf pa).1.core = s.core := by
  unfold State.fill
  split
  · rfl
  · dsimp only
    split
    · exact s.dramUse_core _
    · rw [State.l2Put_core, State.dramUse_core]

@[simp] theorem State.merge_core (s : State) (sl line : Nat) (leaf : Word) (pa : Nat) (mask : BitVec 64) (d : Line) :
    (s.merge sl line leaf pa mask d).core = s.core := by
  unfold State.merge
  dsimp only
  split
  · rw [State.l2Put_core, State.renew_core]
  · rw [State.l2Put_core]
    split <;> (dsimp only; split <;> simp)

@[simp] theorem State.replApply_core (s : State) (die : Nat) (u : ReplUpdate) : (s.replApply die u).core = s.core := by
  unfold State.replApply
  dsimp only [State.setApplied]
  split
  · rfl
  · exact s.merge_core _ _ _ _ _ _

@[simp] theorem State.applyWrite_core (s : State) (src line : Nat) (dst : Dest) (mask : BitVec 64) (d : Line) (g : Bool) :
    (s.applyWrite src line dst mask d g).core = s.core := by
  unfold State.applyWrite
  dsimp only
  split
  · rw [State.merge_core]
  · rfl
  · rfl

@[simp] theorem State.atomicDone_core (s : State) (repl : Bool) (src va : Nat) (l : L2Line) (mask : BitVec 64) (d : Line) :
    (s.atomicDone repl src va l mask d).core = s.core := by
  have h : (if mask = 0 then s else s.merge (homeOf (lineOf va)) l.line l.leaf l.pa mask d).core = s.core := by
    split
    · rfl
    · exact s.merge_core _ _ _ _ _ _
  unfold State.atomicDone
  dsimp only
  split
  · exact h
  · exact h

/-- A translation leaves the active core as it is. -/
theorem State.translate_core {s t : State} {place va : Nat} {q : Req} {e : Word × Bool × Nat} (h : s.translate place va q = .ok (t, e)) :
    t.core = s.core := by
  unfold State.translate at h
  split at h
  · cases h
  · split at h
    · cases h
    · cases h
      simp only [State.tlbUse]
      split
      · rfl
      · exact s.walked_core va

theorem State.slice_core {s t : State} {sl va : Nat} {q : Req} {e : Word × Nat} (h : s.slice sl va q = .ok (t, e)) : t.core = s.core := by
  unfold State.slice at h
  split at h
  · split at h
    · split at h <;> cases h
      rfl
    · split at h
      · cases h
      next ht =>
        cases h
        rw [State.renew_core, State.translate_core ht]
  · split at h
    · cases h
    next ht =>
      cases h
      exact State.translate_core ht

theorem State.replicaCheck_core {s t : State} {va : Nat} {q : Req} {d : Nat} (h : s.replicaCheck va q d = .ok t) : t.core = s.core := by
  unfold State.replicaCheck at h
  dsimp only at h
  split at h
  · cases ht : s.translate (replHome (lineOf va) d) va q with
    | error f => rw [ht] at h; cases h
    | ok r => rw [ht] at h; cases h; exact State.translate_core ht
  · cases ht : s.slice (replHome (lineOf va) d) va q with
    | error f => rw [ht] at h; cases h
    | ok r => rw [ht] at h; cases h; exact State.slice_core ht

@[simp] theorem State.denied_core (s : State) (va : Nat) (q : Req) : (s.denied va q).1.core = s.core := by
  unfold State.denied
  generalize ([3, 2, 1, 0] : List Nat) = l
  suffices ∀ acc : State × BitVec 16 × BitVec 8, acc.1.core = s.core → (l.foldl (fun (acc : State × BitVec 16 × BitVec 8) d =>
      match acc.1.replicaCheck va q d with
      | .error f => (acc.1, acc.2.1 ||| (1#16 <<< d), f.reason)
      | .ok t => (t, acc.2.1, acc.2.2)) acc).1.core = s.core from this _ rfl
  induction l with
  | nil => exact fun acc h => h
  | cons d l ih =>
    intro acc h
    refine ih _ ?_
    dsimp only
    split
    · exact h
    next ht => exact (State.replicaCheck_core ht).trans h

theorem State.writeCheck_core {s t : State} {va : Nat} {q : Req} {d : Dest} (h : s.writeCheck va q = .ok (t, d)) : t.core = s.core := by
  unfold State.writeCheck at h
  dsimp only at h
  split at h
  · split at h
    · split at h
      next ht =>
        cases h
        rw [State.slice_core ht, State.denied_core]
      · cases h
    · cases h
  · split at h
    · cases h
    next ht =>
      cases h
      exact State.slice_core ht

/-! ## Notices, and what comes of an access at a home -/

@[simp] theorem State.notice_protection (s : State) (src : Nat) (sig : BitVec 1024) : (s.notice src sig).core.protection = s.core.protection := by
  refine s.allCores_protection (fun c => if c.pcn = src then c else c.notice sig) fun c => ?_
  split
  · rfl
  · exact c.notice_protection sig

@[simp] theorem State.arriveOne_protection (s : State) (n : Nat × Nat) : (s.arriveOne n).core.protection = s.core.protection := by
  unfold State.arriveOne
  split
  · rfl
  · exact State.modCore_protection { s with notices := s.notices.erase n } n.1 _ fun c => c.notice_protection _

@[simp] theorem State.arrive_protection (s : State) (p : Nat) : (s.arrive p).core.protection = s.core.protection :=
  State.foldl_keeps Core.protection _ State.arriveOne_protection _ s

@[simp] theorem State.replDrain_protection (s : State) (die : Nat) : (s.replDrain die).core.protection = s.core.protection := by
  unfold State.replDrain
  dsimp only
  refine (State.foldl_keeps Core.protection _ State.arrive_protection _ _).trans (congrArg Core.protection ?_)
  refine State.foldl_keeps id _ (fun t u => ?_) _ s
  split
  · exact t.replApply_core die u
  · rfl

@[simp] theorem State.replDrainAll_protection (s : State) : s.replDrainAll.core.protection = s.core.protection := by
  unfold State.replDrainAll
  exact State.foldl_keeps Core.protection _ State.replDrain_protection _ s

@[simp] theorem State.numberedWrite_protection (s : State) (skip src line : Nat) (dst : Dest) (mask : BitVec 64) (d : Line) (g : Bool) :
    (s.numberedWrite skip src line dst mask d g).core.protection = s.core.protection := by
  unfold State.numberedWrite
  rw [State.applyWrite_core]
  exact s.notice_protection skip _

/-- Whatever comes of an access at a home, the active core has this protection state. -/
def HomeRes.keeps (p : Protection) (r : HomeRes) : Prop := match r with
  | .host s _ | .bad s | .done s _ => s.core.protection = p
  | .fault .. | .wait => True

theorem State.readAt_keeps (s : State) (sl va : Nat) (q : Req) : (s.readAt sl va q).keeps s.core.protection := by
  unfold State.readAt
  split
  · trivial
  next ht =>
    have h := congrArg Core.protection (State.slice_core ht)
    dsimp only
    split
    · exact (congrArg Core.protection (State.fill_core ..)).trans h
    · exact (congrArg Core.protection (State.fill_core ..)).trans h

theorem State.homeRead_keeps (s : State) (die va : Nat) (q : Req) (seq : Bool) : (s.homeRead die va q seq).keeps s.core.protection := by
  unfold State.homeRead
  dsimp only
  split
  · trivial
  next ht =>
    have h := congrArg Core.protection (State.slice_core ht)
    split
    · exact h
    · split
      · split
        · exact h ▸ State.readAt_keeps ..
        · split
          · exact h ▸ State.readAt_keeps ..
          · trivial
      · split
        · exact (congrArg Core.protection (State.fill_core ..)).trans h
        · exact (congrArg Core.protection (State.fill_core ..)).trans h

theorem State.homeWrite_keeps (s : State) (party src va : Nat) (mask : BitVec 64) (d : Line) (q : Req) :
    (s.homeWrite party src va mask d q).keeps s.core.protection := by
  unfold State.homeWrite
  split
  · trivial
  next ht =>
    have h := congrArg Core.protection (State.writeCheck_core ht)
    split
    · exact h
    · split
      · trivial
      · exact (State.numberedWrite_protection ..).trans h
    · split
      · trivial
      · exact (State.numberedWrite_protection ..).trans h

theorem State.homeRmw_keeps (s : State) (party src va n : Nat) (f : Rmw) (g : Bool) : (s.homeRmw party src va n f g).keeps s.core.protection := by
  unfold State.homeRmw
  dsimp only
  split
  · trivial
  split
  · trivial
  split
  · trivial
  next leaf _ _ _ _ =>
    have drained : (if leafRepl leaf = true then s.replDrain (homeOf (lineOf va) / 384) else s).core.protection = s.core.protection := by
      split
      · exact s.replDrain_protection _
      · rfl
    generalize (if leafRepl leaf = true then s.replDrain (homeOf (lineOf va) / 384) else s) = u at drained ⊢
    have roomy : (if (leafRepl leaf && decide (seqCapacity ≤ u.seqQueue.length)) = true then u.replDrainAll else u).core.protection = s.core.protection := by
      split
      · exact u.replDrainAll_protection.trans drained
      · exact drained
    generalize (if (leafRepl leaf && decide (seqCapacity ≤ u.seqQueue.length)) = true then u.replDrainAll else u) = v at roomy ⊢
    have read := v.readAt_keeps (homeOf (lineOf va)) va Req.both
    rw [roomy] at read
    split
    next hr =>
      rw [hr] at read
      split
      · exact read
      · split
        · exact (congrArg Core.protection (State.atomicDone_core ..)).trans read
        · refine (congrArg Core.protection (State.atomicDone_core ..)).trans ?_
          exact (State.notice_protection ..).trans read
    · exact read

end Sys2Proof.Machine
end

section
namespace Sys2Proof.Machine

/-! ## What comes of an instruction -/

/-- A result whose active core has this protection state, or has entered system mode. -/
def keepsProtection (p : Protection) (r : Res) : Prop := match r with
  | .next t => t.core.protection = p ∨ t.core.ctl.mode = .system
  | _ => True

theorem keepsProtection_next {p : Protection} {t : State} (h : t.core.protection = p) : keepsProtection p (.next t) := .inl h

theorem keepsProtection.ite {p : Protection} {c : Prop} [Decidable c] {a b : Res} (ha : keepsProtection p a) (hb : keepsProtection p b) :
    keepsProtection p (if c then a else b) := by
  split
  · exact ha
  · exact hb

theorem healed_keepsProtection {p : Protection} (n : Nat) {r : Res} (h : keepsProtection p r) : keepsProtection p (healed n r) := by
  unfold healed
  split
  · exact h
  · exact h

section
variable {s : State} {p : Protection} (hp : s.core.protection = p)
include hp

theorem State.waitClosed_keepsProtection : keepsProtection p s.waitClosed := by
  unfold State.waitClosed
  split
  · exact .inl hp
  · exact .inl hp

theorem State.stallOpen_keepsProtection : keepsProtection p s.stallOpen := by
  unfold State.stallOpen
  split
  · exact State.waitClosed_keepsProtection hp
  · exact .inl hp

theorem State.hold_keepsProtection (v : Nat) : keepsProtection p (s.hold v) := .inl hp

theorem State.done_keepsProtection {f : Core → Core} (h : (f s.core).protection = s.core.protection) : keepsProtection p (s.done f) := by
  refine .inl ?_
  rw [← hp, ← h]
  simp

theorem State.inChunk_keepsProtection {f : Core → Core} (h : ∀ c, (f c).protection = c.protection) : keepsProtection p (s.inChunk f) := by
  refine .inl ?_
  rw [← hp, Core.protection, Core.countIn_ctl, Core.countIn_pcn]
  exact (h _).trans (by simp)

/-! ### Traps (R417, R420) -/

theorem State.retireIfDone_protection (slot : Nat) : (s.retireIfDone slot).core.protection = p := by
  unfold State.retireIfDone
  split
  · exact hp
  · split
    · exact (State.foldl_keeps Core.protection _ (fun u q => u.modCore_protection q _ Core.leaveTeam_protection) _ s).trans hp
    · exact hp

theorem State.memberGone_protection : s.memberGone.core.protection = p := by
  unfold State.memberGone
  dsimp only
  split
  · exact State.retireIfDone_protection (by exact hp) _
  · exact hp

theorem State.doubleTrap_protection (cause : Nat) (tval epc : Word) : (s.doubleTrap cause tval epc).core.protection = p := by
  unfold State.doubleTrap
  dsimp only
  split
  · exact hp
  · exact State.memberGone_protection (by exact hp)

/-- A trap enters system mode; a double trap changes nothing of the protection state. -/
theorem State.trapEntry_keepsProtection (cause : Nat) (tval epc : Word) : keepsProtection p (.next (s.trapEntry cause tval epc)) := by
  unfold State.trapEntry
  dsimp only
  have saved : s.core.saveArea.protection = p := s.core.saveArea_protection.trans hp
  split
  · exact .inl (State.doubleTrap_protection hp ..)
  split
  · exact .inl (State.doubleTrap_protection (by exact saved) ..)
  split
  · exact .inl (State.doubleTrap_protection (by exact saved) ..)
  · split
    · exact .inr (congrArg Protection.mode (State.doubleTrap_protection rfl ..))
    · exact .inr rfl

theorem State.trapAt_keepsProtection (cause : Nat) (tval epc : Word) : keepsProtection p (s.trapAt cause tval epc) := by
  unfold State.trapAt
  split
  · exact .inl hp
  · exact State.trapEntry_keepsProtection hp ..

theorem State.trap_keepsProtection (cause : Nat) (tval : Word) : keepsProtection p (s.trap cause tval) := State.trapAt_keepsProtection hp ..

theorem State.trapN_keepsProtection (cause tval : Nat) : keepsProtection p (s.trapN cause tval) := State.trapAt_keepsProtection hp ..

theorem State.machineCheck_keepsProtection (va : Nat) : keepsProtection p (s.machineCheck va) := by
  unfold State.machineCheck
  split
  · exact .inl hp
  · exact State.trapN_keepsProtection (s := s.logError s.core.pcn 0 5 (BitVec.ofNat 64 va) 0) hp ..

/-! ### The checks before an instruction (R259) -/

theorem State.gate_keepsProtection (reads writes : List Reg) {k : Res} (hk : keepsProtection p k) : keepsProtection p (s.gate reads writes k) := by
  unfold State.gate
  split
  · exact .inl hp
  split
  · exact State.waitClosed_keepsProtection hp
  split
  · exact State.trapN_keepsProtection hp ..
  · exact hk

theorem State.alone_keepsProtection (sys : Bool) (w : Word) (reads writes : List Reg) {k : Res} (hk : keepsProtection p k) :
    keepsProtection p (s.alone sys w reads writes k) := by
  unfold State.alone
  split
  · exact .inl hp
  split
  · exact .inl hp
  split
  · exact State.trap_keepsProtection hp ..
  split
  · exact .inl hp
  split
  · exact State.trapN_keepsProtection hp ..
  · exact hk

/-- An instruction for system mode only changes nothing in user mode, whatever it would do (R252). -/
theorem State.alone_sys_keepsProtection (hm : s.core.ctl.mode = .user) (w : Word) (reads writes : List Reg) (k : Res) :
    keepsProtection p (s.alone true w reads writes k) := by
  unfold State.alone
  split
  · exact .inl hp
  split
  · exact .inl hp
  · rw [hm, if_pos (by decide)]
    exact State.trap_keepsProtection hp ..

theorem State.localOperand_keepsProtection (store : Bool) (a n : Nat) {k : Res} (hk : keepsProtection p k) :
    keepsProtection p (s.localOperand store a n k) := by
  unfold State.localOperand
  split
  · exact State.trapN_keepsProtection hp ..
  · exact hk

theorem State.storeOperand_keepsProtection (a n : Nat) {k : Res} (hk : keepsProtection p k) : keepsProtection p (s.storeOperand a n k) := by
  refine State.localOperand_keepsProtection hp _ _ _ ?_
  split
  · exact State.trapN_keepsProtection hp ..
  · exact hk

theorem State.readOperand_keepsProtection (a n : Nat) {k : Nat → Res} (hk : ∀ v, keepsProtection p (k v)) : keepsProtection p (s.readOperand a n k) := by
  unfold State.readOperand
  split
  · exact State.machineCheck_keepsProtection hp _
  · exact healed_keepsProtection _ (hk _)

theorem State.readRecord_keepsProtection (a n : Nat) {k : Nat → Res} (hk : ∀ v, keepsProtection p (k v)) : keepsProtection p (s.readRecord a n k) := by
  unfold State.readRecord
  split
  · exact hk _
  split
  · exact State.trapN_keepsProtection hp ..
  refine State.localOperand_keepsProtection hp _ _ _ ?_
  split
  · exact .inl hp
  · exact State.readOperand_keepsProtection hp _ _ hk

end

end Sys2Proof.Machine
end

section
namespace Sys2Proof.Machine

/-! ## Accesses of the global memory -/

/-- Entering user mode from user mode changes nothing. -/
theorem Ctl.protection_user {k : Ctl} {n : Nat} (h : (k.protection n).mode = .user) : Ctl.protection { k with mode := .user } n = k.protection n := by
  have user : k.mode = .user := h
  simp [Ctl.protection, user]

section
variable {s : State} {p : Protection} (hp : s.core.protection = p)
include hp

/-- An upcall leaves a core of user mode in user mode, with its protection state, or traps (R115). -/
theorem State.upcall_keepsProtection (hm : p.mode = .user) (a : Access) (f : FaultInfo) (resume : Word) (counts : Bool) :
    keepsProtection p (.next (s.upcall a f resume counts)) := by
  unfold State.upcall
  dsimp only
  split
  · exact State.trapEntry_keepsProtection hp ..
  split
  · exact State.trapEntry_keepsProtection (by exact hp) ..
  split
  · exact State.trapEntry_keepsProtection (by exact hp) ..
  generalize upcallInfo _ _ _ _ _ _ _ _ = info
  generalize hc : (if (a.kind.pends && a.reg != 0) = true then _ else _ : Core) = c
  have written : c.protection = p := by
    rw [← hc, ← hp]
    split <;> simp
  split
  · exact State.trapEntry_keepsProtection (by exact written) ..
  split
  · exact State.trapEntry_keepsProtection (by exact written) ..
  · have entered : (((if counts = true then c.retired else c).switchTo c.uws).setReg 1 (BitVec.ofNat 64 c.wp)).protection = p := by
      rw [← written]
      cases counts <;> simp
    exact .inl ((Ctl.protection_user ((congrArg Protection.mode entered).trans hm)).trans entered)

theorem State.park_keepsProtection (a : Access) (place : Nat) (f : FaultInfo) : keepsProtection p (s.park a place f) := by
  have noted : (s.noteWalk place a.va.toNat f).core.protection = p := (congrArg Core.protection (s.noteWalk_core ..)).trans hp
  unfold State.park
  split
  · exact State.trapEntry_keepsProtection noted ..
  next hs =>
    split
    · exact .inl hp
    · have hm : p.mode = .user := by
        rw [← hp]
        cases h : s.core.ctl.mode with
        | user => exact h
        | system => exact absurd h hs
      exact State.upcall_keepsProtection (by exact noted) hm ..

theorem State.earlyFault_keepsProtection (a : Access) (place : Nat) (f : FaultInfo) : keepsProtection p (s.earlyFault a place f) := .inl hp

theorem State.sendOut_keepsProtection (a : Access) (hpa port : Option Nat) : keepsProtection p (s.sendOut a hpa port) := .inl hp

theorem State.loadDone_keepsProtection (d : Reg) (va size : Nat) (signed : Bool) (l : Line) : keepsProtection p (s.loadDone d va size signed l) :=
  State.inChunk_keepsProtection hp fun c => by simp [Core.noteRead]

theorem State.loadFar_keepsProtection (a : Access) (hpa port : Option Nat) : keepsProtection p (s.loadFar a hpa port) := by
  unfold State.loadFar
  split
  · exact State.waitClosed_keepsProtection hp
  · refine .inl ?_
    rw [← hp]
    unfold State.endReservation
    split <;> simp [Core.noteRead]

theorem State.loadOwn_keepsProtection (d : Reg) (va size : Nat) (signed : Bool) : keepsProtection p (s.loadOwn d va size signed) := by
  unfold State.loadOwn
  dsimp only
  split
  · exact State.loadDone_keepsProtection hp ..
  split
  · exact State.loadDone_keepsProtection (by simpa using hp) ..
  · have healed : (s.l1Heal (lineOf va)).core.protection = p := by
      unfold State.l1Heal
      split <;> exact hp
    have read := (s.l1Heal (lineOf va)).homeRead_keeps (dieOf (s.l1Heal (lineOf va)).core.pcn) va Req.read false
    rw [healed] at read
    split
    · exact State.earlyFault_keepsProtection healed ..
    · exact State.stallOpen_keepsProtection healed
    next h => exact State.machineCheck_keepsProtection (by rwa [h] at read) _
    next h => exact State.loadFar_keepsProtection (by rwa [h] at read) ..
    next h => exact State.loadDone_keepsProtection (by rw [h] at read; simpa [HomeRes.keeps] using read) ..

theorem State.loadRemote_keepsProtection (d : Reg) (va size : Nat) (signed : Bool) : keepsProtection p (s.loadRemote d va size signed) := by
  unfold State.loadRemote
  dsimp only
  split
  · exact State.loadDone_keepsProtection hp ..
  split
  · exact State.earlyFault_keepsProtection hp ..
  · exact State.loadFar_keepsProtection hp ..

theorem State.loadLocal_keepsProtection (d : Reg) (va size : Nat) (signed : Bool) : keepsProtection p (s.loadLocal d va size signed) := by
  unfold State.loadLocal
  dsimp only
  split
  · exact State.stallOpen_keepsProtection hp
  split
  · exact State.machineCheck_keepsProtection hp _
  · exact State.inChunk_keepsProtection (by exact hp) fun c => by simp

theorem State.load_keepsProtection (d a : Reg) (imm : BitVec 16) (size : Nat) (signed : Bool) : keepsProtection p (s.load d a imm size signed) := by
  refine State.gate_keepsProtection hp _ _ ?_
  dsimp only
  split
  · exact State.trapN_keepsProtection hp ..
  · exact State.loadLocal_keepsProtection hp ..
  · exact State.loadOwn_keepsProtection hp ..
  · exact State.loadRemote_keepsProtection hp ..

theorem State.storeLocal_keepsProtection (va size v : Nat) : keepsProtection p (s.storeLocal va size v) := by
  unfold State.storeLocal
  dsimp only
  split
  · exact State.trapN_keepsProtection hp ..
  split
  · exact State.stallOpen_keepsProtection hp
  split
  · exact State.inChunk_keepsProtection hp fun c => by simp
  · exact .ite (State.waitClosed_keepsProtection hp) (State.inChunk_keepsProtection hp fun c => by simp)

theorem State.bufferStore_keepsProtection (va size v : Nat) (dst : Option Dest) : keepsProtection p (s.bufferStore va size v dst) := by
  refine State.inChunk_keepsProtection hp fun c => ?_
  dsimp only
  split <;> simp

theorem State.storeGlobal_keepsProtection (va size v : Nat) (own : Bool) : keepsProtection p (s.storeGlobal va size v own) := by
  unfold State.storeGlobal
  refine .ite (State.bufferStore_keepsProtection hp ..) (.ite (State.waitClosed_keepsProtection hp) (.ite ?_ ?_))
  · split
    · exact State.earlyFault_keepsProtection hp ..
    next h => exact State.bufferStore_keepsProtection (by rw [State.writeCheck_core h]; exact hp) ..
  · split
    · exact State.earlyFault_keepsProtection hp ..
    · exact State.earlyFault_keepsProtection hp ..
    · exact State.bufferStore_keepsProtection hp ..

theorem State.store_keepsProtection (b a : Reg) (imm : BitVec 16) (size : Nat) : keepsProtection p (s.store b a imm size) := by
  refine State.gate_keepsProtection hp _ _ ?_
  dsimp only
  split
  · exact State.trapN_keepsProtection hp ..
  · exact State.storeLocal_keepsProtection hp ..
  · exact State.storeGlobal_keepsProtection hp ..
  · exact State.storeGlobal_keepsProtection hp ..

theorem State.acquireLoad_keepsProtection (d a : Reg) (size : Nat) (signed scopeS : Bool) :
    keepsProtection p (s.acquireLoad d a size signed scopeS) := by
  have read := s.homeRead_keeps (dieOf s.core.pcn) (s.core.reg a).toNat Req.read scopeS
  rw [hp] at read
  unfold State.acquireLoad
  dsimp only
  split
  · exact State.trapN_keepsProtection hp ..
  · split
    · exact State.park_keepsProtection hp ..
    · exact State.sendOut_keepsProtection hp ..
  · split
    · exact State.park_keepsProtection hp ..
    · exact .inl hp
    next h => exact State.machineCheck_keepsProtection (by rwa [h] at read) _
    next h => exact State.sendOut_keepsProtection (by rwa [h] at read) ..
    next h => exact .ite (keepsProtection_next hp) (State.done_keepsProtection (by rwa [h] at read) (by simp))

theorem State.releaseStore_keepsProtection (va size v : Nat) (scopeS : Bool) (pl : Place) :
    keepsProtection p (s.releaseStore va size v scopeS pl) := by
  unfold State.releaseStore
  dsimp only
  generalize hu : ({ s with core := { s.core with fence := none } } : State).landCleans s.core.pcn = u
  have landed : u.core.protection = p := by rw [← hu, State.landCleans_core]; exact hp
  have written := u.homeWrite_keeps s.core.pcn s.core.pcn va (maskOf va size) (dataAt va size v) Req.write
  rw [landed] at written
  have far : ∀ (t : State) (b : Bool) (ws : List FarWrite) (a : Access) (h port : Option Nat), t.core.protection = p →
      keepsProtection p (if scopeS = true then (if b = true then { t with hostWrites := ws } else { t with remoteWrites := ws }).sendOut a h port
        else (if b = true then { t with hostWrites := ws } else { t with remoteWrites := ws }).done id) := by
    intro t b ws a h port ht
    cases b <;> (split; exact .inl ht; exact State.done_keepsProtection (by exact ht) rfl)
  split
  · split
    · exact State.park_keepsProtection landed ..
    · split
      · exact .inl landed
      · exact State.done_keepsProtection (by exact landed) rfl
  · split
    · exact State.park_keepsProtection landed ..
    · exact .inl landed
    next h => exact State.machineCheck_keepsProtection (by rwa [h] at written) _
    next h =>
      rw [h] at written
      split
      · exact .inl written
      · exact State.done_keepsProtection (by exact written) rfl
    next h => exact State.done_keepsProtection (by rwa [h] at written) (by simp)

theorem State.releaseStr_keepsProtection (a b : Reg) (size : Nat) (scopeS : Bool) : keepsProtection p (s.releaseStr a b size scopeS) := by
  unfold State.releaseStr
  dsimp only
  split
  · exact State.trapN_keepsProtection hp ..
  split
  · exact .inl hp
  split
  · exact .inl hp
  · exact State.releaseStore_keepsProtection hp ..

theorem State.atomic_keepsProtection (acc : Access) (wide : Bit) (quiet : Bool) (f : Rmw) : keepsProtection p (s.atomic acc wide quiet f) := by
  unfold State.atomic
  dsimp only
  split
  · exact State.trapN_keepsProtection hp ..
  · split
    · exact State.park_keepsProtection hp ..
    · split
      · exact State.done_keepsProtection (by exact hp) rfl
      · exact .inl hp
  · generalize hu : ({ s with core := { s.core.l1Drop (lineOf acc.va.toNat) with sent := false } } : State) = u
    have dropped : u.core.protection = p := by rw [← hu]; exact hp
    have done := u.homeRmw_keeps (s.core.l1Drop (lineOf acc.va.toNat)).pcn (s.core.l1Drop (lineOf acc.va.toNat)).pcn acc.va.toNat (if wide = 1 then 8 else 4) f false
    rw [dropped] at done
    split
    · exact State.park_keepsProtection dropped ..
    · exact .inl hp
    next h => exact .inl (by rwa [h] at done)
    next h => exact State.machineCheck_keepsProtection (by rwa [h] at done) _
    next h =>
      refine State.done_keepsProtection (by rwa [h] at done) ?_
      split <;> simp

theorem State.amo_keepsProtection (w : Word) (op : BitVec 4) (d a b : Reg) (n wd : Bit) : keepsProtection p (s.amo w op d a b n wd) :=
  State.alone_keepsProtection hp _ _ _ _ (State.atomic_keepsProtection hp ..)

end

end Sys2Proof.Machine
end

section
namespace Sys2Proof.Machine

section
variable {s : State} {p : Protection} (hp : s.core.protection = p)
include hp

/-! ## Instructions on registers (R268 to R282, R312 to R325) -/

/-- An instruction that writes one register inside the chunk. -/
theorem State.writeReg_keepsProtection (reads : List Reg) (d : Reg) (f : Core → Word) :
    keepsProtection p (s.gate reads [d] (s.inChunk fun c => (c.setReg d (f c)).step4)) :=
  State.gate_keepsProtection hp _ _ (State.inChunk_keepsProtection hp fun c => by simp)

theorem State.branch_keepsProtection (a b : Reg) (i : BitVec 16) (f : Word → Word → Bool) : keepsProtection p (s.branch a b i f) := by
  refine State.gate_keepsProtection hp _ _ (State.inChunk_keepsProtection hp fun c => ?_)
  split <;> rfl

theorem execJal_keepsProtection (o : BitVec 26) : keepsProtection p (execJal o s) :=
  State.gate_keepsProtection hp _ _ (State.inChunk_keepsProtection hp fun c => by simp)

theorem execJalr_keepsProtection (d a : Reg) (i : BitVec 16) : keepsProtection p (execJalr d a i s) :=
  State.gate_keepsProtection hp _ _ (.ite (State.trap_keepsProtection hp ..) (State.inChunk_keepsProtection hp fun c => by simp))

theorem execGaddr_keepsProtection (d a b : Reg) : keepsProtection p (execGaddr d a b s) := by
  refine State.gate_keepsProtection hp _ _ (.ite (State.trapN_keepsProtection hp ..) (State.localOperand_keepsProtection hp _ _ _
    (.ite (State.stallOpen_keepsProtection hp) (State.readOperand_keepsProtection hp _ _ fun v => ?_))))
  split
  · exact State.trapN_keepsProtection hp ..
  · exact State.inChunk_keepsProtection hp fun c => by simp

theorem State.roundOne_keepsProtection (srcs : List Reg) (d : Reg) (r : BitVec 3) (k : FmtKind) (natural : Bool) (f : Rm → Nat → Core → Rounded) :
    keepsProtection p (s.roundOne srcs d r k natural f) :=
  State.gate_keepsProtection hp _ _ (.ite (State.trapN_keepsProtection hp ..) (State.inChunk_keepsProtection hp fun c => by simp))

theorem State.fop_keepsProtection (d a b : Reg) (r : BitVec 3) (f : Rm → Nat → Nat → Nat → Nat × Flg) : keepsProtection p (s.fop d a b r f) :=
  State.roundOne_keepsProtection hp ..

theorem State.fused_keepsProtection (d a b c : Reg) (r : BitVec 3) (np na : Bool) : keepsProtection p (s.fused d a b c r np na) :=
  State.roundOne_keepsProtection hp ..

theorem State.top_keepsProtection (d a b : Reg) (r : BitVec 3) (f : Rm → Nat → Nat → Nat → Nat × Flg) : keepsProtection p (s.top d a b r f) :=
  State.roundOne_keepsProtection hp ..

theorem State.tapFused_keepsProtection (d a b c : Reg) (r : BitVec 3) (np na : Bool) : keepsProtection p (s.tapFused d a b c r np na) :=
  State.roundOne_keepsProtection hp ..

theorem State.fplain_keepsProtection (d a b : Reg) (f : Nat → Nat → Nat × Flg) : keepsProtection p (s.fplain d a b f) :=
  State.gate_keepsProtection hp _ _ (State.inChunk_keepsProtection hp fun c => by simp)

/-! ## Vector instructions (R326 to R342) -/

theorem State.vIssue_keepsProtection (rs : List VRange) (extra : Option (Nat × Nat)) {k : Res} (hk : keepsProtection p k) :
    keepsProtection p (s.vIssue rs extra k) := by
  unfold State.vIssue
  split
  · exact State.trapN_keepsProtection hp ..
  split
  · exact State.trapN_keepsProtection hp ..
  split
  · exact State.trapN_keepsProtection hp ..
  · exact .ite (keepsProtection_next hp) hk

theorem State.vElementwise_keepsProtection (reads : List Reg) (d : Reg) (df : BitVec 4) (dRead rounds : Bool) (srcs : List (Reg × BitVec 4))
    (incs : List Reg) (incLen : Reg → Nat → Nat) (f : VFun) : keepsProtection p (s.vElementwise reads d df dRead rounds srcs incs incLen f) := by
  refine State.alone_keepsProtection hp _ _ _ _ (State.vIssue_keepsProtection hp _ _ (.ite (keepsProtection_next hp) ?_))
  split
  · exact State.machineCheck_keepsProtection hp _
  · refine .ite (.inl ?_) (State.done_keepsProtection ?_ ?_)
    · rw [← hp]; simp
    · rw [← hp]; simp
    · exact Core.increment_protection _ _

theorem State.varOp_keepsProtection (d a b : Reg) (f : BitVec 4) (x y r : Bit) (z rounds : Bool) (g : FmtKind → Rm → Nat → Nat → Nat → Nat → Nat × Flg) :
    keepsProtection p (s.varOp d a b f x y r z rounds g) := by
  unfold State.varOp
  extract_lets
  exact State.vElementwise_keepsProtection hp ..

theorem State.vUnary_keepsProtection (d a : Reg) (df sf : BitVec 4) (x y : Bit) (rounds : Bool) (g : Rm → Nat → Nat → Nat × Flg) :
    keepsProtection p (s.vUnary d a df sf x y rounds g) :=
  State.vElementwise_keepsProtection hp ..

theorem State.vsf_keepsProtection (d a : Reg) (f : BitVec 4) (x y : Bit) (g : Bool → Val → Val × Flg) : keepsProtection p (s.vsf d a f x y g) := by
  unfold State.vsf
  extract_lets
  exact State.vUnary_keepsProtection hp ..

theorem State.vFill_keepsProtection (d b : Reg) (f : BitVec 4) (x : Bit) (rounds : Bool) (g : Rm → Nat → Nat → Nat × Flg) :
    keepsProtection p (s.vFill d b f x rounds g) :=
  State.vElementwise_keepsProtection hp ..

theorem State.vIndexed_keepsProtection (reads incs : List Reg) (f : BitVec 4) (store : Bool) (t bp : Nat) (data : Nat → Nat → VRange)
    {k : Nat → Nat → List Nat → Res} (hk : ∀ start stop tgt, keepsProtection p (k start stop tgt)) :
    keepsProtection p (s.vIndexed reads incs f store t bp data k) := by
  refine State.alone_keepsProtection hp _ _ _ _ ?_
  dsimp only
  split
  · exact State.trapN_keepsProtection hp ..
  refine .ite (keepsProtection_next hp) ?_
  split
  · exact State.machineCheck_keepsProtection hp _
  refine State.vIssue_keepsProtection hp _ _ (.ite (keepsProtection_next hp) (.ite (keepsProtection_next hp) ?_))
  split
  · exact State.machineCheck_keepsProtection hp _
  · exact healed_keepsProtection _ (hk _ _ _)

omit hp in
/-- A vector instruction that ends at an element, with this much of its work done. -/
theorem State.vStep_keepsProtection {c : Core} (hc : c.protection = p) (stop n : Nat) (l : List (Reg × Nat)) :
    keepsProtection p (if stop < n then .next { s with core := { c with vprog := BitVec.ofNat 16 stop } }
      else State.done { s with core := c } fun c => c.increment l) :=
  .ite (.inl hc) (State.done_keepsProtection (by exact hc) (Core.increment_protection _ _))

theorem execVgath_keepsProtection (d a b : Reg) (f : BitVec 4) (q r : Bit) : keepsProtection p (execVgath d a b f q r s) := by
  unfold execVgath
  refine State.vIndexed_keepsProtection hp _ _ _ _ _ _ _ fun start stop tgt => ?_
  dsimp only
  generalize hc : s.core.vPut _ _ _ _ = c
  have put : c.protection = p := (hc ▸ Core.vPut_protection ..).trans hp
  exact State.vStep_keepsProtection put ..

theorem execVscat_keepsProtection (d a b : Reg) (f : BitVec 4) (q : Bit) : keepsProtection p (execVscat d a b f q s) := by
  unfold execVscat
  refine State.vIndexed_keepsProtection hp _ _ _ _ _ _ _ fun start stop tgt => ?_
  dsimp only
  generalize hc : s.core.vScatter _ _ = c
  have put : c.protection = p := (hc ▸ Core.vScatter_protection ..).trans hp
  exact State.vStep_keepsProtection put ..

theorem State.vReduce_keepsProtection (d : Reg) (srcs : List Reg) (f : BitVec 4) (q : Bit) (g : Rm → Word → List (List Nat) → (Word × Flg) × Word) :
    keepsProtection p (s.vReduce d srcs f q g) := by
  refine State.alone_keepsProtection hp _ _ _ _ (State.vIssue_keepsProtection hp _ _ (.ite (keepsProtection_next hp) ?_))
  split
  · exact State.machineCheck_keepsProtection hp _
  · refine State.done_keepsProtection (by exact hp) ((Core.increment_protection _ _).trans ?_)
    simp

theorem execVscan_keepsProtection (d a b : Reg) (f : BitVec 4) (q : Bit) : keepsProtection p (execVscan d a b f q s) := by
  refine State.alone_keepsProtection hp _ _ _ _ (State.vIssue_keepsProtection hp _ _ (.ite (keepsProtection_next hp) ?_))
  dsimp only
  split
  · exact State.machineCheck_keepsProtection hp _
  · refine State.done_keepsProtection (by exact hp) ((Core.increment_protection _ _).trans ?_)
    simp

theorem execVclaim_keepsProtection (d a : Reg) : keepsProtection p (execVclaim d a s) :=
  State.alone_keepsProtection hp _ _ _ _ (State.done_keepsProtection hp (by simp))

theorem execVrel_keepsProtection : keepsProtection p (execVrel s) :=
  State.alone_keepsProtection hp _ _ _ _ (State.done_keepsProtection hp rfl)

/-! ## Fences, maintenance and near-memory requests (R305 to R311) -/

theorem execFenceP_keepsProtection : keepsProtection p (execFenceP s) :=
  State.alone_keepsProtection hp _ _ _ _
    (.ite (State.done_keepsProtection (by rw [State.landCleans_core]; exact hp) rfl) (keepsProtection_next hp))

theorem execFenceS_keepsProtection : keepsProtection p (execFenceS s) :=
  State.alone_keepsProtection hp _ _ _ _
    (.ite (State.done_keepsProtection (by rw [State.landCleans_core]; exact hp) rfl) (.inl hp))

omit hp in
theorem State.maintain_core {op : SliceOp} (h : ∀ (s : State) (l : L2Line), (op s l).core = s.core) (lo hi : Nat) : (s.maintain op lo hi).core = s.core :=
  State.foldl_keeps id op h _ s

omit hp in
theorem cleanLine_core (s : State) (l : L2Line) : (cleanLine s l).core = s.core := by
  unfold cleanLine
  split
  · rfl
  · exact s.cleanLine_core l

omit hp in
theorem invLine_core (s : State) (l : L2Line) : (invLine s l).core = s.core := rfl

omit hp in
theorem clinvLine_core (s : State) (l : L2Line) : (clinvLine s l).core = s.core := by
  unfold clinvLine
  split
  · rfl
  · rw [State.l2Drop_core, State.writeBackLine_core]

omit hp in
theorem State.prefetchLine_core (s : State) (x : Nat) : (s.prefetchLine x).core = s.core := by
  unfold State.prefetchLine
  refine State.foldl_keeps id _ (fun t d => ?_) _ s
  dsimp only
  split
  next h =>
    split
    · rfl
    · exact (State.fill_core ..).trans (State.slice_core h)
  · exact t.noteWalk_core ..

omit hp in
theorem State.prefetch_core (s : State) (x n : Nat) : (s.prefetch x n).core = s.core := by
  induction n generalizing s x with
  | zero => rfl
  | succ n ih => rw [State.prefetch, ih, State.prefetchLine_core]

theorem State.memcRange_keepsProtection (a b : Reg) {k : State → Nat → Nat → State} (hk : ∀ t lo hi, (k t lo hi).core.protection = t.core.protection) :
    keepsProtection p (s.memcRange a b k) := by
  refine .ite (State.done_keepsProtection hp rfl) (.ite (State.trapN_keepsProtection hp ..) (.ite (State.trapN_keepsProtection hp ..) ?_))
  split
  · refine .ite (keepsProtection_next ?_) (State.done_keepsProtection ((hk ..).trans hp) rfl)
    split
    · exact hp
    · exact (hk ..).trans hp
  · exact State.done_keepsProtection ((hk ..).trans hp) rfl

theorem execClean_keepsProtection (a b : Reg) : keepsProtection p (execClean a b s) :=
  State.alone_keepsProtection hp _ _ _ _ (State.memcRange_keepsProtection hp a b fun _ _ _ => by rw [State.maintain_core cleanLine_core])

theorem execInv_keepsProtection (a b : Reg) : keepsProtection p (execInv a b s) :=
  State.alone_keepsProtection hp _ _ _ _ (State.memcRange_keepsProtection hp a b fun _ _ _ => by rw [State.maintain_core invLine_core]; rfl)

theorem execClinv_keepsProtection (a b : Reg) : keepsProtection p (execClinv a b s) :=
  State.alone_keepsProtection hp _ _ _ _ (State.memcRange_keepsProtection hp a b fun _ _ _ => by rw [State.maintain_core clinvLine_core]; rfl)

theorem execPref_keepsProtection (a b : Reg) : keepsProtection p (execPref a b s) :=
  State.alone_keepsProtection hp _ _ _ _ (State.memcRange_keepsProtection hp a b fun _ _ _ => by rw [State.prefetch_core])

theorem State.sendNm_keepsProtection (d : Reg) (r : NmReq) (va : Word) : keepsProtection p (s.sendNm d r va) := by
  unfold State.sendNm
  dsimp only
  refine State.done_keepsProtection (by exact hp) ?_
  simp

theorem execNmc_keepsProtection (d a : Reg) : keepsProtection p (execNmc d a s) :=
  State.alone_keepsProtection hp _ _ _ _ (.ite (State.trapN_keepsProtection hp ..) (State.localOperand_keepsProtection hp _ _ _
    (.ite (keepsProtection_next hp) (State.readOperand_keepsProtection hp _ _ fun _ =>
      .ite (State.trapN_keepsProtection hp ..) (State.sendNm_keepsProtection hp ..)))))

/-! ## Engine queues and trigger counters (R343 to R346, R406, R407) -/

theorem State.pushWord_keepsProtection (a w block : Nat) {k : Nat → Cmd → Nat → Res} (hk : ∀ q c n, keepsProtection p (k q c n)) :
    keepsProtection p (s.pushWord a w block k) := by
  unfold State.pushWord
  split
  · exact State.trapN_keepsProtection hp ..
  split
  · exact State.trapN_keepsProtection hp ..
  · exact .ite (State.hold_keepsProtection hp _) (hk _ _ _)

theorem State.readBlock_keepsProtection (a w : Nat) {k : Nat → Res} (hk : ∀ v, keepsProtection p (k v)) : keepsProtection p (s.readBlock a w k) :=
  .ite (hk _) (.ite (State.trapN_keepsProtection hp ..) (.ite (State.trapN_keepsProtection hp ..) (.ite (State.trapN_keepsProtection hp ..)
    (State.readOperand_keepsProtection hp _ _ hk))))

theorem State.pushChecks_keepsProtection (a : Nat) (q : Option Nat) {k : Nat → Cmd → Nat → Res} (hk : ∀ q c n, keepsProtection p (k q c n)) :
    keepsProtection p (s.pushChecks a q k) := by
  unfold State.pushChecks
  split
  · exact State.pushWord_keepsProtection hp _ _ _ hk
  · exact .ite (State.trapN_keepsProtection hp ..) (State.localOperand_keepsProtection hp _ _ _ (.ite (keepsProtection_next hp)
      (State.readOperand_keepsProtection hp _ _ fun _ => .ite (State.trapN_keepsProtection hp ..)
        (State.readBlock_keepsProtection hp _ _ fun _ => State.pushWord_keepsProtection hp _ _ _ hk))))

theorem execQpush_keepsProtection (a : Reg) (q : BitVec 4) : keepsProtection p (execQpush a q s) :=
  State.alone_keepsProtection hp _ _ _ _ (State.pushChecks_keepsProtection hp _ _ fun _ _ _ =>
    .ite (State.done_keepsProtection hp rfl) (State.hold_keepsProtection hp _))

theorem execQpushN_keepsProtection (d a : Reg) (q : BitVec 4) : keepsProtection p (execQpushN d a q s) :=
  State.alone_keepsProtection hp _ _ _ _ (State.pushChecks_keepsProtection hp _ _ fun _ _ _ =>
    .ite (State.done_keepsProtection hp (by simp)) (State.done_keepsProtection hp (by simp)))

theorem execQpop_keepsProtection (d : Reg) (q : BitVec 4) : keepsProtection p (execQpop d q s) := by
  refine State.alone_keepsProtection hp _ _ _ _ ?_
  split
  · exact keepsProtection_next hp
  · exact State.done_keepsProtection hp (by simp)

theorem execQpopN_keepsProtection (d : Reg) (q : BitVec 4) : keepsProtection p (execQpopN d q s) := by
  refine State.alone_keepsProtection hp _ _ _ _ ?_
  split
  · exact State.done_keepsProtection hp (by simp)
  · exact State.done_keepsProtection hp (by simp)

theorem State.arm_keepsProtection (c : BitVec 4) (t : Word) (k : ArmKind) (draws : Nat) : keepsProtection p (s.arm c t k draws) :=
  .ite (State.trap_keepsProtection hp ..) (State.done_keepsProtection hp (by simp))

theorem execArmPush_keepsProtection (a b : Reg) (c : BitVec 4) : keepsProtection p (execArmPush a b c s) :=
  State.alone_keepsProtection hp _ _ _ _ (State.pushChecks_keepsProtection hp _ _ fun _ _ _ => State.arm_keepsProtection hp ..)

theorem execCtradd_keepsProtection (a : Reg) (c : BitVec 4) : keepsProtection p (execCtradd a c s) :=
  State.alone_keepsProtection hp _ _ _ _ (.ite (keepsProtection_next hp) (State.done_keepsProtection hp (by simp)))

theorem execCtrrd_keepsProtection (d : Reg) (c : BitVec 4) : keepsProtection p (execCtrrd d c s) :=
  State.alone_keepsProtection hp _ _ _ _ (State.done_keepsProtection hp (by simp))

theorem execWaitc_keepsProtection (d a : Reg) (c : BitVec 4) : keepsProtection p (execWaitc d a c s) :=
  State.alone_keepsProtection hp _ _ _ _ (.ite (State.done_keepsProtection hp (by simp))
    (.ite (State.done_keepsProtection hp (by simp)) (keepsProtection_next hp)))

end

end Sys2Proof.Machine
end

section
namespace Sys2Proof.Machine

/-! ## Tasks and slices (R204, R394 to R399) -/

@[simp] theorem State.requestPull_core (s : State) (i : QueueId) : (s.requestPull i).core = s.core := by
  unfold State.requestPull
  split <;> rfl

@[simp] theorem State.noteLow_core (s : State) (i : QueueId) : (s.noteLow i).core = s.core := State.foldl_keeps id _ State.requestPull_core _ s

@[simp] theorem State.pullCheck_core (s : State) (i : QueueId) (taken : Nat) : (s.pullCheck i taken).core = s.core := by
  unfold State.pullCheck
  dsimp only
  generalize (_ || s.low i : Bool) = b
  cases b
  · rfl
  · exact s.requestPull_core i

@[simp] theorem State.overflow_core (s : State) (i : QueueId) : (s.overflow i).core = s.core := by
  unfold State.overflow
  dsimp only
  split
  · rfl
  split
  · rfl
  split
  · split <;> rfl
  · rfl

@[simp] theorem State.insertBody_core (s : State) (i : QueueId) (b : Body) (src : BitVec 11) : (s.insertBody i b src).core = s.core := by
  simp only [State.insertBody, State.insert, State.overflow_core]
  rfl

theorem State.settle_protection (s : State) (q : Nat) : (s.settle q).core.protection = s.core.protection := by
  simp only [State.settle, State.idles]
  split
  · split
    · rw [State.overflow_core]
      exact s.modCore_protection q _ fun c => rfl
    · rfl
  · rfl

section
variable {s : State} {p : Protection} (hp : s.core.protection = p)
include hp

theorem State.endSlice_protection : s.endSlice.core.protection = p :=
  (State.foldl_keeps Core.protection _ State.settle_protection _ _).trans (State.memberGone_protection hp)

theorem State.takeEffect_keepsProtection (d : Reg) (at_ : Nat) (e : Entry) : keepsProtection p (s.takeEffect d at_ e) := by
  unfold State.takeEffect
  dsimp only
  generalize hu : State.pullCheck _ _ _ = u
  have taken : u.core.protection = p := by
    rw [← hu, State.pullCheck_core, State.setQueue_core, State.noteLow_core]
    exact hp
  split
  · exact State.done_keepsProtection taken (by simp)
  next r slot m _ => exact State.done_keepsProtection taken (u.core.takeEntry_protection d at_ r (.member slot) _ m)
  · exact .inl taken

theorem execTake_keepsProtection (d a : Reg) : keepsProtection p (execTake d a s) := by
  refine State.alone_keepsProtection hp _ _ _ _ (.ite (State.trapN_keepsProtection hp ..) (State.storeOperand_keepsProtection hp _ _
    (.ite (keepsProtection_next hp) ?_)))
  dsimp only
  generalize hu : (if s.core.inSlice = true then s.endSlice else s) = u
  have ended : u.core.protection = p := by
    rw [← hu]
    split
    · exact State.endSlice_protection hp
    · exact hp
  split
  · exact State.takeEffect_keepsProtection ended ..
  · exact .inl ((State.settle_protection _ _).trans ended)

/-- A record that a core inserts, and what it does to the package after that (R396, R397). -/
theorem State.insertDone_keepsProtection (v : Nat) (i : QueueId) (b : Body) {f : State → State} (hf : ∀ t : State, t.core.protection = p → (f t).core.protection = p) :
    keepsProtection p (s.insertDone v i b f) :=
  .ite (State.done_keepsProtection (hf _ ((congrArg Core.protection (s.insertBody_core ..)).trans hp)) rfl) (State.hold_keepsProtection hp v)

theorem execSpawn_keepsProtection (a : Reg) : keepsProtection p (execSpawn a s) :=
  State.alone_keepsProtection hp _ _ _ _ (State.readRecord_keepsProtection hp _ _ fun v => .ite (State.trapN_keepsProtection hp ..)
    (.ite (State.hold_keepsProtection hp v) (State.insertDone_keepsProtection hp _ _ _ fun _ h => h)))

theorem execSpawnt_keepsProtection (a : Reg) : keepsProtection p (execSpawnt a s) :=
  State.alone_keepsProtection hp _ _ _ _ (State.readRecord_keepsProtection hp _ _ fun v => .ite (State.trapN_keepsProtection hp ..)
    (.ite (State.hold_keepsProtection hp v) (State.insertDone_keepsProtection hp _ _ _ fun _ h => h)))

theorem execYield_keepsProtection (a : Reg) : keepsProtection p (execYield a s) :=
  State.alone_keepsProtection hp _ _ _ _ (.ite (State.trap_keepsProtection hp ..) (State.readRecord_keepsProtection hp _ _ fun _ =>
    .ite (State.trapN_keepsProtection hp ..) (State.insertDone_keepsProtection hp _ _ _ fun _ => State.endSlice_protection)))

theorem execDone_keepsProtection : keepsProtection p (execDone s) :=
  State.alone_keepsProtection hp _ _ _ _ (.ite (State.trap_keepsProtection hp ..) (.ite (keepsProtection_next hp)
    (State.done_keepsProtection (State.endSlice_protection hp) rfl)))

theorem execSwp_keepsProtection (a : Reg) : keepsProtection p (execSwp a s) := by
  refine State.alone_keepsProtection hp _ _ _ _ ?_
  dsimp only
  split
  · exact State.trapN_keepsProtection hp ..
  · exact State.machineCheck_keepsProtection hp _
  · exact State.done_keepsProtection (by exact hp) (Core.switchTo_protection ..)

theorem execWidf_keepsProtection (d a : Reg) (k : BitVec 3) : keepsProtection p (execWidf d a k s) :=
  State.alone_keepsProtection hp _ _ _ _ (.ite (State.done_keepsProtection hp (by simp))
    (.ite (State.trap_keepsProtection hp ..) (State.done_keepsProtection hp (by simp))))

/-! ## Messages (R408 to R412) -/

theorem State.deliver_protection (w : Word) (m : Message) : (s.deliver w m).1.core.protection = p := by
  unfold State.deliver
  split
  next q _ => exact (s.modCore_protection q (fun c => { c with mailbox := c.mailbox ++ [m] }) fun c => rfl).trans hp
  · exact hp
  · exact hp

theorem execMsend_keepsProtection (d a b : Reg) : keepsProtection p (execMsend d a b s) :=
  State.alone_keepsProtection hp _ _ _ _ (State.readRecord_keepsProtection hp _ _ fun v => .ite (State.hold_keepsProtection hp v)
    (State.done_keepsProtection (by exact hp) (by simp)))

theorem execMsendw_keepsProtection (d a b : Reg) : keepsProtection p (execMsendw d a b s) := by
  refine State.alone_keepsProtection hp _ _ _ _ (State.readRecord_keepsProtection hp _ _ fun v => ?_)
  dsimp only
  generalize (match s.core.msendw with | some (t, _) => t | none => s.tb) = issue
  have waits : ∀ t : State, t.core.protection = p →
      keepsProtection p (State.hold { t with core := { t.core with msendw := some (issue, s.core.reg b) } } v) := fun t ht => .inl ht
  refine .ite (State.trap_keepsProtection (by exact hp) ..) (.ite (waits s hp) ?_)
  have delivered := State.deliver_protection hp (s.core.reg b) ⟨BitVec.ofNat 256 v, s.ownMailbox⟩
  split
  next h => exact waits _ (by rwa [h] at delivered)
  next h => exact State.done_keepsProtection (by rwa [h] at delivered) (by simp)

theorem State.receive_keepsProtection (d : Reg) (at_ : Nat) {r : Res} (hr : keepsProtection p r) : keepsProtection p (s.receive d at_ r) := by
  refine .ite (State.trapN_keepsProtection hp ..) (State.storeOperand_keepsProtection hp _ _ (.ite (keepsProtection_next hp) ?_))
  split
  · exact hr
  next m ms _ =>
    refine State.done_keepsProtection hp ?_
    simp

theorem execMrecv_keepsProtection (d a : Reg) : keepsProtection p (execMrecv d a s) :=
  State.alone_keepsProtection hp _ _ _ _ (State.receive_keepsProtection hp _ _ (keepsProtection_next hp))

theorem execMrecvN_keepsProtection (d a : Reg) : keepsProtection p (execMrecvN d a s) :=
  State.alone_keepsProtection hp _ _ _ _ (State.receive_keepsProtection hp _ _ (State.done_keepsProtection hp (by simp)))

/-! ## Barriers and timetables (R216, R400 to R403) -/

theorem execBar_keepsProtection : keepsProtection p (execBar s) := by
  refine State.alone_keepsProtection hp _ _ _ _ (.ite (State.trap_keepsProtection hp ..) ?_)
  split
  · exact .inl hp
  · exact State.done_keepsProtection hp rfl
  · exact .inl hp

theorem execBars_keepsProtection : keepsProtection p (execBars s) := by
  refine State.alone_keepsProtection hp _ _ _ _ (.ite (State.trap_keepsProtection hp ..) ?_)
  split
  · exact State.done_keepsProtection hp rfl
  · exact State.done_keepsProtection hp rfl
  · exact .inl hp

theorem execWaitp_keepsProtection : keepsProtection p (execWaitp s) :=
  State.alone_keepsProtection hp _ _ _ _ (.ite (keepsProtection_next hp) (State.done_keepsProtection hp rfl))

omit hp in
/-- Whatever comes of an engine's access, the active core has this protection state. -/
def Eng.keeps {α : Type} (p : Protection) (r : Eng α) : Prop := match r with
  | .ok s _ | .stop s _ _ => s.core.protection = p
  | .wait => True

theorem State.engRead_keeps (place va n : Nat) : (s.engRead place va n).keeps p := by
  have read := s.homeRead_keeps (engDie place) va Req.read false
  rw [hp] at read
  unfold State.engRead
  split
  · exact hp
  split
  · split
    · exact (congrArg Core.protection (s.noteWalk_core ..)).trans hp
    · trivial
    next h => rw [h] at read; exact read
    next h => rw [h] at read; exact read
    next h => rw [h] at read; exact read
  split
  · trivial
  split
  · exact hp
  · exact hp

theorem State.ttRead_keepsProtection (base : Nat) (l : List Span) (v : Nat) {k : State → Nat → Res}
    (hk : ∀ t v, t.core.protection = p → keepsProtection p (k t v)) : keepsProtection p (s.ttRead base l v k) := by
  induction l generalizing s v with
  | nil => exact hk s v hp
  | cons x rest ih =>
    have read := State.engRead_keeps hp s.core.pcn x.1 x.2
    unfold State.ttRead
    split
    next h => rw [h] at read; exact ih read _
    · exact .inl hp
    next h =>
      rw [h] at read
      exact .ite (State.trapN_keepsProtection read ..) (State.trap_keepsProtection read ..)

theorem execTtload_keepsProtection (a : Reg) : keepsProtection p (execTtload a s) := by
  refine State.alone_keepsProtection hp _ _ _ _ ?_
  split
  · exact State.trap_keepsProtection hp ..
  · refine .ite (State.trap_keepsProtection hp ..) (.ite (State.trap_keepsProtection hp ..) (.ite (keepsProtection_next hp)
      (.ite (State.trap_keepsProtection hp ..) (State.ttRead_keepsProtection hp _ _ _ fun t d ht => .ite (State.trap_keepsProtection ht ..)
        (State.ttRead_keepsProtection ht _ _ _ fun u v hu => ?_)))))
    dsimp only
    split
    · exact State.trap_keepsProtection hu ..
    · exact State.done_keepsProtection hu rfl

theorem execArmEvent_keepsProtection (a : Reg) (c : BitVec 4) : keepsProtection p (execArmEvent a c s) :=
  State.alone_keepsProtection hp _ _ _ _ (State.arm_keepsProtection hp ..)

theorem execArmWake_keepsProtection (a : Reg) (c : BitVec 4) : keepsProtection p (execArmWake a c s) :=
  State.alone_keepsProtection hp _ _ _ _ (State.arm_keepsProtection hp ..)

/-! ## Macros and tables (R348, R349) -/

theorem State.statChecks_keepsProtection (base n : Nat) {k : Res} (hk : keepsProtection p k) : keepsProtection p (s.statChecks base n k) := by
  refine .ite (State.trapN_keepsProtection hp ..) (.ite (State.trapN_keepsProtection hp ..) ?_)
  split
  · exact State.trapN_keepsProtection hp ..
  · exact hk

theorem State.markLoop_protection (mark : Nat → BitVec 32) (blocked : State → Nat → Bool) (first : Nat) (l : List Nat) :
    (s.markLoop mark blocked first l).1.core.protection = p := by
  induction l generalizing s with
  | nil => exact hp
  | cons j js ih =>
    unfold State.markLoop
    split
    · exact hp
    · exact ih (by exact hp)

theorem markDone_keepsProtection (b : Bool) : keepsProtection p (markDone (s, b)) :=
  .ite (State.done_keepsProtection hp rfl) (keepsProtection_next hp)

theorem execStat_keepsProtection (a b : Reg) (w : BitVec 4) : keepsProtection p (execStat a b w s) :=
  State.alone_keepsProtection hp _ _ _ _ (.ite (State.trapN_keepsProtection hp ..) (State.statChecks_keepsProtection hp _ _
    (.ite (State.trapN_keepsProtection hp ..) (markDone_keepsProtection (State.markLoop_protection hp ..) _))))

theorem execUnstat_keepsProtection (a b : Reg) : keepsProtection p (execUnstat a b s) :=
  State.alone_keepsProtection hp _ _ _ _ (.ite (State.trapN_keepsProtection hp ..) (State.statChecks_keepsProtection hp _ _
    (markDone_keepsProtection (State.markLoop_protection (by exact hp) ..) _)))

theorem execCtbl_keepsProtection (a : Reg) : keepsProtection p (execCtbl a s) :=
  State.alone_keepsProtection hp _ _ _ _ (.ite (State.trapN_keepsProtection hp ..) (State.localOperand_keepsProtection hp _ _ _
    (State.readOperand_keepsProtection hp _ _ fun _ => State.done_keepsProtection hp rfl)))

end

end Sys2Proof.Machine
end

section
namespace Sys2Proof.Machine

section
variable {s : State} {p : Protection} (hp : s.core.protection = p)
include hp

/-! ## Jumps, accesses and requests of one step -/

theorem execJ_keepsProtection (o : BitVec 26) : keepsProtection p (execJ o s) :=
  State.gate_keepsProtection hp _ _ (State.inChunk_keepsProtection hp fun c => by simp)

theorem execLda_keepsProtection (d a : Reg) (u c : Bit) (z : BitVec 2) : keepsProtection p (execLda d a u c z s) :=
  State.alone_keepsProtection hp _ _ _ _ (State.acquireLoad_keepsProtection hp ..)

theorem execStr_keepsProtection (a b : Reg) (c : Bit) (z : BitVec 2) : keepsProtection p (execStr a b c z s) :=
  State.alone_keepsProtection hp _ _ _ _ (State.releaseStr_keepsProtection hp ..)

theorem execCas_keepsProtection (d a b : Reg) (w : Bit) : keepsProtection p (execCas d a b w s) :=
  State.alone_keepsProtection hp _ _ _ _ (State.atomic_keepsProtection hp ..)

theorem execNmres_keepsProtection (d a : Reg) : keepsProtection p (execNmres d a s) :=
  State.alone_keepsProtection hp _ _ _ _ (State.sendNm_keepsProtection hp ..)

theorem execNmresAbandon_keepsProtection (d a : Reg) : keepsProtection p (execNmresAbandon d a s) :=
  State.alone_keepsProtection hp _ _ _ _ (State.sendNm_keepsProtection hp ..)

theorem execNmstat_keepsProtection (d a : Reg) : keepsProtection p (execNmstat d a s) :=
  State.alone_keepsProtection hp _ _ _ _ (State.sendNm_keepsProtection hp ..)

theorem execCvt_keepsProtection (d a : Reg) (x y : Bit) (r : BitVec 3) (t f : BitVec 4) : keepsProtection p (execCvt d a x y r t f s) := by
  unfold execCvt
  extract_lets
  exact State.roundOne_keepsProtection hp ..

theorem execVset_keepsProtection (d b : Reg) (f : BitVec 4) (x : Bit) : keepsProtection p (execVset d b f x s) := by
  unfold execVset
  extract_lets
  exact State.vFill_keepsProtection hp ..

theorem execViota_keepsProtection (d b : Reg) (f : BitVec 4) (x : Bit) : keepsProtection p (execViota d b f x s) := by
  unfold execViota
  extract_lets
  exact State.vFill_keepsProtection hp ..

theorem execVrsum_keepsProtection (d a : Reg) (f : BitVec 4) (q : Bit) : keepsProtection p (execVrsum d a f q s) := by
  unfold execVrsum
  extract_lets
  exact State.vReduce_keepsProtection hp ..

theorem execVrmax_keepsProtection (d a : Reg) (f : BitVec 4) (q : Bit) : keepsProtection p (execVrmax d a f q s) := by
  unfold execVrmax
  extract_lets
  exact State.vReduce_keepsProtection hp ..

theorem execVrmin_keepsProtection (d a : Reg) (f : BitVec 4) (q : Bit) : keepsProtection p (execVrmin d a f q s) := by
  unfold execVrmin
  extract_lets
  exact State.vReduce_keepsProtection hp ..

theorem execVdot_keepsProtection (d a b : Reg) (f : BitVec 4) (q : Bit) : keepsProtection p (execVdot d a b f q s) := by
  unfold execVdot
  extract_lets
  exact State.vReduce_keepsProtection hp ..

/-! ## System instructions (R284 to R292) -/

theorem execCrd_keepsProtection (d : Reg) (x : BitVec 12) : keepsProtection p (execCrd d x s) :=
  .ite (keepsProtection_next hp) (.ite (State.trap_keepsProtection hp ..)
    (State.gate_keepsProtection hp _ _ (State.inChunk_keepsProtection hp fun c => by simp)))

/-- User mode writes only the control registers that protect nothing (R251, R284). -/
theorem execCwr_keepsProtection (hm : s.core.ctl.mode = .user) (a : Reg) (x : BitVec 12) : keepsProtection p (execCwr a x s) := by
  unfold execCwr
  cases hx : cregAnyWrite x with
  | false => exact State.alone_sys_keepsProtection hp hm ..
  | true =>
    exact State.alone_keepsProtection hp _ _ _ _ (.ite (State.trap_keepsProtection hp ..)
      (State.done_keepsProtection hp (Core.cregWrite_protection _ hx _)))

theorem execNop_keepsProtection : keepsProtection p (execNop s) :=
  State.alone_keepsProtection hp _ _ _ _ (State.done_keepsProtection hp rfl)

theorem execTrap_keepsProtection (a : Reg) : keepsProtection p (execTrap a s) :=
  State.alone_keepsProtection hp _ _ _ _ (State.trapEntry_keepsProtection (by exact hp) ..)

theorem execBrk_keepsProtection : keepsProtection p (execBrk s) :=
  State.alone_keepsProtection hp _ _ _ _ (State.trap_keepsProtection hp ..)

omit hp in
/-- What UPRET does to a core after the switch of the workspace: a write of the record, a jump and the retirement. -/
theorem Core.resumed_protection (c : Core) (at_ v : Nat) (t : Word) : ((c.pokeLE at_ 8 v).jump t).retired.protection = c.protection := by simp

theorem execUpret_keepsProtection (a : Reg) : keepsProtection p (execUpret a s) := by
  refine State.alone_keepsProtection hp _ _ _ _ ?_
  dsimp only
  split
  · exact State.machineCheck_keepsProtection hp _
  split
  · exact State.trapN_keepsProtection (by exact hp) ..
  split
  · exact State.trapN_keepsProtection (by exact hp) ..
  · exact State.machineCheck_keepsProtection (by exact hp) _
  · generalize hc : Core.retired _ = c
    have resumed : c.protection = p := by
      rw [← hc, Core.resumed_protection, Core.switchTo_protection]
      exact hp
    exact .inl resumed

theorem execWfe_keepsProtection : keepsProtection p (execWfe s) := by
  refine State.alone_keepsProtection hp _ _ _ _ (.ite (keepsProtection_next hp) ?_)
  split
  · split
    · exact State.machineCheck_keepsProtection hp _
    · exact .inl hp
  · exact .ite (State.done_keepsProtection hp rfl) (.inl hp)

theorem execReplay_keepsProtection : keepsProtection p (execReplay s) :=
  State.alone_keepsProtection hp _ _ _ _
    (.ite (State.done_keepsProtection (by exact (congrArg Core.protection (s.landCleans_core s.core.pcn)).trans hp) rfl) (keepsProtection_next hp))

/-- R251, R252: an instruction of user mode keeps the protection state or enters system mode. -/
theorem exec_keepsProtection (hm : s.core.ctl.mode = .user) {i : Instr} (hi : (encode i).isSome = true) : keepsProtection p (exec i s) := by
  cases i with
  | trap => exact execTrap_keepsProtection hp ..
  | upret => exact execUpret_keepsProtection hp ..
  | tinv => exact State.alone_sys_keepsProtection hp hm ..
  | crd => exact execCrd_keepsProtection hp ..
  | cwr => exact execCwr_keepsProtection hp hm ..
  | add | sub | and | or | xor | sll | srl | sra | slt | sltu | min | max | minu | maxu | clz | ctz | popc | sext | zext | mul | mulh | mulhu
    | div | divu | rem | remu | addi | andi | ori | xori | slti | sltiu | slli | srli | srai | li | lis | adpc | padd | psub | pmul | pmin |
    pmax | pavg | fclass | tcls =>
    dsimp only [exec]
    exact State.writeReg_keepsProtection hp ..
  | gaddr => exact execGaddr_keepsProtection hp ..
  | beq | bne | blt | bge | bltu | bgeu =>
    dsimp only [exec]
    exact State.branch_keepsProtection hp ..
  | j => exact execJ_keepsProtection hp ..
  | jal => exact execJal_keepsProtection hp ..
  | jalr => exact execJalr_keepsProtection hp ..
  | ldb | ldh | ldw | ldd | ldbu | ldhu | ldwu =>
    dsimp only [exec]
    exact State.load_keepsProtection hp ..
  | stb | sth | stw | std =>
    dsimp only [exec]
    exact State.store_keepsProtection hp ..
  | lda => exact execLda_keepsProtection hp ..
  | str => exact execStr_keepsProtection hp ..
  | amoAdd | amoAnd | amoOr | amoXor | amoMin | amoMax | amoMinu | amoMaxu | amoSwap | amoFadd | amoFmax | amoFmin | amoTadd =>
    dsimp only [exec]
    exact State.amo_keepsProtection hp ..
  | cas => exact execCas_keepsProtection hp ..
  | clean => exact execClean_keepsProtection hp ..
  | inv => exact execInv_keepsProtection hp ..
  | clinv => exact execClinv_keepsProtection hp ..
  | pref => exact execPref_keepsProtection hp ..
  | fadd | fsub | fmul | fdiv =>
    dsimp only [exec]
    exact State.fop_keepsProtection hp ..
  | fsqrt | tsqrt =>
    dsimp only [exec]
    exact State.roundOne_keepsProtection hp ..
  | fmin | fmax | feq | flt | fle =>
    dsimp only [exec]
    exact State.fplain_keepsProtection hp ..
  | fma | fms | fnma | fnms =>
    dsimp only [exec]
    exact State.fused_keepsProtection hp ..
  | tadd | tsub | tmul | tdiv =>
    dsimp only [exec]
    exact State.top_keepsProtection hp ..
  | tfma | tfms | tfnma | tfnms =>
    dsimp only [exec]
    exact State.tapFused_keepsProtection hp ..
  | cvt => exact execCvt_keepsProtection hp ..
  | vadd | vsub | vmul | vfma | vmin | vmax | vand | vor | vxor | vshl | vcmpeq | vcmplt | vsel =>
    dsimp only [exec]
    exact State.varOp_keepsProtection hp ..
  | vexp | vlog2 | vrcp | vrsq | vsigm | vtanh =>
    dsimp only [exec]
    exact State.vsf_keepsProtection hp ..
  | vmov | vcvt =>
    dsimp only [exec]
    exact State.vUnary_keepsProtection hp ..
  | vset => exact execVset_keepsProtection hp ..
  | vgath => exact execVgath_keepsProtection hp ..
  | vscat => exact execVscat_keepsProtection hp ..
  | viota => exact execViota_keepsProtection hp ..
  | vrsum => exact execVrsum_keepsProtection hp ..
  | vrmax => exact execVrmax_keepsProtection hp ..
  | vrmin => exact execVrmin_keepsProtection hp ..
  | vdot => exact execVdot_keepsProtection hp ..
  | vclaim => exact execVclaim_keepsProtection hp ..
  | vscan => exact execVscan_keepsProtection hp ..
  | qpush => exact execQpush_keepsProtection hp ..
  | qpushN => exact execQpushN_keepsProtection hp ..
  | qpop => exact execQpop_keepsProtection hp ..
  | qpopN => exact execQpopN_keepsProtection hp ..
  | take => exact execTake_keepsProtection hp ..
  | spawn => exact execSpawn_keepsProtection hp ..
  | spawnt => exact execSpawnt_keepsProtection hp ..
  | yield => exact execYield_keepsProtection hp ..
  | swp => exact execSwp_keepsProtection hp ..
  | widf => exact execWidf_keepsProtection hp ..
  | ttload => exact execTtload_keepsProtection hp ..
  | armPush => exact execArmPush_keepsProtection hp ..
  | armEvent => exact execArmEvent_keepsProtection hp ..
  | armWake => exact execArmWake_keepsProtection hp ..
  | ctradd => exact execCtradd_keepsProtection hp ..
  | ctrrd => exact execCtrrd_keepsProtection hp ..
  | waitc => exact execWaitc_keepsProtection hp ..
  | msend => exact execMsend_keepsProtection hp ..
  | msendw => exact execMsendw_keepsProtection hp ..
  | mrecv => exact execMrecv_keepsProtection hp ..
  | mrecvN => exact execMrecvN_keepsProtection hp ..
  | nmc => exact execNmc_keepsProtection hp ..
  | nmres => exact execNmres_keepsProtection hp ..
  | nmresAbandon => exact execNmresAbandon_keepsProtection hp ..
  | nmstat => exact execNmstat_keepsProtection hp ..
  | stat => exact execStat_keepsProtection hp ..
  | unstat => exact execUnstat_keepsProtection hp ..
  | ctbl => exact execCtbl_keepsProtection hp ..
  | nop => exact execNop_keepsProtection hp ..
  | eret => exact State.alone_sys_keepsProtection hp hm ..
  | wfe => exact execWfe_keepsProtection hp ..
  | brk => exact execBrk_keepsProtection hp ..
  | replay => exact execReplay_keepsProtection hp ..
  | halt => exact State.alone_sys_keepsProtection hp hm ..
  | fenceP => exact execFenceP_keepsProtection hp ..
  | fenceS => exact execFenceS_keepsProtection hp ..
  | vrel => exact execVrel_keepsProtection hp ..
  | done => exact execDone_keepsProtection hp ..
  | bar => exact execBar_keepsProtection hp ..
  | bars => exact execBars_keepsProtection hp ..
  | waitp => exact execWaitp_keepsProtection hp ..
  | ctblBankWrite | mxRun | mxSave | mxRestore | mxAcc | mxCtswap | twGet | twPut | twMcast | ceCopy | ceFill | ceMigrate | gkGather | gkBag |
    gkScatadd | gkKdir | gkKgrp | gkKprod | gkKunion | gkKexp | gkKbcast | gkJtchk | clFoldarm | clFoldwait | nmcRequestCheck | nmConfigure |
    nmElementwise | nmAggregate | nmQuery | nmResume | nmAbandon | foldArrive | rootGrant | loadDataArrives | replyLands | earlyCheckFault |
    remoteFaultReply | pageRequestAnswer | atsInvalidation | atsack | hostMemRead | hostMemWrite | remoteAccessArrives | replUpdateApply |
    messageDeliver | msendwTimeout | triggerPush | blockTransfer | pull | quantumEnd | markedSiteTimeout | teamSwapOut | teamSwapIn |
    barrierRelease | timetableFlit | phaseEnd | interruptEntry | budgetExhausted | timer | doorbell | mgmtRegisterWrite | zfpLaunch | linkUp |
    portDown | powerGood | spdmRequest | scrubStep | illegalInstruction | remoteWriteAcknowledgement | cxlCompletion | eolUpdate | replayPass |
    teamAdmission | teamPlace | start | task | team | stop | endCtx | quiescent | residencyReport | thermalTrip | executeBoundaryFetch => exact absurd hi Bool.false_ne_true

end

end Sys2Proof.Machine

open Sys2Proof.Machine in
/-- Settles O60: every instruction of user mode keeps the protection state or ends in system mode, by the cases of `exec`. -/
theorem privilegeKept : Obligations.PrivilegeKept := by
  unfold Obligations.PrivilegeKept
  intro s t i _ hi hm ht hu
  have kept := exec_keepsProtection (s := s) rfl hm hi
  rw [ht] at kept
  rcases kept with same | system
  · injection same with pcn mode xb tvb twa uws upc cause tval epc lpb lpl node lhp
    exact ⟨pcn, xb, tvb, twa, uws, upc, cause, tval, epc, lpb, lpl, node, lhp⟩
  · exact absurd (hu.symm.trans system) (by decide)
end

section
namespace Sys2Proof.Machine

/-! ## The state after reset (R9, R432) -/

theorem State.reset_memoryForm : State.reset.memoryForm := by
  unfold State.memoryForm
  decide

/-- Every core starts as its reset makes it: core 0 is the active one, and the list of the others holds only cores that have acted. -/
@[simp] theorem State.reset_getCore (p : Nat) : State.reset.getCore p = Core.reset p := by
  by_cases h : State.reset.core.pcn = p
  · have zero : p = 0 := h.symm
    rw [zero]
    rfl
  · simp only [State.getCore, if_neg h]
    rfl

/-- The addresses in the control registers after reset: WP, XB, TV, UV and TWP (R18, R31, R113). -/
theorem Core.reset_addresses (p : Nat) :
    (Core.reset p).wp = 0 ∧ (Core.reset p).xb = 0x8000 ∧ (Core.reset p).tv = 0 ∧ (Core.reset p).uws = 0 ∧ (Core.reset p).upc = 0 ∧ (Core.reset p).twp = 0 := by
  show (Core.reset 0).wp = 0 ∧ (Core.reset 0).xb = 0x8000 ∧ (Core.reset 0).tv = 0 ∧ (Core.reset 0).uws = 0 ∧ (Core.reset 0).upc = 0 ∧ (Core.reset 0).twp = 0
  decide

/-- The marks after reset (R45). -/
theorem Core.reset_marks (p : Nat) : ∀ m ∈ (Core.reset p).marks.toList, m = 0 := by
  show ∀ m ∈ (Vector.replicate 24 (0 : BitVec 32)).toList, m = 0
  simp

/-- The LPU regions after reset (R17). -/
theorem Core.reset_lpb (p : Nat) : ∀ b ∈ (Core.reset p).ctl.lpb.toList, b.en = 0 := by
  show ∀ b ∈ (Ctl.reset.lpb).toList, b.en = 0
  decide

/-- The trigger counters after reset (R226). -/
theorem Core.reset_ctrs (p : Nat) : ∀ k ∈ (Core.reset p).ctrs.toList, k.value = 0 ∧ k.sat = 0 := by
  show ∀ k ∈ (Core.reset 0).ctrs.toList, k.value = 0 ∧ k.sat = 0
  decide

end Sys2Proof.Machine

open Sys2Proof.Machine in
/-- Settles O39: the reset state of the package and of each of its cores. -/
theorem resetState : Obligations.ResetState := by
  unfold Obligations.ResetState
  refine ⟨State.reset_memoryForm, rfl, rfl, rfl, rfl, rfl, rfl, rfl, fun p => ?_⟩
  rw [State.reset_getCore]
  obtain ⟨wp, xb, tv, uws, upc, twp⟩ := Core.reset_addresses p
  exact ⟨rfl, rfl, wp, xb, rfl, rfl, rfl, rfl, tv, uws, upc, twp, rfl, rfl, rfl, rfl, rfl, rfl, rfl, rfl, rfl,
    Core.reset_lpb p, Core.reset_marks p, Core.reset_ctrs p⟩
end

section
/-! SUPPORT. The bytes of a line: what a merge under a mask and a write of some bytes leave in it (R59, R62). -/

namespace Sys2Proof.Machine

/-! ## Masks -/

theorem two_pow_eight_mul (n : Nat) : (256 : Nat) ^ n = 2 ^ (8 * n) := by rw [pow_mul]; rfl

theorem maskBits_lt (mask : BitVec 64) (n : Nat) : maskBits mask n < 2 ^ (8 * n) := by
  induction n with
  | zero => exact Nat.one_pos
  | succ n ih =>
    rw [maskBits, two_pow_eight_mul, Nat.mul_succ, pow_add]
    split <;> omega

theorem byteMask_testBit (i : Nat) : (255).testBit i = decide (i < 8) := Nat.testBit_two_pow_sub_one 8 i

/-- A spread mask has the bits of the bytes whose mask bit is set. -/
theorem maskBits_testBit (mask : BitVec 64) (n k : Nat) : (maskBits mask n).testBit k = (decide (k < 8 * n) && mask.getLsbD (k / 8)) := by
  induction n with
  | zero => simp [maskBits]
  | succ n ih =>
    have lower := maskBits_lt mask n
    have byte : (if mask.getLsbD n = true then 0xFF * 256 ^ n else 0) = 2 ^ (8 * n) * (if mask.getLsbD n = true then 255 else 0) := by
      rw [two_pow_eight_mul]
      split
      · rw [Nat.mul_comm]
      · rfl
    rw [maskBits, byte, Nat.testBit_two_pow_mul_add _ lower, ih]
    by_cases h : k < 8 * n
    · have h' : k < 8 * (n + 1) := by omega
      simp [h, h']
    · by_cases h' : k < 8 * (n + 1)
      · have hk : k / 8 = n := by omega
        have in8 : k - 8 * n < 8 := by omega
        cases hm : mask.getLsbD n <;> simp [h, h', hk, hm, byteMask_testBit, in8]
      · have out8 : ¬ k - 8 * n < 8 := by omega
        cases hm : mask.getLsbD n <;> simp [h, h', byteMask_testBit, out8]

/-- A bit of a merge comes from the line that the mask chooses for its byte. -/
theorem lineMerge_getLsbD (old new : Line) (mask : BitVec 64) {k : Nat} (hk : k < 512) :
    (lineMerge old mask new).getLsbD k = if mask.getLsbD (k / 8) = true then new.getLsbD k else old.getLsbD k := by
  have spread : (BitVec.ofNat 512 (maskBits mask 64)).getLsbD k = mask.getLsbD (k / 8) := by
    rw [BitVec.getLsbD_ofNat, maskBits_testBit]
    simp [hk]
  simp only [lineMerge, BitVec.getLsbD_or, BitVec.getLsbD_and, BitVec.getLsbD_not, spread, hk, decide_true, Bool.true_and]
  cases mask.getLsbD (k / 8) <;> simp

theorem lineByte_getLsbD (l : Line) (j i : Nat) : (lineByte l j).getLsbD i = (decide (i < 8) && l.getLsbD (8 * j + i)) := by
  simp [lineByte]

/-- A byte of a merge comes from the line that the mask chooses. -/
theorem lineByte_lineMerge (old new : Line) (mask : BitVec 64) {j : Nat} (hj : j < 64) :
    lineByte (lineMerge old mask new) j = if mask.getLsbD j = true then lineByte new j else lineByte old j := by
  refine BitVec.eq_of_getLsbD_eq fun i hi => ?_
  have at_ : (8 * j + i) / 8 = j := by omega
  rw [lineByte_getLsbD, lineMerge_getLsbD old new mask (by omega), at_]
  split <;> rw [lineByte_getLsbD]

/-- A merge under the full mask is the new line. -/
theorem lineMerge_allOnes (old new : Line) : lineMerge old (BitVec.allOnes 64) new = new := by
  refine BitVec.eq_of_getLsbD_eq fun k hk => ?_
  have byte : k / 8 < 64 := by omega
  rw [lineMerge_getLsbD old new _ hk, BitVec.getLsbD_allOnes, decide_eq_true byte, if_pos rfl]

/-! ## Some bytes of a line -/

theorem maskOf_getLsbD (va n : Nat) {j : Nat} (hj : j < 64) : (maskOf va n).getLsbD j = (decide (va % 64 ≤ j) && decide (j < va % 64 + n)) := by
  have inside : (j - va % 64 < n) = (j < va % 64 + n) ∨ j < va % 64 := by
    by_cases h : j < va % 64
    · exact .inr h
    · exact .inl (propext ⟨fun _ => by omega, fun _ => by omega⟩)
  simp only [maskOf, BitVec.getLsbD_ofNat, Nat.testBit_shiftLeft, Nat.testBit_two_pow_sub_one, hj, decide_true, Bool.true_and]
  rcases inside with h | h
  · simp [h]
  · have : ¬ va % 64 ≤ j := by omega
    simp [this]

/-- The mask of some bytes of a line is not empty. -/
theorem maskOf_ne_zero {va n : Nat} (hn : 0 < n) : maskOf va n ≠ 0 := by
  intro h
  have first := maskOf_getLsbD va n (Nat.mod_lt va (by decide : 0 < 64))
  rw [h] at first
  simp [hn] at first

theorem dataAt_getLsbD (va n v : Nat) {k : Nat} (hk : k < 512) (hlo : 8 * (va % 64) ≤ k) (hhi : k < 8 * (va % 64 + n)) :
    (dataAt va n v).getLsbD k = v.testBit (k - 8 * (va % 64)) := by
  have inside : k - 8 * (va % 64) < 8 * n := by omega
  simp only [dataAt, lineSet, BitVec.getLsbD_or, BitVec.getLsbD_and, BitVec.getLsbD_ofNat]
  simp [hk, Nat.testBit_shiftLeft, hlo, inside, Nat.testBit_mod_two_pow]

theorem lineGet_testBit (l : Line) (o n k : Nat) : (lineGet l o n).testBit k = (decide (k < 8 * n) && l.getLsbD (8 * o + k)) := by
  simp only [lineGet, Nat.testBit_mod_two_pow, Nat.testBit_shiftRight]
  rfl

/-- The bytes that a merge has written are those of the number. -/
theorem lineGet_written (old : Line) {va n : Nat} (v : Nat) (h : va % 64 + n ≤ 64) :
    lineGet (lineMerge old (maskOf va n) (dataAt va n v)) (va % 64) n = v % 2 ^ (8 * n) := by
  refine Nat.eq_of_testBit_eq fun k => ?_
  rw [lineGet_testBit, Nat.testBit_mod_two_pow]
  by_cases hk : k < 8 * n
  · have inLine : 8 * (va % 64) + k < 512 := by omega
    have byteLt : (8 * (va % 64) + k) / 8 < 64 := by omega
    have lo : va % 64 ≤ (8 * (va % 64) + k) / 8 := by omega
    have hi : (8 * (va % 64) + k) / 8 < va % 64 + n := by omega
    have chosen : (maskOf va n).getLsbD ((8 * (va % 64) + k) / 8) = true := by
      rw [maskOf_getLsbD va n byteLt, decide_eq_true lo, decide_eq_true hi]
      rfl
    rw [lineMerge_getLsbD old _ _ inLine, if_pos chosen, dataAt_getLsbD va n v inLine (by omega) (by omega), Nat.add_sub_cancel_left]
  · simp [hk]

/-- The bytes that a merge has not written stay. -/
theorem lineByte_kept (old : Line) {va n : Nat} (v : Nat) {j : Nat} (hj : j < 64) (h : j < va % 64 ∨ va % 64 + n ≤ j) :
    lineByte (lineMerge old (maskOf va n) (dataAt va n v)) j = lineByte old j := by
  have outside : (maskOf va n).getLsbD j = false := by
    rw [maskOf_getLsbD va n hj]
    rcases h with h | h
    · simp [show ¬ va % 64 ≤ j by omega]
    · simp [show ¬ j < va % 64 + n by omega]
  rw [lineByte_lineMerge _ _ _ hj, outside]
  rfl

/-! ## Lines in memory -/

/-- A byte of a line that has been written to memory. -/
theorem Memory.read_writeLine (m : Memory) (a : Nat) (l : Line) {j : Nat} (hj : j < 64) : (m.writeLine a l).read (a + j) = lineByte l j := by
  rw [Memory.writeLine, Memory.read_writeBlock, length_bytesOf, if_pos ⟨by omega, by omega⟩, Nat.add_sub_cancel_left, bytesOf_getD _ _ _ hj]
  refine BitVec.eq_of_toNat_eq ?_
  rw [two_pow_eight_mul]
  simp [lineByte, Nat.shiftRight_eq_div_pow]

/-- A written line leaves the bytes around it. -/
theorem Memory.read_writeLine_outside (m : Memory) (a x : Nat) (l : Line) (h : x < a ∨ a + 64 ≤ x) : (m.writeLine a l).read x = m.read x :=
  Memory.read_writeBlock_outside m a x _ (by rwa [length_bytesOf])

end Sys2Proof.Machine
end

section
/-! SUPPORT. An access at the home of a line that its slice holds, and the notice of a write (R59, R62, R132, R134, R135). -/

namespace Sys2Proof.Machine

/-! ## Lists -/

theorem find?_upsert_same {α : Type} (p : α → Bool) (new : α) (h : p new = true) (l : List α) : (upsert p (fun _ => new) new l).find? p = some new := by
  induction l with
  | nil => simp [upsert, h]
  | cons x xs ih =>
    unfold upsert
    split
    · simp [h]
    next hx => simp [hx, ih]

/-- A search for what a filter keeps by itself, in what it keeps. -/
theorem find?_filter_key {α : Type} (q r : α → Bool) (l : List α) (b : Bool) (h : ∀ x, r x = true → q x = b) :
    (l.filter q).find? r = if b = true then l.find? r else none := by
  rw [List.find?_filter]
  cases b with
  | true =>
    rw [if_pos rfl]
    congr 1
    funext x
    cases hx : r x with
    | false => simp
    | true => simp [h x hx]
  | false =>
    rw [if_neg Bool.false_ne_true, List.find?_eq_none]
    intro x _
    cases hx : r x with
    | false => simp
    | true => simp [h x hx]

/-! ## Signatures (R131) -/

theorem bits_lt (v hi lo : Nat) : bits v hi lo < 2 ^ (hi - lo + 1) := Nat.mod_lt (v >>> lo) (Nat.two_pow_pos (hi - lo + 1))

theorem sigOf_lt (x : Nat) : sigOf x < 1024 := by
  have part (hi lo : Nat) (h : hi - lo + 1 ≤ 10) : bits x hi lo < 2 ^ 10 := Nat.lt_of_lt_of_le (bits_lt ..) (Nat.pow_le_pow_right (by decide) h)
  exact Nat.xor_lt_two_pow (Nat.xor_lt_two_pow (Nat.xor_lt_two_pow (Nat.xor_lt_two_pow (Nat.xor_lt_two_pow (part 9 0 (by decide)) (part 19 10 (by decide)))
    (part 29 20 (by decide))) (part 39 30 (by decide))) (part 49 40 (by decide))) (part 50 50 (by decide))

theorem sigBit_getLsbD (x i : Nat) : (sigBit x).getLsbD i = decide (i = sigOf x) := by
  have bound := sigOf_lt x
  simp only [sigBit, BitVec.getLsbD_shiftLeft, BitVec.getLsbD_one]
  by_cases h : i = sigOf x
  · subst h
    simp [bound]
  · by_cases lt : i < sigOf x
    · simp [lt, h]
    · have : ¬ i - sigOf x = 0 := by omega
      simp [this, h]

theorem sigBit_self (x : Nat) : (sigBit x).getLsbD (sigOf x) = true := by rw [sigBit_getLsbD, decide_eq_true rfl]

/-- A signature with the bit of a line meets the line's own. -/
theorem and_sigBit_ne_zero {g : BitVec 1024} {x : Nat} (h : g.getLsbD (sigOf x) = true) : g &&& sigBit x ≠ 0 := by
  intro zero
  have bit := congrArg (BitVec.getLsbD · (sigOf x)) zero
  simp only [BitVec.getLsbD_and, h, sigBit_self] at bit
  simp at bit

/-! ## Write notices (R59, R132, R135) -/

theorem Core.notice_pcn (c : Core) (sig : BitVec 1024) : (c.notice sig).pcn = c.pcn := congrArg Protection.pcn (c.notice_protection sig)

/-- A line after a filter of the L1 by lines. -/
theorem Core.l1Find_filter (c : Core) (f : Nat → Bool) (x : Nat) :
    ({ c with l1 := c.l1.filter fun l => f l.line } : Core).l1Find x = if f x = true then c.l1Find x else none := by
  have find := find?_filter_key (fun l : L1Line => f l.line) (fun l => l.line == x && !l.bad) c.l1 (f x) fun l h => by
    simp only [Bool.and_eq_true, beq_iff_eq] at h
    rw [h.1]
  simp only [Core.l1Find, find]
  split <;> rfl

/-- The Clean lines under a signature are gone from a core's L1. -/
def Core.cleanGone (c : Core) (sig : BitVec 1024) : Core := { c with l1 := c.l1.filter fun l => !sig.getLsbD (sigOf l.line) }

theorem Core.cleanGone_l1Find (c : Core) (sig : BitVec 1024) (x : Nat) :
    (c.cleanGone sig).l1Find x = if sig.getLsbD (sigOf x) = true then none else c.l1Find x := by
  have kept := c.l1Find_filter (fun y => !sig.getLsbD (sigOf y)) x
  rw [Core.cleanGone, kept]
  cases sig.getLsbD (sigOf x) <;> rfl

/-- A notice removes the Clean lines under its signature, and squashes a chunk that meets it. -/
theorem Core.notice_eq (c : Core) (sig : BitVec 1024) : c.notice sig = match c.chunk with
    | some y => if (y.rsig ||| y.wsig) &&& sig = 0 then c.cleanGone sig else (c.cleanGone sig).squash
    | none => c.cleanGone sig := rfl

theorem Core.squash_l1Find {c : Core} {y : Chunk} (hc : c.chunk = some y) (x : Nat) : c.squash.l1Find x = if x ∈ y.lines then none else c.l1Find x := by
  have kept := c.l1Find_filter (fun z => !y.lines.contains z) x
  by_cases h : x ∈ y.lines <;> simpa [Core.squash, hc, Core.l1Find, h] using kept

theorem noticed_of_no_chunk {c : Core} (hc : c.chunk = none) (sig : BitVec 1024) : noticed c (c.cleanGone sig) sig := by
  refine ⟨fun x => ?_, ?_⟩
  · rw [c.cleanGone_l1Find]
    simp [hc]
  · split
    · rfl
    next h => exact absurd (hc.symm.trans h) (by simp)

theorem noticed_of_apart {c : Core} {y : Chunk} (hc : c.chunk = some y) {sig : BitVec 1024} (apart : (y.rsig ||| y.wsig) &&& sig = 0) :
    noticed c (c.cleanGone sig) sig := by
  refine ⟨fun x => ?_, ?_⟩
  · rw [c.cleanGone_l1Find]
    simp [hc, apart]
  · split
    · rfl
    next z hz =>
      cases hc.symm.trans hz
      rw [if_pos apart]
      rfl

theorem noticed_of_meets {c : Core} {y : Chunk} (hc : c.chunk = some y) {sig : BitVec 1024} (meets : ¬(y.rsig ||| y.wsig) &&& sig = 0) :
    noticed c (c.cleanGone sig).squash sig := by
  have hc' : (c.cleanGone sig).chunk = some y := hc
  refine ⟨fun x => ?_, ?_⟩
  · rw [Core.squash_l1Find hc', c.cleanGone_l1Find]
    by_cases hl : x ∈ y.lines
    · rw [if_pos hl, if_pos (.inr ⟨y, hc, meets, hl⟩)]
    · simp [hc, hl]
  · split
    next h => exact absurd (hc.symm.trans h) (by simp)
    next z hz =>
      cases hc.symm.trans hz
      rw [if_neg meets]
      simp only [Core.squash, hc']
      rfl

/-- A core that a notice has reached. -/
theorem Core.notice_noticed (c : Core) (sig : BitVec 1024) : noticed c (c.notice sig) sig := by
  rw [Core.notice_eq]
  split
  next y hc =>
    split
    next apart => exact noticed_of_apart hc apart
    next meets => exact noticed_of_meets hc meets
  next hc => exact noticed_of_no_chunk hc sig

/-- A notice leaves no copy of its line. -/
theorem Core.notice_l1Find (c : Core) (x : Nat) : (c.notice (sigBit x)).l1Find x = none := by
  obtain ⟨lines, _⟩ := c.notice_noticed (sigBit x)
  rw [lines, if_pos (.inl (sigBit_self x))]

/-- The notice of a line squashes a chunk with the line in its signature: the core stands at the chunk's first instruction again. -/
theorem Core.notice_squashes {c : Core} {k : Chunk} {x : Nat} (hc : c.chunk = some k) (h : (k.rsig ||| k.wsig).getLsbD (sigOf x) = true) :
    (c.notice (sigBit x)).chunk = none ∧ (c.notice (sigBit x)).pc = k.pc0 ∧ (c.notice (sigBit x)).regs = k.regs0 ∧
      (c.notice (sigBit x)).ctl.sqz = c.ctl.sqz + 1 := by
  obtain ⟨_, squashed⟩ := c.notice_noticed (sigBit x)
  rw [hc] at squashed
  simp only [if_neg (and_sigBit_ne_zero h)] at squashed
  rw [squashed]
  exact ⟨rfl, rfl, rfl, rfl⟩

/-- An update of every core that keeps the cores' numbers and a core at its reset. -/
theorem State.getCore_allCores (s : State) (f : Core → Core) (hf : ∀ c, (f c).pcn = c.pcn) {p : Nat} (hr : f (Core.reset p) = Core.reset p) :
    (s.allCores f).getCore p = f (s.getCore p) := by
  have key : (fun c : Core => c.pcn == p) ∘ f = fun c => c.pcn == p := funext fun c => by simp [hf]
  simp only [State.allCores, State.getCore, hf, List.find?_map, key]
  split
  · rfl
  · cases s.others.find? fun c => c.pcn == p with
    | none => exact hr.symm
    | some c => rfl

/-- A notice to all cores reaches every core. -/
theorem State.getCore_notice (s : State) (sig : BitVec 1024) {p : Nat} (hp : p < 1536) : (s.notice 1536 sig).getCore p = (s.getCore p).notice sig := by
  have pcn (c : Core) : (if c.pcn = 1536 then c else c.notice sig).pcn = c.pcn := by
    split
    · rfl
    · exact c.notice_pcn sig
  have reset : (if (Core.reset p).pcn = 1536 then Core.reset p else (Core.reset p).notice sig) = Core.reset p := by
    split <;> rfl
  refine (s.getCore_allCores _ pcn reset).trans (if_neg ?_)
  rw [State.getCore_pcn]
  omega

end Sys2Proof.Machine
end

section
namespace Sys2Proof.Machine

/-! ## A held line at its home (R62, R134) -/

theorem State.l2Find_key {s : State} {sl x : Nat} {l : L2Line} (h : s.l2Find sl x = some l) : l.slice = sl ∧ l.line = x := by
  simpa using List.find?_some h

/-- A line after a merge under a mask: dirty, in its place. -/
def L2Line.merged (l : L2Line) (mask : BitVec 64) (data : Line) : L2Line := { l with data := lineMerge l.data mask data, dirty := true }

/-- A merge into a line that its slice holds unmarked and without an error changes that line alone. -/
theorem State.merge_held {s : State} {sl x : Nat} {l : L2Line} (h : s.l2Find sl x = some l) (unmarked : l.retrans = false) (good : l.bad = false)
    (leaf : Word) (pa : Nat) (mask : BitVec 64) (data : Line) :
    s.merge sl x leaf pa mask data =
      { s with l2 := upsert (fun y => y.slice == sl && y.line == x) (fun _ => l.merged mask data) (l.merged mask data) s.l2 } := by
  obtain ⟨hsl, hx⟩ := State.l2Find_key h
  have renewed : s.renew sl x leaf pa = s := by simp [State.renew, h, unmarked]
  have held (m : L2Line) (hm : m.slice = sl) (hm' : m.line = x) : (s.l2Find m.slice m.line).isSome = true := by rw [hm, hm', h]; rfl
  simp only [State.merge, renewed, h]
  split
  next full =>
    rw [State.l2Put_held _ _ (held _ rfl rfl), L2Line.merged, full, lineMerge_allOnes, hsl, hx, unmarked, good]
  · have filled : s.fill sl x l.leaf l.pa = (s, l.data, false) := by simp [State.fill, h, good]
    rw [filled]
    dsimp only
    rw [if_neg Bool.false_ne_true, State.l2Put_held _ _ (held _ rfl rfl), L2Line.merged, hsl, hx, unmarked, good]

theorem State.l2Find_upsert (s : State) (sl x : Nat) (m : L2Line) (hm : m.slice = sl) (hx : m.line = x) :
    ({ s with l2 := upsert (fun y => y.slice == sl && y.line == x) (fun _ => m) m s.l2 } : State).l2Find sl x = some m :=
  find?_upsert_same _ m (by simp [hm, hx]) s.l2

/-- What a numbered write to a line that its home holds does: its notice reaches every core, one number is given, and the line takes the bytes under
the mask (R132, R134). -/
structure writesHeld (s t : State) (x : Nat) (l m : L2Line) (mask : BitVec 64) (data : Line) : Prop where
  find : t.l2Find (homeOf x) x = some m
  merged : m = l.merged mask data
  commits : t.commits = s.commits + 1
  dram : t.dram = s.dram
  core : t.core = (s.notice 1536 (sigBit x)).core
  others : t.others = (s.notice 1536 (sigBit x)).others

theorem State.numberedWrite_held {s : State} {x : Nat} {l : L2Line} (h : s.l2Find (homeOf x) x = some l) (unmarked : l.retrans = false)
    (good : l.bad = false) (src : Nat) (leaf : Word) (pa : Nat) (mask : BitVec 64) (data : Line) (gander : Bool) :
    writesHeld s (s.numberedWrite 1536 src x (.own leaf pa) mask data gander) x l (l.merged mask data) mask data := by
  obtain ⟨hsl, hx⟩ := State.l2Find_key h
  simp only [State.numberedWrite, State.applyWrite]
  generalize hu : (State.mk .. : State) = u
  have held : u.l2Find (homeOf x) x = some l := by rw [← hu]; exact h
  rw [State.merge_held held unmarked good]
  exact ⟨State.l2Find_upsert _ _ _ _ hsl hx, rfl, by rw [← hu]; rfl, by rw [← hu]; rfl, by rw [← hu], by rw [← hu]⟩

/-! ## Accesses of a held line -/

theorem State.deferred_of_no_reservation {s : State} (free : s.reservation = none) (src : Nat) (sig : BitVec 1024) : s.deferred src sig = false := by
  simp [State.deferred, free]

section
variable {s : State} {va : Nat} {q : Req} {l : L2Line} (h : s.heldAtHome va q l)
include h

theorem State.heldAtHome.slice_eq : s.slice (homeOf (lineOf va)) va q = .ok (s, l.leaf, l.pa) := by
  obtain ⟨find, unmarked, _, checked, _⟩ := h
  simp [State.slice, find, unmarked, checked]

/-- A read is answered by the held line, and changes nothing. -/
theorem State.heldAtHome.homeRead_eq (die : Nat) (seq : Bool) : s.homeRead die va q seq = .done s l.data := by
  have sliced := h.slice_eq
  obtain ⟨find, _, good, _, own, plain, _⟩ := h
  have filled : s.fill (homeOf (lineOf va)) (lineOf va) l.leaf l.pa = (s, l.data, false) := by simp [State.fill, find, good]
  simp [State.homeRead, sliced, own, plain, filled]

theorem State.heldAtHome.readAt_eq : s.readAt (homeOf (lineOf va)) va q = .done s l.data := by
  have sliced := h.slice_eq
  obtain ⟨find, _, good, _⟩ := h
  have filled : s.fill (homeOf (lineOf va)) (lineOf va) l.leaf l.pa = (s, l.data, false) := by simp [State.fill, find, good]
  simp [State.readAt, sliced, filled]

theorem State.heldAtHome.writeCheck_eq : s.writeCheck va q = .ok (s, .own l.leaf l.pa) := by
  have sliced := h.slice_eq
  obtain ⟨find, unmarked, _, _, own, plain, _⟩ := h
  have single : s.isRepl va = false := by simp [State.isRepl, find, unmarked, plain]
  simp [State.writeCheck, single, sliced, own]

/-- A write is one numbered write of the held line. -/
theorem State.heldAtHome.homeWrite_eq (free : s.reservation = none) (party src : Nat) (mask : BitVec 64) (data : Line) :
    s.homeWrite party src va mask data q = .done (s.numberedWrite 1536 src (lineOf va) (.own l.leaf l.pa) mask data false) 0 := by
  simp [State.homeWrite, h.writeCheck_eq, State.deferred_of_no_reservation free]

end

/-- An atomic of a held line that writes is one numbered write of it; one that does not write changes nothing (R77, R303). -/
theorem State.heldAtHome.homeRmw_eq {s : State} {va : Nat} {l : L2Line} (h : s.heldAtHome va Req.both l) (free : s.reservation = none) {n : Nat} (hn : 0 < n)
    (party src : Nat) (f : Rmw) (gander : Bool) :
    s.homeRmw party src va n f gander = .done (match f (lineGet l.data (va % 64) n) with
      | none => s
      | some v => s.numberedWrite 1536 src (lineOf va) (.own l.leaf l.pa) (maskOf va n) (dataAt va n v) gander) l.data := by
  have sliced := h.slice_eq
  have read := h.readAt_eq
  obtain ⟨find, _, _, _, own, plain, _⟩ := h
  obtain ⟨_, hx⟩ := State.l2Find_key find
  simp only [State.homeRmw, sliced, own, plain, State.deferred_of_no_reservation free, Bool.false_and, read, find, Bool.false_eq_true, if_false]
  cases f (lineGet l.data (va % 64) n) with
  | none => simp [State.atomicDone]
  | some v =>
    simp only [State.atomicDone, if_neg (maskOf_ne_zero hn), hx, Bool.false_eq_true, if_false]
    rfl

end Sys2Proof.Machine
end

section
namespace Sys2Proof.Machine

/-! ## What a numbered write of a held line leaves (R59, R132, R135) -/

theorem State.getCore_congr {s t : State} (hc : t.core = s.core) (ho : t.others = s.others) (p : Nat) : t.getCore p = s.getCore p := by
  rw [State.getCore, State.getCore, hc, ho]

theorem writesHeld.noticed {s t : State} {x : Nat} {l m : L2Line} {mask : BitVec 64} {data : Line} (w : writesHeld s t x l m mask data) {p : Nat}
    (hp : p < 1536) : noticed (s.getCore p) (t.getCore p) (sigBit x) := by
  rw [State.getCore_congr w.core w.others, State.getCore_notice s _ hp]
  exact Core.notice_noticed _ _

theorem writesHeld.dirty {s t : State} {x : Nat} {l m : L2Line} {mask : BitVec 64} {data : Line} (w : writesHeld s t x l m mask data) : m.dirty = true := by
  rw [w.merged]
  rfl

theorem writesHeld.lineByte {s t : State} {x : Nat} {l m : L2Line} {mask : BitVec 64} {data : Line} (w : writesHeld s t x l m mask data) {j : Nat}
    (hj : j < 64) : lineByte m.data j = if mask.getLsbD j then lineByte data j else lineByte l.data j := by
  rw [w.merged]
  exact lineByte_lineMerge _ _ _ hj

/-- A core of the package after a notice to all. -/
theorem State.mem_cores_notice {s : State} {sig : BitVec 1024} {c : Core} (hc : c ∈ (s.notice 1536 sig).cores) (hp : c.pcn < 1536) :
    ∃ d : Core, c = d.notice sig := by
  have mapped : ∃ d : Core, (if d.pcn = 1536 then d else d.notice sig) = c := by
    rcases List.mem_cons.1 hc with h | h
    · exact ⟨s.core, h.symm⟩
    · obtain ⟨d, _, hd⟩ := List.mem_map.1 h
      exact ⟨d, hd⟩
  obtain ⟨d, hd⟩ := mapped
  refine ⟨d, ?_⟩
  rw [← hd, if_neg]
  intro far
  rw [← hd, if_pos far] at hp
  omega

theorem State.notice_others_get {s : State} {sig : BitVec 1024} {i : Nat} {c : Core} (hc : s.others[i]? = some c) (hp : c.pcn < 1536) :
    (s.notice 1536 sig).others[i]? = some (c.notice sig) := by
  have near : c.pcn ≠ 1536 := by omega
  show (s.others.map fun c => if c.pcn = 1536 then c else c.notice sig)[i]? = _
  rw [List.getElem?_map, hc, Option.map_some, if_neg near]

theorem writesHeld.writtenAtHome {s t : State} {va n v : Nat} {l m : L2Line}
    (w : writesHeld s t (lineOf va) l m (maskOf va n) (dataAt va n v)) (fits : va % 64 + n ≤ 64) : writtenAtHome s t va n v l := by
  refine ⟨⟨m, w.find, w.dirty, ?_, fun k hk apart => ?_⟩, w.commits, w.dram, fun c hc hp => ?_, ?_, fun i c k hc hp hk meets => ?_⟩
  · rw [w.merged]
    exact lineGet_written _ _ fits
  · rw [w.merged]
    exact lineByte_kept _ _ hk apart
  · have told : c ∈ (s.notice 1536 (sigBit (lineOf va))).cores := by
      rwa [State.cores, w.core, w.others] at hc
    obtain ⟨d, rfl⟩ := State.mem_cores_notice told hp
    exact d.notice_l1Find _
  · rw [w.others]
    exact List.length_map _
  · obtain ⟨chunk, pc, regs, sqz⟩ := Core.notice_squashes hk meets
    exact ⟨_, by rw [w.others, State.notice_others_get hc hp], Core.notice_pcn .., chunk, pc, regs, sqz⟩

/-! ## Lines of DRAM without errors (R70 to R72, R443) -/

/-- The state with another metadata cache and count of corrected errors. -/
def State.withMeta (s : State) (cache : List (Nat × Nat × Nat)) (n : Nat) : State := { s with metaCache := cache, corrected := n }

theorem State.metaUse_eq (s : State) (flat : Nat) : s.metaUse flat = s.withMeta (s.metaUse flat).metaCache s.corrected := by
  unfold State.metaUse
  dsimp only
  split <;> rfl

theorem State.dramUse_eq (s : State) (flat : Nat) : s.dramUse flat = s.withMeta (s.dramUse flat).metaCache (s.dramUse flat).corrected := by
  unfold State.dramUse
  dsimp only
  rw [State.metaUse_eq]
  rfl

theorem State.dramBadAt_false {s : State} (h : s.dramBad = []) (flat : Nat) : s.dramBadAt flat = false := by
  unfold State.dramBadAt
  rw [h]
  cases s.dramRead flat <;> rfl

/-- A write meets nothing but the metadata cache while DRAM has no error. -/
theorem State.dramMeets_eq {s : State} (h : s.dramBad = []) (flat : Nat) (comp : Bool) :
    s.dramMeets flat comp = s.withMeta (s.dramMeets flat comp).metaCache (s.dramMeets flat comp).corrected := by
  unfold State.dramMeets
  dsimp only
  rw [State.dramBadAt_false h, if_neg Bool.false_ne_true]
  split
  · exact s.dramUse_eq _
  · rw [State.metaUse_eq]
    rfl

/-- A line written raw, to a DRAM without errors (R72). -/
theorem State.dramWrite_raw {s : State} (h : s.dramBad = []) (flat : Nat) (data : Line) :
    s.dramWrite flat data false = { s with
      dram := s.dram.writeLine (flat / 64 * 64) data
      codes := s.codes.filter fun e => e.1 != flat / 64 * 64 / 128
      metaCache := (s.dramWrite flat data false).metaCache
      dramSoft := (s.dramWrite flat data false).dramSoft
      corrected := (s.dramWrite flat data false).corrected } := by
  simp only [State.dramWrite, State.dramBadAt_false h]
  rw [State.dramMeets_eq h]
  simp [State.withMeta, h]

end Sys2Proof.Machine
end

section
namespace Sys2Proof.Machine

/-! ## Accesses of the host (R15, R16, R79) -/

/-- An offset of the window is below 2^48, so its physical address is of the form that is interleaved over the package (R16, R66). -/
theorem windowOk_eq (off : BitVec 48) : windowOk off = decide (off.toNat / 64 * 64 + 64 ≤ 0xB270000000) := by
  have below := off.isLt
  have form : bits (off.toNat / 64 * 64) 51 48 = 0 := by
    simp only [bits, Nat.shiftRight_eq_div_pow]
    omega
  simp [windowOk, paValid, lineOff, form]

section
variable {s : State} (off : BitVec 48) (mask : BitVec 64) (data : Line)

/-- A host access that is refused leaves a record, and a read its poison (R15). -/
def State.hostRefuses (s : State) (off : BitVec 48) (mask : BitVec 64) (data : Line) : Prop :=
  exec (.hostMemRead off) s = .next ((s.hostRefused 1 off).out (.hostPoison off)) ∧
    exec (.hostMemWrite off mask data) s = .next (s.hostRefused 2 off)

theorem hostRefuses_early (h : s.mgmt.state.toNat < 2) : s.hostRefuses off mask data :=
  ⟨if_pos h, if_pos h⟩

theorem hostMemRead_window (h : s.mgmt.state = 2) : exec (.hostMemRead off) s =
    if !windowOk off then .next ((s.hostRefused 1 off).out (.hostPoison off))
    else if (s.dramLine (dramFlat (lineOff off))).2 then .next (((s.dramUse (dramFlat (lineOff off))).hostBad off.toNat).out (.hostPoison off))
    else .next ((s.dramUse (dramFlat (lineOff off))).out (.hostData off (s.dramLine (dramFlat (lineOff off))).1)) := by
  have notEarly : ¬s.mgmt.state.toNat < 2 := by simp [h]
  exact (if_neg notEarly).trans (if_pos h)

theorem hostMemWrite_window (h : s.mgmt.state = 2) : exec (.hostMemWrite off mask data) s =
    if !windowOk off then .next (s.hostRefused 2 off) else .next ((s.rawWrite off mask data).out (.hostWritten off)) := by
  have notEarly : ¬s.mgmt.state.toNat < 2 := by simp [h]
  exact (if_neg notEarly).trans (if_pos h)

theorem hostRefuses_outside (h : s.mgmt.state = 2) (out : 0xB270000000 < off.toNat / 64 * 64 + 64) : s.hostRefuses off mask data := by
  have bad : (!windowOk off) = true := by
    rw [windowOk_eq, decide_eq_false (by omega)]
    rfl
  exact ⟨(hostMemRead_window off h).trans (if_pos bad), (hostMemWrite_window off mask data h).trans (if_pos bad)⟩

theorem state_running (h : 3 ≤ s.mgmt.state.toNat) : ¬s.mgmt.state.toNat < 2 ∧ s.mgmt.state ≠ 2 := by
  refine ⟨by omega, fun two => ?_⟩
  rw [two] at h
  exact absurd h (by decide)

/-! ### The global memory, once the device runs -/

section
variable (h : 3 ≤ s.mgmt.state.toNat)
include h

theorem hostRefuses_low (low : s.windowVa off / 64 * 64 < globalBase) : s.hostRefuses off mask data := by
  obtain ⟨late, after⟩ := state_running h
  constructor
  · show execHostMemRead off s = _
    simp only [execHostMemRead, if_neg late, if_neg after, if_pos low]
  · show execHostMemWrite off mask data s = _
    simp only [execHostMemWrite, if_neg late, if_neg after, if_pos low]

variable (high : globalBase ≤ s.windowVa off / 64 * 64)
include high

theorem hostMemRead_fault {place : Nat} {f : FaultInfo} (hr : s.homeRead 0 (s.windowVa off / 64 * 64) hostRead true = .fault place f) :
    exec (.hostMemRead off) s = .next (((s.noteWalk place (s.windowVa off / 64 * 64) f).hostRefused 1 off).out (.hostPoison off)) := by
  obtain ⟨late, after⟩ := state_running h
  show execHostMemRead off s = _
  simp only [execHostMemRead, if_neg late, if_neg after, if_neg (Nat.not_lt.2 high), hr]

theorem hostMemRead_done {t : State} {l : Line} (hr : s.homeRead 0 (s.windowVa off / 64 * 64) hostRead true = .done t l) :
    exec (.hostMemRead off) s = .next (t.out (.hostData off l)) := by
  obtain ⟨late, after⟩ := state_running h
  show execHostMemRead off s = _
  simp only [execHostMemRead, if_neg late, if_neg after, if_neg (Nat.not_lt.2 high), hr]

theorem hostMemWrite_fault {place : Nat} {f : FaultInfo} (hw : s.writeCheck (s.windowVa off / 64 * 64) hostWrite = .error (place, f)) :
    exec (.hostMemWrite off mask data) s = .next ((s.noteWalk place (s.windowVa off / 64 * 64) f).hostRefused 2 off) := by
  obtain ⟨late, after⟩ := state_running h
  show execHostMemWrite off mask data s = _
  simp only [execHostMemWrite, if_neg late, if_neg after, if_neg (Nat.not_lt.2 high), State.homeWrite, hw]

theorem hostMemWrite_done {t : State} {l : Line} (hw : s.homeWrite 1536 1536 (s.windowVa off / 64 * 64) mask data hostWrite = .done t l) :
    exec (.hostMemWrite off mask data) s = .next (t.out (.hostWritten off)) := by
  obtain ⟨late, after⟩ := state_running h
  show execHostMemWrite off mask data s = _
  simp only [execHostMemWrite, if_neg late, if_neg after, if_neg (Nat.not_lt.2 high), hw]

end

/-! ### The physical window -/

theorem State.dramLine_eq {flat : Nat} (good : s.dramBad = []) (data : s.blockCode (flat / 128) ≠ 3) : s.dramLine flat = (s.dram.line flat, false) := by
  rw [State.dramLine, if_neg data, State.dramBadAt_false good]

section
variable (h : s.mgmt.state = 2) (inside : off.toNat / 64 * 64 + 64 ≤ 0xB270000000) (good : s.dramBad = [])
  (plain : s.blockCode (dramFlat (lineOff off) / 128) ≠ 3)
include h inside good plain

theorem hostMemRead_inWindow : exec (.hostMemRead off) s =
    .next ((s.dramUse (dramFlat (lineOff off))).out (.hostData off (s.dram.line (dramFlat (lineOff off))))) := by
  rw [hostMemRead_window off h, windowOk_eq, decide_eq_true inside, State.dramLine_eq good plain]
  rfl

omit h inside in
/-- A write of the window puts the line under the mask into DRAM, raw (R16, R72). -/
theorem State.rawWrite_eq : ∃ u : State, u.dramBad = [] ∧ u = s.withMeta u.metaCache u.corrected ∧
    s.rawWrite off mask data = u.dramWrite (dramFlat (lineOff off)) (lineMerge (s.dram.line (dramFlat (lineOff off))) mask data) false := by
  unfold State.rawWrite
  dsimp only
  rw [State.dramLine_eq good plain]
  split
  next full => exact ⟨s, good, rfl, by rw [full, lineMerge_allOnes]⟩
  · have same := s.dramUse_eq (dramFlat (lineOff off))
    exact ⟨s.dramUse (dramFlat (lineOff off)), by rw [same]; exact good, same, if_neg Bool.false_ne_true⟩

omit good plain in
theorem hostMemWrite_inWindow : exec (.hostMemWrite off mask data) s = .next ((s.rawWrite off mask data).out (.hostWritten off)) := by
  rw [hostMemWrite_window off mask data h, windowOk_eq, decide_eq_true inside]
  rfl

end

end

end Sys2Proof.Machine
end

section
namespace Sys2Proof.Machine

/-! ## Accesses of other nodes (R80, R107, R123) -/

/-- An access has come through a port that is up, behind no contribution that the port holds, to global memory of this node. -/
structure reachesHome (s : State) (port : Nat) (va : Word) (x : Port) : Prop where
  link : s.ports.toList[port]? = some x
  up : x.up = true
  free : ∀ c ∈ s.folds, c.far = true → c.port ≠ port
  own : s.isOwn va.toNat = true
  low : 2 ^ 32 ≤ va.toNat
  high : va.toNat < 2 ^ 57

theorem Contribution.far_eq (c : Contribution) : c.far = decide (2048 ≤ c.sender) := by
  unfold Contribution.far remoteNode
  split
  next h => rw [decide_eq_true h]; rfl
  next h => rw [decide_eq_false h]; rfl

theorem reachesHome.portHeld {s : State} {port : Nat} {va : Word} {x : Port} (r : reachesHome s port va x) : s.portHeld port = false := by
  unfold State.portHeld
  rw [List.any_eq_false]
  intro c hc held
  simp only [Bool.and_eq_true, beq_iff_eq] at held
  exact r.free c hc (by rw [Contribution.far_eq]; exact held.1) held.2

/-- A word holds a feature when its bit is set (R439). -/
theorem feature_eq (w : Word) (i : Nat) : (w.toNat &&& 2 ^ i == 2 ^ i) = w.getLsbD i := by
  rw [Nat.and_two_pow]
  show _ = w.toNat.testBit i
  have pos := Nat.two_pow_pos i
  cases w.toNat.testBit i with
  | false => simpa using pos.ne
  | true => simp

section
variable {s : State} {port : Nat} {va : Word} {x : Port} (r : reachesHome s port va x) (src : BitVec 9)
include r

theorem reachesHome.notLow : decide (va.toNat < globalBase) = false := decide_eq_false (Nat.not_lt.2 r.low)

theorem reachesHome.notHigh : decide (2 ^ 57 ≤ va.toNat) = false := decide_eq_false (Nat.not_le.2 r.high)

/-- Before the device runs, an access that is let in is refused (R123). -/
theorem reachesHome.early {op : RemoteOp} (feature : (x.features.toNat &&& remoteFeatures op == remoteFeatures op) = true)
    (fits : remoteFits va.toNat op = true) (h : s.mgmt.state.toNat < 3) :
    exec (.remoteAccessArrives port src va op) s = .next (s.out (.remoteFault src va 0x0A)) := by
  show execRemoteAccessArrives port src va op s = _
  simp only [-Nat.reducePow, execRemoteAccessArrives, r.link, r.up, r.portHeld, r.own, r.notLow, r.notHigh, Bool.true_and, Bool.not_true, Bool.or_self,
    Bool.false_eq_true, if_false, feature, fits, if_pos h, State.remoteRefused]

section
variable (h : 3 ≤ s.mgmt.state.toNat)
include h

theorem reachesHome.fold_eq {j : Nat} {f : BitVec 3} {len : Nat} {d : List Line} (feature : (x.features.toNat &&& 1 == 1) = true)
    (fits : remoteFits va.toNat (.fold j f len d) = true) :
    exec (.remoteAccessArrives port src va (.fold j f len d)) s = s.remoteFold port src va j f len d := by
  show execRemoteAccessArrives port src va _ s = _
  simp only [-Nat.reducePow, execRemoteAccessArrives, r.link, r.up, r.portHeld, r.own, r.notLow, r.notHigh, Bool.true_and, Bool.not_true, Bool.or_self,
    Bool.false_eq_true, if_false, remoteFeatures, feature, fits, if_neg (Nat.not_lt.2 h)]

theorem reachesHome.nmres_eq {b : Bool} (feature : (x.features.toNat &&& 16 == 16) = true) :
    exec (.remoteAccessArrives port src va (.nmres b)) s = s.remoteNm (ingress port) src va (if b then .abandon else .resume) := by
  show execRemoteAccessArrives port src va _ s = _
  simp only [-Nat.reducePow, execRemoteAccessArrives, r.link, r.up, r.portHeld, r.own, r.notLow, r.notHigh, Bool.true_and, Bool.not_true, Bool.or_self,
    Bool.false_eq_true, if_false, remoteFeatures, feature, remoteFits, if_neg (Nat.not_lt.2 h)]

theorem reachesHome.read_denied {n : Nat} (fits : remoteFits va.toNat (.read n) = true) {f : FaultInfo}
    (ht : s.translate (ingress port) va.toNat Req.read = .error f) :
    exec (.remoteAccessArrives port src va (.read n)) s = .next ((s.noteAt (ingress port) va.toNat f).out (.remoteFault src va f.reason)) := by
  show execRemoteAccessArrives port src va _ s = _
  simp only [-Nat.reducePow, execRemoteAccessArrives, r.link, r.up, r.portHeld, r.own, r.notLow, r.notHigh, Bool.true_and, Bool.not_true, Bool.or_self,
    Bool.false_eq_true, if_false, remoteFeatures, Nat.and_zero, beq_self_eq_true, fits, if_neg (Nat.not_lt.2 h), remoteReq, ht, State.remoteRefused]

theorem reachesHome.write_denied {mask : BitVec 64} {d : Line} {f : FaultInfo} (ht : s.translate (ingress port) va.toNat Req.write = .error f) :
    exec (.remoteAccessArrives port src va (.write mask d)) s = .next ((s.noteAt (ingress port) va.toNat f).out (.remoteFault src va f.reason)) := by
  show execRemoteAccessArrives port src va _ s = _
  simp only [-Nat.reducePow, execRemoteAccessArrives, r.link, r.up, r.portHeld, r.own, r.notLow, r.notHigh, Bool.true_and, Bool.not_true, Bool.or_self,
    Bool.false_eq_true, if_false, remoteFeatures, Nat.and_zero, beq_self_eq_true, remoteFits, if_neg (Nat.not_lt.2 h), remoteReq, ht, State.remoteRefused]

section
variable {u : State} {e : Word × Bool × Nat}

theorem reachesHome.read_eq {n : Nat} (fits : remoteFits va.toNat (.read n) = true) (ht : s.translate (ingress port) va.toNat Req.read = .ok (u, e)) :
    exec (.remoteAccessArrives port src va (.read n)) s = u.remoteRead src va n := by
  show execRemoteAccessArrives port src va _ s = _
  simp only [-Nat.reducePow, execRemoteAccessArrives, r.link, r.up, r.portHeld, r.own, r.notLow, r.notHigh, Bool.true_and, Bool.not_true, Bool.or_self,
    Bool.false_eq_true, if_false, remoteFeatures, Nat.and_zero, beq_self_eq_true, fits, if_neg (Nat.not_lt.2 h), remoteReq, ht]

theorem reachesHome.write_eq {mask : BitVec 64} {d : Line} (ht : s.translate (ingress port) va.toNat Req.write = .ok (u, e)) :
    exec (.remoteAccessArrives port src va (.write mask d)) s = u.remoteWrite src va mask d := by
  show execRemoteAccessArrives port src va _ s = _
  simp only [-Nat.reducePow, execRemoteAccessArrives, r.link, r.up, r.portHeld, r.own, r.notLow, r.notHigh, Bool.true_and, Bool.not_true, Bool.or_self,
    Bool.false_eq_true, if_false, remoteFeatures, Nat.and_zero, beq_self_eq_true, remoteFits, if_neg (Nat.not_lt.2 h), remoteReq, ht]

theorem reachesHome.amo_eq {o : BitVec 4} {w : Bit} {y : Word} (feature : (x.features.toNat &&& 2 == 2) = true)
    (fits : remoteFits va.toNat (.amo o w y) = true) (ht : s.translate (ingress port) va.toNat Req.both = .ok (u, e)) :
    exec (.remoteAccessArrives port src va (.amo o w y)) s = u.remoteRmw src va w (amoRmw o w y) := by
  show execRemoteAccessArrives port src va _ s = _
  simp only [-Nat.reducePow, execRemoteAccessArrives, r.link, r.up, r.portHeld, r.own, r.notLow, r.notHigh, Bool.true_and, Bool.not_true, Bool.or_self,
    Bool.false_eq_true, if_false, remoteFeatures, feature, fits, if_neg (Nat.not_lt.2 h), remoteReq, ht]

theorem reachesHome.cas_eq {w : Bit} {y z : Word} (feature : (x.features.toNat &&& 2 == 2) = true)
    (fits : remoteFits va.toNat (.cas w y z) = true) (ht : s.translate (ingress port) va.toNat Req.both = .ok (u, e)) :
    exec (.remoteAccessArrives port src va (.cas w y z)) s = u.remoteRmw src va w (casRmw w y z) := by
  show execRemoteAccessArrives port src va _ s = _
  simp only [-Nat.reducePow, execRemoteAccessArrives, r.link, r.up, r.portHeld, r.own, r.notLow, r.notHigh, Bool.true_and, Bool.not_true, Bool.or_self,
    Bool.false_eq_true, if_false, remoteFeatures, feature, fits, if_neg (Nat.not_lt.2 h), remoteReq, ht]

end

end

end

end Sys2Proof.Machine
end

section
namespace Sys2Proof.Machine

/-! ## A translation changes no reservation -/

theorem State.dramUse_reservation (s : State) (flat : Nat) : (s.dramUse flat).reservation = s.reservation := by
  rw [s.dramUse_eq flat]
  rfl

theorem State.walked_reservation (s : State) (va : Nat) : (s.walked va).reservation = s.reservation := by
  unfold State.walked
  generalize s.walkPath va s.rootPa 3 = path
  induction path generalizing s with
  | nil => rfl
  | cons a path ih => rw [List.foldl_cons, ih, State.dramUse_reservation]

theorem State.translate_reservation {s t : State} {place va : Nat} {q : Req} {e : Word × Bool × Nat} (h : s.translate place va q = .ok (t, e)) :
    t.reservation = s.reservation := by
  unfold State.translate at h
  split at h
  · cases h
  · split at h
    · cases h
    · cases h
      simp only [State.tlbUse]
      split
      · rfl
      · exact s.walked_reservation va

/-! ## Accesses of another node at a held line (R80) -/

theorem State.heldAtHome.remoteRead_eq {u : State} {va : Word} {l : L2Line} (held : u.heldAtHome va.toNat Req.read l) (src : BitVec 9) (n : Nat) :
    u.remoteRead src va n = .next (u.out (.remoteData src va (BitVec.ofNat 512 (lineGet l.data (va.toNat % 64) n)))) := by
  simp only [State.remoteRead, held.homeRead_eq, HomeRes.remote]

theorem State.heldAtHome.remoteWrite_eq {u : State} {va : Word} {l : L2Line} (held : u.heldAtHome va.toNat Req.write l) (free : u.reservation = none)
    (src : BitVec 9) (mask : BitVec 64) (d : Line) :
    u.remoteWrite src va mask d =
      .next ((u.numberedWrite 1536 1536 (lineOf va.toNat) (.own l.leaf l.pa) mask d false).out (.remoteDone src va)) := by
  simp only [State.remoteWrite, held.homeWrite_eq free, HomeRes.remote]

/-- The bytes of an atomic's operand. -/
def atomicBytes (w : Bit) : Nat := if w = 1 then 8 else 4

theorem atomicBytes_pos (w : Bit) : 0 < atomicBytes w := by
  unfold atomicBytes
  split <;> decide

theorem atomicBytes_fit {a : Nat} {w : Bit} (h : a % atomicBytes w = 0) : a % 64 + atomicBytes w ≤ 64 := by
  unfold atomicBytes at *
  split at h
  next wide => rw [if_pos wide]; omega
  next narrow => rw [if_neg narrow]; omega

theorem operandOf_eq (w : Bit) (v : Word) : operandOf w v = v.toNat % 2 ^ (8 * atomicBytes w) := by
  unfold operandOf atomicBytes
  split
  · exact (Nat.mod_eq_of_lt v.isLt).symm
  · rfl

section
variable {u : State} {va : Word} {l : L2Line} (held : u.heldAtHome va.toNat Req.both l) (free : u.reservation = none) (src : BitVec 9) (w : Bit) {f : Rmw}
include held free

/-- An atomic that writes answers the old operand and is one numbered write (R77, R301). -/
theorem State.heldAtHome.remoteRmw_writes (aligned : va.toNat % atomicBytes w = 0) {v : Nat} (hf : f (lineGet l.data (va.toNat % 64) (atomicBytes w)) = some v) :
    ∃ t, u.remoteRmw src va w f = .next (t.out (.remoteData src va (BitVec.ofNat 512 (lineGet l.data (va.toNat % 64) (atomicBytes w))))) ∧
      writtenAtHome u t va.toNat (atomicBytes w) v l := by
  have done := held.homeRmw_eq free (atomicBytes_pos w) 1536 1536 f false
  simp only [hf] at done
  obtain ⟨find, unmarked, good, _⟩ := held
  refine ⟨_, ?_, (State.numberedWrite_held find unmarked good 1536 l.leaf l.pa _ _ false).writtenAtHome (atomicBytes_fit aligned)⟩
  simp only [atomicBytes] at done ⊢
  simp only [State.remoteRmw, done, HomeRes.remote]

/-- A CAS that fails answers the old operand and changes nothing (R303). -/
theorem State.heldAtHome.remoteRmw_fails (hf : f (lineGet l.data (va.toNat % 64) (atomicBytes w)) = none) :
    u.remoteRmw src va w f = .next (u.out (.remoteData src va (BitVec.ofNat 512 (lineGet l.data (va.toNat % 64) (atomicBytes w))))) := by
  have done := held.homeRmw_eq free (atomicBytes_pos w) 1536 1536 f false
  simp only [hf] at done
  simp only [atomicBytes] at done ⊢
  simp only [State.remoteRmw, done, HomeRes.remote]

end

/-! ## Requests to a Mule and contributions to a fold, of another node (R82, R93, R364) -/

theorem remoteNode_remotePcn (src : BitVec 9) : remoteNode (remotePcn src) = some src := by
  have above : 2048 ≤ remotePcn src := Nat.le_add_right ..
  rw [remoteNode, if_pos above, remotePcn, Nat.add_sub_cancel_left, BitVec.ofNat_toNat, BitVec.setWidth_eq]

/-- An NMRES that passes its page's checks reaches the channel's Mule (R82). -/
theorem State.remoteNm_nmres {s u : State} {place : Nat} {va : Word} {leaf : Word} {big : Bool} {pa : Nat}
    (ht : s.translate place va.toNat Req.read = .ok (u, leaf, big, pa)) (nm : leafNm leaf = true) (plain : leafComp leaf = false) (src : BitVec 9) (b : Bool) :
    s.remoteNm place src va (if b then .abandon else .resume) =
      .next (u.putMule { u.mule (chanOf (dramFlat (leafPa leaf))) with
        controls := (u.mule (chanOf (dramFlat (leafPa leaf)))).controls ++
          [⟨b, ⟨remotePcn src, 0, s.mgmt.ctxg, none⟩, 1, va.toNat / pageBytes big * pageBytes big, pageBytes big⟩] }) := by
  cases b <;>
    simp [State.remoteNm, State.nmAt, NmReq.req, ht, nm, plain, State.nmEnqueue]

theorem deniedMap_eq (ps : List FoldPage) : deniedMap ps = (ps.zipIdx.map fun y => if y.1.denied then 2 ^ y.2 else 0).sum := by
  rw [deniedMap, List.sum_eq_foldl]

section
variable {s u : State} {port : Nat} {va : Word} {len : Nat} {ps : List FoldPage}
  (hps : s.foldPagesAt (ingress port) 17 va.toNat (va.toNat + len) = (u, ps)) (src : BitVec 9) (j : Nat) (f : BitVec 3) (d : List Line)
include hps

theorem State.remoteFold_tooMany (many : 16 < ps.length) : s.remoteFold port src va j f len d = .next (u.out (.remoteReply src 0x05)) := by
  simp only [State.remoteFold, hps, if_pos many]
  rfl

variable (few : ps.length ≤ 16)
include few

theorem State.remoteFold_denied (deny : ∃ y ∈ ps, y.denied = true) : s.remoteFold port src va j f len d =
    .next (u.out (.remoteReply src (BitVec.ofNat 64 (0x44 + 256 * (ps.zipIdx.map fun y => if y.1.denied then 2 ^ y.2 else 0).sum)))) := by
  have some_ : ps.any FoldPage.denied = true := List.any_eq_true.2 deny
  simp only [State.remoteFold, hps, if_neg (Nat.not_lt.2 few), if_pos some_, deniedMap_eq, Nat.mul_comm]

variable (grant : ∀ y ∈ ps, y.denied = false)
include grant

theorem State.remoteFold_notNm (bad : ∃ y ∈ ps, y.nm = false) : s.remoteFold port src va j f len d = .next (u.out (.remoteReply src 0x05)) := by
  have none_ : ¬ps.any FoldPage.denied = true := by simpa using grant
  have some_ : (!ps.all FoldPage.nm) = true := by simpa using bad
  simp only [State.remoteFold, hps, if_neg (Nat.not_lt.2 few), if_neg none_, if_pos some_]
  rfl

theorem State.remoteFold_sent (nm : ∀ y ∈ ps, y.nm = true) : s.remoteFold port src va j f len d =
    .next { u with folds := u.folds ++ [⟨va.toNat, len, (ps.head?.map FoldPage.chan).getD 0, j, f, d, remotePcn src, port, 0⟩] } := by
  have none_ : ¬ps.any FoldPage.denied = true := by simpa using grant
  have all_ : ¬(!ps.all FoldPage.nm) = true := by simpa using nm
  simp only [State.remoteFold, hps, if_neg (Nat.not_lt.2 few), if_neg none_, if_neg all_]

end

end Sys2Proof.Machine
end

section
namespace Sys2Proof.Machine

/-! ## A record of a fault keeps the node's number -/

theorem State.walked_mgmt (s : State) (va : Nat) : (s.walked va).mgmt = s.mgmt := by
  unfold State.walked
  generalize s.walkPath va s.rootPa 3 = path
  induction path generalizing s with
  | nil => rfl
  | cons a path ih =>
    rw [List.foldl_cons, ih, s.dramUse_eq a]
    rfl

theorem State.noteBad_nodew (s : State) (va : Nat) (f : FaultInfo) : (s.noteBad va f).mgmt.nodew = s.mgmt.nodew := by
  unfold State.noteBad
  split <;> rfl

theorem State.noteAt_nodew (s : State) (place va : Nat) (f : FaultInfo) : (s.noteAt place va f).mgmt.nodew = s.mgmt.nodew := by
  unfold State.noteAt
  split
  · rfl
  · rw [State.noteBad_nodew, State.walked_mgmt]

theorem State.noteWalk_nodew (s : State) (place va : Nat) (f : FaultInfo) : (s.noteWalk place va f).mgmt.nodew = s.mgmt.nodew := by
  have walks (l : List Nat) : (l.foldl (fun t _ => State.walked t va) s).mgmt = s.mgmt := by
    induction l generalizing s with
    | nil => rfl
    | cons a l ih => rw [List.foldl_cons, ih, State.walked_mgmt]
  unfold State.noteWalk
  split
  · dsimp only
    split
    · rfl
    · rw [State.noteBad_nodew, walks]
  · split
    · rfl
    · exact s.noteAt_nodew place va f

/-- A host access that faults is recorded at its own address (R15). -/
theorem State.noteWalk_hostRefused (s : State) (place va : Nat) (f : FaultInfo) (type : BitVec 8) (off : BitVec 48) :
    (s.noteWalk place va f).hostRefused type off = (s.noteWalk place va f).logError noPcn 0 type (BitVec.ofNat 64 (s.windowVa off)) 0 := by
  rw [State.hostRefused, State.windowVa, State.noteWalk_nodew, State.windowVa]

/-- A write of the window reaches the bytes under its mask of the line at its physical address, and no other byte (R16, R72). -/
theorem hostMemWrite_stores {s : State} (off : BitVec 48) (mask : BitVec 64) (data : Line) (h : s.mgmt.state = 2)
    (inside : off.toNat / 64 * 64 + 64 ≤ 0xB270000000) (good : s.dramBad = []) (plain : s.blockCode (dramFlat (lineOff off) / 128) ≠ 3) :
    ∃ t : State, exec (.hostMemWrite off mask data) s = .next (t.out (.hostWritten off)) ∧
      t = { s with dram := t.dram, codes := t.codes, metaCache := t.metaCache, dramSoft := t.dramSoft, corrected := t.corrected } ∧
      t.codes = s.codes.filter (fun e => e.1 != dramFlat (lineOff off) / 64 * 64 / 128) ∧
      t.dram = s.dram.writeLine (dramFlat (lineOff off) / 64 * 64) (lineMerge (s.dram.line (dramFlat (lineOff off))) mask data) := by
  obtain ⟨u, ugood, same, raw⟩ := State.rawWrite_eq off mask data good plain
  have stored := State.dramWrite_raw ugood (dramFlat (lineOff off)) (lineMerge (s.dram.line (dramFlat (lineOff off))) mask data)
  have dram : u.dram = s.dram := by rw [same]; rfl
  have codes : u.codes = s.codes := by rw [same]; rfl
  refine ⟨_, hostMemWrite_inWindow off mask data h inside, ?_, ?_, ?_⟩
  · rw [raw, stored, same]
    rfl
  · rw [raw, stored, ← codes]
  · rw [raw, stored, ← dram]

end Sys2Proof.Machine

open Sys2Proof.Machine in
/-- Settles O51: each access follows its own path through the model; one that is performed meets a line that its home holds, where a read answers and
a write is one numbered write (`State.heldAtHome`, `writesHeld`). -/
theorem hostAndNodeAccesses : Obligations.HostAndNodeAccesses := by
  unfold Obligations.HostAndNodeAccesses
  refine fun s => ⟨fun off mask data => ?_, fun port src va x => ?_, fun tag va n => ⟨rfl, fun running sent => ?_⟩⟩
  · intro line addr va refused
    refine ⟨hostRefuses_early off mask data, hostRefuses_outside off mask data, hostRefuses_low off mask data, fun h inside good plain => ⟨?_, ?_⟩,
      fun h high => ⟨fun place f hr => ?_, fun place f hw => ?_, fun l held => ?_, fun l held free => ?_⟩⟩
    · exact ⟨_, hostMemRead_inWindow off h inside good plain, s.dramUse_eq _⟩
    · obtain ⟨t, written, same, codes, dram⟩ := hostMemWrite_stores off mask data h inside good plain
      refine ⟨t, written, same, codes, fun j hj => ?_, fun y apart => ?_⟩
      · rw [dram]
        exact (Memory.read_writeLine _ _ _ hj).trans (lineByte_lineMerge _ _ _ hj)
      · rw [dram]
        exact Memory.read_writeLine_outside _ _ _ _ apart
    · exact (hostMemRead_fault off h high hr).trans (by rw [State.noteWalk_hostRefused]; rfl)
    · exact (hostMemWrite_fault off mask data h high hw).trans (by rw [State.noteWalk_hostRefused]; rfl)
    · exact hostMemRead_done off h high (held.homeRead_eq 0 true)
    · obtain ⟨find, unmarked, good, _⟩ := id held
      have w := State.numberedWrite_held find unmarked good 1536 l.leaf l.pa mask data false
      exact ⟨_, _, hostMemWrite_done off mask data h high (held.homeWrite_eq free 1536 1536 mask data), w.find, w.dirty, w.commits, w.dram,
        fun j hj => w.lineByte hj, fun q hq => w.noticed hq⟩
  · intro a link up quiet own low high answered fits
    have r : reachesHome s port va x := ⟨link, up, quiet, own, low, high⟩
    have asked (n : Nat) (h : fits n) : remoteFits va.toNat (.read n) = true := by
      obtain ⟨some_, within⟩ := h
      simp only [remoteFits, Bool.and_eq_true, decide_eq_true_eq]
      exact ⟨some_, within⟩
    refine ⟨fun early n mask data h => ⟨?_, ?_⟩, fun running => ⟨fun n h => ⟨?_, ?_, ?_, ?_⟩, ?_, ?_, ?_⟩⟩
    · exact r.early src (by simp [remoteFeatures]) (asked n h) early
    · exact r.early src (by simp [remoteFeatures]) rfl early
    · exact fun f ht => r.read_denied src running (asked n h) ht
    · exact fun f mask data ht => r.write_denied src running ht
    · exact fun u e l ht held => (r.read_eq src running (asked n h) ht).trans (held.remoteRead_eq src n)
    · intro u e l mask data ht held free
      have free' : u.reservation = none := (State.translate_reservation ht).trans free
      obtain ⟨find, unmarked, good, _⟩ := id held
      have w := State.numberedWrite_held find unmarked good 1536 l.leaf l.pa mask data false
      exact ⟨_, _, (r.write_eq src running ht).trans (held.remoteWrite_eq free' src mask data), w.find, w.dirty, fun j hj => w.lineByte hj, w.commits, w.dram,
        fun q hq => w.noticed hq⟩
    · intro w o y x' y' u e l feature aligned ht held free n old
      have free' : u.reservation = none := (State.translate_reservation ht).trans free
      have feature' := (feature_eq x.features 1).trans feature
      refine ⟨?_, ?_⟩
      · obtain ⟨t, done, written⟩ := held.remoteRmw_writes free' src w (f := amoRmw o w y) aligned rfl
        exact ⟨t, _, (r.amo_eq src running feature' (beq_iff_eq.2 aligned) ht).trans done, rfl, written⟩
      · have arrives := r.cas_eq src running (y := x') (z := y') feature' (beq_iff_eq.2 aligned) ht
        by_cases same : old = x'.toNat % 2 ^ (8 * n)
        · have hf : casRmw w x' y' old = some (y'.toNat % 2 ^ (8 * n)) := (if_pos (same.trans (operandOf_eq w x').symm)).trans (congrArg some (operandOf_eq w y'))
          obtain ⟨t, done, written⟩ := held.remoteRmw_writes free' src w aligned hf
          exact ⟨t, arrives.trans done, by rwa [if_pos same]⟩
        · have hf : casRmw w x' y' old = none := if_neg fun e => same (e.trans (operandOf_eq w x'))
          exact ⟨u, arrives.trans (held.remoteRmw_fails free' src w hf), by rw [if_neg same]⟩
    · intro b u leaf big pa feature ht nm plain
      exact (r.nmres_eq src running ((feature_eq x.features 4).trans feature)).trans (State.remoteNm_nmres ht nm plain src b)
    · intro j f len d u ps feature some_ count within hps op
      have arrives := r.fold_eq src running (f := f) (j := j) (len := len) (d := d) ((feature_eq x.features 0).trans feature) (by
        simp only [remoteFits, Bool.and_eq_true, decide_eq_true_eq, beq_iff_eq]
        exact ⟨⟨some_, count⟩, within⟩)
      refine ⟨fun many => ?_, fun few deny => ?_, fun few grant bad => ?_, fun few grant => ?_⟩
      · exact arrives.trans (State.remoteFold_tooMany hps src j f d many)
      · exact arrives.trans (State.remoteFold_denied hps src j f d few deny)
      · exact arrives.trans (State.remoteFold_notNm hps src j f d few grant bad)
      · exact ⟨_, arrives.trans (State.remoteFold_sent hps src j f d few (fun y hy => (grant y hy).1) fun y hy => (grant y hy).2),
          rfl, rfl, rfl, rfl, rfl, by rw [Contribution.far, remoteNode_remotePcn]; rfl, rfl, remoteNode_remotePcn src⟩
  · exact if_pos ⟨running, by simpa using sent⟩
end
section
namespace Sys2Proof.Machine

/-! ## Poisoned and pending registers (R42, R259) -/

/-- The instructions with a word are those whose registers are listed. -/
theorem encode_isSome (i : Instr) : (encode i).isSome = i.regs.isSome := by cases i <;> rfl

/-- The control registers that CRD reads in system mode alone (R251). -/
theorem crd_systemOnly (d : Reg) (x : BitVec 12) : (Instr.crd d x).systemOnly = cregSysRead x := by
  simp [Instr.systemOnly, cregSysRead]

/-- A result comes behind the checks of R259 over these registers: the open chunk closes before an instruction that acts alone, then a pending register
stalls, then a poisoned one traps. -/
def State.checksFirst (s : State) (alone sys : Bool) (reads writes : List Reg) (r : Res) : Prop :=
  (alone = true → s.core.chunk.isSome = true → r = .next { s with core := s.core.close }) ∧
  (alone = false ∨ s.core.chunk = none → sys = false ∨ s.core.ctl.mode = .system →
    (∀ x, (∀ y ∈ reads ++ writes, s.core.pending y = false) → reads.find? s.core.poisoned = some x → r = s.trap 0x08 (BitVec.ofNat 64 x.toNat)) ∧
    ((∃ y ∈ reads ++ writes, s.core.pending y = true) → r = .next (if s.core.chunk.isSome = true then { s with core := s.core.close } else s)))

section
variable {s : State} (hs : s.starts)
include hs

/-- A poisoned source of an instruction of the open chunk, nothing pending, traps with its number. -/
theorem State.gate_poisoned {reads writes : List Reg} {x : Reg} (hp : ∀ y ∈ reads ++ writes, s.core.pending y = false)
    (hx : reads.find? s.core.poisoned = some x) (k : Res) : s.gate reads writes k = s.trapN 0x08 x.toNat := by
  simp only [State.gate, State.not_busy hs, any_pending_false hp, Core.firstPoisoned, hx]
  rfl

/-- A pending register stalls an instruction of the open chunk, which closes first. -/
theorem State.gate_pending {reads writes : List Reg} (hp : (reads ++ writes).any s.core.pending = true) (k : Res) :
    s.gate reads writes k = s.waitClosed := by
  simp only [State.gate, State.not_busy hs, hp]
  rfl

/-- The open chunk closes before an instruction that acts alone (R129). -/
theorem State.alone_chunk (hc : s.core.chunk.isSome = true) (sys : Bool) (w : Word) (reads writes : List Reg) (k : Res) :
    s.alone sys w reads writes k = .next { s with core := s.core.close } := by
  simp only [State.alone, State.not_busy hs, hc]
  rfl

/-- With no chunk open, and in a mode that may execute it, an instruction that acts alone has the checks of one of the open chunk. -/
theorem State.alone_eq_gate {sys : Bool} (hc : s.core.chunk = none) (hm : sys = false ∨ s.core.ctl.mode = .system) (w : Word)
    (reads writes : List Reg) (k : Res) : s.alone sys w reads writes k = s.gate reads writes k := by
  have may : (sys && s.core.ctl.mode == .user) = false := by
    rcases hm with h | h <;> simp [h]
  simp only [State.alone, State.gate, State.waitClosed, State.not_busy hs, hc, may]
  rfl

theorem State.gate_checksFirst (sys : Bool) (reads writes : List Reg) (k : Res) : s.checksFirst false sys reads writes (s.gate reads writes k) := by
  refine ⟨nofun, fun _ _ => ⟨fun x hp hx => State.gate_poisoned hs hp hx k, fun hp => ?_⟩⟩
  rw [State.gate_pending hs (List.any_eq_true.2 hp), State.waitClosed]
  split <;> rfl

theorem State.alone_checksFirst (sys : Bool) (w : Word) (reads writes : List Reg) (k : Res) :
    s.checksFirst true sys reads writes (s.alone sys w reads writes k) := by
  refine ⟨fun _ hc => State.alone_chunk hs hc .., fun h hm => ?_⟩
  have hc : s.core.chunk = none := by simpa using h
  rw [State.alone_eq_gate hs hc hm]
  exact (State.gate_checksFirst hs sys reads writes k).2 (.inl rfl) hm

/-- CRD reads a control register inside the open chunk, some of them in system mode alone (R251, R284). -/
theorem execCrd_checksFirst (d : Reg) (x : BitVec 12) : s.checksFirst false (Instr.crd d x).systemOnly [] [d] (execCrd d x s) := by
  refine ⟨nofun, fun h hm => ?_⟩
  have may : (cregSysRead x && s.core.ctl.mode == .user) = false := by
    rw [crd_systemOnly] at hm
    rcases hm with h | h <;> simp [h]
  simp only [execCrd, State.not_busy hs, may]
  exact (State.gate_checksFirst hs _ [] [d] _).2 h hm

/-- An instruction whose meaning stands behind the checks of the open chunk. -/
theorem exec_checksFirst_of_gate {i : Instr} {reads writes : List Reg} (hr : i.regs = some (false, reads, writes)) {k : Res}
    (hx : exec i s = s.gate reads writes k) {x : Bool × List Reg × List Reg} (hi : i.regs = some x) :
    s.checksFirst x.1 i.systemOnly x.2.1 x.2.2 (exec i s) := by
  cases hr.symm.trans hi
  rw [hx]
  exact State.gate_checksFirst hs ..

/-- An instruction whose meaning stands behind the checks of one that acts alone. -/
theorem exec_checksFirst_of_alone {i : Instr} {reads writes : List Reg} (hr : i.regs = some (true, reads, writes)) {w : Word} {k : Res}
    (hx : exec i s = s.alone i.systemOnly w reads writes k) {x : Bool × List Reg × List Reg} (hi : i.regs = some x) :
    s.checksFirst x.1 i.systemOnly x.2.1 x.2.2 (exec i s) := by
  cases hr.symm.trans hi
  rw [hx]
  exact State.alone_checksFirst hs ..

/-- Every instruction has the checks of R259 first, over the registers that it reads and writes. -/
theorem exec_checksFirst (i : Instr) {x : Bool × List Reg × List Reg} (hi : i.regs = some x) :
    s.checksFirst x.1 i.systemOnly x.2.1 x.2.2 (exec i s) := by
  cases i with
  | crd d y =>
    cases hi
    exact execCrd_checksFirst hs d y
  | add | sub | and | or | xor | sll | srl | sra | slt | sltu | min | max | minu | maxu | clz | ctz | popc | sext | zext | mul | mulh | mulhu
    | div | divu | rem | remu | addi | andi | ori | xori | slti | sltiu | slli | srli | srai | li | lis | adpc | gaddr | padd | psub | pmul | pmin
    | pmax | pavg | beq | bne | blt | bge | bltu | bgeu | j | jal | jalr | ldb | ldh | ldw | ldd | ldbu | ldhu | ldwu | stb | sth | stw | std | fadd
    | fsub | fmul | fdiv | fsqrt | fmin | fmax | feq | flt | fle | fclass | fma | fms | fnma | fnms | tadd | tsub | tmul | tdiv | tsqrt | tcls
    | tfma | tfms | tfnma | tfnms | cvt => exact exec_checksFirst_of_gate hs rfl rfl hi
  | trap | upret | tinv | cwr | lda | str | amoAdd | amoAnd | amoOr | amoXor | amoMin | amoMax | amoMinu | amoMaxu | amoSwap | amoFadd | amoFmax
    | amoFmin | amoTadd | cas | clean | inv | clinv | pref | vadd | vsub | vmul | vfma | vmin | vmax | vand | vor | vxor | vshl | vcmpeq | vcmplt
    | vsel | vexp | vlog2 | vrcp | vrsq | vsigm | vtanh | vmov | vcvt | vset | viota | vgath | vscat | vrsum | vrmax | vrmin | vdot | vclaim | vscan
    | qpush | qpushN | qpop | qpopN | take | spawn | spawnt | yield | swp | widf | ttload | armPush | armEvent | armWake | ctradd | ctrrd | waitc
    | msend | msendw | mrecv | mrecvN | nmc | nmres | nmresAbandon | nmstat | stat | unstat | ctbl | nop | eret | wfe | brk | replay | halt | fenceP
    | fenceS | vrel | done | bar | bars | waitp => exact exec_checksFirst_of_alone hs rfl rfl hi
  | _ => exact nomatch hi

end
end Sys2Proof.Machine

open Sys2Proof.Machine in
/-- Settles O26: the checks of R259 come first in every instruction that has a word. -/
theorem poisonAndPending : Obligations.PoisonAndPending := by
  unfold Obligations.PoisonAndPending
  refine ⟨fun i w hw => ?_, fun s i alone reads writes hi hs => exec_checksFirst hs i hi⟩
  rw [← encode_isSome, hw]
  rfl
end
section
namespace Sys2Proof.Machine

/-! ## What time leaves as it is (R205, R206, R222, R225) -/

/-- The bookkeeping of time from s to t: TB, DRAM, the registers, PC and scratchpad of the active core stay, and the same cores are in use. -/
structure State.timeKeeps (s t : State) : Prop where
  tb : t.tb = s.tb
  dram : t.dram = s.dram
  regs : t.core.regs = s.core.regs
  pc : t.core.pc = s.core.pc
  spad : t.core.spad = s.core.spad
  pcn : t.core.pcn = s.core.pcn
  others : t.others.map Core.pcn = s.others.map Core.pcn

/-- The numbers of the cores in use. -/
def State.pcns (s : State) : List Nat := s.cores.map Core.pcn

theorem State.timeKeeps.refl (s : State) : s.timeKeeps s := ⟨rfl, rfl, rfl, rfl, rfl, rfl, rfl⟩

theorem State.timeKeeps.trans {s t u : State} (h : s.timeKeeps t) (k : t.timeKeeps u) : s.timeKeeps u :=
  ⟨k.tb.trans h.tb, k.dram.trans h.dram, k.regs.trans h.regs, k.pc.trans h.pc, k.spad.trans h.spad, k.pcn.trans h.pcn, k.others.trans h.others⟩

theorem State.timeKeeps.pcns {s t : State} (h : s.timeKeeps t) : t.pcns = s.pcns := by
  simp only [State.pcns, State.cores, List.map_cons, h.pcn, h.others]

/-- Putting back a core that is in use leaves the numbers of the cores. -/
theorem map_pcn_upsert (c : Core) (l : List Core) (h : c.pcn ∈ l.map Core.pcn) :
    (upsert (fun x => x.pcn == c.pcn) (fun _ => c) c l).map Core.pcn = l.map Core.pcn := by
  induction l with
  | nil => exact absurd h List.not_mem_nil
  | cons x l ih =>
    unfold upsert
    by_cases hx : x.pcn = c.pcn
    · rw [if_pos (beq_iff_eq.2 hx), List.map_cons, List.map_cons, hx]
    · have mem : c.pcn ∈ l.map Core.pcn := (List.mem_cons.1 h).resolve_left fun e => hx e.symm
      rw [if_neg (fun e => hx (beq_iff_eq.1 e)), List.map_cons, List.map_cons, ih mem]

/-- An update of a core in use that keeps its number, registers, PC and scratchpad. -/
theorem State.modCore_timeKeeps (s : State) {p : Nat} (hp : p ∈ s.pcns) (f : Core → Core)
    (hf : ∀ c, (f c).pcn = c.pcn ∧ (f c).regs = c.regs ∧ (f c).pc = c.pc ∧ (f c).spad = c.spad) : s.timeKeeps (s.modCore p f) := by
  obtain ⟨pcn, regs, pc, spad⟩ := hf (s.getCore p)
  have number : (f (s.getCore p)).pcn = p := pcn.trans (s.getCore_pcn p)
  unfold State.modCore State.putCore
  rw [number]
  by_cases own : s.core.pcn = p
  · have active : s.getCore p = s.core := if_pos own
    rw [if_pos own]
    rw [active] at pcn regs pc spad
    exact ⟨rfl, rfl, by rw [active, regs], by rw [active, pc], by rw [active, spad], by rw [active, pcn], rfl⟩
  · have other : p ∈ s.others.map Core.pcn := (List.mem_cons.1 hp).resolve_left fun e => own e.symm
    rw [if_neg own]
    refine ⟨rfl, rfl, rfl, rfl, rfl, rfl, ?_⟩
    have same := map_pcn_upsert (f (s.getCore p)) s.others (by rwa [number])
    rwa [number] at same

/-- An operation over a list of cores in use. -/
theorem State.foldl_timeKeeps {α : Type} (p : α → Nat) (f : State → α → State) (hf : ∀ (s : State) x, p x ∈ s.pcns → s.timeKeeps (f s x))
    (l : List α) (s : State) (hl : ∀ x ∈ l, p x ∈ s.pcns) : s.timeKeeps (l.foldl f s) := by
  induction l generalizing s with
  | nil => exact .refl s
  | cons x l ih =>
    have first := hf s x (hl x List.mem_cons_self)
    exact first.trans (ih _ fun y hy => first.pcns ▸ hl y (List.mem_cons_of_mem _ hy))

theorem State.setQueue_timeKeeps (s : State) (q : SchedQ) : s.timeKeeps (s.setQueue q) := ⟨rfl, rfl, rfl, rfl, rfl, rfl, rfl⟩

theorem State.overflow_timeKeeps (s : State) (i : QueueId) : s.timeKeeps (s.overflow i) := by
  unfold State.overflow
  dsimp only
  split
  · exact .refl s
  split
  · exact s.setQueue_timeKeeps _
  split
  · split
    · exact s.setQueue_timeKeeps _
    · exact .refl s
  · exact .refl s

theorem State.idles_timeKeeps (s : State) (p : Nat) (hp : p ∈ s.pcns) : s.timeKeeps (s.idles p) := by
  unfold State.idles
  split
  · refine (s.modCore_timeKeeps hp _ ?_).trans (State.overflow_timeKeeps _ _)
    exact fun _ => ⟨rfl, rfl, rfl, rfl⟩
  · exact .refl s

theorem State.settle_timeKeeps (s : State) (p : Nat) (hp : p ∈ s.pcns) : s.timeKeeps (s.settle p) := by
  unfold State.settle
  split
  · exact s.idles_timeKeeps p hp
  · exact .refl s

theorem State.settleMarked_timeKeeps (s : State) : s.timeKeeps s.settleMarked := by
  refine State.foldl_timeKeeps id State.settle State.settle_timeKeeps _ s fun p hp => ?_
  obtain ⟨c, hc, rfl⟩ := List.mem_map.1 hp
  exact List.mem_map_of_mem (List.mem_of_mem_filter hc)

theorem State.regrant_timeKeeps (s : State) (p : Nat) (hp : p ∈ s.pcns) : s.timeKeeps (s.regrant p) := by
  unfold State.regrant
  refine s.modCore_timeKeeps hp _ ?_
  exact fun _ => ⟨rfl, rfl, rfl, rfl⟩

theorem mem_insertBy {α : Type} (le : α → α → Bool) (x y : α) (l : List α) : y ∈ insertBy le x l ↔ y = x ∨ y ∈ l := by
  induction l with
  | nil => simp [insertBy]
  | cons z l ih =>
    unfold insertBy
    split
    · simp
    · simp [ih, or_left_comm]

theorem mem_sortBy {α : Type} (le : α → α → Bool) (y : α) (l : List α) : y ∈ sortBy le l ↔ y ∈ l := by
  induction l with
  | nil => rfl
  | cons x l ih => simp [sortBy, mem_insertBy, ih]

theorem State.regrantDue_timeKeeps (s : State) : s.timeKeeps s.regrantDue := by
  refine State.foldl_timeKeeps Prod.snd _ (fun s x hx => s.regrant_timeKeeps x.2 hx) _ s fun x hx => ?_
  obtain ⟨c, hc, due⟩ := List.mem_filterMap.1 ((mem_sortBy _ x _).1 hx)
  obtain ⟨t, -, rfl⟩ := Option.map_eq_some_iff.1 due
  exact List.mem_map_of_mem hc

/-- A cycle count passes at a core and leaves its number, registers, PC and scratchpad. -/
theorem Core.tick_keeps (n : Nat) (c : Core) :
    (c.tick n).pcn = c.pcn ∧ (c.tick n).regs = c.regs ∧ (c.tick n).pc = c.pc ∧ (c.tick n).spad = c.spad := by
  unfold Core.tick
  split <;> exact ⟨rfl, rfl, rfl, rfl⟩

/-- What n cycles leave, but for TB. -/
theorem State.pass_timeKeeps (s : State) (n : Nat) : ({ s with tb := s.tb + BitVec.ofNat 64 n } : State).timeKeeps (s.pass n) := by
  obtain ⟨pcn, regs, pc, spad⟩ := s.core.tick_keeps n
  have ticked : ({ s with tb := s.tb + BitVec.ofNat 64 n } : State).timeKeeps { s.allCores (Core.tick n) with tb := s.tb + BitVec.ofNat 64 n } := by
    refine ⟨rfl, rfl, regs, pc, spad, pcn, ?_⟩
    rw [State.allCores, List.map_map]
    exact List.map_congr_left fun c _ => (c.tick_keeps n).1
  exact (ticked.trans (State.regrantDue_timeKeeps _)).trans (State.settleMarked_timeKeeps _)

theorem State.raiseTimer_timeKeeps (s : State) : s.timeKeeps s.raiseTimer := by
  unfold State.raiseTimer execTimer
  dsimp only
  split
  next h =>
    split at h
    · cases h
      exact s.modCore_timeKeeps List.mem_cons_self _ fun _ => ⟨rfl, rfl, rfl, rfl⟩
    · cases h
      exact .refl s
  next => exact .refl s

theorem State.select_tb (s : State) (p : Nat) : (s.select p).tb = s.tb := by
  unfold State.select
  split <;> rfl

theorem State.select_dram (s : State) (p : Nat) : (s.select p).dram = s.dram := by
  unfold State.select
  split <;> rfl

end Sys2Proof.Machine
end

section
namespace Sys2Proof.Machine

/-! ## A core's turn (R33, R35, R111, R136, R260, R418) -/

/-- What a turn comes to. -/
def Turn.run : Turn → Res
  | .rest r => r
  | .perform i t => exec i t

/-- A step is its turn, the power being on. -/
theorem step_eq_of_powered {s : State} (hs : s.powered = true) : step s = s.turn.run := by
  rw [step, State.dark, hs, if_neg (by simp)]
  cases s.turn <;> rfl

/-- An operation or event that the agenda names is performed as it stands there (log entry 1). -/
theorem State.turn_event {s : State} {i : Instr} {rest : List Act} (ha : s.agenda = .ev i :: rest) (hi : encode i = none)
    (trap : ∀ x, i ≠ .illegalInstruction x) : s.turn = .perform i ({ s with agenda := rest } : State).settleMarked := by
  have event : agendaEvent i = true := by
    unfold agendaEvent
    split
    next x => exact absurd rfl (trap x)
    next => rw [hi]; rfl
  simp only [State.turn, ha, event, if_true]

/-- A core that runs, awaits no data and closes no chunk comes to an instruction boundary. -/
theorem State.coreTurn_eq_boundary {s u : State} (hu : s.raiseTimer = u) (run : u.core.run = .running) (out : u.core.out = none)
    (closing : u.core.closing = false) : s.coreTurn = u.boundary := by
  unfold State.coreTurn
  simp only [hu, run, out]
  cases hc : u.core.chunk with
  | none => rfl
  | some k =>
    have : k.closing = false := by simpa [Core.closing, hc] using closing
    simp only [this]
    rfl

/-- A core that may open a chunk, or has one, need not wait for the commit reservation (R136). -/
theorem State.reserve_ready {u : State} (h : u.core.streak < 4 ∨ u.core.chunk.isSome = true ∨ u.reservation = some u.core.pcn) :
    u.reserve = (u, true) := by
  unfold State.reserve
  rcases h with h | h | h <;> simp [h]

/-- Nothing that is due at the boundary comes before the fetch. -/
theorem State.boundary_eq_fetch {u : State} (early : u.core.early = none) (int : u.core.pendingInt = none) (budget : u.core.budgetDue = false)
    (late : u.lateUpcall = none) (stalled : u.stalled = false)
    (ready : u.core.streak < 4 ∨ u.core.chunk.isSome = true ∨ u.reservation = some u.core.pcn) : u.boundary = u.fetch := by
  have noInt : u.intReady = false := by simp [State.intReady, int]
  simp [State.boundary, noInt, budget, early, State.lateDue, late, stalled, State.reserve_ready ready]

/-- An interrupt is taken first at a boundary with no chunk open, unless the core waits in an acknowledged WFE or for an atomic (R260, R418). -/
theorem State.boundary_interrupt {u : State} {e : Nat × Word} (int : u.core.pendingInt = some e) (acked : u.core.acked = false)
    (sent : u.core.sent = false) (chunk : u.core.chunk = none) :
    u.boundary = .perform (.interruptEntry u.core.pcn) { u with core := { u.core with early := none } } := by
  have ready : u.intReady = true := by simp [State.intReady, int, acked, sent, chunk]
  simp only [State.boundary, ready, if_true]

/-- A PC that may not be fetched (R33). -/
theorem State.fetch_refused {u : State} (h : u.core.pc.toNat % 4 ≠ 0 ∨ u.core.xb ≤ u.core.pc.toNat) : u.fetch = .perform .executeBoundaryFetch u := by
  have cause : u.core.fetchCause.isSome = true := by
    unfold Core.fetchCause
    split
    · rfl
    next h4 => rw [if_pos (h.resolve_left h4)]; rfl
  rw [State.fetch, if_pos cause]

/-- The word that the active core fetches: the four bytes at its PC (R35). -/
def State.fetched (u : State) : BitVec 32 :=
  let m := u.core.spad
  let a := u.core.pc.toNat
  wordOfBytes (m.read a) (m.read (a + 1)) (m.read (a + 2)) (m.read (a + 3))

/-- A PC that may be fetched (R33). -/
theorem Core.fetchCause_none {c : Core} (aligned : c.pc.toNat % 4 = 0) (below : c.pc.toNat < c.xb) : c.fetchCause = none := by
  rw [Core.fetchCause, if_neg (not_not_intro aligned), if_neg (Nat.not_le.2 below)]

section
variable {u : State} (aligned : u.core.pc.toNat % 4 = 0) (below : u.core.pc.toNat < u.core.xb) (good : u.core.badWord u.core.pc.toNat 4 = none)
include aligned below good

/-- The word at a PC that may be fetched is decoded, its single-bit errors counted (R35, R258, R443). -/
theorem State.fetch_word {i : Instr} (hw : decode u.fetched = .ok i) : u.fetch = .perform i (u.heal (u.core.softWords u.core.pc.toNat 4)) := by
  unfold State.fetched at *
  simp [State.fetch, Core.fetchCause_none aligned below, good, decodeBytes, hw]

/-- A word that is no instruction (R258). -/
theorem State.fetch_illegal {r : Reject} (hw : decode u.fetched = .error r) :
    u.fetch = .perform (.illegalInstruction u.fetched) (u.heal (u.core.softWords u.core.pc.toNat 4)) := by
  unfold State.fetched at *
  simp [State.fetch, Core.fetchCause_none aligned below, good, decodeBytes, hw]

end

/-- The active core's turn, or that of the core that the agenda names, once time has passed (log entries 1, 2). -/
def State.turnOf (s u : State) : Prop :=
  (s.agenda = [] ∧ u = (s.pass s.pace).raiseTimer) ∨
    ∃ p rest, p < 1536 ∧ s.agenda = .run p :: rest ∧ u = ((({ s with agenda := rest } : State).pass s.pace).select p).raiseTimer

/-- Such a turn is a core's turn, and time leaves the active core's registers and program as they are. -/
theorem State.turnOf.coreTurn {s u : State} (h : s.turnOf u) : (∃ r : State, r.raiseTimer = u ∧ s.turn = r.coreTurn) ∧
    u.tb = s.tb + BitVec.ofNat 64 s.pace ∧ u.dram = s.dram ∧ (s.agenda = [] → u.core.regs = s.core.regs ∧ u.core.pc = s.core.pc ∧
      u.core.spad = s.core.spad ∧ u.others.length = s.others.length) := by
  rcases h with ⟨ha, rfl⟩ | ⟨p, rest, hp, ha, rfl⟩
  · have kept := (s.pass_timeKeeps s.pace).trans (State.raiseTimer_timeKeeps _)
    refine ⟨⟨_, rfl, by simp only [State.turn, ha]⟩, kept.tb, kept.dram, fun _ => ⟨kept.regs, kept.pc, kept.spad, ?_⟩⟩
    simpa using congrArg List.length kept.others
  · have passed := ({ s with agenda := rest } : State).pass_timeKeeps s.pace
    have raised := ((({ s with agenda := rest } : State).pass s.pace).select p).raiseTimer_timeKeeps
    refine ⟨⟨_, rfl, by simp only [State.turn, ha, hp, if_true]⟩, ?_, ?_, fun none => absurd (ha.symm.trans none) (List.cons_ne_nil _ _)⟩
    · rw [raised.tb, State.select_tb, passed.tb]
    · rw [raised.dram, State.select_dram, passed.dram]

/-- What a step does whose turn comes to an instruction boundary. -/
theorem step_eq_boundary {s u : State} (on : s.powered = true) (h : s.turnOf u) (run : u.core.run = .running) (out : u.core.out = none)
    (closing : u.core.closing = false) : step s = u.boundary.run := by
  obtain ⟨r, hr, turn⟩ := h.coreTurn.1
  rw [step_eq_of_powered on, turn, State.coreTurn_eq_boundary hr run out closing]

end Sys2Proof.Machine

open Sys2Proof.Machine in
/-- Settles O35: the turn of a core that nothing else is due at is the fetch, and the word that it reads is decoded. -/
theorem stepRunsDecodedWord : Obligations.StepRunsDecodedWord := by
  unfold Obligations.StepRunsDecodedWord
  refine ⟨fun s on i rest ha hi trap => ?_, fun s u on (turn : s.turnOf u) => ⟨turn.coreTurn.2, ?_, ?_, ?_⟩⟩
  · rw [step_eq_of_powered on, State.turn_event ha hi trap, Turn.run]
  · intro ⟨run, out, closing, early, int, budget, late, stalled, ready, aligned, below, good⟩
    rw [step_eq_boundary on turn run out closing, State.boundary_eq_fetch early int budget late stalled ready]
    split
    next i word => rw [State.fetch_word aligned below good word, Turn.run]
    next r word => rw [State.fetch_illegal aligned below good word]; rfl
  · intro run out closing early int budget late stalled streak refused
    rw [step_eq_boundary on turn run out closing, State.boundary_eq_fetch early int budget late stalled (.inl streak), State.fetch_refused refused, Turn.run]
  · intro run out closing e int acked sent chunk
    rw [step_eq_boundary on turn run out closing, State.boundary_interrupt int acked sent chunk, Turn.run]
end
section
namespace Sys2Proof.Machine

/-! ## Cores put back, and the sequencers of the clusters -/

/-- A search for what the new element is not, in a list that it has entered. -/
theorem find?_upsert_other {α : Type} (p r : α → Bool) (new : α) (hp : ∀ x, p x = true → r x = false) (hn : r new = false) (l : List α) :
    (upsert p (fun _ => new) new l).find? r = l.find? r := by
  induction l with
  | nil => simp [upsert, hn]
  | cons x l ih =>
    unfold upsert
    split
    next hx => simp [hn, hp x hx]
    next => rw [List.find?_cons, List.find?_cons, ih]

theorem State.getCore_putCore_same (s : State) (c : Core) : (s.putCore c).getCore c.pcn = c := by
  unfold State.putCore
  split
  · exact if_pos rfl
  next other =>
    rw [State.getCore, if_neg other, find?_upsert_same (fun x : Core => x.pcn == c.pcn) c (beq_self_eq_true _)]
    rfl

theorem State.getCore_putCore_other (s : State) (c : Core) {q : Nat} (hq : q ≠ c.pcn) : (s.putCore c).getCore q = s.getCore q := by
  unfold State.putCore State.getCore
  split
  next own => rw [if_neg fun e => hq e.symm, if_neg fun e => hq (e.symm.trans own)]
  next =>
    have apart : ∀ x : Core, (x.pcn == c.pcn) = true → (x.pcn == q) = false := fun x hx =>
      beq_false_of_ne fun e => hq (e.symm.trans (beq_iff_eq.1 hx))
    rw [find?_upsert_other _ _ c apart (beq_false_of_ne fun e => hq e.symm)]

section
variable (s : State) {f : Core → Core} {p : Nat} (hf : (f (s.getCore p)).pcn = (s.getCore p).pcn)
include hf

/-- Core p after an update of it that keeps its number. -/
theorem State.getCore_modCore_same : (s.modCore p f).getCore p = f (s.getCore p) := by
  have put := s.getCore_putCore_same (f (s.getCore p))
  rwa [hf, s.getCore_pcn p] at put

/-- An update of core p leaves every other core. -/
theorem State.getCore_modCore_other {q : Nat} (hq : q ≠ p) : (s.modCore p f).getCore q = s.getCore q :=
  s.getCore_putCore_other _ (by rwa [hf, s.getCore_pcn p])

end

@[simp] theorem State.modCore_clusters (s : State) (p : Nat) (f : Core → Core) : (s.modCore p f).clusters = s.clusters := by
  unfold State.modCore State.putCore
  split <;> rfl

@[simp] theorem State.modCore_dram (s : State) (p : Nat) (f : Core → Core) : (s.modCore p f).dram = s.dram := by
  unfold State.modCore State.putCore
  split <;> rfl

@[simp] theorem State.modCore_cluster (s : State) (p : Nat) (f : Core → Core) (k : Nat) : (s.modCore p f).cluster k = s.cluster k := by
  rw [State.cluster, State.modCore_clusters, State.cluster]

@[simp] theorem State.getCore_putCluster (s : State) (c : Cluster) (p : Nat) : (s.putCluster c).getCore p = s.getCore p := rfl

@[simp] theorem State.cluster_k (s : State) (k : Nat) : (s.cluster k).k = k := by
  unfold State.cluster
  cases h : s.clusters.find? fun c => c.k == k with
  | none => rfl
  | some c => simpa using List.find?_some h

theorem State.cluster_putCluster_same (s : State) {c : Cluster} {k : Nat} (hk : c.k = k) : (s.putCluster c).cluster k = c := by
  subst hk
  rw [State.cluster, State.putCluster, find?_upsert_same (fun x : Cluster => x.k == c.k) c (beq_self_eq_true _)]
  rfl

theorem State.cluster_putCluster_other (s : State) {c : Cluster} {j : Nat} (hj : j ≠ c.k) : (s.putCluster c).cluster j = s.cluster j := by
  have apart : ∀ x : Cluster, (x.k == c.k) = true → (x.k == j) = false := fun x hx =>
    beq_false_of_ne fun e => hj (e.symm.trans (beq_iff_eq.1 hx))
  exact congrArg (Option.getD · _) (find?_upsert_other _ _ c apart (beq_false_of_ne fun e => hj e.symm) s.clusters)

/-! ### The cores of a cluster (R465) -/

/-- A core at a position of a cluster is one of that cluster. -/
theorem clusterOf_clusterCore (k : Nat) {i : Nat} (hi : i < 8) : clusterOf (clusterCore k i) = k := by
  unfold clusterOf clusterCore
  omega

/-- The core that a sequencer serves next is one of its cluster (R350). -/
theorem State.clusterOf_mxNext {s : State} {k p : Nat} (h : s.mxNext k = some p) : clusterOf p = k := by
  obtain ⟨i, -, rfl⟩ := List.mem_map.1 (List.mem_of_find?_eq_some h)
  exact clusterOf_clusterCore k (Nat.mod_lt _ (by decide))

/-! ### Engine queues (R263) -/

/-- A queue of a core after a change of it. -/
@[simp] theorem Core.queue_modQ_same (c : Core) {q : Nat} (hq : q < 5) (f : EngineQ → EngineQ) : (c.modQ q f).queue q = f (c.queue q) := by
  simp [Core.queue, Core.modQ, hq]

/-- A change of a queue leaves every other one. -/
theorem Core.queue_modQ_other (c : Core) {q j : Nat} (hj : j ≠ q) (f : EngineQ → EngineQ) : (c.modQ q f).queue j = c.queue j := by
  simp [Core.queue, Core.modQ, List.getElem?_set_ne hj.symm]

/-- A queue that a command has entered (R348). -/
theorem Core.queue_enqueue_same (c : Core) {q : Nat} (hq : q < 5) (k : Cmd) :
    (c.enqueue q k).queue q = { c.queue q with cmds := (c.queue q).cmds ++ [{ k with num := c.pushed }] } := by
  rw [Core.enqueue, Core.queue_modQ_same _ hq]
  rfl

theorem Core.queue_enqueue_other (c : Core) {q j : Nat} (hj : j ≠ q) (k : Cmd) : (c.enqueue q k).queue j = c.queue j := by
  rw [Core.enqueue, Core.queue_modQ_other _ hj]
  rfl

/-! ### The turn of a cluster's sequencer (R349, R350) -/

/-- The sequencer of a core's cluster once the core has been served. -/
theorem State.mxServe_cluster (s : State) {p k : Nat} (hk : clusterOf p = k) : (s.mxServe p).cluster k = { s.cluster k with last := clusterPos p } := by
  subst hk
  exact s.cluster_putCluster_same (s.cluster_k _)

theorem State.mxServe_cluster_other (s : State) {p k j : Nat} (hk : clusterOf p = k) (hj : j ≠ k) : (s.mxServe p).cluster j = s.cluster j := by
  subst hk
  exact s.cluster_putCluster_other (by rwa [s.cluster_k])

@[simp] theorem State.mxServe_getCore (s : State) (p q : Nat) : (s.mxServe p).getCore q = s.getCore q := rfl
@[simp] theorem State.mxServe_dram (s : State) (p : Nat) : (s.mxServe p).dram = s.dram := rfl

@[simp] theorem Cluster.setBank_k (c : Cluster) (b : Bit) (t : List (BitVec 24)) : (c.setBank b t).k = c.k := by
  unfold Cluster.setBank
  split <;> rfl

@[simp] theorem Cluster.setBank_active (c : Cluster) (b : Bit) (t : List (BitVec 24)) : (c.setBank b t).active = c.active := by
  unfold Cluster.setBank
  split <;> rfl

/-- A bank that is written holds what was written. -/
theorem Cluster.bank_setBank_same (c : Cluster) (b : Bit) (t : List (BitVec 24)) : (c.setBank b t).bank b = t := by
  unfold Cluster.setBank Cluster.bank
  split
  · rfl
  · rfl

/-- A write of the inactive bank leaves the active one (R184). -/
theorem Cluster.bank_setBank_inactive (c : Cluster) (t : List (BitVec 24)) : (c.setBank c.inactive t).bank c.active = c.bank c.active := by
  have one_bit : c.active = 0 ∨ c.active = 1 := by
    generalize c.active = b
    revert b
    decide
  unfold Cluster.setBank Cluster.bank Cluster.inactive
  rcases one_bit with h | h <;> simp [h]

/-- The state in which core p's table copy has become the inactive bank of cluster k, and has left its queue (R349). -/
def State.bankWritten (s : State) (k p : Nat) (tab : List (BitVec 24)) : State :=
  ((s.putCluster ((s.cluster k).setBank (s.cluster k).inactive tab)).mxServe p).modCore p fun c =>
    c.modQ 0 fun e => { e with cmds := e.cmds.drop 1 }

/-- CTBL_BANK_WRITE of the copy at the head of the command order (R349). -/
theorem execCtblBankWrite_eq {s : State} {k p : Nat} (next : s.mxNext k = some p) {c : Cmd} (head : (s.getCore p).mxHead = some c)
    {tab : List (BitVec 24)} (table : c.table = some tab) : execCtblBankWrite k s = .next (s.bankWritten k p tab) := by
  simp only [execCtblBankWrite, next, head, Option.bind_some, table, State.bankWritten]

section
variable (s : State) {k p : Nat} (hk : clusterOf p = k) (tab : List (BitVec 24))

theorem State.bankWritten_getCore_same :
    ((s.bankWritten k p tab).getCore p).queue 0 = { (s.getCore p).queue 0 with cmds := ((s.getCore p).queue 0).cmds.drop 1 } := by
  rw [State.bankWritten, State.getCore_modCore_same _ rfl, Core.queue_modQ_same _ (by decide)]
  rfl

theorem State.bankWritten_getCore_other {q : Nat} (hq : q ≠ p) : (s.bankWritten k p tab).getCore q = s.getCore q := by
  rw [State.bankWritten, State.getCore_modCore_other _ rfl hq]
  rfl

theorem State.bankWritten_dram : (s.bankWritten k p tab).dram = s.dram := by
  rw [State.bankWritten, State.modCore_dram]
  rfl

include hk

theorem State.bankWritten_cluster :
    (s.bankWritten k p tab).cluster k = { (s.cluster k).setBank (s.cluster k).inactive tab with last := clusterPos p } := by
  rw [State.bankWritten, State.modCore_cluster, State.mxServe_cluster _ hk, s.cluster_putCluster_same (by simp)]

theorem State.bankWritten_cluster_other {j : Nat} (hj : j ≠ k) : (s.bankWritten k p tab).cluster j = s.cluster j := by
  rw [State.bankWritten, State.modCore_cluster, State.mxServe_cluster_other _ hk hj, s.cluster_putCluster_other (by simpa)]

end

/-! ### The completion of a command (R264, R346) -/

/-- A command at the head of a queue is the oldest of it, with its class and code (R346). -/
theorem State.headCmd_eq {s : State} {p q cls code : Nat} {k : Cmd} (h : s.headCmd p q cls code = some k) :
    (s.getCore p).working q = some k ∧ k.cls = cls ∧ k.code = code := by
  unfold State.headCmd at h
  split at h
  next j hj =>
    split at h
    next hk =>
      cases h
      simp only [Bool.and_eq_true, beq_iff_eq] at hk
      exact ⟨hj, hk.1.2, hk.2⟩
    next => cases h
  next => cases h

/-- MX.SAVE and MX.RESTORE have codes 1 and 2 (R359). -/
theorem Cmd.code_of_isControl {k : Cmd} (h : k.isControl = true) : k.code = 1 ∨ k.code = 2 := by
  simp only [Cmd.isControl, Bool.and_eq_true, Bool.or_eq_true, beq_iff_eq] at h
  simp only [Cmd.code, Cmd.field]
  simp only [bits, Nat.shiftRight_zero] at h ⊢
  omega

/-- The element of a command as R264 lays it out. -/
theorem element_tag (k : Cmd) (value status : Nat) :
    element value status k.tag = BitVec.ofNat 64 (value % 2 ^ 40 * 2 ^ 24 + status % 256 * 2 ^ 16 + k.tag) := by
  have tag : k.tag % 2 ^ 16 = k.tag := Nat.mod_eq_of_lt (bits_lt _ 31 16)
  rw [element, tag]

theorem Core.counts_eq (c : Core) (k : Cmd) : (if k.cie then c.count k.ctr else c) = c.counts k := by
  unfold Core.counts Core.count
  cases k.cie <;> rfl

@[simp] theorem Core.counts_pcn (c : Core) (k : Cmd) : (c.counts k).pcn = c.pcn := by
  unfold Core.counts
  split
  · rfl
  split
  · rfl
  · exact congrArg Protection.pcn (c.bump_protection _ _)

@[simp] theorem Core.posted_pcn (c : Core) (q : Nat) (k : Cmd) (value status : Nat) : (c.posted q k value status).pcn = c.pcn :=
  Core.counts_pcn _ k

/-- The oldest command of a queue completes, neither a copy command nor SAVE or RESTORE (R264, R346). -/
theorem Core.complete_eq_posted {c : Core} {q : Nat} (hq : q ≠ 2) {k : Cmd} (work : c.working q = some k) (plain : k.isControl = false)
    (value status : Nat) : c.complete q value status = c.posted q k value status := by
  have head : (c.queue q).cmds.head? = some k := by rwa [Core.working, if_neg hq] at work
  have found : (c.queue q).cmds.find? (fun x => x == k) = some k := by
    obtain ⟨rest, list⟩ := List.head?_eq_some_iff.1 head
    simp [list]
  simp only [Core.complete, work, if_neg hq, Core.finish, found, plain, Core.counts_eq, element_tag, Core.posted, Core.modQ, List.erase_eq_eraseP']
  rfl

/-! ### CTSWAP (R350) -/

/-- The state in which core p's CTSWAP has made the inactive bank of its cluster the active one (R350). -/
def State.banksSwapped (s : State) (p : Nat) : State :=
  (s.putCluster { s.cluster (clusterOf p) with active := (s.cluster (clusterOf p)).inactive }).mxServe p

theorem State.banksSwapped_cluster (s : State) (p : Nat) : (s.banksSwapped p).cluster (clusterOf p) =
    { s.cluster (clusterOf p) with active := (s.cluster (clusterOf p)).inactive, last := clusterPos p } := by
  rw [State.banksSwapped, State.mxServe_cluster _ rfl, s.cluster_putCluster_same (k := clusterOf p) (by exact s.cluster_k _)]

/-- CTSWAP at its turn swaps the banks and completes (R350). -/
theorem execMxCtswap_eq {s : State} {p : Nat} {c : Cmd} (head : s.headCmd p 0 1 4 = some c) (next : s.mxNext (clusterOf p) = some p) :
    execMxCtswap p s = .next ((s.banksSwapped p).complete p 0 0 0) := by
  simp [execMxCtswap, head, next, State.banksSwapped]

/-- CTSWAP has no code of a SAVE or RESTORE, so its completion is a plain one (R264, R350). -/
theorem State.complete_ctswap {s : State} {p : Nat} {c : Cmd} (head : s.headCmd p 0 1 4 = some c) :
    (s.getCore p).complete 0 0 0 = (s.getCore p).posted 0 c 0 0 := by
  obtain ⟨work, -, code⟩ := State.headCmd_eq head
  have plain : c.isControl = false := by
    cases control : c.isControl with
    | false => rfl
    | true => rcases Cmd.code_of_isControl control with h | h <;> exact absurd (code.symm.trans h) (by decide)
  exact Core.complete_eq_posted (by decide) work plain 0 0

end Sys2Proof.Machine
end
section
namespace Sys2Proof.Machine

/-! ## STAT and UNSTAT (R45, R348) -/

/-- The state with these markings at the active core. -/
def State.withMarks (s : State) (v : Vector (BitVec 32) 24) : State := { s with core := { s.core with marks := v } }

/-- None of the macros of a list makes its marking wait while it still has its old mark, so the loop marks each of them and no other (R348). -/
theorem State.markLoop_free (mark : Nat → BitVec 32) (blocked : State → Nat → Bool) (first : Nat) (l : List Nat) (s : State) (once : l.Nodup)
    (free : ∀ j ∈ l, ∀ v, (∀ h : first + j < 24, v[first + j] = s.core.marks[first + j]) → blocked (s.withMarks v) (first + j) = false) :
    ∃ v : Vector (BitVec 32) 24, s.markLoop mark blocked first l = (s.withMarks v, true) ∧
      ∀ (m : Nat) (h : m < 24), v[m] = if first ≤ m ∧ m - first ∈ l then mark (m - first) else s.core.marks[m] := by
  induction l generalizing s with
  | nil => exact ⟨s.core.marks, rfl, fun m h => by simp⟩
  | cons j js ih =>
    obtain ⟨fresh, once⟩ := List.nodup_cons.1 once
    have now : blocked s (first + j) = false := free j List.mem_cons_self s.core.marks fun _ => rfl
    obtain ⟨v, run, marked⟩ := ih (s.withMarks (s.core.marks.setIfInBounds (first + j) (mark j))) once fun i hi v hv =>
      free i (List.mem_cons_of_mem _ hi) v fun h => by
        rw [hv h]
        exact Vector.getElem_setIfInBounds_ne h fun e => fresh (Nat.add_left_cancel e ▸ hi)
    refine ⟨v, ?_, fun m h => ?_⟩
    · rw [State.markLoop, now]
      exact run
    · have first_mark : (s.core.marks.setIfInBounds (first + j) (mark j))[m] = if first + j = m then mark j else s.core.marks[m] :=
        Vector.getElem_setIfInBounds ..
      rw [marked m h, State.withMarks, first_mark]
      by_cases this : first + j = m
      · subst this
        simp [fresh]
      · have other : first ≤ m → m - first ≠ j := fun hm e => this (by omega)
        have same : (first ≤ m ∧ m - first ∈ j :: js) ↔ first ≤ m ∧ m - first ∈ js :=
          and_congr_right fun hm => by simp [other hm]
        simp only [this, same, if_false]

/-- An instruction has completed alone: of the n macros from `first` on, number j has the mark of j, and nothing else has changed (R45, R348). -/
def State.marksRange (s : State) (r : Res) (first n : Nat) (mark : Nat → BitVec 32) : Prop :=
  ∃ t, r = .next t ∧ t = { s with core := { s.core.doneFrom with marks := t.core.marks } } ∧
    ∀ (m : Nat) (h : m < 24), t.core.marks[m] = if first ≤ m ∧ m < first + n then mark (m - first) else s.core.marks[m]

/-- STAT and UNSTAT that need not wait complete with n macros from the first one marked. -/
theorem State.markDone_free (mark : Nat → BitVec 32) (blocked : State → Nat → Bool) (first n : Nat) (s : State)
    (free : ∀ j, j < n → ∀ v, (∀ h : first + j < 24, v[first + j] = s.core.marks[first + j]) → blocked (s.withMarks v) (first + j) = false) :
    s.marksRange (markDone (s.markLoop mark blocked first (List.range n))) first n mark := by
  obtain ⟨v, run, marked⟩ := s.markLoop_free mark blocked first (List.range n) List.nodup_range fun j hj => free j (List.mem_range.1 hj)
  refine ⟨{ s with core := { s.core.doneFrom with marks := v } }, ?_, rfl, fun m h => ?_⟩
  · rw [run]
    rfl
  · have range : (first ≤ m ∧ m - first ∈ List.range n) ↔ first ≤ m ∧ m < first + n :=
      and_congr_right fun hm => List.mem_range.trans (Nat.sub_lt_iff_lt_add' hm)
    exact (marked m h).trans (by simp only [range])

theorem State.marksRange.congr {s : State} {r : Res} {first n : Nat} {f g : Nat → BitVec 32} (h : s.marksRange r first n f)
    (same : ∀ j, j < n → f j = g j) : s.marksRange r first n g := by
  obtain ⟨t, run, frame, marked⟩ := h
  refine ⟨t, run, frame, fun m hm => (marked m hm).trans (if_ctx_congr Iff.rfl (fun inside => same _ ?_) fun _ => rfl)⟩
  omega

/-- Nothing has changed when the first of the macros must be waited for. -/
theorem State.markDone_blocked (mark : Nat → BitVec 32) {blocked : State → Nat → Bool} {first n : Nat} {s : State} (nonempty : 1 ≤ n)
    (wait : blocked s first = true) : markDone (s.markLoop mark blocked first (List.range n)) = .next s := by
  obtain ⟨k, rfl⟩ := Nat.exists_eq_add_of_le' nonempty
  have stop : s.markLoop mark blocked first (List.range (k + 1)) = (s, false) := by
    rw [List.range_succ_eq_map, State.markLoop, Nat.add_zero, wait]
    rfl
  rw [stop]
  rfl

/-! ### What UNSTAT waits for -/

/-- Whether a RUN is owed depends, of all marks, on that of m alone, and not on what a waiting UNSTAT keeps (R51, R348). -/
theorem State.gridOwed_withMarks (s : State) (u : Option (List Nat)) (v : Vector (BitVec 32) 24) (lim : List Nat) {m : Nat} (hm : m < 24)
    (same : v[m] = s.core.marks[m]) : (({ s with core := { s.core with unstat := u } } : State).withMarks v).gridOwed lim m = s.gridOwed lim m := by
  have core (q : Nat) : ((({ s with core := { s.core with unstat := u } } : State).withMarks v).getCore q).queue 0 = (s.getCore q).queue 0 ∧
      ((({ s with core := { s.core with unstat := u } } : State).withMarks v).getCore q).slice = (s.getCore q).slice := by
    unfold State.getCore State.withMarks
    dsimp only
    split <;> exact ⟨rfl, rfl⟩
  have mark : v.toList.getD m 0 = s.core.marks.toList.getD m 0 := by simpa [hm] using same
  unfold State.gridOwed
  simp only [State.gridCores, (core _).1, (core _).2]
  rw [show (({ s with core := { s.core with unstat := u } } : State).withMarks v).core.marks = v from rfl, mark]
  rfl

/-! ### The operands -/

/-- An instruction that acts alone, in any mode, passes its checks. -/
theorem State.alone_eq_of_issuesAlone {s : State} {reads writes : List Reg} (h : s.issuesAlone reads writes) (w : Word) (k : Res) :
    s.alone false w reads writes k = k := State.alone_of_issuesAlone h (fun e => absurd e Bool.false_ne_true) k

theorem bits_eq (x hi lo : Nat) : bits x hi lo = x / 2 ^ lo % 2 ^ (hi - lo + 1) := by rw [bits, Nat.shiftRight_eq_div_pow]

/-- A range of macros in the stationary area that the local protection unit grants (R21, R348). -/
theorem State.statChecks_pass {s : State} {base n : Nat} (aligned : base % 0x4000 = 0) (above : 0x20000 ≤ base) (within : base + n * 0x4000 ≤ 0x60000)
    (granted : spansCheck (s.core.lpuCheck true) [(base, n * 0x4000)] = none) (k : Res) : s.statChecks base n k = k := by
  have backed : ¬(base < 0x20000 ∨ spadSize < base + n * 0x4000) := by
    simp only [spadSize]
    omega
  rw [State.statChecks, if_neg (not_not_intro aligned), if_neg backed, granted]

/-- The geometry of each of n macros stays within its 16 bits, its K block below 128 (R45, R348). -/
theorem marking_eq (w : BitVec 4) {geom n j : Nat} (hg : geom < 65536) (hk : geom / 32 % 128 + n ≤ 128) (hj : j < n) :
    marking w geom j = BitVec.ofNat 32 (2 ^ 31 + w.toNat * 2 ^ 24 + geom + 32 * j) := by
  have fits : (geom + 32 * j) % 2 ^ 16 = geom + 32 * j := by omega
  rw [marking, fits, ← Nat.add_assoc]

section
variable {s : State} {a b : Reg} (issues : s.issuesAlone [a, b] []) {base v n : Nat} (hbase : (s.core.reg a).toNat = base) (hv : (s.core.reg b).toNat = v)
  (hn : v % 32 = n) (aligned : base % 0x4000 = 0) (above : 0x20000 ≤ base) (within : base + n * 0x4000 ≤ 0x60000) (nonempty : 1 ≤ n) (few : n ≤ 16)
  (granted : spansCheck (s.core.lpuCheck true) [(base, n * 0x4000)] = none)
include issues hbase hv hn aligned above within nonempty few granted

/-- STAT whose operands pass their checks, its workspace outside of the range, marks the macros of an idle range (R348). -/
theorem execStat_marks (w : BitVec 4) (narrow : v < 2 ^ 32) (zero : v / 32 % 2048 = 0) (blocks : v / 65536 % 65536 / 32 % 128 + n ≤ 128)
    (away : ¬(base ≤ s.core.wp ∧ s.core.wp < base + n * 0x4000)) (idle : ∀ j, j < n → s.macroBusy s.core.pcn (base / 0x4000 + j) = false) :
    s.marksRange (execStat a b w s) (base / 0x4000) n fun j => BitVec.ofNat 32 (2 ^ 31 + w.toNat * 2 ^ 24 + v / 65536 % 65536 + 32 * j) := by
  have count : bits v 4 0 = n := by rw [bits_eq]; simpa using hn
  have geometry : bits v 31 16 = v / 65536 % 65536 := bits_eq v 31 16
  have valid : ¬(bits v 63 32 ≠ 0 ∨ bits v 15 5 ≠ 0 ∨ n = 0 ∨ 16 < n ∨ 127 < bits (v / 65536 % 65536) 11 5 + n - 1) := by
    simp only [bits_eq]
    omega
  simp only [execStat, State.alone_eq_of_issuesAlone issues, hbase, hv, count, geometry, if_neg valid,
    State.statChecks_pass aligned above within granted, if_neg away]
  have marked := s.markDone_free (marking w (v / 65536 % 65536)) (fun s m => s.macroBusy s.core.pcn m) (base / 0x4000) n fun j hj _ _ => idle j hj
  exact marked.congr fun j hj => marking_eq w (Nat.mod_lt _ (by decide)) blocks hj

/-- UNSTAT whose operands pass their checks keeps the numbers of the commands pushed before it, and clears the marks of its range (R348). -/
theorem execUnstat_eq {lim : List Nat} (hl : s.core.unstat.getD s.pushLimits = lim) (narrow : v < 32) :
    execUnstat a b s = markDone (({ s with core := { s.core with unstat := some lim } } : State).markLoop (fun _ => 0) (fun s m => s.gridOwed lim m)
      (base / 0x4000) (List.range n)) := by
  have count : bits v 4 0 = n := by rw [bits_eq]; simpa using hn
  have valid : ¬(bits v 63 5 ≠ 0 ∨ n = 0 ∨ 16 < n) := by
    simp only [bits_eq]
    omega
  simp only [execUnstat, State.alone_eq_of_issuesAlone issues, hbase, hv, count, if_neg valid,
    State.statChecks_pass aligned above within granted, hl]

/-- UNSTAT unmarks the macros of a range for which nothing is owed (R348). -/
theorem execUnstat_marks {lim : List Nat} (hl : s.core.unstat.getD s.pushLimits = lim) (narrow : v < 32)
    (free : ∀ j, j < n → s.gridOwed lim (base / 0x4000 + j) = false) : s.marksRange (execUnstat a b s) (base / 0x4000) n fun _ => 0 := by
  rw [execUnstat_eq issues hbase hv hn aligned above within nonempty few granted hl narrow]
  refine State.markDone_free _ _ _ n ({ s with core := { s.core with unstat := some lim } } : State) fun j hj u same => ?_
  have backed : base / 0x4000 + j < 24 := by omega
  exact (s.gridOwed_withMarks (some lim) u lim backed (same backed)).trans (free j hj)

/-- UNSTAT waits for the first of its macros, with the numbers of the commands pushed before it (R348). -/
theorem execUnstat_waits {lim : List Nat} (hl : s.core.unstat.getD s.pushLimits = lim) (narrow : v < 32)
    (owed : s.gridOwed lim (base / 0x4000) = true) : execUnstat a b s = .next { s with core := { s.core with unstat := some lim } } := by
  rw [execUnstat_eq issues hbase hv hn aligned above within nonempty few granted hl narrow]
  have backed : base / 0x4000 < 24 := by omega
  exact State.markDone_blocked _ nonempty ((s.gridOwed_withMarks (some lim) s.core.marks lim backed rfl).trans owed)

end

/-! ## CTBL (R349) -/

/-! ### A part of what a number of bytes spells -/

theorem ofBytes_div (l : List Byte) (i : Nat) : ofBytes l / 256 ^ i = ofBytes (l.drop i) := by
  induction i generalizing l with
  | zero => simp
  | succ i ih =>
    cases l with
    | nil => simp [ofBytes]
    | cons b bs =>
      have byte : (b.toNat + 256 * ofBytes bs) / 256 = ofBytes bs := by omega
      rw [pow_succ', ← Nat.div_div_eq_div_mul, ofBytes, byte, ih, List.drop_succ_cons]

theorem ofBytes_mod (l : List Byte) (i : Nat) : ofBytes l % 256 ^ i = ofBytes (l.take i) := by
  induction i generalizing l with
  | zero => simp [ofBytes, Nat.mod_one]
  | succ i ih =>
    cases l with
    | nil => simp [ofBytes]
    | cons b bs =>
      have byte : (b.toNat + 256 * ofBytes bs) % 256 = b.toNat := by omega
      have rest : (b.toNat + 256 * ofBytes bs) / 256 = ofBytes bs := by omega
      rw [pow_succ', Nat.mod_mul, ofBytes, byte, rest, ih, List.take_succ_cons, ofBytes]

/-- k bytes of a local read are the read of those k bytes. -/
theorem Core.localRead_part (c : Core) (a : Nat) {n o k : Nat} (h : o + k ≤ n) : c.localRead a n / 256 ^ o % 256 ^ k = c.localRead (a + o) k := by
  rw [Core.localRead, ofBytes_div, ofBytes_mod, Core.localRead]
  congr 1
  refine List.ext_getElem (by simp; omega) fun i _ _ => ?_
  simp [Nat.add_assoc]

/-- An entry of a table is the low 24 bits of its word (R349). -/
theorem tableOf_localRead (c : Core) (a : Nat) {i : Nat} (hi : i < 64) :
    (tableOf (c.localRead a 256))[i]? = some (BitVec.ofNat 24 (c.localRead (a + 4 * i) 3)) := by
  have entry : BitVec.ofNat 24 (fieldOf (c.localRead a 256) (4 * i) 4) = BitVec.ofNat 24 (c.localRead (a + 4 * i) 3) := by
    rw [← c.localRead_part a (n := 256) (by omega), fieldOf, Nat.shiftRight_eq_div_pow, Nat.pow_mul, show (2 : Nat) ^ 8 = 256 from rfl]
    refine BitVec.eq_of_toNat_eq ?_
    simp only [BitVec.toNat_ofNat]
    omega
  simp [tableOf, hi, entry]

/-- The copy of a table that CTBL pushes: its entries, and its number among the commands pushed (R348, R349). -/
def Core.tableCopy (c : Core) (p : Nat) : Cmd :=
  { Cmd.of 0 0 with table := some (tableOf (c.localRead p 256)), num := c.pushed }

/-- A core after the push of the copy (R349). -/
def Core.tablePushed (c : Core) (p : Nat) : Core := (c.enqueue 0 { Cmd.of 0 0 with table := some (tableOf (c.localRead p 256)) }).step4.retired

/-- CTBL whose table may be read pushes its copy (R349). -/
theorem execCtbl_eq {s : State} {a : Reg} (issues : s.issuesAlone [a] []) {p : Nat} (hp : (s.core.reg a).toNat = p) (aligned : p % 64 = 0)
    (granted : s.core.rangeCheck false p 256 = none) (good : s.core.badWord p 256 = none) : execCtbl a s =
      .next { s.heal (s.core.softWords p 256) with core := s.core.tablePushed p } := by
  have aligned' : ¬p % 64 ≠ 0 := not_not_intro aligned
  simp only [execCtbl, State.alone_eq_of_issuesAlone issues, hp, if_neg aligned', State.localOperand, granted, State.readOperand, good]
  rfl

/-- The copy stands at the end of the command order. -/
theorem Core.tablePushed_queue (c : Core) (p : Nat) : (c.tablePushed p).queue 0 = { c.queue 0 with cmds := (c.queue 0).cmds ++ [c.tableCopy p] } := by
  show (c.enqueue 0 _).queue 0 = _
  rw [Core.queue_enqueue_same _ (by decide), Core.tableCopy]

theorem Core.tablePushed_queue_other (c : Core) (p : Nat) {j : Nat} (hj : j ≠ 0) : (c.tablePushed p).queue j = c.queue j := by
  show (c.enqueue 0 _).queue j = _
  rw [Core.queue_enqueue_other _ hj]

end Sys2Proof.Machine

open Sys2Proof.Machine in
/-- Settles O40: the loops of STAT and UNSTAT mark the macros of the range, and a table copy and CTSWAP take effect at their turn. -/
theorem macrosAndTables : Obligations.MacrosAndTables := by
  unfold Obligations.MacrosAndTables
  refine ⟨?_, fun s a p k => ⟨?_, ?_, ?_⟩⟩
  · intro s a b w issues base v n geom first aligned above within nonempty few granted marked
    refine ⟨?_, ?_, ?_⟩
    · exact execStat_marks issues rfl rfl rfl aligned above within nonempty few granted w
    · exact execUnstat_marks issues rfl rfl rfl aligned above within nonempty few granted rfl
    · exact execUnstat_waits issues rfl rfl rfl aligned above within nonempty few granted rfl
  · intro issues aligned granted good
    exact ⟨_, s.core.tableCopy _, _, execCtbl_eq issues rfl aligned granted good, s.core.tablePushed_queue _, rfl, rfl, by simp [tableOf],
      fun i hi => tableOf_localRead s.core _ hi, fun j hj => s.core.tablePushed_queue_other _ hj, rfl⟩
  · intro c tab next head table
    have own := State.clusterOf_mxNext next
    refine ⟨_, execCtblBankWrite_eq next head table, ?_, ?_, ?_, ?_, fun j hj => s.bankWritten_cluster_other own tab hj, s.bankWritten_getCore_same tab,
      fun q hq => s.bankWritten_getCore_other tab hq, s.bankWritten_dram tab⟩ <;> rw [s.bankWritten_cluster own tab]
    · exact Cluster.bank_setBank_same _ _ _
    · exact Cluster.bank_setBank_inactive _ _
    · exact Cluster.setBank_active _ _ _
  · intro c head next
    have posts : ((s.banksSwapped p).getCore p).complete 0 0 0 = (s.getCore p).posted 0 c 0 0 := State.complete_ctswap head
    have kept : (((s.banksSwapped p).getCore p).complete 0 0 0).pcn = ((s.banksSwapped p).getCore p).pcn := by
      rw [posts, Core.posted_pcn]
      rfl
    refine ⟨_, execMxCtswap_eq head next, ?_, ?_, ?_, ?_, fun q hq => ?_, ?_⟩
    · rw [State.complete, State.modCore_cluster, State.banksSwapped_cluster]
      rfl
    · rw [State.complete, State.modCore_cluster, State.banksSwapped_cluster]
    · rw [State.complete, State.modCore_cluster, State.banksSwapped_cluster]
    · exact (State.getCore_modCore_same _ kept).trans posts
    · exact State.getCore_modCore_other _ kept hq
    · exact State.modCore_dram _ _ _
end

section
namespace Sys2Proof.Machine

/-! ## A FOLDARM over a window of no lines (R93, R415) -/

/-- FOLDARM of two lines from the first global address on, for one contributor. -/
def twoLineArm : Cmd := Cmd.of (BitVec.ofNat 256 (0x50 + 2 ^ 32 * 2 ^ 64 + 2 * 2 ^ 128 + 1 * 2 ^ 224)) 0

/-- The leaf of a page of near memory with every right, its first byte at that of channel 0 (R66, R78, R103). -/
def nearLeaf : Word := 0x800000000013F

/-- A window of no lines within those two. FOLDARM arms none such (R413), but a state may list it. -/
def emptyWindow : Window := ⟨2 ^ 32 + 64, 0, 0, 1, 0, [], [], [], [], [], [], 0, false, true, none⟩

/-- Core 0 arms its two lines on a page whose leaf their home has cached, beside the window of no lines. -/
def armsOverEmptyWindow : State := { State.reset with
  core := { Core.reset 0 with qs := (Core.reset 0).qs.setIfInBounds 4 ⟨[twoLineArm], [], []⟩ }
  tlb := [⟨homeOf (lineOf (2 ^ 32)), 2 ^ 32 / 0x10000, false, nearLeaf⟩]
  mules := [{ Mule.empty 0 with windows := [emptyWindow] }] }

theorem armsOverEmptyWindow_head : armsOverEmptyWindow.headCmd 0 4 5 0 = some twoLineArm := rfl

/-- The fields of the command (R413). -/
def twoLines : ClArm := ⟨0, false, 0, 1, 0, 2, 2 ^ 32⟩

theorem clArmOf_twoLineArm : clArmOf twoLineArm.word.toNat = twoLines := by decide

/-- The model's test of an overlap finds no byte that a window of no lines shares with another, so FOLDARM arms a second window. -/
theorem foldArm_over_emptyWindow : ((armsOverEmptyWindow.foldArm 0 twoLines).1.mule 0).windows.length = 2 := by decide

/-- An update of a core leaves the Mules. -/
theorem State.modCore_mule (s : State) (p : Nat) (f : Core → Core) (c : Nat) : (s.modCore p f).mule c = s.mule c := by
  unfold State.mule State.modCore State.putCore
  split <;> rfl

/-- The windows that the Mule of channel 0 has armed after a step. -/
def windowsAfter (r : Res) : List Window := match r with
  | .next t => (t.mule 0).windows
  | _ => []

theorem foldarm_arms_over_emptyWindow : (windowsAfter (exec (.clFoldarm 0) armsOverEmptyWindow)).length = 2 := by
  show (windowsAfter (execClFoldarm 0 armsOverEmptyWindow)).length = 2
  simp only [execClFoldarm, armsOverEmptyWindow_head, clArmOf_twoLineArm, windowsAfter, State.complete, State.modCore_mule]
  exact foldArm_over_emptyWindow

end Sys2Proof.Machine

open Sys2Proof.Machine in
/-- Refutes O47: its clause of status 0x03 asks only that a window begin before the range's end and end after its start, which a window of no lines within
the range does; the model's `Span.meets` finds no byte that the two share, and FOLDARM arms the range with status 0 instead. Windows that FOLDARM itself
arms hold at least one line (R413), so this needs a state that lists another one. -/
theorem not_foldWindows : ¬ Obligations.FoldWindows := by
  unfold Obligations.FoldWindows
  intro h
  obtain ⟨-, refuses, -⟩ := h armsOverEmptyWindow 0 0 twoLineArm
  obtain ⟨-, overlaps, -⟩ := refuses armsOverEmptyWindow_head _ _ (2 ^ 32) 0 _ _ [] rfl rfl (fun x hx => absurd hx List.not_mem_nil)
  have stops := overlaps (by decide) ⟨emptyWindow, List.mem_singleton.2 rfl, by decide⟩
  have armed := foldarm_arms_over_emptyWindow
  rw [stops, windowsAfter, State.posted, State.modCore_mule] at armed
  exact absurd armed (by decide)
end

section
/-! SUPPORT. The Mules: their replies, a Mule put back, and the check of a request at its page (R82 to R84). -/

namespace Sys2Proof.Machine

/-! ## Lists -/

theorem dropNth_eq_eraseIdx {α : Type} (l : List α) (n : Nat) : dropNth l n = l.eraseIdx n := by
  induction l generalizing n with
  | nil => rfl
  | cons x xs ih =>
    cases n with
    | zero => rfl
    | succ n => exact congrArg (x :: ·) (ih n)

theorem setNth_eq_set {α : Type} (l : List α) (n : Nat) (y : α) : setNth l n y = l.set n y := by
  induction l generalizing n with
  | nil => rfl
  | cons x xs ih =>
    cases n with
    | zero => rfl
    | succ n => exact congrArg (x :: ·) (ih n)

/-- What has been put in a place is replaced by what is put there next. -/
theorem upsert_upsert {α : Type} (p : α → Bool) (x y : α) (hx : p x = true) (l : List α) :
    upsert p (fun _ => y) y (upsert p (fun _ => x) x l) = upsert p (fun _ => y) y l := by
  induction l with
  | nil => simp [upsert, hx]
  | cons z l ih =>
    by_cases hz : p z = true
    · simp [upsert, hz, hx]
    · simp [upsert, hz, ih]

/-! ## Mules (R81) -/

@[simp] theorem State.mule_chan (s : State) (c : Nat) : (s.mule c).chan = c := by
  unfold State.mule
  cases h : s.mules.find? fun m => m.chan == c with
  | none => rfl
  | some m => simpa using List.find?_some h

theorem State.mule_putMule (s : State) {m : Mule} {c : Nat} (hm : m.chan = c) : (s.putMule m).mule c = m := by
  subst hm
  rw [State.mule, State.putMule, find?_upsert_same (fun x : Mule => x.chan == m.chan) m (beq_self_eq_true _)]
  rfl

theorem State.putMule_putMule (s : State) {m k : Mule} (h : m.chan = k.chan) : (s.putMule m).putMule k = s.putMule k := by
  have once := upsert_upsert (fun x : Mule => x.chan == k.chan) m k (beq_iff_eq.2 h) s.mules
  simp only [State.putMule, h, once]

/-! ## Replies (R42, R83) -/

/-- A reply to a register of this package's own: it is on its way, or is discarded for g0 (R42, R83). -/
def State.nmSent (u : State) (o : Owner) (r : Reg) (v : Nat) : State :=
  if r = 0 then u else { u with replies := u.replies ++ [⟨o, r, BitVec.ofNat 64 v, true⟩] }

theorem State.nmAnswer_own (s : State) {o : Owner} (near : o.pcn < 2048) (r : Reg) (v : Nat) : s.nmAnswer o r (BitVec.ofNat 64 v) = s.nmSent o r v := by
  have here : remoteNode o.pcn = none := if_neg (Nat.not_le.2 near)
  rw [State.nmAnswer, here]
  rfl

/-- A reply word of a request, with a VALUE of less than 48 bits (R83). -/
theorem State.nmAnswer_nmReply (s : State) {o : Owner} (near : o.pcn < 2048) (r : Reg) (st : Nat) {v : Nat} (narrow : v < 2 ^ 48) (fl : Flg) :
    s.nmAnswer o r (nmReply st v fl) = s.nmSent o r (v * 2 ^ 16 + fl.toNat * 2 ^ 8 + st) := by
  rw [nmReply, Nat.mod_eq_of_lt narrow, s.nmAnswer_own near]

/-- A reply of a status alone (R83). -/
theorem State.nmAnswer_status (s : State) {o : Owner} (near : o.pcn < 2048) (r : Reg) (st : Nat) : s.nmAnswer o r (nmReply st 0 0) = s.nmSent o r st := by
  have word : 0 * 2 ^ 16 + (0 : Flg).toNat * 2 ^ 8 + st = st := by simp
  rw [s.nmAnswer_nmReply near r st (by decide), word]

/-! ## A failed translation leaves the teams and the parks -/

theorem State.walked_frame (s : State) (va : Nat) : ∃ cache n, s.walked va = s.withMeta cache n := by
  unfold State.walked
  generalize s.walkPath va s.rootPa 3 = path
  induction path generalizing s with
  | nil => exact ⟨s.metaCache, s.corrected, rfl⟩
  | cons a path ih =>
    obtain ⟨cache, n, h⟩ := ih (s.dramUse a)
    rw [s.dramUse_eq a] at h
    exact ⟨cache, n, by rw [List.foldl_cons, s.dramUse_eq a, h]; rfl⟩

theorem State.noteAt_teams_parks (s : State) (place va : Nat) (f : FaultInfo) :
    (s.noteAt place va f).teams = s.teams ∧ (s.noteAt place va f).parks = s.parks := by
  obtain ⟨cache, n, walk⟩ := s.walked_frame va
  unfold State.noteAt
  split
  · exact ⟨rfl, rfl⟩
  · rw [walk, State.noteBad]
    split <;> exact ⟨rfl, rfl⟩

/-- Where an owner's workspaces are depends on the teams alone. -/
theorem State.ownerCore_congr {s t : State} (h : t.teams = s.teams) (o : Owner) : t.ownerCore o = s.ownerCore o := by
  have team (slot : Nat) : t.team slot = s.team slot := by rw [State.team, h, State.team]
  simp only [State.ownerCore, State.ownerTeam, team]

/-! ## The check of a request (R82) -/

/-- Request number n under way has left the way to its Mule. -/
def State.nmTaken (s : State) (n : Nat) : State := { s with nmFlight := s.nmFlight.eraseIdx n }

section
variable {s : State} {n : Nat} {r : NmReq} {va : Word} {reg : Reg} {o : Owner} {sys held : Bool} {port : Option Nat}
  (flight : s.nmFlight[n]? = some ⟨⟨.nmc r, va, reg⟩, o, sys, held, port⟩)
include flight

theorem execNmcRequestCheck_eq : exec (.nmcRequestCheck n) s = match (s.nmTaken n).nmCheck va.toNat r o reg port with
    | .wait => .next { s with nmFlight := s.nmFlight.set n ⟨⟨.nmc r, va, reg⟩, o, sys, false, port⟩ }
    | .gone t => .next t
    | .fault place f => .next (s.nmFault n ⟨⟨.nmc r, va, reg⟩, o, sys, held, port⟩ place f) := by
  show execNmcRequestCheck n s = _
  simp only [execNmcRequestCheck, flight, dropNth_eq_eraseIdx, setNth_eq_set, State.nmTaken] <;> rfl

/-- A request out of the range of global addresses is refused (R82; log entry 57). -/
theorem nmcRequestCheck_outOfRange (near : o.pcn < 2048) (out : va.toNat < 2 ^ 32 ∨ 2 ^ 57 ≤ va.toNat) :
    exec (.nmcRequestCheck n) s = .next ((s.nmTaken n).nmSent o reg 0x03) := by
  have out' : va.toNat < globalBase ∨ 2 ^ 57 ≤ va.toNat := out
  rw [execNmcRequestCheck_eq flight, State.nmCheck, if_pos out', State.nmAnswer_status _ near]

section
variable (near : o.pcn < 2048) (low : 2 ^ 32 ≤ va.toNat) (high : va.toNat < 2 ^ 57) (own : s.isOwn va.toNat = true)
include low high own

omit flight in
/-- A request to an own-node page is checked at the home of its line. -/
theorem nmCheck_own : (s.nmTaken n).nmCheck va.toNat r o reg port = (s.nmTaken n).nmAt (homeOf (lineOf va.toNat)) va.toNat r o reg := by
  have inside : ¬(va.toNat < globalBase ∨ 2 ^ 57 ≤ va.toNat) := by
    rw [globalBase]
    omega
  have here : (!(s.nmTaken n).isOwn va.toNat) = false := by
    rw [show (s.nmTaken n).isOwn va.toNat = true from own]
    rfl
  rw [State.nmCheck, if_neg inside, here]
  rfl

section
variable {u : State} {leaf : Word} {big : Bool} {pa : Nat}
  (ht : (s.nmTaken n).translate (homeOf (lineOf va.toNat)) va.toNat r.req = .ok (u, leaf, big, pa))
include ht

include near in
/-- A page that is no near memory refuses the request (R82). -/
theorem nmcRequestCheck_notNm (nm : leafNm leaf = false) : exec (.nmcRequestCheck n) s = .next (u.nmSent o reg 0x01) := by
  simp only [execNmcRequestCheck_eq flight, nmCheck_own low high own, State.nmAt, ht, nm, Bool.not_false, if_true, State.nmAnswer_status _ near]

variable (nm : leafNm leaf = true)
include nm

include near in
/-- A page with COMP refuses the request (R82). -/
theorem nmcRequestCheck_comp (comp : leafComp leaf = true) : exec (.nmcRequestCheck n) s = .next (u.nmSent o reg 0x02) := by
  simp only [execNmcRequestCheck_eq flight, nmCheck_own low high own, State.nmAt, ht, nm, comp, Bool.not_true, Bool.false_eq_true, if_false, if_true,
    State.nmAnswer_status _ near]

variable (plain : leafComp leaf = false)
include plain

/-- A request that passes its page's checks stands at the Mule of the page, or waits for room in its queue (R82, R84). -/
theorem nmcRequestCheck_reaches : exec (.nmcRequestCheck n) s =
    match u.nmEnqueue (chanOf (dramFlat (leafPa leaf))) r o reg (va.toNat / pageBytes big * pageBytes big) (pageBytes big) (dramFlat (leafPa leaf)) with
    | some t => .next t
    | none => .next { s with nmFlight := s.nmFlight.set n ⟨⟨.nmc r, va, reg⟩, o, sys, false, port⟩ } := by
  simp only [execNmcRequestCheck_eq flight, nmCheck_own low high own, State.nmAt, ht, nm, plain, Bool.not_true, Bool.false_eq_true, if_false]
  cases u.nmEnqueue (chanOf (dramFlat (leafPa leaf))) r o reg (va.toNat / pageBytes big * pageBytes big) (pageBytes big) (dramFlat (leafPa leaf)) with
  | none => rfl
  | some t => rfl

end

/-- A request whose translation fails faults at the home of its line (R82). -/
theorem nmcRequestCheck_faults {f : FaultInfo} (ht : (s.nmTaken n).translate (homeOf (lineOf va.toNat)) va.toNat r.req = .error f) :
    exec (.nmcRequestCheck n) s = .next (s.nmFault n ⟨⟨.nmc r, va, reg⟩, o, sys, held, port⟩ (homeOf (lineOf va.toNat)) f) := by
  simp only [execNmcRequestCheck_eq flight, nmCheck_own low high own, State.nmAt, ht]

end

end

/-! ## A request that faults (R111, R112; log entries 33, 92) -/

/-- The upcall of a request that has faulted is due at core p (R111). -/
def State.markLate (u : State) (p : Nat) (x : NmFlight) (f : FaultInfo) : State :=
  u.modCore p fun k => { k with late := k.late ++ [(x.acc, f, x.sys, x.owner.ws)] }

section
variable (s : State) (n : Nat) {x : NmFlight} (place : Nat) (f : FaultInfo)

/-- One of system mode goes to its core alone. -/
theorem State.nmFault_system (sys : x.sys = true) :
    s.nmFault n x place f = ((s.nmTaken n).noteAt place x.acc.va.toNat f).markLate ((s.nmTaken n).ownerCore x.owner) x f := by
  obtain ⟨teams, -⟩ := (s.nmTaken n).noteAt_teams_parks place x.acc.va.toNat f
  rw [← State.ownerCore_congr teams]
  simp only [State.nmFault, sys, Bool.not_true, Bool.false_and, Bool.false_eq_true, if_false, if_true, dropNth_eq_eraseIdx, State.markLate, State.nmTaken]

section
variable (user : x.sys = false)
include user

/-- Another one parks while its park has room. -/
theorem State.nmFault_parks (room : s.parkCount place < 64) :
    s.nmFault n x place f = ({ (s.nmTaken n).noteAt place x.acc.va.toNat f with
      parks := (s.nmTaken n).parks ++ [(⟨place, x.acc, x.owner, f, 0⟩ : Parked)] } : State).markLate ((s.nmTaken n).ownerCore x.owner) x f := by
  obtain ⟨teams, parks⟩ := (s.nmTaken n).noteAt_teams_parks place x.acc.va.toNat f
  have notFull : decide (64 ≤ s.parkCount place) = false := decide_eq_false (Nat.not_le.2 room)
  rw [← parks, ← State.ownerCore_congr teams]
  simp only [State.nmFault, user, notFull, Bool.not_false, Bool.and_false, Bool.false_eq_true, if_false, dropNth_eq_eraseIdx, State.markLate, State.nmTaken]
  rfl

/-- It waits under way while its park is full. -/
theorem State.nmFault_waits (full : ¬s.parkCount place < 64) :
    s.nmFault n x place f = { s with nmFlight := s.nmFlight.set n { x with held := true } } := by
  have full' : decide (64 ≤ s.parkCount place) = true := decide_eq_true (Nat.le_of_not_lt full)
  simp only [State.nmFault, user, full', Bool.not_false, Bool.and_self, if_true, setNth_eq_set]

end

end

end Sys2Proof.Machine
end

section
/-! SUPPORT. Requests at a Mule that touch no memory: CONFIGURE, refusals, queries, and the NMRES that ends a request (R82, R85, R91, R92). -/

namespace Sys2Proof.Machine

/-! ## Fields (R85, R309) -/

theorem NmJob.kind_eq (j : NmJob) : j.kind = j.w0.toNat % 16 := by simp [NmJob.kind, bits_eq]

section
variable (s : State) (c : Nat) {w0 : Word} (w1 w2 w3 : Word) (o : Owner) (reg : Reg) (page size dram : Nat)

/-- A query stands with the queries (R84, R91). -/
theorem State.nmEnqueue_query (query : w0.toNat % 16 = 3) : s.nmEnqueue c (.request w0 w1 w2 w3) o reg page size dram =
    some (s.putMule { s.mule c with queries := (s.mule c).queries ++ [⟨w0, w1, w2, w3, o, reg, page, size, dram⟩] }) := by
  rw [← NmJob.kind_eq ⟨w0, w1, w2, w3, o, reg, page, size, dram⟩] at query
  exact if_pos query

variable (other : ¬w0.toNat % 16 = 3)
include other

/-- Another request stands in the queue while there is room (R84). -/
theorem State.nmEnqueue_room (room : (s.mule c).depth < 32) : s.nmEnqueue c (.request w0 w1 w2 w3) o reg page size dram =
    some (s.putMule { s.mule c with queue := (s.mule c).queue ++ [⟨w0, w1, w2, w3, o, reg, page, size, dram⟩] }) := by
  rw [← NmJob.kind_eq ⟨w0, w1, w2, w3, o, reg, page, size, dram⟩] at other
  exact (if_neg other).trans (if_pos room)

/-- It finds no place in a full queue (R84). -/
theorem State.nmEnqueue_full (full : ¬(s.mule c).depth < 32) : s.nmEnqueue c (.request w0 w1 w2 w3) o reg page size dram = none := by
  rw [← NmJob.kind_eq ⟨w0, w1, w2, w3, o, reg, page, size, dram⟩] at other
  exact (if_neg other).trans (if_neg full)

end

theorem NmJob.n_eq (j : NmJob) : j.n = j.w0.toNat / 2 ^ 32 := by
  have narrow : j.w0.toNat / 2 ^ 32 < 2 ^ 32 := by
    have := j.w0.isLt
    omega
  rw [NmJob.n, bits_eq, Nat.mod_eq_of_lt narrow]

theorem NmJob.n_lt (j : NmJob) : j.n < 2 ^ 32 := bits_lt _ 63 32

theorem kFmt_eq (k : Word) : kFmt k = k.toNat / 16 % 16 := bits_eq _ 7 4

/-- A kernel word without a reserved value (R85). -/
theorem kernelOk_iff (k : Word) : kernelOk k = true ↔
    k.toNat / 2 ^ 11 % 2 ^ 21 = 0 ∧ k.toNat / 16 % 16 ≤ 10 ∧ k.toNat / 16 % 16 ≠ 6 ∧ k.toNat % 16 ≤ 9 := by
  simp [kernelOk, kFmt_eq, kOp, bits_eq, and_assoc]

/-! ## The head of the queue (R84) -/

/-- Mule c without the request at the head of its queue. -/
def State.nmDequeued (s : State) (c : Nat) (rest : List NmJob) : State := s.putMule { s.mule c with queue := rest, mpc := none }

theorem State.mule_nmDequeued (s : State) (c : Nat) (rest : List NmJob) :
    (s.nmDequeued c rest).mule c = { s.mule c with queue := rest, mpc := none } := s.mule_putMule (s.mule_chan c)

section
variable {s : State} {c : Nat} {j : NmJob} {rest : List NmJob} (free : (s.mule c).stopped = none) (queue : (s.mule c).queue = j :: rest)
include free queue

theorem State.nmHead_eq : s.nmHead c j.kind = some (s.nmDequeued c rest, j) := by
  simp [State.nmHead, free, queue, State.nmDequeued]

section
variable (near : j.owner.pcn < 2048)
include near

/-- CONFIGURE with a good kernel word sets the kernel (R85; log entry 72). -/
theorem execNmConfigure_sets (kind : j.kind = 0) (ok : kernelOk j.w1 = true) : exec (.nmConfigure c) s =
    .next ((s.putMule { s.mule c with queue := rest, mpc := none, kernel := some j.w1 }).nmSent j.owner j.reg 0) := by
  have head := State.nmHead_eq free queue
  rw [kind] at head
  show execNmConfigure c s = _
  simp only [execNmConfigure, head, ok, if_true, State.nmAnswer_status _ near, State.mule_nmDequeued]
  rw [State.nmDequeued, State.putMule_putMule]
  rfl

/-- CONFIGURE with a reserved value is refused (R85; log entry 72). -/
theorem execNmConfigure_refuses (kind : j.kind = 0) (bad : ¬kernelOk j.w1 = true) : exec (.nmConfigure c) s =
    .next ((s.nmDequeued c rest).nmSent j.owner j.reg 0x04) := by
  have head := State.nmHead_eq free queue
  rw [kind] at head
  show execNmConfigure c s = _
  simp only [execNmConfigure, head, if_neg bad, State.nmAnswer_status _ near]

/-- A request that fails a check of its kernel and ranges is refused (R82; log entry 72). -/
theorem State.nmStart_refuses (refused : j.refusal (s.mule c).kernel ≠ 0) :
    s.nmStart c j.kind = .next ((s.nmDequeued c rest).nmSent j.owner j.reg (j.refusal (s.mule c).kernel)) := by
  simp only [State.nmStart, State.nmHead_eq free queue, State.mule_nmDequeued, if_pos refused, State.nmAnswer_status _ near]

end

/-- A request that passes them runs from its first line (R86, R87). -/
theorem State.nmStart_runs {k : Word} (kernel : (s.mule c).kernel = some k) (passes : j.refusal (some k) = 0) :
    s.nmStart c j.kind = .next (((s.nmDequeued c rest).nmRun j k (stopAt j 0 0 (0, 0) 0 none)).finish c j.owner j.reg) := by
  have passes' : ¬j.refusal (some k) ≠ 0 := not_not_intro passes
  simp only [State.nmStart, State.nmHead_eq free queue, State.mule_nmDequeued, kernel, if_neg passes', Option.getD_some]

end

/-! ## Queries (R91) -/

theorem execNmQuery_eq {s : State} {c : Nat} {j : NmJob} {rest : List NmJob} (queries : (s.mule c).queries = j :: rest) (near : j.owner.pcn < 2048) :
    exec (.nmQuery c) s = .next ((s.putMule { s.mule c with queries := rest }).nmSent j.owner j.reg (s.mule c).stateWord) := by
  show execNmQuery c s = _
  simp only [execNmQuery, queries, State.nmAnswer_own _ near]

/-- The state word of a Mule that is not stopped (R91; log entry 88). -/
theorem Mule.stateWord_running {m : Mule} (free : m.stopped = none) : m.stateWord = m.windows.length * 2 ^ 22 + match m.mpc with
    | some u => (m.queue.length - 1) * 2 ^ 16 + u % 2 ^ 16 * 2 ^ 48 + 2 ^ 28
    | none => m.queue.length * 2 ^ 16 + if m.kernel = none then 0 else 2 ^ 27 := by
  cases pc : m.mpc with
  | none =>
    have idle : m.kernel.isNone = decide (m.kernel = none) := by cases m.kernel <;> rfl
    simp only [Mule.stateWord, Mule.depth, free, pc, idle]
    simp only [decide_eq_true_eq, Nat.add_assoc]
    rfl
  | some u =>
    simp only [Mule.stateWord, Mule.depth, free, pc]
    simp only [Nat.add_assoc]
    rfl

/-- The state word of a Mule whose request is stopped (R90, R91). -/
theorem Mule.stateWord_stopped {m : Mule} {st : NmStopped} (stopped : m.stopped = some st) (pc : m.mpc = none) :
    m.stateWord = m.windows.length * 2 ^ 22 + m.queue.length * 2 ^ 16 + st.upc % 2 ^ 16 * 2 ^ 48 + st.bank.toNat * 2 ^ 43 + st.col.toNat * 2 ^ 37 +
      st.cause.toNat * 2 ^ 29 + 3 * 2 ^ 27 := by
  simp only [Mule.stateWord, Mule.depth, stopped, pc]
  rfl

/-! ## NMRES (R92) -/

section
variable {s : State} {c : Nat} {x : NmControl} {rest : List NmControl} (controls : (s.mule c).controls = x :: rest)
include controls

/-- The Mule after it has taken the NMRES that waits first. -/
theorem Mule.control_eq : (s.mule c).control x.abandon =
    some (x.owner, x.reg, { s.mule c with controls := rest, mpc := if (s.mule c).stopped.isSome then none else (s.mule c).mpc }) := by
  simp only [Mule.control, controls, if_true]

/-- An NMRES at a Mule that has stopped no request is refused (R92). -/
theorem execNmres_refused (near : x.owner.pcn < 2048) (free : (s.mule c).stopped = none) :
    exec (if x.abandon then .nmAbandon c else .nmResume c) s = .next ((s.putMule { s.mule c with controls := rest }).nmSent x.owner x.reg 0x04) := by
  have control := Mule.control_eq controls
  cases b : x.abandon with
  | false =>
    rw [b] at control
    show execNmResume c s = _
    simp only [execNmResume, control, free, State.nmAnswer_status _ near]
    rfl
  | true =>
    rw [b] at control
    show execNmAbandon c s = _
    simp only [execNmAbandon, control, free, State.nmAnswer_status _ near]
    rfl

variable {st : NmStopped} (stopped : (s.mule c).stopped = some st)
include stopped

/-- ABANDON ends the stopped request (R92). -/
theorem execNmAbandon_eq (near : x.owner.pcn < 2048) (abandon : x.abandon = true) : exec (.nmAbandon c) s =
    .next ((s.putMule { s.mule c with controls := rest, mpc := none, stopped := none }).nmSent x.owner x.reg
      (st.upc % 2 ^ 48 * 2 ^ 16 + st.flags.toNat * 2 ^ 8 + 0x20)) := by
  have control := Mule.control_eq controls
  rw [abandon] at control
  show execNmAbandon c s = _
  simp only [execNmAbandon, control, stopped, nmReply, State.nmAnswer_own _ near]
  rfl

/-- RESUME goes on with the stopped request (R92). -/
theorem execNmResume_eq (resume : x.abandon = false) {k : Word} (kernel : (s.mule c).kernel = some k) : exec (.nmResume c) s =
    .next (((s.putMule { s.mule c with controls := rest, mpc := none, stopped := none }).nmRun { st.job with owner := x.owner, reg := x.reg } k
      { st with job := { st.job with owner := x.owner, reg := x.reg } }).finish c x.owner x.reg) := by
  have control := Mule.control_eq controls
  rw [resume] at control
  show execNmResume c s = _
  simp only [execNmResume, control, stopped, kernel, Option.getD_some]
  rfl

end

end Sys2Proof.Machine
end

section
/-! SUPPORT. Every code that an operation of a kernel gives fits its format (R85, R86, R170, R175, R181). -/

namespace Sys2Proof.Machine

/-! ## Formats -/

/-- A format with room for its signs and special codes, as the formats of R257 have. -/
def FmtKind.sized : FmtKind → Prop
  | .ieee f => 0 < f.width ∧ f.infCode < 2 ^ (f.width - 1) ∧ f.nanCode < 2 ^ f.width
  | .tap f => 2 ≤ f.n
  | .lns => True
  | .int _ => True

theorem fmtKind_sized (c : Nat) : (fmtKind c).sized := by
  have ieee32 : (FmtKind.ieee ieee32).sized := by unfold FmtKind.sized; decide
  have bf16 : (FmtKind.ieee ieeeBf16).sized := by unfold FmtKind.sized; decide
  have ieee16 : (FmtKind.ieee ieee16).sized := by unfold FmtKind.sized; decide
  have tap32 : (FmtKind.tap tap32).sized := by unfold FmtKind.sized; decide
  have tap16 : (FmtKind.tap tap16).sized := by unfold FmtKind.sized; decide
  have tap8 : (FmtKind.tap tap8).sized := by unfold FmtKind.sized; decide
  unfold fmtKind
  split
  · exact ieee32
  · exact bf16
  · exact ieee16
  · exact tap32
  · exact tap16
  · exact tap8
  · exact trivial
  · exact trivial
  · exact trivial
  · exact trivial
  · exact trivial

theorem wrapTo_lt (w : Nat) (i : Int) : wrapTo w i < 2 ^ w := by
  have pos : (0 : Int) < (2 ^ w : Nat) := by exact_mod_cast Nat.two_pow_pos w
  have low := Int.emod_nonneg i pos.ne'
  have high := Int.emod_lt_of_pos i pos
  unfold wrapTo
  omega

/-! ## IEEE codes (R170, R171) -/

theorem Ieee.signed_lt {f : Ieee} (pos : 0 < f.width) (neg : Bool) {mag : Nat} (h : mag < 2 ^ (f.width - 1)) : f.signed neg mag < 2 ^ f.width := by
  have double : 2 ^ f.width = 2 ^ (f.width - 1) + 2 ^ (f.width - 1) := by
    rw [← Nat.two_mul, ← pow_succ', Nat.sub_add_cancel pos]
  unfold Ieee.signed
  split <;> omega

/-- A rounded magnitude, or what stands for one that is too large (R171). -/
theorem Ieee.saturated_lt {f : Ieee} (pos : 0 < f.width) (inf : f.infCode < 2 ^ (f.width - 1)) (neg toInf : Bool) (code : Nat) (x y : Flg) :
    (if f.infCode ≤ code then (f.signed neg (if toInf then f.infCode else f.infCode - 1), x) else (f.signed neg code, y)).1 < 2 ^ f.width := by
  split
  · refine Ieee.signed_lt pos neg ?_
    split <;> omega
  next finite => exact Ieee.signed_lt pos neg (Nat.lt_trans (Nat.lt_of_not_le finite) inf)

theorem Ieee.round_lt {f : Ieee} (pos : 0 < f.width) (inf : f.infCode < 2 ^ (f.width - 1)) (rm : Rm) (u : Nat) (neg : Bool) (m : Nat) (e : Int)
    (more : Bool) : (f.round rm u neg m e more).1 < 2 ^ f.width := by
  simp only [Ieee.round]
  exact Ieee.saturated_lt pos inf neg _ _ _ _

/-! ## Tapered codes (R175 to R179) -/

/-- A magnitude cut to w bits below its top one. -/
theorem floorAt_top_lt (m : Nat) (e : Int) (more : Bool) (w : Nat) : (floorAt m e more (e + Nat.log2 m - w)).1 < 2 ^ (w + 1) := by
  have top : m < 2 ^ (Nat.log2 m + 1) := Nat.lt_log2_self
  unfold floorAt
  split
  next wide =>
    have shift : (e - (e + Nat.log2 m - w)).toNat = w - Nat.log2 m := by omega
    rw [shift, Nat.shiftLeft_eq]
    calc m * 2 ^ (w - Nat.log2 m) < 2 ^ (Nat.log2 m + 1) * 2 ^ (w - Nat.log2 m) := Nat.mul_lt_mul_of_pos_right top (Nat.two_pow_pos _)
      _ = 2 ^ (w + 1) := by
        rw [← pow_add]
        congr 1
        omega
  next narrow =>
    have shift : (e + Nat.log2 m - w - e).toNat = Nat.log2 m - w := by omega
    dsimp only
    rw [shift, Nat.shiftRight_eq_div_pow, Nat.div_lt_iff_lt_mul (Nat.two_pow_pos _), ← pow_add]
    have width : w + 1 + (Nat.log2 m - w) = Nat.log2 m + 1 := by omega
    rwa [width]

/-- A tapered magnitude between the least and the greatest, with its sign. -/
theorem Tap.signed_lt {f : Tap} (neg : Bool) {q : Nat} (low : 1 ≤ q) (high : q < 2 ^ f.n) : f.signed neg q < 2 ^ f.n := by
  unfold Tap.signed
  split <;> omega

/-- A bit string of r bits of a regime that has a bit set at or above place b, and t bits below it, cut by s. -/
theorem regime_cut {reg r t low s n b : Nat} (fits : reg < 2 ^ r) (set_ : 2 ^ b ≤ reg) (tail : low < 2 ^ t) (high : r + t = n + s) (deep : s ≤ b + t) :
    1 ≤ (reg * 2 ^ t + low) >>> s ∧ (reg * 2 ^ t + low) >>> s < 2 ^ n := by
  rw [Nat.shiftRight_eq_div_pow]
  constructor
  · rw [Nat.one_le_div_iff (Nat.two_pow_pos _)]
    calc 2 ^ s ≤ 2 ^ (b + t) := Nat.pow_le_pow_right (by decide) deep
      _ = 2 ^ b * 2 ^ t := pow_add ..
      _ ≤ reg * 2 ^ t := Nat.mul_le_mul_right _ set_
      _ ≤ reg * 2 ^ t + low := Nat.le_add_right ..
  · rw [Nat.div_lt_iff_lt_mul (Nat.two_pow_pos _), ← pow_add, ← high, pow_add]
    calc reg * 2 ^ t + low < (reg + 1) * 2 ^ t := by rw [Nat.succ_mul]; omega
      _ ≤ 2 ^ r * 2 ^ t := Nat.mul_le_mul_right _ fits

/-- The regime of an exponent (R176): its bits, and how many they are. -/
def regimeOf (k : Int) : Nat × Nat := if 0 ≤ k then (2 ^ (k.toNat + 2) - 2, k.toNat + 2) else (1, (-k).toNat + 1)

/-- The bit string of a regime and what follows it, cut to a word of n bits without its sign, is a magnitude. -/
theorem regimeOf_cut {n es : Nat} (hn : 2 ≤ n) {k : Int} (least : -((n : Int) - 2) ≤ k) {low : Nat} (tail : low < 2 ^ (es + (n + 8))) :
    1 ≤ ((regimeOf k).1 * 2 ^ (es + (n + 8)) + low) >>> (1 + (regimeOf k).2 + es + (n + 8) - n) ∧
      ((regimeOf k).1 * 2 ^ (es + (n + 8)) + low) >>> (1 + (regimeOf k).2 + es + (n + 8) - n) < 2 ^ (n - 1) := by
  unfold regimeOf
  split
  next pos =>
    have double : 2 ^ (k.toNat + 2) = 2 * 2 ^ (k.toNat + 1) := pow_succ' ..
    have large : 2 ≤ 2 ^ (k.toNat + 1) := by
      rw [pow_succ']
      have := Nat.two_pow_pos k.toNat
      omega
    exact regime_cut (b := k.toNat + 1) (r := k.toNat + 2) (by omega) (by omega) tail (by dsimp only; omega) (by dsimp only; omega)
  next neg =>
    exact regime_cut (b := 0) (r := (-k).toNat + 1) (Nat.one_lt_two_pow (by omega)) (by simp) tail (by dsimp only; omega) (by dsimp only; omega)

/-- A magnitude below the sign that may go up by one (R177). -/
theorem Tap.rounded_lt {f : Tap} (hn : 2 ≤ f.n) (neg up : Bool) {q : Nat} (h : 1 ≤ q ∧ q < 2 ^ (f.n - 1)) : f.signed neg (q + up.toNat) < 2 ^ f.n := by
  obtain ⟨low, high⟩ := h
  have double : 2 ^ f.n = 2 * 2 ^ (f.n - 1) := by rw [← pow_succ', Nat.sub_add_cancel (by omega)]
  have one := Bool.toNat_le up
  exact Tap.signed_lt neg (by omega) (by omega)

theorem Tap.round_lt {f : Tap} (hn : 2 ≤ f.n) (rm : Rm) (u : Nat) (neg : Bool) (m : Nat) (e : Int) (more : Bool) :
    (f.round rm u neg m e more).1 < 2 ^ f.n := by
  have double : 2 ^ f.n = 2 * 2 ^ (f.n - 1) := by rw [← pow_succ', Nat.sub_add_cancel (by omega)]
  have half : 2 ≤ 2 ^ (f.n - 1) := by
    calc 2 = 2 ^ 1 := rfl
      _ ≤ 2 ^ (f.n - 1) := Nat.pow_le_pow_right (by decide) (by omega)
  simp only [Tap.round]
  split
  · exact Tap.signed_lt neg (by rw [Tap.nar]; omega) (by rw [Tap.nar]; omega)
  · split
    · exact Tap.signed_lt neg (Nat.le_refl 1) (by omega)
    next large small =>
      have fine : (floorAt m e more (e + Nat.log2 m - (f.n + 8 : Nat))).1 < 2 ^ (f.n + 8 + 1) := floorAt_top_lt ..
      have step : (0 : Int) < 2 ^ f.es := by positivity
      have least : -((f.n : Int) - 2) ≤ (e + Nat.log2 m) / 2 ^ f.es := by
        rw [Int.le_ediv_iff_mul_le step]
        rw [neg_mul]
        omega
      have expo : ((e + (Nat.log2 m : Int)) % 2 ^ f.es).toNat < 2 ^ f.es := by
        have low := Int.emod_nonneg (e + (Nat.log2 m : Int)) step.ne'
        have high := Int.emod_lt_of_pos (e + (Nat.log2 m : Int)) step
        have cast : ((2 ^ f.es : Nat) : Int) = 2 ^ f.es := by push_cast; rfl
        omega
      refine Tap.rounded_lt hn neg _ ?_
      generalize (floorAt m e more (e + Nat.log2 m - (f.n + 8 : Nat))).1 = fr at fine
      generalize ((e + (Nat.log2 m : Int)) % 2 ^ f.es).toNat = ex at expo
      generalize (e + (Nat.log2 m : Int)) / 2 ^ f.es = k at least
      have tail : ex * 2 ^ (f.n + 8) + (fr - 2 ^ (f.n + 8)) < 2 ^ (f.es + (f.n + 8)) := by
        have more : (ex + 1) * 2 ^ (f.n + 8) ≤ 2 ^ (f.es + (f.n + 8)) := by
          rw [pow_add 2 f.es]
          exact Nat.mul_le_mul_right _ expo
        have twice : 2 ^ (f.n + 8 + 1) = 2 ^ (f.n + 8) + 2 ^ (f.n + 8) := by rw [pow_succ, Nat.mul_two]
        rw [Nat.succ_mul] at more
        have pos := Nat.two_pow_pos (f.n + 8)
        omega
      have cut := regimeOf_cut hn least tail
      have word : (regimeOf k).1 * 2 ^ (f.es + (f.n + 8)) + (ex * 2 ^ (f.n + 8) + (fr - 2 ^ (f.n + 8))) =
          ((regimeOf k).1 * 2 ^ f.es + ex) * 2 ^ (f.n + 8) + (fr - 2 ^ (f.n + 8)) := by
        rw [pow_add, Nat.add_mul, Nat.mul_assoc, Nat.add_assoc]
      rw [word] at cut
      exact cut

/-! ## lns6 codes (R181, R185) -/

theorem lnsCode_lt (neg : Bool) (i : Int) : lnsCode neg i < 2 ^ 6 := by
  have low := wrapTo_lt 5 i
  unfold lnsCode
  split <;> omega

theorem lnsRoundY_lt (rm : Rm) (u : Nat) (neg : Bool) (lo : Int) (half rest : Bool) (frac : Nat) : (lnsRoundY rm u neg lo half rest frac).1 < 2 ^ 6 := by
  unfold lnsRoundY
  dsimp only
  split
  · exact lnsCode_lt _ _
  · split
    · exact lnsCode_lt _ _
    · exact lnsCode_lt _ _

/-! ## Rounding (R186, R187) -/

theorem intRound_lt (w : Nat) (natural : Bool) (rm : Rm) (u : Nat) (neg : Bool) (m : Nat) (e : Int) (more : Bool) :
    (intRound w natural rm u neg m e more).1 < 2 ^ w := by
  have wrapped {c : Prop} [Decidable c] (i j : Int) (x y : Flg) : (if c then (wrapTo w i, x) else (wrapTo w j, y)).1 < 2 ^ w := by
    split
    · exact wrapTo_lt w i
    · exact wrapTo_lt w j
  simp only [intRound]
  exact wrapped ..

theorem roundFin_lt {k : FmtKind} (hk : k.sized) (natural : Bool) (rm : Rm) (u : Nat) (neg : Bool) (m : Nat) (e : Int) (more : Bool) :
    (roundFin k natural rm u neg m e more).1 < 2 ^ k.width := by
  cases k with
  | ieee f =>
    obtain ⟨pos, inf, -⟩ := hk
    exact Ieee.round_lt pos inf ..
  | tap f => exact Tap.round_lt hk ..
  | lns => exact lnsRoundY_lt ..
  | int w => exact intRound_lt ..

/-- Every rounding gives a code of its format. -/
theorem roundVal_lt {k : FmtKind} (hk : k.sized) (natural : Bool) (rm : Rm) (u : Nat) (v : Val) : (roundVal k natural rm u v).code < 2 ^ k.width := by
  have zero (n : Nat) : 0 < 2 ^ n := Nat.two_pow_pos n
  have nar {f : Tap} (hf : 2 ≤ f.n) : f.nar < 2 ^ f.n := Nat.pow_lt_pow_right (by decide) (by omega)
  have special (w : Nat) (a b : Bool) : intSpecial w a b < 2 ^ w := wrapTo_lt _ _
  have lns16 : 0x30 < 2 ^ FmtKind.lns.width := by decide
  have lns10 : 0x10 < 2 ^ FmtKind.lns.width := by decide
  cases v with
  | nar =>
    cases k with
    | ieee f => exact hk.2.2
    | tap f => exact nar hk
    | lns => exact lns16
    | int w => exact special ..
  | nan s =>
    cases k with
    | ieee f => exact hk.2.2
    | tap f => exact nar hk
    | lns => exact lns16
    | int w => exact special ..
  | inf neg =>
    cases k with
    | ieee f => exact Ieee.signed_lt hk.1 neg hk.2.1
    | tap f => exact nar hk
    | lns => exact lns16
    | int w => exact special ..
  | zero neg =>
    cases k with
    | ieee f => exact Ieee.signed_lt hk.1 neg (zero _)
    | tap f => exact zero _
    | lns => exact lns10
    | int w => exact zero _
  | fin neg m e more => exact roundFin_lt hk ..
  | root neg j =>
    cases k with
    | lns => exact lnsRoundY_lt ..
    | ieee f => exact roundFin_lt (k := .ieee f) hk ..
    | tap f => exact roundFin_lt (k := .tap f) hk ..
    | int w => exact roundFin_lt (k := .int w) hk ..

theorem roundRes_lt {k : FmtKind} (hk : k.sized) (rm : Rm) (u : Nat) (r : Val × Flg) : (roundRes k rm u r).1 < 2 ^ k.width := roundVal_lt hk false rm u r.1

/-! ## Operations of a kernel (R86) -/

theorem addCode_lt {k : FmtKind} (hk : k.sized) (rm : Rm) (u x y : Nat) : (addCode k rm u x y).1 < 2 ^ k.width := by
  cases k with
  | int w => exact Nat.mod_lt _ (Nat.two_pow_pos w)
  | ieee f => exact roundRes_lt hk ..
  | tap f => exact roundRes_lt hk ..
  | lns => exact roundRes_lt hk ..

theorem subCode_lt {k : FmtKind} (hk : k.sized) (rm : Rm) (u x y : Nat) : (subCode k rm u x y).1 < 2 ^ k.width := by
  cases k with
  | int w => exact wrapTo_lt w _
  | ieee f => exact roundRes_lt hk ..
  | tap f => exact roundRes_lt hk ..
  | lns => exact roundRes_lt hk ..

theorem mulCode_lt {k : FmtKind} (hk : k.sized) (rm : Rm) (u x y : Nat) : (mulCode k rm u x y).1 < 2 ^ k.width := by
  cases k with
  | int w => exact Nat.mod_lt _ (Nat.two_pow_pos w)
  | ieee f => exact roundRes_lt hk ..
  | tap f => exact roundRes_lt hk ..
  | lns => exact roundRes_lt hk ..

/-- A minimum or maximum is one of its operands or the canonical NaN. -/
theorem minMaxCode_lt {k : FmtKind} (hk : k.sized) (wantMax : Bool) {x y : Nat} (hx : x < 2 ^ k.width) (hy : y < 2 ^ k.width) :
    (minMaxCode k wantMax x y).1 < 2 ^ k.width := by
  have pick {c : Prop} [Decidable c] : (if c then (x, (0 : Flg)) else (y, 0)).1 < 2 ^ k.width := by
    split
    · exact hx
    · exact hy
  cases k with
  | ieee f =>
    simp only [minMaxCode, Ieee.minMax]
    split
    · exact hk.2.2
    · split
      · exact hy
      · split
        · exact hx
        · split
          · exact hx
          · exact hy
  | tap f => exact pick
  | lns => exact pick
  | int w => exact pick

/-- An element of a kernel fits the kernel's format. -/
theorem kernelOne_lt (k : Word) {x y : Nat} (hx : x < 2 ^ (fmtKind (kFmt k)).width) (hy : y < 2 ^ (fmtKind (kFmt k)).width) :
    (kernelOne k x y).1 < 2 ^ (fmtKind (kFmt k)).width := by
  have sized := fmtKind_sized (kFmt k)
  unfold kernelOne
  dsimp only
  generalize fmtKind (kFmt k) = f at *
  split
  · exact hx
  · exact Nat.two_pow_pos _
  · exact wrapTo_lt ..
  · exact wrapTo_lt ..
  · exact wrapTo_lt ..
  · exact wrapTo_lt ..
  · exact wrapTo_lt ..
  · exact addCode_lt sized ..
  · exact addCode_lt sized ..
  · exact subCode_lt sized ..
  · exact mulCode_lt sized ..
  · exact roundRes_lt sized ..
  · exact minMaxCode_lt sized _ hx hy
  · exact minMaxCode_lt sized _ hx hy

/-! ## lns6, which has no whole bytes (R326) -/

/-- A value of 1 rounds to itself. -/
theorem roundRes_lns_one (rm : Rm) : (roundRes .lns rm 0 (.root false 0, 0)).2 = 0 := by
  cases rm <;> rfl

/-- A kernel of lns6 raises no flag on code 0, which is 1: sums and products with it keep a root, and none is cut (R181, R185). -/
theorem kernelOne_lns_flags {k : Word} (lns : kFmt k = 6) (op : kOp k ≤ 7) : (kernelOne k 0 0).2 = 0 := by
  have scal : scalVal k = .zero false := by
    unfold scalVal
    rw [lns]
    rfl
  have format : fmtKind 6 = .lns := rfl
  unfold kernelOne
  rw [lns, scal, format]
  generalize kOp k = n at op
  generalize kRnd k = rm
  interval_cases n
  · rfl
  · exact roundRes_lns_one rm
  · exact roundRes_lns_one rm
  · exact roundRes_lns_one rm
  · rfl
  · rfl
  · cases rm <;> rfl
  · rfl

end Sys2Proof.Machine
end

section
/-! SUPPORT. What a Mule reads and writes in a DRAM without compressed blocks and errors (R73, R85, R86, R443). -/

namespace Sys2Proof.Machine

/-! ## Parts of a number in memory -/

theorem Memory.length_readBlock (m : Memory) (a n : Nat) : (m.readBlock a n).length = n := by
  induction n generalizing a with
  | zero => rfl
  | succ n ih => rw [Memory.readBlock, List.length_cons, ih]

theorem Memory.readBlock_add (m : Memory) (a x y : Nat) : m.readBlock a (x + y) = m.readBlock a x ++ m.readBlock (a + x) y := by
  induction x generalizing a with
  | zero => simp [Memory.readBlock]
  | succ x ih =>
    rw [Nat.add_right_comm, Memory.readBlock, ih, Memory.readBlock, List.cons_append, show a + 1 + x = a + (x + 1) by omega]

/-- k bytes of a number in memory are the number at their own address. -/
theorem Memory.readLE_part (m : Memory) (a : Nat) {n o k : Nat} (h : o + k ≤ n) : m.readLE a n / 256 ^ o % 256 ^ k = m.readLE (a + o) k := by
  obtain ⟨r, rfl⟩ := Nat.exists_eq_add_of_le h
  have front : (m.readBlock a o).length = o := m.length_readBlock a o
  have middle : (m.readBlock (a + o) k).length = k := m.length_readBlock (a + o) k
  rw [Memory.readLE, ofBytes_div, ofBytes_mod, Memory.readLE, Nat.add_assoc, Memory.readBlock_add, Memory.readBlock_add, List.drop_left' front,
    List.take_left' middle]

/-- k bytes of a number that has been written. -/
theorem Memory.readLE_writeLE_part (m : Memory) (a v : Nat) {n o k : Nat} (h : o + k ≤ n) :
    (m.writeLE a n v).readLE (a + o) k = v / 256 ^ o % 256 ^ k := by
  obtain ⟨r, rfl⟩ := Nat.exists_eq_add_of_le h
  rw [← Memory.readLE_part _ a (Nat.le_add_right (o + k) r), Memory.readLE_writeLE, pow_add, pow_add, Nat.mul_assoc, Nat.mod_mul_right_div_self,
    Nat.mod_mul_right_mod]

theorem Memory.readLE_lt (m : Memory) (a n : Nat) : m.readLE a n < 256 ^ n := by
  have whole := m.readLE_part a (n := n) (o := 0) (k := n) (by omega)
  rw [pow_zero, Nat.div_one, Nat.add_zero] at whole
  rw [← whole]
  exact Nat.mod_lt _ (Nat.pow_pos (by decide))

theorem Memory.read_writeLE_outside (m : Memory) (a n v : Nat) {y : Nat} (h : y < a ∨ a + n ≤ y) : (m.writeLE a n v).read y = m.read y :=
  m.read_writeBlock_outside a y _ (by rwa [length_bytesOf])

/-! ## Words side by side -/

theorem wordsOf_from (e i : Nat) (vs : List Nat) (z : Nat) :
    ((vs.zipIdx i).map fun v => v.1 * 2 ^ (8 * e * v.2)).foldl (· + ·) z = z + 2 ^ (8 * e * i) * wordsOf e vs := by
  have sum (l : List Nat) (z : Nat) : l.foldl (· + ·) z = z + l.sum := by
    induction l generalizing z with
    | nil => rfl
    | cons x l ih => rw [List.foldl_cons, ih, List.sum_cons, Nat.add_assoc]
  rw [wordsOf, sum, sum, Nat.zero_add, ← List.sum_map_mul_left, List.zipIdx_eq_map_add (i := i), List.map_map]
  congr 2
  refine List.map_congr_left fun v _ => ?_
  rw [Function.comp_apply, Nat.mul_add, pow_add]
  ring

theorem wordsOf_cons (e v : Nat) (vs : List Nat) : wordsOf e (v :: vs) = v + 2 ^ (8 * e) * wordsOf e vs := by
  have tail := wordsOf_from e 1 vs v
  rw [Nat.mul_one] at tail
  rw [← tail]
  simp [wordsOf]

/-- A word of several side by side, each of which fits its place. -/
theorem wordsOf_word {e : Nat} {vs : List Nat} (fit : ∀ v ∈ vs, v < 256 ^ e) {i v : Nat} (h : vs[i]? = some v) :
    wordsOf e vs / 256 ^ (e * i) % 256 ^ e = v := by
  induction vs generalizing i with
  | nil => cases h
  | cons w vs ih =>
    have here : w < 256 ^ e := fit w List.mem_cons_self
    have later : ∀ v ∈ vs, v < 256 ^ e := fun v hv => fit v (List.mem_cons_of_mem _ hv)
    rw [wordsOf_cons, ← two_pow_eight_mul]
    cases i with
    | zero =>
      cases h
      rw [Nat.mul_zero, pow_zero, Nat.div_one, Nat.add_mul_mod_self_left, Nat.mod_eq_of_lt here]
    | succ i =>
      rw [Nat.mul_succ, Nat.add_comm (e * i), pow_add, ← Nat.div_div_eq_div_mul, Nat.add_mul_div_left _ _ (Nat.pow_pos (by decide)),
        Nat.div_eq_of_lt here, Nat.zero_add]
      exact ih later h

/-! ## DRAM as a Mule finds it -/

/-- A DRAM whose blocks are raw and whose lines have no error. -/
structure State.dramPlain (s : State) : Prop where
  codes : s.codes = []
  bad : s.dramBad = []
  soft : s.dramSoft = []

/-- The state with other bytes in DRAM. -/
def State.withDram (s : State) (d : Memory) : State := { s with dram := d }

@[simp] theorem State.withDram_dram (s : State) (d : Memory) : (s.withDram d).dram = d := rfl
@[simp] theorem State.withDram_withDram (s : State) (d k : Memory) : (s.withDram d).withDram k = s.withDram k := rfl

section
variable {s : State} (plain : s.dramPlain)
include plain

theorem State.dramPlain.withDram (d : Memory) : (s.withDram d).dramPlain := ⟨plain.codes, plain.bad, plain.soft⟩

/-- Nothing stops a Mule (R89). -/
theorem State.dramPlain.muleStop_eq (reads : Bool) (flat n : Nat) : s.muleStop reads flat n = none := by
  simp [State.muleStop, State.blockCode, plain.codes, plain.bad]

/-- It meets no error (R443). -/
theorem State.dramPlain.muleMet_eq (flat n : Nat) : s.muleMet flat n = s := by
  have none_ : ((pieces flat n).filter fun p => ([] : List Nat).contains (p.1 / 64 * 64)) = [] := by simp
  rw [State.muleMet, plain.soft, none_]
  rfl

/-- It writes the bytes and nothing else (R73). -/
theorem State.dramPlain.muleWrite_eq (flat n v : Nat) : s.muleWrite flat n v = s.withDram (s.dram.writeLE flat n v) := by
  simp [State.muleWrite, State.withDram, plain.bad, plain.soft]

end

/-! ## A request and its ranges (R82, R309) -/

/-- Byte o of a range of a request's page, in DRAM. -/
def NmJob.at_ (j : NmJob) (w : Word) (o : Nat) : Nat := j.pageDram + (w.toNat - j.pageVa) + o

theorem NmJob.dram_add (j : NmJob) {w : Word} (inPage : j.pageVa ≤ w.toNat) (o : Nat) : j.dram (w.toNat + o) = j.at_ w o := by
  unfold NmJob.dram NmJob.at_
  omega

theorem NmJob.at_add (j : NmJob) (w : Word) (o y : Nat) : j.at_ w o + y = j.at_ w (o + y) := Nat.add_assoc ..

/-- A request that its kernel and its ranges do not refuse (R82). -/
structure NmJob.passes (j : NmJob) (k : Word) : Prop where
  op : j.kind = 1 ↔ kOp k ≤ 7
  aligned : ∀ r ∈ j.ranges k, r % j.unit k = 0
  inPage : ∀ r ∈ j.ranges k, j.pageVa ≤ r
  apart : ∀ r ∈ j.ranges k, ∀ t ∈ j.ranges k, r = t ∨ r + j.unit k * j.n ≤ t ∨ t + j.unit k * j.n ≤ r

theorem NmJob.passes_of_refusal {j : NmJob} {k : Word} (h : j.refusal (some k) = 0) : j.passes k := by
  unfold NmJob.refusal at h
  dsimp only at h
  split at h
  · cases h
  next op =>
    split at h
    next ok =>
      simp only [Bool.and_eq_true, List.all_eq_true, Bool.or_eq_true, beq_iff_eq, decide_eq_true_eq, or_assoc, and_assoc] at ok
      obtain ⟨inPage, apart⟩ := ok
      have op' : (j.kind == 1) = decide (kOp k ≤ 7) := by simpa using op
      refine ⟨?_, fun r hr => (inPage r hr).1, fun r hr => (inPage r hr).2.1, apart⟩
      rw [← beq_iff_eq, op', decide_eq_true_eq]
    · cases h

theorem NmJob.w1_mem (j : NmJob) (k : Word) : j.w1.toNat ∈ j.ranges k := by
  unfold NmJob.ranges
  dsimp only
  split
  · exact List.mem_cons_self
  · split
    · exact List.mem_cons_self
    · split
      · exact List.mem_cons_self
      · exact List.mem_cons_self

/-- What a kernel gives depends on the operands that its request has ranges for. -/
theorem NmJob.kernelOne_congr {j : NmJob} {k : Word} (kind : j.kind ≠ 2) {x x' y y' : Nat} (hx : j.w2.toNat ∈ j.ranges k → x = x')
    (hy : j.w3.toNat ∈ j.ranges k → y = y') : kernelOne k x y = kernelOne k x' y' := by
  unfold NmJob.ranges at hx hy
  simp only [if_neg kind] at hx hy
  by_cases zero : kOp k = 7
  · simp only [kernelOne, zero]
  · simp only [if_neg zero] at hx hy
    by_cases copy : kOp k = 0
    · simp only [if_pos copy] at hx
      rw [hx (by simp)]
      simp only [kernelOne, copy]
    · simp only [if_neg copy] at hx hy
      rw [hx (by simp), hy (by simp)]

/-! ## Elements of whole bytes (R326) -/

/-- The bytes of an element make up its bits in every format but lns6, and they divide a line. -/
theorem fmtBytes_whole {c : Nat} (h : c ≠ 6) :
    (fmtKind c).width = 8 * fmtBytes c ∧ (fmtBytes c = 1 ∨ fmtBytes c = 2 ∨ fmtBytes c = 4 ∨ fmtBytes c = 8) := by
  unfold fmtBytes fmtKind
  split
  case h_7 => exact absurd rfl h
  all_goals decide

end Sys2Proof.Machine
end

section
/-! SUPPORT. An elementwise request computes every element of its destination, line by line (R86, R88, R90). -/

namespace Sys2Proof.Machine

/-! ## The lines of a destination (R88) -/

/-- The number of the first element of line u, at most the number of elements. -/
def NmJob.first (j : NmJob) (e u : Nat) : Nat := min j.n ((max j.w1.toNat ((j.w1.toNat / 64 + u) * 64) - j.w1.toNat) / e)

/-- The line of element i. -/
def NmJob.lineAt (j : NmJob) (e i : Nat) : Nat := (j.w1.toNat + e * i) / 64 - j.w1.toNat / 64

theorem NmJob.first_zero (j : NmJob) (e : Nat) : j.first e 0 = 0 := by
  have start : max j.w1.toNat ((j.w1.toNat / 64 + 0) * 64) - j.w1.toNat = 0 := by omega
  rw [NmJob.first, start, Nat.zero_div, Nat.min_zero]

section
variable {j : NmJob} {e : Nat} (whole : e = 1 ∨ e = 2 ∨ e = 4 ∨ e = 8) (aligned : j.w1.toNat % e = 0)
include whole aligned

theorem NmJob.first_le_iff {i : Nat} (hi : i < j.n) (u : Nat) : j.first e u ≤ i ↔ u ≤ j.lineAt e i := by
  unfold NmJob.first NmJob.lineAt
  rcases whole with rfl | rfl | rfl | rfl <;> omega

/-- A line with no element comes after all elements. -/
theorem NmJob.first_of_no_elements {u : Nat} (none_ : (j.lineOf e u).2 = 0) : j.first e u = j.n := by
  unfold NmJob.lineOf at none_
  unfold NmJob.first
  dsimp only at none_
  rcases whole with rfl | rfl | rfl | rfl <;> omega

/-- The elements of a line follow those of the line before it. -/
theorem NmJob.first_of_elements {u : Nat} (some_ : (j.lineOf e u).2 ≠ 0) :
    (j.lineOf e u).1 = j.first e u ∧ j.first e (u + 1) = j.first e u + (j.lineOf e u).2 := by
  unfold NmJob.lineOf at *
  unfold NmJob.first
  dsimp only at *
  rcases whole with rfl | rfl | rfl | rfl <;> omega

/-- Past the lines of the destination there is no element. -/
theorem NmJob.first_past {u : Nat} (past : (j.w1.toNat + e * j.n + 63) / 64 ≤ j.w1.toNat / 64 + u) : j.first e u = j.n := by
  unfold NmJob.first
  rcases whole with rfl | rfl | rfl | rfl <;> omega

end

theorem NmJob.first_le (j : NmJob) (e u : Nat) : j.first e u ≤ j.n := Nat.min_le_left ..

/-! ## Elements (R86) -/

/-- Element i of a request, as a memory holds its operands. -/
def NmJob.element (j : NmJob) (k : Word) (m : Memory) (i : Nat) : Nat × Flg :=
  kernelOne k (m.readLE (j.at_ j.w2 (fmtBytes (kFmt k) * i)) (fmtBytes (kFmt k))) (m.readLE (j.at_ j.w3 (fmtBytes (kFmt k) * i)) (fmtBytes (kFmt k)))

/-- A memory once the elements p to p + c - 1 have been written side by side. -/
def NmJob.written (j : NmJob) (k : Word) (m : Memory) (p c : Nat) : Memory :=
  m.writeLE (j.at_ j.w1 (fmtBytes (kFmt k) * p)) (fmtBytes (kFmt k) * c)
    (wordsOf (fmtBytes (kFmt k)) ((List.range' p c).map fun i => (j.element k m i).1))

/-- The flags of elements p to n - 1, gathered in order. -/
def NmJob.flagsFrom (j : NmJob) (k : Word) (m : Memory) (p : Nat) (fl : Flg) : Flg :=
  (List.range' p (j.n - p)).foldl (fun f i => f ||| (j.element k m i).2) fl

/-- A memory d holds the elements from p on of a request that found the memory m, and all else as it was. -/
structure NmJob.computed (j : NmJob) (k : Word) (m d : Memory) (p : Nat) : Prop where
  elements : ∀ i, i < j.n → d.readLE (j.at_ j.w1 (fmtBytes (kFmt k) * i)) (fmtBytes (kFmt k)) =
    if p ≤ i then (j.element k m i).1 % 256 ^ fmtBytes (kFmt k) else m.readLE (j.at_ j.w1 (fmtBytes (kFmt k) * i)) (fmtBytes (kFmt k))
  outside : ∀ y, y < j.at_ j.w1 0 ∨ j.at_ j.w1 (fmtBytes (kFmt k) * j.n) ≤ y → d.read y = m.read y

theorem NmJob.computed_refl (j : NmJob) (k : Word) (m : Memory) : j.computed k m m j.n :=
  ⟨fun i hi => by rw [if_neg (Nat.not_le.2 hi)], fun _ _ => rfl⟩

/-- An element fits its place. -/
theorem NmJob.element_lt (j : NmJob) {k : Word} (bytes : kFmt k ≠ 6) (m : Memory) (i : Nat) : (j.element k m i).1 < 256 ^ fmtBytes (kFmt k) := by
  obtain ⟨width, -⟩ := fmtBytes_whole bytes
  rw [two_pow_eight_mul, ← width]
  have operand (a : Nat) : m.readLE a (fmtBytes (kFmt k)) < 2 ^ (fmtKind (kFmt k)).width := by
    rw [width, ← two_pow_eight_mul]
    exact m.readLE_lt a _
  exact kernelOne_lt k (operand _) (operand _)

section
variable {j : NmJob} {k : Word} (passes : j.passes k) (kind : j.kind = 1)
include kind

theorem NmJob.unit_elementwise : j.unit k = fmtBytes (kFmt k) := by
  have other : j.kind ≠ 2 := by omega
  rw [NmJob.unit, if_neg other]

/-- An element depends on the operands of it that its request has ranges for. -/
theorem NmJob.element_congr {m d : Memory} {i : Nat}
    (same : ∀ w : Word, w.toNat ∈ j.ranges k → d.readLE (j.at_ w (fmtBytes (kFmt k) * i)) (fmtBytes (kFmt k)) =
      m.readLE (j.at_ w (fmtBytes (kFmt k) * i)) (fmtBytes (kFmt k))) : j.element k d i = j.element k m i :=
  NmJob.kernelOne_congr (by omega) (same _) (same _)

include passes

/-- A write of elements p to p + c - 1 leaves the operands of every later element (R82). -/
theorem NmJob.element_written {m : Memory} {p c i : Nat} (inside : p + c ≤ i) (hi : i < j.n) :
    j.element k (j.written k m p c) i = j.element k m i := by
  have below : fmtBytes (kFmt k) * p + fmtBytes (kFmt k) * c ≤ fmtBytes (kFmt k) * i := by
    rw [← Nat.mul_add]
    exact Nat.mul_le_mul_left _ inside
  have within : fmtBytes (kFmt k) * i + fmtBytes (kFmt k) ≤ fmtBytes (kFmt k) * j.n := by
    rw [← Nat.mul_succ]
    exact Nat.mul_le_mul_left _ hi
  refine NmJob.element_congr kind fun w hw => Memory.readLE_writeLE_apart _ _ _ _ _ _ ?_
  have inPage := passes.inPage w.toNat hw
  have inPage1 := passes.inPage _ (j.w1_mem k)
  have apart := passes.apart w.toNat hw _ (j.w1_mem k)
  rw [NmJob.unit_elementwise kind] at apart
  unfold NmJob.at_
  omega

variable (bytes : kFmt k ≠ 6)
include bytes

/-- One line's elements have been written; once the later ones are computed from there, all are computed. -/
theorem NmJob.computed_of_line {m d : Memory} {p c : Nat} (fits : p + c ≤ j.n) (later : j.computed k (j.written k m p c) d (p + c)) :
    j.computed k m d p := by
  have range : fmtBytes (kFmt k) * p + fmtBytes (kFmt k) * c ≤ fmtBytes (kFmt k) * j.n := by
    rw [← Nat.mul_add]
    exact Nat.mul_le_mul_left _ fits
  refine ⟨fun i hi => ?_, fun y hy => ?_⟩
  · rw [later.elements i hi]
    by_cases after : p + c ≤ i
    · rw [if_pos after, if_pos (by omega), NmJob.element_written passes kind after hi]
    · rw [if_neg after]
      by_cases before : i < p
      · have below : fmtBytes (kFmt k) * i + fmtBytes (kFmt k) ≤ fmtBytes (kFmt k) * p := by
          rw [← Nat.mul_succ]
          exact Nat.mul_le_mul_left _ before
        rw [if_neg (by omega), NmJob.written, Memory.readLE_writeLE_apart]
        unfold NmJob.at_
        omega
      · obtain ⟨o, rfl⟩ := Nat.exists_eq_add_of_le (Nat.le_of_not_lt before)
        have ho : o < c := by omega
        have part : fmtBytes (kFmt k) * o + fmtBytes (kFmt k) ≤ fmtBytes (kFmt k) * c := by
          rw [← Nat.mul_succ]
          exact Nat.mul_le_mul_left _ ho
        have fit : ∀ v ∈ (List.range' p c).map fun i => (j.element k m i).1, v < 256 ^ fmtBytes (kFmt k) := by
          intro v hv
          obtain ⟨i, -, rfl⟩ := List.mem_map.1 hv
          exact j.element_lt bytes m _
        have word : ((List.range' p c).map fun i => (j.element k m i).1)[o]? = some (j.element k m (p + o)).1 := by simp [ho]
        rw [if_pos (Nat.le_add_right ..), NmJob.written, Nat.mul_add, ← j.at_add, Memory.readLE_writeLE_part _ _ _ part, wordsOf_word fit word,
          Nat.mod_eq_of_lt (j.element_lt bytes m _)]
  · rw [later.outside y hy, NmJob.written, Memory.read_writeLE_outside]
    unfold NmJob.at_ at *
    omega

end

/-! ## The run (R86, R88) -/

theorem State.elementwise_stop (s : State) {j : NmJob} {k : Word} {u : Nat} (none_ : (j.lineOf (fmtBytes (kFmt k)) u).2 = 0) (f : Nat) (fl : Flg) :
    s.elementwise j k (f + 1) u fl = .reply s 0 j.n fl := by
  rw [State.elementwise]
  exact if_pos none_

/-- A line with elements is computed and written, and the run goes on at the next one. -/
theorem State.elementwise_line {s : State} (plain : s.dramPlain) {j : NmJob} {k : Word} (passes : j.passes k) (kind : j.kind = 1) {u p c : Nat}
    (line : j.lineOf (fmtBytes (kFmt k)) u = (p, c)) (some_ : c ≠ 0) (f : Nat) (fl : Flg) : s.elementwise j k (f + 1) u fl =
      (s.withDram (j.written k s.dram p c)).elementwise j k f (u + 1) ((List.range' p c).foldl (fun g i => g ||| (j.element k s.dram i).2) fl) := by
  have free (l : List (Bool × Nat)) (a : Bool × Nat → Nat) (n : Nat) : (l.findSome? fun w => s.muleStop w.1 (a w) n) = none := by
    rw [List.findSome?_eq_none_iff]
    exact fun w _ => plain.muleStop_eq ..
  have met (l : List Nat) (a : Nat → Nat) (n : Nat) : l.foldl (fun s w => State.muleMet s (a w) n) s = s := by
    induction l with
    | nil => rfl
    | cons w l ih => rw [List.foldl_cons, plain.muleMet_eq, ih]
  have operand (w : Word) (hw : w.toNat ∈ j.ranges k) (i : Nat) :
      j.dram (w.toNat + fmtBytes (kFmt k) * p) + fmtBytes (kFmt k) * i = j.at_ w (fmtBytes (kFmt k) * (p + i)) := by
    rw [j.dram_add (passes.inPage _ hw), j.at_add, Nat.mul_add]
  have element (i : Nat) : kernelOne k (s.dram.readLE (j.dram (j.w2.toNat + fmtBytes (kFmt k) * p) + fmtBytes (kFmt k) * i) (fmtBytes (kFmt k)))
      (s.dram.readLE (j.dram (j.w3.toNat + fmtBytes (kFmt k) * p) + fmtBytes (kFmt k) * i) (fmtBytes (kFmt k))) = j.element k s.dram (p + i) :=
    NmJob.kernelOne_congr (j := j) (by omega) (fun hw => by rw [operand _ hw]) (fun hw => by rw [operand _ hw])
  rw [State.elementwise]
  simp only [line, if_neg some_, free, met, plain.muleWrite_eq, element, j.dram_add (passes.inPage _ (j.w1_mem k)), List.range'_eq_map_range,
    List.map_map, List.foldl_map, NmJob.written]
  rfl

theorem NmJob.flagsFrom_end (j : NmJob) (k : Word) (m : Memory) (fl : Flg) : j.flagsFrom k m j.n fl = fl := by
  simp [NmJob.flagsFrom]

/-- The flags of a line come before those of the lines after it, whose elements are as they were. -/
theorem NmJob.flagsFrom_line (j : NmJob) {k : Word} {m d : Memory} {p c : Nat} (fits : p + c ≤ j.n) (fl : Flg)
    (same : ∀ i, p + c ≤ i → i < j.n → j.element k d i = j.element k m i) :
    j.flagsFrom k d (p + c) ((List.range' p c).foldl (fun g i => g ||| (j.element k m i).2) fl) = j.flagsFrom k m p fl := by
  have count : j.n - p = c + (j.n - (p + c)) := by omega
  rw [NmJob.flagsFrom, NmJob.flagsFrom, count, ← List.range'_append_1, List.foldl_append]
  refine List.foldl_ext _ _ _ fun f i hi => ?_
  obtain ⟨low, high⟩ := List.mem_range'_1.1 hi
  rw [same i low (by omega)]

/-- A run from line u on ends with every element from its first one on computed, and their flags gathered. -/
theorem State.elementwise_runs {j : NmJob} {k : Word} (passes : j.passes k) (kind : j.kind = 1) (bytes : kFmt k ≠ 6) (f : Nat) {s : State}
    (plain : s.dramPlain) (u : Nat) (fl : Flg) (fuel : (j.w1.toNat + fmtBytes (kFmt k) * j.n + 63) / 64 ≤ j.w1.toNat / 64 + u + f) :
    ∃ d, s.elementwise j k f u fl = .reply (s.withDram d) 0 j.n (j.flagsFrom k s.dram (j.first (fmtBytes (kFmt k)) u) fl) ∧
      j.computed k s.dram d (j.first (fmtBytes (kFmt k)) u) := by
  obtain ⟨-, whole⟩ := fmtBytes_whole bytes
  have aligned : j.w1.toNat % fmtBytes (kFmt k) = 0 := by
    rw [← NmJob.unit_elementwise kind]
    exact passes.aligned _ (j.w1_mem k)
  induction f generalizing s u fl with
  | zero =>
    rw [NmJob.first_past whole aligned fuel, NmJob.flagsFrom_end]
    exact ⟨s.dram, rfl, j.computed_refl k s.dram⟩
  | succ f ih =>
    by_cases none_ : (j.lineOf (fmtBytes (kFmt k)) u).2 = 0
    · rw [NmJob.first_of_no_elements whole aligned none_, NmJob.flagsFrom_end, State.elementwise_stop s none_]
      exact ⟨s.dram, rfl, j.computed_refl k s.dram⟩
    · obtain ⟨here, next⟩ := NmJob.first_of_elements whole aligned none_
      have run := State.elementwise_line plain passes kind (Prod.eta _).symm none_ f fl
      generalize (j.lineOf (fmtBytes (kFmt k)) u).2 = c at next run
      rw [here] at run
      have fits := j.first_le (fmtBytes (kFmt k)) (u + 1)
      rw [next] at fits
      obtain ⟨d, ends, done⟩ := ih (plain.withDram (j.written k s.dram (j.first (fmtBytes (kFmt k)) u) c)) (u + 1) _ (by omega)
      rw [next] at ends done
      refine ⟨d, (run.trans ends).trans ?_, NmJob.computed_of_line passes kind bytes fits done⟩
      rw [State.withDram_dram, j.flagsFrom_line fits fl fun i low high => NmJob.element_written passes kind low high]
      rfl

end Sys2Proof.Machine
end

section
/-! SUPPORT. An aggregate writes one record for each run of keys (R87, R88). -/

namespace Sys2Proof.Machine

/-! ## What an aggregate has read (R87) -/

/-- The records that are due once no further one is read. -/
def AggAcc.records (acc : AggAcc) : List (Word × Word) := acc.outs ++ acc.run.toList

/-- The same with other records due before them. -/
def AggAcc.after (acc : AggAcc) (before : List (Word × Word)) : AggAcc := { acc with outs := before ++ acc.outs }

/-- The value of a run that holds v, once the records g of its key are in. -/
def runValue (k v : Word) (g : List (Word × Word)) : Word := g.foldl (fun v r => BitVec.ofNat 64 (kernelOne k v.toNat r.2.toNat).1) v

/-- The record of a run of one key. -/
def runRecord (k : Word) : List (Word × Word) → Word × Word
  | [] => (0, 0)
  | x :: g => (x.1, runValue k x.2 g)

section
variable (k : Word)

theorem aggOne_fell {acc : AggAcc} (fell : acc.fell = true) (r : Word × Word) : aggOne k acc r = acc := by
  rw [aggOne, if_pos fell]

theorem aggOne_first (outs : List (Word × Word)) (fl : Flg) (r : Word × Word) : aggOne k ⟨none, outs, fl, false⟩ r = ⟨some r, outs, fl, false⟩ := rfl

theorem aggOne_same (key v x : Word) (outs : List (Word × Word)) (fl : Flg) : aggOne k ⟨some (key, v), outs, fl, false⟩ (key, x) =
    ⟨some (key, BitVec.ofNat 64 (kernelOne k v.toNat x.toNat).1), outs, fl ||| (kernelOne k v.toNat x.toNat).2, false⟩ := by
  simp [aggOne]

theorem aggOne_next {key : Word} {r : Word × Word} (rises : key.toNat < r.1.toNat) (v : Word) (outs : List (Word × Word)) (fl : Flg) :
    aggOne k ⟨some (key, v), outs, fl, false⟩ r = ⟨some r, outs ++ [(key, v)], fl, false⟩ := by
  have notFell : ¬r.1.toNat < key.toNat := Nat.lt_asymm rises
  have other : r.1 ≠ key := fun same => absurd rises (by rw [same]; exact Nat.lt_irrefl _)
  simp [aggOne, notFell, other]

/-- Records due before do not change what a record does. -/
theorem aggOne_after (acc : AggAcc) (before : List (Word × Word)) (r : Word × Word) : aggOne k (acc.after before) r = (aggOne k acc r).after before := by
  unfold aggOne AggAcc.after
  dsimp only
  split
  · rfl
  · split
    · rfl
    · split
      · rfl
      · split
        · rfl
        · rw [List.append_assoc]

theorem aggOne_foldl_after (acc : AggAcc) (before l : List (Word × Word)) :
    l.foldl (aggOne k) (acc.after before) = (l.foldl (aggOne k) acc).after before := by
  induction l generalizing acc with
  | nil => rfl
  | cons r l ih => rw [List.foldl_cons, aggOne_after, ih, List.foldl_cons]

/-- What is read later goes on from the open run, behind the records that are due. -/
theorem aggOne_foldl_split {acc : AggAcc} (rises : acc.fell = false) (l : List (Word × Word)) :
    l.foldl (aggOne k) acc = (l.foldl (aggOne k) ⟨acc.run, [], acc.flags, false⟩).after acc.outs := by
  have start : acc = (⟨acc.run, [], acc.flags, false⟩ : AggAcc).after acc.outs := by
    rw [← rises, AggAcc.after, List.append_nil]
  conv_lhs => rw [start]
  exact aggOne_foldl_after ..

/-- A key that fell is not forgotten. -/
theorem aggOne_foldl_fell {acc : AggAcc} {l : List (Word × Word)} (rises : (l.foldl (aggOne k) acc).fell = false) : acc.fell = false := by
  induction l generalizing acc with
  | nil => exact rises
  | cons r l ih =>
    cases fell : acc.fell with
    | false => rfl
    | true =>
      have step := ih rises
      rw [aggOne_fell k fell, fell] at step
      cases step

/-- A record adds at most one to those that are due. -/
theorem aggOne_count (acc : AggAcc) (r : Word × Word) : (aggOne k acc r).records.length ≤ acc.records.length + 1 := by
  unfold aggOne AggAcc.records
  split
  · simp
  · split
    next none_ => simp [none_]
    next key v some_ =>
      split
      · simp
      · split
        · simp [some_]
        · simp [some_]

theorem aggOne_foldl_count (acc : AggAcc) (l : List (Word × Word)) : (l.foldl (aggOne k) acc).records.length ≤ acc.records.length + l.length := by
  induction l generalizing acc with
  | nil => exact Nat.le_refl _
  | cons r l ih =>
    have one := aggOne_count k acc r
    have more := ih (aggOne k acc r)
    rw [List.length_cons, List.foldl_cons]
    omega

end

/-! ## Runs of keys (R87) -/

/-- The runs of a list of records: each of one key, and no two of the same. -/
structure keyRuns (gs : List (List (Word × Word))) : Prop where
  run : ∀ g ∈ gs, g ≠ [] ∧ ∀ x ∈ g, ∀ y ∈ g, x.1 = y.1
  apart : gs.Pairwise fun g h => ∀ x ∈ g, ∀ y ∈ h, x.1 ≠ y.1

/-- One more run, of a lower key, before others. -/
theorem keyRuns.cons {gs : List (List (Word × Word))} (runs : keyRuns gs) {r : Word × Word} {g : List (Word × Word)} (one : ∀ x ∈ g, x.1 = r.1)
    (rises : ∀ h ∈ gs, ∀ x ∈ h, r.1.toNat < x.1.toNat) : keyRuns ((r :: g) :: gs) := by
  have key : ∀ x ∈ r :: g, x.1 = r.1 := fun x hx => by
    rcases List.mem_cons.1 hx with rfl | hx
    · rfl
    · exact one x hx
  refine ⟨fun h hh => ?_, List.pairwise_cons.2 ⟨fun h hh x hx y hy same => ?_, runs.apart⟩⟩
  · rcases List.mem_cons.1 hh with rfl | hh
    · exact ⟨List.cons_ne_nil _ _, fun x hx y hy => (key x hx).trans (key y hy).symm⟩
    · exact runs.run h hh
  · have above := rises h hh y hy
    rw [← same, key x hx] at above
    exact Nat.lt_irrefl _ above

/-- Sorted records read after an open run: those of its key add to it, and the others are runs of their own. -/
theorem keyRuns_of_open_run (k key v : Word) (outs : List (Word × Word)) (fl : Flg) (l : List (Word × Word))
    (sorted : l.Pairwise fun x y => x.1.toNat ≤ y.1.toNat) (above : ∀ x ∈ l, key.toNat ≤ x.1.toNat) :
    ∃ (g : List (Word × Word)) (gs : List (List (Word × Word))), g ++ gs.flatten = l ∧ (∀ x ∈ g, x.1 = key) ∧ keyRuns gs ∧
      (∀ h ∈ gs, ∀ x ∈ h, key.toNat < x.1.toNat) ∧ (l.foldl (aggOne k) ⟨some (key, v), outs, fl, false⟩).fell = false ∧
      (l.foldl (aggOne k) ⟨some (key, v), outs, fl, false⟩).records = outs ++ (key, runValue k v g) :: gs.map (runRecord k) := by
  induction l generalizing key v outs fl with
  | nil => exact ⟨[], [], rfl, by simp, ⟨by simp, List.Pairwise.nil⟩, by simp, rfl, rfl⟩
  | cons r l ih =>
    obtain ⟨least, later⟩ := List.pairwise_cons.1 sorted
    have here := above r List.mem_cons_self
    by_cases same : r.1 = key
    · obtain ⟨rkey, x⟩ := r
      obtain rfl : rkey = key := same
      obtain ⟨g, gs, split_, one, runs, rises, ok, records⟩ := ih rkey (BitVec.ofNat 64 (kernelOne k v.toNat x.toNat).1) outs
        (fl ||| (kernelOne k v.toNat x.toNat).2) later least
      refine ⟨(rkey, x) :: g, gs, by rw [List.cons_append, split_], ?_, runs, rises, ?_, ?_⟩
      · exact List.forall_mem_cons.2 ⟨rfl, one⟩
      · rw [List.foldl_cons, aggOne_same]
        exact ok
      · rw [List.foldl_cons, aggOne_same, records]
        rfl
    · have rise : key.toNat < r.1.toNat := Nat.lt_of_le_of_ne here fun e => same (BitVec.eq_of_toNat_eq e.symm)
      obtain ⟨g, gs, split_, one, runs, rises, ok, records⟩ := ih r.1 r.2 (outs ++ [(key, v)]) fl later least
      refine ⟨[], (r :: g) :: gs, by rw [← split_]; rfl, by simp, runs.cons one rises, ?_, ?_, ?_⟩
      · refine List.forall_mem_cons.2 ⟨List.forall_mem_cons.2 ⟨rise, fun x hx => by rwa [one x hx]⟩, fun h hh x hx => ?_⟩
        exact Nat.lt_trans rise (rises h hh x hx)
      · rw [List.foldl_cons, aggOne_next k rise]
        exact ok
      · rw [List.foldl_cons, aggOne_next k rise, records, List.append_assoc]
        rfl

/-- Sorted records fall into runs, and the records due are those of the runs. -/
theorem keyRuns_of_sorted (k : Word) (l : List (Word × Word)) (sorted : l.Pairwise fun x y => x.1.toNat ≤ y.1.toNat) :
    ∃ gs : List (List (Word × Word)), gs.flatten = l ∧ keyRuns gs ∧ (l.foldl (aggOne k) ⟨none, [], 0, false⟩).fell = false ∧
      (l.foldl (aggOne k) ⟨none, [], 0, false⟩).records = gs.map (runRecord k) := by
  cases l with
  | nil => exact ⟨[], rfl, ⟨by simp, List.Pairwise.nil⟩, rfl, rfl⟩
  | cons r l =>
    obtain ⟨least, later⟩ := List.pairwise_cons.1 sorted
    obtain ⟨g, gs, split_, one, runs, rises, ok, records⟩ := keyRuns_of_open_run k r.1 r.2 [] 0 l later least
    exact ⟨(r :: g) :: gs, by rw [← split_]; rfl, runs.cons one rises, ok, records⟩

/-! ## Records in memory (R86, R309) -/

theorem fmtBytes_le (c : Nat) : fmtBytes c ≤ 8 := by
  by_cases lns : c = 6
  · rw [lns]
    decide
  · obtain ⟨-, whole⟩ := fmtBytes_whole lns
    omega

/-- Record i of an aggregate's source, as a memory holds it. -/
def NmJob.record (j : NmJob) (k : Word) (m : Memory) (i : Nat) : Word × Word :=
  (m.dword (j.at_ j.w2 (16 * i)), BitVec.ofNat 64 (m.readLE (j.at_ j.w2 (16 * i + 8)) (fmtBytes (kFmt k))))

/-- The records of the source from number p on. -/
def NmJob.recordsFrom (j : NmJob) (k : Word) (m : Memory) (p : Nat) : List (Word × Word) := (List.range' p (j.n - p)).map (j.record k m)

/-- A memory once records have been written to the destination, from place w on. -/
def NmJob.stored (j : NmJob) (m : Memory) : Nat → List (Word × Word) → Memory
  | _, [] => m
  | w, o :: outs => NmJob.stored j (m.writeLE (j.at_ j.w1 (16 * w)) 16 (o.1.toNat + o.2.toNat * 2 ^ 64)) (w + 1) outs

section
variable (j : NmJob)

theorem NmJob.stored_append (m : Memory) (w : Nat) (xs ys : List (Word × Word)) :
    j.stored m w (xs ++ ys) = j.stored (j.stored m w xs) (w + xs.length) ys := by
  induction xs generalizing m w with
  | nil => rfl
  | cons o xs ih => rw [List.cons_append, NmJob.stored, ih, NmJob.stored, List.length_cons, Nat.add_assoc, Nat.add_comm 1]

theorem NmJob.stored_outside (m : Memory) (w : Nat) (outs : List (Word × Word)) {y : Nat}
    (h : y < j.at_ j.w1 (16 * w) ∨ j.at_ j.w1 (16 * (w + outs.length)) ≤ y) : (j.stored m w outs).read y = m.read y := by
  induction outs generalizing m w with
  | nil => rfl
  | cons o outs ih =>
    rw [List.length_cons] at h
    rw [NmJob.stored, ih _ _ (by unfold NmJob.at_ at *; omega), Memory.read_writeLE_outside]
    unfold NmJob.at_ at *
    omega

theorem NmJob.readLE_stored_outside (m : Memory) (w : Nat) (outs : List (Word × Word)) {a n : Nat}
    (h : a + n ≤ j.at_ j.w1 (16 * w) ∨ j.at_ j.w1 (16 * (w + outs.length)) ≤ a) : (j.stored m w outs).readLE a n = m.readLE a n := by
  induction outs generalizing m w with
  | nil => rfl
  | cons o outs ih =>
    rw [List.length_cons] at h
    rw [NmJob.stored, ih _ _ (by unfold NmJob.at_ at *; omega), Memory.readLE_writeLE_apart]
    unfold NmJob.at_ at *
    omega

/-- A record is read back as it was written. -/
theorem NmJob.stored_record (m : Memory) (w : Nat) (outs : List (Word × Word)) {i : Nat} {o : Word × Word} (h : outs[i]? = some o) :
    (j.stored m w outs).dword (j.at_ j.w1 (16 * (w + i))) = o.1 ∧ (j.stored m w outs).dword (j.at_ j.w1 (16 * (w + i) + 8)) = o.2 := by
  induction outs generalizing m w i with
  | nil => cases h
  | cons x outs ih =>
    cases i with
    | zero =>
      cases h
      have low : o.1.toNat < 2 ^ 64 := o.1.isLt
      have high : o.2.toNat < 2 ^ 64 := o.2.isLt
      have word : (256 : Nat) ^ 8 = 2 ^ 64 := by norm_num
      have key := m.readLE_writeLE_part (j.at_ j.w1 (16 * w)) (o.1.toNat + o.2.toNat * 2 ^ 64) (n := 16) (o := 0) (k := 8) (by decide)
      have value := m.readLE_writeLE_part (j.at_ j.w1 (16 * w)) (o.1.toNat + o.2.toNat * 2 ^ 64) (n := 16) (o := 8) (k := 8) (by decide)
      rw [word, Nat.add_mul_div_right _ _ (Nat.two_pow_pos 64), Nat.div_eq_of_lt low, Nat.zero_add, Nat.mod_eq_of_lt high] at value
      rw [word, pow_zero, Nat.div_one, Nat.add_mul_mod_self_right, Nat.mod_eq_of_lt low, Nat.add_zero] at key
      rw [Nat.add_zero, NmJob.stored, Memory.dword, Memory.dword, NmJob.readLE_stored_outside, NmJob.readLE_stored_outside, ← j.at_add, key, value]
      · simp
      · unfold NmJob.at_
        omega
      · unfold NmJob.at_
        omega
    | succ i =>
      have later := ih (m.writeLE (j.at_ j.w1 (16 * w)) 16 (x.1.toNat + x.2.toNat * 2 ^ 64)) (w + 1) h
      rwa [Nat.add_right_comm, Nat.add_assoc] at later

/-- A Mule writes the records one after the other (R87). -/
theorem State.muleWrite_records {s : State} (plain : s.dramPlain) (inPage : j.pageVa ≤ j.w1.toNat) (w i : Nat) (outs : List (Word × Word)) :
    (outs.zipIdx i).foldl (fun s o => s.muleWrite (j.dram (j.w1.toNat + 16 * (w + o.2))) 16 (o.1.1.toNat + o.1.2.toNat * 2 ^ 64)) s =
      s.withDram (j.stored s.dram (w + i) outs) := by
  induction outs generalizing s i with
  | nil => rfl
  | cons o outs ih =>
    rw [List.zipIdx_cons, List.foldl_cons, plain.muleWrite_eq, ih (plain.withDram _), State.withDram_withDram, State.withDram_dram, j.dram_add inPage]
    rfl

/-- What has been written leaves the records of the source that are still to be read (R82). -/
theorem NmJob.recordsFrom_stored {k : Word} (passes : j.passes k) (kind : j.kind = 2) (m : Memory) {w p : Nat} (outs : List (Word × Word))
    (behind : w + outs.length ≤ p) : j.recordsFrom k (j.stored m w outs) p = j.recordsFrom k m p := by
  have unit : j.unit k = 16 := if_pos kind
  have ranges : j.ranges k = [j.w1.toNat, j.w2.toNat] := if_pos kind
  have inPage1 := passes.inPage j.w1.toNat (by simp [ranges])
  have inPage2 := passes.inPage j.w2.toNat (by simp [ranges])
  have apart := passes.apart j.w1.toNat (by simp [ranges]) j.w2.toNat (by simp [ranges])
  have narrow := fmtBytes_le (kFmt k)
  rw [unit] at apart
  refine List.map_congr_left fun i hi => ?_
  obtain ⟨low, high⟩ := List.mem_range'_1.1 hi
  rw [NmJob.record, NmJob.record, Memory.dword, Memory.dword, NmJob.readLE_stored_outside, NmJob.readLE_stored_outside]
  · unfold NmJob.at_
    omega
  · unfold NmJob.at_
    omega

end

/-! ## The run (R87, R88) -/

/-- The number of the first record of line u of the source. -/
def NmJob.firstRecord (j : NmJob) (u : Nat) : Nat := (max j.w2.toNat ((j.w2.toNat / 64 + u) * 64) - j.w2.toNat) / 16

/-- The number of records of line u. -/
def NmJob.lineRecords (j : NmJob) (u : Nat) : Nat :=
  (min (j.w2.toNat + 16 * j.n) ((j.w2.toNat / 64 + u) * 64 + 64) - max j.w2.toNat ((j.w2.toNat / 64 + u) * 64)) / 16

section
variable {j : NmJob} {k : Word} (passes : j.passes k) (kind : j.kind = 2) {s : State} (f u written : Nat)
  (run : Option (Word × Word)) (fl : Flg)
include passes kind

/-- One line: its records are read, those due are written, and the run ends or goes on. -/
theorem State.aggregate_line (plain : s.dramPlain) {acc : AggAcc}
    (read : ((List.range' (j.firstRecord u) (j.lineRecords u)).map (j.record k s.dram)).foldl (aggOne k) ⟨run, [], fl, false⟩ = acc)
    (rises : acc.fell = false) : s.aggregate j k (f + 1) u written run fl =
      if j.w2.toNat + 16 * j.n ≤ (j.w2.toNat / 64 + u) * 64 + 64 then
        .reply (s.withDram (j.stored s.dram written acc.records)) 0 (written + acc.records.length) acc.flags
      else (s.withDram (j.stored s.dram written acc.outs)).aggregate j k f (u + 1) (written + acc.outs.length) acc.run acc.flags := by
  have ranges : j.ranges k = [j.w1.toNat, j.w2.toNat] := if_pos kind
  have inPage1 := passes.inPage j.w1.toNat (by simp [ranges])
  have inPage2 := passes.inPage j.w2.toNat (by simp [ranges])
  have aligned : j.w2.toNat % 16 = 0 := by
    have unit : j.unit k = 16 := if_pos kind
    rw [← unit]
    exact passes.aligned _ (by simp [ranges])
  have free (l : List Nat) : (l.findSome? fun _ => (none : Option (Nat × Nat))) = none := List.findSome?_eq_none_iff.2 fun _ _ => rfl
  have place (i : Nat) : j.dram (max j.w2.toNat ((j.w2.toNat / 64 + u) * 64)) + 16 * i = j.at_ j.w2 (16 * (j.firstRecord u + i)) := by
    unfold NmJob.dram NmJob.at_ NmJob.firstRecord
    omega
  have records : ((List.range (j.lineRecords u)).map fun i => (s.dram.dword (j.dram (max j.w2.toNat ((j.w2.toNat / 64 + u) * 64)) + 16 * i),
      BitVec.ofNat 64 (s.dram.readLE (j.dram (max j.w2.toNat ((j.w2.toNat / 64 + u) * 64)) + 16 * i + 8) (fmtBytes (kFmt k))))) =
      (List.range' (j.firstRecord u) (j.lineRecords u)).map (j.record k s.dram) := by
    simp only [place, List.range'_eq_map_range, List.map_map]
    rfl
  have last : (j.w2.toNat + 16 * j.n ≤ min (j.w2.toNat + 16 * j.n) ((j.w2.toNat / 64 + u) * 64 + 64)) ↔
      j.w2.toNat + 16 * j.n ≤ (j.w2.toNat / 64 + u) * 64 + 64 := by omega
  unfold NmJob.lineRecords at records read
  rw [State.aggregate]
  simp only [plain.muleStop_eq, plain.muleMet_eq, records, read, rises, free, last, State.muleWrite_records j plain inPage1]
  by_cases end_ : j.w2.toNat + 16 * j.n ≤ (j.w2.toNat / 64 + u) * 64 + 64
  · simp [end_, AggAcc.records]
  · simp [end_]

/-- A run over the lines from u on, whose keys do not fall, writes the records due behind those written before. -/
theorem State.aggregate_runs (plain : s.dramPlain) (inside : (j.w2.toNat / 64 + u) * 64 ≤ j.w2.toNat + 16 * j.n)
    (fuel : (j.w2.toNat + 16 * j.n) / 64 < j.w2.toNat / 64 + u + f) (behind : written + run.toList.length ≤ j.firstRecord u) {all : AggAcc}
    (read : (j.recordsFrom k s.dram (j.firstRecord u)).foldl (aggOne k) ⟨run, [], fl, false⟩ = all) (rises : all.fell = false) :
    s.aggregate j k f u written run fl = .reply (s.withDram (j.stored s.dram written all.records)) 0 (written + all.records.length) all.flags := by
  induction f generalizing s u written run fl all with
  | zero => omega
  | succ f ih =>
    have aligned : j.w2.toNat % 16 = 0 := by
      have unit : j.unit k = 16 := if_pos kind
      rw [← unit]
      exact passes.aligned _ (by simp [show j.ranges k = [j.w1.toNat, j.w2.toNat] from if_pos kind])
    have next : j.firstRecord u + j.lineRecords u ≤ j.n := by
      unfold NmJob.firstRecord NmJob.lineRecords
      omega
    have rest : j.n - j.firstRecord u = j.lineRecords u + (j.n - (j.firstRecord u + j.lineRecords u)) := by omega
    rw [NmJob.recordsFrom, rest, ← List.range'_append_1, List.map_append, List.foldl_append] at read
    generalize acc_eq : ((List.range' (j.firstRecord u) (j.lineRecords u)).map (j.record k s.dram)).foldl (aggOne k) ⟨run, [], fl, false⟩ = acc at read
    have accRises : acc.fell = false := aggOne_foldl_fell k (by rw [read]; exact rises)
    rw [State.aggregate_line passes kind f u written run fl plain acc_eq accRises]
    split
    next last =>
      have none_ : j.n - (j.firstRecord u + j.lineRecords u) = 0 := by
        unfold NmJob.firstRecord NmJob.lineRecords
        omega
      rw [none_] at read
      obtain rfl : acc = all := read
      rfl
    next more =>
      have first : j.firstRecord (u + 1) = j.firstRecord u + j.lineRecords u := by
        unfold NmJob.firstRecord NmJob.lineRecords
        omega
      have count := aggOne_foldl_count k ⟨run, [], fl, false⟩ ((List.range' (j.firstRecord u) (j.lineRecords u)).map (j.record k s.dram))
      rw [acc_eq] at count
      simp only [AggAcc.records, List.length_append, List.length_nil, List.length_map, List.length_range'] at count
      have later := j.recordsFrom_stored passes kind s.dram (w := written) (p := j.firstRecord (u + 1)) acc.outs (by omega)
      rw [aggOne_foldl_split k accRises] at read
      rw [ih (u + 1) (written + acc.outs.length) acc.run acc.flags (plain.withDram _) (by omega) (by omega) (by omega) (all := _) rfl ?_]
      · subst read
        rw [State.withDram_dram, later, first]
        simp only [State.withDram_withDram, ← j.stored_append, AggAcc.records, AggAcc.after, Nat.add_assoc, List.length_append, List.append_assoc]
        rfl
      · rw [State.withDram_dram, later, first]
        subst read
        exact rises

end

end Sys2Proof.Machine
end

section
/-! SUPPORT. A run of a Mule from its queue or from its stop, with its reply (R86 to R88, R92). -/

namespace Sys2Proof.Machine

section
variable {s : State} (plain : s.dramPlain) {j : NmJob} {k : Word} (passes : j.passes k)
include plain passes

/-- A run of an elementwise request (R86, R88): of lns6, whose elements have no bytes, it does nothing. -/
theorem State.nmRun_elementwise (kind : j.kind = 1) (st : NmStopped) : ∃ d,
    s.nmRun j k st = .reply (s.withDram d) 0 j.n (j.flagsFrom k s.dram (j.first (fmtBytes (kFmt k)) st.upc) st.flags) ∧
    (∀ i, i < j.n → d.readLE (j.at_ j.w1 (fmtBytes (kFmt k) * i)) (fmtBytes (kFmt k)) = if st.upc ≤ j.lineAt (fmtBytes (kFmt k)) i
      then (j.element k s.dram i).1 % 256 ^ fmtBytes (kFmt k) else s.dram.readLE (j.at_ j.w1 (fmtBytes (kFmt k) * i)) (fmtBytes (kFmt k))) ∧
    ∀ y, y < j.at_ j.w1 0 ∨ j.at_ j.w1 (fmtBytes (kFmt k) * j.n) ≤ y → d.read y = s.dram.read y := by
  rw [State.nmRun, if_pos kind]
  by_cases lns : kFmt k = 6
  · have none_ : fmtBytes (kFmt k) = 0 := by
      rw [lns]
      rfl
    have flags (i : Nat) : (j.element k s.dram i).2 = 0 := by
      rw [NmJob.element, none_]
      exact kernelOne_lns_flags lns (passes.op.1 kind)
    have quiet (f : Flg) : f ||| 0 = f := BitVec.or_zero
    have gathered : j.flagsFrom k s.dram (j.first (fmtBytes (kFmt k)) st.upc) st.flags = st.flags := by
      simp only [NmJob.flagsFrom, flags, quiet, List.foldl_fixed]
    have noElements : (j.lineOf (fmtBytes (kFmt k)) st.upc).2 = 0 := by
      rw [none_]
      exact Nat.div_zero _
    rw [gathered, State.elementwise_stop s noElements, none_]
    refine ⟨s.dram, rfl, fun i _ => ?_, fun _ _ => rfl⟩
    split
    · rw [pow_zero, Nat.mod_one]
      rfl
    · rfl
  · obtain ⟨-, whole⟩ := fmtBytes_whole lns
    have aligned : j.w1.toNat % fmtBytes (kFmt k) = 0 := by
      rw [← NmJob.unit_elementwise kind]
      exact passes.aligned _ (j.w1_mem k)
    obtain ⟨d, run, done⟩ := State.elementwise_runs passes kind lns (fmtBytes (kFmt k) * j.n / 64 + 3) plain st.upc st.flags (by omega)
    refine ⟨d, run, fun i hi => ?_, done.outside⟩
    simp only [done.elements i hi, NmJob.first_le_iff whole aligned hi]

/-- A run of an aggregate over records whose keys do not fall (R87). -/
theorem State.nmRun_aggregate (kind : j.kind = 2) {all : AggAcc} (read : (j.recordsFrom k s.dram 0).foldl (aggOne k) ⟨none, [], 0, false⟩ = all)
    (rises : all.fell = false) : s.nmRun j k (stopAt j 0 0 (0, 0) 0 none) =
      .reply (s.withDram (j.stored s.dram 0 all.records)) 0 all.records.length all.flags := by
  have other : j.kind ≠ 1 := by omega
  have start : j.firstRecord 0 = 0 := by
    unfold NmJob.firstRecord
    omega
  rw [State.nmRun, if_neg other]
  have run := State.aggregate_runs passes kind (j.n / 4 + 3) 0 0 none 0 plain (by omega) (by omega) (Nat.zero_le _) (all := all)
    (by rw [start]; exact read) rises
  rw [Nat.zero_add] at run
  exact run

end

/-- The reply of a run that ends. -/
theorem NmEnd.finish_reply (s : State) (c : Nat) {o : Owner} (near : o.pcn < 2048) (r : Reg) {v : Nat} (narrow : v < 2 ^ 32) (fl : Flg) :
    (NmEnd.reply s 0 v fl).finish c o r = s.nmSent o r (v * 2 ^ 16 + fl.toNat * 2 ^ 8) := by
  have narrow' : v < 2 ^ 48 := by omega
  rw [NmEnd.finish, s.nmAnswer_nmReply near r 0 narrow', Nat.add_zero]

section
variable {s : State} {c : Nat} {j : NmJob} {rest : List NmJob} (free : (s.mule c).stopped = none) (queue : (s.mule c).queue = j :: rest)
  (near : j.owner.pcn < 2048) {k : Word} (kernel : (s.mule c).kernel = some k) (good : j.refusal (some k) = 0) (plain : s.dramPlain)
include free queue near kernel good plain

/-- An elementwise request at the head of the queue computes its elements (R86). -/
theorem State.nmStart_elementwise (kind : j.kind = 1) : ∃ d, s.nmStart c 1 = .next (((s.nmDequeued c rest).withDram d).nmSent j.owner j.reg
      (j.n * 2 ^ 16 + (j.flagsFrom k s.dram 0 0).toNat * 2 ^ 8)) ∧
    (∀ i, i < j.n → d.readLE (j.at_ j.w1 (fmtBytes (kFmt k) * i)) (fmtBytes (kFmt k)) = (j.element k s.dram i).1 % 256 ^ fmtBytes (kFmt k)) ∧
    ∀ y, y < j.at_ j.w1 0 ∨ j.at_ j.w1 (fmtBytes (kFmt k) * j.n) ≤ y → d.read y = s.dram.read y := by
  have plain' : (s.nmDequeued c rest).dramPlain := ⟨plain.codes, plain.bad, plain.soft⟩
  have start := State.nmStart_runs free queue kernel good
  obtain ⟨d, run, elements, outside⟩ := State.nmRun_elementwise plain' (NmJob.passes_of_refusal good) kind (stopAt j 0 0 (0, 0) 0 none)
  have first : j.first (fmtBytes (kFmt k)) (stopAt j 0 0 (0, 0) 0 none).upc = 0 := j.first_zero _
  rw [kind, run, first, NmEnd.finish_reply _ _ near _ j.n_lt] at start
  exact ⟨d, start, fun i hi => (elements i hi).trans (if_pos (Nat.zero_le _)), outside⟩

/-- An aggregate at the head of the queue writes the records of its runs (R87). -/
theorem State.nmStart_aggregate (kind : j.kind = 2) (sorted : (j.recordsFrom k s.dram 0).Pairwise fun x y => x.1.toNat ≤ y.1.toNat) :
    ∃ (gs : List (List (Word × Word))) (fl : Flg) (d : Memory), gs.flatten = j.recordsFrom k s.dram 0 ∧ keyRuns gs ∧
      s.nmStart c 2 = .next (((s.nmDequeued c rest).withDram d).nmSent j.owner j.reg (gs.length * 2 ^ 16 + fl.toNat * 2 ^ 8)) ∧
      (∀ i x g, gs[i]? = some (x :: g) → d.dword (j.at_ j.w1 (16 * i)) = x.1 ∧ d.dword (j.at_ j.w1 (16 * i + 8)) = runValue k x.2 g) ∧
      ∀ y, y < j.at_ j.w1 0 ∨ j.at_ j.w1 (16 * gs.length) ≤ y → d.read y = s.dram.read y := by
  have plain' : (s.nmDequeued c rest).dramPlain := ⟨plain.codes, plain.bad, plain.soft⟩
  obtain ⟨gs, flat, runs, rises, records⟩ := keyRuns_of_sorted k _ sorted
  have count := aggOne_foldl_count k ⟨none, [], 0, false⟩ (j.recordsFrom k s.dram 0)
  have start := State.nmStart_runs free queue kernel good
  generalize read : (j.recordsFrom k s.dram 0).foldl (aggOne k) ⟨none, [], 0, false⟩ = all at *
  have run := State.nmRun_aggregate plain' (NmJob.passes_of_refusal good) kind read rises
  have length : all.records.length = gs.length := by rw [records, List.length_map]
  have narrow : gs.length < 2 ^ 32 := by
    have few : (j.recordsFrom k s.dram 0).length = j.n := by simp [NmJob.recordsFrom]
    have none_ : (⟨none, [], 0, false⟩ : AggAcc).records.length = 0 := rfl
    have bound := j.n_lt
    omega
  rw [kind, run, length, NmEnd.finish_reply _ _ near _ narrow] at start
  refine ⟨gs, all.flags, j.stored s.dram 0 all.records, flat, runs, start, fun i x g hi => ?_, fun y hy => ?_⟩
  · have record : all.records[i]? = some (x.1, runValue k x.2 g) := by
      rw [records, List.getElem?_map, hi]
      rfl
    have stored := j.stored_record s.dram 0 all.records record
    rwa [Nat.zero_add] at stored
  · refine j.stored_outside s.dram 0 all.records ?_
    rwa [Nat.zero_add, length]

end

/-- RESUME computes the elements from the stopped line on (R92). -/
theorem execNmResume_elementwise {s : State} {c : Nat} {x : NmControl} {rest : List NmControl} {st : NmStopped}
    (controls : (s.mule c).controls = x :: rest) (stopped : (s.mule c).stopped = some st) (near : x.owner.pcn < 2048) (resume : x.abandon = false)
    {k : Word} (kernel : (s.mule c).kernel = some k) (kind : st.job.kind = 1) (good : st.job.refusal (some k) = 0) (plain : s.dramPlain) :
    ∃ (d : Memory) (fl : Flg), exec (.nmResume c) s =
      .next (((s.putMule { s.mule c with controls := rest, mpc := none, stopped := none }).withDram d).nmSent x.owner x.reg
        (st.job.n * 2 ^ 16 + fl.toNat * 2 ^ 8)) ∧
      ∀ i, i < st.job.n → d.readLE (st.job.at_ st.job.w1 (fmtBytes (kFmt k) * i)) (fmtBytes (kFmt k)) =
        if st.upc ≤ st.job.lineAt (fmtBytes (kFmt k)) i then (st.job.element k s.dram i).1 % 256 ^ fmtBytes (kFmt k)
        else s.dram.readLE (st.job.at_ st.job.w1 (fmtBytes (kFmt k) * i)) (fmtBytes (kFmt k)) := by
  have plain' : (s.putMule { s.mule c with controls := rest, mpc := none, stopped := none }).dramPlain := ⟨plain.codes, plain.bad, plain.soft⟩
  have good' : ({ st.job with owner := x.owner, reg := x.reg } : NmJob).refusal (some k) = 0 := good
  obtain ⟨d, run, elements, -⟩ := State.nmRun_elementwise plain' (NmJob.passes_of_refusal good') kind
    { st with job := { st.job with owner := x.owner, reg := x.reg } }
  have going := execNmResume_eq controls stopped resume kernel
  rw [run, NmEnd.finish_reply _ _ near _ (NmJob.n_lt _)] at going
  exact ⟨d, _, going, elements⟩

end Sys2Proof.Machine
end

section
/-! The Mules' requests (R82 to R92, R309 to R311). -/

open Sys2Proof.Machine in
/-- Settles O48: each kind of request and of NMRES has its lemma. -/
theorem muleRequests : Obligations.MuleRequests := by
  unfold Obligations.MuleRequests
  intro s c m sent
  refine ⟨?checked, ?queue, ?query, ?stoppedQuery, ?control⟩
  case checked =>
    intro n r va reg o sys held port flight near t waits
    refine ⟨fun out => nmcRequestCheck_outOfRange flight near out, fun low high own => ⟨fun u leaf big pa ht => ?_, fun f ht => ?_⟩⟩
    · refine ⟨fun nm => nmcRequestCheck_notNm flight near low high own ht nm, fun nm comp => nmcRequestCheck_comp flight near low high own ht nm comp,
        fun nm plain => ?_⟩
      have reaches := nmcRequestCheck_reaches flight low high own ht nm plain
      cases r with
      | resume => exact reaches
      | abandon => exact reaches
      | request w0 w1 w2 w3 =>
        dsimp only
        split
        next query =>
          rw [u.nmEnqueue_query (chanOf (dramFlat (leafPa leaf))) w1 w2 w3 o reg _ _ _ query] at reaches
          exact reaches
        next other =>
          split
          next room =>
            rw [u.nmEnqueue_room (chanOf (dramFlat (leafPa leaf))) w1 w2 w3 o reg _ _ _ other room] at reaches
            exact reaches
          next full =>
            rw [u.nmEnqueue_full (chanOf (dramFlat (leafPa leaf))) w1 w2 w3 o reg _ _ _ other full] at reaches
            exact reaches
    · have faults := nmcRequestCheck_faults flight low high own ht
      cases sys with
      | true => exact faults.trans (congrArg _ (s.nmFault_system n _ f rfl))
      | false =>
        by_cases room : s.parkCount (homeOf (lineOf va.toNat)) < 64
        · rw [s.nmFault_parks n _ f rfl room] at faults
          exact faults.trans (congrArg _ (if_pos room).symm)
        · rw [s.nmFault_waits n _ f rfl room] at faults
          exact faults.trans (congrArg _ (if_neg room).symm)
  case queue =>
    intro j rest free queue near left
    refine ⟨fun kind => ⟨fun ok => ?_, fun bad => ?_⟩, fun e he kind st refused nonzero => ?_, fun k kernel good codes bad soft => ⟨fun kind => ?_, fun kind => ?_⟩⟩
    · rw [← j.kind_eq] at kind
      exact execNmConfigure_sets free queue near kind ((kernelOk_iff _).2 ok)
    · rw [← j.kind_eq] at kind
      exact execNmConfigure_refuses free queue near kind fun ok => bad ((kernelOk_iff _).1 ok)
    · simp only [List.mem_cons, List.not_mem_nil, or_false] at he
      have refuses := State.nmStart_refuses free queue near (refused.symm ▸ nonzero)
      rw [refused, j.kind_eq, kind] at refuses
      rcases he with rfl | rfl
      · exact refuses
      · exact refuses
    · rw [← j.kind_eq] at kind
      have request := State.nmStart_elementwise free queue near kernel good ⟨codes, bad, soft⟩ kind
      simp only [NmJob.element, NmJob.flagsFrom, two_pow_eight_mul, kFmt_eq, j.n_eq, Nat.sub_zero, ← List.range_eq_range'] at request
      exact request
    · rw [← j.kind_eq] at kind
      intro recs sorted
      have found : recs = j.recordsFrom k s.dram 0 := by
        rw [NmJob.recordsFrom, Nat.sub_zero, ← List.range_eq_range', j.n_eq]
        unfold NmJob.record
        rw [kFmt_eq]
        rfl
      rw [found] at sorted ⊢
      obtain ⟨gs, fl, d, flat, runs, run, records, outside⟩ := State.nmStart_aggregate free queue near kernel good ⟨codes, bad, soft⟩ kind sorted
      exact ⟨gs, fl, d, flat, runs.run, runs.apart, run, records, outside⟩
  case query =>
    intro j rest queries near free
    have answer := execNmQuery_eq queries near
    rw [Mule.stateWord_running free] at answer
    exact answer
  case stoppedQuery =>
    intro j rest st queries near stopped pc
    have answer := execNmQuery_eq queries near
    rw [Mule.stateWord_stopped stopped pc] at answer
    exact answer
  case control =>
    intro x rest controls near o r left
    refine ⟨fun free => execNmres_refused controls near free, fun st stopped => ⟨fun abandon => ?_, fun resume k kernel kind good codes bad soft => ?_⟩⟩
    · exact execNmAbandon_eq controls stopped near abandon
    · rw [← NmJob.kind_eq] at kind
      have request := execNmResume_elementwise controls stopped near resume kernel kind good ⟨codes, bad, soft⟩
      simp only [NmJob.element, two_pow_eight_mul, kFmt_eq, NmJob.n_eq] at request
      exact request
end

section
/-! SUPPORT. The CLEANs of a core under way, and the slice that a core which stops leaves (R139, R292, R306). -/

namespace Sys2Proof.Machine

/-! ## CLEANs and CLINVs under way (R139, R306) -/

@[simp] theorem State.metaUse_cleans (s : State) (flat : Nat) : (s.metaUse flat).cleans = s.cleans := by
  unfold State.metaUse
  dsimp only
  split <;> rfl

@[simp] theorem State.dramMeets_cleans (s : State) (flat : Nat) (comp : Bool) : (s.dramMeets flat comp).cleans = s.cleans := by
  unfold State.dramMeets
  dsimp only
  split
  · split <;> exact s.metaUse_cleans _
  · exact s.metaUse_cleans flat

@[simp] theorem State.writeBackLine_cleans (s : State) (l : L2Line) : (s.writeBackLine l).cleans = s.cleans := by
  unfold State.writeBackLine
  split
  · dsimp only
    split <;> exact s.dramMeets_cleans _ _
  · rfl

@[simp] theorem State.l2Put_cleans (s : State) (l : L2Line) : (s.l2Put l).cleans = s.cleans := by
  show (s.l2Room l.slice l.line).cleans = s.cleans
  unfold State.l2Room
  dsimp only
  split
  · rfl
  · split
    · exact s.writeBackLine_cleans _
    · rfl

/-- A CLEAN that takes effect is no longer under way. -/
theorem State.landClean_cleans (s : State) (c : Cleaning) : (s.landClean c).cleans = s.cleans.erase c := by
  unfold State.landClean
  dsimp only
  split
  · split
    · rw [State.l2Drop_cleans, State.writeBackLine_cleans]
    · rw [State.cleanLine, State.l2Put_cleans, State.writeBackLine_cleans]
  · rfl

theorem State.foldl_landClean_cleans (l : List Cleaning) (s : State) : (l.foldl State.landClean s).cleans = s.cleans.diff l := by
  induction l generalizing s with
  | nil => rw [List.diff_nil]; rfl
  | cons c l ih => rw [List.foldl_cons, ih, State.landClean_cleans, List.diff_cons]

/-- Once the CLEANs of a core have landed, it has none under way. -/
theorem State.landCleans_none (s : State) (p : Nat) : ∀ c ∈ (s.landCleans p).cleans, c.pcn ≠ p := by
  intro c hc own
  rw [State.landCleans, State.foldl_landClean_cleans] at hc
  have copies : List.count c (s.cleans.filter fun x => x.pcn == p) = List.count c s.cleans := List.count_filter (beq_iff_eq.2 own)
  have positive := List.count_pos_iff.2 hc
  rw [List.count_diff, copies, Nat.sub_self] at positive
  exact Nat.lt_irrefl 0 positive

/-! ## What the waits of FENCE.P leave open (R139) -/

theorem State.fencePDone_eq_true_iff (s : State) (p : Nat) :
    s.fencePDone p = true ↔ ¬∃ w ∈ s.hostWrites ++ s.remoteWrites, w.pcn = p ∧ w.rmw.isSome = true := by
  simp only [State.fencePDone, List.all_eq_true, List.mem_append, Bool.not_eq_true', Bool.and_eq_false_imp, beq_iff_eq, not_exists, not_and,
    Bool.not_eq_true]
  exact forall_congr' fun w => imp_congr_left or_comm

/-! ## A slice that ends (R204, R215, R292) -/

/-- From s to t the active core keeps its number, run state, slice and registers, and homes, DRAM and the CLEANs under way stay. -/
structure State.sliceKeeps (s t : State) : Prop where
  pcn : t.core.pcn = s.core.pcn
  run : t.core.run = s.core.run
  slice : t.core.slice = s.core.slice
  regs : t.core.regs = s.core.regs
  dram : t.dram = s.dram
  l2 : t.l2 = s.l2
  cleans : t.cleans = s.cleans

theorem State.sliceKeeps.refl (s : State) : s.sliceKeeps s := ⟨rfl, rfl, rfl, rfl, rfl, rfl, rfl⟩

theorem State.sliceKeeps.trans {s t u : State} (h : s.sliceKeeps t) (k : t.sliceKeeps u) : s.sliceKeeps u :=
  ⟨k.pcn.trans h.pcn, k.run.trans h.run, k.slice.trans h.slice, k.regs.trans h.regs, k.dram.trans h.dram, k.l2.trans h.l2, k.cleans.trans h.cleans⟩

/-- An update of any core that keeps its number, run state, slice and registers. -/
theorem State.modCore_sliceKeeps (s : State) (p : Nat) (f : Core → Core)
    (hf : ∀ c, (f c).pcn = c.pcn ∧ (f c).run = c.run ∧ (f c).slice = c.slice ∧ (f c).regs = c.regs) : s.sliceKeeps (s.modCore p f) := by
  obtain ⟨pcn, run, slice, regs⟩ := hf (s.getCore p)
  unfold State.modCore State.putCore
  split
  next active =>
    have same : s.getCore p = s.core := if_pos (active.trans (pcn.trans (s.getCore_pcn p)))
    rw [same] at pcn run slice regs ⊢
    exact ⟨pcn, run, slice, regs, rfl, rfl, rfl⟩
  next => exact ⟨rfl, rfl, rfl, rfl, rfl, rfl, rfl⟩

theorem State.foldl_sliceKeeps {α : Type} (f : State → α → State) (hf : ∀ (s : State) x, s.sliceKeeps (f s x)) (l : List α) (s : State) :
    s.sliceKeeps (l.foldl f s) := by
  induction l generalizing s with
  | nil => exact .refl s
  | cons x l ih => exact (hf s x).trans (ih _)

theorem State.retireIfDone_sliceKeeps (s : State) (slot : Nat) : s.sliceKeeps (s.retireIfDone slot) := by
  unfold State.retireIfDone
  split
  · exact .refl s
  · split
    · next t _ _ =>
      refine State.sliceKeeps.trans (State.foldl_sliceKeeps (fun s p => s.modCore p Core.leaveTeam) (fun s p => ?_) t.sites s) ?_
      · exact s.modCore_sliceKeeps p _ fun _ => ⟨rfl, rfl, rfl, rfl⟩
      · exact ⟨rfl, rfl, rfl, rfl, rfl, rfl, rfl⟩
    · exact .refl s

theorem State.overflow_sliceKeeps (s : State) (i : QueueId) : s.sliceKeeps (s.overflow i) := by
  have queued (q : SchedQ) : s.sliceKeeps (s.setQueue q) := ⟨rfl, rfl, rfl, rfl, rfl, rfl, rfl⟩
  unfold State.overflow
  dsimp only
  split
  · exact .refl s
  split
  · exact queued _
  split
  · split
    · exact queued _
    · exact .refl s
  · exact .refl s

theorem State.settle_sliceKeeps (s : State) (p : Nat) : s.sliceKeeps (s.settle p) := by
  unfold State.settle State.idles
  split
  · split
    · refine State.sliceKeeps.trans ?_ (State.overflow_sliceKeeps _ _)
      exact s.modCore_sliceKeeps p _ fun _ => ⟨rfl, rfl, rfl, rfl⟩
    · exact .refl s
  · exact .refl s

/-- The end of the active core's slice: its number, run state and registers stay, and it runs no slice any more. -/
theorem State.endSlice_sliceKeeps (s : State) : ({ s with core := { s.core with slice := .none } } : State).sliceKeeps s.endSlice := by
  have gone : ({ s with core := { s.core with slice := .none } } : State).sliceKeeps s.memberGone := by
    unfold State.memberGone
    dsimp only
    split
    · refine State.sliceKeeps.trans ?_ (State.retireIfDone_sliceKeeps _ _)
      exact ⟨rfl, rfl, rfl, rfl, rfl, rfl, rfl⟩
    · exact ⟨rfl, rfl, rfl, rfl, rfl, rfl, rfl⟩
  exact gone.trans (State.foldl_sliceKeeps _ State.settle_sliceKeeps _ _)

/-! ## NOP, WFE, REPLAY and HALT (R286, R289, R290, R292) -/

section
variable {s : State} (issues : s.issuesAlone [] [])
include issues

theorem execNop_eq : exec .nop s = .next { s with core := s.core.doneFrom } := State.alone_eq_of_issuesAlone issues _ _

theorem execWfe_eq (fresh : s.core.acked = false) (plain : s.ackWith = none) :
    exec .wfe s = .next (if s.core.events ≠ [] ∨ s.core.wake = true then { s with core := { s.core.doneFrom with wake := false, waiting := false } }
      else { s with core := { s.core with waiting := true } }) := by
  have cond : (!s.core.events.isEmpty || s.core.wake) = true ↔ s.core.events ≠ [] ∨ s.core.wake = true := by simp
  show execWfe s = _
  rw [execWfe, State.alone_eq_of_issuesAlone issues, fresh, plain]
  by_cases due : s.core.events ≠ [] ∨ s.core.wake = true
  · rw [if_pos due]
    exact if_pos (cond.2 due)
  · rw [if_neg due]
    exact if_neg (due ∘ cond.1)

theorem execReplay_eq (waited : s.fencePDone s.core.pcn = true) :
    exec .replay s = .next { s.landCleans s.core.pcn with core := s.core.doneFrom, retryWanted := min 2 (s.retryWanted + 1) } := by
  show execReplay s = _
  rw [execReplay, State.alone_eq_of_issuesAlone issues, if_pos waited, State.done]
  simp only [State.landCleans_core]
  rfl

theorem execReplay_waits (waits : ¬s.fencePDone s.core.pcn = true) : exec .replay s = .next s := by
  show execReplay s = _
  rw [execReplay, State.alone_eq_of_issuesAlone issues, if_neg waits]

variable (mode : s.core.ctl.mode = .system)
include mode

theorem execHalt_waits (waits : s.core.inPhase = true ∨ ¬s.fencePDone s.core.pcn = true) : exec .halt s = .next s := by
  show execHalt s = _
  rw [execHalt, State.alone_of_issuesAlone issues fun _ => mode, if_pos (by simpa using waits)]

theorem execHalt_stops (idle : s.core.inPhase = false) (waited : s.fencePDone s.core.pcn = true) :
    ∃ t, exec .halt s = .next t ∧
      ({ s.landCleans s.core.pcn with core := { s.core.doneFrom with run := .halted, slice := .none } } : State).sliceKeeps t := by
  refine ⟨_, ?_, State.endSlice_sliceKeeps { s.landCleans s.core.pcn with core := { s.core.doneFrom with run := .halted } }⟩
  show execHalt s = _
  rw [execHalt, State.alone_of_issuesAlone issues fun _ => mode, if_neg (by simp [idle, waited])]
  simp only [State.landCleans_core]
  rfl

end

end Sys2Proof.Machine
end

section
/-! SUPPORT. The invalidation of a range of pages (R110, R291). -/

namespace Sys2Proof.Machine

/-! ## What an invalidation leaves (R110) -/

/-- A core that has met an invalidation of n bytes from v: the L1 lines of the range are gone, and an open chunk that has read or written a line is squashed. -/
def Core.invalidated (v n : Nat) (c : Core) : Core :=
  let k := { c with l1 := c.l1.filter fun l => !(decide (v ≤ l.line * 64) && decide (l.line * 64 < v + n)) }
  match k.chunk with
  | some y => if y.rsig ||| y.wsig = 0 then k else k.squash
  | none => k

theorem Core.squash_l1_subset (c : Core) {l : L1Line} (h : l ∈ c.squash.l1) : l ∈ c.l1 := by
  unfold Core.squash at h
  split at h
  · exact h
  · exact (List.mem_filter.1 h).1

theorem Core.invalidated_l1 (v n : Nat) (c : Core) {l : L1Line} (h : l ∈ (c.invalidated v n).l1) : ¬(v ≤ l.line * 64 ∧ l.line * 64 < v + n) := by
  have kept : l ∈ c.l1.filter fun l => !(decide (v ≤ l.line * 64) && decide (l.line * 64 < v + n)) := by
    unfold Core.invalidated at h
    dsimp only at h
    split at h
    · split at h
      · exact h
      · exact Core.squash_l1_subset _ h
    · exact h
  have outside := (List.mem_filter.1 kept).2
  simp only [Bool.not_eq_true', Bool.and_eq_false_iff, decide_eq_false_iff_not] at outside
  tauto

theorem Core.squash_chunk (c : Core) : c.squash.chunk = none := by
  unfold Core.squash
  split
  · assumption
  · rfl

/-- A chunk that an invalidation leaves open has an empty signature. -/
theorem Core.invalidated_chunk (v n : Nat) (c : Core) {y : Chunk} (h : (c.invalidated v n).chunk = some y) : y.rsig ||| y.wsig = 0 := by
  unfold Core.invalidated at h
  dsimp only at h
  split at h
  next k hk =>
    split at h
    next empty =>
      obtain rfl := Option.some.inj (hk.symm.trans h)
      exact empty
    next => rw [Core.squash_chunk] at h; cases h
  next hk => rw [hk] at h; cases h

theorem Core.invalidated_of_no_chunk (v n : Nat) {c : Core} (h : c.chunk = none) : c.invalidated v n = { c with l1 := (c.invalidated v n).l1 } := by
  unfold Core.invalidated
  simp only [h]

theorem State.invalidate_core (s : State) (v n : Nat) : (s.invalidate v n).core = s.core.invalidated v n := rfl

theorem State.mem_invalidate_tlb (s : State) (v n : Nat) (e : TlbEntry) : e ∈ (s.invalidate v n).tlb ↔
    e ∈ s.tlb ∧ (e.page * 65536 + pageBytes e.big ≤ v ∨ v + n ≤ e.page * 65536) := by
  simp only [State.invalidate, State.allCores, List.mem_filter, Bool.not_eq_true', Bool.and_eq_false_iff, decide_eq_false_iff_not, Nat.not_lt]
  tauto

theorem State.invalidate_l2 (s : State) (v n : Nat) :
    (s.invalidate v n).l2 = s.l2.map fun l => if v ≤ l.line * 64 ∧ l.line * 64 < v + n then { l with retrans := true } else l := by
  simp only [State.invalidate, State.allCores, Bool.and_eq_true, decide_eq_true_eq]

/-! ## What a TINV waits for (R110; log entry 31) -/

/-- What a translation in [v, v + n) gave and is yet to be performed. -/
def State.awaitsUse (s : State) (v n : Nat) : Prop :=
  let hit (x : Nat) : Prop := v ≤ x ∧ x < v + n
  (∃ w ∈ s.seqQueue, hit (w.line * 64)) ∨ (∃ w ∈ s.hostWrites, hit (w.line * 64)) ∨
    (∃ c ∈ s.cores, ∃ x h, c.out = some (x, some h) ∧ hit x.va.toNat) ∨
    (∃ m ∈ s.mules, ∃ c ∈ m.controls, c.page < v + n ∧ v < c.page + c.size) ∨
    (∃ m ∈ s.mules, ∃ c ∈ m.parked, c.base < v + n ∧ v < c.base + c.len)

theorem State.translatedUse_of_awaitsUse {s : State} {v n : Nat} (h : s.awaitsUse v n) : s.translatedUse v n = true := by
  unfold State.translatedUse
  simp only [Bool.or_eq_true, List.any_eq_true, Bool.and_eq_true, decide_eq_true_eq]
  rcases h with ⟨w, mem, low, high⟩ | ⟨w, mem, low, high⟩ | ⟨c, mem, x, h, out, low, high⟩ | ⟨m, mem, c, has, low, high⟩ | ⟨m, mem, c, has, low, high⟩
  · exact .inl (.inl (.inl (.inl ⟨w, mem, by omega, high⟩)))
  · exact .inl (.inl (.inl (.inr ⟨w, mem, by omega, high⟩)))
  · exact .inl (.inl (.inr ⟨c, mem, by simp [out]; omega⟩))
  · exact .inl (.inr ⟨m, mem, .inl (.inl (.inr ⟨c, has, high, low⟩))⟩)
  · exact .inl (.inr ⟨m, mem, .inl (.inr ⟨c, has, high, low⟩)⟩)

/-! ## TINV (R291) -/

section
variable {s : State} {a b : Reg} (issues : s.issuesAlone [a, b] []) (mode : s.core.ctl.mode = .system) {v n : Nat} (start : (s.core.reg a).toNat = v)
  (length : (s.core.reg b).toNat = n)
include issues mode start length

theorem execTinv_eq : exec (.tinv a b) s =
    if v % 65536 ≠ 0 ∨ n % 65536 ≠ 0 then s.trap 0x02 (s.core.reg a)
    else if n = 0 then .next { s with core := s.core.doneFrom }
    else if v < 2 ^ 32 ∨ 2 ^ 57 < v + n ∨ nodeOf v ≠ s.core.ctl.node.toNat ∨ nodeOf (v + n - 1) ≠ s.core.ctl.node.toNat then s.trap 0x04 (s.core.reg a)
    else if s.deferred s.core.pcn sigAll || s.translatedUse v n then .next s
    else .next { s.invalidate v n with core := (s.invalidate v n).core.doneFrom } := by
  have trapped (cause : Nat) : s.trapN cause v = s.trap cause (s.core.reg a) := by
    rw [State.trapN, ← start, BitVec.ofNat_toNat, BitVec.setWidth_eq]
  show execTinv a b s = _
  rw [execTinv, State.alone_of_issuesAlone issues fun _ => mode, start, length, ← trapped, ← trapped]
  rfl

theorem execTinv_misaligned (misaligned : v % 65536 ≠ 0 ∨ n % 65536 ≠ 0) : exec (.tinv a b) s = s.trap 0x02 (s.core.reg a) := by
  rw [execTinv_eq issues mode start length, if_pos misaligned]

variable (alignedStart : v % 65536 = 0) (alignedLength : n % 65536 = 0)
include alignedStart alignedLength

theorem execTinv_aligned : exec (.tinv a b) s =
    if n = 0 then .next { s with core := s.core.doneFrom }
    else if v < 2 ^ 32 ∨ 2 ^ 57 < v + n ∨ nodeOf v ≠ s.core.ctl.node.toNat ∨ nodeOf (v + n - 1) ≠ s.core.ctl.node.toNat then s.trap 0x04 (s.core.reg a)
    else if s.deferred s.core.pcn sigAll || s.translatedUse v n then .next s
    else .next { s.invalidate v n with core := (s.invalidate v n).core.doneFrom } := by
  rw [execTinv_eq issues mode start length, if_neg (by omega)]

theorem execTinv_outside (nonempty : 0 < n)
    (outside : v < 2 ^ 32 ∨ 2 ^ 57 < v + n ∨ nodeOf v ≠ s.core.ctl.node.toNat ∨ nodeOf (v + n - 1) ≠ s.core.ctl.node.toNat) :
    exec (.tinv a b) s = s.trap 0x04 (s.core.reg a) := by
  rw [execTinv_aligned issues mode start length alignedStart alignedLength, if_neg (by omega), if_pos outside]

theorem execTinv_inside (nonempty : 0 < n) (low : 2 ^ 32 ≤ v) (high : v + n ≤ 2 ^ 57) (first : nodeOf v = s.core.ctl.node.toNat)
    (last : nodeOf (v + n - 1) = s.core.ctl.node.toNat) : exec (.tinv a b) s =
      if s.deferred s.core.pcn sigAll || s.translatedUse v n then .next s
      else .next { s.invalidate v n with core := (s.invalidate v n).core.doneFrom } := by
  rw [execTinv_aligned issues mode start length alignedStart alignedLength, if_neg (by omega), if_neg]
  rintro (below | above | other | other)
  · omega
  · omega
  · exact other first
  · exact other last

end

/-- The core that has executed a TINV alone: its L1 has lost the lines of the range. -/
theorem State.invalidate_doneFrom {s : State} (alone : s.core.chunk = none) (v n : Nat) :
    (s.invalidate v n).core.doneFrom = { s.core.doneFrom with l1 := (s.invalidate v n).core.doneFrom.l1 } := by
  rw [State.invalidate_core, Core.invalidated_of_no_chunk v n alone]
  rfl

end Sys2Proof.Machine

open Sys2Proof.Machine in
/-- Settles O28: each instruction has passed its checks, so its own branches decide. The CLEANs of a core that have landed are no longer under way
(`landCleans_none`), and the end of a slice leaves what HALT has landed (`endSlice_sliceKeeps`). -/
theorem systemInstructions : Obligations.SystemInstructions := by
  unfold Obligations.SystemInstructions
  intro s a b
  refine ⟨execNop_eq, execWfe_eq, ?_, ?_⟩
  · intro p u open_
    have waited : s.fencePDone p = true ↔ ¬open_ := s.fencePDone_eq_true_iff p
    refine ⟨s.landCleans_none p, fun issues closed => ?_, fun issues isOpen => ?_, fun issues mode idle closed => ?_, fun issues mode waits => ?_⟩
    · exact execReplay_eq issues (waited.2 closed)
    · exact execReplay_waits issues fun done => waited.1 done isOpen
    · obtain ⟨t, stops, keeps⟩ := execHalt_stops issues mode idle (waited.2 closed)
      have active : t.getCore p = t.core := if_pos keeps.pcn
      refine ⟨t, stops, ?_⟩
      rw [active]
      exact ⟨keeps.run, keeps.slice, keeps.regs, keeps.dram, keeps.l2, keeps.cleans⟩
    · exact execHalt_waits issues mode (waits.imp_right fun isOpen done => waited.1 done isOpen)
  · intro issues mode v n
    refine ⟨execTinv_misaligned issues mode rfl rfl, fun aligned empty => ?_, execTinv_outside issues mode rfl rfl, ?_⟩
    · rw [execTinv_aligned issues mode rfl rfl aligned (by omega : n % 65536 = 0), if_pos empty]
    · intro alignedStart alignedLength nonempty low high first last hit
      have inside := execTinv_inside issues mode rfl rfl alignedStart alignedLength nonempty low high first last
      refine ⟨fun awaits => ?_, fun granted unused => ?_⟩
      · rw [inside, State.translatedUse_of_awaitsUse awaits, Bool.or_true, if_pos rfl]
      · rw [granted, unused, if_neg (by decide)] at inside
        have ⟨_, noChunk, _⟩ := issues
        refine ⟨_, inside, State.invalidate_doneFrom noChunk v n, rfl, fun e he => (s.mem_invalidate_tlb v n e).1 he,
          fun e he apart => (s.mem_invalidate_tlb v n e).2 ⟨he, apart⟩, s.invalidate_l2 v n, ?_, ?_⟩
        · intro c hc l hl
          rcases List.mem_cons.1 hc with rfl | other
          · exact s.core.invalidated_l1 v n hl
          · obtain ⟨x, -, rfl⟩ := List.mem_map.1 other
            exact x.invalidated_l1 v n hl
        · intro c hc k hk
          obtain ⟨x, -, rfl⟩ := List.mem_map.1 hc
          exact x.invalidated_chunk v n hk
end

section
namespace Sys2Proof.Machine

/-! ## The info word of an upcall record (R114) -/

/-- With both 16-bit fields at their largest, the logarithm of a size of at least 2^2048 bytes carries the info word past its 64 bits. -/
theorem upcallInfo_wide {size : Nat} (huge : 2048 ≤ Nat.log2 size) (pend : Bool) (reg : Reg) (acc reason kind : Nat) :
    2 ^ 64 ≤ upcallInfo 0xFFFF 0xFFFF pend reg size acc reason kind := by
  unfold upcallInfo
  omega

/-- The record holds its info word in 8 bytes, so no state has taken the upcall of such an access. -/
theorem not_upcallTaken_of_huge {s t : State} {a : Access} {f : FaultInfo} {resume : Word} (gen : s.mgmt.ctxg.toNat = 0xFFFF)
    (deny : f.deny.toNat = 0xFFFF) (huge : 2048 ≤ Nat.log2 a.kind.size) : ¬upcallTaken s t a f resume := by
  rintro ⟨-, -, -, -, info, -⟩
  have narrow := Memory.readLE_lt t.core.spad (s.core.wp + 0x118) 8
  rw [info, gen, deny] at narrow
  exact absurd narrow (Nat.not_lt.2 (upcallInfo_wide huge _ _ _ _ _))

/-- A store of 2^2048 bytes to the first address of node 1. No instruction makes it (R293, R298), but an access may list any size. -/
def hugeStore : Access := ⟨.store (2 ^ 2048) 0, 0x1000000000000, 0⟩

theorem hugeStore_size : 2048 ≤ Nat.log2 hugeStore.kind.size := by
  show 2048 ≤ Nat.log2 (2 ^ 2048)
  rw [Nat.log2_two_pow]

/-- No fabric route (R108), with every destination marked as denied. -/
def hugeStoreFault : FaultInfo := ⟨0x43, 0x09, 0xFFFF⟩

/-- Core 0 in user mode, its current workspace at 0x8400 and its upcall workspace at 0x8600, whose early check has found that fault of that store, in the
context generation 0xFFFF. -/
def hugeFault : State := { State.reset with
  core := { Core.reset 0 with
    run := .running
    early := some (hugeStore, remotePark, hugeStoreFault)
    ctl := { Ctl.reset with mode := .user, wpa := 0x42, twa := 0x41, uws := 0x43 } }
  mgmt := { Mgmt.reset with ctxg := 0xFFFF } }

end Sys2Proof.Machine

open Sys2Proof.Machine in
/-- Refutes O52: its upcall clause bounds the size of the parked access nowhere, and asks that the 8 bytes of the record's info word hold
`Nat.log2 size * 2 ^ 20` in full. For a store of 2^2048 bytes, with every destination denied, in context generation 0xFFFF, that word has more than 64 bits, so no
next state satisfies the clause. Every access that an instruction makes has 1 to 8 bytes (R293, R298), so this needs a state that lists another one. -/
theorem not_parkedAccesses : ¬ Obligations.ParkedAccesses := by
  unfold Obligations.ParkedAccesses
  intro h
  obtain ⟨earlyFault, -⟩ := h hugeFault
  obtain ⟨-, -, parks, -⟩ := earlyFault 0 hugeStore remotePark hugeStoreFault rfl rfl
  obtain ⟨u, -, taken⟩ := parks (by decide) (by decide) (by decide) ⟨by decide, by decide, by decide, by decide, by decide⟩
  exact not_upcallTaken_of_huge rfl rfl hugeStore_size taken
end

section
/-! SUPPORT. What a committed chunk's buffers hold for one line and for the scratchpad (R58, R130, R132). -/

namespace Sys2Proof.Machine

/-! ## The newest byte of a buffer -/

theorem bufByte_cons (c : Host.Cell) (buf : List Host.Cell) (a : Nat) : bufByte (c :: buf) a = if c.1 = a then some c.2 else bufByte buf a := by
  rw [bufByte, List.find?_cons]
  cases h : c.1 == a with
  | true => rw [if_pos (beq_iff_eq.1 h)]; rfl
  | false => rw [if_neg (ne_of_beq_false h)]; rfl

theorem Memory.writeCells_append (m : Memory) (xs ys : List Host.Cell) : m.writeCells (xs ++ ys) = (m.writeCells xs).writeCells ys := by
  induction xs generalizing m with
  | nil => rfl
  | cons c xs ih => exact ih _

/-- A memory under a newest-first buffer: its bytes, over those that stood there. -/
theorem Memory.read_writeBuf (m : Memory) (buf : List Host.Cell) (a : Nat) : (m.writeBuf buf).read a = (bufByte buf a).getD (m.read a) := by
  induction buf with
  | nil => rfl
  | cons c buf ih =>
    have last : m.writeBuf (c :: buf) = (m.writeBuf buf).write c.1 c.2 := by
      rw [Memory.writeBuf, List.reverse_cons, Memory.writeCells_append]
      rfl
    rw [last, Memory.read_write, bufByte_cons, ih]
    by_cases h : a = c.1
    · rw [if_pos h, if_pos h.symm]
      rfl
    · rw [if_neg h, if_neg fun e => h e.symm]

/-! ## The bytes of a line -/

/-- Two lines with the same bytes are one. -/
theorem line_ext {a b : Line} (h : ∀ j, j < 64 → lineByte a j = lineByte b j) : a = b := by
  refine BitVec.eq_of_getLsbD_eq fun k hk => ?_
  have byte := congrArg (BitVec.getLsbD · (k % 8)) (h (k / 8) (by omega))
  simp only [lineByte_getLsbD, Nat.div_add_mod, decide_eq_true (Nat.mod_lt k (by decide : 0 < 8)), Bool.true_and] at byte
  exact byte

theorem lineSet_getLsbD (l : Line) (o n v : Nat) {k : Nat} (hk : k < 512) :
    (lineSet l o n v).getLsbD k = if 8 * o ≤ k ∧ k < 8 * o + 8 * n then v.testBit (k - 8 * o) else l.getLsbD k := by
  simp only [lineSet, BitVec.getLsbD_or, BitVec.getLsbD_and, BitVec.getLsbD_not, BitVec.getLsbD_ofNat, Nat.testBit_shiftLeft,
    Nat.testBit_two_pow_sub_one, Nat.testBit_mod_two_pow, hk, decide_true, Bool.true_and]
  by_cases lo : 8 * o ≤ k
  · by_cases hi : k < 8 * o + 8 * n
    · have inside : k - 8 * o < 8 * n := by omega
      simp [lo, hi, inside]
    · have outside : ¬k - 8 * o < 8 * n := by omega
      simp [lo, hi, outside]
  · simp [lo]

/-- A line with one byte replaced. -/
theorem lineByte_lineSet_byte (l : Line) {o j : Nat} (b : Byte) (hj : j < 64) :
    lineByte (lineSet l o 1 b.toNat) j = if j = o then b else lineByte l j := by
  refine BitVec.eq_of_getLsbD_eq fun i hi => ?_
  rw [lineByte_getLsbD, lineSet_getLsbD _ _ _ _ (by omega), decide_eq_true hi, Bool.true_and]
  by_cases h : j = o
  · subst h
    rw [if_pos ⟨by omega, by omega⟩, if_pos rfl, Nat.add_sub_cancel_left]
    rfl
  · rw [if_neg (by omega), if_neg h, lineByte_getLsbD, decide_eq_true hi, Bool.true_and]

/-! ## A buffer's bytes for a line -/

theorem bufLine_cons (c : Host.Cell) (buf : List Host.Cell) (x : Nat) : bufLine (c :: buf) x =
    if c.1 / 64 = x then ((bufLine buf x).1 ||| BitVec.ofNat 64 (1 <<< (c.1 % 64)), lineSet (bufLine buf x).2 (c.1 % 64) 1 c.2.toNat)
    else bufLine buf x := by
  simp only [bufLine, List.foldl_reverse, List.foldr_cons]

/-- The mask has the bytes that the buffer holds, and the data their newest values. -/
theorem bufLine_byte (buf : List Host.Cell) (x : Nat) {j : Nat} (hj : j < 64) :
    (bufLine buf x).1.getLsbD j = (bufByte buf (64 * x + j)).isSome ∧ lineByte (bufLine buf x).2 j = (bufByte buf (64 * x + j)).getD 0 := by
  induction buf with
  | nil => exact ⟨BitVec.getLsbD_zero, by simp [bufLine, bufByte, lineByte]⟩
  | cons c buf ih =>
    obtain ⟨mask, data⟩ := ih
    rw [bufLine_cons, bufByte_cons]
    by_cases own : c.1 / 64 = x
    · rw [if_pos own, lineByte_lineSet_byte _ _ hj, BitVec.getLsbD_or, mask, data, BitVec.getLsbD_ofNat, Nat.one_shiftLeft, Nat.testBit_two_pow]
      by_cases same : j = c.1 % 64
      · have at_ : c.1 = 64 * x + j := by omega
        rw [if_pos same, if_pos at_, decide_eq_true hj, decide_eq_true same.symm]
        simp
      · have apart : ¬c.1 = 64 * x + j := by omega
        have apart' : ¬c.1 % 64 = j := fun e => same e.symm
        simp [same, apart, apart']
    · have apart : ¬c.1 = 64 * x + j := by omega
      rw [if_neg own, if_neg apart]
      exact ⟨mask, data⟩

/-- A merge of a buffer's bytes for a line. -/
theorem lineByte_lineMerge_bufLine (buf : List Host.Cell) (x : Nat) (l : Line) {j : Nat} (hj : j < 64) :
    lineByte (lineMerge l (bufLine buf x).1 (bufLine buf x).2) j = (bufByte buf (64 * x + j)).getD (lineByte l j) := by
  obtain ⟨mask, data⟩ := bufLine_byte buf x hj
  rw [lineByte_lineMerge _ _ _ hj, mask, data]
  cases bufByte buf (64 * x + j) <;> rfl

theorem lineByte_overlayLine (buf : List Host.Cell) (x : Nat) (l : Line) {j : Nat} (hj : j < 64) :
    lineByte (overlayLine buf x l) j = (bufByte buf (64 * x + j)).getD (lineByte l j) := lineByte_lineMerge_bufLine buf x l hj

/-- A line that holds the bytes of a buffer already. -/
theorem overlayLine_of_held {buf : List Host.Cell} {x : Nat} {l old : Line}
    (h : ∀ j, j < 64 → lineByte l j = (bufByte buf (64 * x + j)).getD (lineByte old j)) : overlayLine buf x l = l := by
  refine line_ext fun j hj => ?_
  rw [lineByte_overlayLine _ _ _ hj]
  cases hb : bufByte buf (64 * x + j) with
  | none => rfl
  | some b => rw [h j hj, hb]; rfl

end Sys2Proof.Machine
end

section
/-! SUPPORT. What the slices' operations leave as it is: the cores, the order of commits, the sequencer, and what leaves the node (R62, R64, R132). -/

namespace Sys2Proof.Machine

/-- The sequencer's queue, and the writes on their way to the host and to other nodes. -/
structure Leaving where
  seqNext : Nat
  seqQueue : List ReplUpdate
  hostWrites : List FarWrite
  remoteWrites : List FarWrite

/-- The cores that are not active, the order of commits, what the replica homes have applied, and the routes. -/
structure Steady where
  others : List Core
  submits : List Nat
  commits : Nat
  reservation : Option Nat
  seqApplied : Vector Nat 4
  notices : List (Nat × Nat)
  ports : Vector Port 12
  route : List (Nat × Word)

def State.leaving (s : State) : Leaving := ⟨s.seqNext, s.seqQueue, s.hostWrites, s.remoteWrites⟩

def State.steady (s : State) : Steady :=
  ⟨s.others, s.submits, s.commits, s.reservation, s.seqApplied, s.notices, s.ports, s.mgmt.route⟩

/-- What the slices' operations do not touch, apart from the active core. -/
def State.outside (s : State) : Steady × Leaving := (s.steady, s.leaving)

theorem State.metaUse_outside (s : State) (flat : Nat) : (s.metaUse flat).outside = s.outside := by
  rw [State.metaUse_eq]
  rfl

theorem State.dramUse_outside (s : State) (flat : Nat) : (s.dramUse flat).outside = s.outside := s.metaUse_outside flat

theorem State.dramMeets_outside (s : State) (flat : Nat) (comp : Bool) : (s.dramMeets flat comp).outside = s.outside := by
  unfold State.dramMeets
  dsimp only
  split
  · split
    · exact s.dramUse_outside _
    · exact s.dramUse_outside _
  · exact s.metaUse_outside flat

theorem State.writeBackLine_outside (s : State) (l : L2Line) : (s.writeBackLine l).outside = s.outside := by
  unfold State.writeBackLine
  split
  · dsimp only
    split
    · exact s.dramMeets_outside _ _
    · exact s.dramMeets_outside _ _
  · rfl

theorem State.l2Put_outside (s : State) (l : L2Line) : (s.l2Put l).outside = s.outside := by
  show (s.l2Room l.slice l.line).outside = s.outside
  unfold State.l2Room
  dsimp only
  split
  · rfl
  · split
    · exact s.writeBackLine_outside _
    · rfl

theorem State.renew_outside (s : State) (sl x : Nat) (leaf : Word) (pa : Nat) : (s.renew sl x leaf pa).outside = s.outside := by
  unfold State.renew
  split
  · split
    · rfl
    · split
      · exact s.l2Put_outside _
      · exact s.writeBackLine_outside _
  · rfl

theorem State.fill_outside (s : State) (sl x : Nat) (leaf : Word) (pa : Nat) : (s.fill sl x leaf pa).1.outside = s.outside := by
  unfold State.fill
  split
  · rfl
  · dsimp only
    split
    · exact s.dramUse_outside _
    · rw [State.l2Put_outside, State.dramUse_outside]

theorem State.lineUnder_outside (s : State) (p x sl : Nat) (leaf : Word) (pa : Nat) : (s.lineUnder p x sl leaf pa).1.outside = s.outside := by
  have filled := ((s.renew sl x leaf pa).fill_outside sl x leaf pa).trans (s.renew_outside sl x leaf pa)
  unfold State.lineUnder
  dsimp only
  split <;> exact filled

@[simp] theorem State.lineUnder_core (s : State) (p x sl : Nat) (leaf : Word) (pa : Nat) : (s.lineUnder p x sl leaf pa).1.core = s.core := by
  have filled := ((s.renew sl x leaf pa).fill_core sl x leaf pa).trans (s.renew_core sl x leaf pa)
  unfold State.lineUnder
  dsimp only
  split <;> exact filled

end Sys2Proof.Machine
end

section
/-! SUPPORT. The line of a slice after a new translation, a fill and a merge (R62, R64, R110). -/

namespace Sys2Proof.Machine

/-- A line after a new translation: one that is not marked stays, a marked one stays at its address alone (R110). -/
def L2Line.renewed (l : L2Line) (leaf : Word) (pa : Nat) : Option L2Line :=
  if l.retrans = false then some l else if pa = l.pa then some { l with leaf := leaf, retrans := false } else none

theorem L2Line.renewed_unmarked {l m : L2Line} {leaf : Word} {pa : Nat} (h : l.renewed leaf pa = some m) : m.retrans = false := by
  unfold L2Line.renewed at h
  split at h
  next unmarked => cases h; exact unmarked
  next =>
    split at h
    · cases h; rfl
    · cases h

/-- The address at which a slice has a line, or would fill it. -/
def State.paAt (s : State) (sl x pa : Nat) : Nat := (s.l2Find sl x).elim pa (·.pa)

theorem State.paAt_eq (s : State) (sl x pa : Nat) : s.paAt sl x pa = match s.l2Find sl x with | some l => l.pa | none => pa := by
  unfold State.paAt
  cases s.l2Find sl x <;> rfl

/-- The bytes that a slice has of a line, or would fill it with. -/
def State.lineData (s : State) (sl x pa : Nat) : Line := (s.l2Find sl x).elim (s.dramLine (dramFlat pa)).1 (·.data)

theorem State.lineData_congr {s t : State} {sl x : Nat} (find : t.l2Find sl x = s.l2Find sl x) (dram : t.dram = s.dram) (codes : t.codes = s.codes)
    (pa : Nat) : t.lineData sl x pa = s.lineData sl x pa := by
  rw [State.lineData, State.lineData, State.dramLine, State.dramLine, State.blockCode, State.blockCode, find, dram, codes]

theorem State.fill_data (s : State) (sl x : Nat) (leaf : Word) (pa : Nat) : (s.fill sl x leaf pa).2.1 = s.lineData sl x pa := by
  unfold State.fill State.lineData
  split
  next h => rw [h]; rfl
  next h =>
    rw [h]
    dsimp only
    split <;> rfl

theorem State.fill_held {s : State} {sl x : Nat} {m : L2Line} (h : s.l2Find sl x = some m) (leaf : Word) (pa : Nat) :
    s.fill sl x leaf pa = (s, m.data, m.bad) := by
  simp only [State.fill, h]

theorem State.renew_unmarked {s : State} {sl x : Nat} (h : ∀ m, s.l2Find sl x = some m → m.retrans = false) (leaf : Word) (pa : Nat) :
    s.renew sl x leaf pa = s := by
  unfold State.renew
  split
  next l hl => simp only [h l hl, Bool.not_false, if_true]
  next => rfl

theorem State.l2Put_find (s : State) (l : L2Line) : (s.l2Put l).l2Find l.slice l.line = some l :=
  State.l2Find_upsert (s.l2Room l.slice l.line) l.slice l.line l rfl rfl

theorem State.l2Drop_find_same (s : State) (sl x : Nat) : (s.l2Drop sl x).l2Find sl x = none := by
  refine (find?_filter_key (fun l : L2Line => !(l.slice == sl && l.line == x)) _ s.l2 false fun l h => ?_).trans (if_neg Bool.false_ne_true)
  rw [h]
  rfl

theorem State.renew_find (s : State) (sl x : Nat) (leaf : Word) (pa : Nat) :
    (s.renew sl x leaf pa).l2Find sl x = (s.l2Find sl x).bind fun l => l.renewed leaf pa := by
  unfold State.renew
  split
  next l held =>
    obtain ⟨hsl, hx⟩ := State.l2Find_key held
    rw [held]
    show _ = l.renewed leaf pa
    cases marked : l.retrans with
    | false => simpa [L2Line.renewed, marked] using held
    | true =>
      simp only [L2Line.renewed, marked, Bool.not_true, Bool.false_eq_true, if_false, reduceCtorEq]
      split
      · rw [← hsl, ← hx]
        exact s.l2Put_find { l with leaf := leaf, retrans := false }
      · exact State.l2Drop_find_same _ _ _
  next absent => rw [absent]; rfl

theorem State.renew_find_unmarked {s : State} {sl x : Nat} {leaf : Word} {pa : Nat} {m : L2Line} (h : (s.renew sl x leaf pa).l2Find sl x = some m) :
    m.retrans = false := by
  rw [State.renew_find] at h
  obtain ⟨l, -, hl⟩ := Option.bind_eq_some_iff.1 h
  exact L2Line.renewed_unmarked hl

/-- What a merge leaves at its slice, `u` being the state in which the write's translation has met the line: a dirty line with the masked bytes. -/
structure L2Line.mergedFrom (m : L2Line) (u : State) (sl x pa : Nat) (mask : BitVec 64) (data : Line) : Prop where
  dirty : m.dirty = true
  unmarked : m.retrans = false
  address : m.pa = u.paAt sl x pa
  bytes : m.data = lineMerge (u.lineData sl x pa) mask data

theorem State.merge_find (s : State) (sl x : Nat) (leaf : Word) (pa : Nat) (mask : BitVec 64) (data : Line) :
    ∃ m, (s.merge sl x leaf pa mask data).l2Find sl x = some m ∧ m.mergedFrom (s.renew sl x leaf pa) sl x pa mask data := by
  generalize hu : s.renew sl x leaf pa = u
  unfold State.merge
  rw [hu]
  dsimp only
  split
  next full =>
    refine ⟨_, State.l2Put_find _ _, rfl, rfl, ?_, by rw [full, lineMerge_allOnes]⟩
    unfold State.paAt
    cases u.l2Find sl x <;> rfl
  next =>
    refine ⟨_, State.l2Put_find _ _, rfl, rfl, ?_, ?_⟩
    · unfold State.paAt
      cases u.l2Find sl x <;> rfl
    · rw [State.fill_data]
      cases held : u.l2Find sl x with
      | none => rfl
      | some l => simp only [State.lineData, held, Option.elim]

end Sys2Proof.Machine
end

section
/-! SUPPORT. What an access of one line leaves of a slice's other lines and of DRAM while its set has room (R61 to R64, R110). -/

namespace Sys2Proof.Machine

/-! ## An element put in the place of its like -/

section
variable {α : Type} (p q : α → Bool) (new : α) (alike : ∀ y, p y = true → q y = q new)
include alike

/-- An element that takes the place of its like leaves the number of those that a test keeps, when the test takes the two as one. -/
theorem length_filter_upsert_held {l : List α} (held : (l.find? p).isSome = true) :
    ((upsert p (fun _ => new) new l).filter q).length = (l.filter q).length := by
  induction l with
  | nil => simp at held
  | cons y l ih =>
    unfold upsert
    split
    next hy =>
      rw [List.filter_cons, List.filter_cons, alike y hy]
      split <;> rfl
    next hy =>
      rw [List.find?_cons_of_neg hy] at held
      rw [List.filter_cons, List.filter_cons]
      split
      · rw [List.length_cons, List.length_cons, ih held]
      · exact ih held

theorem length_filter_upsert_le (l : List α) :
    ((upsert p (fun _ => new) new l).filter q).length ≤ (l.filter q).length + if q new = true then 1 else 0 := by
  induction l with
  | nil =>
    rw [upsert, List.filter_cons]
    split <;> simp
  | cons y l ih =>
    unfold upsert
    split
    next hy =>
      rw [List.filter_cons, List.filter_cons, alike y hy]
      split
      · exact Nat.le_add_right _ _
      · exact Nat.le_add_right _ _
    next =>
      rw [List.filter_cons, List.filter_cons]
      split
      · rw [List.length_cons, List.length_cons]
        omega
      · exact ih

end

/-! ## Lines put into a slice with room (R61) -/

/-- Whether a line belongs to a set of a slice. -/
def sameSet (k e : Nat × Nat) : Bool := e.1 == k.1 && l2Set e.2 == l2Set k.2

/-- Two states have the same DRAM and differ in the lines of slices at one line alone, of which at most n have come to its set. -/
structure State.touches (s t : State) (sl x n : Nat) : Prop where
  dram : t.dram = s.dram
  codes : t.codes = s.codes
  apart : ∀ k : Nat × Nat, k ≠ (sl, x) → t.l2Find k.1 k.2 = s.l2Find k.1 k.2
  ways : ∀ k : Nat × Nat, (t.l2Ways k.1 k.2).length ≤ (s.l2Ways k.1 k.2).length + if sameSet k (sl, x) = true then n else 0

theorem State.touches.refl (s : State) (sl x n : Nat) : s.touches s sl x n := ⟨rfl, rfl, fun _ _ => rfl, fun _ => Nat.le_add_right _ _⟩

theorem State.touches.trans {s t u : State} {sl x m n r : Nat} (h : s.touches t sl x m) (k : t.touches u sl x n) (sum : m + n = r) :
    s.touches u sl x r := by
  subst sum
  refine ⟨k.dram.trans h.dram, k.codes.trans h.codes, fun y hy => (k.apart y hy).trans (h.apart y hy), fun y => ?_⟩
  have first := h.ways y
  have second := k.ways y
  by_cases same : sameSet y (sl, x) = true
  · rw [if_pos same] at *
    omega
  · rw [if_neg same] at *
    omega

theorem State.touches.mono {s t : State} {sl x m n : Nat} (h : s.touches t sl x m) (le : m ≤ n) : s.touches t sl x n := by
  refine ⟨h.dram, h.codes, h.apart, fun y => (h.ways y).trans ?_⟩
  split <;> omega

/-- The set of a line has room still, when nothing has come to it. -/
theorem State.touches.room {s t : State} {sl x n : Nat} (h : s.touches t sl x 0) (room : (s.l2Ways sl x).length + n ≤ 16) :
    (t.l2Ways sl x).length + n ≤ 16 := by
  have ways := h.ways (sl, x)
  rw [ite_self] at ways
  exact (Nat.add_le_add_right ways n).trans room

section
variable {s : State} {l : L2Line}

/-- A slice with room, or with the line, gives up no line for it. -/
theorem State.l2Put_eq (room : (s.l2Find l.slice l.line).isSome = true ∨ (s.l2Ways l.slice l.line).length + 1 ≤ 16) :
    s.l2Put l = { s with l2 := upsert (fun x => x.slice == l.slice && x.line == l.line) (fun _ => l) l s.l2 } := by
  have kept : s.l2Room l.slice l.line = s := by
    unfold State.l2Room
    refine if_pos ?_
    rw [Bool.or_eq_true, decide_eq_true_iff]
    exact room.imp_right Nat.lt_of_succ_le
  rw [State.l2Put, kept]

theorem L2Line.alike {i y : Nat} (m : L2Line) (h : (m.slice == l.slice && m.line == l.line) = true) :
    (m.slice == i && l2Set m.line == l2Set y) = (l.slice == i && l2Set l.line == l2Set y) := by
  rw [Bool.and_eq_true, beq_iff_eq, beq_iff_eq] at h
  rw [h.1, h.2]

theorem State.upsert_find_apart (l2 : List L2Line) {k : Nat × Nat} (hk : k ≠ (l.slice, l.line)) :
    ({ s with l2 := upsert (fun x => x.slice == l.slice && x.line == l.line) (fun _ => l) l l2 } : State).l2Find k.1 k.2 =
      ({ s with l2 := l2 } : State).l2Find k.1 k.2 := by
  have other (m : L2Line) (h : (m.slice == l.slice && m.line == l.line) = true) : (m.slice == k.1 && m.line == k.2) = false := by
    rw [Bool.and_eq_true, beq_iff_eq, beq_iff_eq] at h
    refine Bool.eq_false_iff.2 fun e => hk ?_
    rw [Bool.and_eq_true, beq_iff_eq, beq_iff_eq] at e
    rw [← h.1, ← h.2, e.1, e.2]
  exact find?_upsert_other _ (fun m : L2Line => m.slice == k.1 && m.line == k.2) l other (other l (by simp)) l2

theorem State.l2Put_touches_held {sl x : Nat} (hs : l.slice = sl) (hx : l.line = x) (held : (s.l2Find sl x).isSome = true) :
    s.touches (s.l2Put l) sl x 0 := by
  subst hs hx
  rw [State.l2Put_eq (.inl held)]
  exact ⟨rfl, rfl, fun k hk => s.upsert_find_apart s.l2 hk, fun k => (length_filter_upsert_held _ _ l L2Line.alike held).le.trans (Nat.le_add_right _ _)⟩

theorem State.l2Put_touches {sl x : Nat} (hs : l.slice = sl) (hx : l.line = x) (room : (s.l2Ways sl x).length + 1 ≤ 16) :
    s.touches (s.l2Put l) sl x 1 := by
  subst hs hx
  rw [State.l2Put_eq (.inr room)]
  exact ⟨rfl, rfl, fun k hk => s.upsert_find_apart s.l2 hk, fun k => length_filter_upsert_le _ _ l L2Line.alike s.l2⟩

end

theorem State.l2Drop_touches (s : State) (sl x : Nat) : s.touches (s.l2Drop sl x) sl x 0 := by
  refine ⟨rfl, rfl, fun k hk => ?_, fun k => (List.Sublist.length_le (List.filter_sublist.filter _)).trans (Nat.le_add_right _ _)⟩
  refine (find?_filter_key (fun l : L2Line => !(l.slice == sl && l.line == x)) _ s.l2 true fun l h => ?_).trans (if_pos rfl)
  rw [Bool.and_eq_true, beq_iff_eq, beq_iff_eq] at h
  rw [h.1, h.2, Bool.not_eq_true', Bool.eq_false_iff]
  intro e
  rw [Bool.and_eq_true, beq_iff_eq, beq_iff_eq] at e
  exact hk (Prod.ext e.1 e.2)

/-! ## A new translation, a fill and a merge (R62, R110) -/

/-- A line of a slice, if marked for retranslation, stands at an address or is not dirty: a translation to that address writes nothing back (R110). -/
def State.cleanAt (s : State) (sl x pa : Nat) : Prop := ∀ m, s.l2Find sl x = some m → m.retrans = true → m.pa = pa ∨ m.dirty = false

section
variable {s : State} {sl x : Nat} (leaf : Word) {pa : Nat}

theorem State.renew_touches (clean : s.cleanAt sl x pa) : s.touches (s.renew sl x leaf pa) sl x 0 := by
  unfold State.renew
  split
  next l held =>
    obtain ⟨rfl, rfl⟩ := State.l2Find_key held
    cases marked : l.retrans with
    | false => exact .refl _ _ _ _
    | true =>
      rw [if_neg (by simp)]
      split
      · have isHeld : (s.l2Find l.slice l.line).isSome = true := by rw [held]; rfl
        exact State.l2Put_touches_held rfl rfl isHeld
      next moved =>
        have dry : s.writeBackLine l = s := by
          rw [State.writeBackLine, (clean l held marked).resolve_left fun e => moved e.symm]
          rfl
        rw [dry]
        exact s.l2Drop_touches _ _
  next => exact .refl _ _ _ _

/-- A fill brings at most the line; one whose bytes DRAM has with an error brings nothing. -/
theorem State.fill_touches (pa : Nat) (room : (s.l2Ways sl x).length + 1 ≤ 16) :
    s.touches (s.fill sl x leaf pa).1 sl x 1 ∧
      (((s.fill sl x leaf pa).1.l2Find sl x).isSome = true ∨ s.touches (s.fill sl x leaf pa).1 sl x 0) := by
  have used : s.touches (s.dramUse (dramFlat pa)) sl x 0 := by
    rw [State.dramUse_eq]
    exact ⟨rfl, rfl, fun _ _ => rfl, fun _ => Nat.le_add_right _ _⟩
  unfold State.fill
  split
  next => exact ⟨.refl _ _ _ _, .inr (.refl _ _ _ _)⟩
  next =>
    dsimp only
    split
    · exact ⟨used.mono (Nat.zero_le 1), .inr used⟩
    · have put (l : L2Line) (hs : l.slice = sl) (hx : l.line = x) : s.touches ((s.dramUse (dramFlat pa)).l2Put l) sl x 1 :=
        used.trans (State.l2Put_touches hs hx (used.room room)) rfl
      exact ⟨put _ rfl rfl, .inl (by rw [State.l2Put_find]; rfl)⟩

theorem State.logError_touches (s : State) (p : Nat) (c t : BitVec 8) (a e : Word) (sl x : Nat) : s.touches (s.logError p c t a e) sl x 0 :=
  ⟨rfl, rfl, fun _ _ => rfl, fun _ => Nat.le_add_right _ _⟩

theorem State.lineUnder_touches (clean : s.cleanAt sl x pa) (room : (s.l2Ways sl x).length + 1 ≤ 16) (p : Nat) :
    s.touches (s.lineUnder p x sl leaf pa).1 sl x 1 := by
  have renewed := State.renew_touches leaf clean
  have filled := renewed.trans (State.fill_touches leaf pa (renewed.room room)).1 rfl
  unfold State.lineUnder
  dsimp only
  split
  · exact filled.trans (State.logError_touches ..) rfl
  · exact filled

theorem State.merge_touches (clean : s.cleanAt sl x pa) (room : (s.l2Ways sl x).length + 1 ≤ 16) (mask : BitVec 64) (data : Line) :
    s.touches (s.merge sl x leaf pa mask data) sl x 1 := by
  have renewed := State.renew_touches leaf clean
  have roomU := renewed.room room
  unfold State.merge
  generalize s.renew sl x leaf pa = u at *
  dsimp only
  split
  · exact renewed.trans (State.l2Put_touches rfl rfl roomU) rfl
  · generalize hf : State.fill u sl x _ _ = f
    obtain ⟨filled, heldOrNot⟩ := hf ▸ u.fill_touches _ _ roomU
    generalize hw : (if f.2.2 = true then f.1.logError noPcn 0 5 (BitVec.ofNat 64 (x * 64)) 0 else f.1) = w
    have logged : f.1.touches w sl x 0 ∧ w.l2Find sl x = f.1.l2Find sl x := by
      rw [← hw]
      split
      · exact ⟨State.logError_touches .., rfl⟩
      · exact ⟨.refl .., rfl⟩
    refine renewed.trans ?_ (Nat.zero_add 1)
    rcases heldOrNot with held | same
    · exact (filled.trans logged.1 rfl).trans (State.l2Put_touches_held rfl rfl (by rw [logged.2, held])) rfl
    · have quiet := same.trans logged.1 rfl
      exact quiet.trans (State.l2Put_touches rfl rfl (quiet.room roomU)) rfl

end

end Sys2Proof.Machine
end

section
/-! SUPPORT. Accesses of several lines, one after the other, while their sets have room (R61, R62, R132). -/

namespace Sys2Proof.Machine

/-- Two states have the same DRAM, and the same lines in the slices but those that a list names, each of which has brought at most one line to its set. No line has
been marked for retranslation meanwhile, and none that was not marked has gone. -/
structure State.touched (s t : State) (ks : List (Nat × Nat)) : Prop where
  dram : t.dram = s.dram
  codes : t.codes = s.codes
  apart : ∀ k : Nat × Nat, k ∉ ks → t.l2Find k.1 k.2 = s.l2Find k.1 k.2
  marks : ∀ (k : Nat × Nat) m, t.l2Find k.1 k.2 = some m → m.retrans = true → s.l2Find k.1 k.2 = some m
  kept : ∀ (k : Nat × Nat) m, s.l2Find k.1 k.2 = some m → m.retrans = false → ∃ m', t.l2Find k.1 k.2 = some m' ∧ m'.retrans = false
  ways : ∀ k : Nat × Nat, (t.l2Ways k.1 k.2).length ≤ (s.l2Ways k.1 k.2).length + ks.countP (sameSet k)

theorem State.touched.of_same {s t : State} (same : t.l2 = s.l2 ∧ t.dram = s.dram ∧ t.codes = s.codes) (ks : List (Nat × Nat)) : s.touched t ks := by
  obtain ⟨l2, dram, codes⟩ := same
  have find (i y : Nat) : t.l2Find i y = s.l2Find i y := by rw [State.l2Find, State.l2Find, l2]
  refine ⟨dram, codes, fun k _ => find _ _, fun k m h _ => (find _ _).symm.trans h, fun k m h unmarked => ⟨m, (find _ _).trans h, unmarked⟩, fun k => ?_⟩
  rw [State.l2Ways, State.l2Ways, l2]
  exact Nat.le_add_right _ _

theorem State.touched.trans {s t u : State} {ks ls : List (Nat × Nat)} (h : s.touched t ks) (g : t.touched u ls) : s.touched u (ks ++ ls) := by
  refine ⟨g.dram.trans h.dram, g.codes.trans h.codes, fun k hk => ?_, fun k m hm marked => ?_, fun k m hm unmarked => ?_, fun k => ?_⟩
  · rw [List.mem_append, not_or] at hk
    exact (g.apart k hk.2).trans (h.apart k hk.1)
  · exact h.marks k m (g.marks k m hm marked) marked
  · obtain ⟨m', hm', unmarked'⟩ := h.kept k m hm unmarked
    exact g.kept k m' hm' unmarked'
  · have first := h.ways k
    have second := g.ways k
    rw [List.countP_append]
    omega

theorem State.touches.touched {s t : State} {sl x : Nat} (h : s.touches t sl x 1) (unmarked : ∀ m, t.l2Find sl x = some m → m.retrans = false)
    (kept : ∀ m, s.l2Find sl x = some m → m.retrans = false → (t.l2Find sl x).isSome = true) : s.touched t [(sl, x)] := by
  refine ⟨h.dram, h.codes, fun k hk => h.apart k (by simpa using hk), fun k m hm marked => ?_, fun k m hm clear => ?_, fun k => ?_⟩
  · by_cases hk : k = (sl, x)
    · subst hk
      exact absurd ((unmarked m hm).symm.trans marked) Bool.false_ne_true
    · rwa [h.apart k hk] at hm
  · by_cases hk : k = (sl, x)
    · subst hk
      obtain ⟨m', hm'⟩ := Option.isSome_iff_exists.1 (kept m hm clear)
      exact ⟨m', hm', unmarked m' hm'⟩
    · exact ⟨m, (h.apart k hk).trans hm, clear⟩
  · rw [List.countP_singleton]
    exact h.ways k

/-! ## Room for a list of lines -/

/-- The sets of a list of lines have room for all of them (R61). -/
def State.fits (s : State) (ks : List (Nat × Nat)) : Prop := ∀ k ∈ ks, (s.l2Ways k.1 k.2).length + ks.countP (sameSet k) ≤ 16

theorem sameSet_self (k : Nat × Nat) : sameSet k k = true := by simp [sameSet]

section
variable {s t : State} {ks ls : List (Nat × Nat)}

theorem State.fits.head {k : Nat × Nat} (h : s.fits (k :: ks)) : (s.l2Ways k.1 k.2).length + 1 ≤ 16 := by
  have room := h k List.mem_cons_self
  rw [List.countP_cons_of_pos (sameSet_self k)] at room
  omega

/-- What has been touched leaves the room for the rest. -/
theorem State.touched.fits (h : s.touched t ks) (room : s.fits (ks ++ ls)) : t.fits ls := by
  intro k hk
  have before := room k (List.mem_append_right ks hk)
  have ways := h.ways k
  rw [List.countP_append] at before
  omega

theorem State.fits.left (h : s.fits (ks ++ ls)) : s.fits ks := by
  intro k hk
  have all := h k (List.mem_append_left ls hk)
  rw [List.countP_append] at all
  omega

theorem State.touched.cleanAt {sl x pa : Nat} (h : s.touched t ks) (clean : s.cleanAt sl x pa) : t.cleanAt sl x pa :=
  fun m hm marked => clean m (h.marks (sl, x) m hm marked) marked

end

/-! ## A merge and a fill -/

section
variable {s : State} {sl x : Nat} (leaf : Word) {pa : Nat}

theorem State.merge_touched (clean : s.cleanAt sl x pa) (room : (s.l2Ways sl x).length + 1 ≤ 16) (mask : BitVec 64) (data : Line) :
    s.touched (s.merge sl x leaf pa mask data) [(sl, x)] := by
  obtain ⟨m, found, merged⟩ := s.merge_find sl x leaf pa mask data
  refine (State.merge_touches leaf clean room mask data).touched (fun m' hm' => ?_) fun _ _ _ => by rw [found]; rfl
  cases found.symm.trans hm'
  exact merged.unmarked

/-- A line that a slice has filled is not marked, when it was not. -/
theorem State.fill_find_unmarked (unmarked : ∀ m, s.l2Find sl x = some m → m.retrans = false) (pa : Nat) {m : L2Line}
    (h : (s.fill sl x leaf pa).1.l2Find sl x = some m) : m.retrans = false := by
  unfold State.fill at h
  split at h
  next l held => exact unmarked m h
  next absent =>
    dsimp only at h
    split at h
    · rw [State.dramUse_eq] at h
      exact absurd (absent.symm.trans h) (by simp)
    · cases (State.l2Put_find _ _).symm.trans h
      rfl

theorem State.lineUnder_l2 (s : State) (p x sl : Nat) (leaf : Word) (pa : Nat) :
    (s.lineUnder p x sl leaf pa).1.l2 = ((s.renew sl x leaf pa).fill sl x leaf pa).1.l2 := by
  unfold State.lineUnder
  dsimp only
  split <;> rfl

/-- A line that its slice holds unmarked leaves the slice as it is. -/
theorem State.lineUnder_l2_held {m : L2Line} (held : s.l2Find sl x = some m) (unmarked : m.retrans = false) (p pa : Nat) :
    (s.lineUnder p x sl leaf pa).1.l2 = s.l2 := by
  have only (m' : L2Line) (h : s.l2Find sl x = some m') : m'.retrans = false := by
    cases held.symm.trans h
    exact unmarked
  rw [State.lineUnder_l2, State.renew_unmarked only, State.fill_held held]

theorem State.lineUnder_touched (clean : s.cleanAt sl x pa) (room : (s.l2Ways sl x).length + 1 ≤ 16) (p : Nat) :
    s.touched (s.lineUnder p x sl leaf pa).1 [(sl, x)] := by
  refine (State.lineUnder_touches leaf clean room p).touched (fun m hm => ?_) fun m hm unmarked => ?_
  · rw [State.l2Find, State.lineUnder_l2] at hm
    exact State.fill_find_unmarked leaf (fun _ => State.renew_find_unmarked) pa hm
  · rw [State.l2Find, State.lineUnder_l2_held leaf hm unmarked]
    exact Option.isSome_iff_exists.2 ⟨m, hm⟩

end

end Sys2Proof.Machine
end

section
/-! SUPPORT. The bytes of a granted chunk leave, line by line (R58, R76, R78, R132). -/

namespace Sys2Proof.Machine

/-- Steps that each touch the lines of their own, while there is room for all of them, and keep an invariant. -/
theorem State.touched_foldl {α : Type} {f : State → α → State} {keys : α → List (Nat × Nat)} {ready : State → α → Prop} (inv : State → Prop)
    (one : ∀ s a, inv s → ready s a → s.fits (keys a) → s.touched (f s a) (keys a) ∧ inv (f s a))
    (stays : ∀ s t ks a, s.touched t ks → ready s a → ready t a) (l : List α) (s : State) (start : inv s) (all : ∀ a ∈ l, ready s a)
    (room : s.fits (l.flatMap keys)) : s.touched (l.foldl f s) (l.flatMap keys) := by
  induction l generalizing s with
  | nil => exact .of_same (by exact ⟨rfl, rfl, rfl⟩) _
  | cons a l ih =>
    rw [List.flatMap_cons] at room ⊢
    obtain ⟨first, next⟩ := one s a start (all a List.mem_cons_self) room.left
    exact first.trans (ih _ next (fun b hb => stays _ _ _ _ first (all b (List.mem_cons_of_mem a hb))) (first.fits room))

/-! ## The lines of the own node (R62) -/

/-- The line of a write of the own node at its home; none of any other write. -/
def ownKeys (d : Nat × Dest) : List (Nat × Nat) := match d.2 with
  | .own _ _ => [(homeOf d.1, d.1)]
  | _ => []

/-- A write of the own node finds no other translation at its home. -/
def State.ownReady (s : State) (d : Nat × Dest) : Prop := ∀ leaf pa, d.2 = .own leaf pa → s.cleanAt (homeOf d.1) d.1 pa

/-- A line whose moved mark a write has cleared (R372). -/
def State.unmoved (s : State) (x : Nat) : State := { s with moved := s.moved.filter fun y => y != x }

section
variable (s : State) (o : Owner) (sys : Bool) (buf : List Host.Cell)

theorem State.sendLine_touched (d : Nat × Dest) (ready : s.ownReady d) (room : s.fits (ownKeys d)) :
    s.touched (s.sendLine o sys buf d) (ownKeys d) := by
  obtain ⟨x, dst⟩ := d
  cases dst with
  | own leaf pa =>
    have clean : (s.unmoved x).cleanAt (homeOf x) x pa := ready leaf pa rfl
    have unmoved : s.touched (s.unmoved x) [] := .of_same (by exact ⟨rfl, rfl, rfl⟩) _
    exact unmoved.trans (State.merge_touched leaf clean room.head _ _)
  | repl leaf pa => exact .of_same (by exact ⟨rfl, rfl, rfl⟩) _
  | host hpa => exact .of_same (by exact ⟨rfl, rfl, rfl⟩) _
  | remote => exact .of_same (by exact ⟨rfl, rfl, rfl⟩) _

/-- The writes of a chunk to its own node, while their homes have room, touch their lines alone. -/
theorem State.sendLines_touched (l : List (Nat × Dest)) (ready : ∀ d ∈ l, s.ownReady d) (room : s.fits (l.flatMap ownKeys)) :
    s.touched (l.foldl (fun t d => t.sendLine o sys buf d) s) (l.flatMap ownKeys) :=
  State.touched_foldl (fun _ => True) (fun t d _ clean fits => ⟨t.sendLine_touched o sys buf d clean fits, trivial⟩)
    (fun _ _ _ _ touched clean leaf pa own => touched.cleanAt (clean leaf pa own)) l s trivial ready room

/-! ## The active core, and what a write leaves outside -/

@[simp] theorem State.sendLine_core (d : Nat × Dest) : (s.sendLine o sys buf d).core = s.core := by
  obtain ⟨x, dst⟩ := d
  cases dst with
  | own leaf pa => exact (s.unmoved x).merge_core ..
  | _ => rfl

theorem State.merge_outside (sl x : Nat) (leaf : Word) (pa : Nat) (mask : BitVec 64) (data : Line) :
    (s.merge sl x leaf pa mask data).outside = s.outside := by
  have renewed := s.renew_outside sl x leaf pa
  unfold State.merge
  generalize s.renew sl x leaf pa = u at *
  dsimp only
  split
  · rw [State.l2Put_outside, renewed]
  · have filled (leaf : Word) (pa : Nat) := (u.fill_outside sl x leaf pa).trans renewed
    rw [State.l2Put_outside]
    split <;> (dsimp only; split <;> exact filled _ _)

theorem State.sendLine_own_outside (x : Nat) (leaf : Word) (pa : Nat) : (s.sendLine o sys buf (x, .own leaf pa)).outside = s.outside :=
  (s.unmoved x).merge_outside ..

@[simp] theorem State.sendLine_steady (d : Nat × Dest) : (s.sendLine o sys buf d).steady = s.steady := by
  obtain ⟨x, dst⟩ := d
  cases dst with
  | own leaf pa => exact congrArg Prod.fst (s.sendLine_own_outside o sys buf x leaf pa)
  | _ => rfl

theorem State.sendLines_core (l : List (Nat × Dest)) : (l.foldl (fun t d => t.sendLine o sys buf d) s).core = s.core :=
  State.foldl_keeps id _ (fun t d => t.sendLine_core o sys buf d) l s

theorem State.sendLines_steady (l : List (Nat × Dest)) : (l.foldl (fun t d => t.sendLine o sys buf d) s).steady = s.steady := by
  induction l generalizing s with
  | nil => rfl
  | cons d l ih => rw [List.foldl_cons, ih, State.sendLine_steady]

end

/-! ## What joins the sequencer, and what leaves for the host and for other nodes (R76, R78) -/

/-- The replicated lines of a list of writes. -/
def replsOf (l : List (Nat × Dest)) : List (Nat × Word × Nat) :=
  l.filterMap fun e => match e.2 with | .repl leaf pa => some (e.1, leaf, pa) | _ => none

/-- The lines of host memory. -/
def hostsOf (l : List (Nat × Dest)) : List (Nat × Nat) := l.filterMap fun e => match e.2 with | .host a => some (e.1, a) | _ => none

/-- The lines of other nodes. -/
def nodesOf (l : List (Nat × Dest)) : List Nat := l.filterMap fun e => match e.2 with | .remote => some e.1 | _ => none

/-- The write of a line that leaves for the host or for another node. -/
def farLine (o : Owner) (sys : Bool) (buf : List Host.Cell) (x base : Nat) (port : Option Nat) : FarWrite :=
  ⟨o.pcn, o, sys, lineCells buf x base, none, port, x, false⟩

theorem State.routePort_congr {s t : State} (h : t.steady = s.steady) (va features : Nat) : t.routePort va features = s.routePort va features := by
  have ports : t.ports = s.ports := congrArg Steady.ports h
  have route : t.mgmt.route = s.mgmt.route := congrArg Steady.route h
  rw [State.routePort, State.routePort, State.routeMask, State.routeMask, ports, route]

section
variable (o : Owner) (sys : Bool) (buf : List Host.Cell) (l : List (Nat × Dest)) (s : State)

theorem State.sendLines_seqQueue (first n : Nat) (next : s.seqNext = first + n) : (l.foldl (fun t d => t.sendLine o sys buf d) s).seqQueue =
    s.seqQueue ++ ((replsOf l).zipIdx n).map fun e =>
      ⟨first + e.2, e.1.1, (bufLine buf e.1.1).1, (bufLine buf e.1.1).2, e.1.2.1, e.1.2.2, o.pcn⟩ := by
  induction l generalizing s n with
  | nil => exact (List.append_nil _).symm
  | cons d l ih =>
    obtain ⟨x, dst⟩ := d
    rw [List.foldl_cons]
    cases dst with
    | own leaf pa =>
      have kept := congrArg Prod.snd (s.sendLine_own_outside o sys buf x leaf pa)
      rw [ih _ n ((congrArg Leaving.seqNext kept).trans next)]
      exact congrArg (· ++ _) (congrArg Leaving.seqQueue kept)
    | repl leaf pa =>
      have sent : (s.sendLine o sys buf (x, .repl leaf pa)).seqQueue =
          s.seqQueue ++ [⟨first + n, x, (bufLine buf x).1, (bufLine buf x).2, leaf, pa, o.pcn⟩] := by
        rw [← next]
        rfl
      rw [ih _ (n + 1) (congrArg (· + 1) next), sent, List.append_assoc]
      rfl
    | host hpa => exact ih _ n next
    | remote => exact ih _ n next

theorem State.sendLines_hostWrites : (l.foldl (fun t d => t.sendLine o sys buf d) s).hostWrites =
    s.hostWrites ++ (hostsOf l).map fun e => farLine o sys buf e.1 e.2 none := by
  induction l generalizing s with
  | nil => exact (List.append_nil _).symm
  | cons d l ih =>
    obtain ⟨x, dst⟩ := d
    rw [List.foldl_cons, ih]
    cases dst with
    | own leaf pa =>
      have kept := congrArg Prod.snd (s.sendLine_own_outside o sys buf x leaf pa)
      exact congrArg (· ++ _) (congrArg Leaving.hostWrites kept)
    | host hpa => exact List.append_assoc ..
    | _ => rfl

theorem State.sendLines_remoteWrites : (l.foldl (fun t d => t.sendLine o sys buf d) s).remoteWrites =
    s.remoteWrites ++ (nodesOf l).map fun x => farLine o sys buf x (64 * x) (s.routePort (64 * x) 0) := by
  induction l generalizing s with
  | nil => exact (List.append_nil _).symm
  | cons d l ih =>
    have steady := s.sendLine_steady o sys buf d
    simp only [List.foldl_cons, ih, State.routePort_congr steady]
    obtain ⟨x, dst⟩ := d
    cases dst with
    | own leaf pa =>
      have kept := congrArg Prod.snd (s.sendLine_own_outside o sys buf x leaf pa)
      exact congrArg (· ++ _) (congrArg Leaving.remoteWrites kept)
    | remote =>
      have sent : (s.sendLine o sys buf (x, .remote)).remoteWrites = s.remoteWrites ++ [farLine o sys buf x (64 * x) (s.routePort (64 * x) 0)] := by
        rw [Nat.mul_comm 64 x]
        rfl
      rw [sent, List.append_assoc]
      rfl
    | _ => rfl

end

end Sys2Proof.Machine
end

section
/-! SUPPORT. The L1 of a core whose chunk has committed (R59, R78, R443). -/

namespace Sys2Proof.Machine

/-! ## The lines of an L1 -/

/-- What an L1 lists for a line. -/
def Core.linesAt (c : Core) (x : Nat) : List L1Line := c.l1.filter fun l => l.line == x

theorem Core.l1Find_linesAt (c : Core) (x : Nat) : c.l1Find x = ((c.linesAt x).find? fun l => !l.bad).map (·.data) := by
  rw [Core.l1Find, Core.linesAt, List.find?_filter]
  congr 2
  funext l
  rw [Bool.decide_and, Bool.decide_eq_true, Bool.decide_eq_true]

theorem Core.l1Find_congr {c e : Core} {x : Nat} (h : e.linesAt x = c.linesAt x) : e.l1Find x = c.l1Find x := by
  rw [Core.l1Find_linesAt, Core.l1Find_linesAt, h]

theorem Core.linesAt_l1Drop_same (c : Core) (x : Nat) : (c.l1Drop x).linesAt x = [] := by
  refine List.filter_eq_nil_iff.2 fun l hl own => ?_
  have apart := (List.mem_filter.1 hl).2
  rw [bne_iff_ne] at apart
  exact apart (beq_iff_eq.1 own)

theorem Core.linesAt_l1Drop_other (c : Core) {x y : Nat} (h : y ≠ x) : (c.l1Drop x).linesAt y = c.linesAt y := by
  refine (List.filter_filter ..).trans (List.filter_congr fun l _ => ?_)
  by_cases own : l.line = y
  · simp [own, h]
  · simp [own]

theorem Core.l1Drop_length (c : Core) (x : Nat) : (c.l1Drop x).l1.length ≤ c.l1.length := List.length_filter_le ..

/-- Between chunks an L1 with a free place gives up no line for another. -/
theorem Core.l1Room_of_space {c : Core} (between : c.chunk = none) (space : c.l1.length < 512) (x : Nat) : c.l1Room x = c := by
  have spec : c.specLines = [] := by rw [Core.specLines, between]
  have held : c.l1Held < l1Capacity := by
    rw [Core.l1Held, spec]
    exact Nat.lt_of_le_of_lt (List.length_filter_le ..) space
  rw [Core.l1Room, decide_eq_true held, Bool.or_true, if_pos rfl]

section
variable {c : Core} (between : c.chunk = none) (space : c.l1.length < 512) (x : Nat) (d : Line)
include between space

theorem Core.l1Put_l1 : (c.l1Put x d).l1 = (c.l1Drop x).l1 ++ [⟨x, d, false⟩] := by
  rw [Core.l1Put, Core.l1Room_of_space between space]

theorem Core.linesAt_l1Put_same : (c.l1Put x d).linesAt x = [⟨x, d, false⟩] := by
  have gone := c.linesAt_l1Drop_same x
  unfold Core.linesAt at *
  rw [Core.l1Put_l1 between space, List.filter_append, gone]
  simp

theorem Core.linesAt_l1Put_other {y : Nat} (h : y ≠ x) : (c.l1Put x d).linesAt y = c.linesAt y := by
  have kept := c.linesAt_l1Drop_other h
  have h' : (x == y) = false := beq_false_of_ne h.symm
  unfold Core.linesAt at *
  rw [Core.l1Put_l1 between space, List.filter_append, kept, List.filter_cons, h']
  exact List.append_nil _

theorem Core.l1Put_length : (c.l1Put x d).l1.length ≤ c.l1.length + 1 := by
  rw [Core.l1Put_l1 between space, List.length_append]
  exact Nat.add_le_add_right (c.l1Drop_length x) 1

end

/-! ## A line with an error (R443) -/

/-- A core whose L1 has lost a line that it held with an uncorrectable error. -/
def Core.healed (c : Core) (x : Nat) : Core := if (c.l1.any fun l => l.line == x && l.bad) = true then c.l1Drop x else c

theorem Core.healed_eq (c : Core) (x : Nat) : c.healed x = { c with l1 := (c.healed x).l1 } := by
  unfold Core.healed
  split <;> rfl

theorem Core.healed_of_good {c : Core} {x : Nat} (h : ∀ l ∈ c.linesAt x, l.bad = false) : c.healed x = c := by
  refine if_neg fun bad => ?_
  obtain ⟨l, hl, atX⟩ := List.any_eq_true.1 bad
  rw [Bool.and_eq_true] at atX
  exact absurd ((h l (List.mem_filter.2 ⟨hl, atX.1⟩)).symm.trans atX.2) Bool.false_ne_true

theorem Core.healed_length (c : Core) (x : Nat) : (c.healed x).l1.length ≤ c.l1.length := by
  unfold Core.healed
  split
  · exact c.l1Drop_length x
  · exact Nat.le_refl _

theorem Core.linesAt_healed_other (c : Core) {x y : Nat} (h : y ≠ x) : (c.healed x).linesAt y = c.linesAt y := by
  unfold Core.healed
  split
  · exact c.linesAt_l1Drop_other h
  · rfl

theorem State.l1Heal_core (s : State) (x : Nat) : (s.l1Heal x).core = s.core.healed x := by
  unfold State.l1Heal Core.healed
  split <;> rfl

theorem State.l1Heal_outside (s : State) (x : Nat) : (s.l1Heal x).outside = s.outside := by
  unfold State.l1Heal
  split <;> rfl

theorem State.l1Heal_touched (s : State) (x : Nat) (ks : List (Nat × Nat)) : s.touched (s.l1Heal x) ks := by
  unfold State.l1Heal
  split <;> exact .of_same (by exact ⟨rfl, rfl, rfl⟩) _

/-! ## A line that a commit has stored to (R59, R78) -/

/-- The active core's L1 holds a line, with the bytes of a buffer over those under them. -/
def State.cached (s : State) (buf : List Host.Cell) (x : Nat) (under : Line) : State := { s with core := s.core.l1Put x (overlayLine buf x under) }

/-- What becomes of a line that the active core p has committed to: one of a far memory goes; one of the own node is held, over the bytes that the L1 had of it
or over those that its slice gives, unless these have an error. -/
inductive State.keeps (s : State) (p : Nat) (buf : List Host.Cell) (d : Nat × Dest) : State → Prop where
  | far (h : d.2.source p d.1 = none) : s.keeps p buf d { s with core := s.core.l1Drop d.1 }
  | held {sl : Nat} {leaf : Word} {pa : Nat} {l : Line} (h : d.2.source p d.1 = some (sl, leaf, pa)) (found : (s.core.healed d.1).l1Find d.1 = some l) :
    s.keeps p buf d ((s.l1Heal d.1).cached buf d.1 l)
  | filled {sl : Nat} {leaf : Word} {pa : Nat} {l : Line} (h : d.2.source p d.1 = some (sl, leaf, pa)) (absent : (s.core.healed d.1).l1Find d.1 = none)
    (found : ((s.l1Heal d.1).lineUnder p d.1 sl leaf pa).2 = some l) : s.keeps p buf d (((s.l1Heal d.1).lineUnder p d.1 sl leaf pa).1.cached buf d.1 l)
  | refused {sl : Nat} {leaf : Word} {pa : Nat} (h : d.2.source p d.1 = some (sl, leaf, pa)) (absent : (s.core.healed d.1).l1Find d.1 = none)
    (bad : ((s.l1Heal d.1).lineUnder p d.1 sl leaf pa).2 = none) : s.keeps p buf d ((s.l1Heal d.1).lineUnder p d.1 sl leaf pa).1

theorem State.select_active {s : State} {p : Nat} (h : s.core.pcn = p) : s.select p = s := if_pos h

theorem State.modCore_active {s : State} {p : Nat} (h : s.core.pcn = p) {f : Core → Core} (hf : (f s.core).pcn = s.core.pcn) :
    s.modCore p f = { s with core := f s.core } := by
  have own : s.getCore p = s.core := if_pos h
  rw [State.modCore, own, State.putCore, if_pos hf.symm]

@[simp] theorem Core.healed_pcn (c : Core) (x : Nat) : (c.healed x).pcn = c.pcn := by rw [Core.healed_eq]

theorem State.keepLine_keeps {s : State} {p : Nat} (active : s.core.pcn = p) (buf : List Host.Cell) (d : Nat × Dest) :
    s.keeps p buf d (s.keepLine p buf d) := by
  have healed : (s.l1Heal d.1).core.pcn = p := by rw [State.l1Heal_core, Core.healed_pcn, active]
  cases h : d.2.source p d.1 with
  | none =>
    have gone : s.keepLine p buf d = { s with core := s.core.l1Drop d.1 } := by
      simp only [State.keepLine, h]
      exact State.modCore_active active rfl
    rw [gone]
    exact .far h
  | some src =>
    obtain ⟨sl, leaf, pa⟩ := src
    have put {t : State} (ht : t.core.pcn = p) (l : Line) : (t.modCore p fun c => c.l1Put d.1 (overlayLine buf d.1 l)) = t.cached buf d.1 l :=
      State.modCore_active ht (Core.l1Put_pcn ..)
    simp only [State.keepLine, h, State.select_active active]
    cases found : (s.l1Heal d.1).core.l1Find d.1 with
    | some l =>
      dsimp only
      rw [put healed]
      exact .held h (by rw [← State.l1Heal_core, found])
    | none =>
      have absent : (s.core.healed d.1).l1Find d.1 = none := by rw [← State.l1Heal_core, found]
      dsimp only
      cases under : ((s.l1Heal d.1).lineUnder p d.1 sl leaf pa).2 with
      | some l =>
        dsimp only
        rw [put (by rw [State.lineUnder_core, healed])]
        exact .filled h absent under
      | none => exact .refused h absent under

end Sys2Proof.Machine
end

section
/-! SUPPORT. What the commit of a chunk leaves in its core's L1 and in the slices that fill it (R58, R59, R78). -/

namespace Sys2Proof.Machine

/-! ## The slice that fills the L1 -/

theorem foldl_id_of_forall {α β : Type} {f : β → α → β} {b : β} (l : List α) (h : ∀ a ∈ l, f b a = b) : l.foldl f b = b := by
  induction l with
  | nil => rfl
  | cons a l ih => rw [List.foldl_cons, h a List.mem_cons_self, ih fun c hc => h c (List.mem_cons_of_mem a hc)]

/-- A line with no update in the sequencer's queue. -/
theorem State.ownUpdates_none {s : State} {x : Nat} (h : ∀ u ∈ s.seqQueue, u.line ≠ x) (p : Nat) (l : Line) : s.ownUpdates p x l = l :=
  foldl_id_of_forall _ fun u hu => if_neg fun own => h u hu own.2.1

section
variable {s : State} {sl x : Nat} {m : L2Line} (held : s.l2Find sl x = some m) (unmarked : m.retrans = false) (p : Nat) (leaf : Word) (pa : Nat)
include held unmarked

theorem State.renew_held : s.renew sl x leaf pa = s := by
  refine State.renew_unmarked (fun m' h => ?_) leaf pa
  cases held.symm.trans h
  exact unmarked

theorem State.lineUnder_touched_held (ks : List (Nat × Nat)) : s.touched (s.lineUnder p x sl leaf pa).1 ks := by
  unfold State.lineUnder
  rw [State.renew_held held unmarked, State.fill_held held]
  dsimp only
  split <;> exact .of_same (by exact ⟨rfl, rfl, rfl⟩) _

/-- A slice gives the bytes of a line that it holds, with no update under way. -/
theorem State.lineUnder_held (good : m.bad = false) (quiet : ∀ u ∈ s.seqQueue, u.line ≠ x) : (s.lineUnder p x sl leaf pa).2 = some m.data := by
  unfold State.lineUnder
  rw [State.renew_held held unmarked, State.fill_held held, good]
  exact congrArg some (State.ownUpdates_none quiet p m.data)

end

/-! ## The core -/

theorem Core.l1Put_eq (c : Core) (x : Nat) (d : Line) : c.l1Put x d = { c with l1 := (c.l1Put x d).l1 } := by
  have room : c.l1Room x = { c with l1 := (c.l1Room x).l1 } := by
    unfold Core.l1Room
    split
    · rfl
    · split <;> rfl
  rw [Core.l1Put, room]
  rfl

/-- Between chunks, an L1 with a free place then holds the line with the buffer's bytes. -/
theorem State.cached_find {u : State} {c : Core} {x : Nat} (core : u.core = c.healed x) (between : c.chunk = none) (space : c.l1.length < 512)
    (buf : List Host.Cell) (l : Line) : (u.cached buf x l).core.l1Find x = some (overlayLine buf x l) := by
  have healed := c.healed_length x
  show (u.core.l1Put x _).l1Find x = _
  rw [core, Core.l1Find_linesAt, Core.linesAt_l1Put_same (by rw [Core.healed_eq, between]) (by omega)]
  rfl

theorem State.touched.cached {s u : State} {ks : List (Nat × Nat)} (h : s.touched u ks) (buf : List Host.Cell) (x : Nat) (l : Line) :
    s.touched (u.cached buf x l) ks := ⟨h.dram, h.codes, h.apart, h.marks, h.kept, h.ways⟩

section
variable {s t : State} {p : Nat} {buf : List Host.Cell} {d : Nat × Dest} (k : s.keeps p buf d t)
include k

/-- Of the active core only the L1 changes: the line goes, or it takes the place of what was there, or only a copy with an error goes. -/
theorem State.keeps.core_cases : t.core = s.core.l1Drop d.1 ∨ (∃ e, t.core = (s.core.healed d.1).l1Put d.1 e) ∨ t.core = s.core.healed d.1 := by
  cases k with
  | far h => exact .inl rfl
  | @held _ _ _ l h found =>
    refine .inr (.inl ⟨overlayLine buf d.1 l, ?_⟩)
    rw [← State.l1Heal_core]
    rfl
  | @filled sl leaf pa l h absent found =>
    refine .inr (.inl ⟨overlayLine buf d.1 l, ?_⟩)
    rw [← State.l1Heal_core, ← (s.l1Heal d.1).lineUnder_core p d.1 sl leaf pa]
    rfl
  | refused h absent bad => exact .inr (.inr (by rw [State.lineUnder_core, State.l1Heal_core]))

theorem State.keeps.core : t.core = { s.core with l1 := t.core.l1 } := by
  rcases k.core_cases with h | ⟨e, h⟩ | h
  · rw [h]
    rfl
  · rw [h, Core.l1Put_eq, Core.healed_eq]
  · rw [h, Core.healed_eq]

theorem State.keeps.outside : t.outside = s.outside := by
  cases k with
  | far h => rfl
  | held h found => exact s.l1Heal_outside d.1
  | filled h absent found => exact (State.lineUnder_outside ..).trans (s.l1Heal_outside d.1)
  | refused h absent bad => exact (State.lineUnder_outside ..).trans (s.l1Heal_outside d.1)

section
variable (between : s.core.chunk = none) (space : s.core.l1.length < 512)
include between space

theorem State.keeps.length : t.core.l1.length ≤ s.core.l1.length + 1 := by
  have healed := s.core.healed_length d.1
  rcases k.core_cases with h | ⟨e, h⟩ | h <;> rw [h]
  · exact (s.core.l1Drop_length d.1).trans (Nat.le_succ _)
  · refine (Core.l1Put_length ?_ (by omega) d.1 e).trans (Nat.add_le_add_right healed 1)
    rw [Core.healed_eq, between]
  · exact healed.trans (Nat.le_succ _)

theorem State.keeps.linesAt_other {y : Nat} (h : y ≠ d.1) : t.core.linesAt y = s.core.linesAt y := by
  have healed := s.core.healed_length d.1
  rcases k.core_cases with hc | ⟨e, hc⟩ | hc <;> rw [hc]
  · exact s.core.linesAt_l1Drop_other h
  · rw [Core.linesAt_l1Put_other (by rw [Core.healed_eq, between]) (by omega) d.1 e h, s.core.linesAt_healed_other h]
  · exact s.core.linesAt_healed_other h

/-- A line of the own node that the L1 held stays, with the committed bytes (R59). -/
theorem State.keeps.find_held {src : Nat × Word × Nat} (near : d.2.source p d.1 = some src) {l : Line} (held : s.core.linesAt d.1 = [⟨d.1, l, false⟩]) :
    t.core.l1Find d.1 = some (overlayLine buf d.1 l) := by
  have same : s.core.healed d.1 = s.core := Core.healed_of_good fun m hm => by
    rw [held, List.mem_singleton] at hm
    rw [hm]
  have here : (s.core.healed d.1).l1Find d.1 = some l := by
    rw [same, Core.l1Find_linesAt, held]
    rfl
  cases k with
  | far h => exact absurd (h.symm.trans near) (by simp)
  | held h found =>
    cases here.symm.trans found
    exact State.cached_find (s.l1Heal_core d.1) between space buf l
  | filled h absent found => exact absurd (absent.symm.trans here) (by simp)
  | refused h absent bad => exact absurd (absent.symm.trans here) (by simp)

/-- A line of the own node that the L1 did not hold comes from its home, where it stands with the committed bytes already (R59, log entry 65). -/
theorem State.keeps.find_home {leaf : Word} {pa : Nat} {m : L2Line} {old : Line} (own : d.2 = .own leaf pa) (empty : s.core.linesAt d.1 = [])
    (held : s.l2Find (homeOf d.1) d.1 = some m) (unmarked : m.retrans = false) (good : m.bad = false) (quiet : ∀ u ∈ s.seqQueue, u.line ≠ d.1)
    (bytes : ∀ j, j < 64 → lineByte m.data j = (bufByte buf (64 * d.1 + j)).getD (lineByte old j)) : t.core.l1Find d.1 = some m.data := by
  have source : d.2.source p d.1 = some (homeOf d.1, leaf, pa) := by rw [own]; rfl
  have healed : s.core.healed d.1 = s.core := Core.healed_of_good fun m hm => by
    rw [empty] at hm
    cases hm
  have missing : (s.core.healed d.1).l1Find d.1 = none := by
    rw [healed, Core.l1Find_linesAt, empty]
    rfl
  have queue : (s.l1Heal d.1).seqQueue = s.seqQueue := congrArg (·.2.seqQueue) (s.l1Heal_outside d.1)
  have find : (s.l1Heal d.1).l2Find (homeOf d.1) d.1 = some m := ((s.l1Heal_touched d.1 []).apart (homeOf d.1, d.1) (by simp)).trans held
  have under := State.lineUnder_held find unmarked p leaf pa good (by rwa [queue])
  cases k with
  | far h => exact absurd (h.symm.trans source) (by simp)
  | held h found => exact absurd (missing.symm.trans found) (by simp)
  | filled h absent found =>
    cases h.symm.trans source
    cases under.symm.trans found
    rw [State.cached_find (by rw [State.lineUnder_core, State.l1Heal_core]) between space, overlayLine_of_held bytes]
  | refused h absent bad =>
    cases h.symm.trans source
    exact absurd (bad.symm.trans under) (by simp)

end

/-- A line of host memory or of another node is Invalid after the commit (R78). -/
theorem State.keeps.find_far (far : d.2.source p d.1 = none) : t.core.l1Find d.1 = none := by
  cases k with
  | far h =>
    show (s.core.l1Drop d.1).l1Find d.1 = none
    rw [Core.l1Find_linesAt, Core.linesAt_l1Drop_same]
    rfl
  | held h found => exact absurd (far.symm.trans h) (by simp)
  | filled h absent found => exact absurd (far.symm.trans h) (by simp)
  | refused h absent bad => exact absurd (far.symm.trans h) (by simp)

end

/-! ## The slices of all lines -/

/-- The line of a replicated write at the replica home of its die; none of any other write. -/
def replKeys (p : Nat) (d : Nat × Dest) : List (Nat × Nat) := match d.2 with
  | .repl _ _ => [(replHome d.1 (dieOf p), d.1)]
  | _ => []

/-- A line that has been committed to stands at its home, and one of a replicated page finds no other translation at its replica home. -/
def State.fillReady (p : Nat) (s : State) (d : Nat × Dest) : Prop :=
  (∀ leaf pa, d.2 = .own leaf pa → ∃ m, s.l2Find (homeOf d.1) d.1 = some m ∧ m.retrans = false) ∧
    ∀ leaf pa, d.2 = .repl leaf pa → s.cleanAt (replHome d.1 (dieOf p)) d.1 (pa + dieOf p * 2 ^ 38)

section
variable {s t : State} {p : Nat} {buf : List Host.Cell} {d : Nat × Dest} {sl : Nat} {leaf : Word} {pa : Nat}

theorem State.touched.fillReady {ks : List (Nat × Nat)} (h : s.touched t ks) (ready : s.fillReady p d) : t.fillReady p d := by
  refine ⟨fun leaf pa own => ?_, fun leaf pa repl => h.cleanAt (ready.2 leaf pa repl)⟩
  obtain ⟨m, found, unmarked⟩ := ready.1 leaf pa own
  exact h.kept (homeOf d.1, d.1) m found unmarked

theorem State.lineUnder_source_touched (near : d.2.source p d.1 = some (sl, leaf, pa)) (ready : s.fillReady p d) (room : s.fits (replKeys p d)) :
    s.touched (s.lineUnder p d.1 sl leaf pa).1 (replKeys p d) := by
  obtain ⟨x, dst⟩ := d
  cases dst with
  | own leaf' pa' =>
    cases near
    obtain ⟨m, held, unmarked⟩ := ready.1 leaf pa rfl
    exact State.lineUnder_touched_held held unmarked p leaf pa _
  | repl leaf' pa' =>
    cases near
    exact State.lineUnder_touched leaf (ready.2 leaf pa' rfl) room.head p
  | host hpa => cases near
  | remote => cases near

theorem State.keeps.touched (k : s.keeps p buf d t) (ready : s.fillReady p d) (room : s.fits (replKeys p d)) : s.touched t (replKeys p d) := by
  have healed := s.l1Heal_touched d.1 []
  have under {sl : Nat} {leaf : Word} {pa : Nat} (near : d.2.source p d.1 = some (sl, leaf, pa)) :
      s.touched ((s.l1Heal d.1).lineUnder p d.1 sl leaf pa).1 (replKeys p d) :=
    healed.trans (State.lineUnder_source_touched near (healed.fillReady ready) (healed.fits room))
  cases k with
  | far h => exact .of_same (by exact ⟨rfl, rfl, rfl⟩) _
  | held h found => exact (s.l1Heal_touched d.1 _).cached buf d.1 _
  | filled h absent found => exact (under h).cached buf d.1 _
  | refused h absent bad => exact under h

end

end Sys2Proof.Machine
end

section
/-! SUPPORT. The lines that a committed chunk has stored to, one after the other, in its core's L1 (R59, R78). -/

namespace Sys2Proof.Machine

/-- Of two states only the slices' memory and the active core's L1 differ, and of the L1 only what it lists for some lines, while it has places for them. -/
structure State.keptLines (s t : State) (xs : List Nat) : Prop where
  outside : t.outside = s.outside
  core : t.core = { s.core with l1 := t.core.l1 }
  length : s.core.chunk = none → s.core.l1.length + xs.length ≤ 512 → t.core.l1.length ≤ s.core.l1.length + xs.length
  apart : s.core.chunk = none → s.core.l1.length + xs.length ≤ 512 → ∀ y, y ∉ xs → t.core.linesAt y = s.core.linesAt y

section
variable {s t u : State} {xs ys : List Nat}

theorem State.keptLines.chunk (h : s.keptLines t xs) : t.core.chunk = s.core.chunk := by rw [h.core]

theorem State.keptLines.pcn (h : s.keptLines t xs) : t.core.pcn = s.core.pcn := by rw [h.core]

theorem State.keptLines.trans (h : s.keptLines t xs) (g : t.keptLines u ys) : s.keptLines u (xs ++ ys) := by
  have within (between : s.core.chunk = none) (space : s.core.l1.length + (xs ++ ys).length ≤ 512) :
      s.core.l1.length + xs.length ≤ 512 ∧ t.core.chunk = none ∧ t.core.l1.length + ys.length ≤ 512 := by
    rw [List.length_append] at space
    have first := h.length between (by omega)
    exact ⟨by omega, h.chunk.trans between, by omega⟩
  refine ⟨g.outside.trans h.outside, by rw [g.core, h.core], fun between space => ?_, fun between space y hy => ?_⟩
  · obtain ⟨space1, between2, space2⟩ := within between space
    have first := h.length between space1
    have second := g.length between2 space2
    rw [List.length_append]
    omega
  · obtain ⟨space1, between2, space2⟩ := within between space
    rw [List.mem_append, not_or] at hy
    exact (g.apart between2 space2 y hy.2).trans (h.apart between space1 y hy.1)

end

section
variable {p : Nat} (buf : List Host.Cell)

theorem State.keepLine_keptLines {s : State} (active : s.core.pcn = p) (d : Nat × Dest) : s.keptLines (s.keepLine p buf d) [d.1] := by
  have k := State.keepLine_keeps active buf d
  refine ⟨k.outside, k.core, fun between space => k.length between space, fun between space y hy => k.linesAt_other between space (by simpa using hy)⟩

theorem State.keepLines_keptLines (l : List (Nat × Dest)) {s : State} (active : s.core.pcn = p) :
    s.keptLines (l.foldl (fun t d => t.keepLine p buf d) s) (l.map Prod.fst) := by
  induction l generalizing s with
  | nil => exact ⟨rfl, rfl, fun _ _ => Nat.le_refl _, fun _ _ _ _ => rfl⟩
  | cons d l ih =>
    have first := s.keepLine_keptLines buf active d
    exact first.trans (ih (first.pcn.trans active))

/-- Its slices are touched only where a line of a replicated page is filled. -/
theorem State.keepLines_touched (l : List (Nat × Dest)) {s : State} (active : s.core.pcn = p) (ready : ∀ d ∈ l, s.fillReady p d)
    (room : s.fits (l.flatMap (replKeys p))) : s.touched (l.foldl (fun t d => t.keepLine p buf d) s) (l.flatMap (replKeys p)) :=
  State.touched_foldl (fun t => t.core.pcn = p)
    (fun t d own ready fits => ⟨(t.keepLine_keeps own buf d).touched ready fits, (t.keepLine_keptLines buf own d).pcn.trans own⟩)
    (fun _ _ _ _ touched ready => touched.fillReady ready) l s active ready room

/-- What the L1 has in the end of a line that the commit has stored to once is what that store has left. -/
theorem State.keepLines_find_once (pre post : List (Nat × Dest)) (d : Nat × Dest) {s : State} (active : s.core.pcn = p) (between : s.core.chunk = none)
    (space : s.core.l1.length + (pre ++ d :: post).length ≤ 512) (before : d.1 ∉ pre.map Prod.fst) (after : d.1 ∉ post.map Prod.fst)
    {u : State} (hu : pre.foldl (fun t d => t.keepLine p buf d) s = u) :
    u.core.pcn = p ∧ u.core.chunk = none ∧ u.core.l1.length < 512 ∧ u.core.linesAt d.1 = s.core.linesAt d.1 ∧
      ((pre ++ d :: post).foldl (fun t d => t.keepLine p buf d) s).core.l1Find d.1 = (u.keepLine p buf d).core.l1Find d.1 := by
  rw [List.length_append, List.length_cons] at space
  have first := State.keepLines_keptLines buf pre active
  rw [hu] at first
  have spacePre : s.core.l1.length + (pre.map Prod.fst).length ≤ 512 := by rw [List.length_map]; omega
  have own := first.pcn.trans active
  have free := first.chunk.trans between
  have length := first.length between spacePre
  rw [List.length_map] at length
  have second := u.keepLine_keptLines buf own d
  have length2 := second.length free (by simp; omega)
  have third := State.keepLines_keptLines buf post (second.pcn.trans own)
  refine ⟨own, free, by omega, first.apart between spacePre d.1 before, ?_⟩
  rw [List.foldl_append, List.foldl_cons, hu]
  rw [List.length_singleton] at length2
  exact Core.l1Find_congr (third.apart (second.chunk.trans free) (by rw [List.length_map]; omega) d.1 after)

end

end Sys2Proof.Machine
end

section
/-! SUPPORT. The grant of a submitted chunk, step by step (R132, R136). -/

namespace Sys2Proof.Machine

/-! ## The active core changes -/

/-- What does not look at the cores is the same whichever core is active. -/
theorem State.select_keeps {α : Sort _} (g : State → α) (hg : ∀ (s : State) (c : Core) (o : List Core), g { s with core := c, others := o } = g s)
    (s : State) (p : Nat) : g (s.select p) = g s := by
  unfold State.select
  split
  · rfl
  · exact hg s _ _

theorem State.select_core (s : State) (p : Nat) : (s.select p).core = s.getCore p := by
  unfold State.select
  split
  next own => exact (if_pos own).symm
  next => rfl

theorem State.getCore_select (s : State) (p q : Nat) : (s.select p).getCore q = s.getCore q := by
  unfold State.select
  split
  next => rfl
  next other =>
    by_cases own : q = p
    · subst own
      exact if_pos (s.getCore_pcn q)
    · have active : ¬(s.getCore p).pcn = q := fun e => own (e.symm.trans (s.getCore_pcn p))
      rw [State.getCore, if_neg active]
      by_cases former : q = s.core.pcn
      · subst former
        rw [find?_upsert_same (fun x : Core => x.pcn == s.core.pcn) s.core (beq_self_eq_true _), State.getCore, if_pos rfl]
        rfl
      · have apart : ∀ x : Core, (x.pcn == s.core.pcn) = true → (x.pcn == q) = false := fun x hx =>
          beq_false_of_ne fun e => former (e.symm.trans (beq_iff_eq.1 hx))
        rw [find?_upsert_other _ _ s.core apart (beq_false_of_ne fun e => former e.symm),
          find?_filter_key (fun x : Core => x.pcn != p) _ s.others true fun x hx => by rw [beq_iff_eq.1 hx]; exact bne_iff_ne.2 own,
          if_pos rfl, State.getCore, if_neg fun e => former e.symm]

/-! ## The notice of a grant (R132) -/

theorem Core.notice_unless_pcn (sig : BitVec 1024) (p : Nat) (c : Core) : (if c.pcn = p then c else c.notice sig).pcn = c.pcn := by
  split
  · rfl
  · exact c.notice_pcn sig

/-- A notice to all cores but p reaches every other core. -/
theorem State.getCore_notice_other (s : State) (sig : BitVec 1024) {p q : Nat} (h : q ≠ p) : (s.notice p sig).getCore q = (s.getCore q).notice sig := by
  refine (s.getCore_allCores _ (Core.notice_unless_pcn sig p) (if_neg h)).trans (if_neg ?_)
  rwa [State.getCore_pcn]

/-! ## The stages of a grant -/

/-- The chunk of core p has its number, and every other core its notice. -/
def State.begun (s : State) (p : Nat) (k : Chunk) : State :=
  let t := s.select p
  ({ t with submits := t.submits.filter fun q => q != p, commits := t.commits + 1 } : State).notice p k.wsig

/-- The chunk's writes have left. -/
def State.sent (s : State) (p : Nat) (k : Chunk) : State :=
  k.dests.reverse.foldl (fun t d => t.sendLine (s.select p).owner ((s.select p).core.ctl.mode == .system) k.gbuf d) (s.begun p k)

/-- The held effects of the chunk have been released. -/
def State.released (s : State) (p : Nat) (k : Chunk) : State := ((s.sent p k).endReservation p).modCore p fun c => c.commit k

/-- A submitted chunk that no reservation and no earlier chunk of its die holds back is granted (R132, R136). -/
theorem execRootGrant_eq {s : State} {p : Nat} {k : Chunk} (chunk : (s.getCore p).chunk = some k) (closing : k.closing = true) (submitted : p ∈ s.submits)
    (free : s.reservation = some p ∨ s.reservation = none ∧ s.diePrior p k = false) (room : s.seqQueue.length + k.replLines ≤ 512) :
    exec (.rootGrant p) s = .next (((s.released p k).keepLines p k).select s.core.pcn) := by
  have full : ¬seqCapacity < s.seqQueue.length + k.replLines := Nat.not_lt.2 room
  have granted : (!k.closing || !s.submits.contains p || (s.holder.isSome && s.holder != some p) || (s.reservation != some p && s.diePrior p k) ||
      decide (seqCapacity < s.seqQueue.length + k.replLines)) = false := by
    rw [closing, List.contains_iff_mem.2 submitted, decide_eq_false full]
    rcases free with own | ⟨none_, prior⟩
    · simp [State.holder, own, chunk]
    · simp [State.holder, none_, prior]
  show execRootGrant p s = _
  simp only [execRootGrant, chunk, granted]
  rfl

section
variable (s : State) (p : Nat) (k : Chunk)

theorem State.begun_getCore_other {q : Nat} (h : q ≠ p) : (s.begun p k).getCore q = (s.getCore q).notice k.wsig :=
  (State.getCore_notice_other _ _ h).trans (congrArg (Core.notice k.wsig) ((State.getCore_congr rfl rfl q).trans (s.getCore_select p q)))

theorem State.begun_core : (s.begun p k).core = s.getCore p := by
  have own : (s.select p).core.pcn = p := by rw [State.select_core, State.getCore_pcn]
  exact (if_pos own).trans (s.select_core p)

theorem State.begun_touched : s.touched (s.begun p k) [] :=
  .of_same (by exact ⟨s.select_keeps State.l2 (fun _ _ _ => rfl) p, s.select_keeps State.dram (fun _ _ _ => rfl) p,
    s.select_keeps State.codes (fun _ _ _ => rfl) p⟩) _

theorem State.begun_leaving : (s.begun p k).leaving = s.leaving := s.select_keeps State.leaving (fun _ _ _ => rfl) p

theorem State.begun_commits : (s.begun p k).commits = s.commits + 1 := congrArg (· + 1) (s.select_keeps State.commits (fun _ _ _ => rfl) p)

theorem State.begun_reservation : (s.begun p k).reservation = s.reservation := s.select_keeps State.reservation (fun _ _ _ => rfl) p

theorem State.begun_submits : p ∉ (s.begun p k).submits := fun h => by
  have first := (List.mem_filter.1 (List.mem_filter.1 h).1).2
  simp at first

theorem State.begun_routePort (va features : Nat) : (s.begun p k).routePort va features = s.routePort va features :=
  s.select_keeps (fun t => t.routePort va features) (fun _ _ _ => rfl) p

theorem State.sent_core : (s.sent p k).core = s.getCore p := (State.sendLines_core ..).trans (s.begun_core p k)

theorem State.sent_steady : (s.sent p k).steady = (s.begun p k).steady := State.sendLines_steady ..

theorem State.released_eq : s.released p k = { s.sent p k with core := (s.getCore p).commit k, reservation := ((s.sent p k).endReservation p).reservation } := by
  have core : ((s.sent p k).endReservation p).core = s.getCore p := by
    rw [← s.sent_core p k, State.endReservation]
    split <;> rfl
  rw [State.released, State.modCore_active (by rw [core, State.getCore_pcn]) rfl, core]
  unfold State.endReservation
  split <;> rfl

theorem State.released_core : (s.released p k).core = (s.getCore p).commit k := by rw [State.released_eq]

theorem State.released_active : (s.released p k).core.pcn = p := by
  rw [State.released_core]
  exact s.getCore_pcn p

theorem State.released_leaving : (s.released p k).leaving = (s.sent p k).leaving := by
  rw [State.released_eq]
  rfl

theorem State.released_touched (ks : List (Nat × Nat)) : (s.sent p k).touched (s.released p k) ks := by
  rw [State.released_eq]
  exact .of_same (by exact ⟨rfl, rfl, rfl⟩) _

theorem State.released_reservation (free : s.reservation = some p ∨ s.reservation = none) : (s.released p k).reservation = none := by
  have sent : (s.sent p k).reservation = s.reservation :=
    (congrArg Steady.reservation (s.sent_steady p k)).trans (s.begun_reservation p k)
  rw [State.released_eq]
  show ((s.sent p k).endReservation p).reservation = none
  unfold State.endReservation
  split
  · rfl
  next other => exact (sent.trans (free.resolve_left fun own => other (sent.trans own)))

theorem State.released_others : (s.released p k).others = (s.begun p k).others := by
  rw [State.released_eq]
  exact congrArg Steady.others (s.sent_steady p k)

theorem State.released_submits : (s.released p k).submits = (s.begun p k).submits := by
  rw [State.released_eq]
  exact congrArg Steady.submits (s.sent_steady p k)

theorem State.released_commits : (s.released p k).commits = s.commits + 1 := by
  rw [State.released_eq]
  exact (congrArg Steady.commits (s.sent_steady p k)).trans (s.begun_commits p k)

/-- The last stage: the lines of the chunk in the core's L1. -/
theorem State.keepLines_released : (s.released p k).keptLines ((s.released p k).keepLines p k) (k.dests.reverse.map Prod.fst) :=
  State.keepLines_keptLines k.gbuf k.dests.reverse (s.released_active p k)

end

end Sys2Proof.Machine
end

section
/-! SUPPORT. The lines of a granted chunk in the slices, when their sets have room for them (R61, R62, R64, R132). -/

namespace Sys2Proof.Machine

/-! ## Room for the lines of a chunk -/

/-- The slices that a chunk's lines come to meet no other translation of a marked dirty line, and have room for all of them (R61, R110). -/
def State.slicesReady (s : State) (p : Nat) (k : Chunk) : Prop :=
  ∀ e ∈ k.dests, ∀ sl leaf pa, e.2.source p e.1 = some (sl, leaf, pa) → s.cleanAt sl e.1 pa ∧ (s.l2Ways sl e.1).length +
    (k.dests.filter fun d => ((d.2.source p d.1).map fun y => y.1) == some sl && l2Set d.1 == l2Set e.1).length ≤ 16

/-- Whether a line of a chunk comes to a set of the slice that fills the L1 of core p with it. -/
def comesTo (p : Nat) (c : Nat × Nat) (d : Nat × Dest) : Bool := ((d.2.source p d.1).map fun y => y.1) == some c.1 && l2Set d.1 == l2Set c.2

theorem countP_keys (p : Nat) (c : Nat × Nat) (d : Nat × Dest) :
    (ownKeys d).countP (sameSet c) + (replKeys p d).countP (sameSet c) = if comesTo p c d = true then 1 else 0 := by
  obtain ⟨x, dst⟩ := d
  cases dst with
  | own leaf pa => exact (Nat.add_zero _).trans (List.countP_singleton ..)
  | repl leaf pa => exact (Nat.zero_add _).trans (List.countP_singleton ..)
  | host hpa => rfl
  | remote => rfl

/-- The lines that come to a set, at their homes or at the replica homes of the die. -/
theorem countP_ownKeys_add_replKeys (p : Nat) (c : Nat × Nat) (l : List (Nat × Dest)) :
    (l.flatMap ownKeys).countP (sameSet c) + (l.flatMap (replKeys p)).countP (sameSet c) = (l.filter (comesTo p c)).length := by
  rw [← List.countP_eq_length_filter]
  induction l with
  | nil => rfl
  | cons d l ih =>
    have one := countP_keys p c d
    rw [List.flatMap_cons, List.flatMap_cons, List.countP_append, List.countP_append, List.countP_cons]
    omega

theorem mem_ownKeys {c : Nat × Nat} {d : Nat × Dest} (h : c ∈ ownKeys d) : ∃ leaf pa, d.2 = .own leaf pa ∧ c = (homeOf d.1, d.1) := by
  obtain ⟨x, dst⟩ := d
  cases dst with
  | own leaf pa => exact ⟨leaf, pa, rfl, List.mem_singleton.1 h⟩
  | _ => cases h

theorem mem_replKeys {p : Nat} {c : Nat × Nat} {d : Nat × Dest} (h : c ∈ replKeys p d) :
    ∃ leaf pa, d.2 = .repl leaf pa ∧ c = (replHome d.1 (dieOf p), d.1) := by
  obtain ⟨x, dst⟩ := d
  cases dst with
  | repl leaf pa => exact ⟨leaf, pa, rfl, List.mem_singleton.1 h⟩
  | _ => cases h

section
variable {s : State} {p : Nat} {k : Chunk} (ready : s.slicesReady p k)
include ready

theorem State.slicesReady.fits : s.fits (k.dests.reverse.flatMap ownKeys ++ k.dests.reverse.flatMap (replKeys p)) := by
  have room {e : Nat × Dest} (he : e ∈ k.dests.reverse) {c : Nat × Nat} {leaf : Word} {pa : Nat} (source : e.2.source p e.1 = some (c.1, leaf, pa))
      (line : c.2 = e.1) : (s.l2Ways c.1 c.2).length +
        (k.dests.reverse.flatMap ownKeys ++ k.dests.reverse.flatMap (replKeys p)).countP (sameSet c) ≤ 16 := by
    obtain ⟨sl, y⟩ := c
    subst line
    rw [List.countP_append, countP_ownKeys_add_replKeys, List.filter_reverse, List.length_reverse]
    exact (ready e (List.mem_reverse.1 he) sl leaf pa source).2
  intro c hc
  rcases List.mem_append.1 hc with h | h
  · obtain ⟨e, he, key⟩ := List.mem_flatMap.1 h
    obtain ⟨leaf, pa, own, rfl⟩ := mem_ownKeys key
    exact room he (leaf := leaf) (pa := pa) (by rw [own]; rfl) rfl
  · obtain ⟨e, he, key⟩ := List.mem_flatMap.1 h
    obtain ⟨leaf, pa, repl, rfl⟩ := mem_replKeys key
    exact room he (leaf := leaf) (pa := pa + dieOf p * 2 ^ 38) (by rw [repl]; rfl) rfl

theorem State.slicesReady.ownReady {d : Nat × Dest} (hd : d ∈ k.dests.reverse) : s.ownReady d := fun leaf pa own =>
  (ready d (List.mem_reverse.1 hd) (homeOf d.1) leaf pa (by rw [own]; rfl)).1

theorem State.slicesReady.replReady {d : Nat × Dest} (hd : d ∈ k.dests.reverse) {leaf : Word} {pa : Nat} (repl : d.2 = .repl leaf pa) :
    s.cleanAt (replHome d.1 (dieOf p)) d.1 (pa + dieOf p * 2 ^ 38) :=
  (ready d (List.mem_reverse.1 hd) _ leaf _ (by rw [repl]; rfl)).1

end

/-! ## A line at its home (R62, R132) -/

theorem State.touched.ownReady {s t : State} {ks : List (Nat × Nat)} (h : s.touched t ks) {d : Nat × Dest} (ready : s.ownReady d) : t.ownReady d :=
  fun leaf pa own => h.cleanAt (ready leaf pa own)

/-- The writes before one of a line of the own node, that write, and those after it. -/
theorem State.sendLines_own (b : State) (o : Owner) (sys : Bool) (buf : List Host.Cell) (pre post : List (Nat × Dest)) (x : Nat) (leaf : Word) (pa : Nat)
    (ready : ∀ d ∈ pre ++ (x, .own leaf pa) :: post, b.ownReady d) (room : b.fits ((pre ++ (x, .own leaf pa) :: post).flatMap ownKeys)) :
    ∃ (v w : State) (m : L2Line), b.touched v (pre.flatMap ownKeys) ∧ w.l2Find (homeOf x) x = some m ∧
      m.mergedFrom ((v.unmoved x).renew (homeOf x) x leaf pa) (homeOf x) x pa (bufLine buf x).1 (bufLine buf x).2 ∧
      w.touched ((pre ++ (x, .own leaf pa) :: post).foldl (fun t d => t.sendLine o sys buf d) b) (post.flatMap ownKeys) := by
  rw [List.flatMap_append, List.flatMap_cons] at room
  rw [List.foldl_append, List.foldl_cons]
  have first := b.sendLines_touched o sys buf pre (fun d hd => ready d (List.mem_append_left _ hd)) room.left
  generalize pre.foldl (fun t d => t.sendLine o sys buf d) b = v at *
  have roomV := first.fits room
  have second := v.sendLine_touched o sys buf (x, .own leaf pa) (first.ownReady (ready _ (by simp))) roomV.left
  obtain ⟨m, found, merged⟩ := (v.unmoved x).merge_find (homeOf x) x leaf pa (bufLine buf x).1 (bufLine buf x).2
  exact ⟨v, _, m, first, found, merged, State.sendLines_touched _ o sys buf post
    (fun d hd => second.ownReady (first.ownReady (ready d (by simp [hd])))) (second.fits roomV)⟩

section
variable {s : State} {p : Nat} {k : Chunk} (ready : s.slicesReady p k)
include ready

theorem State.slicesReady.begun_fits : (s.begun p k).fits (k.dests.reverse.flatMap ownKeys ++ k.dests.reverse.flatMap (replKeys p)) :=
  (s.begun_touched p k).fits ready.fits

theorem State.slicesReady.sent_touched : (s.begun p k).touched (s.sent p k) (k.dests.reverse.flatMap ownKeys) :=
  State.sendLines_touched _ _ _ _ _ (fun _ hd => (s.begun_touched p k).ownReady (ready.ownReady hd)) ready.begun_fits.left

theorem State.slicesReady.released_touched : s.touched (s.released p k) (k.dests.reverse.flatMap ownKeys) := by
  have released := ready.sent_touched.trans (s.released_touched p k [])
  rw [List.append_nil] at released
  exact (s.begun_touched p k).trans released

/-- Every line of the own node stands at its home once the writes have left. -/
theorem State.slicesReady.fillReady {d : Nat × Dest} (hd : d ∈ k.dests.reverse) : (s.released p k).fillReady p d := by
  refine ⟨fun leaf pa own => ?_, fun leaf pa repl => ready.released_touched.cleanAt (ready.replReady hd repl)⟩
  obtain ⟨pre, post, split⟩ := List.append_of_mem hd
  obtain ⟨x, dst⟩ := d
  cases own
  have readyB (e : Nat × Dest) (he : e ∈ k.dests.reverse) := (s.begun_touched p k).ownReady (ready.ownReady he)
  have roomB := ready.begun_fits.left
  rw [split] at readyB roomB
  obtain ⟨v, w, m, -, found, merged, after⟩ := State.sendLines_own (s.begun p k) (s.select p).owner ((s.select p).core.ctl.mode == .system) k.gbuf pre post x
    leaf pa readyB roomB
  rw [← split] at after
  exact (after.trans (s.released_touched p k [])).kept (homeOf x, x) m found merged.unmarked

theorem State.slicesReady.keepLines_touched :
    (s.released p k).touched ((s.released p k).keepLines p k) (k.dests.reverse.flatMap (replKeys p)) :=
  State.keepLines_touched k.gbuf k.dests.reverse (s.released_active p k) (fun _ hd => ready.fillReady hd) (ready.released_touched.fits ready.fits)

theorem State.slicesReady.granted_dram : ((s.released p k).keepLines p k).dram = s.dram :=
  ready.keepLines_touched.dram.trans ready.released_touched.dram

end

end Sys2Proof.Machine
end

section
/-! SUPPORT. What a granted chunk leaves: the cores, the sequencer, the far writes, its lines at their homes and in its L1 (R59, R76, R78, R132). -/

namespace Sys2Proof.Machine

/-- The state once core p's chunk is granted. -/
def State.granted (s : State) (p : Nat) (k : Chunk) : State := ((s.released p k).keepLines p k).select s.core.pcn

/-- A line that a chunk has stored to once, in the order of the commit. -/
theorem dests_once {l : List (Nat × Dest)} {x : Nat} {dst : Dest} (once : l.filter (fun e => e.1 == x) = [(x, dst)]) :
    ∃ pre post, l.reverse = pre ++ (x, dst) :: post ∧ x ∉ pre.map Prod.fst ∧ x ∉ post.map Prod.fst := by
  have reversed : l.reverse.filter (fun e => e.1 == x) = [(x, dst)] := by rw [List.filter_reverse, once]; rfl
  obtain ⟨pre, post, split, before, -, after⟩ := List.filter_eq_cons_iff.1 reversed
  refine ⟨pre, post, split, fun h => ?_, fun h => ?_⟩
  · obtain ⟨e, he, line⟩ := List.mem_map.1 h
    exact before e he (beq_iff_eq.2 line)
  · obtain ⟨e, he, line⟩ := List.mem_map.1 h
    exact List.filter_eq_nil_iff.1 after e he (beq_iff_eq.2 line)

theorem once_dest {l : List (Nat × Dest)} {x : Nat} {dst : Dest} (once : l.filter (fun e => e.1 == x) = [(x, dst)]) {e : Nat × Dest} (he : e ∈ l)
    (line : e.1 = x) : e = (x, dst) := by
  have mem : e ∈ l.filter fun e => e.1 == x := List.mem_filter.2 ⟨he, beq_iff_eq.2 line⟩
  rw [once] at mem
  exact List.mem_singleton.1 mem

/-- The core after the commit of its chunk: the buffered scratchpad stores are in its scratchpad, and CMT and RET have grown (R130, R132, R135). -/
theorem Core.commit_drained (c : Core) (k : Chunk) (l1 : List L1Line) : let d : Core := { c.commit k with l1 := l1 }
    (∀ a, d.spad.read a = (bufByte k.sbuf a).getD (c.spad.read a)) ∧
      d = { c with chunk := none, streak := 0, spad := d.spad, ecc := d.ecc, l1 := d.l1
                   ctl := { c.ctl with cmt := c.ctl.cmt + 1, ret := c.ctl.ret + BitVec.ofNat 64 k.count } } :=
  ⟨fun a => Memory.read_writeBuf c.spad k.sbuf a, rfl⟩

section
variable (s : State) (p : Nat) (k : Chunk)

/-! ## Cores and order -/

theorem State.granted_getCore_same : (s.granted p k).getCore p = ((s.released p k).keepLines p k).core := by
  rw [State.granted, State.getCore_select]
  exact if_pos ((s.keepLines_released p k).pcn.trans (s.released_active p k))

theorem State.granted_core : (s.granted p k).getCore p = { (s.getCore p).commit k with l1 := ((s.granted p k).getCore p).l1 } := by
  rw [State.granted_getCore_same]
  exact (s.keepLines_released p k).core.trans (by rw [State.released_core])

/-- Every other core has its notice (R132). -/
theorem State.granted_getCore_other {q : Nat} (h : q ≠ p) : (s.granted p k).getCore q = (s.getCore q).notice k.wsig := by
  have others : ((s.released p k).keepLines p k).others = (s.begun p k).others :=
    (congrArg (·.1.others) (s.keepLines_released p k).outside).trans (s.released_others p k)
  have active := (s.keepLines_released p k).pcn.trans (s.released_active p k)
  have begun : (s.begun p k).core.pcn = p := by rw [State.begun_core, State.getCore_pcn]
  rw [State.granted, State.getCore_select, ← s.begun_getCore_other p k h, State.getCore, State.getCore, others, if_neg fun e => h (e.symm.trans active),
    if_neg fun e => h (e.symm.trans begun)]

theorem State.granted_commits : (s.granted p k).commits = s.commits + 1 :=
  (State.select_keeps State.commits (fun _ _ _ => rfl) _ _).trans
    ((congrArg (·.1.commits) (s.keepLines_released p k).outside).trans (s.released_commits p k))

theorem State.granted_submits : p ∉ (s.granted p k).submits := by
  have kept : (s.granted p k).submits = (s.begun p k).submits := (State.select_keeps State.submits (fun _ _ _ => rfl) _ _).trans
    ((congrArg (·.1.submits) (s.keepLines_released p k).outside).trans (s.released_submits p k))
  rw [kept]
  exact s.begun_submits p k

theorem State.granted_reservation (free : s.reservation = some p ∨ s.reservation = none) : (s.granted p k).reservation = none :=
  (State.select_keeps State.reservation (fun _ _ _ => rfl) _ _).trans
    ((congrArg (·.1.reservation) (s.keepLines_released p k).outside).trans (s.released_reservation p k free))

/-! ## What leaves -/

theorem State.keepLines_leaving : ((s.released p k).keepLines p k).leaving = (s.sent p k).leaving :=
  (congrArg Prod.snd (s.keepLines_released p k).outside).trans (s.released_leaving p k)

theorem State.granted_leaving : (s.granted p k).leaving = (s.sent p k).leaving :=
  (State.select_keeps State.leaving (fun _ _ _ => rfl) _ _).trans (s.keepLines_leaving p k)

theorem State.select_owner_pcn : (s.select p).owner.pcn = p := by
  show (s.select p).core.pcn = p
  rw [State.select_core, State.getCore_pcn]

/-- The updates that a chunk gives the sequencer (R76). -/
def Chunk.updates (k : Chunk) (p first : Nat) : List ReplUpdate := (replsOf k.dests.reverse).zipIdx.map fun e =>
  ⟨first + e.2, e.1.1, (bufLine k.gbuf e.1.1).1, (bufLine k.gbuf e.1.1).2, e.1.2.1, e.1.2.2, p⟩

theorem mem_replsOf {l : List (Nat × Dest)} {r : Nat × Word × Nat} (h : r ∈ replsOf l) : (r.1, .repl r.2.1 r.2.2) ∈ l := by
  obtain ⟨⟨x, dst⟩, he, repl⟩ := List.mem_filterMap.1 h
  cases dst with
  | repl leaf pa => cases repl; exact he
  | _ => cases repl

theorem Chunk.mem_updates {k : Chunk} {p first : Nat} {u : ReplUpdate} (h : u ∈ k.updates p first) :
    ∃ leaf pa, (u.line, .repl leaf pa) ∈ k.dests.reverse := by
  obtain ⟨e, he, rfl⟩ := List.mem_map.1 h
  exact ⟨_, _, mem_replsOf (List.fst_mem_of_mem_zipIdx he)⟩

theorem State.sent_seqQueue : (s.sent p k).seqQueue = s.seqQueue ++ k.updates p s.seqNext := by
  have sent := State.sendLines_seqQueue (s.select p).owner ((s.select p).core.ctl.mode == .system) k.gbuf k.dests.reverse (s.begun p k) s.seqNext 0
    (congrArg Leaving.seqNext (s.begun_leaving p k))
  rw [State.select_owner_pcn] at sent
  exact sent.trans (congrArg (· ++ _) (congrArg Leaving.seqQueue (s.begun_leaving p k)))

theorem State.granted_seqQueue : (s.granted p k).seqQueue = s.seqQueue ++ k.updates p s.seqNext :=
  (congrArg Leaving.seqQueue (s.granted_leaving p k)).trans (s.sent_seqQueue p k)

/-- A chunk's write to a line of host memory or of another node, as it leaves (R78). -/
def State.farWrite (s : State) (p : Nat) (k : Chunk) (x base : Nat) (port : Option Nat) : FarWrite :=
  ⟨p, (s.select p).owner, (s.getCore p).ctl.mode == .system, lineCells k.gbuf x base, none, port, x, false⟩

theorem State.farLine_eq (x base : Nat) (port : Option Nat) :
    farLine (s.select p).owner ((s.select p).core.ctl.mode == .system) k.gbuf x base port = s.farWrite p k x base port := by
  rw [farLine, State.select_owner_pcn, State.select_core, State.farWrite]

theorem State.granted_hostWrites : (s.granted p k).hostWrites =
    s.hostWrites ++ (hostsOf k.dests.reverse).map fun e => s.farWrite p k e.1 e.2 none := by
  refine (congrArg Leaving.hostWrites (s.granted_leaving p k)).trans ((State.sendLines_hostWrites ..).trans ?_)
  simp only [State.farLine_eq]
  exact congrArg (· ++ _) (congrArg Leaving.hostWrites (s.begun_leaving p k))

theorem State.granted_remoteWrites : (s.granted p k).remoteWrites =
    s.remoteWrites ++ (nodesOf k.dests.reverse).map fun x => s.farWrite p k x (64 * x) (s.routePort (64 * x) 0) := by
  refine (congrArg Leaving.remoteWrites (s.granted_leaving p k)).trans ((State.sendLines_remoteWrites ..).trans ?_)
  simp only [State.farLine_eq, State.begun_routePort]
  exact congrArg (· ++ _) (congrArg Leaving.remoteWrites (s.begun_leaving p k))

end

/-! ## The L1 (R59, R78) -/

section
variable {s : State} {p : Nat} {k : Chunk} {x : Nat}

theorem State.released_between (s : State) (p : Nat) (k : Chunk) : (s.released p k).core.chunk = none := by
  rw [State.released_core]
  rfl

section
variable (space : (s.getCore p).l1.length + k.dests.length ≤ 512)
include space

theorem State.released_space : (s.released p k).core.l1.length + k.dests.reverse.length ≤ 512 := by
  rw [State.released_core, List.length_reverse]
  exact space

/-- A line that the chunk has not stored to. -/
theorem State.granted_find_other (apart : ∀ e ∈ k.dests, e.1 ≠ x) : ((s.granted p k).getCore p).l1Find x = (s.getCore p).l1Find x := by
  have away : x ∉ k.dests.reverse.map Prod.fst := fun h => by
    obtain ⟨e, he, line⟩ := List.mem_map.1 h
    exact apart e (List.mem_reverse.1 he) line
  rw [State.granted_getCore_same]
  have kept := (s.keepLines_released p k).apart (s.released_between p k) (by rw [List.length_map]; exact State.released_space space) x away
  rw [State.released_core] at kept
  exact Core.l1Find_congr kept

/-- A line that the chunk has stored to once: what that store has left of what the L1 listed. -/
theorem State.granted_find_once {dst : Dest} {pre post : List (Nat × Dest)} (split : k.dests.reverse = pre ++ (x, dst) :: post) (before : x ∉ pre.map Prod.fst)
    (after : x ∉ post.map Prod.fst) {u : State} (hu : pre.foldl (fun t d => t.keepLine p k.gbuf d) (s.released p k) = u) :
    u.core.chunk = none ∧ u.core.l1.length < 512 ∧ u.core.linesAt x = (s.getCore p).linesAt x ∧
      ∃ v, u.keeps p k.gbuf (x, dst) v ∧ ((s.granted p k).getCore p).l1Find x = v.core.l1Find x := by
  have room := State.released_space space
  rw [split] at room
  obtain ⟨active, between, free, lines, find⟩ := State.keepLines_find_once k.gbuf pre post (x, dst) (s.released_active p k) (s.released_between p k) room
    before after hu
  refine ⟨between, free, lines.trans (by rw [State.released_core]; rfl), _, State.keepLine_keeps active k.gbuf (x, dst), ?_⟩
  rw [State.granted_getCore_same, State.keepLines, split]
  exact find

theorem State.granted_find_far {dst : Dest} (once : k.dests.filter (fun e => e.1 == x) = [(x, dst)]) (far : dst.source p x = none) :
    ((s.granted p k).getCore p).l1Find x = none := by
  obtain ⟨pre, post, split, before, after⟩ := dests_once once
  obtain ⟨-, -, -, v, keeps, find⟩ := State.granted_find_once space split before after rfl
  exact find.trans (keeps.find_far far)

theorem State.granted_find_held {dst : Dest} (once : k.dests.filter (fun e => e.1 == x) = [(x, dst)]) {src : Nat × Word × Nat}
    (near : dst.source p x = some src) {l : Line} (held : (s.getCore p).linesAt x = [⟨x, l, false⟩]) :
    ((s.granted p k).getCore p).l1Find x = some (overlayLine k.gbuf x l) := by
  obtain ⟨pre, post, split, before, after⟩ := dests_once once
  obtain ⟨between, free, lines, v, keeps, find⟩ := State.granted_find_once space split before after rfl
  exact find.trans (keeps.find_held between free near (lines.trans held))

end

/-! ## A line of the own node at its home (R62, R132) -/

/-- A line of the own node that the chunk has stored to once. -/
theorem State.slicesReady.sent_own (ready : s.slicesReady p k) {leaf : Word} {pa : Nat}
    (once : k.dests.filter (fun e => e.1 == x) = [(x, .own leaf pa)]) :
    ∃ m, (s.released p k).l2Find (homeOf x) x = some m ∧
      m.mergedFrom (s.renew (homeOf x) x leaf pa) (homeOf x) x pa (bufLine k.gbuf x).1 (bufLine k.gbuf x).2 := by
  obtain ⟨pre, post, split, before, after⟩ := dests_once once
  have readyB (e : Nat × Dest) (he : e ∈ k.dests.reverse) := (s.begun_touched p k).ownReady (ready.ownReady he)
  have roomB := ready.begun_fits.left
  have mem : (x, Dest.own leaf pa) ∈ k.dests.reverse := by rw [split]; simp
  have clean : s.cleanAt (homeOf x) x pa := ready.ownReady mem leaf pa rfl
  have away {l : List (Nat × Dest)} (h : x ∉ l.map Prod.fst) : (homeOf x, x) ∉ l.flatMap ownKeys := fun key => by
    obtain ⟨e, he, one⟩ := List.mem_flatMap.1 key
    obtain ⟨_, _, _, same⟩ := mem_ownKeys one
    exact h (List.mem_map.2 ⟨e, he, (congrArg Prod.snd same).symm⟩)
  rw [split] at readyB roomB
  obtain ⟨v, w, m, early, found, merged, late⟩ := State.sendLines_own (s.begun p k) (s.select p).owner ((s.select p).core.ctl.mode == .system) k.gbuf pre post x
    leaf pa readyB roomB
  have first := (s.begun_touched p k).trans early
  have at_ : (v.unmoved x).l2Find (homeOf x) x = s.l2Find (homeOf x) x := first.apart (homeOf x, x) (away before)
  have found' : (s.released p k).l2Find (homeOf x) x = some m := by
    rw [← split] at late
    exact ((s.released_touched p k []).apart (homeOf x, x) (by simp)).trans ((late.apart (homeOf x, x) (away after)).trans found)
  have renewed : ((v.unmoved x).renew (homeOf x) x leaf pa).l2Find (homeOf x) x = (s.renew (homeOf x) x leaf pa).l2Find (homeOf x) x := by
    rw [State.renew_find, State.renew_find, at_]
  have cleanV : (v.unmoved x).cleanAt (homeOf x) x pa := first.cleanAt clean
  have memV := State.renew_touches leaf cleanV
  have memS := State.renew_touches leaf clean
  have address := merged.address
  have bytes := merged.bytes
  rw [State.paAt, renewed] at address
  rw [State.lineData_congr renewed (memV.dram.trans (first.dram.trans memS.dram.symm)) (memV.codes.trans (first.codes.trans memS.codes.symm))] at bytes
  exact ⟨m, found', merged.dirty, merged.unmarked, address, bytes⟩

theorem once_not_mem_replKeys {leaf : Word} {pa : Nat} (once : k.dests.filter (fun e => e.1 == x) = [(x, .own leaf pa)]) {l : List (Nat × Dest)}
    (sub : ∀ e ∈ l, e ∈ k.dests.reverse) : (homeOf x, x) ∉ l.flatMap (replKeys p) := fun key => by
  obtain ⟨e, he, one⟩ := List.mem_flatMap.1 key
  obtain ⟨_, _, repl, same⟩ := mem_replKeys one
  have own := once_dest once (List.mem_reverse.1 (sub e he)) (congrArg Prod.snd same).symm
  rw [own] at repl
  cases repl

theorem State.slicesReady.granted_own (ready : s.slicesReady p k) {leaf : Word} {pa : Nat}
    (once : k.dests.filter (fun e => e.1 == x) = [(x, .own leaf pa)]) :
    ∃ m, (s.granted p k).l2Find (homeOf x) x = some m ∧
      m.mergedFrom (s.renew (homeOf x) x leaf pa) (homeOf x) x pa (bufLine k.gbuf x).1 (bufLine k.gbuf x).2 ∧
      ((s.getCore p).l1.length + k.dests.length ≤ 512 → m.bad = false → (∀ l ∈ (s.getCore p).l1, l.line ≠ x) → (∀ w ∈ s.seqQueue, w.line ≠ x) →
        ((s.granted p k).getCore p).l1Find x = some m.data) := by
  obtain ⟨m, found, merged⟩ := ready.sent_own once
  refine ⟨m, ?_, merged, fun space good absent quiet => ?_⟩
  · exact (State.select_keeps (fun t => t.l2Find (homeOf x) x) (fun _ _ _ => rfl) _ _).trans
      ((ready.keepLines_touched.apart (homeOf x, x) (once_not_mem_replKeys once fun _ he => he)).trans found)
  · obtain ⟨pre, post, split, before, after⟩ := dests_once once
    have sub (e : Nat × Dest) (he : e ∈ pre) : e ∈ k.dests.reverse := by rw [split]; exact List.mem_append_left _ he
    obtain ⟨between, free, lines, v, keeps, find⟩ := State.granted_find_once space split before after rfl
    have room := ready.released_touched.fits ready.fits
    rw [split, List.flatMap_append] at room
    have touched := State.keepLines_touched k.gbuf pre (s.released_active p k) (fun d hd => ready.fillReady (sub d hd)) room.left
    have outside := (State.keepLines_keptLines k.gbuf pre (s.released_active p k)).outside
    have queue : (pre.foldl (fun t d => t.keepLine p k.gbuf d) (s.released p k)).seqQueue = s.seqQueue ++ k.updates p s.seqNext :=
      (congrArg (·.2.seqQueue) outside).trans ((congrArg Leaving.seqQueue (s.released_leaving p k)).trans (s.sent_seqQueue p k))
    have quiet' : ∀ u ∈ s.seqQueue ++ k.updates p s.seqNext, u.line ≠ x := fun u hu line => by
      rcases List.mem_append.1 hu with old | new
      · exact quiet u old line
      · obtain ⟨_, _, repl⟩ := Chunk.mem_updates new
        cases once_dest once (List.mem_reverse.1 repl) line
    have empty : (s.getCore p).linesAt x = [] := List.filter_eq_nil_iff.2 fun l hl e => absent l hl (beq_iff_eq.1 e)
    rw [find]
    refine keeps.find_home between free rfl (lines.trans empty)
      ((touched.apart (homeOf x, x) (once_not_mem_replKeys once sub)).trans found) merged.unmarked good (by rw [queue]; exact quiet')
      (old := (s.renew (homeOf x) x leaf pa).lineData (homeOf x) x pa) fun j hj => ?_
    rw [merged.bytes, lineByte_lineMerge_bufLine _ _ _ hj]

end

end Sys2Proof.Machine
end

section
/-! SUPPORT. A chunk that commits without a number, and the replica homes' updates and notices (R76, R133, R136, R148). -/

namespace Sys2Proof.Machine

/-! ## A chunk with no write (R133) -/

/-- The commit reservation of a core ends with its commit, and no other's (R136). -/
theorem State.endReservation_eq (s : State) (p : Nat) :
    s.endReservation p = { s with reservation := if s.reservation = some p then none else s.reservation } := by
  unfold State.endReservation
  split <;> rfl

/-- The turn of a core whose closing chunk has instructions and no write: the chunk commits at once. -/
theorem State.coreTurn_eq_close {r u : State} {k : Chunk} (hu : r.raiseTimer = u) (run : u.core.run = .running) (out : u.core.out = none)
    (chunk : u.core.chunk = some k) (closing : k.closing = true) (local_ : k.wsig = 0) (some_ : 0 < k.count) :
    r.coreTurn = .rest (.next (({ u with core := u.core.commit k } : State).endReservation u.core.pcn)) := by
  have nonempty : ¬k.count = 0 := Nat.ne_of_gt some_
  have closed : u.closeStep k = ({ u with core := u.core.commit k } : State).endReservation u.core.pcn := by
    rw [State.closeStep, if_neg nonempty, if_pos local_]
  have awake : (u.core.run != .running || u.core.out.isSome) = false := by rw [run, out]; rfl
  have due : (decide (k.count = 0) || decide (k.wsig = 0) || !u.submits.contains u.core.pcn) = true := by rw [local_]; simp
  unfold State.coreTurn
  simp only [hu, awake, chunk, closing, due, closed, Bool.not_true, Bool.false_eq_true, if_false, if_true]

/-- A step of that turn: the core has its chunk's effects, and keeps no reservation (R133, R136). -/
theorem step_commits_locally {s u : State} {k : Chunk} (on : s.powered = true) (turn : s.turnOf u) (run : u.core.run = .running) (out : u.core.out = none)
    (chunk : u.core.chunk = some k) (closing : k.closing = true) (local_ : k.wsig = 0) (some_ : 0 < k.count) :
    step s = .next { u with
      core := u.core.commit k, reservation := if u.reservation = some u.core.pcn then none else u.reservation } := by
  obtain ⟨⟨r, hr, turned⟩, -⟩ := turn.coreTurn
  rw [step_eq_of_powered on, turned, State.coreTurn_eq_close hr run out chunk closing local_ some_, State.endReservation_eq]
  rfl

/-! ## What holds a grant back (R76, R132) -/

theorem Chunk.length_replsOf (k : Chunk) : (replsOf k.dests.reverse).length = k.replLines := by
  unfold Chunk.replLines replsOf
  rw [List.filterMap_reverse, List.length_reverse]
  generalize k.dests = l
  induction l with
  | nil => rfl
  | cons d l ih =>
    obtain ⟨x, dst⟩ := d
    cases dst with
    | repl leaf pa => exact congrArg (· + 1) ih
    | _ => exact ih

theorem State.diePrior_eq_false {s : State} {p : Nat} {k : Chunk} (apart : ∀ q k', q ∈ s.submits.takeWhile (fun q => q != p) → q / 384 = p / 384 →
    (s.getCore q).chunk = some k' → (k'.rsig ||| k'.wsig) &&& (k.rsig ||| k.wsig) = 0) : s.diePrior p k = false := by
  refine List.any_eq_false.2 fun q hq meets => ?_
  rw [Bool.and_eq_true] at meets
  obtain ⟨die, meets⟩ := meets
  cases chunk : (s.getCore q).chunk with
  | none => simp [chunk] at meets
  | some k' =>
    rw [chunk] at meets
    exact bne_iff_ne.1 meets (apart q k' hq (beq_iff_eq.1 die) chunk)

/-! ## What a die has applied (R76) -/

theorem State.setApplied_applied (s : State) {d : Nat} (hd : d < 4) (die num : Nat) :
    (s.setApplied die num).applied d = if d = die then num else s.applied d := by
  have at_ (v : Vector Nat 4) : v.toList.getD (d % 4) 0 = v[d] := by
    rw [Nat.mod_eq_of_lt hd, List.getD_eq_getElem?_getD, Vector.getElem?_toList, Vector.getElem?_eq_getElem hd]
    rfl
  show (s.seqApplied.setIfInBounds die num).toList.getD (d % 4) 0 = _
  rw [State.applied, at_, at_, Vector.getElem_setIfInBounds]
  by_cases h : d = die
  · rw [if_pos h, if_pos h.symm]
  · rw [if_neg h, if_neg fun e => h e.symm]

/-- An update stays queued while a die has not applied it (log entry 77). -/
theorem State.mem_setApplied_seqQueue (s : State) (die num : Nat) (w : ReplUpdate) :
    w ∈ (s.setApplied die num).seqQueue ↔ w ∈ s.seqQueue ∧ ∃ d, d < 4 ∧ (s.setApplied die num).applied d < w.num := by
  refine List.mem_filter.trans (and_congr_right fun _ => ?_)
  rw [List.any_eq_true]
  simp only [List.mem_range, decide_eq_true_iff]
  rfl

/-! ## An update at a replica home (R76, R148) -/

/-- The bytes of an update have reached the replica home of a die. -/
def State.replMerged (s : State) (die : Nat) (v : ReplUpdate) : State :=
  if v.mask = 0 then s else s.merge (replHome v.line die) v.line v.leaf (v.pa + die * 2 ^ 38) v.mask v.data

section
variable (s : State) (die : Nat) (v : ReplUpdate)

theorem State.replMerged_outside : (s.replMerged die v).outside = s.outside := by
  unfold State.replMerged
  split
  · rfl
  · exact s.merge_outside ..

theorem State.replMerged_core : (s.replMerged die v).core = s.core := by
  unfold State.replMerged
  split
  · rfl
  · exact s.merge_core ..

theorem State.replMerged_others : (s.replMerged die v).others = s.others := congrArg (·.1.others) (s.replMerged_outside die v)
theorem State.replMerged_notices : (s.replMerged die v).notices = s.notices := congrArg (·.1.notices) (s.replMerged_outside die v)
theorem State.replMerged_commits : (s.replMerged die v).commits = s.commits := congrArg (·.1.commits) (s.replMerged_outside die v)
theorem State.replMerged_seqQueue : (s.replMerged die v).seqQueue = s.seqQueue := congrArg (·.2.seqQueue) (s.replMerged_outside die v)

theorem State.replMerged_applied (d : Nat) : (s.replMerged die v).applied d = s.applied d :=
  congrArg (fun o : Steady × Leaving => o.1.seqApplied.toList.getD (d % 4) 0) (s.replMerged_outside die v)

theorem State.replMerged_cores : (s.replMerged die v).cores = s.cores := by
  rw [State.cores, State.cores, State.replMerged_core, State.replMerged_others]

/-- The cores that get the notice of an update: those of the die whose L1 or chunk has the line, but the one whose write it is. -/
def State.told (s : State) (die : Nat) (v : ReplUpdate) : List Core :=
  s.cores.filter fun c => v.mask != 0 && c.pcn / 384 == die && c.pcn != v.src && c.noticeMatters (sigBit v.line)

theorem State.replApply_eq : s.replApply die v = ({ s.replMerged die v with
    notices := s.notices ++ (s.told die v).map fun c => (c.pcn, v.line) } : State).setApplied die v.num := by
  rw [State.told, ← s.replMerged_cores die v, ← s.replMerged_notices die v]
  rfl

theorem State.mem_replApply_notices (n : Nat × Nat) : n ∈ (s.replApply die v).notices ↔ n ∈ s.notices ∨
    v.mask ≠ 0 ∧ n.2 = v.line ∧ n.1 / 384 = die ∧ n.1 ≠ v.src ∧ ∃ e ∈ s.cores, e.pcn = n.1 ∧ e.noticeMatters (sigBit v.line) = true := by
  rw [State.replApply_eq]
  refine List.mem_append.trans (or_congr_right ?_)
  rw [List.mem_map]
  constructor
  · rintro ⟨c, told, rfl⟩
    obtain ⟨core, matters⟩ := List.mem_filter.1 told
    simp only [Bool.and_eq_true, bne_iff_ne, beq_iff_eq] at matters
    obtain ⟨⟨⟨mask, onDie⟩, other⟩, matters⟩ := matters
    exact ⟨mask, rfl, onDie, other, c, core, rfl, matters⟩
  · rintro ⟨mask, line, onDie, other, c, core, pcn, matters⟩
    refine ⟨c, List.mem_filter.2 ⟨core, ?_⟩, Prod.ext pcn line.symm⟩
    simp only [Bool.and_eq_true, bne_iff_ne, beq_iff_eq, pcn]
    exact ⟨⟨⟨mask, onDie⟩, other⟩, matters⟩

theorem State.replApply_getCore (q : Nat) : (s.replApply die v).getCore q = s.getCore q := by
  rw [State.replApply_eq]
  exact State.getCore_congr (s.replMerged_core die v) (s.replMerged_others die v) q

theorem State.replApply_commits : (s.replApply die v).commits = s.commits := by
  rw [State.replApply_eq]
  exact s.replMerged_commits die v

theorem State.replApply_applied {d : Nat} (hd : d < 4) : (s.replApply die v).applied d = if d = die then v.num else s.applied d := by
  rw [State.replApply_eq, State.setApplied_applied _ hd, ← s.replMerged_applied die v]
  rfl

theorem State.mem_replApply_seqQueue (w : ReplUpdate) :
    w ∈ (s.replApply die v).seqQueue ↔ w ∈ s.seqQueue ∧ ∃ d, d < 4 ∧ (s.replApply die v).applied d < w.num := by
  rw [State.replApply_eq, State.mem_setApplied_seqQueue]
  exact and_congr_left fun _ => by rw [← s.replMerged_seqQueue die v]

theorem State.replApply_dram (room : (s.l2Ways (replHome v.line die) v.line).length + 1 ≤ 16)
    (clean : s.cleanAt (replHome v.line die) v.line (v.pa + die * 2 ^ 38)) : (s.replApply die v).dram = s.dram := by
  rw [State.replApply_eq]
  show (s.replMerged die v).dram = s.dram
  unfold State.replMerged
  split
  · rfl
  · exact (State.merge_touches v.leaf clean room v.mask v.data).dram

theorem State.replApply_find (some_ : v.mask ≠ 0) : ∃ m, (s.replApply die v).l2Find (replHome v.line die) v.line = some m ∧
    m.mergedFrom (s.renew (replHome v.line die) v.line v.leaf (v.pa + die * 2 ^ 38)) (replHome v.line die) v.line (v.pa + die * 2 ^ 38) v.mask v.data := by
  obtain ⟨m, found, merged⟩ := s.merge_find (replHome v.line die) v.line v.leaf (v.pa + die * 2 ^ 38) v.mask v.data
  refine ⟨m, ?_, merged⟩
  rw [State.replApply_eq]
  show (s.replMerged die v).l2Find _ _ = _
  rwa [State.replMerged, if_neg some_]

end

theorem execReplUpdateApply_eq {s : State} {die : Nat} (hdie : die < 4) {v : ReplUpdate}
    (next : s.seqQueue.find? (fun v => v.num == s.applied die + 1) = some v) : exec (.replUpdateApply die) s = .next (s.replApply die v) := by
  show execReplUpdateApply die s = _
  rw [execReplUpdateApply, if_neg (Nat.not_le.2 hdie), next]

/-! ## The notice of a replica home arrives (R148, R136) -/

/-- A signature without the bit of a line does not meet the line's own. -/
theorem and_sigBit_eq_zero {g : BitVec 1024} {x : Nat} (h : g.getLsbD (sigOf x) = false) : g &&& sigBit x = 0 := by
  refine BitVec.eq_of_getLsbD_eq fun i _ => ?_
  refine Eq.trans ?_ BitVec.getLsbD_zero.symm
  rw [BitVec.getLsbD_and, sigBit_getLsbD]
  by_cases own : i = sigOf x
  · rw [own, h, Bool.false_and]
  · rw [decide_eq_false own, Bool.and_false]

/-- A reserved chunk holds back no notice of a line that its signatures do not have (R136). -/
theorem State.noticeHeld_eq_false {s : State} {p x : Nat}
    (apart : s.reservation = some p → ∀ k, (s.getCore p).chunk = some k → (k.rsig ||| k.wsig).getLsbD (sigOf x) = false) : s.noticeHeld p x = false := by
  unfold State.noticeHeld
  cases reserved : s.reservation == some p with
  | false => rfl
  | true =>
    cases chunk : (s.getCore p).chunk with
    | none => rfl
    | some k =>
      have zero := and_sigBit_eq_zero (apart (beq_iff_eq.1 reserved) k chunk)
      simp only [zero, bne_self_eq_false, Bool.and_false]

theorem State.modCore_cores_only (s : State) (p : Nat) (f : Core → Core) :
    s.modCore p f = { s with core := (s.modCore p f).core, others := (s.modCore p f).others } := by
  unfold State.modCore State.putCore
  split <;> rfl

/-- The notice of a replica home reaches its core alone. -/
theorem State.arriveOne_eq {s : State} {n : Nat × Nat} (free : s.noticeHeld n.1 n.2 = false) :
    let t := s.arriveOne n
    t.getCore n.1 = (s.getCore n.1).notice (sigBit n.2) ∧ (∀ q, q ≠ n.1 → t.getCore q = s.getCore q) ∧
      t = { s with core := t.core, others := t.others, notices := s.notices.erase n, submits := t.submits } := by
  have told := State.getCore_modCore_same { s with notices := s.notices.erase n } (f := fun c => c.notice (sigBit n.2)) (p := n.1) (Core.notice_pcn ..)
  have other (q : Nat) (hq : q ≠ n.1) := State.getCore_modCore_other { s with notices := s.notices.erase n } (f := fun c => c.notice (sigBit n.2))
    (p := n.1) (Core.notice_pcn ..) hq
  have only := State.modCore_cores_only { s with notices := s.notices.erase n } n.1 fun c => c.notice (sigBit n.2)
  unfold State.arriveOne
  rw [free, if_neg Bool.false_ne_true]
  refine ⟨(State.getCore_congr rfl rfl _).trans told, fun q hq => (State.getCore_congr rfl rfl q).trans (other q hq), ?_⟩
  dsimp only
  rw [only]

/-- A move that delivers a notice. -/
theorem step_replNotice {s : State} (on : s.powered = true) {p : Nat} {rest : List Act} (ha : s.agenda = .replNotice p :: rest) {n : Nat × Nat}
    (first : s.notices.find? (fun n => n.1 == p) = some n) : step s = .next (({ s with agenda := rest } : State).arriveOne n) := by
  rw [step_eq_of_powered on]
  simp only [State.turn, ha, Turn.run, State.move, first]

end Sys2Proof.Machine
end

section
open Sys2Proof.Machine in
/-- Settles O49: the stages of a grant, the local commit, the replica homes' updates and their notices each have their lemmas. -/
theorem chunkCommits : Obligations.ChunkCommits := by
  unfold Obligations.ChunkCommits
  intro s p c drained room settled
  refine ⟨?_, ?_, ?_, ?_⟩
  · intro k chunk closing submitted free repls hosts nodes far capacity
    have prior := free.imp_right fun h => And.imp_right State.diePrior_eq_false h
    have fitting : s.seqQueue.length + k.replLines ≤ 512 := k.length_replsOf ▸ capacity
    refine ⟨s.granted p k, execRootGrant_eq chunk closing submitted prior fitting, s.granted_commits p k, s.granted_submits p k,
      s.granted_reservation p k (free.imp_right And.left), ?_, fun q hq => ?_, fun fits => ?_,
      fun space x => ⟨fun away => State.granted_find_other space away, fun dst once => ?_⟩,
      s.granted_seqQueue p k, s.granted_hostWrites p k, s.granted_remoteWrites p k⟩
    · have core := (s.getCore p).commit_drained k ((s.granted p k).getCore p).l1
      rw [← State.granted_core] at core
      exact core
    · rw [s.granted_getCore_other p k hq]
      exact Core.notice_noticed _ _
    · have ready : s.slicesReady p k := fits
      refine ⟨(State.select_keeps State.dram (fun _ _ _ => rfl) _ _).trans ready.granted_dram, fun x leaf pa once => ?_⟩
      obtain ⟨m, found, merged, cached⟩ := ready.granted_own once
      refine ⟨m, found, merged.dirty, merged.address.trans (State.paAt_eq ..), fun j hj => ?_, cached⟩
      rw [State.fill_data, merged.bytes, lineByte_lineMerge_bufLine _ _ _ hj]
    · have near {src} (source : dst.source p x = some src) (l) (held : c.l1.filter (fun y => y.line == x) = [⟨x, l, false⟩]) :
          ∃ l', ((s.granted p k).getCore p).l1Find x = some l' ∧
            ∀ j, j < 64 → lineByte l' j = (bufByte k.gbuf (64 * x + j)).getD (lineByte l j) :=
        ⟨_, State.granted_find_held space once source held, fun j hj => lineByte_overlayLine _ _ _ hj⟩
      cases dst with
      | own leaf pa => exact near rfl
      | repl leaf pa => exact near rfl
      | host hpa => exact State.granted_find_far space once rfl
      | remote => exact State.granted_find_far space once rfl
  · intro u k on ha run out chunk closing local_ some_
    have turned : s.turnOf u := .inl ⟨ha, rfl⟩
    clear_value u
    exact ⟨_, step_commits_locally on turned run out chunk closing local_ some_, u.core.commit_drained k u.core.l1, rfl, rfl, rfl⟩
  · intro die hdie v next h
    refine ⟨_, execReplUpdateApply_eq hdie next, fun d hd => s.replApply_applied die v hd, s.replApply_commits die v, s.mem_replApply_seqQueue die v,
      s.replApply_getCore die v, fun fits clean => ⟨s.replApply_dram die v fits clean, fun some_ => ?_⟩, s.mem_replApply_notices die v⟩
    obtain ⟨m, found, merged⟩ := s.replApply_find die v some_
    refine ⟨m, found, merged.dirty, fun j hj => ?_⟩
    rw [State.fill_data, merged.bytes, lineByte_lineMerge _ _ _ hj]
  · intro n rest on ha first apart
    have own : n.1 = p := by simpa using List.find?_some first
    have free : ({ s with agenda := rest } : State).noticeHeld n.1 n.2 = false := by
      rw [own]
      exact State.noticeHeld_eq_false apart
    obtain ⟨told, other, only⟩ := State.arriveOne_eq free
    rw [own] at told other
    refine ⟨_, step_replNotice on ha first, ?_, other, only⟩
    rw [told]
    exact Core.notice_noticed _ _
end

section
/-! SUPPORT. The real number that leading bits stand for, its floors, and the decision of a rounding (R172, R195). -/

namespace Sys2Proof.Machine

/-! ## Leading bits of a real number -/

/-- x is (m + δ)·2^e, with δ = 0, or 0 < δ < 1 when `more`: what a `Val.fin` says of a magnitude. -/
def Leads (m : Nat) (e : Int) (more : Bool) (x : ℝ) : Prop :=
  if more = true then m * (2 : ℝ) ^ e < x ∧ x < (m + 1) * (2 : ℝ) ^ e else x = m * (2 : ℝ) ^ e

section
variable {m : Nat} {e k : Int} {more : Bool} {x : ℝ}

theorem leads_exact : Leads m e false x ↔ x = m * (2 : ℝ) ^ e := by simp [Leads]

theorem leads_more : Leads m e true x ↔ m * (2 : ℝ) ^ e < x ∧ x < (m + 1) * (2 : ℝ) ^ e := by simp [Leads]

theorem Leads.lower (h : Leads m e more x) : m * (2 : ℝ) ^ e ≤ x := by
  cases more with
  | false => exact (leads_exact.1 h).ge
  | true => exact (leads_more.1 h).1.le

theorem Leads.upper (h : Leads m e more x) : x < (m + 1) * (2 : ℝ) ^ e := by
  cases more with
  | false =>
    rw [leads_exact.1 h]
    have pos : (0 : ℝ) < 2 ^ e := by positivity
    nlinarith
  | true => exact (leads_more.1 h).2

/-- The mark says that x is not the number of its leading bits alone. -/
theorem Leads.more_iff (h : Leads m e more x) : more = true ↔ x ≠ m * (2 : ℝ) ^ e := by
  cases more with
  | false => simp [leads_exact.1 h]
  | true => simp [(leads_more.1 h).1.ne']

/-- Bounds and the mark are all that leading bits say. -/
theorem leads_iff : Leads m e more x ↔ m * (2 : ℝ) ^ e ≤ x ∧ x < (m + 1) * (2 : ℝ) ^ e ∧ (more = true ↔ x ≠ m * (2 : ℝ) ^ e) := by
  refine ⟨fun h => ⟨h.lower, h.upper, h.more_iff⟩, fun ⟨low, high, mark⟩ => ?_⟩
  cases more with
  | false => exact leads_exact.2 (by simpa using mark)
  | true => exact leads_more.2 ⟨lt_of_le_of_ne low (mark.1 rfl).symm, high⟩

theorem leads_scale (j : Int) : Leads m e more x ↔ Leads m (e + j) more (x * 2 ^ j) := by
  have pos : (0 : ℝ) < 2 ^ j := by positivity
  have split : (2 : ℝ) ^ (e + j) = 2 ^ e * 2 ^ j := zpow_add₀ two_ne_zero e j
  rw [leads_iff, leads_iff, split, ← mul_assoc, ← mul_assoc, mul_le_mul_iff_left₀ pos, mul_lt_mul_iff_left₀ pos, ne_eq, ne_eq, mul_left_inj' pos.ne']

/-- A number in units of 2^k. -/
theorem leads_units : Leads m k more x ↔ Leads m 0 more (x / 2 ^ k) := by
  rw [leads_scale (-k), add_neg_cancel, zpow_neg, div_eq_mul_inv]

theorem leads_zero_iff : Leads m 0 more x ↔ (m : ℝ) ≤ x ∧ x < m + 1 ∧ (more = true ↔ x ≠ m) := by
  rw [leads_iff, zpow_zero, mul_one, mul_one]

/-- The top bit of the leading bits is that of the number. -/
theorem Leads.two_pow_le (h : Leads m e more x) (pos : 0 < m) : (2 : ℝ) ^ (e + Nat.log2 m) ≤ x := by
  have low : 2 ^ Nat.log2 m ≤ m := Nat.log2_self_le pos.ne'
  have low : (2 : ℝ) ^ Nat.log2 m ≤ m := by exact_mod_cast low
  calc (2 : ℝ) ^ (e + Nat.log2 m) = 2 ^ Nat.log2 m * 2 ^ e := by rw [zpow_add₀ two_ne_zero, zpow_natCast, mul_comm]
    _ ≤ m * 2 ^ e := mul_le_mul_of_nonneg_right low (by positivity)
    _ ≤ x := h.lower

theorem Leads.lt_two_pow (h : Leads m e more x) : x < (2 : ℝ) ^ (e + Nat.log2 m + 1) := by
  have high : m + 1 ≤ 2 ^ (Nat.log2 m + 1) := Nat.lt_log2_self
  have high : (m : ℝ) + 1 ≤ 2 ^ (Nat.log2 m + 1) := by exact_mod_cast high
  calc x < (m + 1) * 2 ^ e := h.upper
    _ ≤ 2 ^ (Nat.log2 m + 1) * 2 ^ e := mul_le_mul_of_nonneg_right high (by positivity)
    _ = 2 ^ (e + Nat.log2 m + 1) := by rw [add_assoc, zpow_add₀ two_ne_zero, mul_comm]; norm_cast

/-- A division by a natural number, whose remainder and fraction are cut. -/
theorem Leads.div (h : Leads m 0 more x) {n : Nat} (npos : 0 < n) : Leads (m / n) 0 (more || m % n != 0) (x / n) := by
  obtain ⟨low, high, mark⟩ := leads_zero_iff.1 h
  have parts : ((n * (m / n) + m % n : Nat) : ℝ) = m := congrArg Nat.cast (Nat.div_add_mod m n)
  have rest : m % n + 1 ≤ n := Nat.mod_lt m npos
  have rest : ((m % n : Nat) : ℝ) + 1 ≤ n := by exact_mod_cast rest
  have nonneg : (0 : ℝ) ≤ (m % n : Nat) := Nat.cast_nonneg _
  have zero : (m % n != 0) = true ↔ ((m % n : Nat) : ℝ) ≠ 0 := by simp
  have pos : (0 : ℝ) < n := by exact_mod_cast npos
  push_cast at parts
  rw [leads_zero_iff, le_div_iff₀ pos, div_lt_iff₀ pos, ne_eq, div_eq_iff pos.ne', Bool.or_eq_true, zero, mark]
  generalize ((m % n : Nat) : ℝ) = r at *
  generalize ((m / n : Nat) : ℝ) = q at *
  refine ⟨by linarith, by linarith, ?_⟩
  rw [ne_eq, ne_eq, ← not_and_or, not_iff_not]
  constructor
  · rintro ⟨rfl, rfl⟩
    linarith
  · intro exact_
    constructor <;> linarith

/-- Cutting the last s bits of a natural number and its fraction. -/
theorem Leads.cut (h : Leads m 0 more x) (s : Nat) : Leads (m / 2 ^ s) 0 (more || m % 2 ^ s != 0) (x / 2 ^ s) := by
  have divided := h.div (Nat.two_pow_pos s)
  rwa [Nat.cast_pow, Nat.cast_ofNat] at divided

/-- Leading bits with whole numbers added and taken away. -/
theorem Leads.add_sub (h : Leads m 0 more x) (a : Nat) {b : Nat} (le : b ≤ m) : Leads (a + (m - b)) 0 more (a + (x - b)) := by
  obtain ⟨low, high, mark⟩ := leads_zero_iff.1 h
  rw [leads_zero_iff, mark, Nat.cast_add, Nat.cast_sub le]
  exact ⟨by linarith, by linarith, not_congr ⟨fun h => by linarith, fun h => by linarith⟩⟩

/-- `floorAt` gives the leading bits down to 2^k. -/
theorem floorAt_leads (h : Leads m e more x) (deep : more = true → e ≤ k) : Leads (floorAt m e more k).1 k (floorAt m e more k).2 x := by
  unfold floorAt
  split
  next wide =>
    cases more with
    | false =>
      have shift : ((e - k).toNat : Int) = e - k := Int.toNat_of_nonneg (by omega)
      have split : (2 : ℝ) ^ e = 2 ^ (e - k).toNat * 2 ^ k := by
        rw [← zpow_natCast, shift, ← zpow_add₀ two_ne_zero, sub_add_cancel]
      dsimp only
      rw [leads_exact, leads_exact.1 h, Nat.shiftLeft_eq, split]
      push_cast
      ring
    | true =>
      obtain rfl : e = k := le_antisymm (deep rfl) wide
      simpa using h
  next narrow =>
    have shift : ((k - e).toNat : Int) = k - e := Int.toNat_of_nonneg (by omega)
    have split : x / (2 : ℝ) ^ k = x / 2 ^ e / 2 ^ (k - e).toNat := by
      rw [div_div, ← zpow_natCast (2 : ℝ) (k - e).toNat, shift, ← zpow_add₀ two_ne_zero, add_sub_cancel]
    dsimp only
    rw [leads_units, Nat.shiftRight_eq_div_pow, split]
    exact (leads_units.1 h).cut _

end

/-! ## The decision of a rounding (R172, R195) -/

/-- Whether a magnitude goes up under a mode other than SR: r is what stands above its lower neighbour, in units of the gap or of the last bit of the
pattern, and `odd` the parity of that neighbour (R172, R177). -/
def roundsUp (rm : Rm) (neg odd : Bool) (r : ℝ) : Prop := match rm with
  | .rne | .sr => 1 / 2 < r ∨ r = 1 / 2 ∧ odd = true
  | .rtz => False
  | .rdn => neg = true ∧ 0 < r
  | .rup => neg = false ∧ 0 < r

/-- Whether a magnitude goes up under SR with the draw u (R195): of a negative number the lower neighbour is the greater magnitude (the signed
reading of log entry 18). -/
def drawnUp (neg : Bool) (u : Nat) (r : ℝ) : Prop := if neg = true then 2 ^ 32 < 2 ^ 32 * r + (u + 1) else u + 1 ≤ 2 ^ 32 * r

/-- A number and its half: the bits of 2y are those of y and the next one. -/
theorem Leads.half {n : Nat} {cut : Bool} {y : ℝ} (h : Leads n 0 cut (2 * y)) : Leads (n / 2) 0 (n % 2 == 1 || cut) y := by
  have := h.cut 1
  rw [pow_one, pow_one, mul_div_cancel_left₀ y two_ne_zero] at this
  have mark : (n % 2 == 1 || cut) = (cut || n % 2 != 0) := by
    rcases Nat.mod_two_eq_zero_or_one n with even | odd <;> simp [*]
  rwa [mark]

/-- `goesUp` decides by the next bit and the rest. -/
theorem goesUp_iff {n : Nat} {cut : Bool} {y : ℝ} (h : Leads n 0 cut (2 * y)) (rm : Rm) (neg odd : Bool) :
    goesUp rm neg odd (n % 2 == 1) cut = true ↔ roundsUp rm neg odd (y - (n / 2 : Nat)) := by
  obtain ⟨low, high, mark⟩ := leads_zero_iff.1 h
  obtain ⟨low', high', mark'⟩ := leads_zero_iff.1 h.half
  have parts : ((2 * (n / 2) + n % 2 : Nat) : ℝ) = n := congrArg Nat.cast (Nat.div_add_mod n 2)
  have above : (n % 2 == 1 || cut) = true ↔ 0 < y - (n / 2 : Nat) := by
    rw [mark', sub_pos, lt_iff_le_and_ne, ne_comm]
    exact (and_iff_right low').symm
  have nearest : ((n % 2 == 1) && (cut || odd)) = true ↔ 1 / 2 < y - (n / 2 : Nat) ∨ y - (n / 2 : Nat) = 1 / 2 ∧ odd = true := by
    push_cast at parts
    generalize ((n / 2 : Nat) : ℝ) = q at *
    rcases Nat.mod_two_eq_zero_or_one n with even | one
    · rw [even] at parts ⊢
      have below : y - q < 1 / 2 := by push_cast at parts; linarith
      refine iff_of_false (by simp) ?_
      rintro (more | ⟨tie, -⟩)
      · exact below.not_gt more
      · exact below.ne tie
    · rw [one] at parts ⊢
      push_cast at parts
      have least : 1 / 2 ≤ y - q := by linarith
      have beyond : cut = true ↔ 1 / 2 < y - q := by
        rw [mark, lt_iff_le_and_ne, and_iff_right least]
        exact not_congr ⟨fun h => by linarith, fun h => by linarith⟩
      have tie : ¬1 / 2 < y - q ↔ y - q = 1 / 2 := ⟨fun h => le_antisymm (not_lt.1 h) least, fun h => h.not_gt⟩
      simp only [BEq.rfl, Bool.true_and, Bool.or_eq_true, beyond, ← tie]
      tauto
  cases rm with
  | rne => exact nearest
  | sr => exact nearest
  | rtz => simp [goesUp, roundsUp]
  | rdn => simp only [goesUp, roundsUp, ← above, Bool.and_eq_true]
  | rup => simp only [goesUp, roundsUp, ← above, Bool.and_eq_true, Bool.not_eq_true']

/-- `srUp` decides by the floor of 2^32 r and whether anything was cut. -/
theorem srUp_iff {t : Nat} {cut : Bool} {r : ℝ} (h : Leads t 0 cut (2 ^ 32 * r)) (neg : Bool) (u : Nat) : srUp neg u t cut = true ↔ drawnUp neg u r := by
  obtain ⟨low, high, mark⟩ := leads_zero_iff.1 h
  unfold srUp drawnUp
  generalize (2 : ℝ) ^ 32 * r = x at *
  cases neg with
  | false =>
    simp only [Bool.false_eq_true, if_false, decide_eq_true_iff]
    constructor
    · intro less
      have less : (u : ℝ) + 1 ≤ t := by exact_mod_cast less
      linarith
    · intro le
      have less : (u : ℝ) + 1 < t + 1 := by linarith
      have less : u + 1 < t + 1 := by exact_mod_cast less
      omega
  | true =>
    simp only [if_true, decide_eq_true_iff]
    cases cut with
    | false =>
      have exact_ : x = t := by simpa using mark
      rw [exact_]
      constructor
      · intro le
        have less : 2 ^ 32 < t + (u + 1) := by simp only [Bool.toNat_false] at le; omega
        exact_mod_cast less
      · intro less
        have less : 2 ^ 32 < t + (u + 1) := by exact_mod_cast less
        simp only [Bool.toNat_false]
        omega
    | true =>
      have above : (t : ℝ) < x := lt_of_le_of_ne low (mark.1 rfl).symm
      constructor
      · intro le
        have le : 2 ^ 32 ≤ t + (u + 1) := by simp only [Bool.toNat_true] at le; omega
        have le : (2 : ℝ) ^ 32 ≤ t + (u + 1) := by exact_mod_cast le
        linarith
      · intro less
        have less : (2 : ℝ) ^ 32 < t + 1 + (u + 1) := by linarith
        have less : 2 ^ 32 < t + 1 + (u + 1) := by exact_mod_cast less
        simp only [Bool.toNat_true]
        omega

/-- A number that is its lower neighbour does not go up. -/
theorem not_roundsUp_zero (rm : Rm) (neg odd : Bool) : ¬roundsUp rm neg odd 0 := by
  cases rm <;> norm_num [roundsUp]

theorem not_drawnUp_zero {u : Nat} (hu : u < 2 ^ 32) (neg : Bool) : ¬drawnUp neg u 0 := by
  have bound : u + 1 ≤ 2 ^ 32 := hu
  have bound : (u : ℝ) + 1 ≤ 2 ^ 32 := by exact_mod_cast bound
  unfold drawnUp
  split
  · linarith
  · have pos : (0 : ℝ) ≤ u := Nat.cast_nonneg u
    linarith

end Sys2Proof.Machine
end

section
/-! SUPPORT. The exact values that the operations of the number formats give, as real numbers (R171, R179, R319). -/

namespace Sys2Proof.Machine

/-! ## Signs -/

/-- The factor of a sign. -/
def signFactor (neg : Bool) : ℝ := if neg = true then -1 else 1

@[simp] theorem signFactor_false : signFactor false = 1 := rfl

@[simp] theorem signFactor_true : signFactor true = -1 := rfl

theorem signFactor_bne (a b : Bool) : signFactor (a != b) = signFactor a * signFactor b := by
  cases a <;> cases b <;> simp

theorem signFactor_not (a : Bool) : signFactor (!a) = -signFactor a := by cases a <;> simp

theorem abs_signFactor_mul (a : Bool) {x : ℝ} (nonneg : 0 ≤ x) : |signFactor a * x| = x := by
  cases a <;> simp [abs_of_nonneg nonneg]

theorem signFactor_mul_neg_iff (a : Bool) {x : ℝ} (pos : 0 < x) : signFactor a * x < 0 ↔ a = true := by
  cases a <;> simp [pos, pos.le]

theorem mul_pos_lt_zero_iff {x c : ℝ} (pos : 0 < c) : x * c < 0 ↔ x < 0 := by
  simpa using mul_lt_mul_iff_left₀ (b := x) (c := 0) pos

/-- A number from its sign and its magnitude. -/
theorem signFactor_mul_abs (x : ℝ) : signFactor (decide (x < 0)) * |x| = x := by
  by_cases neg : x < 0
  · simp [neg, abs_of_neg neg]
  · simp [neg, abs_of_nonneg (not_lt.1 neg)]

/-! ## The largest root (R179, R316) -/

theorem sqrtBits_bound (n k r : Nat) (low : r * r ≤ n) (high : n < (r + 2 ^ k) * (r + 2 ^ k)) :
    sqrtBits n k r * sqrtBits n k r ≤ n ∧ n < (sqrtBits n k r + 1) * (sqrtBits n k r + 1) := by
  induction k generalizing r with
  | zero => exact ⟨low, high⟩
  | succ k ih =>
    have double : r + 2 ^ (k + 1) = r + 2 ^ k + 2 ^ k := by rw [pow_succ]; omega
    rw [double] at high
    unfold sqrtBits
    split
    next fits => exact ih _ fits high
    next above => exact ih _ low (Nat.lt_of_not_le above)

/-- `isqrt` is the root rounded down. -/
theorem isqrt_eq_sqrt (n : Nat) : isqrt n = Nat.sqrt n := by
  have deep : Nat.log2 n + 1 ≤ (Nat.log2 n / 2 + 1) + (Nat.log2 n / 2 + 1) := by omega
  have high : n < (0 + 2 ^ (Nat.log2 n / 2 + 1)) * (0 + 2 ^ (Nat.log2 n / 2 + 1)) := by
    rw [Nat.zero_add, ← pow_add]
    exact Nat.lt_log2_self.trans_le (Nat.pow_le_pow_right (by decide) deep)
  obtain ⟨low, high⟩ := sqrtBits_bound n (Nat.log2 n / 2 + 1) 0 (by simp) high
  exact Nat.eq_sqrt.2 ⟨low, high⟩

/-! ## Exact values -/

/-- A value is exactly the real number x, as every value of a code is (R170, R176). -/
def Val.holds (v : Val) (x : ℝ) : Prop := match v with
  | .zero _ => x = 0
  | .fin neg m e more => more = false ∧ 0 < m ∧ x = signFactor neg * (m * (2 : ℝ) ^ e)
  | _ => False

/-- A value gives the sign and the leading bits of the real number x, which is not 0; 150 of them where something follows. -/
def Val.leads (v : Val) (x : ℝ) : Prop := match v with
  | .fin neg m e more => 0 < m ∧ (more = true → 150 ≤ Nat.log2 m) ∧ (neg = true ↔ x < 0) ∧ Leads m e more |x|
  | _ => False

section
variable {v w z : Val} {x y : ℝ}

/-- A value that holds a number is a zero or has all the number's bits. -/
theorem Val.holds_cases (h : v.holds x) :
    (∃ s, v = .zero s ∧ x = 0) ∨ ∃ s m e, v = .fin s m e false ∧ 0 < m ∧ x = signFactor s * (m * (2 : ℝ) ^ e) ∧ x ≠ 0 := by
  cases v with
  | zero s => exact .inl ⟨s, rfl, h⟩
  | fin s m e more =>
    obtain ⟨rfl, pos, rfl⟩ := h
    refine .inr ⟨s, m, e, rfl, pos, rfl, ?_⟩
    have mag : (m : ℝ) * 2 ^ e ≠ 0 := by positivity
    cases s <;> simpa using mag
  | nar => exact h.elim
  | nan s => exact h.elim
  | inf s => exact h.elim
  | root s j => exact h.elim

theorem Val.holds_zero (h : v.holds 0) : ∃ s, v = .zero s := by
  rcases holds_cases h with ⟨s, rfl, -⟩ | ⟨s, m, e, -, -, -, ne⟩
  · exact ⟨s, rfl⟩
  · exact absurd rfl ne

theorem Val.holds_fin (h : v.holds x) (ne : x ≠ 0) : ∃ s m e, v = .fin s m e false ∧ 0 < m ∧ x = signFactor s * (m * (2 : ℝ) ^ e) := by
  rcases holds_cases h with ⟨-, -, zero⟩ | ⟨s, m, e, fin, pos, eq, -⟩
  · exact absurd zero ne
  · exact ⟨s, m, e, fin, pos, eq⟩

theorem Val.leads_of_holds (h : v.holds x) (ne : x ≠ 0) : v.leads x := by
  obtain ⟨s, m, e, rfl, pos, rfl⟩ := holds_fin h ne
  have mag : (0 : ℝ) < m * 2 ^ e := by positivity
  refine ⟨pos, by simp, (signFactor_mul_neg_iff s mag).symm, ?_⟩
  rw [abs_signFactor_mul s mag.le]
  exact leads_exact.2 rfl

theorem Val.leads_fin (h : v.leads x) : ∃ m e more, v = .fin (decide (x < 0)) m e more ∧ 0 < m ∧ (more = true → 150 ≤ Nat.log2 m) ∧ Leads m e more |x| := by
  cases v with
  | fin s m e more =>
    obtain ⟨pos, deep, sign, lead⟩ := h
    have sign : s = decide (x < 0) := Bool.eq_iff_iff.2 (by simpa using sign)
    exact ⟨m, e, more, by rw [sign], pos, deep, lead⟩
  | zero s => exact h.elim
  | nar => exact h.elim
  | nan s => exact h.elim
  | inf s => exact h.elim
  | root s j => exact h.elim

/-! ## Operations on exact values -/

theorem Val.negate_holds (h : v.holds x) : v.negate.holds (-x) := by
  rcases holds_cases h with ⟨s, rfl, rfl⟩ | ⟨s, m, e, rfl, pos, rfl, -⟩
  · exact neg_zero
  · exact ⟨rfl, pos, by rw [signFactor_not, neg_mul]⟩

/-- The negation of a value, or the value itself. -/
theorem Val.negate_if_holds (h : v.holds x) (a : Bool) : (if a = true then v.negate else v).holds (signFactor a * x) := by
  cases a with
  | false => simpa using h
  | true => simpa using negate_holds h

/-- A shifted mantissa, at the lesser exponent. -/
theorem shift_mul_zpow (m : Nat) {e g : Int} (le : g ≤ e) : ((m <<< (e - g).toNat : Nat) : ℝ) * 2 ^ g = m * 2 ^ e := by
  have shift : ((e - g).toNat : Int) = e - g := Int.toNat_of_nonneg (by omega)
  rw [Nat.shiftLeft_eq, Nat.cast_mul, Nat.cast_pow, mul_assoc, Nat.cast_ofNat, ← zpow_natCast, shift, ← zpow_add₀ two_ne_zero, sub_add_cancel]

/-- The integer that a sum of two dyadics is, in units of the lesser exponent. -/
def addInt (s : Bool) (m : Nat) (e : Int) (t : Bool) (n : Nat) (f : Int) : Int :=
  let a : Int := (m <<< (e - min e f).toNat : Nat)
  let b : Int := (n <<< (f - min e f).toNat : Nat)
  (if s = true then -a else a) + if t = true then -b else b

theorem addInt_mul (s : Bool) (m : Nat) (e : Int) (t : Bool) (n : Nat) (f : Int) :
    (addInt s m e t n f : ℝ) * 2 ^ min e f = signFactor s * (m * 2 ^ e) + signFactor t * (n * 2 ^ f) := by
  have signed (s : Bool) (a : Nat) : ((if s = true then -(a : Int) else a : Int) : ℝ) = signFactor s * a := by cases s <;> simp
  rw [← shift_mul_zpow m (min_le_left e f), ← shift_mul_zpow n (min_le_right e f), addInt, Int.cast_add, signed, signed]
  ring

theorem addFin_eq (rm : Rm) (s : Bool) (m : Nat) (e : Int) (t : Bool) (n : Nat) (f : Int) : addFin rm s m e t n f =
    if addInt s m e t n f = 0 then .zero (rm == .rdn) else
      .fin (decide (addInt s m e t n f < 0)) (addInt s m e t n f).natAbs (min e f) false := rfl

theorem addFin_holds (rm : Rm) (s : Bool) (m : Nat) (e : Int) (t : Bool) (n : Nat) (f : Int) :
    (addFin rm s m e t n f).holds (signFactor s * (m * 2 ^ e) + signFactor t * (n * 2 ^ f)) := by
  rw [← addInt_mul, addFin_eq]
  generalize addInt s m e t n f = i
  split
  next zero => simp [Val.holds, zero]
  next ne =>
    refine ⟨rfl, Int.natAbs_pos.2 ne, ?_⟩
    have sign : decide (i < 0) = decide ((i : ℝ) < 0) := decide_eq_decide.2 (by exact_mod_cast Iff.rfl)
    rw [← mul_assoc, Nat.cast_natAbs, Int.cast_abs, sign, signFactor_mul_abs]

theorem addVal_holds (rm : Rm) (hv : v.holds x) (hw : w.holds y) : (addVal rm v w).1.holds (x + y) ∧ (addVal rm v w).2 = 0 := by
  rcases Val.holds_cases hv with ⟨s, rfl, rfl⟩ | ⟨s, m, e, rfl, mpos, rfl, -⟩ <;>
    rcases Val.holds_cases hw with ⟨t, rfl, rfl⟩ | ⟨t, n, f, rfl, npos, rfl, -⟩
  · exact ⟨add_zero 0, rfl⟩
  · exact ⟨⟨rfl, npos, zero_add _⟩, rfl⟩
  · exact ⟨⟨rfl, mpos, add_zero _⟩, rfl⟩
  · exact ⟨addFin_holds rm s m e t n f, rfl⟩

/-- Two numbers of one sign whose sum is 0 are both 0. -/
theorem Val.zero_of_same_sign (hv : v.holds x) (hw : w.holds y) (same : v.neg? = w.neg?) (zero : x + y = 0) : x = 0 ∧ y = 0 := by
  rcases Val.holds_cases hv with ⟨s, rfl, rfl⟩ | ⟨s, m, e, rfl, mpos, rfl, -⟩ <;>
    rcases Val.holds_cases hw with ⟨t, rfl, rfl⟩ | ⟨t, n, f, rfl, npos, rfl, -⟩
  · exact ⟨rfl, rfl⟩
  · exact ⟨rfl, by rwa [zero_add] at zero⟩
  · exact ⟨by rwa [add_zero] at zero, rfl⟩
  · obtain rfl : s = t := same
    rw [← mul_add] at zero
    have sum : (m : ℝ) * 2 ^ e + n * 2 ^ f ≠ 0 := by positivity
    have sign : signFactor s ≠ 0 := by cases s <;> simp
    exact absurd zero (mul_ne_zero sign sum)

/-- An exact zero sum: of operands of one sign it keeps the sign, otherwise it is +0, or −0 under RDN (R171). -/
theorem addVal_zero_sum (rm : Rm) (hv : v.holds x) (hw : w.holds y) (zero : x + y = 0) :
    addVal rm v w = (.zero (if v.neg? = w.neg? then v.neg? else rm == .rdn), 0) := by
  have same := Val.zero_of_same_sign hv hw
  rcases Val.holds_cases hv with ⟨s, rfl, rfl⟩ | ⟨s, m, e, rfl, mpos, rfl, ne⟩ <;>
    rcases Val.holds_cases hw with ⟨t, rfl, rfl⟩ | ⟨t, n, f, rfl, npos, rfl, ne'⟩
  · rfl
  · exact absurd (by simpa using zero) ne'
  · exact absurd (by simpa using zero) ne
  · have opposite : s ≠ t := fun eq => ne (same eq zero).1
    have sum : addInt s m e t n f = 0 := by
      have := (addInt_mul s m e t n f).trans zero
      rw [mul_eq_zero_iff_right (by positivity)] at this
      exact_mod_cast this
    show (addFin rm s m e t n f, (0 : Flg)) = (.zero (if s = t then s else rm == .rdn), 0)
    rw [addFin_eq, if_pos sum, if_neg opposite]

theorem mulVal_holds (hv : v.holds x) (hw : w.holds y) : (mulVal v w).1.holds (x * y) ∧ (mulVal v w).2 = 0 := by
  rcases Val.holds_cases hv with ⟨s, rfl, rfl⟩ | ⟨s, m, e, rfl, mpos, rfl, -⟩ <;>
    rcases Val.holds_cases hw with ⟨t, rfl, rfl⟩ | ⟨t, n, f, rfl, npos, rfl, -⟩
  · exact ⟨mul_zero 0, rfl⟩
  · exact ⟨zero_mul _, rfl⟩
  · exact ⟨mul_zero _, rfl⟩
  · refine ⟨⟨rfl, Nat.mul_pos mpos npos, ?_⟩, rfl⟩
    rw [signFactor_bne, zpow_add₀ two_ne_zero]
    push_cast
    ring

theorem mulVal_neg? (hv : v.holds x) (hw : w.holds y) : (mulVal v w).1.neg? = (v.neg? != w.neg?) := by
  rcases Val.holds_cases hv with ⟨s, rfl, -⟩ | ⟨s, m, e, rfl, -, -, -⟩ <;>
    rcases Val.holds_cases hw with ⟨t, rfl, -⟩ | ⟨t, n, f, rfl, -, -, -⟩
  · rfl
  · rfl
  · exact bne_comm
  · rfl

theorem Val.isNar_of_holds (h : v.holds x) : v.isNar = false := by
  rcases holds_cases h with ⟨s, rfl, -⟩ | ⟨s, m, e, rfl, -, -, -⟩ <;> rfl

/-- Without a NaR, the fused operation is a product and then a sum. -/
theorem fmaVal_eq (rm : Rm) (hv : v.isNar = false) (hw : w.isNar = false) (hz : z.isNar = false) :
    fmaVal rm v w z = ((addVal rm (mulVal v w).1 z).1, (mulVal v w).2 ||| (addVal rm (mulVal v w).1 z).2) := by
  unfold fmaVal
  rw [hv, hw, hz]
  rfl

theorem noFlags_or (fl : Flg) : (0 : Flg) ||| fl = fl := BitVec.zero_or

/-- Of exact operands, the fused operation is the sum of their product, which raises nothing. -/
theorem fmaVal_of_holds (rm : Rm) {c : ℝ} (hv : v.holds x) (hw : w.holds y) (hz : z.holds c) : fmaVal rm v w z = addVal rm (mulVal v w).1 z := by
  rw [fmaVal_eq rm (Val.isNar_of_holds hv) (Val.isNar_of_holds hw) (Val.isNar_of_holds hz), (mulVal_holds hv hw).2, noFlags_or]

theorem fmaVal_holds (rm : Rm) {c : ℝ} (hv : v.holds x) (hw : w.holds y) (hz : z.holds c) :
    (fmaVal rm v w z).1.holds (x * y + c) ∧ (fmaVal rm v w z).2 = 0 := by
  rw [fmaVal_of_holds rm hv hw hz]
  exact addVal_holds rm (mulVal_holds hv hw).1 hz

/-- The bits of a quotient: at least 199 of them. -/
theorem divFin_leads (s : Bool) {m n : Nat} (mpos : 0 < m) (npos : 0 < n) (e f : Int) :
    (divFin s m e n f).leads (signFactor s * (m * (2 : ℝ) ^ e / (n * 2 ^ f))) := by
  have real : (0 : ℝ) < m * (2 : ℝ) ^ e / (n * 2 ^ f) := by positivity
  have small : n < 2 ^ (Nat.log2 n + 1) := Nat.lt_log2_self
  have large : 2 ^ 199 ≤ m <<< (200 + Nat.log2 n) / n := by
    rw [Nat.le_div_iff_mul_le npos, Nat.shiftLeft_eq]
    calc 2 ^ 199 * n ≤ 2 ^ 199 * 2 ^ (Nat.log2 n + 1) := Nat.mul_le_mul_left _ small.le
      _ = 2 ^ (200 + Nat.log2 n) := by rw [← pow_add]; congr 1; omega
      _ ≤ m * 2 ^ (200 + Nat.log2 n) := Nat.le_mul_of_pos_left _ mpos
  refine ⟨lt_of_lt_of_le (by decide) large, fun _ => ?_, (signFactor_mul_neg_iff s real).symm, ?_⟩
  · rw [Nat.le_log2 (by omega)]
    exact le_trans (by decide) large
  · rw [abs_signFactor_mul s real.le, leads_units]
    have quotient : m * (2 : ℝ) ^ e / (n * 2 ^ f) / 2 ^ (e - f - (200 + Nat.log2 n : Nat)) = ((m <<< (200 + Nat.log2 n) : Nat) : ℝ) / n := by
      have expo : (2 : ℝ) ^ e = 2 ^ (e - f - (200 + Nat.log2 n : Nat)) * 2 ^ f * 2 ^ (200 + Nat.log2 n) := by
        rw [← zpow_natCast, ← zpow_add₀ two_ne_zero, ← zpow_add₀ two_ne_zero]
        congr 1
        omega
      rw [expo, Nat.shiftLeft_eq]
      push_cast
      field_simp
    rw [quotient]
    have whole : Leads (m <<< (200 + Nat.log2 n)) 0 false (m <<< (200 + Nat.log2 n) : Nat) := leads_exact.2 (by rw [zpow_zero, mul_one])
    exact whole.div npos

theorem divVal_leads (tapered : Bool) (hv : v.holds x) (hw : w.holds y) (hx : x ≠ 0) (hy : y ≠ 0) :
    (divVal tapered v w).1.leads (x / y) ∧ (divVal tapered v w).2 = 0 := by
  obtain ⟨s, m, e, rfl, mpos, rfl⟩ := Val.holds_fin hv hx
  obtain ⟨t, n, f, rfl, npos, rfl⟩ := Val.holds_fin hw hy
  have sign : signFactor s * (m * (2 : ℝ) ^ e) / (signFactor t * (n * 2 ^ f)) = signFactor (s != t) * (m * (2 : ℝ) ^ e / (n * 2 ^ f)) := by
    rw [signFactor_bne]
    cases t <;> simp [mul_div_assoc, div_neg]
  rw [sign]
  exact ⟨divFin_leads (s != t) mpos npos e f, rfl⟩

/-- A root by s further bits, where s makes the exponent even. -/
theorem sqrtFin_eq (m : Nat) (e : Int) : ∃ s : Nat, 400 ≤ s ∧ e = 2 * ((e - s) / 2) + s ∧
    sqrtFin m e = .fin false (Nat.sqrt (m <<< s)) ((e - s) / 2) (Nat.sqrt (m <<< s) * Nat.sqrt (m <<< s) != m <<< s) := by
  obtain ⟨s, shift⟩ := Int.eq_ofNat_of_zero_le (show 0 ≤ 400 + e % 2 by omega)
  refine ⟨s, by omega, by omega, ?_⟩
  simp only [sqrtFin, shift, Int.toNat_natCast, isqrt_eq_sqrt]

theorem two_pow_le_sqrt_shiftLeft {m k s : Nat} (pos : 0 < m) (wide : k + k ≤ s) : 2 ^ k ≤ Nat.sqrt (m <<< s) := by
  rw [Nat.le_sqrt, ← pow_add, Nat.shiftLeft_eq]
  exact (Nat.pow_le_pow_right (by decide) wide).trans (Nat.le_mul_of_pos_left _ pos)

/-- The bits of a root: at least 200 of them. -/
theorem sqrtFin_leads {m : Nat} (pos : 0 < m) (e : Int) : (sqrtFin m e).leads √(m * (2 : ℝ) ^ e) := by
  have real : 0 < √(m * (2 : ℝ) ^ e) := Real.sqrt_pos.2 (by positivity)
  obtain ⟨s, wide, even, root⟩ := sqrtFin_eq m e
  have large : 2 ^ 200 ≤ Nat.sqrt (m <<< s) := two_pow_le_sqrt_shiftLeft pos wide
  rw [root]
  refine ⟨lt_of_lt_of_le (by decide) large, fun _ => ?_, iff_of_false Bool.false_ne_true real.le.not_gt, ?_⟩
  · rw [Nat.le_log2 (by omega)]
    exact le_trans (by decide) large
  · have split : (m : ℝ) * 2 ^ e = (m <<< s : Nat) * (2 ^ ((e - s) / 2)) ^ 2 := by
      conv_lhs => rw [even, two_mul, zpow_add₀ two_ne_zero, zpow_add₀ two_ne_zero, zpow_natCast]
      rw [Nat.shiftLeft_eq]
      push_cast
      ring
    have units : √(m * (2 : ℝ) ^ e) / 2 ^ ((e - s) / 2) = √((m <<< s : Nat) : ℝ) := by
      rw [split, Real.sqrt_mul (Nat.cast_nonneg _), Real.sqrt_sq (by positivity), mul_div_cancel_right₀ _ (by positivity)]
    rw [abs_of_pos real, leads_units, units]
    generalize m <<< s = i
    rw [leads_zero_iff]
    refine ⟨Real.nat_sqrt_le_real_sqrt, ?_, ?_⟩
    · exact_mod_cast Real.real_sqrt_lt_nat_sqrt_succ
    · rw [bne_iff_ne, ne_eq, ne_eq, not_iff_not, ← Nat.cast_inj (R := ℝ), Nat.cast_mul, ← sq,
        Real.sqrt_eq_iff_eq_sq (Nat.cast_nonneg _) (Nat.cast_nonneg _), eq_comm]

theorem sqrtVal_leads (tapered : Bool) (hv : v.holds x) (hx : 0 < x) : (sqrtVal tapered v).1.leads √x ∧ (sqrtVal tapered v).2 = 0 := by
  obtain ⟨s, m, e, rfl, pos, rfl⟩ := Val.holds_fin hv hx.ne'
  have mag : (0 : ℝ) < m * 2 ^ e := by positivity
  have positive : s = false := by
    have := mt (signFactor_mul_neg_iff s mag).2 hx.not_gt
    simpa using this
  subst positive
  rw [signFactor_false, one_mul]
  exact ⟨sqrtFin_leads pos e, rfl⟩

end

/-! ## Quotients and roots of codes -/

/-- The quotient and the root of codes, as the instructions compute them (R316, R320). -/
def divCode (k : FmtKind) (tapered : Bool) (rm : Rm) (u x y : Nat) : Nat × Flg :=
  roundRes k rm u (divVal tapered (decodeVal k false x) (decodeVal k false y))

def sqrtCode (k : FmtKind) (tapered : Bool) (rm : Rm) (u x : Nat) : Nat × Flg := roundRes k rm u (sqrtVal tapered (decodeVal k false x))

/-! ## Orders -/

/-- An order of a real number x against numbers that k stands for. -/
def Compares {ι : Type} (cmp : ι → Ordering) (at_ : ι → ℝ) (x : ℝ) : Prop :=
  ∀ k, (cmp k = .lt ↔ x < at_ k) ∧ (cmp k = .gt ↔ at_ k < x)

section
variable {ι : Type} {cmp : ι → Ordering} {at_ : ι → ℝ} {x : ℝ}

theorem Compares.lt_iff (h : Compares cmp at_ x) (k : ι) : cmp k = .lt ↔ x < at_ k := (h k).1

theorem Compares.gt_iff (h : Compares cmp at_ x) (k : ι) : cmp k = .gt ↔ at_ k < x := (h k).2

theorem Compares.eq_iff (h : Compares cmp at_ x) (k : ι) : cmp k = .eq ↔ x = at_ k := by
  have lt := h.lt_iff k
  have gt := h.gt_iff k
  rcases lt_trichotomy x (at_ k) with less | same | more
  · simp [lt.2 less, less.ne]
  · cases c : cmp k <;> simp_all
  · simp [gt.2 more, more.ne']

/-- A comparison of products of integers is the order of a fraction. -/
theorem compares_fraction {n : Int} {d : Nat} (hd : 0 < d) : Compares (fun i : Int => compare n (i * d)) (fun i => (i : ℝ)) (n / d) := by
  have pos : (0 : ℝ) < d := by exact_mod_cast hd
  intro i
  dsimp only
  rw [compare_lt_iff_lt, compare_gt_iff_gt, div_lt_iff₀ pos, lt_div_iff₀ pos]
  constructor <;> exact_mod_cast Iff.rfl

theorem compares_fraction_nat {n d : Nat} (hd : 0 < d) : Compares (fun i : Nat => compare n (i * d)) (fun i => (i : ℝ)) (n / d) := by
  have pos : (0 : ℝ) < d := by exact_mod_cast hd
  intro i
  dsimp only
  rw [compare_lt_iff_lt, compare_gt_iff_gt, div_lt_iff₀ pos, lt_div_iff₀ pos]
  constructor <;> exact_mod_cast Iff.rfl

/-- A comparison with squares is the order of a root. -/
theorem compares_sqrt (n : Nat) : Compares (fun i : Nat => compare n (i * i)) (fun i => (i : ℝ)) √n := by
  intro i
  dsimp only
  rw [compare_lt_iff_lt, compare_gt_iff_gt, Real.sqrt_lt (Nat.cast_nonneg n) (Nat.cast_nonneg i), Real.lt_sqrt (Nat.cast_nonneg i), sq]
  constructor <;> exact_mod_cast Iff.rfl

theorem compares_sqrt_int {n : Int} (nonneg : 0 ≤ n) :
    Compares (fun i : Int => if i < 0 then .gt else compare n (i * i)) (fun i => (i : ℝ)) √n := by
  intro i
  have real : (0 : ℝ) ≤ n := by exact_mod_cast nonneg
  dsimp only
  split
  next neg =>
    have neg : (i : ℝ) < 0 := by exact_mod_cast neg
    have above : (i : ℝ) < √n := neg.trans_le (Real.sqrt_nonneg _)
    exact ⟨iff_of_false (by simp) above.not_gt, iff_of_true rfl above⟩
  next pos =>
    have pos : (0 : ℝ) ≤ i := by exact_mod_cast not_lt.1 pos
    rw [compare_lt_iff_lt, compare_gt_iff_gt, Real.sqrt_lt real pos, Real.lt_sqrt pos, sq]
    constructor <;> exact_mod_cast Iff.rfl

end

end Sys2Proof.Machine
end

section
/-! SUPPORT. One rounding into an IEEE format: the grid of its magnitude codes, and the neighbours of an exact value (R170, R171, R195). -/

namespace Sys2Proof.Machine

/-! ## The formats (R170) -/

/-- What the IEEE formats have in common: a magnitude code is an exponent above a fraction, the greatest exponent is that of ∞ and of the NaNs, and a NaN is
quiet by the top bit of its fraction. -/
structure Ieee.Standard (f : Ieee) : Prop where
  fraction : 2 ≤ f.prec
  narrow : f.prec + 32 ≤ 150
  exponent : f.prec + 1 < f.width
  scale : f.emin ≤ (f.prec : Int) - 1
  inf : f.infCode + 2 ^ (f.prec - 1) = 2 ^ (f.width - 1)
  nan : f.nanCode = f.infCode + 2 ^ (f.prec - 2)

theorem Ieee.standard_of_mem {f : Ieee} (h : f ∈ [ieee32, ieeeBf16, ieee16]) : f.Standard := by
  simp only [List.mem_cons, List.not_mem_nil, or_false] at h
  rcases h with rfl | rfl | rfl
  · exact ⟨by decide, by decide, by decide, by decide, by decide, by decide⟩
  · exact ⟨by decide, by decide, by decide, by decide, by decide, by decide⟩
  · exact ⟨by decide, by decide, by decide, by decide, by decide, by decide⟩

namespace Ieee.Standard
variable {f : Ieee} (hf : f.Standard)
include hf

theorem infCode_lt : f.infCode < 2 ^ (f.width - 1) := by
  have := hf.inf
  have := Nat.two_pow_pos (f.prec - 1)
  omega

theorem two_pow_width : 2 ^ f.width = 2 ^ (f.width - 1) + 2 ^ (f.width - 1) := by
  have := hf.exponent
  rw [← Nat.two_mul, ← pow_succ', Nat.sub_add_cancel (by omega)]

theorem two_pow_prec : 2 ^ f.prec = 2 ^ (f.prec - 1) + 2 ^ (f.prec - 1) := by
  have := hf.fraction
  rw [← Nat.two_mul, ← pow_succ', Nat.sub_add_cancel (by omega)]

theorem two_pow_prec_pred : 2 ^ (f.prec - 1) = 2 * 2 ^ (f.prec - 2) := by
  have := hf.fraction
  rw [← pow_succ']
  congr 1
  omega

theorem two_pow_width_pred : ∃ t, 2 ^ (f.width - 1) = 2 * (2 ^ (f.prec - 2) * t) := by
  have := hf.exponent
  have := hf.fraction
  exact ⟨2 ^ (f.width - f.prec), by rw [← pow_add, ← pow_succ']; congr 1; omega⟩

/-- The least normal number is finite. -/
theorem two_pow_prec_lt : 2 ^ (f.prec - 1) < f.infCode := by
  have := hf.inf
  have := hf.exponent
  have := hf.two_pow_prec
  have : 2 ^ f.prec < 2 ^ (f.width - 1) := Nat.pow_lt_pow_right (by decide) (by omega)
  omega

theorem infCode_pos : 0 < f.infCode := Nat.zero_lt_of_lt hf.two_pow_prec_lt

end Ieee.Standard

/-! ## The grid of magnitude codes (R170) -/

/-- The number of a magnitude code in units of the least subnormal; ∞ and the codes beyond it go on as the exponents do. -/
def Ieee.grid (f : Ieee) (c : Nat) : Nat :=
  if c / 2 ^ (f.prec - 1) = 0 then c % 2 ^ (f.prec - 1) else (2 ^ (f.prec - 1) + c % 2 ^ (f.prec - 1)) * 2 ^ (c / 2 ^ (f.prec - 1) - 1)

/-- A code has the sign and the grid's number of its magnitude. -/
theorem Ieee.units_eq (f : Ieee) (x : Nat) :
    f.units x = if 2 ^ (f.width - 1) ≤ x then -(f.grid (x % 2 ^ (f.width - 1)) : Int) else f.grid (x % 2 ^ (f.width - 1)) := rfl

theorem Ieee.grid_exponent (f : Ieee) (k : Nat) {r : Nat} (hr : r < 2 ^ (f.prec - 1)) :
    f.grid (k * 2 ^ (f.prec - 1) + r) = if k = 0 then r else (2 ^ (f.prec - 1) + r) * 2 ^ (k - 1) := by
  have quotient : (k * 2 ^ (f.prec - 1) + r) / 2 ^ (f.prec - 1) = k := by
    rw [Nat.add_comm, Nat.add_mul_div_right _ _ (Nat.two_pow_pos _), Nat.div_eq_of_lt hr, Nat.zero_add]
  have rest : (k * 2 ^ (f.prec - 1) + r) % 2 ^ (f.prec - 1) = r := by
    rw [Nat.add_comm, Nat.add_mul_mod_self_right, Nat.mod_eq_of_lt hr]
  rw [Ieee.grid, quotient, rest]

theorem Ieee.grid_zero (f : Ieee) : f.grid 0 = 0 := by simp [Ieee.grid]

theorem Ieee.signed_mod {f : Ieee} {c : Nat} (hc : c < 2 ^ (f.width - 1)) (neg : Bool) : f.signed neg c % 2 ^ (f.width - 1) = c := by
  unfold Ieee.signed
  cases neg <;> simp [Nat.mod_eq_of_lt hc]

theorem Ieee.le_signed_iff {f : Ieee} {c : Nat} (hc : c < 2 ^ (f.width - 1)) (neg : Bool) : 2 ^ (f.width - 1) ≤ f.signed neg c ↔ neg = true := by
  unfold Ieee.signed
  cases neg <;> simp [hc]

theorem Ieee.units_signed {f : Ieee} {c : Nat} (hc : c < 2 ^ (f.width - 1)) (neg : Bool) : (f.units (f.signed neg c) : ℝ) = signFactor neg * f.grid c := by
  rw [Ieee.units_eq, Ieee.signed_mod hc]
  simp only [Ieee.le_signed_iff hc]
  cases neg <;> simp

section
variable {f : Ieee} (hf : f.Standard)
include hf

/-- Between two powers of two, and below the least normal number, the grid has one step; the last step ends at the next power. -/
theorem Ieee.grid_step {j q : Nat} (hq : q ≤ 2 ^ f.prec) (normal : j = 0 ∨ 2 ^ (f.prec - 1) ≤ q) : f.grid (j * 2 ^ (f.prec - 1) + q) = q * 2 ^ j := by
  have double := hf.two_pow_prec
  have pos := Nat.two_pow_pos (f.prec - 1)
  by_cases sub : q < 2 ^ (f.prec - 1)
  · obtain rfl : j = 0 := by omega
    rw [f.grid_exponent 0 sub, if_pos rfl, pow_zero, mul_one]
  · by_cases last : q = 2 ^ f.prec
    · have code : j * 2 ^ (f.prec - 1) + q = (j + 2) * 2 ^ (f.prec - 1) + 0 := by rw [last, double]; ring
      rw [code, f.grid_exponent _ pos, if_neg (by omega), last, double, Nat.add_succ_sub_one, pow_succ]
      ring
    · have code : j * 2 ^ (f.prec - 1) + q = (j + 1) * 2 ^ (f.prec - 1) + (q - 2 ^ (f.prec - 1)) := by rw [Nat.succ_mul]; omega
      rw [code, f.grid_exponent _ (by omega), if_neg (by omega), Nat.add_sub_cancel' (by omega), Nat.add_sub_cancel]

theorem Ieee.grid_lt_succ (c : Nat) : f.grid c < f.grid (c + 1) := by
  have double := hf.two_pow_prec
  have pos := Nat.two_pow_pos (f.prec - 1)
  have parts := Nat.div_add_mod' c (2 ^ (f.prec - 1))
  have rest := Nat.mod_lt c pos
  obtain ⟨j, q, code, small, normal⟩ : ∃ j q, c = j * 2 ^ (f.prec - 1) + q ∧ q < 2 ^ f.prec ∧ (j = 0 ∨ 2 ^ (f.prec - 1) ≤ q) := by
    cases expo : c / 2 ^ (f.prec - 1) with
    | zero => exact ⟨0, c, by simp, by rw [expo] at parts; omega, .inl rfl⟩
    | succ j =>
      rw [expo, Nat.succ_mul] at parts
      exact ⟨j, 2 ^ (f.prec - 1) + c % 2 ^ (f.prec - 1), by omega, by omega, by omega⟩
  rw [code, Nat.add_assoc, Ieee.grid_step hf small.le normal, Ieee.grid_step hf (q := q + 1) small (by omega)]
  exact Nat.mul_lt_mul_of_pos_right (Nat.lt_succ_self q) (Nat.two_pow_pos j)

theorem Ieee.grid_strictMono : StrictMono f.grid := strictMono_nat_of_lt_succ (Ieee.grid_lt_succ hf)

/-! ## Signed codes -/

/-- The codes that a result may have: those of numbers and of infinities. -/
def Ieee.IsCode (f : Ieee) (z : Nat) : Prop := f.isFinite z ∨ z = f.infCode ∨ z = 2 ^ (f.width - 1) + f.infCode

theorem Ieee.signed_mod_two (c : Nat) (neg : Bool) : f.signed neg c % 2 = c % 2 := by
  obtain ⟨t, even⟩ := hf.two_pow_width_pred
  unfold Ieee.signed
  split <;> omega

theorem Ieee.isFinite_signed {c : Nat} (hc : c < f.infCode) (neg : Bool) : f.isFinite (f.signed neg c) := by
  have small := hc.trans hf.infCode_lt
  have pos : 0 < f.width := Nat.zero_lt_of_lt hf.exponent
  exact ⟨Ieee.signed_lt pos neg small, by rwa [Ieee.signed_mod small]⟩

/-- Every code below the sign's reach is a sign and a magnitude. -/
theorem Ieee.eq_signed {x : Nat} (hx : x < 2 ^ f.width) : x = f.signed (f.isNeg x) (x % 2 ^ (f.width - 1)) := by
  have double := hf.two_pow_width
  unfold Ieee.signed Ieee.isNeg
  by_cases neg : 2 ^ (f.width - 1) ≤ x
  · rw [decide_eq_true neg, if_pos rfl, Nat.mod_eq_sub_mod neg, Nat.mod_eq_of_lt (by omega)]
    omega
  · rw [decide_eq_false neg, if_neg Bool.false_ne_true, Nat.mod_eq_of_lt (by omega), Nat.zero_add]

theorem Ieee.isCode_iff {z : Nat} : f.IsCode z ↔ ∃ neg c, c ≤ f.infCode ∧ z = f.signed neg c := by
  constructor
  · rintro (⟨wide, small⟩ | rfl | rfl)
    · exact ⟨_, _, small.le, Ieee.eq_signed hf wide⟩
    · exact ⟨false, f.infCode, le_rfl, by simp [Ieee.signed]⟩
    · exact ⟨true, f.infCode, le_rfl, by simp [Ieee.signed]⟩
  · rintro ⟨neg, c, le, rfl⟩
    rcases le.lt_or_eq with less | rfl
    · exact .inl (Ieee.isFinite_signed hf less neg)
    · cases neg with
      | false => exact .inr (.inl (by simp [Ieee.signed]))
      | true => exact .inr (.inr (by simp [Ieee.signed]))

/-! ## The neighbours of a value -/

/-- The parts of `roundedTo`: what each direction asks of a result. -/
def Ieee.Nearest (f : Ieee) (cmp : Int → Ordering) (c : Nat) : Prop :=
  ∀ z, f.IsCode z → (f.units c < f.units z → cmp (2 ^ 31 * (f.units c + f.units z)) = .lt ∨ cmp (2 ^ 31 * (f.units c + f.units z)) = .eq ∧ c % 2 = 0) ∧
    (f.units z < f.units c → cmp (2 ^ 31 * (f.units c + f.units z)) = .gt ∨ cmp (2 ^ 31 * (f.units c + f.units z)) = .eq ∧ c % 2 = 0)

def Ieee.Below (f : Ieee) (cmp : Int → Ordering) (c : Nat) : Prop :=
  c ≠ f.infCode ∧ (c = 2 ^ (f.width - 1) + f.infCode ∨ cmp (2 ^ 32 * f.units c) ≠ .lt) ∧
    ∀ z, f.IsCode z → z ≠ f.infCode → f.units c < f.units z → cmp (2 ^ 32 * f.units z) = .lt

def Ieee.Above (f : Ieee) (cmp : Int → Ordering) (c : Nat) : Prop :=
  c ≠ 2 ^ (f.width - 1) + f.infCode ∧ (c = f.infCode ∨ cmp (2 ^ 32 * f.units c) ≠ .gt) ∧
    ∀ z, f.IsCode z → z ≠ 2 ^ (f.width - 1) + f.infCode → f.units z < f.units c → cmp (2 ^ 32 * f.units z) = .gt

def Ieee.Drawn (f : Ieee) (u : Nat) (cmp : Int → Ordering) (c : Nat) : Prop :=
  ∃ lo hi, f.IsCode lo ∧ f.IsCode hi ∧ f.units lo < f.units hi ∧ (∀ z, f.IsCode z → f.units z ≤ f.units lo ∨ f.units hi ≤ f.units z) ∧
    cmp (2 ^ 32 * f.units lo) ≠ .lt ∧ cmp (2 ^ 32 * f.units hi) = .lt ∧
    f.units c = if cmp (2 ^ 32 * f.units lo + (u + 1) * (f.units hi - f.units lo)) ≠ .lt then f.units hi else f.units lo

omit hf in
theorem Ieee.roundedTo_iff (rm : Rm) (u : Nat) (neg : Bool) (cmp : Int → Ordering) (c : Nat) : f.roundedTo rm u neg cmp c ↔
    f.IsCode c ∧ (2 ^ (f.width - 1) ≤ c ↔ neg = true) ∧ match rm with
      | .rne => f.Nearest cmp c
      | .rtz => if neg = true then f.Above cmp c else f.Below cmp c
      | .rdn => f.Below cmp c
      | .rup => f.Above cmp c
      | .sr => if cmp (2 ^ 32 * f.units (f.infCode - 1)) = .gt ∨ cmp (2 ^ 32 * f.units (2 ^ (f.width - 1) + f.infCode - 1)) = .lt then f.Nearest cmp c
          else f.Drawn u cmp c := by
  cases rm <;> rfl

/-- Codes a and b of neighbouring numbers with x from the one to the other. -/
structure Ieee.Neighbours (f : Ieee) (x : ℝ) (a b : Nat) : Prop where
  codeA : f.IsCode a
  codeB : f.IsCode b
  less : f.units a < f.units b
  apart : ∀ z, f.IsCode z → f.units z ≤ f.units a ∨ f.units b ≤ f.units z
  low : (f.units a : ℝ) ≤ x
  high : x ≤ f.units b

end

/-- The order of x, given by a comparison with k / 2^32 for each k. -/
def ComparesUnits (cmp : Int → Ordering) (x : ℝ) : Prop := Compares cmp (fun k => (k : ℝ)) (2 ^ 32 * x)

section
variable {cmp : Int → Ordering} {x : ℝ} (hc : ComparesUnits cmp x)
include hc

theorem ComparesUnits.lt_iff (n : Int) : cmp (2 ^ 32 * n) = .lt ↔ x < n := by
  rw [Compares.lt_iff hc]
  push_cast
  constructor <;> intro h <;> linarith

theorem ComparesUnits.gt_iff (n : Int) : cmp (2 ^ 32 * n) = .gt ↔ n < x := by
  rw [Compares.gt_iff hc]
  push_cast
  constructor <;> intro h <;> linarith

theorem ComparesUnits.mid_lt_iff (n m : Int) : cmp (2 ^ 31 * (n + m)) = .lt ↔ 2 * x < n + m := by
  rw [Compares.lt_iff hc]
  push_cast
  constructor <;> intro h <;> linarith

theorem ComparesUnits.mid_gt_iff (n m : Int) : cmp (2 ^ 31 * (n + m)) = .gt ↔ n + m < 2 * x := by
  rw [Compares.gt_iff hc]
  push_cast
  constructor <;> intro h <;> linarith

theorem ComparesUnits.mid_eq_iff (n m : Int) : cmp (2 ^ 31 * (n + m)) = .eq ↔ 2 * x = n + m := by
  rw [Compares.eq_iff hc]
  push_cast
  constructor <;> intro h <;> linarith

/-- The nearest of two neighbours: the lower one below their middle, the upper one above it, an even one at it. -/
theorem Ieee.Neighbours.nearest {f : Ieee} {a b c : Nat} (h : f.Neighbours x a b)
    (near : f.units c = f.units a ∧ (2 * x < f.units a + f.units b ∨ 2 * x = f.units a + f.units b ∧ c % 2 = 0) ∨
      f.units c = f.units b ∧ ((f.units a + f.units b : ℝ) < 2 * x ∨ 2 * x = f.units a + f.units b ∧ c % 2 = 0)) : f.Nearest cmp c := by
  have low := h.low
  have high := h.high
  have less : (f.units a : ℝ) < f.units b := by exact_mod_cast h.less
  intro z code
  have apart := h.apart z code
  simp only [hc.mid_lt_iff, hc.mid_gt_iff, hc.mid_eq_iff]
  have apart : (f.units z : ℝ) ≤ f.units a ∨ (f.units b : ℝ) ≤ f.units z := by exact_mod_cast apart
  rcases near with ⟨eq, near⟩ | ⟨eq, near⟩
  · rw [eq]
    constructor
    · intro above
      have above : (f.units b : ℝ) ≤ f.units z := apart.resolve_left (not_le.2 (by exact_mod_cast above))
      rcases near with near | ⟨tie, even⟩
      · exact .inl (by linarith)
      · rcases above.lt_or_eq with above | same
        · exact .inl (by linarith)
        · exact .inr ⟨by linarith, even⟩
    · intro below
      have below : (f.units z : ℝ) < f.units a := by exact_mod_cast below
      exact .inl (by linarith)
  · rw [eq]
    constructor
    · intro above
      have above : (f.units b : ℝ) < f.units z := by exact_mod_cast above
      exact .inl (by linarith)
    · intro below
      have below : (f.units z : ℝ) ≤ f.units a := apart.resolve_right (not_le.2 (by exact_mod_cast below))
      rcases near with near | ⟨tie, even⟩
      · exact .inl (by linarith)
      · rcases below.lt_or_eq with below | same
        · exact .inl (by linarith)
        · exact .inr ⟨by linarith, even⟩

/-- Toward −∞: the lower neighbour, or the upper one where it is the value. -/
theorem Ieee.Neighbours.below {f : Ieee} {a b c : Nat} (h : f.Neighbours x a b) (finite : c ≠ f.infCode)
    (near : f.units c = f.units a ∧ x < f.units b ∨ f.units c = f.units b ∧ x = f.units b) : f.Below cmp c := by
  have low := h.low
  refine ⟨finite, .inr ?_, fun z code _ above => (hc.lt_iff _).2 ?_⟩
  · rw [ne_eq, hc.lt_iff]
    rcases near with ⟨eq, -⟩ | ⟨eq, at_⟩
    · rw [eq]; exact low.not_gt
    · rw [eq, at_]; exact lt_irrefl _
  · rcases near with ⟨eq, less⟩ | ⟨eq, at_⟩
    · have above : f.units b ≤ f.units z := (h.apart z code).resolve_left (not_le.2 (eq ▸ above))
      exact lt_of_lt_of_le less (by exact_mod_cast above)
    · rw [at_, ← eq]
      exact_mod_cast above

/-- Toward +∞: the upper neighbour, or the lower one where it is the value. -/
theorem Ieee.Neighbours.above {f : Ieee} {a b c : Nat} (h : f.Neighbours x a b) (finite : c ≠ 2 ^ (f.width - 1) + f.infCode)
    (near : f.units c = f.units b ∧ f.units a < x ∨ f.units c = f.units a ∧ x = f.units a) : f.Above cmp c := by
  have high := h.high
  refine ⟨finite, .inr ?_, fun z code _ below => (hc.gt_iff _).2 ?_⟩
  · rw [ne_eq, hc.gt_iff]
    rcases near with ⟨eq, -⟩ | ⟨eq, at_⟩
    · rw [eq]; exact high.not_gt
    · rw [eq, at_]; exact lt_irrefl _
  · rcases near with ⟨eq, less⟩ | ⟨eq, at_⟩
    · have below : f.units z ≤ f.units a := (h.apart z code).resolve_right (not_le.2 (eq ▸ below))
      exact lt_of_le_of_lt (by exact_mod_cast below) less
    · rw [at_, ← eq]
      exact_mod_cast below

/-- Under SR: the upper neighbour with the draws below the value's share of the gap (R195). -/
theorem Ieee.Neighbours.drawn {f : Ieee} {a b c u : Nat} (h : f.Neighbours x a b) (open_ : x < f.units b)
    (up : ((u + 1) * (f.units b - f.units a) : ℝ) ≤ 2 ^ 32 * (x - f.units a) → f.units c = f.units b)
    (stay : ¬((u + 1) * (f.units b - f.units a) : ℝ) ≤ 2 ^ 32 * (x - f.units a) → f.units c = f.units a) : f.Drawn u cmp c := by
  refine ⟨a, b, h.codeA, h.codeB, h.less, h.apart, ?_, (hc.lt_iff _).2 open_, ?_⟩
  · rw [ne_eq, hc.lt_iff]
    exact h.low.not_gt
  · have share : cmp (2 ^ 32 * f.units a + (u + 1) * (f.units b - f.units a)) ≠ .lt ↔
        ((u + 1) * (f.units b - f.units a) : ℝ) ≤ 2 ^ 32 * (x - f.units a) := by
      rw [ne_eq, Compares.lt_iff hc, not_lt]
      push_cast
      constructor <;> intro h <;> linarith
    simp only [share]
    split
    next le => exact up le
    next gt => exact stay gt

end

end Sys2Proof.Machine
end

section
/-! SUPPORT. The result of a rounding from the cell of the grid that holds the exact value (R171, R172, R195). -/

namespace Sys2Proof.Machine

/-! ## The cell of a magnitude -/

/-- What stands above a magnitude code, in units of the gap to the next one. -/
noncomputable def Ieee.share (f : Ieee) (c : Nat) (x : ℝ) : ℝ := (x - f.grid c) / (f.grid (c + 1) - f.grid c)

/-- Whether a magnitude goes up from its lower code: by the draw under SR, unless it lies above the largest finite number, and else by its mode (R172, R195). -/
def Ieee.GoesUp (f : Ieee) (rm : Rm) (u : Nat) (neg : Bool) (c : Nat) (x : ℝ) : Prop :=
  if rm = .sr ∧ c + 1 < f.infCode then drawnUp neg u (f.share c x) else roundsUp rm neg (c % 2 == 1) (f.share c x)

/-- The modes that carry a number beyond the format to an infinity (R171). -/
def overflowsToInf (rm : Rm) (neg : Bool) : Bool := match rm with
  | .rne | .sr => true
  | .rtz => false
  | .rdn => neg
  | .rup => !neg

/-- A rounded magnitude code, or what stands for it beyond the format. -/
def Ieee.clip (f : Ieee) (rm : Rm) (neg : Bool) (code : Nat) : Nat :=
  if f.infCode ≤ code then (if overflowsToInf rm neg = true then f.infCode else f.infCode - 1) else code

/-- A number that goes up to the code of an infinity does so in a mode that carries it there. -/
theorem roundsUp.toInf {rm : Rm} {neg odd : Bool} {r : ℝ} (h : roundsUp rm neg odd r) : overflowsToInf rm neg = true := by
  cases rm with
  | rne => rfl
  | sr => rfl
  | rtz => exact h.elim
  | rdn => exact h.1
  | rup => rw [overflowsToInf, h.1]; rfl

section
variable {f : Ieee} (hf : f.Standard) {c : Nat} {x : ℝ}
include hf

theorem Ieee.grid_gap (c : Nat) : (0 : ℝ) < f.grid (c + 1) - f.grid c := by
  have less : (f.grid c : ℝ) < f.grid (c + 1) := by exact_mod_cast Ieee.grid_lt_succ hf c
  linarith

theorem Ieee.share_pos_iff : 0 < f.share c x ↔ f.grid c < x := by
  rw [Ieee.share, lt_div_iff₀ (Ieee.grid_gap hf c), zero_mul, sub_pos]

theorem Ieee.share_eq_zero_iff : f.share c x = 0 ↔ x = f.grid c := by
  rw [Ieee.share, div_eq_zero_iff, or_iff_left (Ieee.grid_gap hf c).ne', sub_eq_zero]

theorem Ieee.half_lt_share_iff : 1 / 2 < f.share c x ↔ (f.grid c : ℝ) + f.grid (c + 1) < 2 * x := by
  rw [Ieee.share, lt_div_iff₀ (Ieee.grid_gap hf c)]
  constructor <;> intro h <;> linarith

theorem Ieee.share_eq_half_iff : f.share c x = 1 / 2 ↔ 2 * x = (f.grid c : ℝ) + f.grid (c + 1) := by
  rw [Ieee.share, div_eq_iff (Ieee.grid_gap hf c).ne']
  constructor <;> intro h <;> linarith

theorem Ieee.drawnUp_share_pos (u : Nat) :
    drawnUp false u (f.share c x) ↔ ((u + 1) * (f.grid (c + 1) - f.grid c) : ℝ) ≤ 2 ^ 32 * (x - f.grid c) := by
  rw [Ieee.share, drawnUp, if_neg Bool.false_ne_true, ← mul_div_assoc, le_div_iff₀ (Ieee.grid_gap hf c)]

theorem Ieee.drawnUp_share_neg (u : Nat) :
    drawnUp true u (f.share c x) ↔ ¬((u + 1) * (f.grid (c + 1) - f.grid c) : ℝ) ≤ 2 ^ 32 * (f.grid (c + 1) - x) := by
  have gap := Ieee.grid_gap hf c
  rw [Ieee.share, drawnUp, if_pos rfl, ← sub_lt_iff_lt_add, ← mul_div_assoc, lt_div_iff₀ gap, not_le]
  constructor <;> intro h <;> linarith

/-- The grid below ∞: what a code of a magnitude at most that holds. -/
theorem Ieee.grid_le {b c : Nat} (h : b ≤ c) : (f.grid b : ℝ) ≤ f.grid c := by
  exact_mod_cast (Ieee.grid_strictMono hf).monotone h

theorem Ieee.units_signed_of_le {c : Nat} (small : c ≤ f.infCode) (neg : Bool) : (f.units (f.signed neg c) : ℝ) = signFactor neg * f.grid c :=
  Ieee.units_signed (lt_of_le_of_lt small hf.infCode_lt) neg

theorem Ieee.isCode_signed {c : Nat} (small : c ≤ f.infCode) (neg : Bool) : f.IsCode (f.signed neg c) := (Ieee.isCode_iff hf).2 ⟨neg, c, small, rfl⟩

theorem Ieee.signed_true_ne_inf (c : Nat) : f.signed true c ≠ f.infCode := by
  have := hf.infCode_lt
  unfold Ieee.signed
  simp only [if_true]
  omega

theorem Ieee.signed_false_ne_ninf {c : Nat} (small : c ≤ f.infCode) : f.signed false c ≠ 2 ^ (f.width - 1) + f.infCode := by
  have := hf.infCode_lt
  unfold Ieee.signed
  simp only [Bool.false_eq_true, if_false]
  omega

/-! ## A value below the code of ∞ -/

/-- The two codes of a cell are neighbours, on either side of zero. -/
theorem Ieee.neighbours_pos (finite : c < f.infCode) (low : f.grid c ≤ x) (high : x ≤ f.grid (c + 1)) :
    f.Neighbours x (f.signed false c) (f.signed false (c + 1)) := by
  have a := Ieee.units_signed_of_le hf finite.le false
  have b := Ieee.units_signed_of_le hf (c := c + 1) finite false
  simp only [signFactor_false, one_mul] at a b
  refine ⟨Ieee.isCode_signed hf finite.le _, Ieee.isCode_signed hf finite _, ?_, fun z code => ?_, a ▸ low, b ▸ high⟩
  · rw [← Int.cast_lt (R := ℝ), a, b]
    exact_mod_cast Ieee.grid_lt_succ hf c
  · obtain ⟨neg, d, small, rfl⟩ := (Ieee.isCode_iff hf).1 code
    simp only [← Int.cast_le (R := ℝ), a, b, Ieee.units_signed_of_le hf small]
    cases neg with
    | false =>
      rw [signFactor_false, one_mul]
      exact (Nat.lt_or_ge c d).symm.imp (Ieee.grid_le hf) (Ieee.grid_le hf)
    | true =>
      left
      have : (0 : ℝ) ≤ f.grid d := Nat.cast_nonneg _
      have : (0 : ℝ) ≤ f.grid c := Nat.cast_nonneg _
      rw [signFactor_true]
      linarith

theorem Ieee.neighbours_neg (finite : c < f.infCode) (low : f.grid c ≤ x) (high : x ≤ f.grid (c + 1)) :
    f.Neighbours (-x) (f.signed true (c + 1)) (f.signed true c) := by
  have a := Ieee.units_signed_of_le hf finite.le true
  have b := Ieee.units_signed_of_le hf (c := c + 1) finite true
  simp only [signFactor_true, neg_mul, one_mul] at a b
  refine ⟨Ieee.isCode_signed hf finite _, Ieee.isCode_signed hf finite.le _, ?_, fun z code => ?_, b ▸ neg_le_neg high, a ▸ neg_le_neg low⟩
  · rw [← Int.cast_lt (R := ℝ), a, b, neg_lt_neg_iff]
    exact_mod_cast Ieee.grid_lt_succ hf c
  · obtain ⟨neg, d, small, rfl⟩ := (Ieee.isCode_iff hf).1 code
    simp only [← Int.cast_le (R := ℝ), a, b, Ieee.units_signed_of_le hf small]
    cases neg with
    | true =>
      rw [signFactor_true, neg_mul, one_mul, neg_le_neg_iff, neg_le_neg_iff]
      exact (Nat.lt_or_ge c d).imp (Ieee.grid_le hf) (Ieee.grid_le hf)
    | false =>
      right
      have : (0 : ℝ) ≤ f.grid d := Nat.cast_nonneg _
      have : (0 : ℝ) ≤ f.grid c := Nat.cast_nonneg _
      rw [signFactor_false]
      linarith

variable {cmp : Int → Ordering} {neg up : Bool} {u : Nat}

/-- The code that a magnitude in a cell rounds to. -/
theorem Ieee.units_signed_up (finite : c < f.infCode) :
    (f.units (f.signed neg (c + up.toNat)) : ℝ) = signFactor neg * if up = true then (f.grid (c + 1) : ℝ) else f.grid c := by
  have one := Bool.toNat_le up
  rw [Ieee.units_signed_of_le hf (by omega)]
  cases up <;> rfl

theorem Ieee.cell_nearest (hc : ComparesUnits cmp (signFactor neg * x)) (finite : c < f.infCode) (low : f.grid c ≤ x) (high : x < f.grid (c + 1))
    (decision : up = true ↔ 1 / 2 < f.share c x ∨ f.share c x = 1 / 2 ∧ (c % 2 == 1) = true) : f.Nearest cmp (f.signed neg (c + up.toNat)) := by
  have value := Ieee.units_signed_up hf (neg := neg) (up := up) finite
  have a := Ieee.units_signed_of_le hf finite.le neg
  have b := Ieee.units_signed_of_le hf (c := c + 1) finite neg
  have parity := Ieee.signed_mod_two hf (c + up.toNat) neg
  rw [Ieee.half_lt_share_iff hf, Ieee.share_eq_half_iff hf, beq_iff_eq] at decision
  have near : if up = true then (f.grid c + f.grid (c + 1) : ℝ) < 2 * x ∨ 2 * x = f.grid c + f.grid (c + 1) ∧ f.signed neg (c + up.toNat) % 2 = 0
      else 2 * x < f.grid c + f.grid (c + 1) ∨ 2 * x = f.grid c + f.grid (c + 1) ∧ f.signed neg (c + up.toNat) % 2 = 0 := by
    rw [parity]
    cases up with
    | true =>
      refine (decision.1 rfl).imp_right fun ⟨tie, odd⟩ => ⟨tie, ?_⟩
      simp only [Bool.toNat_true]
      omega
    | false =>
      have stay := mt decision.2 Bool.false_ne_true
      rw [not_or, not_and, not_lt] at stay
      exact stay.1.lt_or_eq.imp_right fun tie => ⟨tie, by have := stay.2 tie; simp only [Bool.toNat_false]; omega⟩
  generalize f.signed neg (c + up.toNat) = z at *
  cases neg with
  | false =>
    rw [signFactor_false, one_mul] at a b value
    refine Ieee.Neighbours.nearest (by simpa using hc) (Ieee.neighbours_pos hf finite low high.le) ?_
    simp only [← Int.cast_inj (α := ℝ), value, a, b]
    cases up with
    | true => exact .inr ⟨rfl, near⟩
    | false => exact .inl ⟨rfl, near⟩
  | true =>
    rw [signFactor_true, neg_mul, one_mul] at a b value
    refine Ieee.Neighbours.nearest (by simpa using hc) (Ieee.neighbours_neg hf finite low high.le) ?_
    simp only [← Int.cast_inj (α := ℝ), value, a, b]
    cases up with
    | true => exact .inl ⟨rfl, near.imp (fun h => by linarith) fun h => ⟨by linarith [h.1], h.2⟩⟩
    | false => exact .inr ⟨rfl, near.imp (fun h => by linarith) fun h => ⟨by linarith [h.1], h.2⟩⟩

/-- A magnitude that is cut goes toward zero. -/
theorem Ieee.cell_below_pos (hc : ComparesUnits cmp x) (finite : c < f.infCode) (low : f.grid c ≤ x) (high : x < f.grid (c + 1)) :
    f.Below cmp (f.signed false c) := by
  have b := Ieee.units_signed_of_le hf (c := c + 1) finite false
  have ne : f.signed false c ≠ f.infCode := by simpa [Ieee.signed] using finite.ne
  exact (Ieee.neighbours_pos hf finite low high.le).below hc ne (.inl ⟨rfl, by simpa [b] using high⟩)

theorem Ieee.cell_above_neg (hc : ComparesUnits cmp (-x)) (finite : c < f.infCode) (low : f.grid c ≤ x) (high : x < f.grid (c + 1)) :
    f.Above cmp (f.signed true c) := by
  have b := Ieee.units_signed_of_le hf (c := c + 1) finite true
  have ne : f.signed true c ≠ 2 ^ (f.width - 1) + f.infCode := by simpa [Ieee.signed] using finite.ne
  exact (Ieee.neighbours_neg hf finite low high.le).above hc ne (.inl ⟨rfl, by simpa [b] using high⟩)

/-- A magnitude that goes up unless it is exact goes away from zero. -/
theorem Ieee.cell_above_pos (hc : ComparesUnits cmp x) (finite : c < f.infCode) (low : f.grid c ≤ x) (high : x < f.grid (c + 1))
    (decision : up = true ↔ 0 < f.share c x) : f.Above cmp (f.signed false (c + up.toNat)) := by
  have one := Bool.toNat_le up
  have a := Ieee.units_signed_of_le hf finite.le false
  rw [Ieee.share_pos_iff hf] at decision
  refine (Ieee.neighbours_pos hf finite low high.le).above hc (Ieee.signed_false_ne_ninf hf (by omega)) ?_
  cases up with
  | true => exact .inl ⟨rfl, by simpa [a] using decision.1 rfl⟩
  | false => exact .inr ⟨rfl, by simpa [a] using le_antisymm (by simpa using decision) low⟩

theorem Ieee.cell_below_neg (hc : ComparesUnits cmp (-x)) (finite : c < f.infCode) (low : f.grid c ≤ x) (high : x < f.grid (c + 1))
    (decision : up = true ↔ 0 < f.share c x) : f.Below cmp (f.signed true (c + up.toNat)) := by
  have a := Ieee.units_signed_of_le hf finite.le true
  rw [Ieee.share_pos_iff hf] at decision
  refine (Ieee.neighbours_neg hf finite low high.le).below hc (Ieee.signed_true_ne_inf hf _) ?_
  cases up with
  | true => exact .inl ⟨rfl, by simpa [a] using decision.1 rfl⟩
  | false => exact .inr ⟨rfl, by simpa [a] using le_antisymm (by simpa using decision) low⟩

/-- Under SR a positive value lies in its own cell. -/
theorem Ieee.cell_drawn_pos (hc : ComparesUnits cmp x) (finite : c < f.infCode) (low : f.grid c ≤ x) (high : x < f.grid (c + 1))
    (decision : up = true ↔ drawnUp false u (f.share c x)) : f.Drawn u cmp (f.signed false (c + up.toNat)) := by
  have a := Ieee.units_signed_of_le hf finite.le false
  have b := Ieee.units_signed_of_le hf (c := c + 1) finite false
  rw [signFactor_false, one_mul] at a b
  rw [Ieee.drawnUp_share_pos hf] at decision
  refine (Ieee.neighbours_pos hf finite low high.le).drawn hc (b ▸ high) ?_ ?_
  · rw [a, b]
    intro share
    rw [decision.2 share]
    rfl
  · rw [a, b]
    intro share
    rw [Bool.eq_false_iff.2 (mt decision.1 share)]
    rfl

/-- Under SR a negative value lies in its own cell, or at the end of the next one where it is exact. -/
theorem Ieee.cell_drawn_neg (hc : ComparesUnits cmp (-x)) (hu : u < 2 ^ 32) (finite : c < f.infCode) (pos : 0 < x) (low : f.grid c ≤ x)
    (high : x < f.grid (c + 1)) (decision : up = true ↔ drawnUp true u (f.share c x)) : f.Drawn u cmp (f.signed true (c + up.toNat)) := by
  have a := Ieee.units_signed_of_le hf finite.le true
  have b := Ieee.units_signed_of_le hf (c := c + 1) finite true
  rw [signFactor_true, neg_mul, one_mul] at a b
  by_cases exact_ : x = f.grid c
  · obtain ⟨d, rfl⟩ : ∃ d, c = d + 1 := Nat.exists_eq_add_one.2 (Nat.pos_of_ne_zero fun zero => by
      rw [exact_, zero, Ieee.grid_zero] at pos
      simp at pos)
    have d' := Ieee.units_signed_of_le hf (c := d) (by omega) true
    rw [signFactor_true, neg_mul, one_mul] at d'
    have gap := Ieee.grid_gap hf d
    have stays : up = false := by
      rw [(Ieee.share_eq_zero_iff hf).2 exact_] at decision
      exact Bool.eq_false_iff.2 (mt decision.1 (not_drawnUp_zero hu true))
    rw [stays]
    refine (Ieee.neighbours_neg hf (by omega) (by linarith) exact_.le).drawn hc (by rw [d']; linarith) (fun share => ?_) fun _ => rfl
    rw [a, d', exact_] at share
    have : (0 : ℝ) ≤ u := Nat.cast_nonneg u
    nlinarith
  · have above : f.grid c < x := lt_of_le_of_ne low (Ne.symm exact_)
    have flip : ((u + 1) * (-f.grid c - -f.grid (c + 1)) : ℝ) ≤ 2 ^ 32 * (-x - -f.grid (c + 1)) ↔
        ((u + 1) * (f.grid (c + 1) - f.grid c) : ℝ) ≤ 2 ^ 32 * (f.grid (c + 1) - x) := by
      constructor <;> intro h <;> linarith
    rw [Ieee.drawnUp_share_neg hf] at decision
    refine (Ieee.neighbours_neg hf finite low high.le).drawn hc (a ▸ neg_lt_neg above) ?_ ?_
    · rw [a, b, flip]
      intro share
      rw [Bool.eq_false_iff.2 (mt decision.1 (not_not.2 share))]
      rfl
    · rw [a, b, flip]
      intro share
      rw [decision.2 share]
      rfl

/-! ## A value beyond the format -/

theorem Ieee.units_le {z : Nat} (code : f.IsCode z) : (f.units z : ℝ) ≤ f.grid f.infCode ∧ -(f.grid f.infCode : ℝ) ≤ f.units z := by
  obtain ⟨neg, d, small, rfl⟩ := (Ieee.isCode_iff hf).1 code
  have le := Ieee.grid_le hf small
  have : (0 : ℝ) ≤ f.grid d := Nat.cast_nonneg _
  rw [Ieee.units_signed_of_le hf small]
  cases neg with
  | false =>
    rw [signFactor_false, one_mul]
    constructor <;> linarith
  | true =>
    rw [signFactor_true, neg_mul, one_mul]
    constructor <;> linarith

theorem Ieee.units_le_finite {z : Nat} (code : f.IsCode z) (ne : z ≠ f.infCode) : (f.units z : ℝ) ≤ f.grid (f.infCode - 1) := by
  obtain ⟨neg, d, small, rfl⟩ := (Ieee.isCode_iff hf).1 code
  have : (0 : ℝ) ≤ f.grid (f.infCode - 1) := Nat.cast_nonneg _
  have : (0 : ℝ) ≤ f.grid d := Nat.cast_nonneg _
  rw [Ieee.units_signed_of_le hf small]
  cases neg with
  | false =>
    have other : d ≠ f.infCode := by rintro rfl; exact ne (by simp [Ieee.signed])
    simpa using Ieee.grid_le hf (show d ≤ f.infCode - 1 by omega)
  | true => rw [signFactor_true]; linarith

theorem Ieee.le_units_finite {z : Nat} (code : f.IsCode z) (ne : z ≠ 2 ^ (f.width - 1) + f.infCode) : -(f.grid (f.infCode - 1) : ℝ) ≤ f.units z := by
  obtain ⟨neg, d, small, rfl⟩ := (Ieee.isCode_iff hf).1 code
  have : (0 : ℝ) ≤ f.grid (f.infCode - 1) := Nat.cast_nonneg _
  have : (0 : ℝ) ≤ f.grid d := Nat.cast_nonneg _
  rw [Ieee.units_signed_of_le hf small]
  cases neg with
  | true =>
    have other : d ≠ f.infCode := by rintro rfl; exact ne (by simp [Ieee.signed])
    simpa using Ieee.grid_le hf (show d ≤ f.infCode - 1 by omega)
  | false => rw [signFactor_false]; linarith

/-- The largest finite number lies below ∞. -/
theorem Ieee.grid_finite_lt : (f.grid (f.infCode - 1) : ℝ) < f.grid f.infCode := by
  exact_mod_cast Ieee.grid_strictMono hf (Nat.sub_lt hf.infCode_pos one_pos)

theorem Ieee.beyond_nearest (hc : ComparesUnits cmp (signFactor neg * x)) (beyond : f.grid f.infCode ≤ x) : f.Nearest cmp (f.signed neg f.infCode) := by
  have value := Ieee.units_signed_of_le hf le_rfl neg
  intro z code
  obtain ⟨high, low⟩ := Ieee.units_le hf code
  simp only [hc.mid_lt_iff, hc.mid_gt_iff, ← Int.cast_lt (R := ℝ), value]
  cases neg with
  | false =>
    simp only [signFactor_false, one_mul]
    exact ⟨fun above => absurd above high.not_gt, fun below => .inl (by linarith)⟩
  | true =>
    simp only [signFactor_true, neg_mul, one_mul]
    exact ⟨fun above => .inl (by linarith), fun below => absurd below low.not_gt⟩

theorem Ieee.beyond_below (hc : ComparesUnits cmp (signFactor neg * x)) (beyond : f.grid f.infCode ≤ x) :
    f.Below cmp (f.signed neg (if neg = true then f.infCode else f.infCode - 1)) := by
  have pos := hf.infCode_pos
  have less := Ieee.grid_finite_lt hf
  cases neg with
  | false =>
    have value := Ieee.units_signed_of_le hf (Nat.sub_le f.infCode 1) false
    simp only [signFactor_false, one_mul] at value hc
    simp only [Bool.false_eq_true, if_false]
    refine ⟨by simp [Ieee.signed]; omega, .inr ?_, fun z code ne above => absurd ?_ (Ieee.units_le_finite hf code ne).not_gt⟩
    · rw [ne_eq, hc.lt_iff, value]
      linarith
    · rw [← Int.cast_lt (R := ℝ), value] at above
      exact above
  | true =>
    have value := Ieee.units_signed_of_le hf le_rfl true
    simp only [signFactor_true, neg_mul, one_mul] at value hc
    refine ⟨Ieee.signed_true_ne_inf hf _, .inl rfl, fun z code _ above => ?_⟩
    rw [← Int.cast_lt (R := ℝ), if_pos rfl, value] at above
    rw [hc.lt_iff]
    linarith

theorem Ieee.beyond_above (hc : ComparesUnits cmp (signFactor neg * x)) (beyond : f.grid f.infCode ≤ x) :
    f.Above cmp (f.signed neg (if neg = true then f.infCode - 1 else f.infCode)) := by
  have pos := hf.infCode_pos
  have less := Ieee.grid_finite_lt hf
  cases neg with
  | true =>
    have value := Ieee.units_signed_of_le hf (Nat.sub_le f.infCode 1) true
    simp only [signFactor_true, neg_mul, one_mul] at value hc
    simp only [if_true]
    refine ⟨by simp [Ieee.signed]; omega, .inr ?_, fun z code ne below => absurd ?_ (Ieee.le_units_finite hf code ne).not_gt⟩
    · rw [ne_eq, hc.gt_iff, value]
      linarith
    · rw [← Int.cast_lt (R := ℝ), value] at below
      exact below
  | false =>
    have value := Ieee.units_signed_of_le hf le_rfl false
    simp only [signFactor_false, one_mul] at value hc
    refine ⟨Ieee.signed_false_ne_ninf hf le_rfl, .inl (by simp [Ieee.signed]), fun z code _ below => ?_⟩
    rw [← Int.cast_lt (R := ℝ), if_neg Bool.false_ne_true, value] at below
    rw [hc.gt_iff]
    linarith

/-- Under SR, the values that round as under RNE are those beyond the largest finite number (R195). -/
theorem Ieee.sr_beyond_iff (hc : ComparesUnits cmp (signFactor neg * x)) (pos : 0 < x) :
    (cmp (2 ^ 32 * f.units (f.infCode - 1)) = .gt ∨ cmp (2 ^ 32 * f.units (2 ^ (f.width - 1) + f.infCode - 1)) = .lt) ↔ f.grid (f.infCode - 1) < x := by
  have one := hf.infCode_pos
  have plus : f.infCode - 1 = f.signed false (f.infCode - 1) := by simp [Ieee.signed]
  have minus : 2 ^ (f.width - 1) + f.infCode - 1 = f.signed true (f.infCode - 1) := Nat.add_sub_assoc one _
  have nonneg : (0 : ℝ) ≤ f.grid (f.infCode - 1) := Nat.cast_nonneg _
  rw [hc.gt_iff, hc.lt_iff, minus]
  nth_rw 1 [plus]
  rw [Ieee.units_signed_of_le hf (Nat.sub_le ..), Ieee.units_signed_of_le hf (Nat.sub_le ..)]
  cases neg with
  | false =>
    simp only [signFactor_false, signFactor_true, one_mul]
    exact or_iff_left (by linarith)
  | true =>
    simp only [signFactor_false, signFactor_true, one_mul]
    rw [or_iff_right (by linarith)]
    constructor <;> intro h <;> linarith

/-! ## Every value -/

/-- A magnitude of a cell below ∞ is rounded as `roundedTo` says. -/
theorem Ieee.roundedTo_of_cell (hu : u < 2 ^ 32) {rm : Rm} (hc : ComparesUnits cmp (signFactor neg * x)) (pos : 0 < x) (finite : c < f.infCode)
    (low : f.grid c ≤ x) (high : x < f.grid (c + 1)) (decision : up = true ↔ f.GoesUp rm u neg c x) :
    f.roundedTo rm u neg cmp (f.signed neg (c + up.toNat)) := by
  have one := Bool.toNat_le up
  have small : c + up.toNat ≤ f.infCode := by omega
  have pos_ (h : neg = false) : ComparesUnits cmp x := by simpa [h] using hc
  have neg_ (h : neg = true) : ComparesUnits cmp (-x) := by simpa [h] using hc
  refine (Ieee.roundedTo_iff ..).2 ⟨Ieee.isCode_signed hf small neg, Ieee.le_signed_iff (lt_of_le_of_lt small hf.infCode_lt) neg, ?_⟩
  unfold Ieee.GoesUp at decision
  cases rm with
  | rne => exact Ieee.cell_nearest hf hc finite low high decision
  | rtz =>
    have stays : up = false := by simpa [roundsUp] using decision
    subst stays
    cases neg with
    | false => exact Ieee.cell_below_pos hf (pos_ rfl) finite low high
    | true => exact Ieee.cell_above_neg hf (neg_ rfl) finite low high
  | rdn =>
    cases neg with
    | false =>
      have stays : up = false := by simpa [roundsUp] using decision
      subst stays
      exact Ieee.cell_below_pos hf (pos_ rfl) finite low high
    | true => exact Ieee.cell_below_neg hf (neg_ rfl) finite low high (by simpa [roundsUp] using decision)
  | rup =>
    cases neg with
    | false => exact Ieee.cell_above_pos hf (pos_ rfl) finite low high (by simpa [roundsUp] using decision)
    | true =>
      have stays : up = false := by simpa [roundsUp] using decision
      subst stays
      exact Ieee.cell_above_neg hf (neg_ rfl) finite low high
  | sr =>
    dsimp only
    simp only [Ieee.sr_beyond_iff hf hc pos]
    split
    next beyond =>
      have last : ¬c + 1 < f.infCode := fun less => by
        have le := Ieee.grid_le hf (show c + 1 ≤ f.infCode - 1 by omega)
        linarith
      rw [if_neg (by simp [last])] at decision
      exact Ieee.cell_nearest hf hc finite low high decision
    next within =>
      have draws : up = true ↔ drawnUp neg u (f.share c x) := by
        by_cases inner : c + 1 < f.infCode
        · rwa [if_pos ⟨rfl, inner⟩] at decision
        · have code : c = f.infCode - 1 := by omega
          have least : x = f.grid c := le_antisymm (by rw [code]; exact not_lt.1 within) low
          rw [(Ieee.share_eq_zero_iff hf).2 least] at decision ⊢
          rw [if_neg (by simp [inner])] at decision
          exact decision.trans (iff_of_false (not_roundsUp_zero _ _ _) (not_drawnUp_zero hu neg))
      cases neg with
      | false => exact Ieee.cell_drawn_pos hf (pos_ rfl) finite low high draws
      | true => exact Ieee.cell_drawn_neg hf (neg_ rfl) hu finite pos low high draws

/-- A magnitude beyond the format is rounded as `roundedTo` says. -/
theorem Ieee.roundedTo_beyond {rm : Rm} (hc : ComparesUnits cmp (signFactor neg * x)) (beyond : f.grid f.infCode ≤ x) :
    f.roundedTo rm u neg cmp (f.signed neg (if overflowsToInf rm neg = true then f.infCode else f.infCode - 1)) := by
  have finite := Ieee.grid_finite_lt hf
  have nonneg : (0 : ℝ) ≤ f.grid (f.infCode - 1) := Nat.cast_nonneg _
  have small : (if overflowsToInf rm neg = true then f.infCode else f.infCode - 1) ≤ f.infCode := by split <;> omega
  refine (Ieee.roundedTo_iff ..).2 ⟨Ieee.isCode_signed hf small neg, Ieee.le_signed_iff (lt_of_le_of_lt small hf.infCode_lt) neg, ?_⟩
  cases rm with
  | rne => exact Ieee.beyond_nearest hf hc beyond
  | rtz =>
    cases neg with
    | false => exact Ieee.beyond_below hf hc beyond
    | true => exact Ieee.beyond_above hf hc beyond
  | rdn =>
    cases neg with
    | false => exact Ieee.beyond_below hf hc beyond
    | true => exact Ieee.beyond_below hf hc beyond
  | rup =>
    cases neg with
    | false => exact Ieee.beyond_above hf hc beyond
    | true => exact Ieee.beyond_above hf hc beyond
  | sr =>
    dsimp only
    simp only [Ieee.sr_beyond_iff hf hc (show 0 < x by linarith)]
    rw [if_pos (by linarith)]
    exact Ieee.beyond_nearest hf hc beyond

/-- The code that one rounding gives, from the cell that holds the magnitude. -/
theorem Ieee.roundedTo_clip (hu : u < 2 ^ 32) {rm : Rm} (hc : ComparesUnits cmp (signFactor neg * x)) (pos : 0 < x)
    (low : f.grid c ≤ x) (high : x < f.grid (c + 1)) (decision : up = true ↔ f.GoesUp rm u neg c x) :
    f.roundedTo rm u neg cmp (f.signed neg (f.clip rm neg (c + up.toNat))) := by
  by_cases finite : c < f.infCode
  · have kept : f.clip rm neg (c + up.toNat) = c + up.toNat := by
      unfold Ieee.clip
      split
      next large =>
        obtain ⟨last, rose⟩ : c + 1 = f.infCode ∧ up = true := by
          cases up with
          | false => simp only [Bool.toNat_false] at large; omega
          | true => simp only [Bool.toNat_true] at large; exact ⟨by omega, rfl⟩
        have goes := decision.1 rose
        rw [Ieee.GoesUp, if_neg (by omega)] at goes
        rw [if_pos goes.toInf, rose, Bool.toNat_true, last]
      next => rfl
    rw [kept]
    exact Ieee.roundedTo_of_cell hf hu hc pos finite low high decision
  · have large : f.infCode ≤ c + up.toNat := by omega
    rw [Ieee.clip, if_pos large]
    exact Ieee.roundedTo_beyond hf hc ((Ieee.grid_le hf (by omega)).trans low)

end

end Sys2Proof.Machine
end

section
/-! SUPPORT. `Ieee.round` finds the cell of an exact value, rounds within it and says what flags it raises (R171, R174, R195). -/

namespace Sys2Proof.Machine

/-! ## The decision at one exponent -/

/-- The floor of x / 2^k, whether it goes up, and whether anything was cut: what `Ieee.round` works out at an exponent k. -/
def roundParts (rm : Rm) (u : Nat) (neg : Bool) (m : Nat) (e : Int) (more : Bool) (k : Int) (edge : Bool) : Nat × Bool × Bool :=
  let (q2, cut) := floorAt m e more (k - 1)
  let q := q2 / 2
  let half := q2 % 2 == 1
  let low := floorAt m e more (k - 32)
  let up := if rm == Rm.sr && !edge then srUp neg u (low.1 % 2 ^ 32) low.2
            else goesUp rm neg (q % 2 == 1) half cut
  (q, up, half || cut)

theorem Leads.unique {m n : Nat} {a b : Bool} {x : ℝ} (h : Leads m 0 a x) (h' : Leads n 0 b x) : m = n := by
  obtain ⟨low, high, -⟩ := leads_zero_iff.1 h
  obtain ⟨low', high', -⟩ := leads_zero_iff.1 h'
  have le : (m : ℝ) < n + 1 := by linarith
  have ge : (n : ℝ) < m + 1 := by linarith
  have le : m < n + 1 := by exact_mod_cast le
  have ge : n < m + 1 := by exact_mod_cast ge
  omega

/-- The leading bits of x / 2^k for an exponent k that j shifts, in units of 2^j of them. -/
theorem floorAt_scaled {m : Nat} {e k : Int} {more : Bool} {x : ℝ} (h : Leads m e more x) (j : Nat) (deep : more = true → e ≤ k - j) :
    Leads (floorAt m e more (k - j)).1 0 (floorAt m e more (k - j)).2 (2 ^ j * (x / 2 ^ k)) := by
  have scale : (2 : ℝ) ^ j * (x / 2 ^ k) = x / 2 ^ (k - j) := by
    rw [zpow_sub₀ two_ne_zero, zpow_natCast, div_div_eq_mul_div, mul_comm, mul_div_assoc, mul_comm]
    ring
  rw [scale]
  exact leads_units.1 (floorAt_leads h deep)

theorem roundParts_leads {m : Nat} {e k : Int} {more : Bool} {x : ℝ} (h : Leads m e more x) (deep : more = true → e + 32 ≤ k)
    (rm : Rm) (u : Nat) (neg edge : Bool) :
    Leads (roundParts rm u neg m e more k edge).1 0 (roundParts rm u neg m e more k edge).2.2 (x / 2 ^ k) := by
  have bits := floorAt_scaled h (k := k) 1 fun more => by have := deep more; omega
  rw [pow_one] at bits
  exact bits.half

theorem roundParts_up {m : Nat} {e k : Int} {more : Bool} {x : ℝ} (h : Leads m e more x) (deep : more = true → e + 32 ≤ k)
    (rm : Rm) (u : Nat) (neg edge : Bool) :
    (roundParts rm u neg m e more k edge).2.1 = true ↔
      let q := (roundParts rm u neg m e more k edge).1
      if rm = .sr ∧ edge = false then drawnUp neg u (x / 2 ^ k - q) else roundsUp rm neg (q % 2 == 1) (x / 2 ^ k - q) := by
  have bits := floorAt_scaled h (k := k) 1 fun more => by have := deep more; omega
  have low := floorAt_scaled h (k := k) 32 fun more => by have := deep more; omega
  rw [pow_one] at bits
  have upper := (low.cut 32)
  rw [mul_div_cancel_left₀ _ (by positivity)] at upper
  have same := upper.unique bits.half
  simp only [roundParts, Nat.cast_one] at bits same ⊢
  by_cases sr : rm = .sr ∧ edge = false
  · rw [if_pos sr, if_pos (by simp [sr])]
    refine srUp_iff ?_ neg u
    rw [← same]
    have parts : ((2 ^ 32 * ((floorAt m e more (k - (32 : Nat))).1 / 2 ^ 32) + (floorAt m e more (k - (32 : Nat))).1 % 2 ^ 32 : Nat) : ℝ) = _ :=
      congrArg Nat.cast (Nat.div_add_mod _ (2 ^ 32))
    obtain ⟨le, lt, mark⟩ := leads_zero_iff.1 low
    push_cast at parts le lt mark ⊢
    rw [leads_zero_iff, mark]
    refine ⟨by linarith, by linarith, not_congr ⟨fun h => by linarith, fun h => by linarith⟩⟩
  · rw [if_neg sr, if_neg (by simpa using sr)]
    exact goesUp_iff bits rm neg _

/-- A number without anything below its floor does not go up. -/
theorem roundParts_exact {m : Nat} {e k : Int} {more : Bool} {x : ℝ} (h : Leads m e more x) (deep : more = true → e + 32 ≤ k)
    (rm : Rm) {u : Nat} (hu : u < 2 ^ 32) (neg edge : Bool) (exact_ : x / 2 ^ k = (roundParts rm u neg m e more k edge).1) :
    (roundParts rm u neg m e more k edge).2.1 = false := by
  refine Bool.eq_false_iff.2 (mt (roundParts_up h deep rm u neg edge).1 ?_)
  dsimp only
  rw [exact_, sub_self]
  split
  · exact not_drawnUp_zero hu neg
  · exact not_roundsUp_zero _ _ _

/-! ## The result and its flags -/

/-- The code and the flags that `Ieee.round` gives for a rounded magnitude. -/
def Ieee.finish (f : Ieee) (rm : Rm) (neg : Bool) (code : Nat) (inexact tiny : Bool) : Nat × Flg :=
  if f.infCode ≤ code then (f.signed neg (if overflowsToInf rm neg = true then f.infCode else f.infCode - 1), fOF ||| fNX)
  else (f.signed neg code, flagIf inexact fNX ||| flagIf (inexact && tiny) fUF)

theorem Ieee.finish_code (f : Ieee) (rm : Rm) (neg : Bool) (code : Nat) (inexact tiny : Bool) :
    (f.finish rm neg code inexact tiny).1 = f.signed neg (f.clip rm neg code) := by
  unfold Ieee.finish Ieee.clip
  split <;> rfl

/-- Whether a value is tiny after rounding (R171): below the least normal number when it is rounded as if the exponent had no bound. -/
def Ieee.tiny (f : Ieee) (rm : Rm) (u : Nat) (neg : Bool) (m : Nat) (e : Int) (more : Bool) : Bool :=
  let top : Int := e + Nat.log2 m
  let r := roundParts rm u neg m e more (top - ((f.prec : Int) - 1)) false
  decide (top < f.emin) && !(top == f.emin - 1 && r.1 + r.2.1.toNat == 2 ^ f.prec)

/-- `Ieee.round` at the exponent ex of the result, which lies j above the least. -/
theorem Ieee.round_eq (f : Ieee) (rm : Rm) (u : Nat) (neg : Bool) (m : Nat) (e : Int) (more : Bool) :
    let ex := max (e + Nat.log2 m) f.emin
    let base := (ex - f.emin).toNat * 2 ^ (f.prec - 1)
    let q := (floorAt m e more (ex - ((f.prec : Int) - 1) - 1)).1 / 2
    let p := roundParts rm u neg m e more (ex - ((f.prec : Int) - 1)) (decide (f.infCode ≤ base + q + 1))
    f.round rm u neg m e more = f.finish rm neg (base + p.1 + p.2.1.toNat) p.2.2 (f.tiny rm u neg m e more) := by
  cases rm <;> rfl

/-- The least subnormal. -/
noncomputable def Ieee.unit (f : Ieee) : ℝ := 2 ^ (f.emin - ((f.prec : Int) - 1))

/-- r is what one rounding of a magnitude of x units gives, with its flags (R171, R174). -/
def Ieee.Rounds (f : Ieee) (rm : Rm) (u : Nat) (neg : Bool) (x : ℝ) (r : Nat × Flg) : Prop :=
  ∃ c up inexact tiny, (f.grid c : ℝ) ≤ x ∧ x < f.grid (c + 1) ∧ (up = true ↔ f.GoesUp rm u neg c x) ∧ (inexact = true ↔ x ≠ f.grid c) ∧
    ((2 : ℝ) ^ (f.prec - 1) ≤ x → tiny = false) ∧ (2 * x ≤ (2 : ℝ) ^ f.prec - 1 → tiny = true) ∧ r = f.finish rm neg (c + up.toNat) inexact tiny

theorem div_two_zpow_lt {x : ℝ} {a k : Int} {n : Nat} (h : x < 2 ^ a) (hn : a - k = n) : x / 2 ^ k < 2 ^ n := by
  rw [div_lt_iff₀ (by positivity), ← zpow_natCast, ← hn, ← zpow_add₀ two_ne_zero, sub_add_cancel]
  exact h

theorem le_div_two_zpow {x : ℝ} {a k : Int} {n : Nat} (h : 2 ^ a ≤ x) (hn : a - k = n) : 2 ^ n ≤ x / 2 ^ k := by
  rw [le_div_iff₀ (by positivity), ← zpow_natCast, ← hn, ← zpow_add₀ two_ne_zero, sub_add_cancel]
  exact h

/-- A value in units of the least subnormal, from its bits at an exponent j above the least. -/
theorem Ieee.div_unit (f : Ieee) (x : ℝ) (j : Nat) : x / f.unit = x / 2 ^ (f.emin + j - ((f.prec : Int) - 1)) * 2 ^ j := by
  rw [Ieee.unit, add_sub_right_comm, zpow_add₀ two_ne_zero, zpow_natCast, ← div_div, div_mul_cancel₀ _ (by positivity)]

section
variable {f : Ieee} (hf : f.Standard) {m : Nat} {e : Int} {more : Bool} {x : ℝ} (pos : 0 < m) (h : Leads m e more x)
  (deep : more = true → 150 ≤ Nat.log2 m) (rm : Rm) {u : Nat} (hu : u < 2 ^ 32) (neg : Bool)
include hf

/-- The step j at the exponent of a value, and the cell there: q steps of 2^j. -/
theorem Ieee.cell_of_floor {j q : Nat} {y : ℝ} (hq : q < 2 ^ f.prec) (normal : j = 0 ∨ 2 ^ (f.prec - 1) ≤ q) {cut : Bool} (floor : Leads q 0 cut y) :
    let c := j * 2 ^ (f.prec - 1) + q
    (f.grid c : ℝ) ≤ y * 2 ^ j ∧ y * 2 ^ j < f.grid (c + 1) ∧ f.share c (y * 2 ^ j) = y - q ∧ (cut = true ↔ y * 2 ^ j ≠ f.grid c) ∧ c % 2 = q % 2 := by
  obtain ⟨low, high, mark⟩ := leads_zero_iff.1 floor
  have pos : (0 : ℝ) < 2 ^ j := by positivity
  dsimp only
  rw [Ieee.share, Nat.add_assoc, Ieee.grid_step hf hq.le normal, Ieee.grid_step hf (q := q + 1) hq (by omega), mark]
  push_cast
  refine ⟨mul_le_mul_of_nonneg_right low pos.le, mul_lt_mul_of_pos_right high pos, by field_simp; ring, ?_, ?_⟩
  · rw [ne_eq, ne_eq, mul_left_inj' pos.ne']
  · rw [hf.two_pow_prec_pred, Nat.mul_left_comm, Nat.mul_add_mod]

include pos h in
/-- The floor of a value at the exponent of its result has the bits of the format (R171). -/
theorem Ieee.floor_bits {j q : Nat} (expo : max (e + Nat.log2 m) f.emin = f.emin + j) {cut : Bool}
    (floor : Leads q 0 cut (x / 2 ^ (f.emin + j - ((f.prec : Int) - 1)))) : q < 2 ^ f.prec ∧ (j = 0 ∨ 2 ^ (f.prec - 1) ≤ q) := by
  have fraction := hf.fraction
  obtain ⟨low, high, -⟩ := leads_zero_iff.1 floor
  constructor
  · have top : x < (2 : ℝ) ^ (f.emin + j + 1) := h.lt_two_pow.trans_le (zpow_le_zpow_right₀ one_le_two (by omega))
    exact_mod_cast low.trans_lt (div_two_zpow_lt top (n := f.prec) (by omega))
  · rw [or_iff_not_imp_left]
    intro above
    have top : (2 : ℝ) ^ (f.emin + j) ≤ x := by
      have same : f.emin + j = e + Nat.log2 m := by omega
      exact same ▸ h.two_pow_le pos
    have bits := (le_div_two_zpow top (k := f.emin + j - ((f.prec : Int) - 1)) (n := f.prec - 1) (by omega)).trans_lt high
    exact Nat.le_of_lt_succ (by exact_mod_cast bits)

include h in
theorem Ieee.tiny_of_normal (large : (2 : ℝ) ^ (f.prec - 1) ≤ x / f.unit) : f.tiny rm u neg m e more = false := by
  have fraction := hf.fraction
  have least : (2 : ℝ) ^ f.emin ≤ x := by
    rw [Ieee.unit, le_div_iff₀ (by positivity), ← zpow_natCast, ← zpow_add₀ two_ne_zero] at large
    exact le_trans (zpow_le_zpow_right₀ one_le_two (by omega)) large
  have top := (zpow_lt_zpow_iff_right₀ one_lt_two).1 (least.trans_lt h.lt_two_pow)
  have below : ¬e + (Nat.log2 m : Int) < f.emin := by omega
  rw [Ieee.tiny, decide_eq_false below, Bool.false_and]

include pos h deep hu in
theorem Ieee.tiny_of_subnormal (small : 2 * (x / f.unit) ≤ (2 : ℝ) ^ f.prec - 1) : f.tiny rm u neg m e more = true := by
  have fraction := hf.fraction
  have narrow := hf.narrow
  have below : e + (Nat.log2 m : Int) < f.emin := by
    have less : x / f.unit < 2 ^ (f.prec - 1) := by
      have double : (2 : ℝ) ^ f.prec = 2 ^ (f.prec - 1) + 2 ^ (f.prec - 1) := by exact_mod_cast hf.two_pow_prec
      linarith
    rw [Ieee.unit, div_lt_iff₀ (by positivity), ← zpow_natCast, ← zpow_add₀ two_ne_zero] at less
    have top := (zpow_lt_zpow_iff_right₀ one_lt_two).1 ((h.two_pow_le pos).trans_lt less)
    omega
  rw [Ieee.tiny, decide_eq_true below, Bool.true_and, Bool.not_eq_true', Bool.and_eq_false_iff, or_iff_not_imp_left, Bool.not_eq_false]
  intro top
  rw [beq_iff_eq] at top
  have bits := roundParts_leads h (k := e + Nat.log2 m - ((f.prec : Int) - 1)) (fun more => by have := deep more; omega) rm u neg false
  have exact_ := roundParts_exact h (k := e + Nat.log2 m - ((f.prec : Int) - 1)) (fun more => by have := deep more; omega) rm hu neg false
  have twice : 2 * (x / f.unit) = x / 2 ^ (e + Nat.log2 m - ((f.prec : Int) - 1)) := by
    rw [Ieee.unit, top, sub_right_comm, zpow_sub_one₀ two_ne_zero, div_mul_eq_div_div, div_inv_eq_mul]
    ring
  rw [twice] at small
  generalize roundParts rm u neg m e more (e + Nat.log2 m - ((f.prec : Int) - 1)) false = r at *
  obtain ⟨q, up, cut⟩ := r
  obtain ⟨low, high, -⟩ := leads_zero_iff.1 bits
  dsimp only at *
  have less : q + 1 ≤ 2 ^ f.prec := by
    have le : (q : ℝ) + 1 ≤ 2 ^ f.prec := by linarith
    exact_mod_cast le
  cases up with
  | false => exact beq_eq_false_iff_ne.2 (by simp only [Bool.toNat_false]; omega)
  | true =>
    refine beq_eq_false_iff_ne.2 fun last => Bool.false_ne_true (exact_ ?_).symm
    have last : (q : ℝ) + 1 = 2 ^ f.prec := by exact_mod_cast last
    linarith

include pos h deep hu in
/-- `Ieee.round` is one rounding of the value that its operand's bits lead. -/
theorem Ieee.round_rounds : f.Rounds rm u neg (x / f.unit) (f.round rm u neg m e more) := by
  have narrow := hf.narrow
  obtain ⟨j, expo⟩ : ∃ j : Nat, max (e + Nat.log2 m) f.emin = f.emin + j := ⟨(max (e + Nat.log2 m) f.emin - f.emin).toNat, by omega⟩
  have round := f.round_eq rm u neg m e more
  have steps : (f.emin + (j : Int) - f.emin).toNat = j := by omega
  simp only [expo, steps] at round
  generalize edge_ : decide (f.infCode ≤ _) = edge at round
  have fine (m_ : more = true) : e + 32 ≤ f.emin + j - ((f.prec : Int) - 1) := by
    have := deep m_
    omega
  have floor := roundParts_leads h fine rm u neg edge
  have decision := roundParts_up h fine rm u neg edge
  have tie : (floorAt m e more (f.emin + j - ((f.prec : Int) - 1) - 1)).1 / 2 =
    (roundParts rm u neg m e more (f.emin + j - ((f.prec : Int) - 1)) edge).1 := rfl
  rw [tie] at edge_
  generalize roundParts rm u neg m e more (f.emin + j - ((f.prec : Int) - 1)) edge = p at *
  obtain ⟨q, up, inexact⟩ := p
  dsimp only at *
  obtain ⟨hq, normal⟩ := Ieee.floor_bits hf pos h expo floor
  obtain ⟨low, high, share, mark, parity⟩ := Ieee.cell_of_floor hf hq normal floor
  rw [← f.div_unit] at low high share mark
  refine ⟨_, up, inexact, _, low, high, ?_, mark, Ieee.tiny_of_normal hf h rm neg, Ieee.tiny_of_subnormal hf pos h deep rm hu neg, round⟩
  have inner : j * 2 ^ (f.prec - 1) + q + 1 < f.infCode ↔ edge = false := by
    rw [← edge_, decide_eq_false_iff_not, not_le]
  rw [Ieee.GoesUp, share, parity]
  simp only [inner]
  exact decision

end

end Sys2Proof.Machine
end

section
/-! SUPPORT. IEEE results: what a code decodes to, and the code and flags of a rounded exact value (R170, R171, R174, R316). -/

namespace Sys2Proof.Machine

/-! ## Decoding (R170) -/

/-- The mantissa and the exponent of a finite magnitude code. -/
def Ieee.mantissa (f : Ieee) (c : Nat) : Nat :=
  if c / 2 ^ (f.prec - 1) = 0 then c % 2 ^ (f.prec - 1) else 2 ^ (f.prec - 1) + c % 2 ^ (f.prec - 1)

def Ieee.exponent (f : Ieee) (c : Nat) : Int :=
  if c / 2 ^ (f.prec - 1) = 0 then f.emin - ((f.prec : Int) - 1) else f.emin + ((c / 2 ^ (f.prec - 1) : Nat) - 1 : Int) - ((f.prec : Int) - 1)

section
variable {f : Ieee} (hf : f.Standard) {x : Nat}

theorem decodeVal_ieee (hx : x < 2 ^ f.width) : decodeVal (.ieee f) false x = f.decode x := by
  show f.decode (x % 2 ^ f.width) = f.decode x
  rw [Nat.mod_eq_of_lt hx]

theorem Ieee.one_mul_unit (hf : f.Standard) : (f.one : ℝ) * f.unit = 1 := by
  have scale := hf.scale
  have expo : (((f.prec : Int) - 1 - f.emin).toNat : Int) = (f.prec : Int) - 1 - f.emin := Int.toNat_of_nonneg (by omega)
  rw [Ieee.one, Ieee.unit, Nat.cast_pow, Nat.cast_ofNat, ← zpow_natCast, expo, ← zpow_add₀ two_ne_zero, sub_add_sub_cancel, sub_self, zpow_zero]

theorem Ieee.unit_pos (f : Ieee) : 0 < f.unit := by
  unfold Ieee.unit
  positivity

include hf

theorem Ieee.bitAt_sign (hx : x < 2 ^ f.width) : bitAt x (f.width - 1) = f.isNeg x := by
  have double := hf.two_pow_width
  rw [bitAt, Nat.testBit_eq_decide_div_mod_eq, Ieee.isNeg, decide_eq_decide]
  by_cases neg : 2 ^ (f.width - 1) ≤ x
  · have one : x / 2 ^ (f.width - 1) = 1 := Nat.div_eq_of_lt_le (by omega) (by omega)
    simp [one, neg]
  · have zero : x / 2 ^ (f.width - 1) = 0 := Nat.div_eq_of_lt (by omega)
    simp [zero, neg]

/-- A NaN's fraction is what stands above the code of ∞. -/
theorem Ieee.fraction_of_nan (nan : f.isNaN x = true) : x % 2 ^ (f.prec - 1) = x % 2 ^ (f.width - 1) - f.infCode := by
  have inf := hf.inf
  have narrow := hf.exponent
  have rest := Nat.mod_lt x (Nat.two_pow_pos (f.width - 1))
  rw [Ieee.isNaN, decide_eq_true_iff] at nan
  have divides : 2 ^ (f.prec - 1) ∣ 2 ^ (f.width - 1) := Nat.pow_dvd_pow 2 (by omega)
  obtain ⟨t, multiple⟩ : 2 ^ (f.prec - 1) ∣ f.infCode := (Nat.dvd_add_left (dvd_refl _)).1 (inf ▸ divides)
  rw [← Nat.mod_mod_of_dvd x divides]
  conv_lhs => rw [← Nat.add_sub_cancel' nan.le, multiple, Nat.mul_add_mod, ← multiple]
  exact Nat.mod_eq_of_lt (by omega)

/-- A NaN signals where the top bit of its fraction is clear. -/
theorem Ieee.bitAt_quiet (nan : f.isNaN x = true) : (!bitAt x (f.prec - 2)) = f.isSig x := by
  have code := hf.nan
  have double := hf.two_pow_prec_pred
  have fraction := Ieee.fraction_of_nan hf nan
  have less := Nat.mod_lt x (Nat.two_pow_pos (f.prec - 1))
  have pos := Nat.two_pow_pos (f.prec - 2)
  have bit : x / 2 ^ (f.prec - 2) % 2 = x % 2 ^ (f.prec - 1) / 2 ^ (f.prec - 2) := by
    rw [double, Nat.mul_comm, Nat.mod_mul_right_div_self]
  rw [Ieee.isSig, nan, Bool.true_and, bitAt, Nat.testBit_eq_decide_div_mod_eq, ← decide_not, decide_eq_decide, bit]
  rw [Ieee.isNaN, decide_eq_true_iff] at nan
  have upper : x % 2 ^ (f.prec - 1) / 2 ^ (f.prec - 2) = 1 ↔ 2 ^ (f.prec - 2) ≤ x % 2 ^ (f.prec - 1) := by
    rw [Nat.div_eq_iff pos]
    omega
  rw [upper]
  omega

theorem Ieee.decode_nan (nan : f.isNaN x = true) : f.decode x = .nan (f.isSig x) := by
  have quiet := Ieee.bitAt_quiet hf nan
  rw [Ieee.isNaN, decide_eq_true_iff] at nan
  simp only [Ieee.decode, if_pos nan, quiet]

theorem Ieee.decode_inf (hx : x < 2 ^ f.width) (inf : f.isInf x = true) : f.decode x = .inf (f.isNeg x) := by
  rw [Ieee.isInf, beq_iff_eq] at inf
  simp only [Ieee.decode, inf, lt_irrefl, if_false, if_true, Ieee.bitAt_sign hf hx]

theorem Ieee.decode_zero (hx : x < 2 ^ f.width) (zero : f.isZero x = true) : f.decode x = .zero (f.isNeg x) := by
  have pos := hf.infCode_pos
  rw [Ieee.isZero, beq_iff_eq] at zero
  simp only [Ieee.decode, zero, Nat.not_lt_zero, pos.ne, if_false, if_true, Ieee.bitAt_sign hf hx]

/-- A finite code other than a zero decodes to its sign, mantissa and exponent. -/
theorem Ieee.decode_fin (hx : x < 2 ^ f.width) (finite : x % 2 ^ (f.width - 1) < f.infCode) (ne : f.isZero x = false) :
    f.decode x = .fin (f.isNeg x) (f.mantissa (x % 2 ^ (f.width - 1))) (f.exponent (x % 2 ^ (f.width - 1))) false := by
  rw [Ieee.isZero, beq_eq_false_iff_ne] at ne
  simp only [Ieee.decode, finite.not_gt, finite.ne, ne, if_false, Ieee.bitAt_sign hf hx, Nat.shiftRight_eq_div_pow, Ieee.mantissa, Ieee.exponent]
  split <;> rfl

omit hf in
theorem Ieee.mantissa_pos {c : Nat} (ne : c ≠ 0) : 0 < f.mantissa c := by
  have parts := Nat.div_add_mod c (2 ^ (f.prec - 1))
  have pos := Nat.two_pow_pos (f.prec - 1)
  unfold Ieee.mantissa
  split
  next sub =>
    rw [sub, Nat.mul_zero, Nat.zero_add] at parts
    omega
  next normal => omega

omit hf in
/-- The mantissa and the exponent hold the grid's number. -/
theorem Ieee.mantissa_mul (c : Nat) : (f.mantissa c : ℝ) * 2 ^ f.exponent c = f.grid c * f.unit := by
  unfold Ieee.mantissa Ieee.exponent Ieee.grid Ieee.unit
  split
  next sub => rfl
  next normal =>
    generalize c / 2 ^ (f.prec - 1) = k at *
    have expo : f.emin + ((k : Int) - 1) - ((f.prec : Int) - 1) = (f.emin - ((f.prec : Int) - 1)) + (k - 1 : Nat) := by omega
    rw [expo, zpow_add₀ two_ne_zero, zpow_natCast]
    push_cast
    ring

/-- A finite code holds the number of its units. -/
theorem Ieee.decode_holds (finite : f.isFinite x) : (f.decode x).holds (f.units x * f.unit) ∧ (f.decode x).neg? = f.isNeg x := by
  obtain ⟨hx, finite⟩ := finite
  have units : (f.units x : ℝ) = signFactor (f.isNeg x) * f.grid (x % 2 ^ (f.width - 1)) := by
    conv_lhs => rw [Ieee.eq_signed hf hx]
    exact Ieee.units_signed (Nat.mod_lt x (Nat.two_pow_pos _)) _
  cases zero : f.isZero x with
  | true =>
    rw [Ieee.decode_zero hf hx zero]
    rw [Ieee.isZero, beq_iff_eq] at zero
    rw [zero, Ieee.grid_zero] at units
    exact ⟨by simp [Val.holds, units], rfl⟩
  | false =>
    rw [Ieee.decode_fin hf hx finite zero]
    rw [Ieee.isZero, beq_eq_false_iff_ne] at zero
    exact ⟨⟨rfl, Ieee.mantissa_pos zero, by rw [units, Ieee.mantissa_mul, mul_assoc]⟩, rfl⟩

end

/-! ## Rounded values -/

section
variable {f : Ieee} (rm : Rm) (u : Nat) (fl : Flg)

theorem roundRes_ieee_nan : roundRes (.ieee f) rm u (.nan false, fl) = (f.nanCode, fl) := by
  simp [roundRes, roundVal, flagIf]

theorem roundRes_ieee_inf (neg : Bool) : roundRes (.ieee f) rm u (.inf neg, fl) = (f.signed neg f.infCode, fl) := by
  simp [roundRes, roundVal]

theorem roundRes_ieee_zero (neg : Bool) : roundRes (.ieee f) rm u (.zero neg, fl) = (f.signed neg 0, fl) := by
  simp [roundRes, roundVal]

/-- A value given by its leading bits is rounded once. -/
theorem roundRes_ieee_leads (hf : f.Standard) (hu : u < 2 ^ 32) {v : Val × Flg} {y : ℝ} (h : v.1.leads y) (quiet : v.2 = 0) :
    f.Rounds rm u (decide (y < 0)) (|y| / f.unit) (roundRes (.ieee f) rm u v) := by
  obtain ⟨m, e, more, value, pos, deep, lead⟩ := Val.leads_fin h
  have round : roundRes (.ieee f) rm u v = f.round rm u (decide (y < 0)) m e more := by
    simp [roundRes, value, quiet, roundVal, roundFin]
  rw [round]
  exact Ieee.round_rounds hf pos lead deep rm hu _

end

/-! ## Codes and flags of a result -/

theorem Ieee.finish_beyond {f : Ieee} {code : Nat} (beyond : f.infCode ≤ code) (rm : Rm) (neg inexact tiny : Bool) :
    f.finish rm neg code inexact tiny = (f.signed neg (if overflowsToInf rm neg = true then f.infCode else f.infCode - 1), 5) := by
  rw [Ieee.finish, if_pos beyond]
  rfl

theorem Ieee.finish_within {f : Ieee} {code : Nat} (within : code < f.infCode) (rm : Rm) (neg inexact tiny : Bool) :
    f.finish rm neg code inexact tiny = (f.signed neg code, flagIf inexact 1 ||| flagIf (inexact && tiny) 2) := by
  rw [Ieee.finish, if_neg within.not_ge]
  rfl

theorem inexactFlags_bits (a b : Bool) : (flagIf a 1 ||| flagIf b 2).getLsbD 0 = a ∧ (flagIf a 1 ||| flagIf b 2).getLsbD 1 = b ∧
    (flagIf a 1 ||| flagIf b 2).getLsbD 2 = false ∧ (flagIf a 1 ||| flagIf b 2).getLsbD 3 = false ∧ (flagIf a 1 ||| flagIf b 2).getLsbD 4 = false := by
  cases a <;> cases b <;> decide

section
variable {f : Ieee} (hf : f.Standard) {rm : Rm} {u : Nat} {neg up : Bool} {c : Nat} {x : ℝ}
include hf

/-- A magnitude that goes up is not its lower code. -/
theorem Ieee.goesUp_inexact (hu : u < 2 ^ 32) (low : f.grid c ≤ x) (goes : f.GoesUp rm u neg c x) : f.grid c < x := by
  refine lt_of_le_of_ne low fun same => ?_
  rw [Ieee.GoesUp, (Ieee.share_eq_zero_iff hf).2 same.symm] at goes
  split at goes
  · exact not_drawnUp_zero hu _ goes
  · exact not_roundsUp_zero _ _ _ goes

/-- A result beyond the format that stays finite is that of a value beyond it. -/
theorem Ieee.le_of_not_toInf (low : f.grid c ≤ x) (decision : up = true ↔ f.GoesUp rm u neg c x) (beyond : f.infCode ≤ c + up.toNat)
    (kept : overflowsToInf rm neg = false) : f.grid f.infCode ≤ x := by
  refine le_trans (Ieee.grid_le hf ?_) low
  cases up with
  | false => exact beyond
  | true =>
    by_contra inner
    rw [Bool.toNat_true] at beyond
    have goes := decision.1 rfl
    rw [Ieee.GoesUp, if_neg (by omega)] at goes
    rw [goes.toInf] at kept
    exact Bool.false_ne_true kept.symm

end

section
variable {f : Ieee} (hf : f.Standard) {rm : Rm} {u : Nat} (hu : u < 2 ^ 32) {neg : Bool} {x : ℝ} {r : Nat × Flg} (h : f.Rounds rm u neg x r)
include hf hu h

theorem Ieee.Rounds.roundedTo (pos : 0 < x) {cmp : Int → Ordering} (hc : ComparesUnits cmp (signFactor neg * x)) : f.roundedTo rm u neg cmp r.1 := by
  obtain ⟨c, up, inexact, tiny, low, high, decision, -, -, -, rfl⟩ := h
  rw [Ieee.finish_code]
  exact Ieee.roundedTo_clip hf hu hc pos low high decision

/-- NX is set exactly when the result is not the value (R174). -/
theorem Ieee.Rounds.nx_iff : r.2.getLsbD 0 = false ↔ f.isFinite r.1 ∧ (f.units r.1 : ℝ) = signFactor neg * x := by
  obtain ⟨c, up, inexact, tiny, low, high, decision, mark, -, -, rfl⟩ := h
  have sign : signFactor neg ≠ 0 := by cases neg <;> simp
  by_cases beyond : f.infCode ≤ c + up.toNat
  · rw [Ieee.finish_beyond beyond]
    refine iff_of_false (by decide : ¬(5 : Flg).getLsbD 0 = false) ?_
    rintro ⟨⟨-, finite⟩, value⟩
    dsimp only at finite value
    split at value
    next toInf =>
      rw [if_pos toInf, Ieee.signed_mod hf.infCode_lt] at finite
      exact lt_irrefl _ finite
    next kept =>
      rw [Ieee.units_signed_of_le hf (Nat.sub_le ..), mul_right_inj' sign] at value
      have le := Ieee.le_of_not_toInf hf low decision beyond (by simpa using kept)
      exact absurd value ((Ieee.grid_finite_lt hf).trans_le le).ne
  · have finite : c + up.toNat < f.infCode := by omega
    have inner : c < f.infCode := by omega
    rw [Ieee.finish_within finite, (inexactFlags_bits _ _).1, and_iff_right (Ieee.isFinite_signed hf finite neg), Ieee.units_signed_up hf inner,
      mul_right_inj' sign]
    cases up with
    | false =>
      rw [if_neg Bool.false_ne_true, ← Bool.not_eq_true, mark, not_not]
      exact eq_comm
    | true =>
      have above := Ieee.goesUp_inexact hf hu low (decision.1 rfl)
      rw [if_pos rfl]
      exact iff_of_false (by simpa using mark.2 above.ne') high.ne'

omit hu in
/-- OF is set for an infinity and for a value beyond the format (R171). -/
theorem Ieee.Rounds.of_iff : r.2.getLsbD 2 = true ↔ f.isInf r.1 = true ∨ f.grid f.infCode ≤ x := by
  obtain ⟨c, up, inexact, tiny, low, high, decision, -, -, -, rfl⟩ := h
  by_cases beyond : f.infCode ≤ c + up.toNat
  · rw [Ieee.finish_beyond beyond]
    refine iff_of_true (by decide : (5 : Flg).getLsbD 2 = true) ?_
    dsimp only
    split
    next => exact .inl (by rw [Ieee.isInf, Ieee.signed_mod hf.infCode_lt, BEq.rfl])
    next kept => exact .inr (Ieee.le_of_not_toInf hf low decision beyond (by simpa using kept))
  · have finite : c + up.toNat < f.infCode := by omega
    have code := finite.trans hf.infCode_lt
    rw [Ieee.finish_within finite, (inexactFlags_bits _ _).2.2.1]
    refine iff_of_false Bool.false_ne_true ?_
    rintro (inf | large)
    · rw [Ieee.isInf, Ieee.signed_mod code, beq_iff_eq] at inf
      exact finite.ne inf
    · exact (high.trans_le (Ieee.grid_le hf (show c + 1 ≤ f.infCode by omega))).not_ge large

omit hu in
/-- UF needs an inexact result, and a tiny one (R171). -/
theorem Ieee.Rounds.uf : ((2 : ℝ) ^ (f.prec - 1) ≤ x → r.2.getLsbD 1 = false) ∧ (2 * x ≤ (2 : ℝ) ^ f.prec - 1 → r.2.getLsbD 1 = r.2.getLsbD 0) := by
  obtain ⟨c, up, inexact, tiny, low, high, -, -, normal, subnormal, rfl⟩ := h
  by_cases beyond : f.infCode ≤ c + up.toNat
  · rw [Ieee.finish_beyond beyond]
    refine ⟨fun _ => (by decide : (5 : Flg).getLsbD 1 = false), fun small => ?_⟩
    have step : f.grid (0 * 2 ^ (f.prec - 1) + 2 ^ (f.prec - 1)) = 2 ^ (f.prec - 1) * 2 ^ 0 :=
      Ieee.grid_step hf (by rw [hf.two_pow_prec]; exact Nat.le_add_left _ _) (.inl rfl)
    rw [Nat.zero_mul, Nat.zero_add, pow_zero, Nat.mul_one] at step
    have double : (2 : ℝ) ^ f.prec = 2 ^ (f.prec - 1) + 2 ^ (f.prec - 1) := by exact_mod_cast hf.two_pow_prec
    have value : (f.grid (2 ^ (f.prec - 1)) : ℝ) = 2 ^ (f.prec - 1) := by exact_mod_cast step
    have less : (f.grid c : ℝ) < f.grid (2 ^ (f.prec - 1)) := by linarith
    have code := (Ieee.grid_strictMono hf).lt_iff_lt.1 (Nat.cast_lt.1 less)
    have least := hf.two_pow_prec_lt
    have one := Bool.toNat_le up
    omega
  · rw [Ieee.finish_within (by omega), (inexactFlags_bits _ _).1, (inexactFlags_bits _ _).2.1]
    exact ⟨fun large => by rw [normal large, Bool.and_false], fun small => by rw [subnormal small, Bool.and_true]⟩

omit hf hu in
theorem Ieee.Rounds.quiet : r.2.getLsbD 3 = false ∧ r.2.getLsbD 4 = false := by
  obtain ⟨c, up, inexact, tiny, -, -, -, -, -, -, rfl⟩ := h
  by_cases beyond : f.infCode ≤ c + up.toNat
  · rw [Ieee.finish_beyond beyond]
    exact (by decide : (5 : Flg).getLsbD 3 = false ∧ (5 : Flg).getLsbD 4 = false)
  · rw [Ieee.finish_within (by omega)]
    exact (inexactFlags_bits _ _).2.2.2

end

/-! ## A result in the words of its statement -/

/-- r is the result of an operation whose exact value is n / d units, other than 0: its code and its flags. -/
def Ieee.IsResult (f : Ieee) (rm : Rm) (u : Nat) (r : Nat × Flg) (n : Int) (d : Nat) : Prop := n ≠ 0 →
  f.roundedTo rm u (decide (n < 0)) (fun i => compare (2 ^ 32 * n) (i * d)) r.1 ∧ (r.2.getLsbD 0 = false ↔ f.isFinite r.1 ∧ f.units r.1 * d = n) ∧
    (r.2.getLsbD 2 = true ↔ f.isInf r.1 = true ∨ f.units f.infCode * d ≤ n.natAbs) ∧ (2 ^ (f.prec - 1) * d ≤ n.natAbs → r.2.getLsbD 1 = false) ∧
    (2 * n.natAbs ≤ (2 ^ f.prec - 1) * d → r.2.getLsbD 1 = r.2.getLsbD 0) ∧ r.2.getLsbD 3 = false ∧ r.2.getLsbD 4 = false

theorem compares_units {n : Int} {d : Nat} (hd : 0 < d) : ComparesUnits (fun i => compare (2 ^ 32 * n) (i * d)) (n / d) := by
  have scaled : (2 : ℝ) ^ 32 * (n / d) = ((2 ^ 32 * n : Int) : ℝ) / d := by
    push_cast
    ring
  rw [ComparesUnits, scaled]
  exact compares_fraction hd

section
variable {f : Ieee} (hf : f.Standard) {rm : Rm} {u : Nat} (hu : u < 2 ^ 32) {v : Val × Flg} {n : Int} {d : Nat} (hd : 0 < d)
include hf hu hd

/-- One rounding of an exact value of n / d units is the result of the operation. -/
theorem Ieee.isResult_of_leads (h : n ≠ 0 → v.1.leads (n / d * f.unit)) (quiet : v.2 = 0) : f.IsResult rm u (roundRes (.ieee f) rm u v) n d := by
  intro ne
  have dpos : (0 : ℝ) < d := by exact_mod_cast hd
  have unit := f.unit_pos
  have real : (n : ℝ) / d ≠ 0 := by
    have : (n : ℝ) ≠ 0 := by exact_mod_cast ne
    positivity
  have rounds := roundRes_ieee_leads rm u hf hu (h ne) quiet
  have sign : decide ((n : ℝ) / d * f.unit < 0) = decide (n < 0) := by
    rw [decide_eq_decide, mul_pos_lt_zero_iff unit, div_eq_mul_inv, mul_pos_lt_zero_iff (inv_pos.2 dpos), Int.cast_lt_zero]
  have mag : |(n : ℝ) / d * f.unit| / f.unit = |(n : ℝ) / d| := by
    rw [abs_mul, abs_of_pos unit, mul_div_cancel_right₀ _ unit.ne']
  have value : signFactor (decide (n < 0)) * |(n : ℝ) / d| = n / d := by
    rw [← sign, decide_eq_decide.2 (mul_pos_lt_zero_iff unit), signFactor_mul_abs]
  have natAbs : |(n : ℝ) / d| = n.natAbs / d := by
    rw [abs_div, Nat.cast_natAbs, Int.cast_abs, abs_of_pos dpos]
  have inf : (f.units f.infCode : ℝ) = f.grid f.infCode := by
    have := Ieee.units_signed_of_le hf le_rfl false
    simpa [Ieee.signed] using this
  rw [sign, mag] at rounds
  obtain ⟨dz, nv⟩ := rounds.quiet
  obtain ⟨normal, subnormal⟩ := rounds.uf hf
  refine ⟨rounds.roundedTo hf hu (abs_pos.2 real) (by rw [value]; exact compares_units hd), ?_, ?_, ?_, ?_, dz, nv⟩
  · rw [rounds.nx_iff hf hu, value, eq_div_iff dpos.ne']
    exact and_congr_right fun _ => by exact_mod_cast Iff.rfl
  · rw [rounds.of_iff hf, natAbs, le_div_iff₀ dpos, ← inf]
    exact or_congr_right (by rw [← Int.cast_le (R := ℝ), Int.cast_mul, Int.cast_natCast, Int.cast_natCast])
  · intro large
    refine normal ?_
    rw [natAbs, le_div_iff₀ dpos]
    exact_mod_cast large
  · intro small
    refine subnormal ?_
    rw [natAbs, ← mul_div_assoc, div_le_iff₀ dpos]
    have pow := Nat.one_le_two_pow (n := f.prec)
    have small : ((2 * n.natAbs : Nat) : ℝ) ≤ ((2 ^ f.prec - 1) * d : Nat) := by exact_mod_cast small
    push_cast [Nat.cast_sub pow] at small
    exact small

theorem Ieee.isResult_of_holds (h : v.1.holds (n / d * f.unit)) (quiet : v.2 = 0) : f.IsResult rm u (roundRes (.ieee f) rm u v) n d := by
  refine Ieee.isResult_of_leads hf hu hd (fun ne => Val.leads_of_holds h ?_) quiet
  have dpos : (0 : ℝ) < d := by exact_mod_cast hd
  have unit := f.unit_pos
  have : (n : ℝ) ≠ 0 := by exact_mod_cast ne
  positivity

end

end Sys2Proof.Machine
end

section
/-! SUPPORT. The IEEE operations on finite codes: each rounds the exact result once, and an exact zero sum has the sign of R171 (R171, R319). -/

namespace Sys2Proof.Machine

theorem Ieee.one_pos (f : Ieee) : 0 < f.one := Nat.two_pow_pos _

theorem cast_signFactor (a : Bool) : (((if a = true then -1 else 1 : Int)) : ℝ) = signFactor a := by cases a <;> simp

/-- The zero that an exact zero sum of two signs gives. -/
theorem roundRes_zero_sum {f : Ieee} (rm : Rm) (u : Nat) (a b : Bool) : roundRes (.ieee f) rm u (.zero (if a = b then a else rm == .rdn), 0) =
    (if a = b then f.signed a 0 else if rm = .rdn then 2 ^ (f.width - 1) else 0, 0) := by
  rw [roundRes_ieee_zero]
  by_cases same : a = b
  · simp [same]
  · by_cases down : rm = .rdn <;> simp [same, down, Ieee.signed]

section
variable {f : Ieee} (hf : f.Standard)
include hf

/-- A product of two numbers of units, in units. -/
theorem Ieee.mul_units (a b : ℝ) : a * f.unit * (b * f.unit) = a * b / f.one * f.unit := by
  have scale := Ieee.one_mul_unit hf
  have one : (f.one : ℝ) ≠ 0 := left_ne_zero_of_mul_eq_one scale
  rw [div_mul_eq_mul_div, eq_div_iff one]
  linear_combination a * b * f.unit * scale

variable (rm : Rm) {u : Nat} (hu : u < 2 ^ 32) {x y z : Nat} (hx : f.isFinite x) (hy : f.isFinite y) (hz : f.isFinite z)
include hx

/-- A finite code's operand holds its units and has its sign. -/
theorem Ieee.operand_holds : (decodeVal (.ieee f) false x).holds (f.units x * f.unit) ∧ (decodeVal (.ieee f) false x).neg? = f.isNeg x := by
  rw [decodeVal_ieee hx.1]
  exact Ieee.decode_holds hf hx

include hy

include hu in
theorem Ieee.addCode_isResult : f.IsResult rm u (addCode (.ieee f) rm u x y) (f.units x + f.units y) 1 := by
  obtain ⟨sum, quiet⟩ := addVal_holds rm (Ieee.operand_holds hf hx).1 (Ieee.operand_holds hf hy).1
  refine Ieee.isResult_of_holds hf hu Nat.one_pos ?_ quiet
  convert sum using 1
  push_cast
  ring

include hu in
theorem Ieee.subCode_isResult : f.IsResult rm u (subCode (.ieee f) rm u x y) (f.units x - f.units y) 1 := by
  obtain ⟨sum, quiet⟩ := addVal_holds rm (Ieee.operand_holds hf hx).1 (Val.negate_holds (Ieee.operand_holds hf hy).1)
  refine Ieee.isResult_of_holds hf hu Nat.one_pos ?_ quiet
  convert sum using 1
  push_cast
  ring

include hu in
theorem Ieee.mulCode_isResult : f.IsResult rm u (mulCode (.ieee f) rm u x y) (f.units x * f.units y) f.one := by
  obtain ⟨product, quiet⟩ := mulVal_holds (Ieee.operand_holds hf hx).1 (Ieee.operand_holds hf hy).1
  refine Ieee.isResult_of_holds hf hu (f.one_pos) ?_ quiet
  rw [Ieee.mul_units hf] at product
  rwa [Int.cast_mul]

include hu hz in
theorem Ieee.fmaCode_isResult (a b : Bool) : f.IsResult rm u (fmaCode (.ieee f) rm u a b x y z)
    ((if a = true then -1 else 1) * f.units x * f.units y + (if b = true then -1 else 1) * f.units z * f.one) f.one := by
  obtain ⟨fused, quiet⟩ := fmaVal_holds rm (Val.negate_if_holds (Ieee.operand_holds hf hx).1 a) (Ieee.operand_holds hf hy).1
    (Val.negate_if_holds (Ieee.operand_holds hf hz).1 b)
  refine Ieee.isResult_of_holds hf hu (f.one_pos) ?_ quiet
  have one : (f.one : ℝ) ≠ 0 := by exact_mod_cast (f.one_pos).ne'
  have product := Ieee.mul_units hf (signFactor a * f.units x) (f.units y)
  convert fused using 1
  simp only [Int.cast_add, Int.cast_mul, cast_signFactor, Int.cast_natCast]
  rw [add_div, mul_div_cancel_right₀ _ one, add_mul]
  linear_combination -product

include hu in
/-- A quotient, by the sign and the magnitude of its divisor. -/
theorem Ieee.divCode_isResult (ne : f.units y ≠ 0) :
    f.IsResult rm u (divCode (.ieee f) false rm u x y) (f.units x * f.one * (f.units y).sign) (f.units y).natAbs := by
  have unit := f.unit_pos
  have scale := Ieee.one_mul_unit hf
  have real : (f.units y : ℝ) ≠ 0 := by exact_mod_cast ne
  have magnitude : ((f.units y).sign : ℝ) * (f.units y).natAbs = f.units y := by
    rw [← Int.cast_natCast, ← Int.cast_mul, Int.sign_mul_natAbs]
  have square : ((f.units y).sign : ℝ) * (f.units y).sign = 1 := by
    have : (f.units y).sign * (f.units y).sign = 1 := by rw [← Int.sign_mul, Int.sign_eq_one_of_pos (mul_self_pos.2 ne)]
    exact_mod_cast this
  have abs : ((f.units y).natAbs : ℝ) ≠ 0 := by exact_mod_cast Int.natAbs_ne_zero.2 ne
  have value : f.units x * f.unit / (f.units y * f.unit) = ((f.units x * f.one * (f.units y).sign : Int) : ℝ) / (f.units y).natAbs * f.unit := by
    rw [mul_div_mul_right _ _ unit.ne', div_mul_eq_mul_div, div_eq_div_iff real abs]
    push_cast
    rw [← magnitude]
    linear_combination (-f.units x * (f.units y).natAbs * (f.units y).sign * (f.units y).sign : ℝ) * scale -
      (f.units x * (f.units y).natAbs : ℝ) * square
  by_cases zero : f.units x = 0
  · intro h
    rw [zero, zero_mul, zero_mul] at h
    exact absurd rfl h
  · have real' : (f.units x : ℝ) ≠ 0 := by exact_mod_cast zero
    obtain ⟨quotient, quiet⟩ := divVal_leads false (Ieee.operand_holds hf hx).1 (Ieee.operand_holds hf hy).1 (mul_ne_zero real' unit.ne')
      (mul_ne_zero real unit.ne')
    exact Ieee.isResult_of_leads hf hu (Int.natAbs_pos.2 ne) (fun _ => value ▸ quotient) quiet

omit hy
include hu in
/-- A root, whose comparison is by squares. -/
theorem Ieee.sqrtCode_roundedTo (pos : 0 < f.units x) :
    f.roundedTo rm u false (fun i => if i < 0 then .gt else compare (2 ^ 64 * f.units x * f.one) (i * i))
      (sqrtCode (.ieee f) false rm u x).1 := by
  have unit := f.unit_pos
  have scale := Ieee.one_mul_unit hf
  have real : (0 : ℝ) < f.units x := by exact_mod_cast pos
  obtain ⟨root, quiet⟩ := sqrtVal_leads false (Ieee.operand_holds hf hx).1 (mul_pos real unit)
  have units : √(f.units x * f.unit) = √(f.units x * f.one) * f.unit := by
    have square : (f.units x : ℝ) * f.unit = f.units x * f.one * f.unit ^ 2 := by linear_combination (-f.units x * f.unit : ℝ) * scale
    rw [square, Real.sqrt_mul (by positivity), Real.sqrt_sq unit.le]
  have rounds := roundRes_ieee_leads rm u hf hu root quiet
  have least : 0 < √((f.units x : ℝ) * f.one) := Real.sqrt_pos.2 (mul_pos real (by exact_mod_cast f.one_pos))
  rw [units, abs_of_pos (mul_pos least unit), mul_div_cancel_right₀ _ unit.ne', decide_eq_false (mul_pos least unit).not_gt] at rounds
  refine rounds.roundedTo hf hu least ?_
  have square : ((2 ^ 64 * f.units x * f.one : Int) : ℝ) = (2 ^ 32) ^ 2 * (f.units x * f.one) := by
    push_cast
    ring
  have scaled : √((2 ^ 64 * f.units x * f.one : Int) : ℝ) = 2 ^ 32 * √(f.units x * f.one) := by
    rw [square, Real.sqrt_mul (by positivity), Real.sqrt_sq (by positivity)]
  rw [ComparesUnits, signFactor_false, one_mul, ← scaled]
  exact compares_sqrt_int (by positivity)

/-! ## Exact zero sums (R171) -/

/-- A finite code of no units is a zero's. -/
theorem Ieee.eq_signed_zero (zero : f.units x = 0) : x = f.signed (f.isNeg x) 0 := by
  obtain ⟨wide, small⟩ := hx
  have code := Ieee.eq_signed hf wide
  have units := Ieee.units_signed_of_le hf small.le (f.isNeg x)
  rw [← code, zero, Int.cast_zero, eq_comm, mul_eq_zero_iff_left (by cases f.isNeg x <;> simp), Nat.cast_eq_zero, ← f.grid_zero] at units
  rwa [(Ieee.grid_strictMono hf).injective units] at code

include hy in
theorem Ieee.addCode_zero_sum (zero : f.units x + f.units y = 0) :
    addCode (.ieee f) rm u x y = (if x = y then x else if rm = .rdn then 2 ^ (f.width - 1) else 0, 0) := by
  obtain ⟨holds, sign⟩ := Ieee.operand_holds hf hx
  obtain ⟨holds', sign'⟩ := Ieee.operand_holds hf hy
  have sum : (f.units x : ℝ) * f.unit + f.units y * f.unit = 0 := by
    have zero : (f.units x : ℝ) + f.units y = 0 := by exact_mod_cast zero
    rw [← add_mul, zero, zero_mul]
  show roundRes (.ieee f) rm u (addVal rm _ _) = _
  rw [addVal_zero_sum rm holds holds' sum, sign, sign', roundRes_zero_sum]
  by_cases same : f.isNeg x = f.isNeg y
  · obtain ⟨zx, zy⟩ := Val.zero_of_same_sign holds holds' (by rw [sign, sign', same]) sum
    have zx := Ieee.eq_signed_zero hf hx (by simpa [f.unit_pos.ne'] using zx)
    have zy := Ieee.eq_signed_zero hf hy (by simpa [f.unit_pos.ne'] using zy)
    rw [if_pos same, ← zx, if_pos (by rw [zx, zy, same])]
  · have other : x ≠ y := fun eq => same (congrArg f.isNeg eq)
    rw [if_neg same, if_neg other]

include hy hz in
theorem Ieee.fmaCode_zero_sum (zero : f.units x * f.units y + f.units z * f.one = 0) : fmaCode (.ieee f) rm u false false x y z =
    (if (f.isNeg x != f.isNeg y) = f.isNeg z then z else if rm = .rdn then 2 ^ (f.width - 1) else 0, 0) := by
  obtain ⟨holds, sign⟩ := Ieee.operand_holds hf hx
  obtain ⟨holds', sign'⟩ := Ieee.operand_holds hf hy
  obtain ⟨addend, sign''⟩ := Ieee.operand_holds hf hz
  have product := (mulVal_holds holds holds').1
  have negative := mulVal_neg? holds holds'
  have one : (f.one : ℝ) ≠ 0 := by exact_mod_cast f.one_pos.ne'
  have sum : (f.units x : ℝ) * f.unit * (f.units y * f.unit) + f.units z * f.unit = 0 := by
    have zero : (f.units x : ℝ) * f.units y + f.units z * f.one = 0 := by exact_mod_cast zero
    rw [Ieee.mul_units hf, ← add_mul, ← mul_div_cancel_right₀ (f.units z : ℝ) one, ← add_div, zero, zero_div, zero_mul]
  show roundRes (.ieee f) rm u (fmaVal rm (decodeVal (.ieee f) false x) (decodeVal (.ieee f) false y) (decodeVal (.ieee f) false z)) = _
  rw [fmaVal_of_holds rm holds holds' addend, addVal_zero_sum rm product addend sum, negative, sign, sign', sign'', roundRes_zero_sum]
  by_cases same : (f.isNeg x != f.isNeg y) = f.isNeg z
  · obtain ⟨-, zz⟩ := Val.zero_of_same_sign product addend (by rw [negative, sign, sign', sign'', same]) sum
    have zz := Ieee.eq_signed_zero hf hz (by simpa [f.unit_pos.ne'] using zz)
    rw [if_pos same, if_pos same, same, ← zz]
  · rw [if_neg same, if_neg same]

end

end Sys2Proof.Machine
end

section
/-! SUPPORT. The special results of the IEEE operations: NaNs, infinities and zeros (R171, R316, R319). -/

namespace Sys2Proof.Machine

/-! ## Operations on special values -/

theorem Val.exists_of_isNaN {v : Val} (h : v.isNaN = true) : ∃ s, v = .nan s := by
  cases v with
  | nan s => exact ⟨s, rfl⟩
  | _ => exact absurd h Bool.false_ne_true

section
variable {v w : Val} (hv : v.isNar = false) (hw : w.isNar = false) (nan : v.isNaN = true ∨ w.isNaN = true)
include hv hw nan

theorem addVal_nan (rm : Rm) : addVal rm v w = (.nan false, flagIf (v.isSig || w.isSig) fNV) := by
  rcases nan with nv | nw
  · obtain ⟨s, rfl⟩ := Val.exists_of_isNaN nv
    cases w with
    | nar => exact absurd hw (by decide)
    | _ => rfl
  · obtain ⟨t, rfl⟩ := Val.exists_of_isNaN nw
    cases v with
    | nar => exact absurd hv (by decide)
    | _ => rfl

theorem mulVal_nan : mulVal v w = (.nan false, flagIf (v.isSig || w.isSig) fNV) := by
  rcases nan with nv | nw
  · obtain ⟨s, rfl⟩ := Val.exists_of_isNaN nv
    cases w with
    | nar => exact absurd hw (by decide)
    | _ => rfl
  · obtain ⟨t, rfl⟩ := Val.exists_of_isNaN nw
    cases v with
    | nar => exact absurd hv (by decide)
    | _ => rfl

theorem divVal_nan : divVal false v w = (.nan false, flagIf (v.isSig || w.isSig) fNV) := by
  rcases nan with nv | nw
  · obtain ⟨s, rfl⟩ := Val.exists_of_isNaN nv
    cases w with
    | nar => exact absurd hw (by decide)
    | _ => rfl
  · obtain ⟨t, rfl⟩ := Val.exists_of_isNaN nw
    cases v with
    | nar => exact absurd hv (by decide)
    | _ => rfl

end

theorem flagIf_or (a b : Bool) (fl : Flg) : flagIf a fl ||| flagIf b fl = flagIf (a || b) fl := by
  cases a <;> cases b <;> simp [flagIf]

theorem addVal_inf_right (rm : Rm) {v : Val} {x : ℝ} (hv : v.holds x) (s : Bool) : addVal rm v (.inf s) = (.inf s, 0) := by
  rcases Val.holds_cases hv with ⟨t, rfl, -⟩ | ⟨t, m, e, rfl, -, -, -⟩ <;> rfl

/-! ## The class of a code -/

/-- The class of an IEEE code, with the value that it decodes to (R170). -/
inductive Ieee.Class (f : Ieee) (x : Nat) (v : Val) : Prop
  | nan (is : f.isNaN x = true) (inf : f.isInf x = false) (zero : f.isZero x = false) (value : v = .nan (f.isSig x))
  | inf (nan : f.isNaN x = false) (is : f.isInf x = true) (zero : f.isZero x = false) (value : v = .inf (f.isNeg x))
  | zero (nan : f.isNaN x = false) (inf : f.isInf x = false) (is : f.isZero x = true) (value : v = .zero (f.isNeg x))
  | fin (nan : f.isNaN x = false) (inf : f.isInf x = false) (zero : f.isZero x = false)
      (value : v = .fin (f.isNeg x) (f.mantissa (x % 2 ^ (f.width - 1))) (f.exponent (x % 2 ^ (f.width - 1))) false)

theorem Ieee.withSign_eq_signed (f : Ieee) (neg : Bool) (c : Nat) : f.withSign neg c = f.signed neg c := by
  cases neg <;> simp [Ieee.withSign, Ieee.signed]

theorem Ieee.flip_eq_signed (f : Ieee) (x : Nat) : f.flip x = f.signed (!f.isNeg x) (x % 2 ^ (f.width - 1)) := by
  rw [Ieee.flip, Ieee.withSign_eq_signed]

theorem Ieee.isSig_of_not_nan {f : Ieee} {x : Nat} (h : f.isNaN x = false) : f.isSig x = false := by
  rw [Ieee.isSig, h, Bool.false_and]

section
variable {f : Ieee} {x y z : Nat} {v w t : Val}

theorem Ieee.Class.isNar (h : f.Class x v) : v.isNar = false := by
  cases h <;> simp [*, Val.isNar]

theorem Ieee.Class.isNaN (h : f.Class x v) : v.isNaN = f.isNaN x := by
  cases h <;> simp [*, Val.isNaN]

theorem Ieee.Class.isSig (h : f.Class x v) : v.isSig = f.isSig x := by
  cases h <;> simp [*, Val.isSig, Ieee.isSig]

/-- A product of 0 and ∞. -/
def Ieee.badProduct (f : Ieee) (x y : Nat) : Bool := f.isInf x && f.isZero y || f.isZero x && f.isInf y

/-- The sign of a product or a quotient. -/
def Ieee.productNeg (f : Ieee) (x y : Nat) : Bool := f.isNeg x != f.isNeg y

/-- A product is never NaR or a signalling NaN; it is a NaN of a NaN's operand or of 0 and ∞, and NV says why. -/
theorem mulVal_class (cx : f.Class x v) (cy : f.Class y w) :
    (mulVal v w).1.isNar = false ∧ (mulVal v w).1.isSig = false ∧
      (mulVal v w).1.isNaN = (f.isNaN x || f.isNaN y || f.badProduct x y) ∧
      (mulVal v w).2 = flagIf (f.badProduct x y || f.isSig x || f.isSig y) fNV := by
  cases cx <;> cases cy <;> subst_vars <;>
    simp_all [mulVal, Ieee.badProduct, Val.isNar, Val.isSig, Val.isNaN, flagIf, Ieee.isSig_of_not_nan]

/-- A product with an infinity that is no NaN is an infinity. -/
theorem mulVal_inf (cx : f.Class x v) (cy : f.Class y w) (nx : f.isNaN x = false) (ny : f.isNaN y = false) (inf : f.isInf x = true ∨ f.isInf y = true)
    (good : f.badProduct x y = false) : mulVal v w = (.inf (f.productNeg x y), 0) := by
  cases cx <;> cases cy <;> simp_all [mulVal, Ieee.badProduct, Ieee.productNeg, Val.neg?, bne_comm]

/-- A sum with an infinity on the left. -/
theorem addVal_inf_left (rm : Rm) (s : Bool) (cz : f.Class z t) (nz : f.isNaN z = false) :
    addVal rm (.inf s) t = if f.isInf z = true ∧ f.isNeg z ≠ s then (.nan false, fNV) else (.inf s, 0) := by
  cases cz with
  | nan is => exact absurd (nz.symm.trans is) Bool.false_ne_true
  | inf _ is _ value =>
    subst value
    by_cases same : s = f.isNeg z
    · simp [addVal, same]
    · simp [addVal, is, same, Ne.symm same]
  | zero _ inf _ value => simp [addVal, value, inf]
  | fin _ inf _ value => simp [addVal, value, inf]

end

section
variable {f : Ieee} (hf : f.Standard) {x y z : Nat} (hx : x < 2 ^ f.width) (hy : y < 2 ^ f.width) (hz : z < 2 ^ f.width)
include hf hx

theorem Ieee.decode_class : f.Class x (f.decode x) := by
  have pos := hf.infCode_pos
  rcases lt_trichotomy (x % 2 ^ (f.width - 1)) f.infCode with less | same | more
  · have nan : f.isNaN x = false := decide_eq_false less.not_gt
    have inf : f.isInf x = false := beq_eq_false_iff_ne.2 less.ne
    cases zero : f.isZero x with
    | true => exact .zero nan inf zero (Ieee.decode_zero hf hx zero)
    | false => exact .fin nan inf zero (Ieee.decode_fin hf hx less zero)
  · have inf : f.isInf x = true := beq_iff_eq.2 same
    exact .inf (decide_eq_false same.not_gt) inf (beq_eq_false_iff_ne.2 (by omega)) (Ieee.decode_inf hf hx inf)
  · have nan : f.isNaN x = true := decide_eq_true more
    exact .nan nan (beq_eq_false_iff_ne.2 more.ne') (beq_eq_false_iff_ne.2 (by omega)) (Ieee.decode_nan hf nan)

theorem Ieee.operand_class : f.Class x (decodeVal (.ieee f) false x) := by
  rw [decodeVal_ieee hx]
  exact Ieee.decode_class hf hx

omit hf in
theorem Ieee.isFinite_of_class (nan : f.isNaN x = false) (inf : f.isInf x = false) : f.isFinite x := by
  rw [Ieee.isNaN, decide_eq_false_iff_not] at nan
  rw [Ieee.isInf, beq_eq_false_iff_ne] at inf
  exact ⟨hx, by omega⟩

theorem Ieee.signed_inf (inf : f.isInf x = true) : f.signed (f.isNeg x) f.infCode = x := by
  rw [Ieee.isInf, beq_iff_eq] at inf
  exact ((Ieee.eq_signed hf hx).trans (by rw [inf])).symm

theorem Ieee.signed_zero (zero : f.isZero x = true) : f.signed (f.isNeg x) 0 = x := by
  rw [Ieee.isZero, beq_iff_eq] at zero
  exact ((Ieee.eq_signed hf hx).trans (by rw [zero])).symm

/-! ## The other sign -/

omit hx in
theorem Ieee.flip_lt (x : Nat) : f.flip x < 2 ^ f.width := by
  rw [Ieee.flip_eq_signed]
  exact Ieee.signed_lt (Nat.zero_lt_of_lt hf.exponent) _ (Nat.mod_lt _ (Nat.two_pow_pos _))

/-- The code with the other sign has the negated value. -/
theorem Ieee.operand_flip : decodeVal (.ieee f) false (f.flip x) = (decodeVal (.ieee f) false x).negate := by
  have wide := Ieee.flip_lt hf x
  have small : x % 2 ^ (f.width - 1) < 2 ^ (f.width - 1) := Nat.mod_lt _ (Nat.two_pow_pos _)
  have mag : f.flip x % 2 ^ (f.width - 1) = x % 2 ^ (f.width - 1) := by
    rw [Ieee.flip_eq_signed, Ieee.signed_mod small]
  have neg : f.isNeg (f.flip x) = !f.isNeg x := by
    rw [Ieee.flip_eq_signed, Ieee.isNeg, Bool.eq_iff_iff, decide_eq_true_iff, Ieee.le_signed_iff small]
  have nan : f.isNaN (f.flip x) = f.isNaN x := by rw [Ieee.isNaN, mag, Ieee.isNaN]
  have inf : f.isInf (f.flip x) = f.isInf x := by rw [Ieee.isInf, mag, Ieee.isInf]
  have zero : f.isZero (f.flip x) = f.isZero x := by rw [Ieee.isZero, mag, Ieee.isZero]
  have sig : f.isSig (f.flip x) = f.isSig x := by rw [Ieee.isSig, mag, nan, Ieee.isSig]
  have cx := Ieee.operand_class hf hx
  have cf := Ieee.operand_class hf wide
  generalize decodeVal (.ieee f) false x = v at *
  generalize decodeVal (.ieee f) false (f.flip x) = w at *
  cases cx <;> cases cf <;> simp_all [Val.negate]

theorem Ieee.operand_flip_if (a : Bool) : decodeVal (.ieee f) false (if a = true then f.flip x else x) =
    if a = true then (decodeVal (.ieee f) false x).negate else decodeVal (.ieee f) false x := by
  cases a with
  | false => rfl
  | true => exact Ieee.operand_flip hf hx

variable (rm : Rm) (u : Nat)

/-! ## Roots (R316) -/

theorem Ieee.sqrtCode_nan (nan : f.isNaN x = true) : sqrtCode (.ieee f) false rm u x = f.nanIf (f.isSig x) := by
  have cx := Ieee.operand_class hf hx
  rw [sqrtCode]
  cases cx <;> simp_all [sqrtVal, roundRes_ieee_nan, Ieee.nanIf, flagIf, fNV]

theorem Ieee.sqrtCode_zero (zero : f.isZero x = true) : sqrtCode (.ieee f) false rm u x = (x, 0) := by
  have cx := Ieee.operand_class hf hx
  have code := Ieee.signed_zero hf hx zero
  rw [sqrtCode]
  cases cx <;> simp_all [sqrtVal, roundRes_ieee_zero]

theorem Ieee.sqrtCode_neg (nan : f.isNaN x = false) (zero : f.isZero x = false) (neg : f.isNeg x = true) :
    sqrtCode (.ieee f) false rm u x = (f.nanCode, 0x10) := by
  have cx := Ieee.operand_class hf hx
  rw [sqrtCode]
  cases cx <;> simp_all [sqrtVal, roundRes_ieee_nan, fNV]

theorem Ieee.sqrtCode_inf (inf : f.isInf x = true) (pos : f.isNeg x = false) : sqrtCode (.ieee f) false rm u x = (x, 0) := by
  have cx := Ieee.operand_class hf hx
  have code := Ieee.signed_inf hf hx inf
  rw [sqrtCode]
  cases cx <;> simp_all [sqrtVal, roundRes_ieee_inf]

include hy

omit hx in
theorem Ieee.subCode_eq_addCode : subCode (.ieee f) rm u x y = addCode (.ieee f) rm u x (f.flip y) := by
  show roundRes (.ieee f) rm u (addVal rm (decodeVal (.ieee f) false x) (decodeVal (.ieee f) false y).negate) = roundRes (.ieee f) rm u (addVal rm _ _)
  rw [Ieee.operand_flip hf hy]

/-! ## NaNs -/

theorem Ieee.addCode_nan (nan : f.isNaN x = true ∨ f.isNaN y = true) : addCode (.ieee f) rm u x y = f.nanIf (f.isSig x || f.isSig y) := by
  have cx := Ieee.operand_class hf hx
  have cy := Ieee.operand_class hf hy
  show roundRes (.ieee f) rm u (addVal rm _ _) = _
  rw [addVal_nan cx.isNar cy.isNar (by rwa [cx.isNaN, cy.isNaN]), roundRes_ieee_nan, cx.isSig, cy.isSig]
  rfl

theorem Ieee.mulCode_nan (nan : f.isNaN x = true ∨ f.isNaN y = true) : mulCode (.ieee f) rm u x y = f.nanIf (f.isSig x || f.isSig y) := by
  have cx := Ieee.operand_class hf hx
  have cy := Ieee.operand_class hf hy
  show roundRes (.ieee f) rm u (mulVal _ _) = _
  rw [mulVal_nan cx.isNar cy.isNar (by rwa [cx.isNaN, cy.isNaN]), roundRes_ieee_nan, cx.isSig, cy.isSig]
  rfl

theorem Ieee.divCode_nan (nan : f.isNaN x = true ∨ f.isNaN y = true) : divCode (.ieee f) false rm u x y = f.nanIf (f.isSig x || f.isSig y) := by
  have cx := Ieee.operand_class hf hx
  have cy := Ieee.operand_class hf hy
  rw [divCode, divVal_nan cx.isNar cy.isNar (by rwa [cx.isNaN, cy.isNaN]), roundRes_ieee_nan, cx.isSig, cy.isSig]
  rfl

/-! ## Infinities and zeros (R316) -/

theorem Ieee.addCode_inf (nx : f.isNaN x = false) (ny : f.isNaN y = false) (inf : f.isInf x = true ∨ f.isInf y = true) :
    addCode (.ieee f) rm u x y =
      if f.isInf x = true ∧ f.isInf y = true ∧ x ≠ y then (f.nanCode, 0x10) else (if f.isInf x = true then x else y, 0) := by
  have cx := Ieee.operand_class hf hx
  have cy := Ieee.operand_class hf hy
  show roundRes (.ieee f) rm u (addVal rm _ _) = _
  cases ix : f.isInf x with
  | false =>
    have iy : f.isInf y = true := by simpa [ix] using inf
    have holds := (Ieee.operand_holds hf (Ieee.isFinite_of_class hx nx ix)).1
    have value : decodeVal (.ieee f) false y = .inf (f.isNeg y) := by rw [decodeVal_ieee hy, Ieee.decode_inf hf hy iy]
    rw [value, addVal_inf_right rm holds, roundRes_ieee_inf, Ieee.signed_inf hf hy iy]
    simp
  | true =>
    have value : decodeVal (.ieee f) false x = .inf (f.isNeg x) := by rw [decodeVal_ieee hx, Ieee.decode_inf hf hx ix]
    have codes (iy : f.isInf y = true) : f.isNeg y ≠ f.isNeg x ↔ x ≠ y := by
      rw [not_iff_not]
      constructor
      · intro same
        rw [← Ieee.signed_inf hf hx ix, ← Ieee.signed_inf hf hy iy, same]
      · rintro rfl
        rfl
    rw [value, addVal_inf_left rm _ cy ny]
    by_cases opposite : f.isInf y = true ∧ x ≠ y
    · rw [if_pos ⟨opposite.1, (codes opposite.1).2 opposite.2⟩, if_pos ⟨rfl, opposite⟩, roundRes_ieee_nan]
      rfl
    · rw [if_neg (fun h => opposite ⟨h.1, (codes h.1).1 h.2⟩), if_neg (fun h => opposite h.2), roundRes_ieee_inf, Ieee.signed_inf hf hx ix, if_pos rfl]

theorem Ieee.mulCode_inf (nx : f.isNaN x = false) (ny : f.isNaN y = false) (inf : f.isInf x = true ∨ f.isInf y = true) :
    mulCode (.ieee f) rm u x y = if f.badProduct x y = true then (f.nanCode, 0x10) else (f.withSign (f.productNeg x y) f.infCode, 0) := by
  have cx := Ieee.operand_class hf hx
  have cy := Ieee.operand_class hf hy
  show roundRes (.ieee f) rm u (mulVal _ _) = _
  rw [Ieee.withSign_eq_signed]
  cases bad : f.badProduct x y with
  | false => rw [mulVal_inf cx cy nx ny inf bad, roundRes_ieee_inf, if_neg Bool.false_ne_true]
  | true =>
    rw [if_pos rfl]
    cases cx <;> cases cy <;> simp_all [mulVal, Ieee.badProduct, roundRes_ieee_nan, fNV]

theorem Ieee.mulCode_zero (nx : f.isNaN x = false) (ny : f.isNaN y = false) (ix : f.isInf x = false) (iy : f.isInf y = false)
    (zero : f.isZero x = true ∨ f.isZero y = true) : mulCode (.ieee f) rm u x y = (f.withSign (f.productNeg x y) 0, 0) := by
  have cx := Ieee.operand_class hf hx
  have cy := Ieee.operand_class hf hy
  show roundRes (.ieee f) rm u (mulVal _ _) = _
  rw [Ieee.withSign_eq_signed]
  cases cx <;> cases cy <;> simp_all [mulVal, roundRes_ieee_zero, Ieee.productNeg, Val.neg?, bne_comm]

theorem Ieee.divCode_special (nx : f.isNaN x = false) (ny : f.isNaN y = false)
    (special : f.isInf x = true ∨ f.isInf y = true ∨ f.isZero x = true ∨ f.isZero y = true) :
    divCode (.ieee f) false rm u x y =
      if f.isInf x = true ∧ f.isInf y = true ∨ f.isZero x = true ∧ f.isZero y = true then (f.nanCode, 0x10)
      else if f.isInf x = true then (f.withSign (f.productNeg x y) f.infCode, 0)
      else if (f.isInf y || f.isZero x) = true then (f.withSign (f.productNeg x y) 0, 0)
      else (f.withSign (f.productNeg x y) f.infCode, 0x08) := by
  have cx := Ieee.operand_class hf hx
  have cy := Ieee.operand_class hf hy
  simp only [divCode, Ieee.withSign_eq_signed]
  cases cx <;> cases cy <;>
    simp_all [divVal, roundRes_ieee_nan, roundRes_ieee_inf, roundRes_ieee_zero, Ieee.productNeg, Val.neg?, bne_comm, fNV, fDZ]

/-! ## Fused products and sums (R319) -/

include hz

omit hy in
theorem Ieee.fmaCode_eq_flip (a b : Bool) : fmaCode (.ieee f) rm u a b x y z =
    fmaCode (.ieee f) rm u false false (if a = true then f.flip x else x) y (if b = true then f.flip z else z) := by
  show roundRes (.ieee f) rm u (fmaVal rm (if a = true then (decodeVal (.ieee f) false x).negate else decodeVal (.ieee f) false x)
    (decodeVal (.ieee f) false y) (if b = true then (decodeVal (.ieee f) false z).negate else decodeVal (.ieee f) false z)) =
    roundRes (.ieee f) rm u (fmaVal rm (decodeVal (.ieee f) false _) _ (decodeVal (.ieee f) false _))
  rw [Ieee.operand_flip_if hf hx, Ieee.operand_flip_if hf hz]

/-- The fused operation on the operands' values. -/
theorem Ieee.fmaCode_eq : fmaCode (.ieee f) rm u false false x y z =
    roundRes (.ieee f) rm u ((addVal rm (mulVal (decodeVal (.ieee f) false x) (decodeVal (.ieee f) false y)).1 (decodeVal (.ieee f) false z)).1,
      (mulVal (decodeVal (.ieee f) false x) (decodeVal (.ieee f) false y)).2 |||
        (addVal rm (mulVal (decodeVal (.ieee f) false x) (decodeVal (.ieee f) false y)).1 (decodeVal (.ieee f) false z)).2) := by
  have cx := Ieee.operand_class hf hx
  have cy := Ieee.operand_class hf hy
  have cz := Ieee.operand_class hf hz
  show roundRes (.ieee f) rm u (fmaVal rm (decodeVal (.ieee f) false x) (decodeVal (.ieee f) false y) (decodeVal (.ieee f) false z)) = _
  rw [fmaVal_eq rm cx.isNar cy.isNar cz.isNar]

theorem Ieee.fmaCode_of_quiet (quiet : (mulVal (decodeVal (.ieee f) false x) (decodeVal (.ieee f) false y)).2 = 0) :
    fmaCode (.ieee f) rm u false false x y z =
      roundRes (.ieee f) rm u (addVal rm (mulVal (decodeVal (.ieee f) false x) (decodeVal (.ieee f) false y)).1 (decodeVal (.ieee f) false z)) := by
  rw [Ieee.fmaCode_eq hf hx hy hz, quiet, noFlags_or]

/-- A NaN operand, or 0 × ∞ whatever the addend, gives the canonical NaN. -/
theorem Ieee.fmaCode_nan (nan : f.isNaN x = true ∨ f.isNaN y = true ∨ f.isNaN z = true ∨ f.badProduct x y = true) :
    fmaCode (.ieee f) rm u false false x y z = f.nanIf (f.badProduct x y || f.isSig x || f.isSig y || f.isSig z) := by
  have cz := Ieee.operand_class hf hz
  obtain ⟨nar, sig, isNaN, flags⟩ := mulVal_class (Ieee.operand_class hf hx) (Ieee.operand_class hf hy)
  have either : (f.isNaN x || f.isNaN y || f.badProduct x y) = true ∨ f.isNaN z = true := by
    simp only [Bool.or_eq_true]
    tauto
  rw [Ieee.fmaCode_eq hf hx hy hz, addVal_nan nar cz.isNar (by rwa [isNaN, cz.isNaN]), sig, cz.isSig, Bool.false_or]
  dsimp only
  rw [flags, flagIf_or, roundRes_ieee_nan]
  rfl

theorem Ieee.fmaCode_inf_product (nx : f.isNaN x = false) (ny : f.isNaN y = false) (nz : f.isNaN z = false) (good : f.badProduct x y = false)
    (inf : f.isInf x = true ∨ f.isInf y = true) : fmaCode (.ieee f) rm u false false x y z =
      if f.isInf z = true ∧ f.isNeg z ≠ f.productNeg x y then (f.nanCode, 0x10) else (f.withSign (f.productNeg x y) f.infCode, 0) := by
  have product := mulVal_inf (Ieee.operand_class hf hx) (Ieee.operand_class hf hy) nx ny inf good
  rw [Ieee.fmaCode_of_quiet hf hx hy hz rm u (by rw [product]), product, addVal_inf_left rm _ (Ieee.operand_class hf hz) nz, Ieee.withSign_eq_signed]
  split
  · exact roundRes_ieee_nan rm u fNV
  · exact roundRes_ieee_inf rm u 0 _

theorem Ieee.fmaCode_inf_addend (nx : f.isNaN x = false) (ny : f.isNaN y = false) (ix : f.isInf x = false) (iy : f.isInf y = false)
    (iz : f.isInf z = true) : fmaCode (.ieee f) rm u false false x y z = (z, 0) := by
  obtain ⟨product, quiet⟩ := mulVal_holds (Ieee.operand_holds hf (Ieee.isFinite_of_class hx nx ix)).1 (Ieee.operand_holds hf (Ieee.isFinite_of_class hy ny iy)).1
  have value : decodeVal (.ieee f) false z = .inf (f.isNeg z) := by rw [decodeVal_ieee hz, Ieee.decode_inf hf hz iz]
  rw [Ieee.fmaCode_of_quiet hf hx hy hz rm u quiet, value, addVal_inf_right rm product, roundRes_ieee_inf, Ieee.signed_inf hf hz iz]

end

end Sys2Proof.Machine
end

section
/-! SUPPORT. The IEEE comparisons, minimum and maximum follow the numbers of their operands (R316). -/

namespace Sys2Proof.Machine

theorem Ieee.unsignZero_lt {f : Ieee} {x : Nat} (hx : x < 2 ^ f.width) : f.unsignZero x < 2 ^ f.width := by
  unfold Ieee.unsignZero
  split
  · exact Nat.two_pow_pos _
  · exact hx

section
variable {f : Ieee} (hf : f.Standard) {x y : Nat}
include hf

theorem Ieee.isNaN_decode (hx : x < 2 ^ f.width) : (f.decode x).isNaN = f.isNaN x := (Ieee.decode_class hf hx).isNaN

theorem Ieee.isSig_decode (hx : x < 2 ^ f.width) : (f.decode x).isSig = f.isSig x := (Ieee.decode_class hf hx).isSig

/-! ## Keys and numbers -/

theorem Ieee.key_eq (hx : x < 2 ^ f.width) : f.key x = if f.isNeg x = true then -((x % 2 ^ (f.width - 1) : Nat) : Int) - 1 else (x % 2 ^ (f.width - 1) : Nat) := by
  rw [Ieee.key, Ieee.bitAt_sign hf hx]

omit hf in
theorem Ieee.units_eq_isNeg (f : Ieee) (x : Nat) :
    f.units x = if f.isNeg x = true then -(f.grid (x % 2 ^ (f.width - 1)) : Int) else f.grid (x % 2 ^ (f.width - 1)) := by
  rw [Ieee.units_eq, Ieee.isNeg]
  simp only [decide_eq_true_iff]

/-- Two magnitude codes are in the order of their grid's numbers, and 0 alone has 0. -/
theorem Ieee.grid_order (a b : Nat) : (f.grid a < f.grid b ↔ a < b) ∧ (f.grid b < f.grid a ↔ b < a) ∧ (f.grid a = 0 ↔ a = 0) ∧ (f.grid b = 0 ↔ b = 0) := by
  have mono := Ieee.grid_strictMono hf
  have zero (c : Nat) : f.grid c = 0 ↔ c = 0 := by rw [← f.grid_zero, mono.injective.eq_iff, f.grid_zero]
  exact ⟨mono.lt_iff_lt, mono.lt_iff_lt, zero a, zero b⟩

/-- A code is its sign and its magnitude. -/
theorem Ieee.eq_of_parts (hx : x < 2 ^ f.width) (hy : y < 2 ^ f.width) (neg : f.isNeg x = f.isNeg y)
    (mag : x % 2 ^ (f.width - 1) = y % 2 ^ (f.width - 1)) : x = y := by
  rw [Ieee.eq_signed hf hx, Ieee.eq_signed hf hy, neg, mag]

theorem Ieee.eq_of_key (hx : x < 2 ^ f.width) (hy : y < 2 ^ f.width) (same : f.key x = f.key y) : x = y := by
  rw [Ieee.key_eq hf hx, Ieee.key_eq hf hy] at same
  have parts : f.isNeg x = f.isNeg y ∧ x % 2 ^ (f.width - 1) = y % 2 ^ (f.width - 1) := by
    generalize x % 2 ^ (f.width - 1) = a at *
    generalize y % 2 ^ (f.width - 1) = b at *
    cases neg : f.isNeg x <;> cases neg' : f.isNeg y <;> simp [neg, neg'] at same ⊢ <;> omega
  exact Ieee.eq_of_parts hf hx hy parts.1 parts.2

/-- A zero without its sign: a code's number alone is left. -/
theorem Ieee.key_unsignZero (hx : x < 2 ^ f.width) : f.key (f.unsignZero x) =
    if x % 2 ^ (f.width - 1) = 0 then 0 else if f.isNeg x = true then -((x % 2 ^ (f.width - 1) : Nat) : Int) - 1 else (x % 2 ^ (f.width - 1) : Nat) := by
  rw [Ieee.key_eq hf (Ieee.unsignZero_lt hx), Ieee.unsignZero]
  split
  next zero => simp [Ieee.isNeg]
  next => rfl

section
variable (hx : x < 2 ^ f.width) (hy : y < 2 ^ f.width)
include hx hy

theorem Ieee.key_unsignZero_lt_iff : f.key (f.unsignZero x) < f.key (f.unsignZero y) ↔ f.units x < f.units y := by
  obtain ⟨ab, ba, za, zb⟩ := Ieee.grid_order hf (x % 2 ^ (f.width - 1)) (y % 2 ^ (f.width - 1))
  rw [Ieee.key_unsignZero hf hx, Ieee.key_unsignZero hf hy, Ieee.units_eq_isNeg, Ieee.units_eq_isNeg]
  generalize x % 2 ^ (f.width - 1) = a at *
  generalize y % 2 ^ (f.width - 1) = b at *
  split_ifs <;> omega

theorem Ieee.key_unsignZero_eq_iff : f.key (f.unsignZero x) = f.key (f.unsignZero y) ↔ f.units x = f.units y := by
  have less := Ieee.key_unsignZero_lt_iff hf hx hy
  have more := Ieee.key_unsignZero_lt_iff hf hy hx
  omega

theorem Ieee.unsignZero_eq_iff : f.unsignZero x = f.unsignZero y ↔ f.units x = f.units y := by
  rw [← Ieee.key_unsignZero_eq_iff hf hx hy]
  exact ⟨congrArg _, Ieee.eq_of_key hf (Ieee.unsignZero_lt hx) (Ieee.unsignZero_lt hy)⟩

/-- The order of minimum and maximum: that of the numbers, and −0 below +0. -/
theorem Ieee.key_lt_iff (ne : x ≠ y) : f.key x < f.key y ↔ f.units x < f.units y ∨ f.units x = f.units y ∧ f.isNeg x = true := by
  obtain ⟨ab, ba, za, zb⟩ := Ieee.grid_order hf (x % 2 ^ (f.width - 1)) (y % 2 ^ (f.width - 1))
  have parts := mt fun h : f.isNeg x = f.isNeg y ∧ x % 2 ^ (f.width - 1) = y % 2 ^ (f.width - 1) => Ieee.eq_of_parts hf hx hy h.1 h.2
  have parts := parts ne
  rw [Ieee.key_eq hf hx, Ieee.key_eq hf hy, Ieee.units_eq_isNeg, Ieee.units_eq_isNeg]
  generalize x % 2 ^ (f.width - 1) = a at *
  generalize y % 2 ^ (f.width - 1) = b at *
  cases neg : f.isNeg x <;> cases neg' : f.isNeg y <;> simp [neg, neg'] at parts ⊢ <;> omega

/-! ## Comparisons, minimum and maximum -/

theorem Ieee.eqCode_nan (nan : f.isNaN x = true ∨ f.isNaN y = true) : eqCode (.ieee f) x y = (false, (f.nanIf (f.isSig x || f.isSig y)).2) := by
  simp only [eqCode, Ieee.isNaN_decode hf hx, Ieee.isNaN_decode hf hy, Ieee.isSig_decode hf hx, Ieee.isSig_decode hf hy]
  rw [if_pos (by simpa using nan)]
  rfl

theorem Ieee.ltCode_nan (e : Bool) (nan : f.isNaN x = true ∨ f.isNaN y = true) : ltCode (.ieee f) e x y = (false, 0x10) := by
  simp only [ltCode, Ieee.isNaN_decode hf hx, Ieee.isNaN_decode hf hy]
  rw [if_pos (by simpa using nan)]
  rfl

theorem Ieee.minMaxCode_nan (g : Bool) (nan : f.isNaN x = true ∨ f.isNaN y = true) : minMaxCode (.ieee f) g x y =
    (if f.isNaN x = true ∧ f.isNaN y = true then f.nanCode else if f.isNaN x = true then y else x, (f.nanIf (f.isSig x || f.isSig y)).2) := by
  simp only [minMaxCode, Ieee.minMax, Ieee.isNaN_decode hf hx, Ieee.isNaN_decode hf hy, Ieee.isSig_decode hf hx, Ieee.isSig_decode hf hy]
  cases nx : f.isNaN x with
  | true => cases ny : f.isNaN y <;> rfl
  | false =>
    have ny : f.isNaN y = true := by simpa [nx] using nan
    rw [ny]
    rfl

variable (nx : f.isNaN x = false) (ny : f.isNaN y = false)
include nx ny

theorem Ieee.eqCode_numbers : eqCode (.ieee f) x y = (decide (f.units x = f.units y), 0) := by
  simp only [eqCode, Ieee.isNaN_decode hf hx, Ieee.isNaN_decode hf hy, nx, ny, Bool.or_self, Bool.false_eq_true, if_false]
  rw [← decide_eq_decide.2 (Ieee.unsignZero_eq_iff hf hx hy)]
  rfl

theorem Ieee.ltCode_numbers (e : Bool) : ltCode (.ieee f) e x y =
    (if e = true then decide (f.units x ≤ f.units y) else decide (f.units x < f.units y), 0) := by
  have less := Ieee.key_unsignZero_lt_iff hf hx hy
  have same := Ieee.key_unsignZero_eq_iff hf hx hy
  simp only [ltCode, Ieee.isNaN_decode hf hx, Ieee.isNaN_decode hf hy, nx, ny, Bool.or_self, Bool.false_eq_true, if_false, less]
  cases e with
  | false => simp
  | true =>
    have equal : (f.key (f.unsignZero x) == f.key (f.unsignZero y)) = decide (f.units x = f.units y) := decide_eq_decide.2 same
    simp [le_iff_lt_or_eq, equal]

/-- The lesser number, or −0 beside +0, is the minimum; the other operand is the maximum. -/
theorem Ieee.minMaxCode_numbers (g : Bool) : minMaxCode (.ieee f) g x y =
    (if (decide (f.units x < f.units y) || decide (f.units x = f.units y) && f.isNeg x) = true then (if g = true then y else x)
      else if g = true then x else y, 0) := by
  simp only [minMaxCode, Ieee.minMax, Ieee.isNaN_decode hf hx, Ieee.isNaN_decode hf hy, Ieee.isSig_decode hf hx, Ieee.isSig_decode hf hy, nx, ny,
    Ieee.isSig_of_not_nan nx, Ieee.isSig_of_not_nan ny, Bool.and_self, Bool.or_self, Bool.false_eq_true, if_false, flagIf]
  by_cases same : x = y
  · simp [same]
  · have less : decide (f.key x < f.key y) = (decide (f.units x < f.units y) || decide (f.units x = f.units y) && f.isNeg x) := by
      rw [Bool.eq_iff_iff, decide_eq_true_iff, Ieee.key_lt_iff hf hx hy same]
      simp
    rw [less]
    generalize (decide (f.units x < f.units y) || decide (f.units x = f.units y) && f.isNeg x) = b
    cases b <;> cases g <;> rfl

end

end

end Sys2Proof.Machine
end

section
/-! SUPPORT. Every dyadic number is rounded once into an IEEE format (R171, R187). -/

namespace Sys2Proof.Machine

/-- A power of two by two natural exponents. -/
theorem two_pow_toNat_div (s : Int) : (2 : ℝ) ^ s.toNat / 2 ^ (-s).toNat = 2 ^ s := by
  rw [← zpow_natCast, ← zpow_natCast, ← zpow_sub₀ two_ne_zero, Int.toNat_sub_toNat_neg]

theorem Ieee.round_roundedTo {f : Ieee} (hf : f.Standard) (rm : Rm) {u : Nat} (hu : u < 2 ^ 32) (neg : Bool) {m : Nat} (pos : 0 < m) (e : Int) :
    let sh := e - f.emin + f.prec - 1
    f.roundedTo rm u neg (fun k => compare (2 ^ 32 * (if neg = true then -(m : Int) else m) * 2 ^ sh.toNat) (k * 2 ^ (-sh).toNat))
      (f.round rm u neg m e false).1 := by
  intro sh
  have rounds := Ieee.round_rounds hf pos (leads_exact.2 rfl : Leads m e false (m * 2 ^ e)) (by simp) rm hu neg
  have units : (m : ℝ) * 2 ^ e / f.unit = m * 2 ^ sh := by
    rw [mul_div_assoc, Ieee.unit, ← zpow_sub₀ two_ne_zero]
    congr 2
    omega
  rw [units] at rounds
  refine rounds.roundedTo hf hu (by positivity) ?_
  have signed : ((if neg = true then -(m : Int) else m : Int) : ℝ) = signFactor neg * m := by cases neg <;> simp
  have value : (2 : ℝ) ^ 32 * (signFactor neg * (m * 2 ^ sh)) =
      ((2 ^ 32 * (if neg = true then -(m : Int) else m) * 2 ^ sh.toNat : Int) : ℝ) / (2 ^ (-sh).toNat : Nat) := by
    rw [Int.cast_mul, Int.cast_mul, signed]
    push_cast
    rw [mul_div_assoc, two_pow_toNat_div]
    ring
  rw [ComparesUnits, value]
  have fraction := compares_fraction (n := 2 ^ 32 * (if neg = true then -(m : Int) else m) * 2 ^ sh.toNat) (Nat.two_pow_pos (-sh).toNat)
  push_cast at fraction ⊢
  exact fraction

end Sys2Proof.Machine
end

section
open Sys2Proof.Machine in
/-- Settles O15: a value's cell on the grid of codes decides its rounding, and the classes of the operands decide the special results. -/
theorem ieeeRounding : Obligations.IeeeRounding := by
  unfold Obligations.IeeeRounding
  intro f rm u standard hu
  have hf := Ieee.standard_of_mem standard
  refine ⟨fun neg m e pos => Ieee.round_roundedTo hf rm hu neg pos e, ?_, ?_⟩
  · intro x y z hx hy hz
    exact ⟨Ieee.addCode_isResult hf rm hu hx hy, Ieee.subCode_isResult hf rm hu hx hy, Ieee.mulCode_isResult hf rm hu hx hy,
      Ieee.fmaCode_isResult hf rm hu hx hy hz, Ieee.divCode_isResult hf rm hu hx hy, Ieee.sqrtCode_roundedTo hf rm hu hx,
      Ieee.addCode_zero_sum hf rm hx hy⟩
  · intro x y z hx hy hz
    have two : ∀ a b : Nat, (false || [a, b].any f.isSig) = (f.isSig a || f.isSig b) := fun a b => by simp
    have one (a : Nat) : (false || [a].any f.isSig) = f.isSig a := by simp
    have three (b : Bool) : (b || [x, y, z].any f.isSig) = (b || f.isSig x || f.isSig y || f.isSig z) := by simp [Bool.or_assoc]
    refine ⟨⟨Ieee.subCode_eq_addCode hf hy rm u, Ieee.fmaCode_eq_flip hf hx hz rm u⟩, ?_, ?_, ?_, ?_, ?_, ?_⟩
    · intro nan
      simp only [two]
      exact ⟨Ieee.addCode_nan hf hx hy rm u nan, Ieee.mulCode_nan hf hx hy rm u nan, Ieee.divCode_nan hf hx hy rm u nan,
        Ieee.eqCode_nan hf hx hy nan, fun e => Ieee.ltCode_nan hf hx hy e nan, fun g => Ieee.minMaxCode_nan hf hx hy g nan⟩
    · intro nan
      simp only [one]
      exact Ieee.sqrtCode_nan hf hx rm u nan
    · intro nan
      simp only [three]
      exact Ieee.fmaCode_nan hf hx hy hz rm u (by tauto)
    · intro nan
      exact ⟨Ieee.sqrtCode_zero hf hx rm u, Ieee.sqrtCode_neg hf hx rm u nan, Ieee.sqrtCode_inf hf hx rm u⟩
    · intro nx ny
      refine ⟨fun inf => ⟨Ieee.addCode_inf hf hx hy rm u nx ny inf, Ieee.mulCode_inf hf hx hy rm u nx ny inf⟩, Ieee.mulCode_zero hf hx hy rm u nx ny,
        Ieee.divCode_special hf hx hy rm u nx ny, Ieee.eqCode_numbers hf hx hy nx ny,
        Ieee.ltCode_numbers hf hx hy nx ny false, Ieee.ltCode_numbers hf hx hy nx ny true,
        Ieee.minMaxCode_numbers hf hx hy nx ny false, Ieee.minMaxCode_numbers hf hx hy nx ny true⟩
    · intro nx ny nz
      refine ⟨fun bad => ?_, Ieee.fmaCode_inf_product hf hx hy hz rm u nx ny nz, Ieee.fmaCode_inf_addend hf hx hy hz rm u nx ny,
        fun fx fy fz => Ieee.fmaCode_zero_sum hf rm fx fy fz⟩
      have fused := Ieee.fmaCode_nan hf hx hy hz rm u (.inr (.inr (.inr bad)))
      rw [show f.badProduct x y = true from bad] at fused
      exact fused
end

section
/-! SUPPORT. Tapered words as places of a bit string: a word's place is its regime's and, in equal steps, its exponent's and fraction's (R176). -/

namespace Sys2Proof.Machine

/-! ## Straight lines between integers -/

/-- The function that runs straight from a i to a (i + 1) between integers. -/
noncomputable def lines (a : Int → ℝ) (y : ℝ) : ℝ := a ⌊y⌋ + Int.fract y * (a (⌊y⌋ + 1) - a ⌊y⌋)

theorem lines_add (a : Int → ℝ) (i : Int) {r : ℝ} (low : 0 ≤ r) (high : r < 1) : lines a (i + r) = a i + r * (a (i + 1) - a i) := by
  have floor : ⌊(i : ℝ) + r⌋ = i := by
    rw [Int.floor_eq_iff]
    exact ⟨by linarith, by linarith⟩
  rw [lines, Int.fract, floor, add_sub_cancel_left]

theorem lines_strictMono {a : Int → ℝ} (h : ∀ i, a i < a (i + 1)) : StrictMono (lines a) := by
  intro x y less
  have mono : Monotone a := (strictMono_int_of_lt_succ h).monotone
  have gap (i : Int) : 0 < a (i + 1) - a i := sub_pos.2 (h i)
  rcases (Int.floor_mono less.le).eq_or_lt with same | apart
  · have fract : Int.fract x < Int.fract y := by
      rw [Int.fract, Int.fract, same]
      linarith
    rw [lines, lines, same]
    have := mul_lt_mul_of_pos_right fract (gap ⌊y⌋)
    linarith
  · have step := mono (show ⌊x⌋ + 1 ≤ ⌊y⌋ from apart)
    have below : Int.fract x * (a (⌊x⌋ + 1) - a ⌊x⌋) < 1 * (a (⌊x⌋ + 1) - a ⌊x⌋) := mul_lt_mul_of_pos_right (Int.fract_lt_one x) (gap _)
    have above : 0 ≤ Int.fract y * (a (⌊y⌋ + 1) - a ⌊y⌋) := mul_nonneg (Int.fract_nonneg y) (gap _).le
    rw [lines, lines]
    linarith

/-! ## Values and places by levels -/

/-- The number of a level: j + r stands for 2^j (1 + r). -/
noncomputable def numberAt (l : ℝ) : ℝ := lines (fun j => (2 : ℝ) ^ j) l

theorem numberAt_add (j : Int) {r : ℝ} (low : 0 ≤ r) (high : r < 1) : numberAt (j + r) = 2 ^ j * (1 + r) := by
  rw [numberAt, lines_add _ j low high, zpow_add_one₀ two_ne_zero]
  ring

theorem numberAt_strictMono : StrictMono numberAt := lines_strictMono fun i => zpow_lt_zpow_right₀ one_lt_two (lt_add_one i)

/-- A number between two powers of two has a level. -/
theorem numberAt_level {x : ℝ} {top : Int} (low : (2 : ℝ) ^ top ≤ x) (high : x < (2 : ℝ) ^ (top + 1)) :
    0 ≤ x / 2 ^ top - 1 ∧ x / 2 ^ top - 1 < 1 ∧ numberAt (top + (x / 2 ^ top - 1)) = x := by
  have pos : (0 : ℝ) < 2 ^ top := by positivity
  rw [zpow_add_one₀ two_ne_zero] at high
  have least : 0 ≤ x / 2 ^ top - 1 := by rw [sub_nonneg, le_div_iff₀ pos]; linarith
  have most : x / 2 ^ top - 1 < 1 := by rw [sub_lt_iff_lt_add, div_lt_iff₀ pos]; linarith
  refine ⟨least, most, ?_⟩
  rw [numberAt_add top least most]
  field_simp
  ring

/-- Where the regime of k begins among the bit strings after the sign, taken as binary fractions: 1…10 for k ≥ 0 and 0…01 below (R176). -/
noncomputable def regimeAt (k : Int) : ℝ := if 0 ≤ k then 1 - 2 ^ (-(k + 1)) else 2 ^ (k - 1)

/-- The room of the regime of k. -/
noncomputable def regimeRoom (k : Int) : ℝ := if 0 ≤ k then 2 ^ (-(k + 2)) else 2 ^ (k - 1)

theorem regimeRoom_pos (k : Int) : 0 < regimeRoom k := by
  unfold regimeRoom
  split <;> positivity

/-- Each regime ends where the next one begins. -/
theorem regimeAt_succ (k : Int) : regimeAt (k + 1) - regimeAt k = regimeRoom k := by
  unfold regimeAt regimeRoom
  rcases lt_trichotomy k (-1) with less | rfl | more
  · rw [if_neg (by omega), if_neg (by omega), if_neg (by omega), add_sub_cancel_right, sub_eq_iff_eq_add, ← two_mul, ← zpow_one_add₀ two_ne_zero]
    congr 1
    omega
  · norm_num
  · have half : (2 : ℝ) ^ (-(k + 1)) = 2 * 2 ^ (-(k + 2)) := by
      rw [← zpow_one_add₀ two_ne_zero]
      congr 1
      omega
    rw [if_pos (by omega), if_pos (by omega), if_pos (by omega), half, add_assoc, one_add_one_eq_two]
    ring

/-- The place of a level: exponent and fraction run evenly through the room of a regime. -/
noncomputable def placeAt (es : Nat) (l : ℝ) : ℝ := lines regimeAt (l / 2 ^ es)

theorem placeAt_strictMono (es : Nat) : StrictMono (placeAt es) := by
  intro x y less
  exact lines_strictMono (fun k => by have := regimeRoom_pos k; rw [← regimeAt_succ] at this; linarith) (div_lt_div_of_pos_right less (by positivity))

/-- The place of a regime, an exponent below 2^es and a fraction below 1. -/
theorem placeAt_add (es : Nat) (k : Int) {t : ℝ} (low : 0 ≤ t) (high : t < 2 ^ es) :
    placeAt es (2 ^ es * k + t) = regimeAt k + t / 2 ^ es * regimeRoom k := by
  have pos : (0 : ℝ) < 2 ^ es := by positivity
  have level : ((2 : ℝ) ^ es * k + t) / 2 ^ es = k + t / 2 ^ es := by field_simp
  rw [placeAt, level, lines_add _ k (by positivity) ((div_lt_one pos).2 high), regimeAt_succ]

/-- Levels, numbers and places are in one order. -/
theorem numberAt_lt_iff (es : Nat) (l l' : ℝ) : numberAt l < numberAt l' ↔ placeAt es l < placeAt es l' := by
  rw [numberAt_strictMono.lt_iff_lt, (placeAt_strictMono es).lt_iff_lt]

/-! ## Runs of bits -/

theorem bitAt_toNat (p i : Nat) : p % 2 ^ (i + 1) = (bitAt p i).toNat * 2 ^ i + p % 2 ^ i := by
  rw [bitAt, Nat.mod_pow_succ, Nat.toNat_testBit, Nat.add_comm, Nat.mul_comm]

theorem runOf_le (p : Nat) (b : Bool) (i : Nat) : runOf p b i ≤ i := by
  induction i with
  | zero => exact le_rfl
  | succ i ih =>
    unfold runOf
    split <;> omega

/-- A run of ones, and the zero that ends it. -/
theorem runOf_true (p i : Nat) : let m := runOf p true i
    2 ^ i ≤ p % 2 ^ i + 2 ^ (i - m) ∧ (m < i → p % 2 ^ i + 2 ^ (i - m - 1) < 2 ^ i) := by
  induction i with
  | zero => simp [runOf]
  | succ i ih =>
    have le := runOf_le p true i
    have double : 2 ^ (i + 1) = 2 ^ i + 2 ^ i := by rw [pow_succ, Nat.mul_two]
    have rest := Nat.mod_lt p (Nat.two_pow_pos i)
    rw [bitAt_toNat, runOf]
    cases bit : bitAt p i with
    | false =>
      simp
      omega
    | true =>
      obtain ⟨low, high⟩ := ih
      have deep : i + 1 - (1 + runOf p true i) = i - runOf p true i := by omega
      simp only [beq_self_eq_true, if_true, Bool.toNat_true, deep]
      exact ⟨by omega, fun less => by have := high (by omega); omega⟩

/-- A run of zeros, and the one that ends it. -/
theorem runOf_false (p i : Nat) : let m := runOf p false i
    p % 2 ^ i < 2 ^ (i - m) ∧ (m < i → 2 ^ (i - m - 1) ≤ p % 2 ^ i) := by
  induction i with
  | zero => simp [runOf, Nat.mod_one]
  | succ i ih =>
    have double : 2 ^ (i + 1) = 2 ^ i + 2 ^ i := by rw [pow_succ, Nat.mul_two]
    have rest := Nat.mod_lt p (Nat.two_pow_pos i)
    rw [bitAt_toNat, runOf]
    cases bit : bitAt p i with
    | true =>
      simp
      omega
    | false =>
      obtain ⟨low, high⟩ := ih
      have deep : i + 1 - (1 + runOf p false i) = i - runOf p false i := by omega
      simp only [beq_self_eq_true, if_true, Bool.toNat_false, Nat.zero_mul, Nat.zero_add, deep]
      exact ⟨low, fun less => high (by omega)⟩

end Sys2Proof.Machine
end

section
/-! SUPPORT. The fields of a tapered word give its place among the bit strings and its number (R175, R176). -/

namespace Sys2Proof.Machine

/-! ## The formats (R175) -/

/-- A tapered format whose numbers are whole in units of 2^−256, with room to spare. -/
structure Tap.Standard (f : Tap) : Prop where
  wide : 3 ≤ f.n
  small : (2 ^ f.es + 1) * f.n ≤ 200
  shallow : 2 ^ f.es + f.n ≤ 100

theorem Tap.standard_of_mem {f : Tap} (h : f ∈ [tap32, tap16, tap8]) : f.Standard ∧ (Tap.mk (f.n + 1) f.es).Standard := by
  simp only [List.mem_cons, List.not_mem_nil, or_false] at h
  rcases h with rfl | rfl | rfl
  · exact ⟨⟨by decide, by decide, by decide⟩, ⟨by decide, by decide, by decide⟩⟩
  · exact ⟨⟨by decide, by decide, by decide⟩, ⟨by decide, by decide, by decide⟩⟩
  · exact ⟨⟨by decide, by decide, by decide⟩, ⟨by decide, by decide, by decide⟩⟩

/-! ## The fields of a magnitude word -/

/-- The fields of a word from its sign and its magnitude: what `Tap.fields` says of a word other than 0 and NaR. -/
def Tap.body (f : Tap) (s : Bool) (p : Nat) : TapClass :=
  let b := bitAt p (f.n - 2)
  let m := runOf p b (f.n - 1)
  let k : Int := if b then (m : Int) - 1 else -(m : Int)
  let left := f.n - 2 - m
  let eb := min f.es left
  let e := bits p (left - 1) (left - eb) * 2 ^ (f.es - eb)
  let e := if eb = 0 then 0 else e
  let fb := left - f.es
  .real s m k e (p % 2 ^ fb) fb

theorem Tap.fields_eq (f : Tap) (p : Nat) : f.fields p =
    if p % 2 ^ f.n = 0 then .zero else if p % 2 ^ f.n = f.nar then .nar
    else f.body (bitAt (p % 2 ^ f.n) (f.n - 1)) (if bitAt (p % 2 ^ f.n) (f.n - 1) = true then 2 ^ f.n - p % 2 ^ f.n else p % 2 ^ f.n) := rfl

/-- What a magnitude word's fields are, by its place among the bit strings after the sign. -/
structure Tap.Parts (f : Tap) (p : Nat) (k : Int) (e fr fb : Nat) : Prop where
  regimeLow : -((f.n : Int) - 2) ≤ k
  expo : e < 2 ^ f.es
  fraction : fr < 2 ^ fb
  narrow : fb ≤ f.n
  place : (p : ℝ) / 2 ^ (f.n - 1) = regimeAt k + (e + fr / 2 ^ fb) / 2 ^ f.es * regimeRoom k

/-- The exponent and the fraction that the last `left` bits spell, the exponent's cut bits being zeros. -/
theorem tail_fields (p es left : Nat) :
    let eb := min es left
    let e := if eb = 0 then 0 else bits p (left - 1) (left - eb) * 2 ^ (es - eb)
    let fb := left - es
    e < 2 ^ es ∧ (e * 2 ^ fb + p % 2 ^ fb) * 2 ^ left = p % 2 ^ left * 2 ^ (es + fb) := by
  have rest := Nat.mod_lt p (Nat.two_pow_pos left)
  rcases Nat.eq_zero_or_pos (min es left) with none_ | some_
  · simp only [none_, if_true]
    rcases Nat.min_eq_zero_iff.1 none_ with rfl | rfl
    · simp
    · simp [Nat.mod_one]
  · have high : left - 1 - (left - min es left) + 1 = min es left := by omega
    simp only [some_.ne', if_false, bits, Nat.shiftRight_eq_div_pow, high]
    have top : p / 2 ^ (left - min es left) % 2 ^ min es left = p % 2 ^ left / 2 ^ (left - min es left) := by
      have cut : 2 ^ left = 2 ^ (left - min es left) * 2 ^ min es left := by
        rw [← pow_add]
        congr 1
        omega
      rw [cut, Nat.mod_mul_right_div_self]
    rw [top]
    rcases Nat.le_total es left with fits | cut
    · rw [Nat.min_eq_left fits, Nat.sub_self, pow_zero, Nat.mul_one]
      have divides : 2 ^ (left - es) ∣ 2 ^ left := Nat.pow_dvd_pow 2 (by omega)
      have whole : es + (left - es) = left := by omega
      rw [whole, ← Nat.mod_mod_of_dvd p divides, Nat.div_add_mod']
      refine ⟨?_, rfl⟩
      rw [Nat.div_lt_iff_lt_mul (Nat.two_pow_pos _), ← pow_add, whole]
      exact rest
    · rw [Nat.min_eq_right cut, Nat.sub_self, pow_zero, Nat.div_one, Nat.sub_eq_zero_of_le cut, pow_zero, Nat.mul_one, Nat.mod_one, Nat.add_zero,
        Nat.add_zero, Nat.mul_assoc, ← pow_add, Nat.sub_add_cancel cut]
      refine ⟨?_, rfl⟩
      calc p % 2 ^ left * 2 ^ (es - left) < 2 ^ left * 2 ^ (es - left) := Nat.mul_lt_mul_of_pos_right rest (Nat.two_pow_pos _)
        _ = 2 ^ es := by rw [← pow_add]; congr 1; omega

/-- The last bits as a share of their room. -/
theorem tail_share {e fb fr left es rest : Nat} (h : (e * 2 ^ fb + fr) * 2 ^ left = rest * 2 ^ (es + fb)) :
    ((e : ℝ) + fr / 2 ^ fb) / 2 ^ es = rest / 2 ^ left := by
  have real : ((e : ℝ) * 2 ^ fb + fr) * 2 ^ left = rest * (2 ^ es * 2 ^ fb) := by
    rw [← pow_add]
    exact_mod_cast h
  rw [div_eq_div_iff (by positivity) (by positivity), add_mul, div_mul_eq_mul_div]
  field_simp
  linarith

/-- The place of a word whose regime is a run of m ones among N bits. -/
theorem place_of_ones {N m p : Nat} (first : 1 ≤ m) (run : m ≤ N) (small : p < 2 ^ N) (low : 2 ^ N ≤ p + 2 ^ (N - m))
    (high : m < N → p + 2 ^ (N - m - 1) < 2 ^ N) :
    (p : ℝ) / 2 ^ N = regimeAt (m - 1) + ((p % 2 ^ (N - 1 - m) : Nat) : ℝ) / 2 ^ (N - 1 - m) * regimeRoom (m - 1) := by
  have start : regimeAt ((m : Int) - 1) = 1 - (2 : ℝ) ^ (N - m) / 2 ^ N := by
    rw [regimeAt, if_pos (by omega), ← zpow_natCast, ← zpow_natCast, ← zpow_sub₀ two_ne_zero]
    congr 2
    omega
  have room : regimeRoom ((m : Int) - 1) = (2 : ℝ) ^ (-((m : Int) + 1)) := by
    rw [regimeRoom, if_pos (by omega)]
    congr 1
    omega
  rw [start, room]
  rcases run.lt_or_eq with less | rfl
  · have left : N - 1 - m = N - m - 1 := by omega
    have double : 2 ^ (N - m) = 2 * 2 ^ (N - m - 1) := by rw [← pow_succ', Nat.sub_add_cancel (by omega)]
    have whole : 2 ^ (N - m - 1) ∣ 2 ^ N := Nat.pow_dvd_pow 2 (by omega)
    obtain ⟨r, tail⟩ := Nat.exists_eq_add_of_le low
    have rest : p % 2 ^ (N - m - 1) = r := by
      have below : r < 2 ^ (N - m - 1) := by
        have := high less
        omega
      obtain ⟨t, multiple⟩ := whole
      have shifted : (p + 2 * 2 ^ (N - m - 1)) % 2 ^ (N - m - 1) = r := by
        rw [← double, tail, multiple, Nat.mul_add_mod, Nat.mod_eq_of_lt below]
      rwa [Nat.add_mul_mod_self_right] at shifted
    have scale : (2 : ℝ) ^ N = 2 ^ (N - m - 1) * 2 ^ ((m : Int) + 1) := by
      rw [← zpow_natCast, ← zpow_natCast, ← zpow_add₀ two_ne_zero]
      congr 1
      omega
    have real : (p : ℝ) + 2 ^ (N - m) = 2 ^ N + r := by exact_mod_cast tail
    have share : (r : ℝ) / 2 ^ (N - m - 1) * (2 ^ ((m : Int) + 1))⁻¹ = r / 2 ^ N := by
      rw [scale, ← div_eq_mul_inv, div_div]
    rw [left, rest, zpow_neg, share, eq_sub_of_add_eq real]
    field_simp
    ring
  · have last : p + 1 = 2 ^ m := by
      rw [Nat.sub_self, pow_zero] at low
      omega
    have real : (p : ℝ) = 2 ^ m - 1 := by
      rw [eq_sub_iff_add_eq]
      exact_mod_cast last
    have none_ : m - 1 - m = 0 := by omega
    rw [none_, pow_zero, Nat.mod_one, Nat.sub_self, real]
    field_simp
    simp

/-- The place of a word whose regime is a run of m zeros among N bits. -/
theorem place_of_zeros {N m p : Nat} (first : 1 ≤ m) (run : m < N) (low : 2 ^ (N - m - 1) ≤ p) (high : p < 2 ^ (N - m)) :
    (p : ℝ) / 2 ^ N = regimeAt (-(m : Int)) + ((p % 2 ^ (N - 1 - m) : Nat) : ℝ) / 2 ^ (N - 1 - m) * regimeRoom (-(m : Int)) := by
  have start : regimeAt (-(m : Int)) = (2 : ℝ) ^ (-((m : Int) + 1)) := by
    rw [regimeAt, if_neg (by omega)]
    congr 1
    omega
  have room : regimeRoom (-(m : Int)) = (2 : ℝ) ^ (-((m : Int) + 1)) := by
    rw [regimeRoom, if_neg (by omega)]
    congr 1
    omega
  have left : N - 1 - m = N - m - 1 := by omega
  have double : 2 ^ (N - m) = 2 * 2 ^ (N - m - 1) := by rw [← pow_succ', Nat.sub_add_cancel (by omega)]
  have rest : p % 2 ^ (N - m - 1) = p - 2 ^ (N - m - 1) := by
    rw [Nat.mod_eq_sub_mod low, Nat.mod_eq_of_lt (by omega)]
  have scale : (2 : ℝ) ^ N = 2 ^ (N - m - 1) * 2 ^ ((m : Int) + 1) := by
    rw [← zpow_natCast, ← zpow_natCast, ← zpow_add₀ two_ne_zero]
    congr 1
    omega
  rw [start, room, left, rest, Nat.cast_sub low, zpow_neg, scale]
  push_cast
  field_simp
  ring

section
variable {f : Tap} (hf : f.Standard) {p : Nat} (pos : 0 < p) (small : p < 2 ^ (f.n - 1))
include hf pos small

/-- A magnitude word's fields, by the run that its regime is. -/
theorem Tap.body_parts : ∃ m k e fr fb, (∀ s, f.body s p = .real s m k e fr fb) ∧ f.Parts p k e fr fb := by
  have wide := hf.wide
  obtain ⟨expo, tail⟩ := tail_fields p f.es (f.n - 2 - runOf p (bitAt p (f.n - 2)) (f.n - 1))
  have share := tail_share tail
  refine ⟨_, _, _, _, _, fun _ => rfl, ?_⟩
  have run := runOf_le p (bitAt p (f.n - 2)) (f.n - 1)
  have first : 1 ≤ runOf p (bitAt p (f.n - 2)) (f.n - 1) := by
    have succ : f.n - 1 = f.n - 2 + 1 := by omega
    rw [succ, runOf, if_pos BEq.rfl]
    omega
  cases bit : bitAt p (f.n - 2) with
  | true =>
    obtain ⟨low, high⟩ := runOf_true p (f.n - 1)
    rw [bit] at share expo run first
    rw [Nat.mod_eq_of_lt small] at low high
    generalize runOf p true (f.n - 1) = m at *
    refine ⟨by simp only [if_true]; omega, expo, Nat.mod_lt _ (Nat.two_pow_pos _), by omega, ?_⟩
    rw [share]
    exact place_of_ones first run small low high
  | false =>
    obtain ⟨high, low⟩ := runOf_false p (f.n - 1)
    rw [bit] at share expo run first
    rw [Nat.mod_eq_of_lt small] at low high
    generalize runOf p false (f.n - 1) = m at *
    have ends : m < f.n - 1 := by
      refine lt_of_le_of_ne run fun last => ?_
      rw [last, Nat.sub_self, pow_zero] at high
      omega
    refine ⟨by simp only [Bool.false_eq_true, if_false]; omega, expo, Nat.mod_lt _ (Nat.two_pow_pos _), by omega, ?_⟩
    rw [share]
    exact place_of_zeros first ends (low ends) high

end

end Sys2Proof.Machine
end

section
/-! SUPPORT. The number of a tapered word, and its order with other numbers by their places (R176, R178). -/

namespace Sys2Proof.Machine

/-! ## Signs -/

/-- The magnitude of a word (R176). -/
def Tap.magnitude (f : Tap) (p : Nat) : Nat := if 2 ^ (f.n - 1) ≤ p then 2 ^ f.n - p else p

/-- The number of a word in units of 2^−256. -/
def Tap.value (f : Tap) (p : Nat) : Int := if 2 ^ (f.n - 1) ≤ p then -(f.units p : Int) else f.units p

section
variable {f : Tap} (hf : f.Standard) {p : Nat}
include hf

theorem Tap.two_pow_n : 2 ^ f.n = 2 ^ (f.n - 1) + 2 ^ (f.n - 1) := by
  have := hf.wide
  rw [← Nat.two_mul, ← pow_succ', Nat.sub_add_cancel (by omega)]

/-- The fields of a word other than 0 and NaR are those of its magnitude. -/
theorem Tap.fields_real (hp : p < 2 ^ f.n) (ne : p ≠ 0) (real : p ≠ f.nar) :
    f.fields p = f.body (decide (2 ^ (f.n - 1) ≤ p)) (f.magnitude p) ∧ 0 < f.magnitude p ∧ f.magnitude p < 2 ^ (f.n - 1) := by
  have double := Tap.two_pow_n hf
  have apart : p ≠ 2 ^ (f.n - 1) := real
  have sign : bitAt p (f.n - 1) = decide (2 ^ (f.n - 1) ≤ p) := by
    rw [bitAt, Nat.testBit_eq_decide_div_mod_eq, decide_eq_decide]
    by_cases neg : 2 ^ (f.n - 1) ≤ p
    · have one : p / 2 ^ (f.n - 1) = 1 := Nat.div_eq_of_lt_le (by omega) (by omega)
      simp [one, neg]
    · have zero : p / 2 ^ (f.n - 1) = 0 := Nat.div_eq_of_lt (by omega)
      simp [zero, neg]
  rw [Tap.fields_eq, Nat.mod_eq_of_lt hp, if_neg ne, if_neg real, sign]
  refine ⟨?_, ?_, ?_⟩
  · simp only [decide_eq_true_iff, Tap.magnitude]
  · unfold Tap.magnitude
    split <;> omega
  · unfold Tap.magnitude
    split <;> omega

theorem Tap.fields_magnitude (pos : 0 < p) (small : p < 2 ^ (f.n - 1)) : f.fields p = f.body false p := by
  have double := Tap.two_pow_n hf
  have fields := (Tap.fields_real hf (p := p) (by omega) pos.ne' (by rw [Tap.nar]; omega)).1
  rwa [decide_eq_false small.not_ge, Tap.magnitude, if_neg small.not_ge] at fields

/-! ## Words and numbers -/

/-- A magnitude word stands for m·2^e, at a level whose place is the word's own. -/
structure Tap.WordAt (f : Tap) (p m : Nat) (e : Int) (l : ℝ) : Prop where
  place : placeAt f.es l = p / 2 ^ (f.n - 1)
  number : numberAt l = m * 2 ^ e
  units : f.units p = m * 2 ^ (e + 256).toNat
  whole : -256 ≤ e
  deep : l < e + f.n + 1
  pos : 0 < m

theorem Tap.Parts.wordAt {k : Int} {e fr fb : Nat} (h : f.Parts p k e fr fb) (units : f.units p = (2 ^ fb + fr) * 2 ^ (2 ^ f.es * k + e - fb + 256 : Int).toNat) :
    f.WordAt p (2 ^ fb + fr) (2 ^ f.es * k + e - fb) ((2 : ℝ) ^ f.es * k + (e + fr / 2 ^ fb)) := by
  have pos : (0 : ℝ) < 2 ^ fb := by positivity
  have share : (fr : ℝ) / 2 ^ fb < 1 := by
    rw [div_lt_one pos]
    exact_mod_cast h.fraction
  have nonneg : 0 ≤ (fr : ℝ) / 2 ^ fb := by positivity
  have level : (2 : ℝ) ^ f.es * k + (e + fr / 2 ^ fb) = ((2 ^ f.es * k + e : Int) : ℝ) + fr / 2 ^ fb := by
    push_cast
    ring
  have narrow := h.narrow
  refine ⟨?_, ?_, units, ?_, ?_, Nat.add_pos_left (Nat.two_pow_pos fb) _⟩
  · have expo : (e : ℝ) + 1 ≤ 2 ^ f.es := by exact_mod_cast h.expo
    rw [placeAt_add f.es k (by positivity) (by linarith), h.place]
  · rw [level, numberAt_add _ nonneg share, zpow_sub₀ two_ne_zero, zpow_natCast]
    push_cast
    field_simp
  · have small := hf.small
    have low := h.regimeLow
    have step : (2 : Int) ^ f.es * -((f.n : Int) - 2) ≤ 2 ^ f.es * k := mul_le_mul_of_nonneg_left low (by positivity)
    have room : ((2 : Int) ^ f.es + 1) * f.n ≤ 200 := by exact_mod_cast small
    have pow : (0 : Int) < 2 ^ f.es := by positivity
    nlinarith
  · have narrow : (fb : ℝ) ≤ f.n := by exact_mod_cast narrow
    push_cast
    linarith

/-- Every magnitude word has its number, and `Tap.mag` gives it. -/
theorem Tap.exists_wordAt (pos : 0 < p) (small : p < 2 ^ (f.n - 1)) : ∃ m e l, f.mag p = (m, e) ∧ f.WordAt p m e l := by
  obtain ⟨m, k, e, fr, fb, body, parts⟩ := Tap.body_parts hf pos small
  have fields := (Tap.fields_magnitude hf pos small).trans (body false)
  refine ⟨_, _, _, ?_, parts.wordAt hf ?_⟩
  · simp only [Tap.mag, Tap.decode, fields]
  · simp only [Tap.units, fields]

end

section
variable {f : Tap} {p m : Nat} {e : Int} {l : ℝ} (h : f.WordAt p m e l)
include h

theorem Tap.WordAt.number_units : numberAt l = f.units p / 2 ^ 256 := by
  have whole : ((e + 256).toNat : Int) = e + 256 := Int.toNat_of_nonneg (by have := h.whole; omega)
  have scale : (2 : ℝ) ^ e = 2 ^ (e + 256).toNat / 2 ^ 256 := by
    rw [← zpow_natCast, whole, ← zpow_natCast, ← zpow_sub₀ two_ne_zero]
    congr 1
    simp
  rw [h.number, h.units, scale]
  push_cast
  ring

/-- A word lies above the numbers whose places lie below its own. -/
theorem Tap.WordAt.lt_iff (l' : ℝ) : numberAt l' < f.units p / 2 ^ 256 ↔ placeAt f.es l' * 2 ^ (f.n - 1) < p := by
  rw [← h.number_units, numberAt_lt_iff f.es, h.place, lt_div_iff₀ (by positivity)]

theorem Tap.WordAt.gt_iff (l' : ℝ) : f.units p / 2 ^ 256 < numberAt l' ↔ p < placeAt f.es l' * 2 ^ (f.n - 1) := by
  rw [← h.number_units, numberAt_lt_iff f.es, h.place, div_lt_iff₀ (by positivity)]

end

/-! ## Decoding (R176) -/

section
variable {f : Tap} (hf : f.Standard) {p : Nat} (hp : p < 2 ^ f.n)
include hf hp

theorem Tap.units_magnitude (real : p ≠ f.nar) : f.units p = f.units (f.magnitude p) := by
  rcases Nat.eq_zero_or_pos p with rfl | pos
  · rw [Tap.magnitude, if_neg (Nat.not_le.2 (Nat.two_pow_pos _))]
  · obtain ⟨fields, mpos, small⟩ := Tap.fields_real hf hp pos.ne' real
    obtain ⟨m, k, e, fr, fb, body, -⟩ := Tap.body_parts hf mpos small
    have whole := Tap.fields_magnitude hf mpos small
    simp only [Tap.units, fields, whole, body]

/-- A real word holds its number. -/
theorem Tap.decode_holds (real : p ≠ f.nar) : (decodeVal (.tap f) false p).holds (f.value p / 2 ^ 256) := by
  show (f.decode p).holds _
  rcases Nat.eq_zero_or_pos p with rfl | pos
  · have zero : f.fields 0 = .zero := by rw [Tap.fields_eq, Nat.zero_mod, if_pos rfl]
    have none_ : f.value 0 = 0 := by
      rw [Tap.value, if_neg (Nat.not_le.2 (Nat.two_pow_pos _)), Tap.units, zero]
      rfl
    simp [Tap.decode, zero, Val.holds, none_]
  · obtain ⟨fields, mpos, small⟩ := Tap.fields_real hf hp pos.ne' real
    obtain ⟨m, k, e, fr, fb, body, parts⟩ := Tap.body_parts hf mpos small
    have whole := Tap.fields_magnitude hf mpos small
    have word := parts.wordAt hf (by simp only [Tap.units, whole, body])
    have units : (f.value p : ℝ) = signFactor (decide (2 ^ (f.n - 1) ≤ p)) * f.units (f.magnitude p) := by
      rw [Tap.value, Tap.units_magnitude hf hp real]
      by_cases neg : 2 ^ (f.n - 1) ≤ p <;> simp [neg]
    rw [Tap.decode, fields, body]
    refine ⟨rfl, word.pos, ?_⟩
    rw [units, mul_div_assoc, ← word.number_units, word.number]

omit hp in
/-- A magnitude with a sign has the signed number. -/
theorem Tap.value_signed {q : Nat} (pos : 0 < q) (small : q < 2 ^ (f.n - 1)) (neg : Bool) :
    (f.value (f.signed neg q) : ℝ) = signFactor neg * f.units q := by
  have double := Tap.two_pow_n hf
  cases neg with
  | false => simp [Tap.value, Tap.signed, small]
  | true =>
    have upper : 2 ^ (f.n - 1) ≤ 2 ^ f.n - q := by omega
    have back : f.magnitude (2 ^ f.n - q) = q := by
      rw [Tap.magnitude, if_pos upper]
      omega
    have units := Tap.units_magnitude hf (p := 2 ^ f.n - q) (by omega) (by rw [Tap.nar]; omega)
    rw [Tap.signed, if_pos rfl, Tap.value, if_pos upper, units, back]
    simp

end

end Sys2Proof.Machine
end

section
/-! SUPPORT. `Tap.round` finds the place of an exact value on the bit string and rounds there (R177, R179, R195). -/

namespace Sys2Proof.Machine

/-! ## The pattern of a value (R177) -/

/-- The bits of the pattern that `Tap.round` forms: regime, exponent and n + 8 bits of the fraction, and whether anything was cut. -/
def Tap.pattern (f : Tap) (m : Nat) (e : Int) (more : Bool) : Nat × Bool :=
  let top : Int := e + Nat.log2 m
  let w := f.n + 8
  let ex := (top % 2 ^ f.es).toNat
  let (fr, cut) := floorAt m e more (top - w)
  (((regimeOf (top / 2 ^ f.es)).1 * 2 ^ f.es + ex) * 2 ^ w + (fr - 2 ^ w), cut)

/-- How many bits of the pattern lie below the last bit of a word, less the next bit. -/
def Tap.below (f : Tap) (m : Nat) (e : Int) : Nat := (regimeOf ((e + Nat.log2 m) / 2 ^ f.es)).2 + f.es + 8

/-- Whether `Tap.round` lets a magnitude word go up. -/
def Tap.up (f : Tap) (rm : Rm) (u : Nat) (neg : Bool) (m : Nat) (e : Int) (more : Bool) (q : Nat) (half rest : Bool) : Bool :=
  if rm == Rm.sr then (half || rest) && srUp neg u (f.srBound q m e more).1 (f.srBound q m e more).2 else goesUp rm neg (q % 2 == 1) half rest

/-- The word of a pattern and its rounding, with sh bits cut. -/
def Tap.cutWord (f : Tap) (rm : Rm) (u : Nat) (neg : Bool) (m : Nat) (e : Int) (more : Bool) (q : Nat) (half rest : Bool) : Nat × Flg :=
  (f.signed neg (q + (f.up rm u neg m e more q half rest).toNat), flagIf (half || rest) fNX)

theorem bitAt_eq (p i : Nat) : bitAt p i = (p / 2 ^ i % 2 == 1) := by
  rw [bitAt, Nat.testBit_eq_decide_div_mod_eq]
  rfl

/-- `Tap.round` saturates or cuts the pattern (R177). -/
theorem Tap.round_eq (f : Tap) (rm : Rm) (u : Nat) (neg : Bool) (m : Nat) (e : Int) (more : Bool) :
    let max : Int := ((f.n : Int) - 2) * 2 ^ f.es
    let top : Int := e + Nat.log2 m
    let pat := f.pattern m e more
    let n := pat.1 / 2 ^ f.below m e
    f.round rm u neg m e more =
      if (decide (max < top) || (top == max && (more || m != 2 ^ Nat.log2 m))) = true then (f.signed neg (f.nar - 1), fOF ||| fNX)
      else if top < -max then (f.signed neg 1, fUF ||| fNX)
      else f.cutWord rm u neg m e more (n / 2) (n % 2 == 1) (pat.2 || pat.1 % 2 ^ f.below m e != 0) := by
  intro max top pat n
  have raw : f.round rm u neg m e more =
      let sh := 1 + (regimeOf (top / 2 ^ f.es)).2 + f.es + (f.n + 8) - f.n
      if (decide (max < top) || (top == max && (more || m != 2 ^ Nat.log2 m))) = true then (f.signed neg (f.nar - 1), fOF ||| fNX)
      else if top < -max then (f.signed neg 1, fUF ||| fNX)
      else f.cutWord rm u neg m e more (pat.1 >>> sh) (bitAt pat.1 (sh - 1)) (pat.2 || pat.1 % 2 ^ (sh - 1) != 0) := rfl
  have shift : 1 + (regimeOf (top / 2 ^ f.es)).2 + f.es + (f.n + 8) - f.n = f.below m e + 1 := by
    show _ = (regimeOf (top / 2 ^ f.es)).2 + f.es + 8 + 1
    omega
  have word : pat.1 >>> (f.below m e + 1) = n / 2 := by
    rw [Nat.shiftRight_eq_div_pow, pow_succ, ← Nat.div_div_eq_div_mul]
  rw [raw, shift]
  dsimp only
  rw [word, Nat.add_sub_cancel, bitAt_eq]

end Sys2Proof.Machine
end

section
/-! SUPPORT. The pattern of a value is its place on the bit string, and a cut of it is the word below the value (R177, R195). -/

namespace Sys2Proof.Machine

/-! ## Regimes as bits -/

/-- The bits of a regime are its place, and their number says its room. -/
theorem regimeOf_place (k : Int) : regimeAt k * 2 ^ (regimeOf k).2 = (regimeOf k).1 ∧ regimeRoom k * 2 ^ (regimeOf k).2 = 1 := by
  unfold regimeAt regimeRoom regimeOf
  split
  next pos =>
    have two : 2 ≤ 2 ^ (k.toNat + 2) := (Nat.pow_le_pow_right (by decide) (by omega) : 2 ^ 1 ≤ 2 ^ (k.toNat + 2))
    have start : (2 : ℝ) ^ (-(k + 1)) * 2 ^ (k.toNat + 2) = 2 := by
      rw [← zpow_natCast, ← zpow_add₀ two_ne_zero]
      conv_rhs => rw [← zpow_one (2 : ℝ)]
      congr 1
      omega
    have room : (2 : ℝ) ^ (-(k + 2)) * 2 ^ (k.toNat + 2) = 1 := by
      rw [← zpow_natCast, ← zpow_add₀ two_ne_zero, ← zpow_zero (2 : ℝ)]
      congr 1
      omega
    refine ⟨?_, room⟩
    dsimp only
    rw [Nat.cast_sub two, sub_mul, start]
    push_cast
    ring
  next neg =>
    have room : (2 : ℝ) ^ (k - 1) * 2 ^ ((-k).toNat + 1) = 1 := by
      rw [← zpow_natCast, ← zpow_add₀ two_ne_zero, ← zpow_zero (2 : ℝ)]
      congr 1
      omega
    exact ⟨by rw [room, Nat.cast_one], room⟩

/-- A regime begins at a word. -/
theorem regimeAt_word {n : Nat} (wide : 3 ≤ n) {k : Int} (low : -((n : Int) - 2) ≤ k) (high : k ≤ (n : Int) - 2) :
    ∃ c : Nat, regimeAt k * 2 ^ (n - 1) = c := by
  unfold regimeAt
  split
  next pos =>
    obtain ⟨j, rfl⟩ := Int.eq_ofNat_of_zero_le pos
    have le : 2 ^ (n - 2 - j) ≤ 2 ^ (n - 1) := Nat.pow_le_pow_right (by decide) (by omega)
    refine ⟨2 ^ (n - 1) - 2 ^ (n - 2 - j), ?_⟩
    have cut : (2 : ℝ) ^ (-((j : Int) + 1)) * 2 ^ (n - 1) = 2 ^ (n - 2 - j) := by
      rw [← zpow_natCast, ← zpow_natCast, ← zpow_add₀ two_ne_zero]
      congr 1
      omega
    rw [Nat.cast_sub le, sub_mul, cut]
    push_cast
    ring
  next neg =>
    refine ⟨2 ^ ((n : Int) - 2 + k).toNat, ?_⟩
    rw [Nat.cast_pow, Nat.cast_ofNat, ← zpow_natCast, ← zpow_natCast, ← zpow_add₀ two_ne_zero]
    congr 1
    omega

/-! ## The greatest and the least word -/

section
variable {f : Tap} (hf : f.Standard)
include hf

theorem Tap.nar_pos : 2 < f.nar := by
  have wide := hf.wide
  calc 2 < 2 ^ 2 := by decide
    _ ≤ f.nar := Nat.pow_le_pow_right (by decide) (by omega)

/-- The greatest exponent. -/
def Tap.maxExp (f : Tap) : Int := ((f.n : Int) - 2) * 2 ^ f.es

/-- A word at the place of a regime has the regime's number. -/
theorem Tap.units_of_place {p : Nat} (pos : 0 < p) (small : p < f.nar) (k : Int) (place : (p : ℝ) / 2 ^ (f.n - 1) = regimeAt k) :
    (f.units p : ℝ) / 2 ^ 256 = 2 ^ (2 ^ f.es * k : Int) := by
  obtain ⟨m, e, l, -, word⟩ := Tap.exists_wordAt hf pos small
  have start := placeAt_add f.es k (t := 0) le_rfl (by positivity)
  rw [zero_div, zero_mul, add_zero, add_zero] at start
  have level : l = 2 ^ f.es * k := (placeAt_strictMono f.es).injective (word.place.trans (place.trans start.symm))
  have number := numberAt_add (2 ^ f.es * k : Int) le_rfl one_pos
  rw [add_zero, add_zero, mul_one] at number
  rw [← word.number_units, level, ← number]
  push_cast
  rfl

theorem Tap.units_max : (f.units (f.nar - 1) : ℝ) / 2 ^ 256 = 2 ^ f.maxExp := by
  have wide := hf.wide
  have nar := Tap.nar_pos hf
  rw [Tap.units_of_place hf (by omega) (by omega) ((f.n : Int) - 2), Tap.maxExp, mul_comm]
  rw [regimeAt, if_pos (by omega), Nat.cast_sub (by omega), Tap.nar, sub_div, Nat.cast_pow, Nat.cast_ofNat, div_self (by positivity), Nat.cast_one,
    one_div, ← zpow_natCast, ← zpow_neg]
  congr 2
  omega

theorem Tap.units_min : (f.units 1 : ℝ) / 2 ^ 256 = 2 ^ (-f.maxExp) := by
  have wide := hf.wide
  have nar := Tap.nar_pos hf
  rw [Tap.units_of_place hf one_pos (by omega) (-((f.n : Int) - 2)), Tap.maxExp, mul_neg, mul_comm]
  rw [regimeAt, if_neg (by omega), Nat.cast_one, one_div, ← zpow_natCast, ← zpow_neg]
  congr 1
  omega

end

/-! ## The pattern -/

/-- The level of a value, and its place by regime, exponent and fraction. -/
theorem Tap.level_of_leads (f : Tap) {m : Nat} {e : Int} {more : Bool} {x : ℝ} (pos : 0 < m) (h : Leads m e more x) : let top : Int := e + Nat.log2 m
    ∃ l : ℝ, numberAt l = x ∧ ((2 : ℝ) ^ f.es * (top / 2 ^ f.es : Int) ≤ l ∧ l < top + 1 ∧ (top : ℝ) ≤ l) ∧
      placeAt f.es l = regimeAt (top / 2 ^ f.es) + ((top % 2 ^ f.es).toNat + (x / 2 ^ top - 1)) / 2 ^ f.es * regimeRoom (top / 2 ^ f.es) := by
  intro top
  obtain ⟨low, high, number⟩ := numberAt_level (h.two_pow_le pos) h.lt_two_pow
  have step : (0 : Int) < 2 ^ f.es := by positivity
  have nonneg := Int.emod_nonneg top step.ne'
  have less := Int.emod_lt_of_pos top step
  have whole : ((top % 2 ^ f.es).toNat : Int) = top % 2 ^ f.es := Int.toNat_of_nonneg nonneg
  have split : (top : ℝ) = 2 ^ f.es * (top / 2 ^ f.es : Int) + (top % 2 ^ f.es).toNat := by
    have parts := (Int.mul_ediv_add_emod top (2 ^ f.es)).symm
    rw [← whole] at parts
    exact_mod_cast parts
  have expo : ((top % 2 ^ f.es).toNat : ℝ) + 1 ≤ 2 ^ f.es := by
    have : (top % 2 ^ f.es).toNat + 1 ≤ 2 ^ f.es := by
      have : ((top % 2 ^ f.es).toNat : Int) + 1 ≤ (2 ^ f.es : Nat) := by push_cast; omega
      exact_mod_cast this
    exact_mod_cast this
  have low' : 0 ≤ x / (2 : ℝ) ^ top - 1 := low
  have high' : x / (2 : ℝ) ^ top - 1 < 1 := high
  have none_ : (0 : ℝ) ≤ (top % 2 ^ f.es).toNat := Nat.cast_nonneg _
  refine ⟨top + (x / 2 ^ top - 1), number, ⟨by linarith, by linarith, by linarith⟩, ?_⟩
  rw [← placeAt_add f.es (top / 2 ^ f.es) (by linarith) (by linarith)]
  congr 1
  linarith

section
variable {f : Tap} (hf : f.Standard) {m : Nat} {e : Int} {more : Bool} {x : ℝ} (pos : 0 < m) (h : Leads m e more x)
  (deep : more = true → 150 ≤ Nat.log2 m)
include hf pos h

include deep in
/-- The pattern has the bits of a value's place (R177). -/
theorem Tap.pattern_leads {l : ℝ} (place : placeAt f.es l = regimeAt ((e + Nat.log2 m) / 2 ^ f.es) +
      (((e + Nat.log2 m) % 2 ^ f.es).toNat + (x / 2 ^ (e + Nat.log2 m) - 1)) / 2 ^ f.es * regimeRoom ((e + Nat.log2 m) / 2 ^ f.es)) :
    Leads (f.pattern m e more).1 0 (f.pattern m e more).2 (2 ^ f.below m e * (2 * (placeAt f.es l * 2 ^ (f.n - 1)))) := by
  have wide := hf.wide
  have shallow := hf.shallow
  have step := Nat.two_pow_pos f.es
  obtain ⟨bits, room⟩ := regimeOf_place ((e + Nat.log2 m) / 2 ^ f.es)
  have fraction := leads_units.1 (floorAt_leads h (k := e + Nat.log2 m - (f.n + 8 : Nat)) fun more => by have := deep more; omega)
  have scale : (2 : ℝ) ^ f.below m e * (2 * (placeAt f.es l * 2 ^ (f.n - 1))) =
      (((regimeOf ((e + Nat.log2 m) / 2 ^ f.es)).1 * 2 ^ f.es + ((e + Nat.log2 m) % 2 ^ f.es).toNat : Nat) : ℝ) * 2 ^ (f.n + 8) +
        (x / 2 ^ (e + Nat.log2 m - (f.n + 8 : Nat)) - 2 ^ (f.n + 8)) := by
    have double : (2 : ℝ) ^ (f.n + 8) = 2 ^ 8 * (2 * 2 ^ (f.n - 1)) := by
      rw [← pow_succ', ← pow_add]
      congr 1
      omega
    have unit : x / (2 : ℝ) ^ (e + Nat.log2 m - (f.n + 8 : Nat)) = x / 2 ^ (e + Nat.log2 m) * 2 ^ (f.n + 8) := by
      rw [zpow_sub₀ two_ne_zero, zpow_natCast, div_div_eq_mul_div, mul_div_right_comm]
    have cancel := div_mul_cancel₀ (((e + Nat.log2 m) % 2 ^ f.es).toNat + (x / 2 ^ (e + Nat.log2 m) - 1)) (pow_ne_zero f.es (two_ne_zero (α := ℝ)))
    rw [unit, double, place, Tap.below, pow_add, pow_add]
    push_cast
    rw [← bits]
    generalize (((e + Nat.log2 m) % 2 ^ f.es).toNat + (x / (2 : ℝ) ^ (e + Nat.log2 m) - 1)) / 2 ^ f.es = s at *
    linear_combination (2 ^ 8 * (2 * 2 ^ (f.n - 1)) * s * 2 ^ f.es : ℝ) * room + (2 ^ 8 * (2 * 2 ^ (f.n - 1)) : ℝ) * cancel
  have least : 2 ^ (f.n + 8) ≤ (floorAt m e more (e + Nat.log2 m - (f.n + 8 : Nat))).1 := by
    have low := (le_div_two_zpow (h.two_pow_le pos) (k := e + Nat.log2 m - (f.n + 8 : Nat)) (n := f.n + 8) (by omega)).trans_lt
      (leads_zero_iff.1 fraction).2.1
    exact Nat.le_of_lt_succ (by exact_mod_cast low)
  rw [scale]
  simpa only [Tap.pattern, Nat.cast_mul, Nat.cast_pow, Nat.cast_ofNat] using
    fraction.add_sub (((regimeOf ((e + Nat.log2 m) / 2 ^ f.es)).1 * 2 ^ f.es + ((e + Nat.log2 m) % 2 ^ f.es).toNat) * 2 ^ (f.n + 8)) least

end

end Sys2Proof.Machine
end

section
/-! SUPPORT. One rounding into a tapered format: saturation, the word below the value, and whether it goes up (R177, R179, R195). -/

namespace Sys2Proof.Machine

/-! ## The share of a gap (R195) -/

theorem Tap.srBound_eq {f : Tap} {q a b : Nat} {ea eb : Int} (magA : f.mag q = (a, ea)) (magB : f.mag (q + 1) = (b, eb)) (m : Nat) (e : Int) (more : Bool) :
    let g := min (min ea eb) e
    let lo := a <<< (ea - g).toNat
    let gap := b <<< (eb - g).toNat - lo
    let x := (m <<< (e - g).toNat - lo) * 2 ^ 32
    f.srBound q m e more = (x / gap, more || x % gap != 0) := by
  simp only [Tap.srBound, magA, magB]

/-- `srBound` has the bits of 2^32 times a value's share of the gap between two words. -/
theorem Tap.srBound_leads {f : Tap} {q a b m : Nat} {ea eb e : Int} {more : Bool} {x : ℝ} (magA : f.mag q = (a, ea)) (magB : f.mag (q + 1) = (b, eb))
    (h : Leads m e more x) (low : a * (2 : ℝ) ^ ea ≤ x) (gap : a * (2 : ℝ) ^ ea < b * (2 : ℝ) ^ eb)
    (deep : more = true → e + 32 ≤ ea ∧ e + 32 ≤ eb) :
    Leads (f.srBound q m e more).1 0 (f.srBound q m e more).2 (2 ^ 32 * ((x - a * (2 : ℝ) ^ ea) / (b * (2 : ℝ) ^ eb - a * (2 : ℝ) ^ ea))) := by
  obtain ⟨g, g_⟩ : ∃ g, min (min ea eb) e = g := ⟨_, rfl⟩
  have bound := Tap.srBound_eq magA magB m e more
  dsimp only at bound
  rw [g_] at bound
  have pow : (0 : ℝ) < 2 ^ g := by positivity
  have lo := shift_mul_zpow a (show g ≤ ea by omega)
  have hi := shift_mul_zpow b (show g ≤ eb by omega)
  have bits : Leads (m <<< (e - g).toNat) 0 more (x / 2 ^ g) := by
    have fine := floorAt_leads h (k := g) fun m_ => by have := deep m_; omega
    rw [floorAt, if_pos (by omega)] at fine
    exact leads_units.1 fine
  have whole : more = true → 2 ^ 32 ∣ b <<< (eb - g).toNat - a <<< (ea - g).toNat := by
    intro m_
    obtain ⟨da, db⟩ := deep m_
    rw [Nat.shiftLeft_eq, Nat.shiftLeft_eq]
    exact Nat.dvd_sub ((Nat.pow_dvd_pow 2 (by omega)).mul_left b) ((Nat.pow_dvd_pow 2 (by omega)).mul_left a)
  rw [bound, ← lo, ← hi]
  rw [← lo] at low gap
  rw [← hi] at gap
  generalize a <<< (ea - g).toNat = l at *
  generalize b <<< (eb - g).toNat = r at *
  generalize m <<< (e - g).toNat = n at *
  have below : l ≤ n := by
    have := (le_div_iff₀ pow).2 low
    have := this.trans_lt (leads_zero_iff.1 bits).2.1
    exact Nat.le_of_lt_succ (by exact_mod_cast this)
  have less : l < r := by exact_mod_cast lt_of_mul_lt_mul_right gap pow.le
  have above := bits.add_sub 0 below
  rw [Nat.zero_add, Nat.cast_zero, zero_add] at above
  have value : (2 : ℝ) ^ 32 * ((x - l * 2 ^ g) / (r * 2 ^ g - l * 2 ^ g)) = 2 ^ 32 * (x / 2 ^ g - l) / (r - l : Nat) := by
    have scaled : x - l * (2 : ℝ) ^ g = (x / 2 ^ g - l) * 2 ^ g := by field_simp
    rw [Nat.cast_sub less.le, ← sub_mul, scaled, mul_div_mul_right _ _ pow.ne', mul_div_assoc]
  rw [value]
  cases more with
  | false =>
    have exact_ : Leads ((n - l) * 2 ^ 32) 0 false (2 ^ 32 * (x / 2 ^ g - l)) := by
      rw [leads_exact, leads_exact.1 above]
      push_cast
      ring
    exact exact_.div (Nat.sub_pos_of_lt less)
  | true =>
    obtain ⟨d, multiple⟩ := whole rfl
    have dpos : 0 < d := by
      refine Nat.pos_of_ne_zero fun zero => ?_
      rw [zero, Nat.mul_zero] at multiple
      omega
    have shared := above.div dpos
    rw [multiple, Nat.mul_comm (n - l), Nat.mul_div_mul_left _ _ (by decide), Nat.cast_mul, Nat.cast_pow, Nat.cast_ofNat,
      mul_div_mul_left _ _ (by positivity)]
    exact shared

/-! ## The result -/

/-- What stands above a word, in units of the gap to the next one. -/
noncomputable def Tap.share (f : Tap) (q : Nat) (x : ℝ) : ℝ := (x - f.units q) / (f.units (q + 1) - f.units q)

/-- The tie between a word and the next one, in units: the word of one bit more (R177). -/
def Tap.tie (f : Tap) (q : Nat) : Nat := (Tap.mk (f.n + 1) f.es).units (2 * q + 1)

/-- Whether a magnitude of x units goes up from the word below it (R177, R195). -/
def Tap.GoesUp (f : Tap) (rm : Rm) (u : Nat) (neg : Bool) (q : Nat) (x : ℝ) : Prop := match rm with
  | .rne => f.tie q < x ∨ x = f.tie q ∧ q % 2 = 1
  | .rtz => False
  | .rdn => neg = true ∧ f.units q < x
  | .rup => neg = false ∧ f.units q < x
  | .sr => f.units q < x ∧ drawnUp neg u (f.share q x)

/-- r is what one rounding of a magnitude of x units gives, with its flags (R177, R179). -/
inductive Tap.Rounds (f : Tap) (rm : Rm) (u : Nat) (neg : Bool) (x : ℝ) : Nat × Flg → Prop
  | above (large : f.units (f.nar - 1) < x) : Tap.Rounds f rm u neg x (f.signed neg (f.nar - 1), fOF ||| fNX)
  | below (small : x < f.units 1) : Tap.Rounds f rm u neg x (f.signed neg 1, fUF ||| fNX)
  | within {q : Nat} {up inexact : Bool} (least : 1 ≤ q) (most : q < f.nar) (low : f.units q ≤ x) (high : q + 1 < f.nar → x < f.units (q + 1))
      (last : q + 1 = f.nar → x = f.units q) (decision : up = true ↔ f.GoesUp rm u neg q x) (mark : inexact = true ↔ f.units q < x)
      (rises : up = true → inexact = true) :
      Tap.Rounds f rm u neg x (f.signed neg (q + up.toNat), flagIf inexact fNX)

section
variable {f : Tap} (hf : f.Standard) {m : Nat} {e : Int} {more : Bool} {x : ℝ} (pos : 0 < m) (h : Leads m e more x)
include pos h

/-- The condition of `Tap.round` for a value beyond maxpos. -/
theorem Tap.large_iff (max : Int) :
    (decide (max < e + Nat.log2 m) || (e + Nat.log2 m == max && (more || m != 2 ^ Nat.log2 m))) = true ↔ (2 : ℝ) ^ max < x := by
  have low := h.two_pow_le pos
  have high := h.lt_two_pow
  rw [Bool.or_eq_true, decide_eq_true_iff, Bool.and_eq_true, beq_iff_eq]
  have top : (more || m != 2 ^ Nat.log2 m) = true ↔ (2 : ℝ) ^ (e + Nat.log2 m) < x := by
    have split : (2 : ℝ) ^ (e + Nat.log2 m) = (2 ^ Nat.log2 m : Nat) * 2 ^ e := by
      rw [zpow_add₀ two_ne_zero, zpow_natCast, mul_comm]
      push_cast
      rfl
    have self : 2 ^ Nat.log2 m ≤ m := Nat.log2_self_le pos.ne'
    have unit : (0 : ℝ) < 2 ^ e := by positivity
    rw [split, Bool.or_eq_true, h.more_iff, bne_iff_ne]
    constructor
    · intro above
      by_cases same : m = 2 ^ Nat.log2 m
      · rw [← same]
        exact lt_of_le_of_ne h.lower (above.resolve_right (not_not.2 same)).symm
      · have less : 2 ^ Nat.log2 m < m := lt_of_le_of_ne self (Ne.symm same)
        exact (mul_lt_mul_of_pos_right (by exact_mod_cast less) unit).trans_le h.lower
    · intro above
      by_contra both
      rw [not_or, not_not, not_not] at both
      rw [← both.2, ← both.1] at above
      exact lt_irrefl _ above
  rw [top]
  constructor
  · rintro (less | ⟨rfl, above⟩)
    · exact (zpow_lt_zpow_right₀ one_lt_two less).trans_le low
    · exact above
  · intro above
    have le : max < e + Nat.log2 m + 1 := (zpow_lt_zpow_iff_right₀ one_lt_two).1 (above.trans high)
    rcases (Int.le_of_lt_add_one le).lt_or_eq with less | rfl
    · exact .inl less
    · exact .inr ⟨rfl, above⟩

end

end Sys2Proof.Machine
end

section
/-! SUPPORT. `Tap.round` is one rounding of the value that its operand's bits lead (R177, R195). -/

namespace Sys2Proof.Machine

section
variable {f : Tap} (hf : f.Standard)
include hf

/-! ## Words below and above a value -/

/-- A word lies above the values whose places lie below it, in units. -/
theorem Tap.lt_units_iff {p : Nat} (pos : 0 < p) (small : p < f.nar) (l : ℝ) :
    numberAt l * 2 ^ 256 < f.units p ↔ placeAt f.es l * 2 ^ (f.n - 1) < p := by
  obtain ⟨m, e, l', -, word⟩ := Tap.exists_wordAt hf pos small
  rw [← lt_div_iff₀ (by positivity), word.lt_iff]

theorem Tap.units_lt_iff {p : Nat} (pos : 0 < p) (small : p < f.nar) (l : ℝ) :
    f.units p < numberAt l * 2 ^ 256 ↔ p < placeAt f.es l * 2 ^ (f.n - 1) := by
  obtain ⟨m, e, l', -, word⟩ := Tap.exists_wordAt hf pos small
  rw [← div_lt_iff₀ (by positivity), word.gt_iff]

theorem Tap.units_eq_iff {p : Nat} (pos : 0 < p) (small : p < f.nar) (l : ℝ) :
    numberAt l * 2 ^ 256 = f.units p ↔ placeAt f.es l * 2 ^ (f.n - 1) = p := by
  have below := Tap.lt_units_iff hf pos small l
  have above := Tap.units_lt_iff hf pos small l
  constructor
  · intro same
    exact le_antisymm (not_lt.1 fun more => (above.2 more).ne same.symm) (not_lt.1 fun less => (below.2 less).ne same)
  · intro same
    exact le_antisymm (not_lt.1 fun more => (above.1 more).ne same.symm) (not_lt.1 fun less => (below.1 less).ne same)

/-- The tie above a word is half a place above it. -/
theorem Tap.tie_lt_iff (wider : (Tap.mk (f.n + 1) f.es).Standard) {q : Nat} (small : q < f.nar) (l : ℝ) :
    (f.tie q < numberAt l * 2 ^ 256 ↔ 1 / 2 < placeAt f.es l * 2 ^ (f.n - 1) - q) ∧
      (numberAt l * 2 ^ 256 = f.tie q ↔ placeAt f.es l * 2 ^ (f.n - 1) - q = 1 / 2) := by
  have wide := hf.wide
  have double : 2 ^ f.n = 2 * f.nar := by rw [Tap.nar, ← pow_succ', Nat.sub_add_cancel (by omega)]
  have fits : 2 * q + 1 < (Tap.mk (f.n + 1) f.es).nar := by
    show 2 * q + 1 < 2 ^ f.n
    omega
  have above := Tap.units_lt_iff wider (Nat.succ_pos _) fits l
  have at_ := Tap.units_eq_iff wider (Nat.succ_pos _) fits l
  have real : (2 : ℝ) ^ f.n = 2 * 2 ^ (f.n - 1) := by exact_mod_cast double
  simp only [Nat.add_sub_cancel, real] at above at_
  push_cast at above at_
  rw [Tap.tie, above, at_]
  constructor
  · constructor <;> intro h <;> linarith
  · constructor <;> intro h <;> linarith

/-- Modes other than SR decide by the place of the value (R177). -/
theorem Tap.roundsUp_iff (wider : (Tap.mk (f.n + 1) f.es).Standard) {rm : Rm} (other : rm ≠ .sr) (u : Nat) (neg : Bool) {q : Nat} (pos : 0 < q)
    (small : q < f.nar) (l : ℝ) :
    roundsUp rm neg (q % 2 == 1) (placeAt f.es l * 2 ^ (f.n - 1) - q) ↔ f.GoesUp rm u neg q (numberAt l * 2 ^ 256) := by
  obtain ⟨above, at_⟩ := Tap.tie_lt_iff hf wider small l
  have low := Tap.units_lt_iff hf pos small l
  cases rm with
  | rne => simp only [roundsUp, Tap.GoesUp, above, at_, beq_iff_eq]
  | rtz => rfl
  | rdn => simp only [roundsUp, Tap.GoesUp, low, sub_pos]
  | rup => simp only [roundsUp, Tap.GoesUp, low, sub_pos]
  | sr => exact absurd rfl other

variable {m : Nat} {e : Int} {more : Bool} {x : ℝ} (pos : 0 < m) (h : Leads m e more x) (deep : more = true → 150 ≤ Nat.log2 m)

omit hf in
/-- A word at or after the beginning of the value's regime has its last bit well above the value's. -/
theorem Tap.WordAt.fine {p w : Nat} {a : Int} {l : ℝ} (word : f.WordAt p w a l) {k : Int} (start : regimeAt k ≤ (p : ℝ) / 2 ^ (f.n - 1)) :
    (2 : Int) ^ f.es * k ≤ a + f.n := by
  have begins := placeAt_add f.es k (t := 0) le_rfl (by positivity)
  rw [zero_div, zero_mul, add_zero, add_zero] at begins
  have level : (2 : ℝ) ^ f.es * k ≤ l := by
    rw [← (placeAt_strictMono f.es).le_iff_le, begins, word.place]
    exact start
  have bound : (2 : ℝ) ^ f.es * k < a + f.n + 1 := level.trans_lt word.deep
  exact Int.le_of_lt_add_one (by exact_mod_cast bound)

include h deep in
/-- SR decides by the value's share of the gap between its words (R195). -/
theorem Tap.srUp_iff {l : ℝ} (number : numberAt l = x) (start : regimeAt ((e + Nat.log2 m) / 2 ^ f.es) ≤ placeAt f.es l)
    (low : -f.maxExp ≤ e + Nat.log2 m) (high : e + Nat.log2 m ≤ f.maxExp) {q : Nat} (qpos : 0 < q) (inner : q + 1 < f.nar)
    (floor : q ≤ placeAt f.es l * 2 ^ (f.n - 1)) (ceil : placeAt f.es l * 2 ^ (f.n - 1) < q + 1) (u : Nat) (neg : Bool) :
    srUp neg u (f.srBound q m e more).1 (f.srBound q m e more).2 = true ↔ drawnUp neg u (f.share q (x * 2 ^ 256)) := by
  have wide := hf.wide
  have shallow := hf.shallow
  have unit : (0 : ℝ) < 2 ^ (f.n - 1) := by positivity
  have step : (0 : Int) < 2 ^ f.es := by positivity
  have parts := Int.mul_ediv_add_emod (e + Nat.log2 m) (2 ^ f.es)
  have rest := Int.emod_lt_of_pos (e + Nat.log2 m) step
  obtain ⟨a, ea, la, magA, wordA⟩ := Tap.exists_wordAt hf qpos (p := q) (by rw [Tap.nar] at inner; omega)
  obtain ⟨b, eb, lb, magB, wordB⟩ := Tap.exists_wordAt hf (Nat.succ_pos q) inner
  have regimeLow : -((f.n : Int) - 2) ≤ (e + Nat.log2 m) / 2 ^ f.es := by
    rw [Int.le_ediv_iff_mul_le step, neg_mul]
    exact low
  have regimeHigh : (e + Nat.log2 m) / 2 ^ f.es ≤ (f.n : Int) - 2 := by
    have := Int.ediv_le_ediv step high
    rwa [Tap.maxExp, Int.mul_ediv_cancel _ step.ne'] at this
  have startA : regimeAt ((e + Nat.log2 m) / 2 ^ f.es) ≤ (q : ℝ) / 2 ^ (f.n - 1) := by
    obtain ⟨c, whole⟩ := regimeAt_word wide regimeLow regimeHigh
    rw [le_div_iff₀ unit, whole]
    have le : (c : ℝ) < q + 1 := by
      rw [← whole]
      exact (mul_le_mul_of_nonneg_right start unit.le).trans_lt ceil
    exact_mod_cast Nat.le_of_lt_succ (by exact_mod_cast le)
  have startB : regimeAt ((e + Nat.log2 m) / 2 ^ f.es) ≤ ((q + 1 : Nat) : ℝ) / 2 ^ (f.n - 1) := by
    refine startA.trans (div_le_div_of_nonneg_right ?_ unit.le)
    exact_mod_cast Nat.le_succ q
  have fineA := wordA.fine startA
  have fineB := wordB.fine startB
  have room : (2 : Int) ^ f.es + f.n ≤ 100 := by exact_mod_cast shallow
  have under : numberAt la ≤ x := by
    rw [← number, ← not_lt, numberAt_lt_iff f.es, wordA.place, lt_div_iff₀ unit]
    exact floor.not_gt
  have gap : numberAt la < numberAt lb := by
    rw [numberAt_lt_iff f.es, wordA.place, wordB.place]
    exact div_lt_div_of_pos_right (by exact_mod_cast Nat.lt_succ_self q) unit
  rw [wordA.number] at under gap
  rw [wordB.number] at gap
  have bits := Tap.srBound_leads magA magB h under gap fun m_ => by
    have := deep m_
    constructor <;> omega
  have share : (x - a * (2 : ℝ) ^ ea) / (b * (2 : ℝ) ^ eb - a * (2 : ℝ) ^ ea) = f.share q (x * 2 ^ 256) := by
    have pow : (0 : ℝ) < 2 ^ 256 := by positivity
    rw [← wordA.number, ← wordB.number, wordA.number_units, wordB.number_units, Tap.share, ← sub_div, div_div_eq_mul_div, sub_mul,
      div_mul_cancel₀ _ pow.ne']
  rw [share] at bits
  exact Sys2Proof.Machine.srUp_iff bits neg u

include h deep in
/-- Between minpos and maxpos, the cut pattern is the word below the value, and it is rounded there. -/
theorem Tap.cutWord_rounds (wider : (Tap.mk (f.n + 1) f.es).Standard) (rm : Rm) (u : Nat) (neg : Bool)
    (least : (2 : ℝ) ^ (-f.maxExp) ≤ x) (most : x ≤ (2 : ℝ) ^ f.maxExp) (low : -f.maxExp ≤ e + Nat.log2 m) (high : e + Nat.log2 m ≤ f.maxExp)
    {l : ℝ} (number : numberAt l = x) (start : regimeAt ((e + Nat.log2 m) / 2 ^ f.es) ≤ placeAt f.es l) {n : Nat} {rest : Bool}
    (bits : Leads n 0 rest (2 * (placeAt f.es l * 2 ^ (f.n - 1)))) :
    f.Rounds rm u neg (x * 2 ^ 256) (f.cutWord rm u neg m e more (n / 2) (n % 2 == 1) rest) := by
  have nar := Tap.nar_pos hf
  have pow : (0 : ℝ) < 2 ^ 256 := by positivity
  have goes := goesUp_iff bits rm neg (n / 2 % 2 == 1)
  obtain ⟨floor, ceil, mark⟩ := leads_zero_iff.1 bits.half
  rw [← Tap.units_min hf, div_le_iff₀ pow, ← number, ← not_lt, Tap.lt_units_iff hf one_pos (by omega), not_lt] at least
  rw [← Tap.units_max hf, le_div_iff₀ pow, ← number, ← not_lt, Tap.units_lt_iff hf (by omega) (by omega), not_lt, Nat.cast_sub (by omega)] at most
  generalize n / 2 = q at *
  have qpos : 0 < q := Nat.pos_of_ne_zero fun zero => by
    rw [zero] at ceil
    push_cast at least ceil
    linarith
  have small : q < f.nar := by
    have le : (q : ℝ) + 1 ≤ f.nar := by push_cast at most; linarith
    exact_mod_cast le
  have under := Tap.units_lt_iff hf qpos small l
  have at_ := Tap.units_eq_iff hf qpos small l
  have beyond := Tap.lt_units_iff hf qpos small l
  rw [number] at under at_ beyond
  have inexact : (n % 2 == 1 || rest) = true ↔ f.units q < x * 2 ^ 256 := by
    rw [mark, under, lt_iff_le_and_ne, and_iff_right floor, ne_comm]
  refine .within qpos small (not_lt.1 fun less => (beyond.1 less).not_ge floor) (fun inner => ?_) (fun last => at_.2 ?_) ?_ inexact ?_
  · rw [← number, Tap.lt_units_iff hf (Nat.succ_pos q) inner]
    push_cast
    exact ceil
  · refine le_antisymm ?_ floor
    rw [← last] at most
    push_cast at most
    linarith
  · unfold Tap.up
    by_cases sr : rm = .sr
    · subst sr
      rw [if_pos (by rfl), Bool.and_eq_true, inexact]
      refine and_congr_right fun above => ?_
      have inner : q + 1 < f.nar := by
        refine lt_of_le_of_ne small fun last => ?_
        rw [← last] at most
        push_cast at most
        exact (under.1 above).not_ge (by linarith)
      exact Tap.srUp_iff hf h deep number start low high qpos inner floor ceil u neg
    · rw [if_neg (by simpa using sr), goes, Tap.roundsUp_iff hf wider sr u neg qpos small, number]
  · unfold Tap.up
    split
    next => exact fun rises => (Bool.and_eq_true _ _ ▸ rises).1
    next =>
      intro rises
      refine mark.2 fun exact_ => ?_
      rw [exact_, sub_self] at goes
      exact not_roundsUp_zero _ _ _ (goes.1 rises)

include pos h deep in
/-- `Tap.round` is one rounding of the value that its operand's bits lead. -/
theorem Tap.round_rounds (wider : (Tap.mk (f.n + 1) f.es).Standard) (rm : Rm) (u : Nat) (neg : Bool) :
    f.Rounds rm u neg (x * 2 ^ 256) (f.round rm u neg m e more) := by
  have pow : (0 : ℝ) < 2 ^ 256 := by positivity
  have round := f.round_eq rm u neg m e more
  dsimp only at round
  rw [round]
  split
  next large =>
    refine .above ?_
    rw [← div_lt_iff₀ pow, Tap.units_max hf]
    exact (Tap.large_iff pos h _).1 large
  next within =>
    split
    next small =>
      refine .below ?_
      rw [← lt_div_iff₀ pow, Tap.units_min hf]
      exact h.lt_two_pow.trans_le (zpow_le_zpow_right₀ one_le_two small)
    next least =>
      have high : e + Nat.log2 m ≤ f.maxExp := not_lt.1 fun less => within (by rw [Bool.or_eq_true]; exact .inl (decide_eq_true less))
      have low : -f.maxExp ≤ e + Nat.log2 m := not_lt.1 least
      obtain ⟨l, number, -, place⟩ := Tap.level_of_leads f pos h
      have start : regimeAt ((e + Nat.log2 m) / 2 ^ f.es) ≤ placeAt f.es l := by
        have room := regimeRoom_pos ((e + Nat.log2 m) / 2 ^ f.es)
        have fraction := (numberAt_level (h.two_pow_le pos) h.lt_two_pow).1
        have expo : (0 : ℝ) ≤ ((e + (Nat.log2 m : Int)) % 2 ^ f.es).toNat := Nat.cast_nonneg _
        rw [place, le_add_iff_nonneg_right]
        positivity
      have bits := (Tap.pattern_leads hf pos h deep place).cut (f.below m e)
      rw [mul_div_cancel_left₀ _ (by positivity)] at bits
      exact Tap.cutWord_rounds hf h deep wider rm u neg ((zpow_le_zpow_right₀ one_le_two low).trans (h.two_pow_le pos))
        (not_lt.1 (mt (Tap.large_iff pos h _).2 within)) low high number start bits

end

end Sys2Proof.Machine
end

section
/-! SUPPORT. Tapered results: the code and the flags of a rounded exact value, and the operations on real words (R177, R179, R195). -/

namespace Sys2Proof.Machine

/-! ## The order of words -/

section
variable {f : Tap} (hf : f.Standard)
include hf

theorem Tap.units_lt_units_iff {p q : Nat} (ppos : 0 < p) (psmall : p < f.nar) (qpos : 0 < q) (qsmall : q < f.nar) : f.units p < f.units q ↔ p < q := by
  obtain ⟨m, e, l, -, word⟩ := Tap.exists_wordAt hf ppos psmall
  have number := word.number_units
  have less := Tap.lt_units_iff hf qpos qsmall l
  rw [number, div_mul_cancel₀ _ (by positivity), word.place, div_mul_cancel₀ _ (by positivity)] at less
  exact_mod_cast less

theorem Tap.units_le_units {p q : Nat} (ppos : 0 < p) (le : p ≤ q) (qsmall : q < f.nar) : f.units p ≤ f.units q := by
  rw [← not_lt, Tap.units_lt_units_iff hf (by omega) qsmall ppos (by omega)]
  omega

/-- The gap above a word. -/
theorem Tap.units_gap {q : Nat} (pos : 0 < q) (inner : q + 1 < f.nar) : (0 : ℝ) < f.units (q + 1) - f.units q := by
  rw [sub_pos, Nat.cast_lt, Tap.units_lt_units_iff hf pos (by omega) (by omega) inner]
  exact Nat.lt_succ_self q

/-! ## Codes -/

/-- The order of x units, given by a comparison with k / 2^32 for each k. -/
def ComparesNat (cmp : Nat → Ordering) (x : ℝ) : Prop := Compares cmp (fun k => (k : ℝ)) (2 ^ 32 * x)

omit hf in
theorem ComparesNat.lt_iff {cmp : Nat → Ordering} {x : ℝ} (hc : ComparesNat cmp x) (n : Nat) : cmp (2 ^ 32 * n) = .lt ↔ x < n := by
  rw [Compares.lt_iff hc]
  push_cast
  constructor <;> intro h <;> linarith

omit hf in
theorem ComparesNat.gt_iff {cmp : Nat → Ordering} {x : ℝ} (hc : ComparesNat cmp x) (n : Nat) : cmp (2 ^ 32 * n) = .gt ↔ n < x := by
  rw [Compares.gt_iff hc]
  push_cast
  constructor <;> intro h <;> linarith

omit hf in
theorem ComparesNat.eq_iff {cmp : Nat → Ordering} {x : ℝ} (hc : ComparesNat cmp x) (n : Nat) : cmp (2 ^ 32 * n) = .eq ↔ x = n := by
  rw [Compares.eq_iff hc]
  push_cast
  constructor <;> intro h <;> linarith

/-- What `roundedTo` asks of a word that goes up. -/
def Tap.Up (f : Tap) (rm : Rm) (u : Nat) (neg : Bool) (cmp : Nat → Ordering) (lo : Nat) : Prop := match rm with
  | .rne => cmp (2 ^ 32 * f.tie lo) = .gt ∨ cmp (2 ^ 32 * f.tie lo) = .eq ∧ lo % 2 = 1
  | .rtz => False
  | .rdn => neg = true ∧ cmp (2 ^ 32 * f.units lo) = .gt
  | .rup => neg = false ∧ cmp (2 ^ 32 * f.units lo) = .gt
  | .sr => if neg = true then cmp (2 ^ 32 * f.units (lo + 1) - (u + 1) * (f.units (lo + 1) - f.units lo)) = .gt
      else cmp (2 ^ 32 * f.units lo + (u + 1) * (f.units (lo + 1) - f.units lo)) ≠ .lt

omit hf in
theorem Tap.roundedTo_iff (f : Tap) (rm : Rm) (u : Nat) (neg : Bool) (cmp : Nat → Ordering) (c : Nat) : f.roundedTo rm u neg cmp c ↔
    ∃ q, c = f.signed neg q ∧
      if cmp (2 ^ 32 * f.units (f.nar - 1)) ≠ .lt then q = f.nar - 1
      else if cmp (2 ^ 32 * f.units 1) ≠ .gt then q = 1
      else ∃ lo, 1 ≤ lo ∧ lo < f.nar - 1 ∧ cmp (2 ^ 32 * f.units lo) ≠ .lt ∧ cmp (2 ^ 32 * f.units (lo + 1)) = .lt ∧
        (f.Up rm u neg cmp lo → q = lo + 1) ∧ (¬f.Up rm u neg cmp lo → q = lo) := by
  cases rm <;> rfl

variable {rm : Rm} {u : Nat} (hu : u < 2 ^ 32) {neg : Bool} {cmp : Nat → Ordering} {x : ℝ} (hc : ComparesNat cmp x)
include hu hc

theorem Tap.up_iff {q : Nat} (pos : 0 < q) (inner : q + 1 < f.nar) : f.Up rm u neg cmp q ↔ f.GoesUp rm u neg q x := by
  have gap := Tap.units_gap hf pos inner
  have le := Tap.units_le_units hf pos (Nat.le_succ q) inner
  have draw : (u : ℝ) + 1 ≤ 2 ^ 32 := by exact_mod_cast hu
  have nonneg : (0 : ℝ) ≤ u := Nat.cast_nonneg u
  cases rm with
  | rne => simp only [Tap.Up, Tap.GoesUp, hc.gt_iff, hc.eq_iff]
  | rtz => rfl
  | rdn => simp only [Tap.Up, Tap.GoesUp, hc.gt_iff]
  | rup => simp only [Tap.Up, Tap.GoesUp, hc.gt_iff]
  | sr =>
    unfold Tap.Up Tap.GoesUp drawnUp Tap.share
    dsimp only
    rw [← mul_div_assoc]
    cases neg with
    | false =>
      rw [if_neg Bool.false_ne_true, if_neg Bool.false_ne_true, ne_eq, Compares.lt_iff hc, not_lt, le_div_iff₀ gap]
      push_cast [Nat.cast_sub le]
      constructor
      · intro h
        exact ⟨by nlinarith, by linarith⟩
      · rintro ⟨-, h⟩
        linarith
    | true =>
      have small : (u + 1) * (f.units (q + 1) - f.units q) ≤ 2 ^ 32 * f.units (q + 1) := Nat.mul_le_mul hu (Nat.sub_le ..)
      rw [if_pos rfl, if_pos rfl, Compares.gt_iff hc, ← sub_lt_iff_lt_add, lt_div_iff₀ gap, Nat.cast_sub small]
      push_cast [Nat.cast_sub le]
      constructor
      · intro h
        exact ⟨by nlinarith, by linarith⟩
      · rintro ⟨-, h⟩
        linarith

/-- A rounded magnitude is the word that `roundedTo` asks for. -/
theorem Tap.Rounds.roundedTo {r : Nat × Flg} (h : f.Rounds rm u neg x r) : f.roundedTo rm u neg cmp r.1 := by
  have nar := Tap.nar_pos hf
  rw [Tap.roundedTo_iff]
  simp only [ne_eq, hc.lt_iff, hc.gt_iff]
  cases h with
  | above large => exact ⟨_, rfl, by rw [if_pos large.not_gt]⟩
  | below small =>
    have least : (f.units 1 : ℝ) ≤ f.units (f.nar - 1) := by exact_mod_cast Tap.units_le_units hf one_pos (by omega) (by omega)
    exact ⟨_, rfl, by rw [if_neg (not_not.2 (small.trans_le least)), if_pos small.not_gt]⟩
  | @within q up inexact one most low high last decision mark rises =>
    have stays (exact_ : x = f.units q) : up = false := Bool.eq_false_iff.2 fun up => (mark.1 (rises up)).ne exact_.symm
    refine ⟨_, rfl, ?_⟩
    by_cases inner : q + 1 < f.nar
    · have below : x < f.units (f.nar - 1) :=
        (high inner).trans_le (by exact_mod_cast Tap.units_le_units hf (Nat.succ_pos q) (by omega) (by omega))
      rw [if_neg (not_not.2 below)]
      split
      next least =>
        have first : (f.units 1 : ℝ) ≤ f.units q := by exact_mod_cast Tap.units_le_units hf one_pos one most
        have same : x = f.units q := le_antisymm ((not_lt.1 least).trans first) low
        have word : q = 1 := by
          have not_less : ¬f.units 1 < f.units q := by
            rw [not_lt, ← Nat.cast_le (α := ℝ)]
            exact low.trans (not_lt.1 least)
          rw [Tap.units_lt_units_iff hf one_pos (by omega) one most] at not_less
          omega
        rw [stays same, word]
        rfl
      next above =>
        refine ⟨q, one, by omega, low.not_gt, high inner, ?_, ?_⟩
        · rw [Tap.up_iff hf hu hc one inner, ← decision]
          rintro rfl
          rfl
        · rw [Tap.up_iff hf hu hc one inner, ← decision]
          intro down
          rw [Bool.eq_false_iff.2 down]
          rfl
    · have top : q + 1 = f.nar := by omega
      have word : q = f.nar - 1 := by omega
      rw [stays (last top), ← word, if_pos (last top).ge.not_gt]
      rfl

end

end Sys2Proof.Machine
end

section
/-! SUPPORT. The flags of a tapered result, and the operations on real words (R177, R179). -/

namespace Sys2Proof.Machine

/-! ## Flags (R179) -/

/-- The flags NX (0), UF (1) and OF (2) of a saturated result. -/
theorem ofFlags_bits : (fOF ||| fNX : Flg).getLsbD 0 ≠ false ∧ (fOF ||| fNX : Flg).getLsbD 1 ≠ true ∧ (fOF ||| fNX : Flg).getLsbD 2 = true := by decide

theorem ufFlags_bits : (fUF ||| fNX : Flg).getLsbD 0 ≠ false ∧ (fUF ||| fNX : Flg).getLsbD 1 = true ∧ (fUF ||| fNX : Flg).getLsbD 2 ≠ true := by decide

theorem nxFlag_bits (b : Bool) : (flagIf b fNX).getLsbD 0 = b ∧ (flagIf b fNX).getLsbD 1 = false ∧ (flagIf b fNX).getLsbD 2 = false := by
  cases b <;> decide

section
variable {f : Tap} (hf : f.Standard) {rm : Rm} {u : Nat} {neg : Bool} {x : ℝ} {r : Nat × Flg} (h : f.Rounds rm u neg x r)
include hf

theorem Tap.units_min_le_max : (f.units 1 : ℝ) ≤ f.units (f.nar - 1) := by
  have nar := Tap.nar_pos hf
  exact_mod_cast Tap.units_le_units hf one_pos (by omega) (by omega)

include h

/-- NX is set exactly when the result is not the value. -/
theorem Tap.Rounds.nx_iff : r.2.getLsbD 0 = false ↔ (f.value r.1 : ℝ) = signFactor neg * x := by
  have nar := Tap.nar_pos hf
  have sign : signFactor neg ≠ 0 := by cases neg <;> simp
  have signed {q : Nat} (pos : 0 < q) (small : q < f.nar) : (f.value (f.signed neg q) : ℝ) = signFactor neg * x ↔ (f.units q : ℝ) = x := by
    rw [Tap.value_signed hf pos small, mul_right_inj' sign]
  cases h with
  | above large => exact iff_of_false ofFlags_bits.1 (mt (signed (by omega) (by omega)).1 large.ne)
  | below small => exact iff_of_false ufFlags_bits.1 (mt (signed one_pos (by omega)).1 small.ne')
  | @within q up inexact one most low high last decision mark rises =>
    have fits : q + up.toNat < f.nar := by
      cases up with
      | false => exact most
      | true =>
        refine lt_of_le_of_ne most fun top => ?_
        exact (mark.1 (rises rfl)).ne (last top).symm
    rw [(nxFlag_bits inexact).1, signed (by omega) fits]
    cases inexact with
    | false =>
      have same : (f.units q : ℝ) = x := le_antisymm low (not_lt.1 (mt mark.2 Bool.false_ne_true))
      have stays : up = false := Bool.eq_false_iff.2 fun up => Bool.false_ne_true (rises up)
      rw [stays]
      exact iff_of_true rfl same
    | true =>
      refine iff_of_false (Ne.symm Bool.false_ne_true) ?_
      cases up with
      | false => exact (mark.1 rfl).ne
      | true => exact (high fits).ne'

/-- OF is set beyond maxpos, and UF within minpos. -/
theorem Tap.Rounds.of_iff : r.2.getLsbD 2 = true ↔ f.units (f.nar - 1) < x := by
  have order := Tap.units_min_le_max hf
  cases h with
  | above large => exact iff_of_true ofFlags_bits.2.2 large
  | below small => exact iff_of_false ufFlags_bits.2.2 (small.trans_le order).not_gt
  | @within q up inexact one most low high last decision mark rises =>
    rw [(nxFlag_bits inexact).2.2]
    refine iff_of_false Bool.false_ne_true (not_lt.2 ?_)
    by_cases inner : q + 1 < f.nar
    · refine (high inner).le.trans ?_
      exact_mod_cast Tap.units_le_units hf (Nat.succ_pos q) (by omega) (by omega)
    · have word : q = f.nar - 1 := by omega
      exact word ▸ (last (by omega)).le

theorem Tap.Rounds.uf_iff : r.2.getLsbD 1 = true ↔ x < f.units 1 := by
  have order := Tap.units_min_le_max hf
  cases h with
  | above large => exact iff_of_false ofFlags_bits.2.1 (order.trans_lt large).not_gt
  | below small => exact iff_of_true ufFlags_bits.2.1 small
  | @within q up inexact one most low high last decision mark rises =>
    rw [(nxFlag_bits inexact).2.1]
    refine iff_of_false Bool.false_ne_true (not_lt.2 (le_trans ?_ low))
    exact_mod_cast Tap.units_le_units hf one_pos one most

end

/-! ## Results in the words of their statement -/

/-- r is the result of an operation whose exact value is n / d units. -/
def Tap.IsResult (f : Tap) (rm : Rm) (u : Nat) (r : Nat × Flg) (n : Int) (d : Nat) : Prop := if n = 0 then r = (0, 0) else
  f.roundedTo rm u (decide (n < 0)) (fun i => compare (2 ^ 32 * n.natAbs) (i * d)) r.1 ∧ (r.2.getLsbD 0 = false ↔ f.value r.1 * d = n) ∧
    (r.2.getLsbD 2 = true ↔ f.units (f.nar - 1) * d < n.natAbs) ∧ (r.2.getLsbD 1 = true ↔ n.natAbs < f.units 1 * d)

theorem roundRes_tap_nar (f : Tap) (rm : Rm) (u : Nat) (fl : Flg) : roundRes (.tap f) rm u (.nar, fl) = (f.nar, fl) := by
  simp [roundRes, roundVal]

theorem roundRes_tap_zero (f : Tap) (rm : Rm) (u : Nat) (s : Bool) (fl : Flg) : roundRes (.tap f) rm u (.zero s, fl) = (0, fl) := by
  simp [roundRes, roundVal]

theorem compares_units_nat {n d : Nat} (hd : 0 < d) : ComparesNat (fun i => compare (2 ^ 32 * n) (i * d)) (n / d) := by
  have scaled : (2 : ℝ) ^ 32 * (n / d) = ((2 ^ 32 * n : Nat) : ℝ) / d := by
    push_cast
    ring
  rw [ComparesNat, scaled]
  exact compares_fraction_nat hd

section
variable {f : Tap} (hf : f.Standard) (wider : (Tap.mk (f.n + 1) f.es).Standard) {rm : Rm} {u : Nat} (hu : u < 2 ^ 32) {v : Val × Flg}
include hf wider

/-- A value given by its leading bits is rounded once. -/
theorem roundRes_tap_leads {y : ℝ} (h : v.1.leads y) (quiet : v.2 = 0) :
    f.Rounds rm u (decide (y < 0)) (|y| * 2 ^ 256) (roundRes (.tap f) rm u v) := by
  obtain ⟨m, e, more, value, pos, deep, lead⟩ := Val.leads_fin h
  have round : roundRes (.tap f) rm u v = f.round rm u (decide (y < 0)) m e more := by
    simp [roundRes, value, quiet, roundVal, roundFin]
  rw [round]
  exact Tap.round_rounds hf pos lead deep wider rm u _

variable {n : Int} {d : Nat} (hd : 0 < d)
include hu hd

/-- One rounding of an exact value of n / d units, or the word of an exact zero. -/
theorem Tap.isResult_of_leads (zero : n = 0 → ∃ s, v.1 = .zero s) (h : n ≠ 0 → v.1.leads (n / d / 2 ^ 256)) (quiet : v.2 = 0) :
    f.IsResult rm u (roundRes (.tap f) rm u v) n d := by
  unfold Tap.IsResult
  split
  next is =>
    obtain ⟨s, value⟩ := zero is
    have pair : v = (.zero s, 0) := Prod.ext value quiet
    rw [pair, roundRes_tap_zero]
  next ne =>
    have dpos : (0 : ℝ) < d := by exact_mod_cast hd
    have unit : (0 : ℝ) < 2 ^ 256 := by positivity
    have rounds := roundRes_tap_leads hf wider (rm := rm) (u := u) (h ne) quiet
    have sign : decide ((n : ℝ) / d / 2 ^ 256 < 0) = decide (n < 0) := by
      rw [decide_eq_decide, div_eq_mul_inv, mul_pos_lt_zero_iff (inv_pos.2 unit), div_eq_mul_inv, mul_pos_lt_zero_iff (inv_pos.2 dpos), Int.cast_lt_zero]
    have mag : |(n : ℝ) / d / 2 ^ 256| * 2 ^ 256 = (n.natAbs : ℝ) / d := by
      rw [abs_div, abs_of_pos unit, div_mul_cancel₀ _ unit.ne', abs_div, abs_of_pos dpos, Nat.cast_natAbs, Int.cast_abs]
    have value : signFactor (decide (n < 0)) * ((n.natAbs : ℝ) / d) = (n : ℝ) / d := by
      have signed : decide (n < 0) = decide ((n : ℝ) < 0) := decide_eq_decide.2 Int.cast_lt_zero.symm
      rw [← mul_div_assoc, Nat.cast_natAbs, Int.cast_abs, signed, signFactor_mul_abs]
    rw [sign, mag] at rounds
    refine ⟨rounds.roundedTo hf hu (compares_units_nat hd), ?_, ?_, ?_⟩
    · rw [rounds.nx_iff hf, value, eq_div_iff dpos.ne']
      exact_mod_cast Iff.rfl
    · rw [rounds.of_iff hf, lt_div_iff₀ dpos, ← Nat.cast_mul, Nat.cast_lt]
    · rw [rounds.uf_iff hf, div_lt_iff₀ dpos, ← Nat.cast_mul, Nat.cast_lt]

theorem Tap.isResult_of_holds (h : v.1.holds (n / d / 2 ^ 256)) (quiet : v.2 = 0) : f.IsResult rm u (roundRes (.tap f) rm u v) n d := by
  refine Tap.isResult_of_leads hf wider hu hd ?_ (fun ne => Val.leads_of_holds h ?_) quiet
  · rintro rfl
    exact Val.holds_zero (by simpa using h)
  · have dpos : (0 : ℝ) < d := by exact_mod_cast hd
    have : (n : ℝ) ≠ 0 := by exact_mod_cast ne
    positivity

end

/-! ## Operations on real words -/

/-- A quotient, by the sign and the magnitude of an integer. -/
theorem mul_sign_div_natAbs (a : ℝ) (b : Int) : a * b.sign / b.natAbs = a / b := by
  rcases lt_trichotomy b 0 with neg | rfl | pos
  · rw [Int.sign_eq_neg_one_of_neg neg, Nat.cast_natAbs, abs_of_neg neg]
    push_cast
    rw [mul_neg_one, neg_div_neg_eq]
  · simp
  · rw [Int.sign_eq_one_of_pos pos, Nat.cast_natAbs, abs_of_pos pos]
    simp

section
variable {f : Tap} (hf : f.Standard) (wider : (Tap.mk (f.n + 1) f.es).Standard) (rm : Rm) {u : Nat} (hu : u < 2 ^ 32) {x y z : Nat}
  (hx : x < 2 ^ f.n) (rx : x ≠ f.nar) (hy : y < 2 ^ f.n) (ry : y ≠ f.nar) (hz : z < 2 ^ f.n) (rz : z ≠ f.nar)
include hf wider hu hx rx

/-- A root, whose comparison is by squares. -/
theorem Tap.sqrtCode_roundedTo (pos : 0 < f.value x) :
    f.roundedTo rm u false (fun i => compare (2 ^ 64 * (f.value x).natAbs * 2 ^ 256) (i * i)) (sqrtCode (.tap f) true rm u x).1 := by
  have unit : (0 : ℝ) < 2 ^ 256 := by positivity
  have real : (0 : ℝ) < f.value x := by exact_mod_cast pos
  have natAbs : ((f.value x).natAbs : ℝ) = f.value x := by rw [Nat.cast_natAbs, abs_of_pos pos]
  obtain ⟨root, quiet⟩ := sqrtVal_leads true (Tap.decode_holds hf hx rx) (div_pos real unit)
  have rounds := roundRes_tap_leads hf wider (rm := rm) (u := u) root quiet
  have nonneg := Real.sqrt_nonneg ((f.value x : ℝ) / 2 ^ 256)
  rw [decide_eq_false nonneg.not_gt, abs_of_nonneg nonneg] at rounds
  refine rounds.roundedTo hf hu ?_
  have square : ((2 ^ 64 * (f.value x).natAbs * 2 ^ 256 : Nat) : ℝ) = (2 ^ 32 * 2 ^ 256) ^ 2 * (f.value x / 2 ^ 256) := by
    have bits : (2 : ℝ) ^ 64 = (2 ^ 32) ^ 2 := by norm_num
    rw [Nat.cast_mul, Nat.cast_mul, Nat.cast_pow, Nat.cast_pow, Nat.cast_ofNat, natAbs, bits, mul_pow]
    generalize (2 : ℝ) ^ 256 = w at *
    field_simp
  have scaled : √((2 ^ 64 * (f.value x).natAbs * 2 ^ 256 : Nat) : ℝ) = 2 ^ 32 * (√(f.value x / 2 ^ 256) * 2 ^ 256) := by
    rw [square, Real.sqrt_mul (by positivity), Real.sqrt_sq (by positivity)]
    ring
  rw [ComparesNat, ← scaled]
  exact compares_sqrt _

include hy ry

theorem Tap.addCode_isResult : f.IsResult rm u (addCode (.tap f) rm u x y) (f.value x + f.value y) 1 := by
  obtain ⟨sum, quiet⟩ := addVal_holds rm (Tap.decode_holds hf hx rx) (Tap.decode_holds hf hy ry)
  refine Tap.isResult_of_holds hf wider hu Nat.one_pos ?_ quiet
  convert sum using 1
  push_cast
  ring

theorem Tap.subCode_isResult : f.IsResult rm u (subCode (.tap f) rm u x y) (f.value x - f.value y) 1 := by
  obtain ⟨sum, quiet⟩ := addVal_holds rm (Tap.decode_holds hf hx rx) (Val.negate_holds (Tap.decode_holds hf hy ry))
  refine Tap.isResult_of_holds hf wider hu Nat.one_pos ?_ quiet
  convert sum using 1
  push_cast
  ring

theorem Tap.mulCode_isResult : f.IsResult rm u (mulCode (.tap f) rm u x y) (f.value x * f.value y) (2 ^ 256) := by
  obtain ⟨product, quiet⟩ := mulVal_holds (Tap.decode_holds hf hx rx) (Tap.decode_holds hf hy ry)
  refine Tap.isResult_of_holds hf wider hu (Nat.two_pow_pos 256) ?_ quiet
  convert product using 1
  push_cast
  ring

theorem Tap.divCode_isResult (ne : f.value y ≠ 0) :
    f.IsResult rm u (divCode (.tap f) true rm u x y) (f.value x * 2 ^ 256 * (f.value y).sign) (f.value y).natAbs := by
  have holds := Tap.decode_holds hf hx rx
  have holds' := Tap.decode_holds hf hy ry
  have unit : (2 : ℝ) ^ 256 ≠ 0 := by positivity
  have real : (f.value y : ℝ) / 2 ^ 256 ≠ 0 := div_ne_zero (Int.cast_ne_zero.2 ne) unit
  by_cases zero : f.value x = 0
  · rw [zero, Int.cast_zero, zero_div] at holds
    obtain ⟨s, value⟩ := Val.holds_zero holds
    obtain ⟨t, m, e, value', -⟩ := Val.holds_fin holds' real
    refine Tap.isResult_of_leads hf wider hu (Int.natAbs_pos.2 ne) ?_ (fun other => ?_) ?_
    · exact fun _ => ⟨_, by rw [value, value']; rfl⟩
    · exact absurd (by rw [zero, zero_mul, zero_mul]) other
    · rw [value, value']
      rfl
  · have real' : (f.value x : ℝ) / 2 ^ 256 ≠ 0 := div_ne_zero (Int.cast_ne_zero.2 zero) unit
    obtain ⟨quotient, quiet⟩ := divVal_leads true holds holds' real' real
    refine Tap.isResult_of_leads hf wider hu (Int.natAbs_pos.2 ne) (fun none_ => ?_) (fun _ => ?_) quiet
    · exact absurd none_ (mul_ne_zero (mul_ne_zero zero (by positivity)) (mt Int.sign_eq_zero_iff_zero.1 ne))
    · convert quotient using 1
      rw [div_div_div_cancel_right₀ unit, Int.cast_mul, Int.cast_mul, Int.cast_pow, Int.cast_ofNat, mul_right_comm, mul_div_right_comm,
        mul_div_cancel_right₀ _ unit, mul_sign_div_natAbs]

include hz rz

theorem Tap.fmaCode_isResult (a b : Bool) : f.IsResult rm u (fmaCode (.tap f) rm u a b x y z)
    ((if a = true then -1 else 1) * f.value x * f.value y + (if b = true then -1 else 1) * f.value z * 2 ^ 256) (2 ^ 256) := by
  obtain ⟨fused, quiet⟩ := fmaVal_holds rm (Val.negate_if_holds (Tap.decode_holds hf hx rx) a) (Tap.decode_holds hf hy ry)
    (Val.negate_if_holds (Tap.decode_holds hf hz rz) b)
  refine Tap.isResult_of_holds hf wider hu (Nat.two_pow_pos 256) ?_ quiet
  convert fused using 1
  simp only [Int.cast_add, Int.cast_mul, cast_signFactor, Int.cast_pow, Int.cast_ofNat, Nat.cast_pow, Nat.cast_ofNat]
  have unit : (2 : ℝ) ^ 256 ≠ 0 := by positivity
  generalize (2 : ℝ) ^ 256 = w at *
  field_simp

end

end Sys2Proof.Machine
end

section
/-! SUPPORT. The tapered rounding of dyadic numbers, and the special results and the order of tapered words (R177, R178, R179, R195). -/

namespace Sys2Proof.Machine

/-! ## Dyadic numbers -/

/-- Every dyadic number is rounded once into a tapered format (R177, R187). -/
theorem Tap.round_roundedTo {f : Tap} (hf : f.Standard) (wider : (Tap.mk (f.n + 1) f.es).Standard) (rm : Rm) {u : Nat} (hu : u < 2 ^ 32) (neg : Bool)
    {m : Nat} (pos : 0 < m) (e : Int) :
    f.roundedTo rm u neg (fun k => compare (2 ^ 32 * m * 2 ^ (e + 256).toNat) (k * 2 ^ (-(e + 256)).toNat)) (f.round rm u neg m e false).1 := by
  have exact_ : Leads m e false (m * 2 ^ e) := leads_exact.2 rfl
  have rounds := Tap.round_rounds hf pos exact_ (by simp) wider rm u neg
  have units : (m : ℝ) * 2 ^ e * 2 ^ 256 = m * 2 ^ (e + 256) := by
    rw [zpow_add₀ two_ne_zero, mul_assoc]
    rfl
  rw [units] at rounds
  refine rounds.roundedTo hf hu ?_
  have value : (2 : ℝ) ^ 32 * (m * 2 ^ (e + 256)) = ((2 ^ 32 * m * 2 ^ (e + 256).toNat : Nat) : ℝ) / (2 ^ (-(e + 256)).toNat : Nat) := by
    simp only [Nat.cast_mul, Nat.cast_pow, Nat.cast_ofNat]
    rw [mul_div_assoc, two_pow_toNat_div, mul_assoc]
  rw [ComparesNat, value]
  exact compares_fraction_nat (Nat.two_pow_pos _)

/-! ## NaR (R179) -/

theorem Val.negate_nar : Val.nar.negate = .nar := rfl

theorem addVal_nar_right (rm : Rm) (v : Val) : addVal rm v .nar = (.nar, 0) := by
  cases v with
  | _ => rfl

theorem mulVal_nar_right (v : Val) : mulVal v .nar = (.nar, 0) := by
  cases v with
  | _ => rfl

theorem divVal_nar_right (tapered : Bool) (v : Val) : divVal tapered v .nar = (.nar, 0) := by
  cases v with
  | _ => rfl

theorem Val.isNar_negate (v : Val) : v.negate.isNar = v.isNar := by
  cases v with
  | _ => rfl

theorem Val.isNar_negate_if (v : Val) (a : Bool) : (if a = true then v.negate else v).isNar = v.isNar := by
  cases a with
  | false => rfl
  | true => exact v.isNar_negate

theorem fmaVal_nar (rm : Rm) {v w z : Val} (h : v.isNar = true ∨ w.isNar = true ∨ z.isNar = true) : fmaVal rm v w z = (.nar, 0) := by
  rw [fmaVal, if_pos]
  simpa [or_assoc] using h

section
variable {f : Tap} (hf : f.Standard)
include hf

theorem Tap.decode_nar : decodeVal (.tap f) false f.nar = .nar := by
  have nar := Tap.nar_pos hf
  have inside : f.nar < 2 ^ f.n := by
    have := Tap.two_pow_n hf
    rw [Tap.nar] at nar ⊢
    omega
  have fields : f.fields f.nar = .nar := by rw [Tap.fields_eq, Nat.mod_eq_of_lt inside, if_neg (by omega), if_pos rfl]
  show f.decode f.nar = .nar
  rw [Tap.decode, fields]

omit hf in
theorem Tap.decode_zero (f : Tap) : decodeVal (.tap f) false 0 = .zero false := by
  have fields : f.fields 0 = .zero := by rw [Tap.fields_eq, Nat.zero_mod, if_pos rfl]
  show f.decode 0 = .zero false
  rw [Tap.decode, fields]

/-- A word other than 0 and NaR decodes to a number whose sign is its top bit (R176). -/
theorem Tap.decode_fin {x : Nat} (hx : x < 2 ^ f.n) (ne : x ≠ 0) (real : x ≠ f.nar) :
    ∃ m e, decodeVal (.tap f) false x = .fin (decide (f.nar ≤ x)) m e false := by
  obtain ⟨fields, mpos, small⟩ := Tap.fields_real hf hx ne real
  obtain ⟨m, k, e, fr, fb, body, -⟩ := Tap.body_parts hf mpos small
  refine ⟨2 ^ fb + fr, 2 ^ f.es * k + e - fb, ?_⟩
  show f.decode x = _
  rw [Tap.decode, fields, body]
  rfl

variable {x y z : Nat} (rm : Rm) (u : Nat)

theorem Tap.codes_nar (h : f.nar ∈ [x, y]) : addCode (.tap f) rm u x y = (f.nar, 0) ∧ subCode (.tap f) rm u x y = (f.nar, 0) ∧
    mulCode (.tap f) rm u x y = (f.nar, 0) ∧ divCode (.tap f) true rm u x y = (f.nar, 0) := by
  have nar := Tap.decode_nar hf
  unfold addCode subCode mulCode divCode
  dsimp only
  have result := roundRes_tap_nar f rm u 0
  rcases List.mem_pair.1 h with rfl | rfl
  · rw [nar]
    exact ⟨result, result, result, result⟩
  · rw [nar, Val.negate_nar, addVal_nar_right, mulVal_nar_right, divVal_nar_right]
    exact ⟨result, result, result, result⟩

theorem Tap.fmaCode_nar (h : f.nar ∈ [x, y, z]) (a b : Bool) : fmaCode (.tap f) rm u a b x y z = (f.nar, 0) := by
  have nar : (decodeVal (.tap f) false f.nar).isNar = true := by rw [Tap.decode_nar hf]; rfl
  have some_ : (decodeVal (.tap f) false x).isNar = true ∨ (decodeVal (.tap f) false y).isNar = true ∨ (decodeVal (.tap f) false z).isNar = true := by
    rcases List.mem_cons.1 h with is | h
    · exact .inl (is ▸ nar)
    · rcases List.mem_pair.1 h with is | is
      · exact .inr (.inl (is ▸ nar))
      · exact .inr (.inr (is ▸ nar))
  unfold fmaCode
  dsimp only
  rw [fmaVal_nar, roundRes_tap_nar]
  rwa [Val.isNar_negate_if, Val.isNar_negate_if]

/-- A quotient by zero creates NaR, and so does 0 / 0. -/
theorem Tap.divCode_zero (hx : x < 2 ^ f.n) (real : x ≠ f.nar) : divCode (.tap f) true rm u x 0 = (f.nar, if x = 0 then 0x10 else 0x08) := by
  unfold divCode
  rw [Tap.decode_zero]
  split
  next zero =>
    rw [zero, Tap.decode_zero]
    exact roundRes_tap_nar f rm u fNV
  next ne =>
    obtain ⟨m, e, value⟩ := Tap.decode_fin hf hx ne real
    rw [value]
    exact roundRes_tap_nar f rm u fDZ

omit hf in
theorem Tap.sqrtCode_zero (f : Tap) (rm : Rm) (u : Nat) : sqrtCode (.tap f) true rm u 0 = (0, 0) := by
  rw [sqrtCode, Tap.decode_zero]
  exact roundRes_tap_zero f rm u false 0

theorem Tap.sqrtCode_nar : sqrtCode (.tap f) true rm u f.nar = (f.nar, 0) := by
  rw [sqrtCode, Tap.decode_nar hf]
  exact roundRes_tap_nar f rm u 0

theorem Tap.sqrtCode_negative (hx : x < 2 ^ f.n) (neg : f.nar < x) : sqrtCode (.tap f) true rm u x = (f.nar, 0x10) := by
  obtain ⟨m, e, value⟩ := Tap.decode_fin hf hx (Nat.ne_zero_of_lt neg) neg.ne'
  rw [sqrtCode, value, decide_eq_true neg.le]
  exact roundRes_tap_nar f rm u fNV

end

/-! ## The order of words (R178) -/

theorem signedOf_eq_toInt {w : Nat} (pos : 0 < w) (x : Nat) : signedOf w x = (BitVec.ofNat w x).toInt := by
  have double : 2 ^ w = 2 * 2 ^ (w - 1) := by rw [← pow_succ', Nat.sub_add_cancel pos]
  rw [BitVec.toInt_eq_toNat_cond, BitVec.toNat_ofNat, signedOf]
  have half : x % 2 ^ w < 2 ^ (w - 1) ↔ 2 * (x % 2 ^ w) < 2 ^ w := by omega
  simp only [half]

theorem eq_of_signedOf_eq {w x y : Nat} (pos : 0 < w) (hx : x < 2 ^ w) (hy : y < 2 ^ w) (h : signedOf w x = signedOf w y) : x = y := by
  rw [signedOf_eq_toInt pos, signedOf_eq_toInt pos, BitVec.toInt_inj] at h
  have := congrArg BitVec.toNat h
  rwa [BitVec.toNat_ofNat, BitVec.toNat_ofNat, Nat.mod_eq_of_lt hx, Nat.mod_eq_of_lt hy] at this

theorem Tap.eqCode_eq (f : Tap) (x y : Nat) : eqCode (.tap f) x y = (decide (x = y), 0) := rfl

theorem Tap.ltCode_false (f : Tap) (x y : Nat) : ltCode (.tap f) false x y = (decide (signedOf f.n x < signedOf f.n y), 0) := by
  show (decide (signedOf f.n x < signedOf f.n y) || false, (0 : Flg)) = _
  rw [Bool.or_false]

theorem Tap.ltCode_true (f : Tap) (x y : Nat) : ltCode (.tap f) true x y = (decide (signedOf f.n x ≤ signedOf f.n y), 0) := by
  show (decide (signedOf f.n x < signedOf f.n y) || signedOf f.n x == signedOf f.n y, (0 : Flg)) = _
  congr 1
  rw [Bool.eq_iff_iff, Bool.or_eq_true, decide_eq_true_iff, decide_eq_true_iff, beq_iff_eq, le_iff_lt_or_eq]

section
variable {f : Tap} {x y : Nat} (hf : f.Standard) (hx : x < 2 ^ f.n) (hy : y < 2 ^ f.n)
include hf hx hy

theorem Tap.minMaxCode_min : minMaxCode (.tap f) false x y = (if signedOf f.n x ≤ signedOf f.n y then x else y, 0) := by
  have wide := hf.wide
  have same := eq_of_signedOf_eq (by omega) hx hy
  show (if (decide (signedOf f.n x < signedOf f.n y) != false) = true then (x, (0 : Flg)) else (y, 0)) = _
  rcases lt_trichotomy (signedOf f.n x) (signedOf f.n y) with less | equal | more
  · simp [less, less.le]
  · simp [same equal]
  · simp [more.not_ge, more.le]

theorem Tap.minMaxCode_max : minMaxCode (.tap f) true x y = (if signedOf f.n x ≤ signedOf f.n y then y else x, 0) := by
  have wide := hf.wide
  have same := eq_of_signedOf_eq (by omega) hx hy
  show (if (decide (signedOf f.n x < signedOf f.n y) != true) = true then (x, (0 : Flg)) else (y, 0)) = _
  rcases lt_trichotomy (signedOf f.n x) (signedOf f.n y) with less | equal | more
  · simp [less, less.le]
  · simp [same equal]
  · simp [more.not_ge, more.le]

end

end Sys2Proof.Machine
end

section
open Sys2Proof.Machine in
/-- Settles O16: the place of a value among the words decides its rounding, and the classes of the operands decide the special results. -/
theorem taperRounding : Obligations.TaperRounding := by
  unfold Obligations.TaperRounding
  intro f rm u standard hu
  obtain ⟨hf, wider⟩ := Tap.standard_of_mem standard
  refine ⟨fun neg m e pos => Tap.round_roundedTo hf wider rm hu neg pos e, ?_, ?_⟩
  · intro x y z hx hy hz real
    have rx : x ≠ f.nar := fun is => real (by simp [is])
    have ry : y ≠ f.nar := fun is => real (by simp [is])
    have rz : z ≠ f.nar := fun is => real (by simp [is])
    exact ⟨Tap.addCode_isResult hf wider rm hu hx rx hy ry, Tap.subCode_isResult hf wider rm hu hx rx hy ry,
      Tap.mulCode_isResult hf wider rm hu hx rx hy ry, Tap.fmaCode_isResult hf wider rm hu hx rx hy ry hz rz,
      Tap.divCode_isResult hf wider rm hu hx rx hy ry, Tap.sqrtCode_roundedTo hf wider rm hu hx rx⟩
  · intro x y z hx hy hz k val div root value
    have integer : value = signedOf f.n := funext fun v => (signedOf_eq_toInt (by have := hf.wide; omega) v).symm
    rw [integer]
    refine ⟨Tap.codes_nar hf rm u, Tap.fmaCode_nar hf rm u, ?_, ?_, ?_, Tap.sqrtCode_negative hf rm u hx, Tap.eqCode_eq f x y, Tap.ltCode_false f x y,
      Tap.ltCode_true f x y, Tap.minMaxCode_min hf hx hy, Tap.minMaxCode_max hf hx hy⟩
    · rintro rx rfl
      exact Tap.divCode_zero hf rm u hx rx
    · rintro rfl
      exact Tap.sqrtCode_zero f rm u
    · rintro rfl
      exact Tap.sqrtCode_nar hf rm u
end

section
/-! SUPPORT. Instructions that act alone and write one register (R129, R135, R266). -/

namespace Sys2Proof.Machine

/-! ## A register written by an instruction that acts alone -/

/-- A register that has just been written (R250, R266). -/
theorem Core.setReg_written (c : Core) (d : Reg) (v : Word) : holds (c.setReg d v) d v ∧ otherRegs c (c.setReg d v) d := by
  refine ⟨⟨?_, by simp [Core.poisoned_setReg]⟩, fun r other => ⟨c.reg_setReg_ne v other, by simp [Core.poisoned_setReg, other]⟩⟩
  by_cases zero : d = 0
  · rw [zero, Core.reg_zero, if_pos rfl]
  · rw [c.reg_setReg_self v zero, if_neg zero]

/-- A write of a register changes registers and poison bits alone. -/
theorem Core.setReg_eq (c : Core) (d : Reg) (v : Word) : c.setReg d v = { c with regs := (c.setReg d v).regs, pois := (c.setReg d v).pois } := by
  unfold Core.setReg
  split <;> rfl

/-- An instruction that acts alone and writes one register of the active core. -/
theorem State.setReg_aloneReg (s : State) (d : Reg) (v : Word) : aloneReg s { s with core := (s.core.setReg d v).step4.retired } d v := by
  obtain ⟨written, others⟩ := s.core.setReg_written d v
  refine ⟨written, others, ?_⟩
  rw [s.core.setReg_eq d v]
  rfl

/-! ## Lane grants (R225, R341) -/

/-- A request of lanes, rounded (R225). -/
theorem laneRequest_eq (n : Nat) : laneRequest n = if n ≤ 32 then 32 else if 224 < n then 256 else (n + 31) / 32 * 32 := by
  unfold laneRequest
  split
  · omega
  · split <;> omega

theorem State.poolWithout_eq (s : State) (p : Nat) : s.poolWithout p =
    224 - ((s.cores.filter fun c => c.pcn != p && clusterOf c.pcn == clusterOf p).map fun c => c.ctl.vl.toNat - 32).sum := by
  rw [State.poolWithout, List.sum_eq_foldl]

end Sys2Proof.Machine
end

section
open Sys2Proof.Machine in
/-- Settles O22: both instructions pass their checks, the request is rounded as R225 says, and the grant is what the pool gives. -/
theorem laneGrants : Obligations.LaneGrants := by
  unfold Obligations.LaneGrants
  intro s d a n want others grant
  have wanted : laneRequest (s.core.reg a).toNat = want := laneRequest_eq n
  have granted : s.grantFor s.core.pcn want = grant := by rw [State.grantFor, State.poolWithout_eq]
  refine ⟨fun issues => ?_, fun issues => State.alone_eq_of_issuesAlone issues _ _⟩
  let lanes : Core := { s.core with nreq := BitVec.ofNat 9 want, ctl := { s.core.ctl with vl := BitVec.ofNat 9 grant } }
  have claimed : exec (.vclaim d a) s = .next { s with core := (lanes.setReg d (BitVec.ofNat 64 grant)).step4.retired } := by
    show execVclaim d a s = _
    rw [execVclaim, State.alone_eq_of_issuesAlone issues, State.done]
    simp only [wanted, granted]
    rfl
  obtain ⟨written, unchanged⟩ := lanes.setReg_written d (BitVec.ofNat 64 grant)
  refine ⟨_, claimed, written, unchanged, ?_, ?_, ?_⟩
  · simp [lanes]
  · simp [lanes]
  · rw [lanes.setReg_eq]
    rfl
end

section
/-! SUPPORT. A core that waits with the copy of a command of no class (R262, R344). -/

namespace Sys2Proof.Machine

/-- A core has queues q0 to q4 alone: of any other number there is none, and it holds nothing. -/
theorem Core.queue_of_no_number (c : Core) {q : Nat} (hq : 5 ≤ q) : c.queue q = ⟨[], [], []⟩ :=
  List.getD_eq_default _ _ (by simpa using hq)

/-- A word of class 15 and code 1, with VA 2^32: no class of R262, so that no push reads it; `cmdUse` takes it for a FOLDWAIT. -/
def classlessWord : Nat := 0xF1 + 2 ^ 96

/-- Core 0, at an ARM.push that waits with a copy of that word. -/
def armsClassless : State := { State.reset with core := { Core.reset 0 with run := .running, copied := some (BitVec.ofNat 768 classlessWord) } }

theorem armsClassless_issues : armsClassless.issuesAlone [0, 0] [] := by
  unfold State.issuesAlone State.starts State.regsFree
  decide

theorem armsClassless_pushable (p : Nat) : armsClassless.pushable p classlessWord 0 armsClassless :=
  ⟨.inr ⟨by rw [Nat.zero_mul]; rfl, by decide, Nat.two_pow_pos _, rfl⟩, fun join => absurd join (by decide), ⟨⟨[], []⟩, by decide, rfl, by decide⟩, by decide⟩

end Sys2Proof.Machine
end

section
open Sys2Proof.Machine in
/-- Refutes O33: its clause of an ARM.push whose threshold is already reached asks that the command stand in the queue of its class, and a copy that a waiting
ARM.push holds may have any class, by `pushReads`. For class 15 that is queue 14, which no core has: the fired push is gone, and the queue stays empty. What a push
copies at its issue has a listed class (R262), so this needs a state that lists another copy. -/
theorem not_triggerCounters : ¬ Obligations.TriggerCounters := by
  unfold Obligations.TriggerCounters
  intro h
  obtain ⟨-, -, -, -, -, armPush⟩ := h armsClassless 0 0 0 0
  obtain ⟨-, -, fires⟩ := armPush armsClassless_issues classlessWord 0 armsClassless (armsClassless_pushable _)
  obtain ⟨t, -, entered, -⟩ := fires (by decide) (by decide) rfl (by decide)
  have none (c : Core) : (c.queue (bits classlessWord 7 4 - 1)).cmds = [] := by rw [c.queue_of_no_number (by decide)]
  rw [none, none] at entered
  exact absurd entered (by simp)
end

section
/-! SUPPORT. Changes of one core after another, and the team of a slot (R213 to R215). -/

namespace Sys2Proof.Machine

/-! ## Cores -/

theorem State.getCore_active (s : State) : s.getCore s.core.pcn = s.core := if_pos rfl

/-- Every core after a change of the active one that keeps its number. -/
theorem State.getCore_withCore (s : State) {d : Core} (hd : d.pcn = s.core.pcn) (q : Nat) :
    ({ s with core := d } : State).getCore q = if q = s.core.pcn then d else s.getCore q := by
  unfold State.getCore
  by_cases own : q = s.core.pcn
  · rw [if_pos own]
    exact if_pos (hd.trans own.symm)
  · have other : s.core.pcn ≠ q := fun e => own e.symm
    rw [if_neg own, if_neg other]
    exact if_neg fun e => other (hd.symm.trans e)

section
variable {f : Core → Core} (hf : ∀ c, (f c).pcn = c.pcn)
include hf

/-- Every core after a change of one that keeps its number. -/
theorem State.getCore_modCore (s : State) (p q : Nat) : (s.modCore p f).getCore q = if q = p then f (s.getCore q) else s.getCore q := by
  split
  next own => rw [own, s.getCore_modCore_same (hf _)]
  next other => exact s.getCore_modCore_other (hf _) other

theorem State.modCore_pcn (s : State) (p : Nat) : (s.modCore p f).core.pcn = s.core.pcn := by
  unfold State.modCore State.putCore
  split
  next own => exact (hf _).trans ((s.getCore_pcn p).trans (((hf _).trans (s.getCore_pcn p)).symm.trans own.symm))
  next => rfl

/-- Every core after a change of each core of a list: changed as often as it is listed. -/
theorem State.getCore_foldl_modCore (l : List Nat) (s : State) (q : Nat) :
    (l.foldl (fun s p => s.modCore p f) s).getCore q = f^[l.count q] (s.getCore q) := by
  induction l generalizing s with
  | nil => rfl
  | cons p l ih =>
    rw [List.foldl_cons, ih, State.getCore_modCore hf]
    by_cases own : q = p
    · rw [if_pos own, own, List.count_cons_self, Function.iterate_succ_apply]
    · rw [if_neg own, List.count_cons_of_ne fun e => own e.symm]

/-- The same for a change that has no effect after itself. -/
theorem State.getCore_foldl_modCore_once (twice : ∀ c, f (f c) = f c) (l : List Nat) (s : State) (q : Nat) :
    (l.foldl (fun s p => s.modCore p f) s).getCore q = if q ∈ l then f (s.getCore q) else s.getCore q := by
  rw [State.getCore_foldl_modCore hf]
  split
  next listed =>
    obtain ⟨n, hn⟩ := Nat.exists_eq_succ_of_ne_zero (List.count_pos_iff.2 listed).ne'
    rw [hn, Function.iterate_succ_apply]
    exact Function.iterate_fixed (twice _) n
  next unlisted => rw [List.count_eq_zero_of_not_mem unlisted]; rfl

end

/-! ## What changes of cores and queues leave -/

/-- All of the package but its cores and its scheduling queues. -/
def State.shell (s : State) : State := { s with core := Core.reset 0, others := [], queues := [] }

theorem State.modCore_shell (s : State) (p : Nat) (f : Core → Core) : (s.modCore p f).shell = s.shell := by
  unfold State.modCore State.putCore
  split <;> rfl

theorem State.foldl_shell {α : Type} {f : State → α → State} (hf : ∀ s x, (f s x).shell = s.shell) (l : List α) (s : State) :
    (l.foldl f s).shell = s.shell := by
  induction l generalizing s with
  | nil => rfl
  | cons x l ih => exact (ih _).trans (hf s x)

theorem State.select_shell (s : State) (p : Nat) : (s.select p).shell = s.shell := State.select_keeps State.shell (fun _ _ _ => rfl) s p

/-- A state that differs in nothing but cores and queues has every team where it was. -/
theorem State.team_of_shell {s t : State} (h : t.shell = s.shell) (slot : Nat) : t.team slot = s.team slot := by
  have same : t.shell.teams = s.shell.teams := congrArg State.teams h
  rw [State.team, State.team]
  exact congrArg (List.find? _) same

/-! ## Teams -/

theorem State.team_slot {s : State} {slot : Nat} {u : Team} (h : s.team slot = some u) : u.slot = slot := by
  simpa using List.find?_some h

/-- The team of a slot after a change of the team of one. -/
theorem State.team_modTeam (s : State) (i j : Nat) {f : Team → Team} (hf : ∀ t, (f t).slot = t.slot) :
    (s.modTeam i f).team j = (s.team j).map fun t => if t.slot = i then f t else t := by
  have key : ((fun t : Team => t.slot == j) ∘ fun t => if t.slot = i then f t else t) = fun t => t.slot == j := by
    funext t
    dsimp only [Function.comp]
    split
    · rw [hf]
    · rfl
  rw [State.team, State.modTeam, List.find?_map, key, State.team]

theorem State.team_modTeam_same {s : State} {i : Nat} {u : Team} (h : s.team i = some u) {f : Team → Team} (hf : ∀ t, (f t).slot = t.slot) :
    (s.modTeam i f).team i = some (f u) := by
  rw [s.team_modTeam i i hf, h, Option.map_some, if_pos (State.team_slot h)]

/-- The sites of the members that have not finished (R215). -/
def State.liveSites (s : State) (u : Team) : List Nat := u.sites.filter fun p => !(s.getCore p).finished

theorem State.liveMembers_pcns (s : State) (u : Team) : (s.liveMembers u).map Core.pcn = s.liveSites u := by
  rw [State.liveMembers, State.liveSites, List.filter_map, List.map_map]
  simp [Function.comp_def, State.getCore_pcn]

theorem State.mem_liveMembers {s : State} {u : Team} {c : Core} : c ∈ s.liveMembers u ↔ ∃ p ∈ s.liveSites u, s.getCore p = c := by
  simp only [State.liveMembers, State.liveSites, List.mem_filter, List.mem_map]
  constructor
  · rintro ⟨⟨p, hp, rfl⟩, live⟩
    exact ⟨p, ⟨hp, live⟩, rfl⟩
  · rintro ⟨p, ⟨hp, live⟩, rfl⟩
    exact ⟨⟨p, hp, rfl⟩, live⟩

/-- A change of every member of a list of cores is one of their numbers. -/
theorem State.foldl_members (l : List Core) (f : Core → Core) (s : State) :
    l.foldl (fun s c => s.modCore c.pcn f) s = (l.map Core.pcn).foldl (fun s p => s.modCore p f) s := by rw [List.foldl_map]

/-! ## A slice that ends (R204, R215, R292) -/

/-- The core whose slice has ended: no interrupt of the slice is pending, and a member has finished. -/
def Core.sliceGone (c : Core) : Core :=
  let d := { c with slice := .none, irq := { c.irq with timer := false, preempt := none, entered := false, budget := false } }
  match c.slice with
  | .member _ => { d with finished := true, timetable := [], ttDone := [], phase := .idle }
  | _ => d

theorem State.memberGone_eq (s : State) : s.memberGone = match s.core.slice with
    | .member slot => ({ s with core := s.core.sliceGone } : State).retireIfDone slot
    | _ => { s with core := s.core.sliceGone } := by
  unfold State.memberGone Core.sliceGone
  cases s.core.slice <;> rfl

@[simp] theorem Core.sliceGone_pcn (c : Core) : c.sliceGone.pcn = c.pcn := by unfold Core.sliceGone; cases c.slice <;> rfl
@[simp] theorem Core.sliceGone_slice (c : Core) : c.sliceGone.slice = .none := by unfold Core.sliceGone; cases c.slice <;> rfl
@[simp] theorem Core.sliceGone_regs (c : Core) : c.sliceGone.regs = c.regs := by unfold Core.sliceGone; cases c.slice <;> rfl

theorem Core.sliceGone_of_none {c : Core} (h : c.slice = .none) :
    c.sliceGone = { c with slice := .none, irq := { c.irq with timer := false, preempt := none, entered := false, budget := false } } := by
  unfold Core.sliceGone
  rw [h]

theorem Core.sliceGone_member {c : Core} {slot : Nat} (h : c.slice = .member slot) :
    c.sliceGone.finished = true ∧ c.sliceGone.phase = .idle := by
  unfold Core.sliceGone
  rw [h]
  exact ⟨rfl, rfl⟩

theorem Core.sliceGone_twice (c : Core) : c.sliceGone.sliceGone = c.sliceGone := by
  rw [Core.sliceGone_of_none c.sliceGone_slice]
  unfold Core.sliceGone
  cases c.slice <;> rfl

/-- A team with a member that has not finished stays (R215). -/
theorem State.retireIfDone_of_live {s : State} {slot : Nat} {u : Team} (team : s.team slot = some u)
    (live : ∃ p ∈ u.sites, (s.getCore p).finished = false) : s.retireIfDone slot = s := by
  obtain ⟨p, hp, going⟩ := live
  have some : (u.placedNow && u.sites.all fun p => (s.getCore p).finished) = false := by
    rw [Bool.and_eq_false_iff]
    exact .inr (List.all_eq_false.2 ⟨p, hp, by simp [going]⟩)
  rw [State.retireIfDone, team]
  exact if_neg (by rw [some]; exact Bool.false_ne_true)

end Sys2Proof.Machine
end

section
/-! SUPPORT. Barriers, phases and their ends (R216, R217, R225, R401, R420). -/

namespace Sys2Proof.Machine

/-! ## BAR, BARS, WAITP (R401) -/

section
variable {s : State} (issues : s.issuesAlone [] [])
include issues

theorem execBar_outside (none : s.ownTeam = none) : exec .bar s = s.trap 0x0A 0xFFF07 := by
  show execBar s = _
  rw [execBar, State.alone_eq_of_issuesAlone issues, none]
  rfl

theorem execBars_outside (none : s.ownTeam = none) : exec .bars s = s.trap 0x0A 0xFFF07 := by
  show execBars s = _
  rw [execBars, State.alone_eq_of_issuesAlone issues, none]
  rfl

theorem execBar_inTeam (member : s.ownTeam ≠ none) : exec .bar s = match s.core.phase with
    | .idle => .next { s with core := { s.core with phase := .arrived false, leftBar := false, ctl := { s.core.ctl with vl := 32 } } }
    | .ended => .next { s with core := { s.core.doneFrom with phase := .idle, leftBar := false } }
    | _ => .next { s with core := { s.core with leftBar := false } } := by
  obtain ⟨u, hu⟩ := Option.ne_none_iff_exists'.1 member
  show execBar s = _
  rw [execBar, State.alone_eq_of_issuesAlone issues, hu]
  cases s.core.phase <;> rfl

theorem execBars_inTeam (member : s.ownTeam ≠ none) : exec .bars s = match s.core.phase with
    | .idle | .ended => .next { s with core := { s.core.doneFrom with phase := .arrived true } }
    | _ => .next s := by
  obtain ⟨u, hu⟩ := Option.ne_none_iff_exists'.1 member
  show execBars s = _
  rw [execBars, State.alone_eq_of_issuesAlone issues, hu]
  cases s.core.phase <;> rfl

theorem execWaitp_eq : exec .waitp s = if s.core.phaseOpen = true then .next s else .next { s with core := s.core.doneFrom } := by
  show execWaitp s = _
  rw [execWaitp, State.alone_eq_of_issuesAlone issues]
  rfl

end

/-! ## The release of a barrier (R216) -/

/-- A member that had arrived, after its release and any that may follow. -/
theorem Core.release_iterate {rel : Word} {c : Core} {b : Bool} (arrived : c.phase = .arrived b) (n : Nat) :
    ((Core.release rel)^[n + 1] c).phase = .running b ∧
      ((Core.release rel)^[n + 1] c).regrantAt = if b = false then some rel.toNat else c.regrantAt := by
  induction n with
  | zero => cases b <;> simp [Core.release, arrived]
  | succ n ih =>
    obtain ⟨phase, lanes⟩ := ih
    rw [Function.iterate_succ_apply']
    revert phase lanes
    generalize (Core.release rel)^[n + 1] c = d
    intro phase lanes
    cases b <;> simp_all [Core.release]

section
variable {s : State} {slot : Nat} {u : Team} (team : s.team slot = some u) (atSites : u.status = .resident ∨ u.status = .leaving)
  (members : s.liveSites u ≠ [])
include team atSites members

/-- The barrier of a team all of whose members have arrived is released (R216). -/
theorem execBarrierRelease_eq (arrived : ∀ p ∈ s.liveSites u, ∃ b, (s.getCore p).phase = .arrived b) {rel : Word}
    (hrel : s.tb + BitVec.ofNat 64 (2 * (u.trec.width + u.trec.height) + 32) = rel) : exec (.barrierRelease slot) s = .next
      ((s.liveSites u).foldl (fun s p => s.modCore p (Core.release rel)) (s.modTeam slot fun t => { t with rel := rel, stopped := false })) := by
  have sites : u.atSites = true := by rcases atSites with h | h <;> simp [Team.atSites, h]
  have nonempty : (s.liveMembers u).isEmpty = false := by
    rw [← s.liveMembers_pcns u] at members
    simpa using members
  have all : ((s.liveMembers u).all fun c => c.phase == Phase.arrived false || c.phase == Phase.arrived true) = true := by
    rw [List.all_eq_true]
    intro c hc
    obtain ⟨p, hp, rfl⟩ := State.mem_liveMembers.1 hc
    obtain ⟨b, hb⟩ := arrived p hp
    cases b <;> simp [hb]
  show execBarrierRelease slot s = _
  simp only [execBarrierRelease, team, sites, nonempty, all, hrel, State.foldl_members, s.liveMembers_pcns u]
  rfl

/-- The phase of a team all of whose engines have executed their last entry ends (R217). -/
theorem execPhaseEnd_eq (finished : ∀ p ∈ s.liveSites u, ∃ b, (s.getCore p).phase = .running b ∧ (s.getCore p).ttPending = [])
    (runs : u.stopped = false) (time : u.rel.toNat ≤ s.tb.toNat) (flits : ∀ f ∈ s.flits, f.slot ≠ slot) : exec (.phaseEnd slot) s = .next
      ((s.liveMembers u).foldl State.haltedGone ((s.liveSites u).foldl (fun s p => s.modCore p Core.endPhase) s)) := by
  have sites : u.atSites = true := by rcases atSites with h | h <;> simp [Team.atSites, h]
  have nonempty : (s.liveMembers u).isEmpty = false := by
    rw [← s.liveMembers_pcns u] at members
    simpa using members
  have all : ((s.liveMembers u).all fun c => c.inPhase && c.ttPending.isEmpty) = true := by
    rw [List.all_eq_true]
    intro c hc
    obtain ⟨p, hp, rfl⟩ := State.mem_liveMembers.1 hc
    obtain ⟨b, hb, none⟩ := finished p hp
    simp [Core.inPhase, hb, none]
  have early : ¬s.tb.toNat < u.rel.toNat := Nat.not_lt.2 time
  have stray : s.stray u (s.tb.toNat + 1) = none := by
    rw [State.stray, if_neg (by rw [runs]; exact Bool.false_ne_true), List.find?_eq_none]
    intro f hf
    simp [State.team_slot team, flits f hf]
  show execPhaseEnd slot s = _
  simp only [execPhaseEnd, team, sites, runs, nonempty, all, early, stray, State.foldl_members, s.liveMembers_pcns u]
  rfl

end

/-! ## A member whose core has stopped during the phase (R292, R420) -/

theorem Core.endPhase_twice (c : Core) : c.endPhase.endPhase = c.endPhase := by
  unfold Core.endPhase
  rcases c.phase with _ | _ | (_ | _) | _ <;> rfl

/-- Such a member has finished, while its team stays. -/
theorem State.haltedGone_getCore {t : State} {c : Core} {slot : Nat} {u : Team} (halted : c.run = .halted) (team : t.team slot = some u)
    (live : ∃ p ∈ u.sites, p ≠ c.pcn ∧ (t.getCore p).finished = false)
    (slice : (t.getCore c.pcn).slice = .member slot ∨ (t.getCore c.pcn).slice = .none) :
    (t.haltedGone c).shell = t.shell ∧ ∀ q, (t.haltedGone c).getCore q = if q = c.pcn then (t.getCore q).sliceGone else t.getCore q := by
  have gone : (t.select c.pcn).memberGone = { t.select c.pcn with core := (t.getCore c.pcn).sliceGone } := by
    rw [State.memberGone_eq, State.select_core]
    rcases slice with h | h <;> rw [h]
    refine State.retireIfDone_of_live (u := u) ((State.team_of_shell (t.select_shell c.pcn) slot).trans team) ?_
    obtain ⟨p, hp, other, going⟩ := live
    refine ⟨p, hp, ?_⟩
    rw [State.getCore_withCore _ (by rw [Core.sliceGone_pcn, State.select_core]), State.select_core, State.getCore_pcn, if_neg other,
      State.getCore_select, going]
  rw [State.haltedGone, if_pos halted, gone]
  refine ⟨(State.select_shell _ _).trans (t.select_shell c.pcn), fun q => ?_⟩
  rw [State.getCore_select, State.getCore_withCore _ (by rw [Core.sliceGone_pcn, State.select_core]), State.select_core, State.getCore_pcn,
    State.getCore_select]
  split
  next own => rw [own]
  next => rfl

/-- Every such member has finished, while its team stays, by another member that runs on. -/
theorem State.foldl_haltedGone {slot : Nat} {u : Team} (l : List Core) (t : State) (team : t.team slot = some u)
    (live : ∃ p ∈ u.sites, (t.getCore p).finished = false ∧ ∀ c ∈ l, c.run = .halted → p ≠ c.pcn)
    (slices : ∀ c ∈ l, c.run = .halted → (t.getCore c.pcn).slice = .member slot ∨ (t.getCore c.pcn).slice = .none) :
    (l.foldl State.haltedGone t).shell = t.shell ∧ ∀ q, (l.foldl State.haltedGone t).getCore q =
      if ∃ c ∈ l, c.run = .halted ∧ c.pcn = q then (t.getCore q).sliceGone else t.getCore q := by
  induction l generalizing t with
  | nil => exact ⟨rfl, fun q => (if_neg (by simp)).symm⟩
  | cons c l ih =>
    obtain ⟨p, hp, going, apart⟩ := live
    rw [List.foldl_cons]
    by_cases halted : c.run = .halted
    · obtain ⟨same, cores⟩ := State.haltedGone_getCore halted team ⟨p, hp, apart c List.mem_cons_self halted, going⟩ (slices c List.mem_cons_self halted)
      obtain ⟨rest, after⟩ := ih (t.haltedGone c) ((State.team_of_shell same slot).trans team)
        ⟨p, hp, by rw [cores, if_neg (apart c List.mem_cons_self halted), going], fun d hd => apart d (List.mem_cons_of_mem _ hd)⟩
        fun d hd stopped => by
          rw [cores]
          split
          · exact .inr (Core.sliceGone_slice _)
          · exact slices d (List.mem_cons_of_mem _ hd) stopped
      refine ⟨rest.trans same, fun q => ?_⟩
      rw [after, cores]
      by_cases own : q = c.pcn
      · have listed : ∃ d ∈ c :: l, d.run = .halted ∧ d.pcn = q := ⟨c, List.mem_cons_self, halted, own.symm⟩
        rw [if_pos own, Core.sliceGone_twice, if_pos listed, ite_self]
      · have other : c.pcn ≠ q := fun e => own e.symm
        have only : (∃ d ∈ c :: l, d.run = .halted ∧ d.pcn = q) ↔ ∃ d ∈ l, d.run = .halted ∧ d.pcn = q := by simp [other]
        rw [if_neg own]
        simp only [only]
    · rw [State.haltedGone, if_neg halted]
      obtain ⟨rest, after⟩ := ih t team ⟨p, hp, going, fun d hd => apart d (List.mem_cons_of_mem _ hd)⟩ fun d hd => slices d (List.mem_cons_of_mem _ hd)
      refine ⟨rest, fun q => ?_⟩
      rw [after]
      have only : (∃ d ∈ c :: l, d.run = .halted ∧ d.pcn = q) ↔ ∃ d ∈ l, d.run = .halted ∧ d.pcn = q := by simp [halted]
      simp only [only]

end Sys2Proof.Machine
end

section
/-! SUPPORT. What the release of a barrier and the end of a phase leave of each member (R216, R217, R420). -/

namespace Sys2Proof.Machine

/-- A number of releases keeps the registers, and moves the parity on by it. -/
theorem Core.release_iterate_keeps (rel : Word) (n : Nat) (c : Core) :
    ((Core.release rel)^[n] c).regs = c.regs ∧ ((Core.release rel)^[n] c).parity = c.parity + n := by
  induction n with
  | zero => exact ⟨rfl, by simp⟩
  | succ n ih =>
    obtain ⟨regs, parity⟩ := ih
    rw [Function.iterate_succ_apply']
    exact ⟨regs, by rw [Core.release, parity]; push_cast; ring⟩

/-- What was a member's phase before the release of its barrier is the phase after it. -/
theorem Core.release_iterate_count {rel : Word} {c : Core} {live : List Nat} {p : Nat} (arrived : p ∈ live → ∃ b, c.phase = .arrived b) :
    (((Core.release rel)^[live.count p] c).regrantAt = if p ∈ live ∧ c.phase = .arrived false then some rel.toNat else c.regrantAt) ∧
    ((Core.release rel)^[live.count p] c).phase = if p ∈ live then (match c.phase with | .arrived b => .running b | x => x) else c.phase := by
  by_cases listed : p ∈ live
  · obtain ⟨b, hb⟩ := arrived listed
    obtain ⟨n, hn⟩ := Nat.exists_eq_succ_of_ne_zero (List.count_pos_iff.2 listed).ne'
    obtain ⟨phase, lanes⟩ := Core.release_iterate (rel := rel) hb n
    rw [hn, Nat.succ_eq_add_one, phase, lanes, hb]
    exact ⟨by simp [listed], (if_pos listed).symm⟩
  · rw [List.count_eq_zero_of_not_mem listed, if_neg listed, if_neg fun h => listed h.1]
    exact ⟨rfl, rfl⟩

section
variable {s : State} {slot : Nat} {u : Team} (team : s.team slot = some u) (atSites : u.status = .resident ∨ u.status = .leaving)
  (members : s.liveSites u ≠ [])
include team atSites members

theorem barrierRelease_members (arrived : ∀ p ∈ s.liveSites u, ∃ b, (s.getCore p).phase = .arrived b) :
    ∃ t v, exec (.barrierRelease slot) s = .next t ∧ t.team slot = some v ∧
      v.rel = s.tb + BitVec.ofNat 64 (2 * (u.trec.width + u.trec.height) + 32) ∧ t.dram = s.dram ∧
      (∀ p, (p ∉ s.liveSites u → (t.getCore p).parity = (s.getCore p).parity) ∧
        ((s.liveSites u).count p = 1 → (t.getCore p).parity = (s.getCore p).parity + 1)) ∧
      (∀ p, (t.getCore p).regrantAt = if p ∈ s.liveSites u ∧ (s.getCore p).phase = .arrived false then some v.rel.toNat else (s.getCore p).regrantAt) ∧
      ∀ p, (t.getCore p).regs = (s.getCore p).regs ∧ (t.getCore p).phase =
        if p ∈ s.liveSites u then (match (s.getCore p).phase with | .arrived b => .running b | x => x) else (s.getCore p).phase := by
  generalize hrel : s.tb + BitVec.ofNat 64 (2 * (u.trec.width + u.trec.height) + 32) = rel
  let root (w : Team) : Team := { w with rel := rel, stopped := false }
  have cores (p : Nat) : ((s.liveSites u).foldl (fun s p => s.modCore p (Core.release rel)) (s.modTeam slot root)).getCore p =
      (Core.release rel)^[(s.liveSites u).count p] (s.getCore p) := State.getCore_foldl_modCore (f := Core.release rel) (fun _ => rfl) _ _ p
  have shell := State.foldl_shell (fun (t : State) p => t.modCore_shell p (Core.release rel)) (s.liveSites u) (s.modTeam slot root)
  have kept (p : Nat) := Core.release_iterate_keeps rel ((s.liveSites u).count p) (s.getCore p)
  have passed (p : Nat) := Core.release_iterate_count (rel := rel) (arrived p)
  refine ⟨_, root u, execBarrierRelease_eq team atSites members arrived hrel,
    (State.team_of_shell shell slot).trans (State.team_modTeam_same team fun _ => rfl), rfl, (congrArg State.dram shell :), fun p => ⟨fun apart => ?_, fun once => ?_⟩,
    fun p => ?_, fun p => ⟨?_, ?_⟩⟩
  · rw [cores, List.count_eq_zero_of_not_mem apart]
    rfl
  · rw [cores, (kept p).2, once]
    rfl
  · rw [cores]
    exact (passed p).1
  · rw [cores]
    exact (kept p).1
  · rw [cores]
    exact (passed p).2

theorem phaseEnd_members (finished : ∀ p ∈ s.liveSites u, ∃ b, (s.getCore p).phase = .running b ∧ (s.getCore p).ttPending = [])
    (runs : u.stopped = false) (time : u.rel.toNat ≤ s.tb.toNat) (flits : ∀ f ∈ s.flits, f.slot ≠ slot)
    (survivor : ∃ p ∈ s.liveSites u, (s.getCore p).run ≠ .halted)
    (slices : ∀ p ∈ s.liveSites u, (s.getCore p).run = .halted → (s.getCore p).slice = .member slot) :
    ∃ t, exec (.phaseEnd slot) s = .next t ∧ t.dram = s.dram ∧
      ∀ p, (t.getCore p).regs = (s.getCore p).regs ∧ if p ∈ s.liveSites u ∧ (s.getCore p).run = .halted then
        (t.getCore p).finished = true ∧ (t.getCore p).slice = .none ∧ (t.getCore p).phase = .idle else (t.getCore p).phase =
          if p ∈ s.liveSites u then (match (s.getCore p).phase with | .running false => .ended | .running true => .idle | x => x)
          else (s.getCore p).phase := by
  let ended := (s.liveSites u).foldl (fun s p => s.modCore p Core.endPhase) s
  have cores (p : Nat) : ended.getCore p = if p ∈ s.liveSites u then (s.getCore p).endPhase else s.getCore p :=
    State.getCore_foldl_modCore_once (f := Core.endPhase) (fun _ => rfl) Core.endPhase_twice _ _ p
  have shell : ended.shell = s.shell := State.foldl_shell (fun (t : State) p => t.modCore_shell p Core.endPhase) (s.liveSites u) s
  have kept (p : Nat) : (ended.getCore p).finished = (s.getCore p).finished ∧ (ended.getCore p).slice = (s.getCore p).slice ∧
      (ended.getCore p).regs = (s.getCore p).regs := by
    rw [cores]
    split <;> exact ⟨rfl, rfl, rfl⟩
  obtain ⟨alive, hAlive, going⟩ := survivor
  have live := List.mem_filter.1 hAlive
  have halts (q : Nat) : (∃ c ∈ s.liveMembers u, c.run = .halted ∧ c.pcn = q) ↔ q ∈ s.liveSites u ∧ (s.getCore q).run = .halted := by
    constructor
    · rintro ⟨c, hc, halted, rfl⟩
      obtain ⟨p, hp, rfl⟩ := State.mem_liveMembers.1 hc
      rw [State.getCore_pcn]
      exact ⟨hp, halted⟩
    · rintro ⟨hq, halted⟩
      exact ⟨_, State.mem_liveMembers.2 ⟨q, hq, rfl⟩, halted, s.getCore_pcn q⟩
  obtain ⟨same, gone⟩ := State.foldl_haltedGone (slot := slot) (s.liveMembers u) ended ((State.team_of_shell shell slot).trans team)
    ⟨alive, live.1, by simpa [kept] using live.2, fun c hc halted own => going (own ▸ ((halts c.pcn).1 ⟨c, hc, halted, rfl⟩).2)⟩
    fun c hc halted => .inl (by
      obtain ⟨listed, stopped⟩ := (halts c.pcn).1 ⟨c, hc, halted, rfl⟩
      rw [(kept _).2.1, slices _ listed stopped])
  refine ⟨_, execPhaseEnd_eq team atSites members finished runs time flits, (congrArg State.dram (same.trans shell) :), fun p => ?_⟩
  rw [gone]
  simp only [halts]
  split
  next halted =>
    have slice := (kept p).2.1.trans (slices p halted.1 halted.2)
    obtain ⟨done, phase⟩ := Core.sliceGone_member slice
    exact ⟨(Core.sliceGone_regs _).trans (kept p).2.2, done, Core.sliceGone_slice _, phase⟩
  next =>
    refine ⟨(kept p).2.2, ?_⟩
    rw [cores]
    split <;> rfl

end

end Sys2Proof.Machine
end

section
open Sys2Proof.Machine

/-- Settles O32, by what is left of each member after the members' releases, and after their phases' ends and the halted members' ends of slices. -/
theorem barriers : Obligations.Barriers := by
  intro s slot u
  refine ⟨fun issues => ⟨fun member => ⟨fun ended => ?_, fun idle => ?_, fun b taken => ?_, fun idle => ?_⟩, fun outside i hi => ?_, fun closed => ?_⟩,
    fun team atSites members => ⟨barrierRelease_members team atSites members, phaseEnd_members team atSites members⟩⟩
  · rw [execBar_inTeam issues member, ended]
  · rw [execBar_inTeam issues member, idle]
  · rw [execBar_inTeam issues member, execBars_inTeam issues member, execWaitp_eq issues, Core.phaseOpen]
    rcases taken with h | h <;> simp [h]
  · rw [execBars_inTeam issues member]
    rcases idle with h | h <;> rw [h]
  · rcases List.mem_pair.1 hi with rfl | rfl
    · exact execBar_outside issues outside
    · exact execBars_outside issues outside
  · rw [execWaitp_eq issues, Core.phaseOpen]
    rcases closed with h | h <;> simp [h]

end

section
/-! SUPPORT. What an instruction's own writes of 32 bytes and of a register leave to be read (R40, R204, R411). -/

namespace Sys2Proof.Machine

theorem Core.wp_aligned (c : Core) : c.wp % 512 = 0 := Nat.mul_mod_left ..

/-- A write of a double word changes the registers, their poison, the scratchpad and its errors alone. -/
theorem Core.writeDword_eq (c : Core) (a : Nat) (v : Word) : c.writeDword a v = { c with
    regs := (c.writeDword a v).regs, pois := (c.writeDword a v).pois, spad := (c.writeDword a v).spad, ecc := (c.writeDword a v).ecc } := by
  unfold Core.writeDword Core.setReg
  split
  · split <;> rfl
  · rfl

theorem Core.writeDwords_eq (c : Core) (a n v : Nat) : c.writeDwords a n v = { c with
    regs := (c.writeDwords a n v).regs, pois := (c.writeDwords a n v).pois, spad := (c.writeDwords a n v).spad, ecc := (c.writeDwords a n v).ecc } := by
  induction n generalizing c a v with
  | zero => rfl
  | succ n ih =>
    rw [Core.writeDwords, ih, c.writeDword_eq]

/-- A byte of the low double word of a value is that byte of the value. -/
theorem byte_of_low (v : Nat) {i : Nat} (hi : i < 8) : BitVec.ofNat 8 (v % 2 ^ 64 / 256 ^ i) = BitVec.ofNat 8 (v / 256 ^ i) := by
  apply BitVec.eq_of_toNat_eq
  have split : (2 : Nat) ^ 64 = 256 ^ i * 256 ^ (8 - i) := by rw [← Nat.pow_add, show i + (8 - i) = 8 by omega]; norm_num
  have part : 256 ∣ 256 ^ (8 - i) := dvd_pow_self 256 (by omega)
  rw [BitVec.toNat_ofNat, BitVec.toNat_ofNat, split, Nat.mod_mul_right_div_self, Nat.mod_mod_of_dvd _ part]

/-- A byte of a shifted word is that byte of the word. -/
theorem byte_of_shift (n i : Nat) : BitVec.ofNat 8 (n >>> (8 * i)) = BitVec.ofNat 8 (n / 256 ^ i) := by
  rw [Nat.shiftRight_eq_div_pow, Nat.pow_mul]

/-- The bytes of the slots of g1 to g31 after a write of a register: those of its slot are its value's. -/
theorem Core.localByte_setReg (c : Core) (d : Reg) (v : Word) {y : Nat} (slot0 : y < c.wp ∨ c.wp + 8 ≤ y) :
    (c.setReg d v).localByte y = if d ≠ 0 ∧ c.wp + 8 * d.toNat ≤ y ∧ y < c.wp + 8 * d.toNat + 8
      then BitVec.ofNat 8 (v.toNat / 256 ^ (y - (c.wp + 8 * d.toNat))) else c.localByte y := by
  have wp : (c.setReg d v).wp = c.wp := by simp [Core.wp]
  have small := d.isLt
  unfold Core.localByte
  rw [wp]
  by_cases image : c.wp ≤ y ∧ y < c.wp + 256
  · have slot : (y - c.wp) / 8 ≠ 0 := by omega
    rw [if_pos image, if_pos image, Core.cacheSlot, Core.cacheSlot, if_neg slot, if_neg slot]
    by_cases zero : d = 0
    · rw [if_neg fun h => h.1 zero, zero]
      rfl
    · have put : (c.setReg d v).regs = c.regs.put d v := by rw [Core.setReg, if_neg zero]
      rw [put, Regs.get_put]
      by_cases own : d = BitVec.ofNat 5 ((y - c.wp) / 8)
      · have number : d.toNat = (y - c.wp) / 8 := by
          have := congrArg BitVec.toNat own
          rw [BitVec.toNat_ofNat] at this
          omega
        rw [if_pos own, if_pos ⟨zero, by omega, by omega⟩, byte_of_shift, show y - (c.wp + 8 * d.toNat) = (y - c.wp) % 8 by omega]
      · have number : d.toNat ≠ (y - c.wp) / 8 := fun e => own (by
          apply BitVec.eq_of_toNat_eq
          rw [BitVec.toNat_ofNat]
          omega)
        rw [if_neg own, if_neg (by omega)]
  · rw [if_neg image, if_neg image, if_neg (by omega), Core.setReg_chunk, Core.setReg_spad]

section
variable {c : Core} (chunk : c.chunk = none)
include chunk

/-- The bytes after a write of a double word beside the slot of g0. -/
theorem Core.localByte_writeDword {a : Nat} (v : Word) (aligned : a % 8 = 0) {y : Nat} (slot0 : y < c.wp ∨ c.wp + 8 ≤ y)
    (beside : a + 8 ≤ c.wp ∨ c.wp + 8 ≤ a) :
    (c.writeDword a v).localByte y = if a ≤ y ∧ y < a + 8 then BitVec.ofNat 8 (v.toNat / 256 ^ (y - a)) else c.localByte y := by
  have wp := c.wp_aligned
  unfold Core.writeDword
  split
  next image =>
    have number : (BitVec.ofNat 5 ((a - c.wp) / 8)).toNat = (a - c.wp) / 8 := by
      rw [BitVec.toNat_ofNat]
      omega
    have place : c.wp + 8 * ((a - c.wp) / 8) = a := by omega
    have nonzero : BitVec.ofNat 5 ((a - c.wp) / 8) ≠ 0 := fun e => by
      have := number.symm.trans (congrArg BitVec.toNat e)
      rw [show (0 : Reg).toNat = 0 from rfl] at this
      omega
    rw [c.localByte_setReg _ v slot0, number, place]
    simp only [nonzero, ne_eq, not_false_eq_true, true_and]
  next apart =>
    unfold Core.localByte
    rw [show (c.pokeLE a 8 v.toNat).wp = c.wp from rfl, show (c.pokeLE a 8 v.toNat).chunk = c.chunk from rfl, chunk]
    by_cases image : c.wp ≤ y ∧ y < c.wp + 256
    · rw [if_pos image, if_neg (by omega), if_pos image]
      rfl
    · rw [if_neg image, if_neg image]
      show (c.spad.writeBlock a (bytesOf 8 v.toNat)).read y = _
      rw [Memory.read_writeBlock, length_bytesOf]
      split
      next inside => exact bytesOf_getD _ _ _ (by omega)
      next => rfl

/-- The bytes after a write of some double words beside the slot of g0. -/
theorem Core.localByte_writeDwords {a : Nat} (n v : Nat) (aligned : a % 8 = 0) {y : Nat} (slot0 : y < c.wp ∨ c.wp + 8 ≤ y)
    (beside : a + 8 * n ≤ c.wp ∨ c.wp + 8 ≤ a) :
    (c.writeDwords a n v).localByte y = if a ≤ y ∧ y < a + 8 * n then BitVec.ofNat 8 (v / 256 ^ (y - a)) else c.localByte y := by
  have wp := c.wp_aligned
  induction n generalizing c a v with
  | zero => rw [if_neg (by omega)]; rfl
  | succ n ih =>
    have kept := c.writeDword_eq a (BitVec.ofNat 64 v)
    have place : (c.writeDword a (BitVec.ofNat 64 v)).wp = c.wp := by rw [kept]; rfl
    rw [Core.writeDwords, ih (by rw [kept]; exact chunk) _ (by omega) (by rwa [place]) (by rw [place]; omega) (by rwa [place]),
      Core.localByte_writeDword chunk _ aligned slot0 (by omega), BitVec.toNat_ofNat]
    by_cases later : a + 8 ≤ y ∧ y < a + 8 + 8 * n
    · have shifted : 2 ^ 64 * 256 ^ (y - (a + 8)) = 256 ^ (y - a) := by
        rw [show y - a = 8 + (y - (a + 8)) by omega, Nat.pow_add]
        norm_num
      rw [if_pos later, if_pos (by omega), Nat.div_div_eq_div_mul, shifted]
    · rw [if_neg later]
      split
      next first => rw [byte_of_low v (by omega), if_pos (by omega)]
      next => rw [if_neg (by omega)]

end

end Sys2Proof.Machine
end

section
namespace Sys2Proof.Machine

theorem Core.reg_writeDword (c : Core) {a : Nat} (v : Word) {r : Reg} (aligned : a % 8 = 0)
    (apart : c.wp + 8 * r.toNat + 8 ≤ a ∨ a + 8 ≤ c.wp + 8 * r.toNat) :
    (c.writeDword a v).reg r = c.reg r ∧ (c.writeDword a v).poisoned r = c.poisoned r := by
  have wp := c.wp_aligned
  unfold Core.writeDword
  split
  next image =>
    have other : r ≠ BitVec.ofNat 5 ((a - c.wp) / 8) := fun e => by
      have number := congrArg BitVec.toNat e
      rw [BitVec.toNat_ofNat] at number
      omega
    exact ⟨c.reg_setReg_ne v other, by rw [Core.poisoned_setReg, if_neg other]⟩
  next => exact ⟨rfl, rfl⟩

theorem Core.reg_writeDwords (c : Core) {a : Nat} (n v : Nat) {r : Reg} (aligned : a % 8 = 0)
    (apart : c.wp + 8 * r.toNat + 8 ≤ a ∨ a + 8 * n ≤ c.wp + 8 * r.toNat) :
    (c.writeDwords a n v).reg r = c.reg r ∧ (c.writeDwords a n v).poisoned r = c.poisoned r := by
  induction n generalizing c a v with
  | zero => exact ⟨rfl, rfl⟩
  | succ n ih =>
    have place : (c.writeDword a (BitVec.ofNat 64 v)).wp = c.wp := by rw [c.writeDword_eq]; rfl
    obtain ⟨reg, poison⟩ := c.reg_writeDword (BitVec.ofNat 64 v) aligned (r := r) (by omega)
    obtain ⟨later, poisonLater⟩ := ih (c.writeDword a (BitVec.ofNat 64 v)) (v / 2 ^ 64) (a := a + 8) (by omega) (by rw [place]; omega)
    exact ⟨later.trans reg, poisonLater.trans poison⟩

/-- What local operands read: registers, their bits, the scratchpad, the open chunk and the place of the workspace. -/
def Core.view (c : Core) : Regs × BitVec 32 × BitVec 32 × Memory × Option Chunk × BitVec 10 := (c.regs, c.pend, c.pois, c.spad, c.chunk, c.ctl.wpa)

theorem Core.read_of_view {c k : Core} (h : k.view = c.view) :
    (∀ y, k.localByte y = c.localByte y) ∧ (∀ r, k.reg r = c.reg r) ∧ ∀ r, k.poisoned r = c.poisoned r := by
  simp only [Core.view, Prod.mk.injEq] at h
  obtain ⟨regs, pend, pois, spad, chunk, wpa⟩ := h
  refine ⟨fun y => ?_, fun r => by rw [Core.reg, regs, Core.reg], fun r => by rw [Core.poisoned, pois, Core.poisoned]⟩
  simp only [Core.localByte, Core.cacheSlot, Core.slot0, Core.wp, regs, pend, pois, spad, chunk, wpa]
  rfl

/-- A core that has had four double words written, and then a register, whatever else of it changes. -/
theorem Core.wrote32_of {c k : Core} {a v : Nat} {d : Reg} {x : Word} (chunk : c.chunk = none) (aligned : a % 32 = 0)
    (beside : a + 32 ≤ c.wp ∨ c.wp + 8 ≤ a) (same : k.view = ((c.writeDwords a 4 v).setReg d x).view) : wrote32 c k a v d x := by
  obtain ⟨bytes, regs, poison⟩ := Core.read_of_view same
  obtain ⟨written, others⟩ := (c.writeDwords a 4 v).setReg_written d x
  have place : (c.writeDwords a 4 v).wp = c.wp := by rw [c.writeDwords_eq]; rfl
  have wp := c.wp_aligned
  have read {y : Nat} (slot0 : y < c.wp ∨ c.wp + 8 ≤ y) (off : d = 0 ∨ y < c.wp + 8 * d.toNat ∨ c.wp + 8 * d.toNat + 8 ≤ y) :
      k.localByte y = if a ≤ y ∧ y < a + 32 then BitVec.ofNat 8 (v / 256 ^ (y - a)) else c.localByte y := by
    rw [bytes, Core.localByte_setReg _ d x (by rwa [place]), place, if_neg (by rintro ⟨zero, low, high⟩; rcases off with e | h | h; exacts [zero e, by omega, by omega]),
      Core.localByte_writeDwords chunk 4 v (by omega) slot0 (by omega)]
  have small := d.isLt
  refine ⟨⟨(regs d).trans written.1, (poison d).trans written.2⟩, fun i hi off => ?_, fun y outside apart => ?_, fun r other apart => ?_⟩
  · rw [read (by omega) off, if_pos (by omega), Nat.add_sub_cancel_left]
  · rw [read (by omega) (by omega), if_neg (by omega)]
  · obtain ⟨reg, bit⟩ := c.reg_writeDwords 4 v (r := r) (a := a) (by omega) (by omega)
    exact ⟨(regs r).trans ((others r other).1.trans reg), (poison r).trans ((others r other).2.trans bit)⟩

end Sys2Proof.Machine
end

section
/-! SUPPORT. Sorted entries and the eligible ones of a queue (R203, R204, R209). -/

namespace Sys2Proof.Machine

/-! ## Sorting -/

section
variable {α : Type} {le : α → α → Bool} (total : ∀ x y, le x y = true ∨ le y x = true) (trans : ∀ x y z, le x y = true → le y z = true → le x z = true)
include total trans

theorem insertBy_sorted (x : α) (l : List α) (h : l.Pairwise fun y z => le y z = true) : (insertBy le x l).Pairwise fun y z => le y z = true := by
  induction l with
  | nil => exact List.pairwise_singleton _ x
  | cons y l ih =>
    obtain ⟨first, rest⟩ := List.pairwise_cons.1 h
    unfold insertBy
    split
    next less =>
      refine List.pairwise_cons.2 ⟨fun z hz => ?_, h⟩
      rcases List.mem_cons.1 hz with rfl | hz
      · exact less
      · exact trans x y z less (first z hz)
    next more =>
      refine List.pairwise_cons.2 ⟨fun z hz => ?_, ih rest⟩
      rcases (mem_insertBy le x z l).1 hz with rfl | hz
      · exact (total y z).resolve_right more
      · exact first z hz

theorem sortBy_sorted (l : List α) : (sortBy le l).Pairwise fun y z => le y z = true := by
  induction l with
  | nil => exact List.Pairwise.nil
  | cons x l ih => exact insertBy_sorted total trans x _ ih

end

theorem sortEntries_sorted (es : List Entry) : (sortEntries es).Pairwise fun x y => x.key ≤ y.key := by
  unfold sortEntries
  simpa using sortBy_sorted (le := fun (x y : Entry) => decide (x.key ≤ y.key)) (by simp [Nat.le_total]) (by simpa using fun x y z => Nat.le_trans) es

theorem mem_sortEntries {e : Entry} {es : List Entry} : e ∈ sortEntries es ↔ e ∈ es := mem_sortBy ..

/-- The order of keys is that of deadline, TB, source and sequence number (R203). -/
theorem Entry.key_le {e x : Entry} (he : e.seq < 2 ^ 32) (hx : x.seq < 2 ^ 32) (h : e.key ≤ x.key) :
    e.deadline.toNat ≤ x.deadline.toNat ∧ (e.deadline = x.deadline →
      e.tb.toNat ≤ x.tb.toNat ∧ (e.tb = x.tb → e.src.toNat ≤ x.src.toNat ∧ (e.src = x.src → e.seq ≤ x.seq))) := by
  have tbs := e.tb.isLt
  have tbx := x.tb.isLt
  have srcs := e.src.isLt
  have srcx := x.src.isLt
  unfold Entry.key at h
  refine ⟨by omega, fun deadline => ?_⟩
  rw [deadline] at h
  refine ⟨by omega, fun tb => ?_⟩
  rw [tb] at h
  refine ⟨by omega, fun src => ?_⟩
  rw [src] at h
  omega

/-! ## Eligible entries (R204, R209) -/

theorem Body.isMember_iff {b : Body} : b.isMember = true ↔ ∃ r slot i, b = .member r slot i := by
  cases b <;> simp [Body.isMember]

theorem State.mem_eligible (s : State) (p : Nat) (e : Entry) : e ∈ s.eligible p ↔ e ∈ (s.queue (.core p)).entries ∧
    match (s.getCore p).reserved with
    | some slot => ∃ r i, e.body = .member r slot i
    | none => (s.getCore p).finished = false ∧ s.mgmt.state.toNat < 4 ∧ ∀ r slot i, e.body ≠ .member r slot i := by
  unfold State.eligible
  rw [mem_sortEntries]
  cases (s.getCore p).reserved with
  | some slot =>
    rw [List.mem_filter]
    cases e.body <;> simp
  | none =>
    have plain : e.body.isMember = false ↔ ∀ r slot i, e.body ≠ .member r slot i := by
      rw [← Bool.not_eq_true, Body.isMember_iff]
      simp
    have closed : (s.stopping = true ↔ 4 ≤ s.mgmt.state.toNat) := by rw [State.stopping, decide_eq_true_iff]
    dsimp only
    split
    next shut =>
      rw [Bool.or_eq_true, closed] at shut
      simp only [List.not_mem_nil, false_iff]
      rintro ⟨-, going, low, -⟩
      rcases shut with h | h
      · exact absurd (going.symm.trans h) Bool.false_ne_true
      · omega
    next accepts =>
      rw [Bool.or_eq_true, closed, not_or, Bool.not_eq_true, Nat.not_le] at accepts
      rw [List.mem_filter, Bool.not_eq_true', plain]
      simp [accepts]

/-- The first eligible entry is the earliest (R203). -/
theorem State.eligible_earliest {s : State} {p : Nat} (seqs : ∀ x ∈ (s.queue (.core p)).entries, x.seq < 2 ^ 32) {e : Entry} {rest : List Entry}
    (h : s.eligible p = e :: rest) {x : Entry} (hx : x ∈ rest) : e.deadline.toNat ≤ x.deadline.toNat ∧ (e.deadline = x.deadline →
      e.tb.toNat ≤ x.tb.toNat ∧ (e.tb = x.tb → e.src.toNat ≤ x.src.toNat ∧ (e.src = x.src → e.seq ≤ x.seq))) := by
  have sorted : (s.eligible p).Pairwise fun x y => x.key ≤ y.key := sortEntries_sorted _
  have inQueue : ∀ y ∈ s.eligible p, y.seq < 2 ^ 32 := fun y hy => seqs y ((s.mem_eligible p y).1 hy).1
  rw [h] at sorted inQueue
  exact Entry.key_le (inQueue e List.mem_cons_self) (inQueue x (List.mem_cons_of_mem _ hx)) ((List.pairwise_cons.1 sorted).1 x hx)

end Sys2Proof.Machine
end

section
/-! SUPPORT. What scheduling leaves of every core: all but the fields that it works on itself (R204 to R222). -/

namespace Sys2Proof.Machine

/-- A core without what scheduling keeps of it: its slice, its place in a team, its marks and its pending interrupts. -/
def Core.bare (c : Core) : Core := { c with
  slice := .none, irq := (Core.reset 0).irq, finished := false, phase := .idle, parity := 0, leftBar := false, regrantAt := none
  timetable := [], ttDone := [], mailbox := [], reserved := none, marked := none, acked := false, lateIncs := [] }

/-- The package without what scheduling keeps of it, and without its cores. -/
def State.backdrop (s : State) : State := { s with core := Core.reset 0, others := [], queues := [], pulls := [], teams := [], ring := [] }

/-- From s to t nothing has changed but what `g` leaves out of every core and `b` out of the package. -/
structure State.follows {α β : Type} (g : Core → α) (b : State → β) (s t : State) : Prop where
  active : t.core.pcn = s.core.pcn
  cores : ∀ p, g (t.getCore p) = g (s.getCore p)
  rest : b t = b s

namespace State.follows

section
variable {α β : Type} {g : Core → α} {b : State → β}

theorem refl (s : State) : s.follows g b s := ⟨rfl, fun _ => rfl, rfl⟩

theorem trans {s t u : State} (h : s.follows g b t) (k : t.follows g b u) : s.follows g b u :=
  ⟨k.active.trans h.active, fun p => (k.cores p).trans (h.cores p), k.rest.trans h.rest⟩

theorem core {s t : State} (h : s.follows g b t) : g t.core = g s.core := by
  have same := h.cores s.core.pcn
  rwa [State.getCore_active, ← h.active, State.getCore_active] at same

theorem foldl {ι : Type} {f : State → ι → State} (hf : ∀ (s : State) x, s.follows g b (f s x)) (l : List ι) (s : State) :
    s.follows g b (l.foldl f s) := by
  induction l generalizing s with
  | nil => exact .refl s
  | cons x l ih => exact (hf s x).trans (ih _)

theorem modCore (rest : ∀ (s : State) c o, b { s with core := c, others := o } = b s) {f : Core → Core}
    (hf : ∀ c, (f c).pcn = c.pcn ∧ g (f c) = g c) (s : State) (p : Nat) : s.follows g b (s.modCore p f) := by
  refine ⟨State.modCore_pcn (fun c => (hf c).1) s p, fun q => ?_, ?_⟩
  · rw [State.getCore_modCore fun c => (hf c).1]
    split
    · exact (hf _).2
    · rfl
  · unfold State.modCore State.putCore
    split
    · exact rest s _ s.others
    · exact rest s s.core _

theorem withCore (rest : ∀ (s : State) c o, b { s with core := c, others := o } = b s) {s : State} {c : Core} (number : c.pcn = s.core.pcn)
    (same : g c = g s.core) : s.follows g b { s with core := c } := by
  refine ⟨number, fun q => ?_, rest s c s.others⟩
  rw [s.getCore_withCore number]
  split
  next own => rw [same, own, State.getCore_active]
  next => rfl

/-- Less is kept as well. -/
theorem weaken {γ δ : Type} {g' : Core → γ} {b' : State → δ} (hg : ∀ c d, g c = g d → g' c = g' d) (hb : ∀ s t, b s = b t → b' s = b' t) {s t : State}
    (h : s.follows g b t) : s.follows g' b' t := ⟨h.active, fun p => hg _ _ (h.cores p), hb _ _ h.rest⟩

end

end State.follows

/-- From s to t scheduling has worked: every core is as it was but for the fields that scheduling keeps, and so is the package. -/
abbrev State.schedules : State → State → Prop := State.follows Core.bare State.backdrop

/-- A core but for the teams that wait for its site. -/
def Core.unmarked (c : Core) : Core := { c with reserved := none, marked := none }

/-- From s to t sites have settled: nothing has changed but which sites wait for a team or are held for one, and the queues. -/
abbrev State.settles : State → State → Prop := State.follows Core.unmarked State.shell

theorem State.settles.schedules {s t : State} (h : s.settles t) : s.schedules t :=
  State.follows.weaken (g := Core.unmarked) (b := State.shell) (fun _ _ e => (congrArg Core.bare e :)) (fun _ _ e => (congrArg State.backdrop e :)) h

namespace State.settles

theorem setQueue (s : State) (q : SchedQ) : s.settles (s.setQueue q) := ⟨rfl, fun _ => rfl, rfl⟩

theorem overflow (s : State) (i : QueueId) : s.settles (s.overflow i) := by
  unfold State.overflow
  dsimp only
  split
  · exact .refl s
  split
  · exact setQueue s _
  split
  · split
    · exact setQueue s _
    · exact .refl s
  · exact .refl s

theorem settle (s : State) (p : Nat) : s.settles (s.settle p) := by
  unfold State.settle State.idles
  split
  · split
    · refine State.follows.trans ?_ (overflow _ _)
      apply State.follows.modCore (fun _ _ _ => rfl)
      exact fun _ => ⟨rfl, rfl⟩
    · exact .refl s
  · exact .refl s

theorem settleMarked (s : State) : s.settles s.settleMarked := State.follows.foldl settle _ s

end State.settles

namespace State.schedules

theorem retireIfDone (s : State) (slot : Nat) : s.schedules (s.retireIfDone slot) := by
  unfold State.retireIfDone
  split
  · exact .refl s
  next t _ =>
    split
    · exact (State.follows.foldl (State.follows.modCore (f := Core.leaveTeam) (fun _ _ _ => rfl) fun _ => ⟨rfl, rfl⟩) t.sites s).trans ⟨rfl, fun _ => rfl, rfl⟩
    · exact .refl s

theorem memberGone (s : State) : s.schedules s.memberGone := by
  have gone : s.schedules { s with core := s.core.sliceGone } := State.follows.withCore (fun _ _ _ => rfl) s.core.sliceGone_pcn (by unfold Core.sliceGone; cases s.core.slice <;> rfl)
  rw [State.memberGone_eq]
  split
  · exact gone.trans (retireIfDone _ _)
  · exact gone

theorem endSlice (s : State) : s.schedules s.endSlice := (memberGone s).trans (State.settles.settleMarked _).schedules

end State.schedules

/-- A slice that is none of a team's ends on its core alone, when no site waits for a team (R204). -/
theorem State.endSlice_plain {s : State} (slice : ∀ slot, s.core.slice ≠ .member slot) (marks : ∀ c ∈ s.cores, c.marked = none) :
    s.endSlice = { s with core := { s.core with
      slice := .none, irq := { s.core.irq with timer := false, preempt := none, entered := false, budget := false } } } := by
  have core : s.core.sliceGone = { s.core with
      slice := .none, irq := { s.core.irq with timer := false, preempt := none, entered := false, budget := false } } := by
    unfold Core.sliceGone
    split
    next slot h => exact absurd h (slice slot)
    next => rfl
  have gone : s.memberGone = { s with core := s.core.sliceGone } := by
    rw [State.memberGone_eq]
    split
    next slot h => exact absurd h (slice slot)
    next => rfl
  have unmarked : ({ s with core := s.core.sliceGone } : State).cores.filter (fun c => c.marked.isSome) = [] := by
    rw [List.filter_eq_nil_iff]
    intro c hc
    rcases List.mem_cons.1 hc with rfl | hc
    · have : s.core.sliceGone.marked = s.core.marked := by rw [core]
      rw [this, marks _ List.mem_cons_self]
      exact Bool.false_ne_true
    · rw [marks c (List.mem_cons_of_mem _ hc)]
      exact Bool.false_ne_true
  rw [State.endSlice, gone, State.settleMarked, unmarked, core]
  rfl

theorem State.endSlice_slice (s : State) : s.endSlice.core.slice = .none := s.endSlice_sliceKeeps.slice

end Sys2Proof.Machine
end

section
/-! SUPPORT. TAKE (R204, R394, R209, R225). -/

namespace Sys2Proof.Machine

/-! ## Requests for pulls -/

theorem State.requestPull_eq (s : State) (i : QueueId) : s.requestPull i = { s with pulls := (s.requestPull i).pulls } := by
  unfold State.requestPull
  split <;> rfl

theorem State.noteLow_eq (s : State) (i : QueueId) : s.noteLow i = { s with pulls := (s.noteLow i).pulls } := by
  have all (l : List QueueId) (t : State) : l.foldl State.requestPull t = { t with pulls := (l.foldl State.requestPull t).pulls } := by
    induction l generalizing t with
    | nil => rfl
    | cons j l ih =>
      rw [List.foldl_cons, ih, State.requestPull_eq]
  exact all _ s

theorem State.pullCheck_eq (s : State) (i : QueueId) (taken : Nat) : s.pullCheck i taken = { s with pulls := (s.pullCheck i taken).pulls } := by
  have choice (asks : Prop) [Decidable asks] : (if asks then s.requestPull i else s) =
      { s with pulls := (if asks then s.requestPull i else s).pulls } := by
    split
    · exact State.requestPull_eq s i
    · rfl
  exact choice _

theorem State.queue_setQueue (s : State) (q : SchedQ) (i : QueueId) : (s.setQueue q).queue i = if i = q.id then q else s.queue i := by
  unfold State.queue State.setQueue
  split
  next own =>
    subst own
    rw [find?_upsert_same (fun x => x.id == q.id) q (by simp)]
    rfl
  next other =>
    rw [find?_upsert_other (fun x => x.id == q.id) (fun x => x.id == i) q (by simp; exact fun x h e => other (e.symm.trans h)) (by simp; exact fun e => other e.symm)]

theorem State.queue_id (s : State) (i : QueueId) : (s.queue i).id = i := by
  unfold State.queue
  cases h : s.queues.find? fun q => q.id == i with
  | none => rfl
  | some q => simpa using List.find?_some h

/-! ## TAKE -/

/-- A core of whom scheduling alone has worked starts its instructions as before (R129, R135). -/
theorem State.schedules.takes {s t : State} (h : s.schedules t) {reads writes : List Reg} (issues : s.issuesAlone reads writes) {p : Nat}
    (writable : s.operandWritable p) : t.issuesAlone reads writes ∧ t.operandWritable p := by
  have same : ({ s with core := t.core.bare } : State) = { s with core := s.core.bare } := by rw [h.core]
  have start : ({ s with core := s.core.bare } : State).issuesAlone reads writes ∧ ({ s with core := s.core.bare } : State).operandWritable p :=
    ⟨issues, writable⟩
  rw [← same] at start
  exact start

/-- What TAKE does outside a slice (R394). -/
def State.takes (s : State) (d : Reg) (p : Nat) : Res := match s.eligible s.core.pcn with
  | e :: _ => s.takeEffect d p e
  | [] => s.waitTake

section
variable {s : State} {d a : Reg} (issues : s.issuesAlone [a] [d]) (writable : s.operandWritable (s.core.reg a).toNat)
include issues writable

/-- TAKE once its operand has passed its checks (R394). -/
theorem execTake_eq : exec (.take d a) s = if s.core.inSlice && s.core.inPhase then .next s
    else (if s.core.inSlice then s.endSlice else s).takes d (s.core.reg a).toNat := by
  obtain ⟨aligned, granted, beside⟩ := writable
  show execTake d a s = _
  rw [execTake, State.alone_eq_of_issuesAlone issues, if_neg (not_not.2 aligned), State.storeOperand, State.localOperand, granted]
  exact if_neg (by omega)

theorem execTake_outside (outside : s.core.slice = .none) : exec (.take d a) s = s.takes d (s.core.reg a).toNat := by
  have no : s.core.inSlice = false := by rw [Core.inSlice, outside]; rfl
  rw [execTake_eq issues writable, no]
  rfl

/-- TAKE in a slice, outside its phase, ends it as DONE does and takes as outside one (R394). -/
theorem execTake_inSlice (inside : s.core.slice ≠ .none) (noPhase : s.core.inPhase = false) : exec (.take d a) s = exec (.take d a) s.endSlice := by
  have ended := State.schedules.endSlice s
  obtain ⟨issues', writable'⟩ := ended.takes issues writable
  have reg : s.endSlice.core.reg a = s.core.reg a := (congrArg (fun c : Core => c.reg a) ended.core :)
  have yes : s.core.inSlice = true := by rw [Core.inSlice, bne_iff_ne]; exact inside
  rw [execTake_eq issues writable, yes, noPhase, execTake_outside issues' (by rwa [reg]) s.endSlice_slice, reg]
  rfl

end

/-- The core after TAKE of a task or member record, wherever it is reserved (R204, R225, R287). -/
theorem Core.takeEntry_done {c : Core} (chunk : c.chunk = none) {p : Nat} (aligned : p % 32 = 0) (beside : p + 32 ≤ c.wp ∨ c.wp + 8 ≤ p)
    (d : Reg) (r : TaskRec) (sl : Slice) (lcn : Word) (m : Nat) (site : Option Nat) :
    let k := ({ c.takeEntry d p r sl lcn m with reserved := site } : Core).step4.retired
    wrote32 c k p r.value d r.wid ∧ k.pc = c.pc + 4 ∧
      k.ctl = { c.doneFrom.ctl with bg := r.budget.setWidth 64, dl := r.deadline, lcn := lcn, vl := 32 } ∧
      k.gen = (c.ctl.seed ^^^ (lcn * 0x9E3779B97F4A7C15)) ∧ k.nreq = 32 ∧ k.slice = sl := by
  have ctl : ((c.writeDwords p 4 r.value).setReg d r.wid).ctl = c.ctl := by rw [Core.setReg_ctl, c.writeDwords_eq]
  have pc : ((c.writeDwords p 4 r.value).setReg d r.wid).pc = c.pc := by rw [Core.setReg_pc, c.writeDwords_eq]
  have wrote (k : Core) := Core.wrote32_of (k := k) (v := r.value) (d := d) (x := r.wid) chunk aligned beside
  unfold Core.takeEntry
  generalize (c.writeDwords p 4 r.value).setReg d r.wid = w at ctl pc wrote ⊢
  refine ⟨wrote _ rfl, congrArg (· + 4) pc, ?_, congrArg (fun k : Ctl => seedState k.seed lcn) ctl, rfl, rfl⟩
  rw [Core.doneFrom, ← ctl]
  rfl

/-- The package after TAKE of an entry: the entry has left the core's queue, and a pull may be asked for (R394). -/
theorem State.takeEffect_eq (s : State) (d : Reg) (p : Nat) (e : Entry) : ∃ t : State, t.core = s.core ∧ t.others = s.others ∧ t.dram = s.dram ∧ t.l2 = s.l2 ∧
    (t.queue (.core s.core.pcn)).entries = (s.queue (.core s.core.pcn)).entries.filter (fun x => x.key != e.key) ∧
    s.takeEffect d p e = match e.body with
      | .task r => .next { t with core := (s.core.takeEntry d p r .plain r.wid s.core.member).step4.retired }
      | .member r slot m => .next { t with core :=
          ({ s.core.takeEntry d p r (.member slot) (BitVec.ofNat 64 m) m with reserved := none } : Core).step4.retired }
      | .team _ => .next t := by
  let i : QueueId := .core s.core.pcn
  let q := (s.noteLow i).queue i
  let u := (s.noteLow i).setQueue { q with entries := q.entries.filter fun x => x.key != e.key }
  have asked := s.noteLow_eq i
  have own : (u.pullCheck i e.key).queue i = { q with entries := q.entries.filter fun x => x.key != e.key } := by
    have queue : (u.pullCheck i e.key).queue i = u.queue i := by rw [u.pullCheck_eq]; rfl
    rw [queue, State.queue_setQueue, if_pos ((s.noteLow i).queue_id i).symm]
  have same : q = s.queue i := by
    show (s.noteLow i).queue i = s.queue i
    rw [asked]
    rfl
  have core : (u.pullCheck i e.key).core = s.core := by rw [State.pullCheck_core, State.setQueue_core, State.noteLow_core]
  refine ⟨u.pullCheck i e.key, core, ?_, ?_, ?_, ?_, ?_⟩
  · rw [u.pullCheck_eq, State.setQueue_others, asked]
  · rw [u.pullCheck_eq, State.setQueue_dram, asked]
  · rw [u.pullCheck_eq, State.setQueue_l2, asked]
  · rw [own, same]
  · rw [← core]
    unfold State.takeEffect
    cases e.body <;> rfl

end Sys2Proof.Machine
end

section
open Sys2Proof.Machine

/-- Settles O30, by the order of the sorted entries, the end of the slice before TAKE, and the effect of TAKE on the core. -/
theorem taskTake : Obligations.TaskTake := by
  refine ⟨fun s p => ⟨fun e => s.mem_eligible p e, fun seqs e rest h x hx => State.eligible_earliest seqs h hx⟩,
    fun s d a issues writable inside => ⟨fun phase => ?_, fun noPhase => ⟨execTake_inSlice issues writable inside noPhase, s.endSlice_slice⟩,
      fun plain marks => State.endSlice_plain (by simp [plain]) marks⟩,
    fun s d a issues outside writable => ⟨fun e rest r sl lcn first kind => ?_, fun none => ?_⟩⟩
  · rw [execTake_eq issues writable, phase, show s.core.inSlice = true from bne_iff_ne.2 inside]
    rfl
  · obtain ⟨t, core, others, dram, l2, queue, effect⟩ := s.takeEffect_eq d (s.core.reg a).toNat e
    have taken : exec (.take d a) s = s.takeEffect d (s.core.reg a).toNat e := by
      rw [execTake_outside issues writable outside, State.takes, first]
    have written := Core.takeEntry_done issues.2.1 writable.1 writable.2.2 d r
    rcases kind with ⟨body, rfl, rfl⟩ | ⟨slot, m, body, rfl, rfl⟩
    · obtain ⟨wrote, pc, ctl, gen, nreq, slice⟩ := written .plain r.wid s.core.member
        (s.core.takeEntry d (s.core.reg a).toNat r .plain r.wid s.core.member).reserved
      rw [body] at effect
      exact ⟨_, taken.trans effect, wrote, pc, ctl, gen, nreq, slice, queue, others, dram, l2⟩
    · obtain ⟨wrote, pc, ctl, gen, nreq, slice⟩ := written (.member slot) (BitVec.ofNat 64 m) m none
      rw [body] at effect
      exact ⟨_, taken.trans effect, wrote, pc, ctl, gen, nreq, slice, queue, others, dram, l2⟩
  · let w : State := { s with core := { s.core with taking := true } }
    have settled := (State.settles.settle w s.core.pcn).schedules
    have kept := State.settle_sliceKeeps w s.core.pcn
    exact ⟨w.settle s.core.pcn, by rw [execTake_outside issues writable outside, State.takes, none]; rfl, (congrArg Core.taking settled.core :),
      (congrArg Core.pc settled.core :), kept.regs, kept.slice.trans outside, kept.dram⟩

end

section
/-! SUPPORT. Records that instructions copy, and their insertion (R203, R208, R392, R443). -/

namespace Sys2Proof.Machine

/-! ## Errors counted before a trap (R443) -/

theorem heal_ite {n : Nat} {c d : Prop} [Decidable c] [Decidable d] {s t x y : State} (same : c ↔ d) (hs : s = x.heal n) (ht : t = y.heal n) :
    (if c then s else t) = (if d then x else y).heal n := by
  rw [apply_ite (State.heal · n), ← hs, ← ht]
  exact if_congr same rfl rfl

theorem State.modCore_heal (s : State) (n p : Nat) (f : Core → Core) : (s.heal n).modCore p f = (s.modCore p f).heal n := heal_ite Iff.rfl rfl rfl

theorem State.retireIfDone_heal (s : State) (n slot : Nat) : (s.heal n).retireIfDone slot = (s.retireIfDone slot).heal n := by
  have left (l : List Nat) (s : State) : l.foldl (fun s p => s.modCore p Core.leaveTeam) (s.heal n) =
      (l.foldl (fun s p => s.modCore p Core.leaveTeam) s).heal n := by
    induction l generalizing s with
    | nil => rfl
    | cons p l ih => rw [List.foldl_cons, State.modCore_heal, ih, List.foldl_cons]
  unfold State.retireIfDone
  have same : (s.heal n).team slot = s.team slot := rfl
  rw [same]
  cases s.team slot with
  | none => rfl
  | some u => exact heal_ite Iff.rfl (by rw [left]; rfl) rfl

theorem State.memberGone_heal (s : State) (n : Nat) : (s.heal n).memberGone = s.memberGone.heal n := by
  rw [State.memberGone_eq, State.memberGone_eq, State.heal_core]
  split
  · exact State.retireIfDone_heal { s with core := s.core.sliceGone } n _
  · rfl

theorem State.doubleTrap_heal (s : State) (n cause : Nat) (tval epc : Word) : (s.heal n).doubleTrap cause tval epc = (s.doubleTrap cause tval epc).heal n :=
  let t := s.logError s.core.pcn (BitVec.ofNat 8 cause) 3 tval epc
  heal_ite Iff.rfl rfl (State.memberGone_heal { t with core := { t.core with run := .halted, waiting := false, taking := false } } n)

theorem State.trapEntry_heal (s : State) (n cause : Nat) (tval epc : Word) : (s.heal n).trapEntry cause tval epc = (s.trapEntry cause tval epc).heal n := by
  refine heal_ite Iff.rfl (State.doubleTrap_heal s n cause tval epc) (heal_ite Iff.rfl (State.doubleTrap_heal { s with core := s.core.saveArea } n cause tval epc) ?_)
  rw [State.heal_core]
  cases s.core.switchBad s.core.twp with
  | some w => exact State.doubleTrap_heal (({ s with core := s.core.saveArea } : State).logError s.core.pcn 0 5 (BitVec.ofNat 64 w) 0) n cause tval epc
  | none =>
    have order (t : State) (m : Nat) : (t.heal n).heal m = (t.heal m).heal n := congrArg (fun k => { t with corrected := k }) (Nat.add_right_comm ..)
    exact heal_ite Iff.rfl ((congrArg (State.doubleTrap · cause tval epc) (order { s with core := _ } _)).trans (State.doubleTrap_heal ..)) (order { s with core := _ } _)

theorem State.trap_heal (s : State) (n cause : Nat) (tval : Word) : (s.heal n).trap cause tval = healed n (s.trap cause tval) := by
  unfold State.trap State.trapAt
  rw [State.heal_core, State.trapEntry_heal]
  by_cases opened : s.core.chunk.isSome = true
  · rw [if_pos opened, if_pos opened]
    rfl
  · rw [if_neg opened, if_neg opened]
    rfl

/-! ## Records that are copied (R392) -/

/-- An instruction reads a record with the errors that it meets counted, or has it already. -/
theorem State.readRecord_at {s : State} {p n v : Nat} {z : State} (h : s.recordAt p n v z) :
    ∃ m, z = s.heal m ∧ ∀ k, s.readRecord p n k = healed m (k v) := by
  unfold State.recordAt at h
  cases copied : s.core.copied with
  | some x =>
    rw [copied] at h
    obtain ⟨rfl, rfl⟩ := h
    refine ⟨0, rfl, fun k => ?_⟩
    rw [State.readRecord, copied]
    show k x.toNat = _
    cases k x.toNat <;> rfl
  | none =>
    rw [copied] at h
    obtain ⟨⟨aligned, granted, free, near, good⟩, rfl, rfl⟩ := h
    refine ⟨_, rfl, fun k => ?_⟩
    rw [State.readRecord, copied]
    simp only [aligned, State.localOperand, granted, free, near, State.readOperand, good]
    rfl

end Sys2Proof.Machine
end

section
namespace Sys2Proof.Machine

/-! ## Insertion (R203, R208) -/

theorem State.overflow_eq (s : State) (i : QueueId) : s.overflow i = { s with queues := (s.overflow i).queues } := by
  unfold State.overflow
  dsimp only
  split
  · rfl
  split
  · rfl
  split
  · split <;> rfl
  · rfl

/-- A queue that is not over its capacity, and not a reserved core's, sends nothing up (R208). -/
theorem State.overflow_within {s : State} {i : QueueId} (room : (s.queue i).entries.length ≤ i.capacity)
    (free : ∀ p, i = .core p → (s.getCore p).reserved = none) : s.overflow i = s := by
  unfold State.overflow
  dsimp only
  split
  · rfl
  rw [if_neg (by omega)]
  cases i with
  | core p => exact if_neg (by rw [free p rfl]; exact Bool.false_ne_true)
  | _ => rfl

/-- The entry that an insertion of a body makes (R203). -/
theorem State.stampEntry_eq (s : State) (b : Body) (src : BitVec 11) : ∃ l n, s.stampEntry b src =
    ({ s with stamps := l }, ⟨b.withDeadline (s.deadlineFor b.deadline), s.deadlineFor b.deadline, s.tb, src, n⟩) := ⟨_, _, rfl⟩

/-- An insertion changes queues and stamps alone. -/
theorem State.insertBody_eq (s : State) (i : QueueId) (b : Body) (src : BitVec 11) : s.insertBody i b src =
    { s with queues := (s.insertBody i b src).queues, stamps := (s.insertBody i b src).stamps } := by
  unfold State.insertBody State.insert
  dsimp only
  rw [State.overflow_eq]
  rfl

/-- An insertion into a queue with room adds one entry at its end. -/
theorem State.insertBody_queue {s : State} {i : QueueId} (b : Body) (src : BitVec 11) (room : (s.queue i).entries.length < i.capacity)
    (free : ∀ p, i = .core p → (s.getCore p).reserved = none) : ∃ n, ((s.insertBody i b src).queue i).entries =
      (s.queue i).entries ++ [⟨b.withDeadline (s.deadlineFor b.deadline), s.deadlineFor b.deadline, s.tb, src, n⟩] := by
  obtain ⟨l, n, stamped⟩ := s.stampEntry_eq b src
  refine ⟨n, ?_⟩
  unfold State.insertBody State.insert
  rw [stamped]
  dsimp only
  rw [State.overflow_within, State.queue_setQueue, if_pos (State.queue_id _ _).symm]
  · rfl
  · rw [State.queue_setQueue, if_pos (State.queue_id _ _).symm, List.length_append]
    exact room
  · exact free

theorem State.insertDone_waits {s : State} {v : Nat} {i : QueueId} {b : Body} {f : State → State} (full : s.accepts i = false) :
    s.insertDone v i b f = s.hold v := by rw [State.insertDone, full]; rfl

theorem State.insertDone_goes {s : State} {v : Nat} {i : QueueId} {b : Body} {f : State → State} (accepts : s.accepts i = true) :
    s.insertDone v i b f = (f (s.insertBody i b (BitVec.ofNat 11 s.core.pcn))).done id := by rw [State.insertDone, accepts]; rfl

/-! ## SPAWN, SPAWNT, YIELD (R395 to R397) -/

section
variable {s : State} {a : Reg} (issues : s.issuesAlone [a] [])
include issues

theorem execSpawn_eq : exec (.spawn a) s = s.readRecord (s.core.reg a).toNat 32 fun v =>
    if !s.taskOk (taskOf v) then s.trapN 0x09 (s.core.reg a).toNat
    else if !s.earlierDone s.core.pcn then s.hold v
    else s.insertDone v (.core s.core.pcn) (.task (taskOf v)) id := by
  show execSpawn a s = _
  rw [execSpawn, State.alone_eq_of_issuesAlone issues]

theorem execSpawnt_eq : exec (.spawnt a) s = s.readRecord (s.core.reg a).toNat 64 fun v =>
    if !s.teamOk v then s.trapN 0x09 (s.core.reg a).toNat
    else if !s.earlierDone s.core.pcn then s.hold v
    else s.insertDone v .package (.team (teamOf v)) id := by
  show execSpawnt a s = _
  rw [execSpawnt, State.alone_eq_of_issuesAlone issues]

theorem execYield_eq : exec (.yield a) s = if s.core.slice != .plain then s.trap 0x01 ((wordOf (.yield a)).setWidth 64)
    else s.readRecord (s.core.reg a).toNat 32 fun v =>
      if !s.taskOk (taskOf v) then s.trapN 0x09 (s.core.reg a).toNat
      else s.insertDone v (.core s.core.pcn) (.task { taskOf v with budget := s.core.ctl.bg.setWidth 32 }) State.endSlice := by
  show execYield a s = _
  rw [execYield, State.alone_eq_of_issuesAlone issues]

end

end Sys2Proof.Machine
end

section
/-! SUPPORT. What SPAWN, SPAWNT, YIELD, DONE and WIDF leave (R395 to R399). -/

namespace Sys2Proof.Machine

/-! ## Insertions that go on -/

/-- The package after a record has been inserted in a queue by its core, with the errors that its read met counted (R203, R443). -/
def State.insertedFrom (s : State) (m : Nat) (i : QueueId) (b : Body) : State := (s.insertBody i b (BitVec.ofNat 11 s.core.pcn)).heal m

theorem State.insertedFrom_kept (s : State) (m : Nat) (i : QueueId) (b : Body) : (s.insertedFrom m i b).core = s.core ∧
    (s.insertedFrom m i b).others = s.others ∧ (s.insertedFrom m i b).corrected = s.corrected + m := by
  refine ⟨State.insertBody_core .., ?_, ?_⟩
  · rw [State.insertedFrom, State.insertBody_eq]
    rfl
  · rw [State.insertedFrom, State.insertBody_eq]
    rfl

theorem State.free_own {s : State} (free : s.core.reserved = none) (p : Nat) (own : QueueId.core s.core.pcn = .core p) : (s.getCore p).reserved = none := by
  rw [← QueueId.core.inj own, State.getCore_active, free]

/-- From s to t the active core has put a body at the end of a queue, if it had room (R203, R208). -/
def State.added (s t : State) (i : QueueId) (b : Body) : Prop := (s.queue i).entries.length < i.capacity →
  ∃ n, (t.queue i).entries = (s.queue i).entries ++ [⟨b.withDeadline (s.deadlineFor b.deadline), s.deadlineFor b.deadline, s.tb, BitVec.ofNat 11 s.core.pcn, n⟩]

section
variable {s : State} (m : Nat) {v : Nat} {i : QueueId} {b : Body} (accepts : s.accepts i = true) (free : ∀ p, i = .core p → (s.getCore p).reserved = none)
include accepts free

theorem State.insertDone_goesOn : ∃ t, healed m (s.insertDone v i b id) = .next t ∧ t.core = s.core.doneFrom ∧ t.others = s.others ∧
    t.corrected = (s.heal m).corrected ∧ s.added t i b := by
  obtain ⟨core, others, corrected⟩ := s.insertedFrom_kept m i b
  rw [State.insertDone_goes accepts]
  exact ⟨{ s.insertedFrom m i b with core := (s.insertedFrom m i b).core.doneFrom }, rfl, congrArg Core.doneFrom core, others, corrected,
    fun room => State.insertBody_queue b (BitVec.ofNat 11 s.core.pcn) room free⟩

/-- The same for an insertion that ends a plain slice, while no site waits for a team. -/
theorem State.insertDone_ends (plain : s.core.slice = .plain) (marks : ∀ c ∈ s.cores, c.marked = none) :
    ∃ t, healed m (s.insertDone v i b State.endSlice) = .next t ∧ t.core.slice = .none ∧ t.core.pc = s.core.pc + 4 ∧ t.core.regs = s.core.regs ∧
      t.corrected = (s.heal m).corrected ∧ s.added t i b := by
  obtain ⟨core, others, corrected⟩ := s.insertedFrom_kept 0 i b
  have queue (room) := State.insertBody_queue b (BitVec.ofNat 11 s.core.pcn) room free
  rw [State.insertDone_goes accepts]
  unfold State.insertedFrom at core others corrected
  generalize s.insertBody i b (BitVec.ofNat 11 s.core.pcn) = w at core others corrected queue ⊢
  have cores : w.cores = s.cores := congrArg₂ List.cons core others
  have plain' : w.core.slice = .plain := (congrArg Core.slice core).trans plain
  rw [State.endSlice_plain (by simp [plain']) (by rwa [cores])]
  exact ⟨_, rfl, rfl, (congrArg (fun c : Core => c.pc + 4) core :), (congrArg Core.regs core :), (congrArg (· + m) corrected :), queue⟩

end

/-! ## DONE (R215, R399) -/

theorem execDone_outside {s : State} (issues : s.issuesAlone [] []) (outside : s.core.slice = .none) :
    exec .done s = s.trap 0x01 ((wordOf .done).setWidth 64) := by
  show execDone s = _
  rw [execDone, State.alone_eq_of_issuesAlone issues, Core.inSlice, outside]
  rfl

theorem execDone_inSlice {s : State} (issues : s.issuesAlone [] []) (inside : s.core.slice ≠ .none) (noPhase : s.core.inPhase = false) :
    exec .done s = .next { s.endSlice with core := s.endSlice.core.step4.retired } := by
  have yes : s.core.inSlice = true := bne_iff_ne.2 inside
  show execDone s = _
  rw [execDone, State.alone_eq_of_issuesAlone issues, yes, noPhase]
  rfl

theorem State.endSlice_settles (s : State) : s.memberGone.settles s.endSlice := State.settles.settleMarked _

section
variable {s : State} {slot : Nat} (member : s.core.slice = .member slot)
include member

theorem State.memberGone_member : s.memberGone = ({ s with core := s.core.sliceGone } : State).retireIfDone slot := by
  rw [State.memberGone_eq, member]

/-- The end of a member's slice, while its team has members that have not finished: the member has (R215). -/
theorem State.endSlice_finished (stays : ({ s with core := s.core.sliceGone } : State).retireIfDone slot = { s with core := s.core.sliceGone }) :
    s.endSlice.core.finished = true ∧ s.endSlice.team slot = s.team slot := by
  have settled := s.endSlice_settles
  rw [State.memberGone_member member, stays] at settled
  have finished : s.endSlice.core.finished = s.core.sliceGone.finished := (congrArg Core.finished settled.core :)
  exact ⟨finished.trans (Core.sliceGone_member member).1, State.team_of_shell settled.rest slot⟩

theorem State.endSlice_live {u : Team} (team : s.team slot = some u) (live : ∃ p ∈ u.sites, p ≠ s.core.pcn ∧ (s.getCore p).finished = false) :
    s.endSlice.core.finished = true ∧ s.endSlice.team slot = some u := by
  rw [← team]
  refine State.endSlice_finished member (State.retireIfDone_of_live (u := u) team ?_)
  obtain ⟨p, hp, other, going⟩ := live
  exact ⟨p, hp, by rw [s.getCore_withCore s.core.sliceGone_pcn, if_neg other, going]⟩

/-- A team retires with its last member (R215). -/
theorem State.endSlice_retires {u : Team} (team : s.team slot = some u) (placed : u.placedNow = true)
    (all : ∀ p ∈ u.sites, p = s.core.pcn ∨ (s.getCore p).finished = true) : s.endSlice.team slot = none := by
  let w : State := { s with core := s.core.sliceGone }
  have done : (u.placedNow && u.sites.all fun p => (w.getCore p).finished) = true := by
    rw [placed, Bool.true_and, List.all_eq_true]
    intro p hp
    rw [s.getCore_withCore s.core.sliceGone_pcn]
    split
    · exact (Core.sliceGone_member member).1
    next other => exact (all p hp).resolve_left other
  have retired : (w.retireIfDone slot).team slot = none := by
    have here : w.team slot = some u := team
    rw [State.retireIfDone, here]
    dsimp only
    rw [if_pos done]
    simp [State.team]
  have settled := s.endSlice_settles
  rw [State.memberGone_member member] at settled
  exact (State.team_of_shell settled.rest slot).trans retired

end

/-! ## WIDF (R398) -/

theorem State.ownTeam_some {s : State} {u : Team} (h : s.ownTeam = some u) : ∃ slot, s.core.slice = .member slot ∧ s.team slot = some u := by
  unfold State.ownTeam at h
  split at h
  next slot member => exact ⟨slot, member, h⟩
  next => exact absurd h (by simp)

theorem State.ownMailbox_member {s : State} {slot : Nat} {u : Team} (member : s.core.slice = .member slot) (team : s.team slot = some u) :
    s.ownMailbox = BitVec.ofNat 64 (u.gen.toNat * 2 ^ 32 + slot * 2 ^ 16 + s.core.member) := by
  rw [State.ownMailbox, member]
  dsimp only
  rw [team]
  rfl

/-- Outside a team a core's mailbox word names its own number (R409). -/
theorem State.ownMailbox_outside {s : State} (h : s.ownTeam = none) : s.ownMailbox = BitVec.ofNat 64 (0x7F * 2 ^ 16 + s.core.pcn) := by
  have word : mailboxWord 0 0x7F s.core.pcn = BitVec.ofNat 64 (0x7F * 2 ^ 16 + s.core.pcn) := by
    rw [mailboxWord, show (0 : BitVec 16).toNat = 0 from rfl, Nat.zero_mul, Nat.zero_add]
  cases member : s.core.slice with
  | member slot =>
    rw [State.ownTeam, member] at h
    rw [State.ownMailbox, member]
    dsimp only at h ⊢
    rw [h]
    exact word
  | none =>
    rw [State.ownMailbox, member]
    exact word
  | plain =>
    rw [State.ownMailbox, member]
    exact word

theorem Header.field_eq (h : Header) (k : Nat) (wid : Word) :
    h.field k wid = BitVec.ofNat 64 (wid.toNat / 2 ^ (h.widths.take k).sum % 2 ^ h.widths.getD k 0) := by
  rw [Header.field, List.sum_eq_foldl, Nat.shiftRight_eq_div_pow]

section
variable {s : State} {d a : Reg} (issues : s.issuesAlone [a] [d]) (k : BitVec 3)
include issues

theorem execWidf_eq : exec (.widf d a k) s = if k = 6 then s.done fun c => c.setReg d s.ownMailbox
    else if k = 7 ∨ s.header.nf ≤ k.toNat then s.trap 0x01 ((wordOf (.widf d a k)).setWidth 64)
    else s.done fun c => c.setReg d (s.header.field k.toNat (c.reg a)) := by
  show execWidf d a k s = _
  rw [execWidf, State.alone_eq_of_issuesAlone issues]

end

end Sys2Proof.Machine
end

section
open Sys2Proof.Machine

/-- Settles O31, by the record as it was copied, the insertion of one entry, and the end of the slice with what follows of its team. -/
theorem taskInsertions : Obligations.TaskInsertions := by
  refine ⟨fun s a v issues => ⟨fun z record ok waits => ?_, fun z record accepts unreserved => ⟨fun ok earlier => ?_, fun bad => ?_, fun ok plain marks => ?_⟩,
    fun other => ?_, fun z record ok waits => ?_, fun z record accepts => ⟨fun ok earlier => ?_, fun bad => ?_⟩⟩,
    fun s d a k => ⟨fun issues noPhase inside => ?_, execDone_outside, fun issues => ⟨fun small field => ?_, fun six => ?_, fun none => ?_⟩⟩⟩
  · obtain ⟨m, rfl, read⟩ := State.readRecord_at record
    rw [execSpawn_eq issues, read, ok]
    rcases waits with open_ | full
    · rw [open_]
      rfl
    · rw [State.insertDone_waits full, ite_self]
      rfl
  · obtain ⟨m, rfl, read⟩ := State.readRecord_at record
    obtain ⟨t, goes, core, others, corrected, added⟩ := State.insertDone_goesOn (v := v) (b := .task (taskOf v)) m accepts (State.free_own unreserved)
    refine ⟨t, ?_, core, others, corrected, added⟩
    rw [execSpawn_eq issues, read, ok, earlier]
    exact goes
  · obtain ⟨m, rfl, read⟩ := State.readRecord_at record
    rw [execSpawn_eq issues, read, bad, State.trap_heal, State.trapN, BitVec.ofNat_toNat, BitVec.setWidth_eq]
    rfl
  · obtain ⟨m, rfl, read⟩ := State.readRecord_at record
    obtain ⟨t, ends, slice, pc, regs, corrected, added⟩ := State.insertDone_ends (v := v)
      (b := .task { taskOf v with budget := s.core.ctl.bg.setWidth 32 }) m accepts (State.free_own unreserved) plain marks
    refine ⟨t, ?_, slice, pc, regs, corrected, added⟩
    rw [execYield_eq issues, plain, read, ok]
    exact ends
  · rw [execYield_eq issues, if_pos (bne_iff_ne.2 other)]
  · obtain ⟨m, rfl, read⟩ := State.readRecord_at record
    rw [execSpawnt_eq issues, read, ok]
    rcases waits with open_ | full
    · rw [open_]
      rfl
    · rw [State.insertDone_waits full, ite_self]
      rfl
  · obtain ⟨m, rfl, read⟩ := State.readRecord_at record
    obtain ⟨t, goes, core, others, corrected, added⟩ := State.insertDone_goesOn (v := v) (b := .team (teamOf v)) m accepts (by simp)
    refine ⟨t, ?_, core, others, corrected, added⟩
    rw [execSpawnt_eq issues, read, ok, earlier]
    exact goes
  · obtain ⟨m, rfl, read⟩ := State.readRecord_at record
    rw [execSpawnt_eq issues, read, bad, State.trap_heal, State.trapN, BitVec.ofNat_toNat, BitVec.setWidth_eq]
    rfl
  · have ended := (State.schedules.endSlice s).core
    refine ⟨_, execDone_inSlice issues inside noPhase, s.endSlice_slice, (congrArg (·.pc + 4) ended :), (congrArg Core.regs ended :), (congrArg Core.spad ended :),
      s.endSlice_sliceKeeps.dram, fun slot member => ⟨fun gone => ?_, fun u team placed => ⟨State.endSlice_live member team, State.endSlice_retires member team placed⟩⟩⟩
    refine (State.endSlice_finished member ?_).1
    have none : ({ s with core := s.core.sliceGone } : State).team slot = none := gone
    rw [State.retireIfDone, none]
  · have named : ¬(k = 7 ∨ s.header.nf ≤ k.toNat) := by
      rintro (rfl | h)
      · exact absurd small (by decide)
      · omega
    rw [execWidf_eq issues k, if_neg (by rintro rfl; exact absurd small (by decide)), if_neg named, ← Header.field_eq]
    exact ⟨_, rfl, s.setReg_aloneReg d _⟩
  · rw [execWidf_eq issues k, if_pos six]
    refine ⟨_, rfl, ?_⟩
    cases own : s.ownTeam with
    | none =>
      rw [State.ownMailbox_outside own]
      exact s.setReg_aloneReg d _
    | some u =>
      obtain ⟨slot, member, team⟩ := State.ownTeam_some own
      rw [State.ownMailbox_member member team, member]
      exact s.setReg_aloneReg d _
  · have unnamed : k ≠ 6 ∧ (k = 7 ∨ s.header.nf ≤ k.toNat) := by
      rcases none with rfl | ⟨small, h⟩
      · exact ⟨by decide, .inl rfl⟩
      · exact ⟨by rintro rfl; exact absurd small (by decide), .inr h⟩
    rw [execWidf_eq issues k, if_neg unnamed.1, if_pos unnamed.2]

end

section
/-! SUPPORT. What no access at a home touches: queues, teams and registers of the package (R132, R134, R443). -/

namespace Sys2Proof.Machine

/-- The package without its cores, its memory and its numbered writes, and without its error records and outputs. -/
def State.still (s : State) : State := { s with
  core := Core.reset 0, others := [], free := 0, l2 := [], moved := [], tlb := [], dram := [], codes := [], dramBad := [], dramSoft := [], corrected := 0
  metaCache := [], seqNext := 0, seqQueue := [], seqApplied := State.reset.seqApplied, notices := [], commits := 0, submits := [], outputs := []
  mgmt := { s.mgmt with errlog := [], errhead := 0 } }

/-- States that agree on what accesses leave have the same queues, spill region, initial records and management registers but for the error records. -/
theorem State.of_still {s t : State} (h : t.still = s.still) : t.queues = s.queues ∧ t.pulls = s.pulls ∧ t.spill = s.spill ∧ t.spillAt = s.spillAt ∧
    t.initial = s.initial ∧ t.mgmt = { s.mgmt with errlog := t.mgmt.errlog, errhead := t.mgmt.errhead } := by
  have mgmt : { t.mgmt with errlog := [], errhead := 0 } = { s.mgmt with errlog := [], errhead := 0 } := (congrArg State.mgmt h :)
  refine ⟨(congrArg State.queues h :), (congrArg State.pulls h :), (congrArg State.spill h :), (congrArg State.spillAt h :), (congrArg State.initial h :), ?_⟩
  exact (congrArg (fun m : Mgmt => { m with errlog := t.mgmt.errlog, errhead := t.mgmt.errhead }) mgmt :)

/-! ## Memory -/

@[simp] theorem State.dramUse_still (s : State) (flat : Nat) : (s.dramUse flat).still = s.still := by
  rw [State.dramUse_eq]
  rfl

@[simp] theorem State.dramMeets_still (s : State) (flat : Nat) (comp : Bool) : (s.dramMeets flat comp).still = s.still := by
  have used := s.dramUse_still (otherLine (flat / 64 * 64))
  unfold State.dramMeets
  dsimp only
  split
  · split
    · exact used
    · exact used
  · rw [State.metaUse_eq]
    rfl

@[simp] theorem State.dramWrite_still (s : State) (flat : Nat) (data : Line) (comp : Bool) : (s.dramWrite flat data comp).still = s.still :=
  s.dramMeets_still flat comp

@[simp] theorem State.writeBackLine_still (s : State) (l : L2Line) : (s.writeBackLine l).still = s.still := by
  unfold State.writeBackLine
  split
  · dsimp only
    split
    · exact s.dramWrite_still _ l.data _
    · exact s.dramWrite_still _ l.data _
  · rfl

@[simp] theorem State.l2Put_still (s : State) (l : L2Line) : (s.l2Put l).still = s.still := by
  show (s.l2Room l.slice l.line).still = s.still
  unfold State.l2Room
  dsimp only
  split
  · rfl
  · split
    · exact s.writeBackLine_still _
    · rfl

@[simp] theorem State.renew_still (s : State) (sl line : Nat) (leaf : Word) (pa : Nat) : (s.renew sl line leaf pa).still = s.still := by
  unfold State.renew
  split
  · split
    · rfl
    · split
      · exact s.l2Put_still _
      · exact s.writeBackLine_still _
  · rfl

@[simp] theorem State.fill_still (s : State) (sl line : Nat) (leaf : Word) (pa : Nat) : (s.fill sl line leaf pa).1.still = s.still := by
  unfold State.fill
  split
  · rfl
  · dsimp only
    split
    · exact s.dramUse_still _
    · rw [State.l2Put_still, State.dramUse_still]

theorem State.merge_still (s : State) (sl line : Nat) (leaf : Word) (pa : Nat) (mask : BitVec 64) (d : Line) : (s.merge sl line leaf pa mask d).still = s.still := by
  have renewed := s.renew_still sl line leaf pa
  unfold State.merge
  generalize s.renew sl line leaf pa = u at renewed ⊢
  have filled (leaf : Word) (pa : Nat) := (u.fill_still sl line leaf pa).trans renewed
  dsimp only
  split
  · rw [State.l2Put_still, renewed]
  · rw [State.l2Put_still]
    split <;> (dsimp only; split <;> exact filled _ _)

/-! ## Translations and records of faults -/

theorem State.walked_still (s : State) (va : Nat) : (s.walked va).still = s.still := by
  obtain ⟨cache, n, h⟩ := s.walked_frame va
  rw [h]
  rfl

theorem State.noteBad_still (s : State) (va : Nat) (f : FaultInfo) : (s.noteBad va f).still = s.still := by
  unfold State.noteBad
  split <;> rfl

theorem State.noteWalk_still (s : State) (place va : Nat) (f : FaultInfo) : (s.noteWalk place va f).still = s.still := by
  have walks (l : List Nat) (t : State) : (l.foldl (fun t _ => State.walked t va) t).still = t.still := by
    induction l generalizing t with
    | nil => rfl
    | cons x l ih => rw [List.foldl_cons, ih, State.walked_still]
  unfold State.noteWalk State.noteAt
  split
  · dsimp only
    split
    · rfl
    · rw [State.noteBad_still, walks]
  · split
    · rfl
    · split
      · rfl
      · rw [State.noteBad_still, State.walked_still]

theorem State.translate_still {s t : State} {place va : Nat} {q : Req} {e : Word × Bool × Nat} (h : s.translate place va q = .ok (t, e)) :
    t.still = s.still := by
  unfold State.translate at h
  split at h
  · cases h
  · split at h
    · cases h
    · cases h
      show State.still (if _ then s else s.walked va) = _
      split
      · rfl
      · exact s.walked_still va

theorem State.slice_still {s t : State} {sl va : Nat} {q : Req} {e : Word × Nat} (h : s.slice sl va q = .ok (t, e)) : t.still = s.still := by
  unfold State.slice at h
  split at h
  · split at h
    · split at h <;> cases h
      rfl
    · split at h
      · cases h
      next ht =>
        cases h
        rw [State.renew_still, State.translate_still ht]
  · split at h
    · cases h
    next ht =>
      cases h
      exact State.translate_still ht

theorem State.replicaCheck_still {s t : State} {va : Nat} {q : Req} {d : Nat} (h : s.replicaCheck va q d = .ok t) : t.still = s.still := by
  unfold State.replicaCheck at h
  dsimp only at h
  split at h
  · cases ht : s.translate (replHome (lineOf va) d) va q with
    | error f => rw [ht] at h; cases h
    | ok r => rw [ht] at h; cases h; exact State.translate_still ht
  · cases ht : s.slice (replHome (lineOf va) d) va q with
    | error f => rw [ht] at h; cases h
    | ok r => rw [ht] at h; cases h; exact State.slice_still ht

theorem State.denied_still (s : State) (va : Nat) (q : Req) : (s.denied va q).1.still = s.still := by
  unfold State.denied
  generalize ([3, 2, 1, 0] : List Nat) = l
  generalize hs : ((s, 0, 0) : State × BitVec 16 × BitVec 8) = acc
  have start : acc.1.still = s.still := by rw [← hs]
  clear hs
  induction l generalizing acc with
  | nil => exact start
  | cons d l ih =>
    refine ih _ ?_
    dsimp only
    split
    · exact start
    next ht => exact (State.replicaCheck_still ht).trans start

theorem State.writeCheck_still {s t : State} {va : Nat} {q : Req} {d : Dest} (h : s.writeCheck va q = .ok (t, d)) : t.still = s.still := by
  unfold State.writeCheck at h
  dsimp only at h
  split at h
  · split at h
    · split at h
      next ht =>
        cases h
        rw [State.slice_still ht, State.denied_still]
      · cases h
    · cases h
  · split at h
    · cases h
    next ht =>
      cases h
      exact State.slice_still ht

/-! ## Accesses at a home -/

theorem State.numberedWrite_still (s : State) (skip src line : Nat) (dst : Dest) (mask : BitVec 64) (d : Line) (g : Bool) :
    (s.numberedWrite skip src line dst mask d g).still = s.still := by
  unfold State.numberedWrite State.applyWrite
  dsimp only
  split
  · exact State.merge_still ..
  · rfl
  · rfl

/-- Whatever comes of an access at a home, it leaves what no access touches. -/
def HomeRes.leaves (u : State) (r : HomeRes) : Prop := match r with
  | .host s _ | .bad s | .done s _ => s.still = u
  | .fault .. | .wait => True

theorem State.readAt_leaves (s : State) (sl va : Nat) (q : Req) : (s.readAt sl va q).leaves s.still := by
  unfold State.readAt
  split
  · trivial
  next ht =>
    have h := State.slice_still ht
    dsimp only
    split
    · exact (State.fill_still ..).trans h
    · exact (State.fill_still ..).trans h

theorem State.homeRead_leaves (s : State) (die va : Nat) (q : Req) (seq : Bool) : (s.homeRead die va q seq).leaves s.still := by
  unfold State.homeRead
  dsimp only
  split
  · trivial
  next ht =>
    have h := State.slice_still ht
    split
    · exact h
    · split
      · split
        · exact h ▸ State.readAt_leaves ..
        · split
          · exact h ▸ State.readAt_leaves ..
          · trivial
      · split
        · exact (State.fill_still ..).trans h
        · exact (State.fill_still ..).trans h

theorem State.homeWrite_leaves (s : State) (party src va : Nat) (mask : BitVec 64) (d : Line) (q : Req) :
    (s.homeWrite party src va mask d q).leaves s.still := by
  unfold State.homeWrite
  split
  · trivial
  next ht =>
    have h := State.writeCheck_still ht
    split
    · exact h
    · split
      · trivial
      · exact (State.numberedWrite_still ..).trans h
    · split
      · trivial
      · exact (State.numberedWrite_still ..).trans h

end Sys2Proof.Machine
end

section
/-! SUPPORT. Blocks that queues send up, and the spill region (R208, R221). -/

namespace Sys2Proof.Machine

/-! ## Parents -/

theorem QueueId.parent_not_core {i p : QueueId} (h : i.parent = some p) (n : Nat) : p ≠ .core n := by
  cases i <;> simp only [QueueId.parent, Option.some.injEq, reduceCtorEq] at h <;> subst h <;> simp

theorem QueueId.parent_ne {i p : QueueId} (h : i.parent = some p) : p ≠ i := by
  cases i <;> simp only [QueueId.parent, Option.some.injEq, reduceCtorEq] at h <;> subst h <;> simp

theorem QueueId.package_of_no_parent {i : QueueId} (h : i.parent = none) : i = .package := by
  cases i <;> simp only [QueueId.parent, reduceCtorEq] at h
  rfl

theorem State.queue_congr {s t : State} (h : t.queues = s.queues) (i : QueueId) : t.queue i = s.queue i := by rw [State.queue, h, State.queue]

theorem State.ne_queue_id (s : State) {i j : QueueId} (h : j ≠ i) : ¬j = (s.queue i).id := by
  rw [s.queue_id]
  exact h

/-- A block that enters a queue with room for it stands at its end (R208). -/
theorem State.insert_within {s : State} {i : QueueId} {es : List Entry} (room : (s.queue i).entries.length + es.length ≤ i.capacity)
    (free : ∀ p, i = .core p → (s.getCore p).reserved = none) :
    s.insert i es = s.setQueue { s.queue i with entries := (s.queue i).entries ++ es } := by
  refine State.overflow_within ?_ free
  have here : ((s.setQueue { s.queue i with entries := (s.queue i).entries ++ es }).queue i).entries = (s.queue i).entries ++ es := by
    rw [State.queue_setQueue, if_pos (s.queue_id i).symm]
  rw [here, List.length_append]
  exact room

/-! ## The spill region -/

/-- An entry that goes to the spill region stands at its end, whatever came of the write of its record. -/
theorem State.spillIn_eq (s : State) (e : Entry) : ∃ (t : State) (i : Nat), t.still = s.still ∧
    s.spillIn e = { t with spill := t.spill ++ [e], spillAt := t.spillAt ++ [(e.key, i)] } := by
  refine ⟨_, _, ?_, rfl⟩
  split
  · rfl
  next a _ =>
    have left := s.homeWrite_leaves 1536 1536 a (maskOf a e.body.bytes) (dataAt a e.body.bytes e.body.value) Req.write
    split
    next h => rw [h] at left; exact left
    next => exact s.noteWalk_still ..
    next => rfl

theorem State.foldl_spillIn (l : List Entry) (s : State) : (l.foldl State.spillIn s).queues = s.queues ∧ (l.foldl State.spillIn s).initial = s.initial ∧
    (l.foldl State.spillIn s).spill = s.spill ++ l := by
  induction l generalizing s with
  | nil => exact ⟨rfl, rfl, (List.append_nil _).symm⟩
  | cons e l ih =>
    obtain ⟨t, i, same, spilled⟩ := s.spillIn_eq e
    obtain ⟨queues, -, spill, -, initial, -⟩ := State.of_still same
    obtain ⟨restQueues, restInitial, restSpill⟩ := ih (s.spillIn e)
    rw [List.foldl_cons, restQueues, restInitial, restSpill, spilled]
    exact ⟨queues, initial, by rw [spill, List.append_assoc]; rfl⟩

/-- Without a place of this node no record is written. -/
theorem State.spillIn_outside {s : State} (nowhere : ∀ k, s.spillVa k = none) (e : Entry) :
    s.spillIn e = { s with spill := (s.spillIn e).spill, spillAt := (s.spillIn e).spillAt } := by
  unfold State.spillIn
  dsimp only
  rw [nowhere]

theorem State.foldl_spillIn_outside (l : List Entry) {s : State} (nowhere : ∀ k, s.spillVa k = none) :
    l.foldl State.spillIn s = { s with spill := (l.foldl State.spillIn s).spill, spillAt := (l.foldl State.spillIn s).spillAt } := by
  induction l generalizing s with
  | nil => rfl
  | cons e l ih =>
    have alone := State.spillIn_outside nowhere e
    rw [List.foldl_cons, ih (s := s.spillIn e) (by rw [alone]; exact nowhere), alone]

/-- The lowest free place of the spill region is among the first that the search tries. -/
theorem State.spillPlace_eq {s : State} {i : Nat} (free : ∀ x ∈ s.spillAt, x.2 ≠ i) (taken : ∀ j, j < i → ∃ x ∈ s.spillAt, x.2 = j) :
    (List.range (s.spillAt.length + 1)).find? (fun i => !s.spillAt.any fun x => x.2 == i) = some i := by
  have within : i ≤ s.spillAt.length := by
    have places : (List.range i).Subperm (s.spillAt.map (·.2)) := List.subperm_of_subset List.nodup_range fun j hj => by
      obtain ⟨x, hx, rfl⟩ := taken j (List.mem_range.1 hj)
      exact List.mem_map_of_mem hx
    simpa using places.length_le
  rw [List.find?_range_eq_some]
  refine ⟨?_, List.mem_range.2 (by omega), fun j hj => ?_⟩
  · simpa using free
  · obtain ⟨x, hx, rfl⟩ := taken j hj
    simpa using ⟨x.1, hx⟩

theorem State.spillVa_own {s : State} {i : Nat} (low : 2 ^ 32 ≤ s.mgmt.pqsb.toNat + 64 * i) (high : s.mgmt.pqsb.toNat + 64 * i < 2 ^ 57)
    (own : s.isOwn (s.mgmt.pqsb.toNat + 64 * i) = true) : s.spillVa i = some (s.mgmt.pqsb.toNat + 64 * i) := by
  have node : nodeOf (s.mgmt.pqsb.toNat + 64 * i) = s.mgmt.nodew.toNat := by simpa [State.isOwn] using own
  exact if_pos ⟨low, high, node⟩

theorem Entry.bytes_eq (e : Entry) : e.body.bytes = if e.isTeam then 64 else 32 := by
  unfold Body.bytes Entry.isTeam
  cases e.body <;> rfl

section
variable {s : State} {e : Entry} {i : Nat} {l : L2Line} (va : s.spillVa i = some (s.mgmt.pqsb.toNat + 64 * i))
include va

/-- A record is written at the first free place of the spill region (R221). -/
theorem State.spillIn_written (aligned : (s.mgmt.pqsb.toNat + 64 * i) % 64 = 0) (free : ∀ x ∈ s.spillAt, x.2 ≠ i) (taken : ∀ j, j < i → ∃ x ∈ s.spillAt, x.2 = j) (unreserved : s.reservation = none)
    (held : s.heldAtHome (s.mgmt.pqsb.toNat + 64 * i) Req.write l) : (s.spillIn e).spill = s.spill ++ [e] ∧ (s.spillIn e).spillAt = s.spillAt ++ [(e.key, i)] ∧
      writtenAtHome s (s.spillIn e) (s.mgmt.pqsb.toNat + 64 * i) (if e.isTeam then 64 else 32) e.body.value l := by
  let a := s.mgmt.pqsb.toNat + 64 * i
  let mask := maskOf a e.body.bytes
  let data := dataAt a e.body.bytes e.body.value
  let t := s.numberedWrite 1536 1536 (lineOf a) (.own l.leaf l.pa) mask data false
  have spilled : s.spillIn e = { t with spill := t.spill ++ [e], spillAt := t.spillAt ++ [(e.key, i)] } := by
    unfold State.spillIn
    dsimp only
    rw [State.spillPlace_eq free taken, Option.getD_some, va]
    dsimp only
    rw [held.homeWrite_eq unreserved]
  obtain ⟨-, -, spill, spillAt, -⟩ := State.of_still (State.numberedWrite_still s 1536 1536 (lineOf a) (.own l.leaf l.pa) mask data false)
  have written : writesHeld s t (lineOf a) l (l.merged mask data) mask data :=
    State.numberedWrite_held held.1 held.2.1 held.2.2.1 1536 l.leaf l.pa mask data false
  have after : writesHeld s (s.spillIn e) (lineOf a) l (l.merged mask data) mask data := by
    rw [spilled]
    exact ⟨written.find, written.merged, written.commits, written.dram, written.core, written.others⟩
  have fits : a % 64 + e.body.bytes ≤ 64 := by
    rw [aligned, e.bytes_eq]
    split <;> omega
  rw [← e.bytes_eq]
  refine ⟨?_, ?_, after.writtenAtHome fits⟩
  · rw [spilled]
    exact congrArg (· ++ [e]) spill
  · rw [spilled]
    exact congrArg (· ++ [(e.key, i)]) spillAt

/-- A record comes back as it stands at its place (R221). -/
theorem State.spillOut_reread (place : s.spillAt.find? (fun x => x.1 == e.key) = some (e.key, i))
    (held : s.heldAtHome (s.mgmt.pqsb.toNat + 64 * i) Req.read l) : s.spillOut e =
      ({ s with spill := s.spill.filter fun x => x.key != e.key, spillAt := s.spillAt.filter fun x => x.1 != e.key },
        { e with body := e.body.reread (lineGet l.data 0 (if e.isTeam then 64 else 32)) }) := by
  let t : State := { s with spill := s.spill.filter fun x => x.key != e.key, spillAt := s.spillAt.filter fun x => x.1 != e.key }
  have here : t.heldAtHome (s.mgmt.pqsb.toNat + 64 * i) Req.read l := held
  have read : t.homeRead 0 (s.mgmt.pqsb.toNat + 64 * i) Req.read true = .done t l.data := here.homeRead_eq 0 true
  unfold State.spillOut
  dsimp only
  rw [place, Option.map_some, Option.bind_some, va]
  dsimp only
  rw [read, e.bytes_eq]

end

/-! ## BLOCK_TRANSFER (R208) -/

section
variable {s : State} {n : Nat} (block : (s.queue (queueOf n)).upBlock ≠ []) (fed : s.initial = [])
  (room : (s.queue (queueOf n)).entries.length ≤ (queueOf n).capacity)
include block fed room

/-- A block enters a parent with room for it. -/
theorem blockTransfer_parent (unreserved : ∀ p, queueOf n = .core p → (s.getCore p).reserved = none) {p : QueueId} (parent : (queueOf n).parent = some p) (accepts : (s.queue p).upBlock = [])
    (fits : (s.queue p).entries.length + (s.queue (queueOf n)).upBlock.length ≤ p.capacity) : ∃ t : State, exec (.blockTransfer n) s = .next t ∧
      t = { s with queues := t.queues } ∧ t.queue (queueOf n) = { s.queue (queueOf n) with upBlock := [] } ∧
      t.queue p = { s.queue p with entries := (s.queue p).entries ++ (s.queue (queueOf n)).upBlock } ∧
      ∀ j, j ≠ queueOf n → j ≠ p → t.queue j = s.queue j := by
  let i := queueOf n
  let u := s.setQueue { s.queue i with upBlock := [] }
  have other : p ≠ i := QueueId.parent_ne parent
  have above : u.queue p = s.queue p := by rw [State.queue_setQueue, if_neg (s.ne_queue_id other)]
  have full : (s.queue i).upBlock.isEmpty = false := by simpa using block
  have entered : u.insert p (s.queue i).upBlock = u.setQueue { s.queue p with entries := (s.queue p).entries ++ (s.queue i).upBlock } := by
    rw [State.insert_within (by rw [above]; exact fits) fun k e => absurd e (QueueId.parent_not_core parent k), above]
  have own : (u.insert p (s.queue i).upBlock).queue i = { s.queue i with upBlock := [] } := by
    rw [entered, State.queue_setQueue, if_neg (s.ne_queue_id other.symm), State.queue_setQueue, if_pos (s.queue_id i).symm]
  have accepted : s.acceptBlock i = u.insert p (s.queue i).upBlock := by
    have free : s.accepts p = true := by rw [State.accepts, accepts]; rfl
    unfold State.acceptBlock
    dsimp only
    rw [full, parent]
    dsimp only
    rw [if_neg Bool.false_ne_true, if_pos free]
    exact State.overflow_within (by rw [own]; exact room) fun k e => by rw [entered]; exact unreserved k e
  refine ⟨u.insert p (s.queue i).upBlock, ?_, ?_, own, ?_, fun j apart beside => ?_⟩
  · show Host.Outcome.next (State.feed _ (s.acceptBlock i)) = _
    rw [accepted, entered, show (u.setQueue _).initial = [] from fed]
    rfl
  · rw [entered]
    rfl
  · rw [entered, State.queue_setQueue, if_pos (s.queue_id p).symm]
  · rw [entered, State.queue_setQueue, if_neg (s.ne_queue_id beside), State.queue_setQueue, if_neg (s.ne_queue_id apart)]

/-- A block enters the spill region with room for it. -/
theorem blockTransfer_spill (top : (queueOf n).parent = none) (space : 8 + s.spill.length ≤ s.mgmt.pqsn.toNat) : ∃ t : State,
    exec (.blockTransfer n) s = .next t ∧ t.spill = s.spill ++ (s.queue (queueOf n)).upBlock ∧
      t.queue (queueOf n) = { s.queue (queueOf n) with upBlock := [] } ∧ (∀ j, j ≠ queueOf n → t.queue j = s.queue j) ∧
      t = (s.queue (queueOf n)).upBlock.foldl State.spillIn { s with queues := t.queues } ∧
      ((∀ k, s.spillVa k = none) → t = { s with queues := t.queues, spill := t.spill, spillAt := t.spillAt }) := by
  let i := queueOf n
  let u := s.setQueue { s.queue i with upBlock := [] }
  let v := (s.queue i).upBlock.foldl State.spillIn u
  obtain ⟨queues, initial, spill⟩ := State.foldl_spillIn (s.queue i).upBlock u
  have own : v.queue i = { s.queue i with upBlock := [] } := by
    rw [State.queue_congr queues, State.queue_setQueue, if_pos (s.queue_id i).symm]
  have full : (s.queue i).upBlock.isEmpty = false := by simpa using block
  have accepted : s.acceptBlock i = v := by
    have free : 8 ≤ s.spillRoom := by rw [State.spillRoom]; omega
    unfold State.acceptBlock
    dsimp only
    rw [full, top]
    dsimp only
    rw [if_neg Bool.false_ne_true, if_pos free]
    exact State.overflow_within (by rw [own]; exact room) fun k e => absurd (e.symm.trans (QueueId.package_of_no_parent top)) (by simp)
  have start : ({ s with queues := v.queues } : State) = u := by rw [queues]; rfl
  refine ⟨v, ?_, spill, own, fun j apart => ?_, ?_, fun nowhere => ?_⟩
  · show Host.Outcome.next (State.feed _ (s.acceptBlock i)) = _
    rw [accepted, show v.initial = [] from initial.trans fed]
    rfl
  · rw [State.queue_congr queues, State.queue_setQueue, if_neg (s.ne_queue_id apart)]
  · rw [start]
  · rw [queues]
    exact State.foldl_spillIn_outside (s.queue i).upBlock (s := u) nowhere

end

end Sys2Proof.Machine
end

section
/-! SUPPORT. Pulls (R210). -/

namespace Sys2Proof.Machine

/-! ## Sorted lists -/

theorem insertBy_perm {α : Type} (le : α → α → Bool) (x : α) (l : List α) : (insertBy le x l).Perm (x :: l) := by
  induction l with
  | nil => exact .refl _
  | cons y l ih =>
    unfold insertBy
    split
    · exact .refl _
    · exact (ih.cons y).trans (.swap x y l)

theorem sortBy_perm {α : Type} (le : α → α → Bool) (l : List α) : (sortBy le l).Perm l := by
  induction l with
  | nil => exact .refl _
  | cons x l ih => exact (insertBy_perm le x _).trans (ih.cons x)

/-- The first entries of a sorted list are the earliest. -/
theorem sortEntries_take {es : List Entry} (n : Nat) : ((sortEntries es).take n).length = min n es.length ∧
    (∀ e ∈ (sortEntries es).take n, e ∈ es ∧ ∀ x ∈ es, x ∉ (sortEntries es).take n → e.key ≤ x.key) ∧
    ((sortEntries es).take n).Pairwise fun x y => x.key ≤ y.key := by
  have sorted := sortEntries_sorted es
  refine ⟨?_, fun e he => ⟨mem_sortEntries.1 (List.mem_of_mem_take he), fun x hx later => ?_⟩, sorted.sublist (List.take_sublist ..)⟩
  · rw [List.length_take]
    exact congrArg (min n) (sortBy_perm _ es).length_eq
  · have split := mem_sortEntries.2 hx
    rw [← List.take_append_drop n (sortEntries es), List.mem_append] at split
    rw [← List.take_append_drop n (sortEntries es), List.pairwise_append] at sorted
    exact sorted.2.2 e he x (split.resolve_left later)

/-! ## Requests -/

theorem State.requestPulls (l : List QueueId) (s : State) : ∃ k, l.foldl State.requestPull s = { s with pulls := s.pulls ++ k } ∧
    ∀ j, j ∈ s.pulls ++ k ↔ j ∈ s.pulls ∨ j ∈ l := by
  induction l generalizing s with
  | nil => exact ⟨[], by rw [List.append_nil]; rfl, by simp⟩
  | cons i l ih =>
    rw [List.foldl_cons]
    by_cases asked : s.pulls.contains i = true
    · obtain ⟨k, same, mem⟩ := ih s
      have already : i ∈ s.pulls := by simpa using asked
      refine ⟨k, by rw [State.requestPull, if_pos asked, same], fun j => ?_⟩
      rw [mem, List.mem_cons]
      constructor
      · exact fun h => h.imp_right .inr
      · rintro (h | rfl | h)
        exacts [.inl h, .inl already, .inr h]
    · obtain ⟨k, same, mem⟩ := ih { s with pulls := s.pulls ++ [i] }
      refine ⟨i :: k, by rw [State.requestPull, if_neg asked, same, List.append_assoc]; rfl, fun j => ?_⟩
      have := mem j
      simp only [List.mem_append, List.mem_cons] at this ⊢
      tauto

theorem State.noteLow_pulls (s : State) (i : QueueId) : ∃ l, s.noteLow i = { s with pulls := s.pulls ++ l } ∧
    ∀ j, j ∈ s.pulls ++ l ↔ j ∈ s.pulls ∨ j ∈ i.siblings ∧ s.low j = true := by
  obtain ⟨l, same, mem⟩ := s.requestPulls (i.siblings.filter s.low)
  exact ⟨l, same, fun j => by rw [mem, List.mem_filter]⟩

theorem State.askIfLow_eq (s : State) (i : QueueId) : s.askIfLow i = { s with pulls := (s.askIfLow i).pulls } := by
  unfold State.askIfLow
  split
  · exact s.requestPull_eq i
  · rfl

theorem State.mem_askIfLow (s : State) (i j : QueueId) : j ∈ (s.askIfLow i).pulls ↔ j ∈ s.pulls ∨ j = i ∧ s.low i = true := by
  unfold State.askIfLow
  split
  next low =>
    obtain ⟨k, same, mem⟩ := s.requestPulls [i]
    have pulls : (s.requestPull i).pulls = s.pulls ++ k := congrArg State.pulls same
    rw [pulls, mem, List.mem_singleton, and_iff_left low]
  next high => simp [high]

/-- Whether a queue is low depends on the queues and on the cores alone. -/
theorem State.low_congr {s t : State} (queues : t.queues = s.queues) (core : t.core = s.core) (others : t.others = s.others) (i : QueueId) :
    t.low i = s.low i := by
  have queue := State.queue_congr queues i
  cases i <;> simp only [State.low, queue, State.getCore_congr core others]

theorem QueueId.not_mem_siblings_parent {i p : QueueId} (h : i.parent = some p) : i ∉ p.siblings := by
  cases i <;> simp only [QueueId.parent, Option.some.injEq, reduceCtorEq] at h <;> subst h <;> simp [QueueId.siblings]

/-! ## Entries that come back from the spill region (R221) -/

theorem State.spillOut_eq (s : State) (e : Entry) : (s.spillOut e).2.key = e.key ∧
    (s.spillOut e).1.still = ({ s with spill := s.spill.filter fun x => x.key != e.key, spillAt := s.spillAt.filter fun x => x.1 != e.key } : State).still := by
  unfold State.spillOut
  dsimp only
  split
  · exact ⟨rfl, rfl⟩
  next a _ =>
    have left := ({ s with spill := s.spill.filter fun x => x.key != e.key, spillAt := s.spillAt.filter fun x => x.1 != e.key } : State).homeRead_leaves 0 a Req.read true
    split
    next h => rw [h] at left; exact ⟨rfl, left⟩
    next => exact ⟨rfl, State.noteWalk_still ..⟩
    next => exact ⟨rfl, rfl⟩

theorem State.spillOut_outside {s : State} (nowhere : ∀ k, s.spillVa k = none) (e : Entry) : s.spillOut e =
    ({ s with spill := s.spill.filter fun x => x.key != e.key, spillAt := s.spillAt.filter fun x => x.1 != e.key }, e) := by
  unfold State.spillOut
  dsimp only
  cases s.spillAt.find? fun x => x.1 == e.key with
  | none => rfl
  | some x => rw [Option.map_some, Option.bind_some, nowhere]

/-- One more entry comes back from the spill region. -/
def spillOutNext (x : State × List Entry) (e : Entry) : State × List Entry := ((x.1.spillOut e).1, x.2 ++ [(x.1.spillOut e).2])

theorem foldl_spillOut (b : List Entry) (s : State) (out : List Entry) : ∃ d, (b.foldl spillOutNext (s, out)).2 = out ++ d ∧
    d.map Entry.key = b.map Entry.key ∧ (b.foldl spillOutNext (s, out)).1.queues = s.queues ∧ (b.foldl spillOutNext (s, out)).1.pulls = s.pulls ∧
    (b.foldl spillOutNext (s, out)).1.spill = s.spill.filter fun e => b.all fun x => x.key != e.key := by
  induction b generalizing s out with
  | nil => exact ⟨[], (List.append_nil _).symm, rfl, rfl, rfl, by simp⟩
  | cons e b ih =>
    obtain ⟨key, same⟩ := s.spillOut_eq e
    obtain ⟨queues, pulls, spill, -⟩ := State.of_still same
    obtain ⟨d, outs, keys, restQueues, restPulls, restSpill⟩ := ih (s.spillOut e).1 (out ++ [(s.spillOut e).2])
    refine ⟨(s.spillOut e).2 :: d, outs.trans (by simp), by rw [List.map_cons, keys, key, List.map_cons], restQueues.trans queues, restPulls.trans pulls, restSpill.trans ?_⟩
    rw [spill, List.filter_filter]
    refine List.filter_congr fun x _ => ?_
    rw [List.all_cons, Bool.and_comm, show (x.key != e.key) = (e.key != x.key) from bne_comm]

theorem foldl_spillOut_outside (b : List Entry) {s : State} (nowhere : ∀ k, s.spillVa k = none) (out : List Entry) :
    (b.foldl spillOutNext (s, out)).2 = out ++ b ∧ (b.foldl spillOutNext (s, out)).1 = { s with
      spill := (b.foldl spillOutNext (s, out)).1.spill, spillAt := (b.foldl spillOutNext (s, out)).1.spillAt } := by
  induction b generalizing s out with
  | nil => exact ⟨(List.append_nil _).symm, rfl⟩
  | cons e b ih =>
    have alone := State.spillOut_outside nowhere e
    obtain ⟨outs, rest⟩ := ih (s := (s.spillOut e).1) (by rw [alone]; exact nowhere) (out ++ [(s.spillOut e).2])
    refine ⟨outs.trans (by rw [alone]; simp), ?_⟩
    rw [List.foldl_cons, spillOutNext]
    refine rest.trans ?_
    rw [alone]

/-! ## PULL (R210) -/

section
variable {s : State} {n : Nat} (asked : queueOf n ∈ (s.noteLow (queueOf n)).pulls)
  (first : ∀ j ∈ (s.noteLow (queueOf n)).pulls.takeWhile (fun j => j != queueOf n), j.parent = (queueOf n).parent → (s.queue j).upBlock ≠ [])
  (accepts : (s.queue (queueOf n)).upBlock = []) (above : s.above (queueOf n) ≠ [])

/-- The package once queue i has been served: i has no request outstanding any more. -/
def State.pullServed (s : State) (i : QueueId) : State := { s with pulls := (s.noteLow i).pulls.filter fun x => x != i }

include asked first accepts above in
/-- A pull that is to be served takes the earliest entries above (R210). -/
theorem State.doPull_eq : s.doPull (queueOf n) = match (queueOf n).parent with
    | some p =>
      let t := (s.pullServed (queueOf n)).noteLow p
      let b := (sortEntries (s.above (queueOf n))).take 8
      State.askIfLow (((t.setQueue { t.queue p with entries := (t.queue p).entries.filter fun e => !b.contains e }).insert (queueOf n) b).askIfLow (queueOf n)) p
    | none =>
      let r := ((sortEntries (s.above (queueOf n))).take 8).foldl spillOutNext (s.pullServed (queueOf n), [])
      (r.1.insert (queueOf n) r.2).askIfLow (queueOf n) := by
  generalize queueOf n = i at *
  have low := s.noteLow_eq i
  have wants : (s.noteLow i).pulls.contains i = true := by simpa using asked
  have queue (j : QueueId) : (s.noteLow i).queue j = s.queue j := by rw [low]; rfl
  have free : (s.noteLow i).accepts i = true := by
    rw [State.accepts, queue, accepts]
    rfl
  have up : (s.noteLow i).above i = s.above i := by rw [low]; rfl
  have alone : (s.noteLow i).pullAhead i = false := by
    rw [State.pullAhead, List.any_eq_false]
    intro j hj
    rw [Bool.and_eq_true, beq_iff_eq, State.accepts, queue, List.isEmpty_iff]
    exact fun h => first j hj h.1 h.2
  have some : (s.above i).isEmpty = false := by simpa using above
  have served : ({ s.noteLow i with pulls := (s.noteLow i).pulls.filter fun x => x != i } : State) = s.pullServed i := by
    rw [low]
    rfl
  unfold State.doPull
  dsimp only
  rw [wants, free, alone, up, some, served]
  rfl

/-- The entries that a pull takes. -/
def State.pulled (s : State) (i : QueueId) : List Entry := (sortEntries (s.above i)).take 8

/-- A block moves down from a parent into a queue with room for it. -/
theorem State.moveDown_eq {u : State} {i p : QueueId} (parent : i.parent = some p) (b : List Entry) (room : (u.queue i).entries.length + b.length ≤ i.capacity)
    (unreserved : ∀ k, i = .core k → (u.getCore k).reserved = none) :
    ∃ w : State, (u.setQueue { u.queue p with entries := (u.queue p).entries.filter fun e => !b.contains e }).insert i b = w ∧ w = { u with queues := w.queues } ∧
      (w.queue i).entries = (u.queue i).entries ++ b ∧ (w.queue p).entries = (u.queue p).entries.filter fun e => !b.contains e := by
  let v := u.setQueue { u.queue p with entries := (u.queue p).entries.filter fun e => !b.contains e }
  have other : p ≠ i := QueueId.parent_ne parent
  have below : v.queue i = u.queue i := by rw [State.queue_setQueue, if_neg (u.ne_queue_id other.symm)]
  have moved : v.insert i b = v.setQueue { v.queue i with entries := (v.queue i).entries ++ b } := State.insert_within (by rw [below]; exact room) unreserved
  refine ⟨_, moved, rfl, ?_, ?_⟩
  · rw [State.queue_setQueue, if_pos (v.queue_id i).symm, below]
  · rw [State.queue_setQueue, if_neg (v.ne_queue_id other), State.queue_setQueue, if_pos (u.queue_id p).symm]

include asked first accepts above in
/-- A pull from a parent (R210). -/
theorem State.doPull_parent (room : (s.queue (queueOf n)).entries.length + 8 ≤ (queueOf n).capacity)
    (unreserved : ∀ p, queueOf n = .core p → (s.getCore p).reserved = none) {p : QueueId} (parent : (queueOf n).parent = some p) :
    let t := s.doPull (queueOf n)
    let b := s.pulled (queueOf n)
    (t.queue (queueOf n)).entries = (s.queue (queueOf n)).entries ++ b ∧ (queueOf n ∈ t.pulls ↔ t.low (queueOf n) = true) ∧
      (t.queue p).entries = (s.queue p).entries.filter (fun e => !b.contains e) ∧
      (∀ j ∈ p.siblings, s.low j = true → j ∈ t.pulls) ∧ (t.low p = true → p ∈ t.pulls) ∧ t = { s with queues := t.queues, pulls := t.pulls } := by
  have served := State.doPull_eq asked first accepts above
  rw [parent] at served
  dsimp only at served
  generalize queueOf n = i at *
  have short : (s.pulled i).length ≤ 8 := List.length_take_le ..
  obtain ⟨l, noted, mem⟩ := (s.pullServed i).noteLow_pulls p
  obtain ⟨w, moved, only, own, up⟩ := State.moveDown_eq (u := (s.pullServed i).noteLow p) parent (s.pulled i)
    (by rw [noted]; exact (Nat.add_le_add_left short _).trans room) (by rw [noted]; exact unreserved)
  have doPull : s.doPull i = (w.askIfLow i).askIfLow p := by rw [served, ← moved]; rfl
  have pulls : w.pulls = (s.pullServed i).pulls ++ l := by rw [only, noted]
  have absent : i ∉ w.pulls := by
    rw [pulls, mem]
    rintro (h | h)
    · simpa using (List.mem_filter.1 h).2
    · exact QueueId.not_mem_siblings_parent parent h.1
  have first := w.askIfLow_eq i
  have second := (w.askIfLow i).askIfLow_eq p
  have last : (w.askIfLow i).askIfLow p = { w with pulls := ((w.askIfLow i).askIfLow p).pulls } := by
    rw [second, first]
  have lowFirst (j : QueueId) : (w.askIfLow i).low j = w.low j := State.low_congr (by rw [first]) (by rw [first]) (by rw [first]) j
  have lowLast (j : QueueId) : ((w.askIfLow i).askIfLow p).low j = w.low j := State.low_congr (by rw [last]) (by rw [last]) (by rw [last]) j
  have asks (j : QueueId) : j ∈ ((w.askIfLow i).askIfLow p).pulls ↔ (j ∈ w.pulls ∨ j = i ∧ w.low i = true) ∨ j = p ∧ w.low p = true := by
    rw [State.mem_askIfLow, State.mem_askIfLow, lowFirst]
  have queue (j : QueueId) : ((w.askIfLow i).askIfLow p).queue j = w.queue j := State.queue_congr (by rw [last]) j
  have before (j : QueueId) : ((s.pullServed i).noteLow p).queue j = s.queue j := State.queue_congr (by rw [noted]; rfl) j
  have different : i ≠ p := fun e => QueueId.parent_ne parent e.symm
  rw [doPull]
  dsimp only
  rw [queue, queue, lowLast, lowLast, asks, own, up, before, before]
  refine ⟨rfl, ?_, rfl, fun j beside low => (asks j).2 (.inl (.inl ?_)), fun low => (asks p).2 (.inr ⟨rfl, low⟩), ?_⟩
  · simp [absent, different]
  · rw [pulls, mem]
    exact .inr ⟨beside, low⟩
  · rw [last, only, noted]
    rfl

include asked first accepts above in
/-- A pull from the spill region, whose records come back as they stand there (R210, R221). -/
theorem State.doPull_spill (room : (s.queue (queueOf n)).entries.length + 8 ≤ (queueOf n).capacity) (top : (queueOf n).parent = none) :
    let t := s.doPull (queueOf n)
    let b := s.pulled (queueOf n)
    ∃ d, (t.queue (queueOf n)).entries = (s.queue (queueOf n)).entries ++ d ∧ d.map Entry.key = b.map Entry.key ∧
      (queueOf n ∈ t.pulls ↔ t.low (queueOf n) = true) ∧ t.spill = s.spill.filter (fun e => b.all fun x => x.key != e.key) ∧
      ((∀ k, s.spillVa k = none) → d = b ∧ t = { s with queues := t.queues, pulls := t.pulls, spill := t.spill, spillAt := t.spillAt }) := by
  have served := State.doPull_eq asked first accepts above
  rw [top] at served
  dsimp only at served
  generalize queueOf n = i at *
  have short : (s.pulled i).length ≤ 8 := List.length_take_le ..
  obtain ⟨back, outs, keys, queues, pulls, spill⟩ := foldl_spillOut (s.pulled i) (s.pullServed i) []
  have outside (nowhere : ∀ k, s.spillVa k = none) := foldl_spillOut_outside (s.pulled i) (s := s.pullServed i) nowhere []
  have served : s.doPull i = (((s.pulled i).foldl spillOutNext (s.pullServed i, [])).1.insert i ((s.pulled i).foldl spillOutNext (s.pullServed i, [])).2).askIfLow i := served
  generalize (s.pulled i).foldl spillOutNext (s.pullServed i, []) = r at *
  obtain ⟨u, d⟩ := r
  dsimp only at outs queues pulls spill outside served
  rw [List.nil_append] at outs outside
  subst outs
  have length : d.length = (s.pulled i).length := by simpa using congrArg List.length keys
  have here (j : QueueId) : u.queue j = s.queue j := State.queue_congr queues j
  have inserted : u.insert i d = u.setQueue { u.queue i with entries := (u.queue i).entries ++ d } :=
    State.insert_within (by rw [here]; omega) fun k e => absurd (e.symm.trans (QueueId.package_of_no_parent top)) (by simp)
  have asks := (u.insert i d).askIfLow_eq i
  have queue (j : QueueId) : ((u.insert i d).askIfLow i).queue j = (u.insert i d).queue j := State.queue_congr (by rw [asks]) j
  have low (j : QueueId) : ((u.insert i d).askIfLow i).low j = (u.insert i d).low j := State.low_congr (by rw [asks]) (by rw [asks]) (by rw [asks]) j
  have absent : i ∉ (u.insert i d).pulls := by
    rw [inserted, State.setQueue_pulls, pulls]
    exact fun h => by simpa using (List.mem_filter.1 h).2
  rw [served]
  refine ⟨d, ?_, keys, ?_, ?_, fun nowhere => ?_⟩
  · rw [queue, inserted, State.queue_setQueue, if_pos (u.queue_id i).symm, here]
  · rw [State.mem_askIfLow, low]
    simp [absent]
  · rw [asks, inserted]
    exact spill
  · obtain ⟨same, rest⟩ := outside nowhere
    refine ⟨same, ?_⟩
    rw [asks, inserted, rest]
    rfl

end

/-- What a pull leaves of the queue, of what stands above it, and of the requests (R210). -/
theorem pull_leaves {s : State} {n : Nat} (asked : queueOf n ∈ (s.noteLow (queueOf n)).pulls)
    (first : ∀ j ∈ (s.noteLow (queueOf n)).pulls.takeWhile (fun j => j != queueOf n), j.parent = (queueOf n).parent → (s.queue j).upBlock ≠ [])
    (accepts : (s.queue (queueOf n)).upBlock = []) (above : s.above (queueOf n) ≠ [])
    (room : (s.queue (queueOf n)).entries.length + 8 ≤ (queueOf n).capacity)
    (unreserved : ∀ p, queueOf n = .core p → (s.getCore p).reserved = none) :
    ∃ (t : State) (b d : List Entry), exec (.pull n) s = .next t ∧ b.length = min 8 (s.above (queueOf n)).length ∧
      (∀ e ∈ b, e ∈ s.above (queueOf n) ∧ ∀ x ∈ s.above (queueOf n), x ∉ b → e.key ≤ x.key) ∧
      b.Pairwise (fun x y => x.key ≤ y.key) ∧ (t.queue (queueOf n)).entries = (s.queue (queueOf n)).entries ++ d ∧
      (d.map fun e => e.key) = b.map (fun e => e.key) ∧ (queueOf n ∈ t.pulls ↔ t.low (queueOf n) = true) ∧
      (∀ p, (queueOf n).parent = some p → d = b ∧ (t.queue p).entries = (s.queue p).entries.filter (fun e => !b.contains e) ∧
        (∀ j ∈ p.siblings, s.low j = true → j ∈ t.pulls) ∧ (t.low p = true → p ∈ t.pulls) ∧ t = { s with queues := t.queues, pulls := t.pulls }) ∧
      ((queueOf n).parent = none → t.spill = s.spill.filter (fun e => b.all fun x => x.key != e.key) ∧
        ((∀ k, s.spillVa k = none) → d = b ∧ t = { s with queues := t.queues, pulls := t.pulls, spill := t.spill, spillAt := t.spillAt })) := by
  obtain ⟨length, earliest, ordered⟩ := sortEntries_take (es := s.above (queueOf n)) 8
  cases parent : (queueOf n).parent with
  | some p =>
    obtain ⟨own, asks, up, beside, low, rest⟩ := State.doPull_parent asked first accepts above room unreserved parent
    refine ⟨s.doPull (queueOf n), s.pulled (queueOf n), s.pulled (queueOf n), rfl, length, earliest, ordered, own, rfl, asks, fun q same => ?_, nofun⟩
    cases same
    exact ⟨rfl, up, beside, low, rest⟩
  | none =>
    obtain ⟨d, own, keys, asks, spill, rest⟩ := State.doPull_spill asked first accepts above room parent
    exact ⟨s.doPull (queueOf n), s.pulled (queueOf n), d, rfl, length, earliest, ordered, own, keys, asks, nofun, fun _ => ⟨spill, rest⟩⟩


end Sys2Proof.Machine
end

section
/-! SUPPORT. Admission, scan order and placement of teams (R214, R220 to R222). -/

namespace Sys2Proof.Machine

/-! ## Admission (R220) -/

/-- The only entry with the least key stands first among the sorted ones. -/
theorem sortEntries_head {es : List Entry} {e : Entry} (mem : e ∈ es) (least : ∀ x ∈ es, e.key ≤ x.key ∧ (x.key = e.key → x = e)) :
    (sortEntries es).head? = some e := by
  have sorted := sortEntries_sorted es
  have here := mem_sortEntries.2 mem
  have inside : ∀ x ∈ sortEntries es, x ∈ es := fun x => mem_sortEntries.1
  cases h : sortEntries es with
  | nil => rw [h] at here; exact absurd here List.not_mem_nil
  | cons x rest =>
    rw [h] at here sorted inside
    obtain ⟨below, same⟩ := least x (inside x List.mem_cons_self)
    have first : x.key ≤ e.key := by
      rcases List.mem_cons.1 here with rfl | later
      · exact Nat.le_refl _
      · exact (List.pairwise_cons.1 sorted).1 e later
    rw [same (Nat.le_antisymm first below)]
    rfl

/-- A shape within the package, and within a die where it must be, fits at the first origin (R223). -/
theorem TeamRec.fits_of_shape {r : TeamRec} (wide : 1 ≤ r.width) (narrow : r.width ≤ 48) (tall : 1 ≤ r.height) (low : r.height ≤ 32)
    (die : r.onedie = true → r.width ≤ 24 ∧ r.height ≤ 16) : r.fits = true := by
  rw [TeamRec.fits, List.any_eq_true]
  refine ⟨(0, 0), ?_, ?_⟩
  · simp only [origins, List.mem_flatMap, List.mem_map, List.mem_range, Prod.mk.injEq]
    exact ⟨0, by omega, 0, by omega, rfl, rfl⟩
  · rw [Bool.or_eq_true, Bool.not_eq_true']
    by_cases one : r.onedie = true
    · obtain ⟨w, h⟩ := die one
      refine .inr ?_
      simp only [oneDie, Bool.and_eq_true, beq_iff_eq]
      omega
    · exact .inl (by simpa using one)

theorem teamAdmission_admits {s : State} {e : Entry} {r : TeamRec} {slot : Nat} (goes : s.mgmt.state.toNat < 4) (queued : e ∈ (s.queue .package).entries)
    (body : e.body = .team r) (least : ∀ x ∈ (s.queue .package).entries, x.isTeam = true → e.key ≤ x.key ∧ (x.key = e.key → x = e)) (small : slot < 64)
    (free : s.team slot = none) (lowest : ∀ j, j < slot → (s.team j).isSome = true) (fits : r.fits = true) : ∃ (t : State) (m : Team),
      exec .teamAdmission s = .next t ∧ t = { s with queues := t.queues, teams := s.teams ++ [m], gens := t.gens, ring := s.ring ++ [slot] } ∧
        (t.queue .package).entries = (s.queue .package).entries.filter (fun x => x.key != e.key) ∧ m.slot = slot ∧ m.trec = r ∧ m.status = .waiting ∧
        m.placed = false ∧ m.gen = s.nextGen slot ∧ m.images = [] := by
  have team : e.isTeam = true := by rw [Entry.isTeam, body]
  have first : (sortEntries ((s.queue .package).entries.filter Entry.isTeam)).head? = some e := by
    refine sortEntries_head (List.mem_filter.2 ⟨queued, team⟩) fun x hx => ?_
    obtain ⟨inQueue, isTeam⟩ := List.mem_filter.1 hx
    exact least x inQueue isTeam
  have place : (List.range 64).find? (fun i => (s.team i).isNone) = some slot := by
    rw [List.find?_range_eq_some]
    refine ⟨by rw [free]; rfl, List.mem_range.2 small, fun j hj => ?_⟩
    have taken := lowest j hj
    cases h : s.team j with
    | none => rw [h] at taken; exact absurd taken Bool.false_ne_true
    | some u => rfl
  have accepts : s.stopping = false := decide_eq_false (by omega)
  let u := s.setQueue { s.queue .package with entries := (s.queue .package).entries.filter fun x => x.key != e.key }
  refine ⟨{ u with
      teams := s.teams ++ [Team.admitted slot (s.nextGen slot) r]
      gens := upsert (fun x => x.1 == slot) (fun _ => (slot, s.nextGen slot)) (slot, s.nextGen slot) s.gens
      ring := s.ring ++ [slot] }, Team.admitted slot (s.nextGen slot) r, ?_, rfl, ?_, rfl, rfl, rfl, rfl, rfl, rfl⟩
  · show execTeamAdmission s = _
    unfold execTeamAdmission
    dsimp only
    rw [first, place]
    dsimp only
    rw [body]
    dsimp only
    rw [accepts, fits]
    rfl
  · show (u.queue .package).entries = _
    rw [State.queue_setQueue, if_pos (s.queue_id .package).symm]

/-! ## The scan of origins (R214) -/

theorem mem_origins {r : TeamRec} {x y : Nat} : (x, y) ∈ origins r ↔ x + r.width ≤ 48 ∧ y + r.height ≤ 32 := by
  simp only [origins, List.mem_flatMap, List.mem_map, List.mem_range, Prod.mk.injEq]
  constructor
  · rintro ⟨b, hb, a, ha, rfl, rfl⟩
    omega
  · rintro ⟨hx, hy⟩
    exact ⟨y, by omega, x, by omega, rfl, rfl⟩

/-- Origins are tried in rising y, and of one y in rising x. -/
theorem origins_ordered (r : TeamRec) : (origins r).Pairwise fun o q => o.2 < q.2 ∨ o.2 = q.2 ∧ o.1 < q.1 := by
  rw [origins, List.pairwise_flatMap]
  refine ⟨fun y _ => ?_, ?_⟩
  · rw [List.pairwise_map]
    exact (List.pairwise_lt_range).imp fun h => .inr ⟨rfl, h⟩
  · refine (List.pairwise_lt_range).imp fun h o ho q hq => ?_
    obtain ⟨_, _, rfl⟩ := List.mem_map.1 ho
    obtain ⟨_, _, rfl⟩ := List.mem_map.1 hq
    exact .inl h

/-- An origin at which a team may be placed, with sites that pass a test (R214). -/
def Team.allowed (m : Team) (ok : Nat → Bool) (x y : Nat) : Prop :=
  x + m.trec.width ≤ 48 ∧ y + m.trec.height ≤ 32 ∧ (m.placed = true → x % 2 = m.x0 % 2 ∧ y % 4 = m.y0 % 4) ∧
    (m.trec.onedie = true → oneDie m.trec x y = true) ∧ ∀ p ∈ memberSites m.trec x y, ok p = true

theorem Team.scan_first {m : Team} {ok : Nat → Bool} {x y : Nat} (h : m.scan ok = some (x, y)) :
    m.allowed ok x y ∧ ∀ x' y', m.allowed ok x' y' → y < y' ∨ y = y' ∧ x ≤ x' := by
  have passes (o : Nat × Nat) : (((!m.placed || (o.1 % 2 == m.x0 % 2 && o.2 % 4 == m.y0 % 4)) && (!m.trec.onedie || oneDie m.trec o.1 o.2) &&
      (memberSites m.trec o.1 o.2).all ok) = true) ↔ (m.placed = true → o.1 % 2 = m.x0 % 2 ∧ o.2 % 4 = m.y0 % 4) ∧
        (m.trec.onedie = true → oneDie m.trec o.1 o.2 = true) ∧ ∀ p ∈ memberSites m.trec o.1 o.2, ok p = true := by
    cases m.placed <;> cases m.trec.onedie <;> simp [and_assoc]
  obtain ⟨pass, before, after, split, fails⟩ := List.find?_eq_some_iff_append.1 h
  have inside : (x, y) ∈ origins m.trec := by rw [split]; simp
  obtain ⟨wide, tall⟩ := mem_origins.1 inside
  refine ⟨⟨wide, tall, (passes (x, y)).1 pass⟩, fun x' y' ⟨wide', tall', rest⟩ => ?_⟩
  have tried : (x', y') ∈ origins m.trec := mem_origins.2 ⟨wide', tall'⟩
  have ordered := origins_ordered m.trec
  rw [split] at tried ordered
  rcases List.mem_append.1 tried with early | late
  · have fail := fails _ early
    rw [(passes (x', y')).2 rest] at fail
    exact absurd fail Bool.false_ne_true
  · rcases List.mem_cons.1 late with same | later
    · cases same
      exact .inr ⟨rfl, Nat.le_refl _⟩
    · have := (List.pairwise_cons.1 (List.pairwise_append.1 ordered).2.1).1 _ later
      simp only at this
      omega

/-! ## Sites (R213) -/

theorem siteAt_inj {x y a b : Nat} (hx : x < 48) (ha : a < 48) (h : siteAt x y = siteAt a b) : x = a ∧ y = b := by
  unfold siteAt at h
  omega

theorem memberSites_nodup {r : TeamRec} {x y : Nat} (wide : 1 ≤ r.width) (inside : x + r.width ≤ 48) : (memberSites r x y).Nodup := by
  refine List.Nodup.map_on (fun i _ j _ h => ?_) List.nodup_range
  have hi := Nat.mod_lt i (show 0 < r.width by omega)
  have hj := Nat.mod_lt j (show 0 < r.width by omega)
  obtain ⟨col, row⟩ := siteAt_inj (by omega) (by omega) h
  rw [← Nat.div_add_mod i r.width, ← Nat.div_add_mod j r.width, show i / r.width = j / r.width by omega, show i % r.width = j % r.width by omega]

end Sys2Proof.Machine
end

section
/-! SUPPORT. The placement of the ring's head (R214, R222). -/

namespace Sys2Proof.Machine

/-! ## Member records that are delivered -/

/-- A queue of members alone sends nothing up below its capacity, at a reserved site too (R209). -/
theorem State.overflow_members {s : State} {i : QueueId} (room : (s.queue i).entries.length ≤ i.capacity)
    (members : ∀ e ∈ (s.queue i).entries, e.body.isMember = true) : s.overflow i = s := by
  have plain : (s.queue i).entries.any (fun e => !e.body.isMember) = false := by
    rw [List.any_eq_false]
    intro e he
    rw [members e he]
    exact Bool.false_ne_true
  unfold State.overflow
  dsimp only
  split
  · rfl
  rw [if_neg (by omega)]
  cases i with
  | core p => exact if_neg (by rw [plain, Bool.and_false]; exact Bool.false_ne_true)
  | _ => rfl

/-- A member record delivered to an empty queue is all that it holds (R214). -/
theorem State.insertBody_member {s : State} {p : Nat} (empty : s.queue (.core p) = ⟨.core p, [], []⟩) (r : TaskRec) (slot j : Nat) (src : BitVec 11) :
    ∃ l n, s.insertBody (.core p) (.member r slot j) src = ({ s with stamps := l } : State).setQueue
      ⟨.core p, [⟨.member { r with deadline := s.deadlineFor r.deadline } slot j, s.deadlineFor r.deadline, s.tb, src, n⟩], []⟩ := by
  obtain ⟨l, n, stamped⟩ := s.stampEntry_eq (.member r slot j) src
  refine ⟨l, n, ?_⟩
  unfold State.insertBody State.insert
  rw [stamped]
  dsimp only
  have same : ({ s with stamps := l } : State).queue (.core p) = ⟨.core p, [], []⟩ := empty
  rw [same]
  refine State.overflow_members ?_ ?_
  · rw [State.queue_setQueue, if_pos rfl]
    show 1 ≤ 16
    decide
  · rw [State.queue_setQueue, if_pos rfl]
    simp [Body.isMember, Body.withDeadline]

/-- Member record j goes to the site that the pair names. -/
def State.sendRecord (m : Team) (slot : Nat) (s : State) (x : Nat × Nat) : State := s.insertBody (.core x.1) (.member (m.trec.memberRec x.2) slot x.2) 0x7FD

/-- What a delivery leaves in the queue of a site: the member's record, stamped by the package (R203, R214). -/
def State.recordSent (s : State) (m : Team) (slot j : Nat) (q : SchedQ) : Prop := ∃ n, q.entries = [⟨.member
  { m.trec.memberRec j with deadline := s.deadlineFor m.trec.deadline } slot j, s.deadlineFor m.trec.deadline, s.tb, 0x7FD, n⟩]

theorem State.sendRecord_eq (m : Team) (slot : Nat) (s : State) (x : Nat × Nat) :
    s.sendRecord m slot x = { s with queues := (s.sendRecord m slot x).queues, stamps := (s.sendRecord m slot x).stamps } := State.insertBody_eq ..

/-- Deliveries to different sites with empty queues. -/
theorem State.foldl_sendRecord (m : Team) (slot : Nat) (l : List (Nat × Nat)) (s : State) (apart : (l.map Prod.fst).Nodup)
    (empty : ∀ x ∈ l, s.queue (.core x.1) = ⟨.core x.1, [], []⟩) : ∃ u, l.foldl (State.sendRecord m slot) s = u ∧
      u = { s with queues := u.queues, stamps := u.stamps } ∧ (∀ x ∈ l, s.recordSent m slot x.2 (u.queue (.core x.1))) ∧
      ∀ p, p ∉ l.map Prod.fst → u.queue (.core p) = s.queue (.core p) := by
  induction l generalizing s with
  | nil => exact ⟨s, rfl, rfl, by simp, fun _ _ => rfl⟩
  | cons x l ih =>
    obtain ⟨absent, rest⟩ := List.nodup_cons.1 apart
    obtain ⟨stamps, n, first⟩ := State.insertBody_member (empty x List.mem_cons_self) (m.trec.memberRec x.2) slot x.2 0x7FD
    have queue (p : Nat) : (s.sendRecord m slot x).queue (.core p) = if p = x.1 then
        ⟨.core p, [⟨.member { m.trec.memberRec x.2 with deadline := s.deadlineFor m.trec.deadline } slot x.2, s.deadlineFor m.trec.deadline, s.tb, 0x7FD, n⟩], []⟩
        else s.queue (.core p) := by
      rw [State.sendRecord, first, State.queue_setQueue]
      by_cases own : p = x.1
      · subst own
        rw [if_pos rfl, if_pos rfl]
        rfl
      · rw [if_neg fun e => own (QueueId.core.inj e), if_neg own]
        rfl
    have kept := s.sendRecord_eq m slot x
    obtain ⟨u, done, only, members, others⟩ := ih (s.sendRecord m slot x) rest fun y hy => by
      have other : y.1 ≠ x.1 := fun e => absent (e ▸ List.mem_map_of_mem hy)
      rw [queue, if_neg other, empty y (List.mem_cons_of_mem _ hy)]
    refine ⟨u, done, by rw [only, kept], fun y hy => ?_, fun p hp => ?_⟩
    · rcases List.mem_cons.1 hy with rfl | later
      · rw [others _ absent, queue, if_pos rfl]
        exact ⟨n, rfl⟩
      · have here := members y later
        rw [kept] at here
        exact here
    · rw [List.map_cons, List.mem_cons, not_or] at hp
      rw [others p hp.2, queue, if_neg hp.1]

/-! ## TEAM_PLACE (R214, R222) -/

section
variable {s : State} {slot x y : Nat} {rest : List Nat} {m : Team} (ring : s.ring = slot :: rest) (team : s.team slot = some m)
  (noTarget : ∀ c ∈ s.cores, c.forTeam slot = false) (scan : m.scan s.idle = some (x, y)) (goes : s.mgmt.state.toNat < 4)
  (empty : ∀ p ∈ memberSites m.trec x y, s.queue (.core p) = ⟨.core p, [], []⟩)

theorem State.foldl_leaves {α β : Type} (g : State → β) {f : State → α → State} (hf : ∀ s x, g (f s x) = g s) (l : List α) (s : State) :
    g (l.foldl f s) = g s := by
  induction l generalizing s with
  | nil => rfl
  | cons x l ih => exact (ih _).trans (hf s x)

theorem State.modCore_queues (s : State) (p : Nat) (f : Core → Core) : (s.modCore p f).queues = s.queues := by
  unfold State.modCore State.putCore
  split <;> rfl

/-- The sites of the ring's head reserved. -/
def State.headReserved (s : State) (slot : Nat) (sites rest : List Nat) : State :=
  sites.foldl (fun t p => t.modCore p (Core.reserveFor slot)) { s with ring := rest }

/-- A team at its origin, its quantum started. -/
def Team.placedAt (m : Team) (x y : Nat) (due : Word) : Team :=
  { m with x0 := x, y0 := y, placed := true, expired := false, quantumEnd := due, status := if !m.placed then .resident else .arriving }

/-- The ring's head at its sites. -/
def State.headPlaced (s : State) (slot x y : Nat) (rest : List Nat) (m : Team) : State :=
  let u := s.headReserved slot (memberSites m.trec x y) rest
  u.modTeam slot fun t => { t with
    x0 := x, y0 := y, placed := true, expired := false, quantumEnd := u.quantumFrom, status := if !m.placed then .resident else .arriving }

include ring team noTarget scan goes empty in
theorem execTeamPlace_eq : exec .teamPlace s = .next (if !m.placed
    then (memberSites m.trec x y).zipIdx.foldl (State.sendRecord m slot) (s.headPlaced slot x y rest m) else s.headPlaced slot x y rest m) := by
  have free : (s.cores.any fun c => c.forTeam m.slot) = false := by
    rw [State.team_slot team, List.any_eq_false]
    intro c hc
    rw [noTarget c hc]
    exact Bool.false_ne_true
  have accepts : (memberSites m.trec x y).all (fun p => s.accepts (.core p)) = true := by
    rw [List.all_eq_true]
    intro p hp
    rw [State.accepts, empty p hp]
    rfl
  have going : s.stopping = false := decide_eq_false (by omega)
  show execTeamPlace s = _
  unfold execTeamPlace
  rw [ring]
  dsimp only
  rw [team]
  dsimp only
  rw [State.placeAt, free, if_neg Bool.false_ne_true, scan]
  dsimp only
  rw [accepts, going]
  rfl

/-- Where a reserved site's core is left (R405, R409). -/
theorem State.getCore_headReserved (s : State) (slot : Nat) (sites rest : List Nat) (p : Nat) :
    (s.headReserved slot sites rest).getCore p = if p ∈ sites then (s.getCore p).reserveFor slot else s.getCore p :=
  State.getCore_foldl_modCore_once (f := Core.reserveFor slot) (fun _ => rfl) (fun _ => rfl) sites { s with ring := rest } p

include team in
theorem State.headPlaced_leaves : (s.headPlaced slot x y rest m).ring = rest ∧ (s.headPlaced slot x y rest m).dram = s.dram ∧
    (s.headPlaced slot x y rest m).spill = s.spill ∧ (s.headPlaced slot x y rest m).tb = s.tb ∧ (s.headPlaced slot x y rest m).queues = s.queues ∧
    (s.headPlaced slot x y rest m).team slot = some (m.placedAt x y (s.tb + s.mgmt.quantum)) ∧
    ∀ p, (s.headPlaced slot x y rest m).getCore p = if p ∈ memberSites m.trec x y then (s.getCore p).reserveFor slot else s.getCore p := by
  have shell : (s.headReserved slot (memberSites m.trec x y) rest).shell = ({ s with ring := rest } : State).shell :=
    State.foldl_shell (fun (t : State) p => t.modCore_shell p (Core.reserveFor slot)) _ _
  have queues : (s.headReserved slot (memberSites m.trec x y) rest).queues = s.queues :=
    State.foldl_leaves State.queues (fun t p => t.modCore_queues p (Core.reserveFor slot)) _ _
  have cores := s.getCore_headReserved slot (memberSites m.trec x y) rest
  unfold State.headPlaced
  generalize s.headReserved slot (memberSites m.trec x y) rest = u at shell queues cores ⊢
  have here : u.team slot = some m := (State.team_of_shell shell slot).trans team
  have due : u.quantumFrom = s.tb + s.mgmt.quantum := (congrArg State.quantumFrom shell :)
  refine ⟨(congrArg State.ring shell :), (congrArg State.dram shell :), (congrArg State.spill shell :), (congrArg State.tb shell :), queues, ?_, cores⟩
  dsimp only
  rw [due]
  exact State.team_modTeam_same here fun _ => rfl

include ring team noTarget scan goes empty in
theorem teamPlace_places (wide : 1 ≤ m.trec.width) : ∃ (t : State) (u : Team), exec .teamPlace s = .next t ∧ t.ring = rest ∧
    t.team slot = some u ∧ t.dram = s.dram ∧ t.spill = s.spill ∧
    u = { m with x0 := x, y0 := y, placed := true, expired := false, quantumEnd := s.tb + s.mgmt.quantum, status := u.status } ∧
    (m.placed = false → u.status = .resident) ∧ (m.placed = true → u.status = .arriving) ∧
    ∀ i, i < m.trec.size → let p := siteAt (x + i % m.trec.width) (y + i / m.trec.width)
      t.getCore p = (s.getCore p).reserveFor slot ∧ (m.placed = false → s.recordSent m slot i (t.queue (.core p))) ∧
        (m.placed = true → t.queue (.core p) = s.queue (.core p)) := by
  have placed := execTeamPlace_eq ring team noTarget scan goes empty
  obtain ⟨ringed, dram, spill, tb, queues, own, cores⟩ := State.headPlaced_leaves (x := x) (y := y) (rest := rest) team
  have sites (i : Nat) (hi : i < m.trec.size) : siteAt (x + i % m.trec.width) (y + i / m.trec.width) ∈ memberSites m.trec x y :=
    List.mem_map_of_mem (List.mem_range.2 hi)
  cases again : m.placed with
  | true =>
    rw [again] at placed
    refine ⟨_, _, placed, ringed, own, dram, spill, rfl, by simp, fun _ => by simp [Team.placedAt, again], fun i hi => ⟨?_, by simp, fun _ => State.queue_congr queues _⟩⟩
    exact (cores _).trans (if_pos (sites i hi))
  | false =>
    rw [again] at placed
    have apart : ((memberSites m.trec x y).zipIdx.map Prod.fst).Nodup := by
      rw [List.zipIdx_map_fst]
      exact memberSites_nodup wide ((Team.scan_first scan).1.1)
    obtain ⟨u, sent, only, members, -⟩ := State.foldl_sendRecord m slot (memberSites m.trec x y).zipIdx (s.headPlaced slot x y rest m) apart fun z hz => by
      rw [State.queue_congr queues, empty _ (List.fst_mem_of_mem_zipIdx hz)]
    refine ⟨u, m.placedAt x y (s.tb + s.mgmt.quantum), placed.trans (congrArg Host.Outcome.next sent), ?_, ?_, ?_, ?_, rfl, fun _ => by simp [Team.placedAt, again], by simp,
      fun i hi => ⟨?_, fun _ => ?_, by simp⟩⟩
    · rw [only]
      exact ringed
    · rw [only]
      exact own
    · rw [only]
      exact dram
    · rw [only]
      exact spill
    · rw [only]
      exact (cores _).trans (if_pos (sites i hi))
    · have here := members (siteAt (x + i % m.trec.width) (y + i / m.trec.width), i)
        (List.mk_mem_zipIdx_iff_getElem?.2 (by simp [memberSites, hi]))
      unfold State.recordSent State.deadlineFor at here ⊢
      rwa [tb] at here

end

end Sys2Proof.Machine
end

section
/-! SUPPORT. Marked sites and pre-empted teams (R222, R422, R429). -/

namespace Sys2Proof.Machine

/-! ## Pre-empt interrupts -/

/-- What is pending at a running core after a pre-empt of a kind: a context stop is raised beside any but its own (R422, R429). -/
def preemptNext (kind : Nat) : Option (Nat × Bool) → Option (Nat × Bool)
  | some (k, taken) => if (kind != 3 || k == 3) = true then some (k, taken) else some (kind, false)
  | none => some (kind, false)

/-- A pre-empt of kind 1 leaves one that is pending. -/
theorem preemptNext_one (x : Option (Nat × Bool)) : preemptNext 1 x = some (x.getD (1, false)) := by
  rcases x with _ | ⟨k, taken⟩ <;> rfl

theorem preemptNext_twice (kind : Nat) (x : Option (Nat × Bool)) : preemptNext kind (preemptNext kind x) = preemptNext kind x := by
  have new : (kind != 3 || kind == 3) = true := by cases h : kind == 3 <;> simp [bne, h]
  rcases x with _ | ⟨k, taken⟩
  · exact if_pos new
  · by_cases held : (kind != 3 || k == 3) = true
    · simp only [preemptNext, if_pos held]
    · simp only [preemptNext, if_neg held, if_pos new]

/-- A pre-empt raises nothing but itself, at a core that runs. -/
theorem Core.preempt_eq (kind : Nat) (c : Core) : c.preempt kind =
    if c.run = .running then { c with irq := { c.irq with preempt := preemptNext kind c.irq.preempt } } else c := by
  unfold Core.preempt
  dsimp only
  by_cases running : c.run = .running
  · have runs : (c.run != .running) = false := by rw [running]; rfl
    rw [if_pos running, runs, Bool.or_false]
    rcases waiting : c.irq.preempt with _ | ⟨k, taken⟩
    · rfl
    · dsimp only
      by_cases held : (kind != 3 || k == 3) = true
      · rw [if_pos held, preemptNext, if_pos held, ← waiting]
      · rw [if_neg held, preemptNext, if_neg held]
  · have halted : (c.run != .running) = true := bne_iff_ne.2 running
    rw [if_neg running, halted, Bool.or_true]
    rfl

theorem Core.preempt_twice (kind : Nat) (c : Core) : (c.preempt kind).preempt kind = c.preempt kind := by
  rw [c.preempt_eq]
  split
  next running =>
    rw [Core.preempt_eq]
    dsimp only
    rw [if_pos running, preemptNext_twice]
  next halted => rw [Core.preempt_eq, if_neg halted]

/-- A core but for the pre-empt that is pending. -/
def Core.calm (c : Core) : Core := { c with irq := { c.irq with preempt := none } }

theorem Core.preempt_calm (kind : Nat) (c : Core) : (c.preempt kind).calm = c.calm := by
  rw [c.preempt_eq]
  split <;> rfl

theorem Core.preempt_pcn (kind : Nat) (c : Core) : (c.preempt kind).pcn = c.pcn := (congrArg Core.pcn (c.preempt_calm kind) :)

/-! ## Teams that are pre-empted -/

theorem State.mem_liveSites {s : State} {u : Team} {p : Nat} : p ∈ s.liveSites u ↔ p ∈ u.sites ∧ (s.getCore p).finished = false := by
  simp [State.liveSites]

theorem State.preemptTeam_eq (s : State) (u : Team) (kind : Nat) : s.preemptTeam u kind =
    (s.liveSites u).foldl (fun s p => s.modCore p (Core.preempt kind)) (s.modTeam u.slot fun t => { t with status := .leaving }) := by
  rw [State.preemptTeam, State.foldl_members, State.liveMembers_pcns]

/-- A team's pre-empt reaches its members that have not finished. -/
theorem State.preemptTeam_getCore (s : State) (u : Team) (kind q : Nat) : (s.preemptTeam u kind).getCore q =
    if q ∈ u.sites ∧ (s.getCore q).finished = false then (s.getCore q).preempt kind else s.getCore q := by
  have each := State.getCore_foldl_modCore_once (Core.preempt_pcn kind) (Core.preempt_twice kind) (s.liveSites u)
    (s.modTeam u.slot fun t => { t with status := .leaving }) q
  rw [s.preemptTeam_eq, each]
  exact if_congr State.mem_liveSites rfl rfl

theorem State.preemptTeam_shell (s : State) (u : Team) (kind : Nat) : (s.preemptTeam u kind).shell = (s.modTeam u.slot fun t => { t with status := .leaving }).shell := by
  rw [s.preemptTeam_eq]
  exact State.foldl_shell (fun (t : State) p => t.modCore_shell p (Core.preempt kind)) _ _

theorem State.preemptTeam_team (s : State) (u : Team) (kind j : Nat) : (s.preemptTeam u kind).team j =
    (s.team j).map fun t => if t.slot = u.slot then { t with status := .leaving } else t := by
  rw [State.team_of_shell (s.preemptTeam_shell u kind) j]
  exact s.team_modTeam u.slot j fun _ => rfl

theorem State.preemptTeam_queues (s : State) (u : Team) (kind : Nat) : (s.preemptTeam u kind).queues = s.queues := by
  rw [s.preemptTeam_eq]
  exact State.foldl_leaves State.queues (fun t p => t.modCore_queues p (Core.preempt kind)) _ _

/-- The package but for its cores, its queues and its teams. -/
def State.husk (s : State) : State := { s.shell with teams := [] }

/-- Pre-empts of some teams. -/
theorem State.foldl_preemptTeam (kind : Nat) (l : List Team) (s : State) : ∃ t : State, l.foldl (fun s u => s.preemptTeam u kind) s = t ∧ t.husk = s.husk ∧
    t.queues = s.queues ∧ (∀ j, t.team j = (s.team j).map fun v => if ∃ u ∈ l, u.slot = v.slot then { v with status := .leaving } else v) ∧
    ∀ q, t.getCore q = if (∃ u ∈ l, q ∈ u.sites) ∧ (s.getCore q).finished = false then (s.getCore q).preempt kind else s.getCore q := by
  induction l generalizing s with
  | nil => exact ⟨s, rfl, rfl, rfl, by simp, by simp⟩
  | cons u l ih =>
    obtain ⟨t, done, husk, queues, teams, cores⟩ := ih (s.preemptTeam u kind)
    refine ⟨t, done, husk.trans (congrArg (fun x : State => ({ x with teams := [] } : State)) (s.preemptTeam_shell u kind) :), queues.trans (s.preemptTeam_queues u kind),
      fun j => ?_, fun q => ?_⟩
    · rw [teams, s.preemptTeam_team]
      cases s.team j with
      | none => rfl
      | some v =>
        simp only [Option.map_some, List.exists_mem_cons_iff]
        by_cases own : v.slot = u.slot
        · simp [own]
        · have other : u.slot ≠ v.slot := fun e => own e.symm
          simp [own, other]
    · rw [cores, s.preemptTeam_getCore]
      simp only [List.exists_mem_cons_iff]
      by_cases own : q ∈ u.sites ∧ (s.getCore q).finished = false
      · rw [if_pos own, Core.preempt_twice, ite_self, if_pos ⟨.inl own.1, own.2⟩]
      · rw [if_neg own]
        refine if_congr ⟨fun h => ⟨.inr h.1, h.2⟩, fun h => ⟨h.1.resolve_left fun here => own ⟨here, h.2⟩, h.2⟩⟩ rfl rfl

/-! ## Marks (R222) -/

/-- Whether a site is idle depends on its core and its queue, on the teams and on the state of the context. -/
theorem State.idle_congr {s t : State} {p : Nat} (core : t.getCore p = s.getCore p) (queue : t.queue (.core p) = s.queue (.core p)) (shell : t.shell = s.shell) :
    t.idle p = s.idle p := by
  have team : t.siteTeam p = s.siteTeam p := (congrArg (State.siteTeam · p) shell :)
  have stopping : t.stopping = s.stopping := (congrArg State.stopping shell :)
  simp only [State.idle, State.eligible, core, queue, team, stopping]

/-- A site's core after the mark for a team's slot. -/
def Core.markedFor (slot : Nat) (tb : Word) (idle : Bool) (c : Core) : Core :=
  if idle then { c with reserved := some slot, marked := none } else { c with marked := some (slot, tb) }

theorem State.overflow_queue_other (s : State) {i j : QueueId} (other : j ≠ i) : (s.overflow i).queue j = s.queue j := by
  have sent (p : Entry → Bool) : (s.setQueue ((s.queue i).sendUp p)).queue j = s.queue j := by
    rw [State.queue_setQueue, if_neg]
    exact s.ne_queue_id other
  unfold State.overflow
  dsimp only
  split
  · rfl
  split
  · exact sent _
  split
  · split
    · exact sent _
    · rfl
  · rfl

theorem State.mark_leaves (slot : Nat) (s : State) (p : Nat) : (State.mark slot s p).shell = s.shell ∧
    (∀ q, (State.mark slot s p).getCore q = if q = p then (s.getCore q).markedFor slot s.tb (s.idle p) else s.getCore q) ∧
    ∀ q, q ≠ p → (State.mark slot s p).queue (.core q) = s.queue (.core q) := by
  unfold State.mark
  split
  next idle =>
    let reserve (c : Core) : Core := { c with reserved := some slot, marked := none }
    have sent := (s.modCore p reserve).overflow_eq (.core p)
    refine ⟨?_, fun q => ?_, fun q other => ?_⟩
    · exact (congrArg State.shell sent).trans (s.modCore_shell p reserve)
    · have core : ((s.modCore p reserve).overflow (.core p)).getCore q = (s.modCore p reserve).getCore q := by rw [sent]; rfl
      rw [core, State.getCore_modCore (f := reserve) fun _ => rfl, Core.markedFor, if_pos idle]
    · rw [State.overflow_queue_other _ fun e => other (QueueId.core.inj e)]
      exact State.queue_congr (s.modCore_queues p reserve) _
  next busy =>
    let note (c : Core) : Core := { c with marked := some (slot, s.tb) }
    refine ⟨s.modCore_shell p note, fun q => ?_, fun q _ => State.queue_congr (s.modCore_queues p note) _⟩
    rw [State.getCore_modCore (f := note) fun _ => rfl, Core.markedFor, if_neg busy]

/-- Marks of different sites. -/
theorem State.foldl_mark (slot : Nat) (l : List Nat) (s : State) (apart : l.Nodup) : (l.foldl (State.mark slot) s).shell = s.shell ∧
    ∀ q, (l.foldl (State.mark slot) s).getCore q = if q ∈ l then (s.getCore q).markedFor slot s.tb (s.idle q) else s.getCore q := by
  induction l generalizing s with
  | nil => exact ⟨rfl, by simp⟩
  | cons p l ih =>
    obtain ⟨absent, rest⟩ := List.nodup_cons.1 apart
    obtain ⟨shell, cores, queues⟩ := State.mark_leaves slot s p
    obtain ⟨later, others⟩ := ih (State.mark slot s p) rest
    refine ⟨later.trans shell, fun q => ?_⟩
    rw [List.foldl_cons, others, cores]
    by_cases own : q = p
    · subst own
      rw [if_neg absent, if_pos rfl, if_pos List.mem_cons_self]
    · have core := cores q
      rw [if_neg own] at core
      have tb : (State.mark slot s p).tb = s.tb := (congrArg State.tb shell :)
      rw [if_neg own, tb, State.idle_congr core (queues q own) shell]
      exact if_congr (by simp [own]) rfl rfl

/-! ## QUANTUM_END and MARKED_SITE_TIMEOUT (R222) -/

/-- The package once the end of a quantum has been named. -/
def State.expire (s : State) (slot : Nat) : State := s.modTeam slot fun t => { t with expired := true }

section
variable {s : State} {slot : Nat} {m : Team} (team : s.team slot = some m) (resident : m.status = .resident) (due : m.quantumEnd.toNat ≤ s.tb.toNat)
  (goes : s.mgmt.state.toNat < 4)

include resident due goes in
theorem quantumEnd_guard : (m.status != TeamStatus.resident || decide (s.tb.toNat < m.quantumEnd.toNat) || s.stopping) = false := by
  rw [resident, State.stopping, decide_eq_false (by omega), decide_eq_false (by omega)]
  rfl

include team resident due goes

theorem quantumEnd_noHead (ring : s.ring = []) : exec (.quantumEnd slot) s = .next (s.expire slot) := by
  have head : (s.expire slot).ring.head?.bind (s.expire slot).team = none := by
    rw [show (s.expire slot).ring = [] from ring]
    rfl
  show execQuantumEnd slot s = _
  unfold execQuantumEnd
  rw [team]
  dsimp only
  rw [quantumEnd_guard resident due goes, if_neg Bool.false_ne_true]
  unfold State.expire at head ⊢
  rw [head]

/-- The end of a quantum while the ring's head has no target: its sites are marked, and the expired teams on them pre-empted. -/
theorem quantumEnd_eq {k : Nat} {rest : List Nat} {h : Team} {x y : Nat} (ring : s.ring = k :: rest) (head : (s.expire slot).team k = some h)
    (noTarget : ∀ c ∈ s.cores, c.forTeam k = false) (scan : h.scan (s.expire slot).qualifies = some (x, y)) : exec (.quantumEnd slot) s =
      .next (((s.expire slot).teams.filter fun u => (s.expire slot).quantumOver u && u.sites.any (memberSites h.trec x y).contains).foldl
        (fun s u => s.preemptTeam u 1) ((memberSites h.trec x y).foldl (State.mark k) (s.expire slot))) := by
  have found : (s.expire slot).ring.head?.bind (s.expire slot).team = some h := by
    rw [show (s.expire slot).ring = k :: rest from ring, List.head?_cons, Option.bind_some, head]
  have free : ((s.expire slot).cores.any fun c => c.forTeam k) = false := by
    rw [List.any_eq_false]
    intro c hc
    rw [noTarget c hc]
    exact Bool.false_ne_true
  show execQuantumEnd slot s = _
  unfold execQuantumEnd
  rw [team]
  dsimp only
  rw [quantumEnd_guard resident due goes, if_neg Bool.false_ne_true]
  unfold State.expire at found free scan ⊢
  rw [found]
  dsimp only
  rw [State.team_slot head, free, scan]
  rfl

/-- What the choice of the head's target leaves of its sites and of the teams on them. -/
theorem quantumEnd_leaves {k : Nat} {rest : List Nat} {h : Team} {x y : Nat} (ring : s.ring = k :: rest) (head : (s.expire slot).team k = some h)
    (noTarget : ∀ c ∈ s.cores, c.forTeam k = false) (scan : h.scan (s.expire slot).qualifies = some (x, y)) (wide : 1 ≤ h.trec.width) :
    ∃ t, exec (.quantumEnd slot) s = .next t ∧ t.ring = s.ring ∧ t.dram = s.dram ∧
      (∀ p ∈ memberSites h.trec x y, if (s.expire slot).idle p then (t.getCore p).reserved = some k ∧ (t.getCore p).marked = none
        else (t.getCore p).marked = some (k, s.tb) ∧ (t.getCore p).reserved = (s.getCore p).reserved) ∧
      ∀ j v, (s.expire slot).team j = some v → v.status = .resident → v.expired = true ∨ v.quantumEnd.toNat ≤ s.tb.toNat →
        (∃ p ∈ v.sites, p ∈ memberSites h.trec x y) → (t.team j).map (·.status) = some .leaving ∧
          ∀ p ∈ v.sites, (s.getCore p).finished = false → (s.getCore p).run = .running →
            (t.getCore p).irq.preempt = some ((s.getCore p).irq.preempt.getD (1, false)) := by
  have done := quantumEnd_eq team resident due goes ring head noTarget scan
  have old (p : Nat) : (s.expire slot).getCore p = s.getCore p := rfl
  have tb : (s.expire slot).tb = s.tb := rfl
  obtain ⟨shell, marks⟩ := State.foldl_mark k (memberSites h.trec x y) (s.expire slot) (memberSites_nodup wide (Team.scan_first scan).1.1)
  generalize (memberSites h.trec x y).foldl (State.mark k) (s.expire slot) = w at done shell marks
  obtain ⟨t, gone, husk, -, teams, cores⟩ := State.foldl_preemptTeam 1
    ((s.expire slot).teams.filter fun u => (s.expire slot).quantumOver u && u.sites.any (memberSites h.trec x y).contains) w
  have same : t.husk = (s.expire slot).husk := husk.trans (congrArg (fun x : State => ({ x with teams := [] } : State)) shell :)
  have seat (p : Nat) : (t.getCore p).calm = (w.getCore p).calm := by
    rw [cores]
    split
    · exact Core.preempt_calm 1 _
    · rfl
  refine ⟨t, done.trans (congrArg Host.Outcome.next gone), (congrArg State.ring same :), (congrArg State.dram same :), fun p hp => ?_, fun j v found res late hit => ?_⟩
  · have reserved : (t.getCore p).reserved = (w.getCore p).reserved := (congrArg Core.reserved (seat p) :)
    have marked : (t.getCore p).marked = (w.getCore p).marked := (congrArg Core.marked (seat p) :)
    rw [reserved, marked, marks, if_pos hp, Core.markedFor, tb]
    split
    · exact ⟨rfl, rfl⟩
    · exact ⟨rfl, rfl⟩
  · have listed : v ∈ (s.expire slot).teams.filter fun u => (s.expire slot).quantumOver u && u.sites.any (memberSites h.trec x y).contains := by
      rw [List.mem_filter]
      refine ⟨List.mem_of_find?_eq_some found, ?_⟩
      simpa [State.quantumOver, res, tb] using ⟨late, hit⟩
    refine ⟨?_, fun p hp going running => ?_⟩
    · rw [teams, State.team_of_shell shell, found, Option.map_some, if_pos ⟨v, listed, rfl⟩]
      rfl
    · have kept : (w.getCore p).finished = (s.getCore p).finished ∧ (w.getCore p).run = (s.getCore p).run ∧ (w.getCore p).irq = (s.getCore p).irq := by
        rw [marks, old]
        split
        · unfold Core.markedFor
          split <;> exact ⟨rfl, rfl, rfl⟩
        · exact ⟨rfl, rfl, rfl⟩
      obtain ⟨finished, run, irq⟩ := kept
      rw [cores, if_pos ⟨⟨v, listed, hp⟩, finished.trans going⟩, Core.preempt_eq, if_pos (run.trans running), irq]
      exact preemptNext_one _

end

/-- A plain slice on a marked site is pre-empted one quantum after the mark. -/
theorem markedSiteTimeout_preempts {s : State} {p k : Nat} {b : Word} (marked : (s.getCore p).marked = some (k, b)) (plain : (s.getCore p).slice = .plain)
    (due : b.toNat + s.mgmt.quantum.toNat ≤ s.tb.toNat) (running : (s.getCore p).run = .running) (calm : (s.getCore p).irq.preempt = none) :
    exec (.markedSiteTimeout p) s = .next (s.modCore p fun c => { c with irq := { c.irq with preempt := some (2, false) } }) := by
  have late : ((s.getCore p).slice == .plain && decide (b.toNat + s.mgmt.quantum.toNat ≤ s.tb.toNat)) = true := by
    rw [plain, decide_eq_true due]
    rfl
  have raised := (s.getCore p).preempt_eq 2
  rw [if_pos running, calm] at raised
  show execMarkedSiteTimeout p s = _
  unfold execMarkedSiteTimeout
  dsimp only
  rw [marked]
  dsimp only
  rw [if_pos late, State.modCore, raised]
  rfl

end Sys2Proof.Machine
end

section
open Sys2Proof.Machine

/-- Settles O53, clause by clause: blocks and the spill region, requests and pulls, admission, the scan, placement, and the ends of quanta. -/
theorem queuesAndPlacement : Obligations.QueuesAndPlacement := by
  intro s
  refine ⟨fun n block fed room unreserved => ⟨fun p parent accepts fits => blockTransfer_parent block fed room unreserved parent accepts fits,
      fun top space => blockTransfer_spill block fed room top space⟩,
    fun e i l aligned low high own => ⟨State.spillIn_written (State.spillVa_own low high own) aligned, fun place held => ?_⟩,
    s.noteLow_pulls, fun n => pull_leaves,
    fun e r slot goes queued body least small free lowest wide narrow tall short die =>
      teamAdmission_admits goes queued body least small free lowest (TeamRec.fits_of_shape wide narrow tall short die),
    fun m ok x y scan => Team.scan_first scan,
    fun slot rest m x y ring team noTarget scan goes wide _ empty => ?_,
    fun slot m team resident due goes => ⟨quantumEnd_noHead team resident due goes, fun k rest h x y ring head noTarget scan _ wide =>
      quantumEnd_leaves team resident due goes ring head noTarget scan wide⟩,
    fun p k b => markedSiteTimeout_preempts⟩
  · rw [State.spillOut_reread (State.spillVa_own low high own) place held]
    cases e.body <;> rfl
  · obtain ⟨t, u, placed, ringed, found, dram, spill, same, first, again, sites⟩ := teamPlace_places ring team noTarget scan goes empty wide
    refine ⟨t, u, placed, ringed, found, dram, spill, same, first, again, fun i hi => ?_⟩
    obtain ⟨core, sent, kept⟩ := sites i hi
    dsimp only at core ⊢
    rw [core]
    refine ⟨rfl, rfl, rfl, rfl, rfl, rfl, rfl, fun new => ?_, kept⟩
    exact sent new

end

section
/-! SUPPORT. Launch records, their outcomes, and the records that are inserted (R434 to R437). -/

namespace Sys2Proof.Machine

/-! ## Fields of a record -/

theorem fieldOf_eq (v o n : Nat) : fieldOf v o n = v / 256 ^ o % 256 ^ n := by
  rw [fieldOf, Nat.shiftRight_eq_div_pow, Nat.pow_mul, Nat.pow_mul]

/-- A field of a record that has been read is what stands at its place. -/
theorem fieldOf_readLE (m : Memory) (a : Nat) {k o n : Nat} (h : o + n ≤ k) : fieldOf (m.readLE a k) o n = m.readLE (a + o) n := by
  rw [fieldOf_eq, m.readLE_part a h]

/-- A field is zero when its bytes are. -/
theorem Memory.readLE_eq_zero (m : Memory) (a n : Nat) : m.readLE a n = 0 ↔ ∀ i, i < n → m.read (a + i) = 0 := by
  induction n generalizing a with
  | zero => exact ⟨fun _ i hi => absurd hi (Nat.not_lt_zero i), fun _ => rfl⟩
  | succ n ih =>
    have first : m.readLE a (n + 1) = (m.read a).toNat + 256 * m.readLE (a + 1) n := rfl
    have byte : (m.read a).toNat = 0 ↔ m.read a = 0 := by rw [BitVec.toNat_eq]; rfl
    have zero : m.readLE a (n + 1) = 0 ↔ m.read a = 0 ∧ m.readLE (a + 1) n = 0 := by
      rw [first, ← byte]
      omega
    rw [zero, ih]
    refine ⟨fun ⟨h, k⟩ i hi => ?_, fun h => ⟨h 0 (Nat.succ_pos n), fun i hi => ?_⟩⟩
    · cases i with
      | zero => exact h
      | succ i =>
        have later := k i (by omega)
        rwa [Nat.add_assoc, Nat.add_comm 1] at later
    · rw [Nat.add_assoc, Nat.add_comm 1]
      exact h (i + 1) (by omega)

/-! ## The record at LQHEAD (R434 to R436) -/

/-- The bytes of a field of the launch record at LQHEAD are zero. -/
def State.clear (s : State) (o n : Nat) : Prop := ∀ i, i < n → s.mgmt.lq.read (128 * (s.mgmt.lqhead.toNat % 64) + o + i) = 0

/-- A field of the launch record at LQHEAD. -/
def State.recordField (s : State) (o n : Nat) : Nat := s.mgmt.lq.readLE (128 * (s.mgmt.lqhead.toNat % 64) + o) n

/-- The launch record at LQHEAD follows the rules of R435. -/
def State.wellFormed (s : State) : Prop :=
  1 ≤ s.recordField 0 1 ∧ s.recordField 0 1 ≤ 5 ∧ s.clear 1 7 ∧ s.clear 0x18 40 ∧ (s.recordField 0 1 ≠ 1 → s.clear 8 16) ∧
    (s.recordField 0 1 = 2 → s.clear 0x60 32) ∧ (s.recordField 0 1 ≠ 2 → s.recordField 0 1 ≠ 3 → s.clear 0x40 64)

/-- The launch unit takes the record at LQHEAD (R436). -/
def State.pending (s : State) : Prop := s.mgmt.lqhead ≠ s.mgmt.doorbell ∧ s.initial = [] ∧ s.mgmt.state ≠ 4

/-- The record at LQHEAD. -/
def State.launchRecord (s : State) : Nat := s.mgmt.lq.readLE (128 * (s.mgmt.lqhead.toNat % 64)) 128

theorem State.launchRecord_field (s : State) {o n : Nat} (h : o + n ≤ 128) : fieldOf s.launchRecord o n = s.recordField o n := fieldOf_readLE _ _ h

theorem State.clear_iff (s : State) {o n : Nat} (h : o + n ≤ 128) : fieldOf s.launchRecord o n = 0 ↔ s.clear o n := by
  rw [s.launchRecord_field h]
  exact Memory.readLE_eq_zero ..

theorem State.clear_add (s : State) (o m n : Nat) : s.clear o (m + n) ↔ s.clear o m ∧ s.clear (o + m) n := by
  unfold State.clear
  refine ⟨fun h => ⟨fun i hi => h i (by omega), fun i hi => ?_⟩, fun ⟨h, k⟩ i hi => ?_⟩
  · rw [← Nat.add_assoc, Nat.add_assoc _ m i]
    exact h (m + i) (by omega)
  · by_cases low : i < m
    · exact h i low
    · have late := k (i - m) (by omega)
      rwa [← Nat.add_assoc, Nat.add_assoc _ m, Nat.add_sub_cancel' (Nat.le_of_not_lt low)] at late

theorem State.launchBad_iff (s : State) : launchBad (s.recordField 0 1) s.launchRecord = false ↔ s.wellFormed := by
  have split := s.clear_add 8 8 8
  unfold launchBad State.wellFormed
  rw [split]
  generalize s.recordField 0 1 = k
  simp only [Bool.or_eq_false_iff, Bool.and_eq_false_imp, bne_eq_false_iff_eq, bne_iff_ne, decide_eq_false_iff_not, Nat.not_lt,
    s.clear_iff (show 1 + 7 ≤ 128 by decide), s.clear_iff (show 0x18 + 40 ≤ 128 by decide), s.clear_iff (show 8 + 8 ≤ 128 by decide), s.clear_iff (show 16 + 8 ≤ 128 by decide)]
  have last : (if k = 2 then fieldOf s.launchRecord 0x60 32 != 0 else k != 3 && fieldOf s.launchRecord 0x40 64 != 0) = false ↔
      (k = 2 → s.clear 0x60 32) ∧ (k ≠ 2 → k ≠ 3 → s.clear 0x40 64) := by
    rw [← s.clear_iff (show 0x60 + 32 ≤ 128 by decide), ← s.clear_iff (show 0x40 + 64 ≤ 128 by decide)]
    by_cases task : k = 2
    · simp [task]
    · by_cases team : k = 3 <;> simp [task, team]
  rw [last]
  tauto

theorem State.launch_pending {s : State} (h : s.pending) : s.launch = some (s.recordField 0 1, s.launchRecord) := by
  obtain ⟨rung, fed, goes⟩ := h
  have takes : ¬(s.mgmt.lqhead = s.mgmt.doorbell ∨ (!s.initial.isEmpty) = true ∨ s.mgmt.state = 4) := by
    rintro (h | h | h)
    · exact rung h
    · rw [fed] at h
      exact Bool.false_ne_true h
    · exact goes h
  rw [State.launch, if_neg takes, ← s.launchRecord_field (by decide)]
  rfl

/-! ## Outcomes (R437) -/

/-- From u to t the outcome of the record at LQHEAD has been written in a slot, and vector 1 signalled (R437). -/
def State.outcomeIn (slot : Nat) (u t : State) (kind status : Nat) : Prop :=
  ∃ lo, t = State.out { u with mgmt := { u.mgmt with lqout := lo, lqhead := u.mgmt.lqhead + 1 } } (.msix 1) ∧
    lo.find? (fun x => x.1 == slot) = some (slot, BitVec.ofNat 64 (u.mgmt.ctxg.toNat * 2 ^ 48 + status * 256 + kind))

theorem State.outcome_outcomeIn {s u : State} (head : u.mgmt.lqhead = s.mgmt.lqhead) (kind status : Nat) :
    State.outcomeIn (s.mgmt.lqhead.toNat % 64) u (u.outcome kind status) kind status := by
  rw [← head]
  exact ⟨_, rfl, find?_upsert_same _ _ (by simp) _⟩

section
variable {s : State} (pending : s.pending) {takes : Nat → Bool} (taken : takes (s.recordField 0 1) = true) (state : BitVec 3) (k : Nat → Res)
include pending taken

theorem State.launchAs_malformed (bad : ¬s.wellFormed) : s.launchAs takes state k = .next (s.outcome (s.recordField 0 1) 1) := by
  have broken : launchBad (s.recordField 0 1) s.launchRecord = true := by
    rw [← Bool.not_eq_false, s.launchBad_iff]
    exact bad
  rw [State.launchAs, State.launch_pending pending]
  dsimp only
  rw [taken, broken]
  rfl

theorem State.launchAs_untimely (good : s.wellFormed) (other : s.mgmt.state ≠ state) : s.launchAs takes state k = .next (s.outcome (s.recordField 0 1) 2) := by
  rw [State.launchAs, State.launch_pending pending]
  dsimp only
  rw [taken, s.launchBad_iff.2 good, if_pos other]
  rfl

theorem State.launchAs_goes (good : s.wellFormed) (timely : s.mgmt.state = state) : s.launchAs takes state k = k s.launchRecord := by
  rw [State.launchAs, State.launch_pending pending]
  dsimp only
  rw [taken, s.launchBad_iff.2 good, if_neg (not_not.2 timely)]
  rfl

end

/-- The event that takes a record of a kind. -/
def launchEvent (kind : Nat) : Instr :=
  if kind = 2 then .task else if kind = 3 then .team else if kind = 4 then .stop else if kind = 5 then .endCtx else .start

/-- Every record is taken by one event, in the state that its kind requires. -/
theorem launchEvent_eq (s : State) (kind : Nat) : ∃ (takes : Nat → Bool) (state : BitVec 3) (k : Nat → Res), exec (launchEvent kind) s = s.launchAs takes state k ∧
    takes kind = true ∧ (1 ≤ kind → kind ≤ 5 → state = if kind = 1 then 2 else if kind = 5 then 5 else 3) := by
  unfold launchEvent
  split
  next task => exact ⟨_, _, _, rfl, by simp [task], fun _ _ => by simp [task]⟩
  split
  next team => exact ⟨_, _, _, rfl, by simp [team], fun _ _ => by simp [team]⟩
  split
  next stop => exact ⟨_, _, _, rfl, by simp [stop], fun _ _ => by simp [stop]⟩
  split
  next endCtx => exact ⟨_, _, _, rfl, by simp [endCtx], fun _ _ => by simp [endCtx]⟩
  next noTask noTeam noStop noEnd =>
    refine ⟨_, _, _, rfl, ?_, fun low high => ?_⟩
    · simp only [Bool.or_eq_true, decide_eq_true_eq, Bool.not_eq_true', Bool.and_eq_false_imp, decide_eq_false_iff_not]
      omega
    · rw [if_pos (show kind = 1 by omega)]

theorem launch_malformed {s : State} (pending : s.pending) (bad : ¬s.wellFormed) : ∃ t, exec (launchEvent (s.recordField 0 1)) s = .next t ∧
    State.outcomeIn (s.mgmt.lqhead.toNat % 64) s t (s.recordField 0 1) 1 := by
  obtain ⟨takes, state, k, run, taken, -⟩ := launchEvent_eq s (s.recordField 0 1)
  exact ⟨_, run.trans (State.launchAs_malformed pending taken state k bad), State.outcome_outcomeIn rfl _ 1⟩

theorem launch_untimely {s : State} (pending : s.pending) (good : s.wellFormed)
    (other : s.mgmt.state ≠ (if s.recordField 0 1 = 1 then 2 else if s.recordField 0 1 = 5 then 5 else 3)) :
    ∃ t, exec (launchEvent (s.recordField 0 1)) s = .next t ∧ State.outcomeIn (s.mgmt.lqhead.toNat % 64) s t (s.recordField 0 1) 2 := by
  obtain ⟨takes, state, k, run, taken, timely⟩ := launchEvent_eq s (s.recordField 0 1)
  rw [← timely good.1 good.2.1] at other
  exact ⟨_, run.trans (State.launchAs_untimely pending taken state k good other), State.outcome_outcomeIn rfl _ 2⟩

/-! ## TASK and TEAM (R436) -/

section
variable {s : State} (kind : Nat) (b : Body)

theorem State.launchInsert_refused : ∃ t, s.launchInsert kind false b = .next t ∧ State.outcomeIn (s.mgmt.lqhead.toNat % 64) s t kind 4 :=
  ⟨_, rfl, State.outcome_outcomeIn rfl kind 4⟩

theorem State.launchInsert_inserts (accepts : s.accepts .package = true) : ∃ t, s.launchInsert kind true b = .next t ∧
    State.outcomeIn (s.mgmt.lqhead.toNat % 64) (s.insertBody .package b 0x7FF) t kind 0 := by
  refine ⟨(s.insertBody .package b 0x7FF).outcome kind 0, by rw [State.launchInsert, accepts]; rfl, State.outcome_outcomeIn ?_ kind 0⟩
  rw [State.insertBody_eq]

theorem execTask_eq (pending : s.pending) (good : s.wellFormed) (timely : s.mgmt.state = 3) (task : s.recordField 0 1 = 2) :
    exec .task s = s.launchInsert 2 (s.taskOk (taskOf (s.recordField 0x40 32))) (.task (taskOf (s.recordField 0x40 32))) := by
  show execTask s = _
  rw [execTask, State.launchAs_goes pending (by simp [task]) 3 _ good timely, s.launchRecord_field (by decide)]

theorem execTeam_eq (pending : s.pending) (good : s.wellFormed) (timely : s.mgmt.state = 3) (team : s.recordField 0 1 = 3) :
    exec .team s = s.launchInsert 3 (s.teamOk (s.recordField 0x40 64)) (.team (teamOf (s.recordField 0x40 64))) := by
  show execTeam s = _
  rw [execTeam, State.launchAs_goes pending (by simp [team]) 3 _ good timely, s.launchRecord_field (by decide)]

end

/-! ## QUIESCENT, launches from the rack and residency reports (R228, R429) -/

theorem quiescent_enters {s : State} (stopping : s.mgmt.state = 4) (quiet : s.isQuiescent = true) : ∃ t, exec .quiescent s = .next t ∧
    State.outcomeIn (s.mgmt.lqhead.toNat % 64) { s with mgmt := { s.mgmt with state := 5 } } t 4 0 :=
  ⟨_, if_pos ⟨stopping, quiet⟩, State.outcome_outcomeIn rfl 4 0⟩

section
variable {s : State} (team : Bool) (packet : Line)

/-- What a launch from the rack asks for. -/
def launchBody (team : Bool) (v : Nat) : Body := if team then .team (teamOf v) else .task (taskOf v)

theorem execZfpLaunch_eq : exec (.zfpLaunch team packet) s = if !s.anyPort 4 then .next s
    else if s.mgmt.state.toNat < 3 then .next (s.out (.launchAnswer false (BitVec.ofNat 64 packet.toNat) 0x0A 0))
    else if !(if team then s.teamOk packet.toNat else s.taskOk (taskOf packet.toNat)) then
      .next (s.out (.launchAnswer false (BitVec.ofNat 64 packet.toNat) 0x0B s.mgmt.ctxg))
    else if !s.accepts .package || !s.initial.isEmpty then .next s
    else .next ((s.insertBody .package (launchBody team packet.toNat) 0x7FE).out (.launchAnswer true (BitVec.ofNat 64 packet.toNat) 0 s.mgmt.ctxg)) := by
  have wid : BitVec.ofNat 64 (fieldOf packet.toNat 0 8) = BitVec.ofNat 64 packet.toNat := by
    apply BitVec.eq_of_toNat_eq
    rw [fieldOf_eq, BitVec.toNat_ofNat, BitVec.toNat_ofNat]
    norm_num
  show execZfpLaunch team packet s = _
  unfold execZfpLaunch
  dsimp only
  rw [wid]
  rfl

end

theorem State.residencyWords_eq (s : State) : s.residencyWords =
    (BitVec.ofNat 64 (s.mgmt.ctxg.toNat * 2 ^ 48 + (List.range 1536).countP s.idle * 2 ^ 37 + s.teams.countP Team.placedNow * 2 ^ 30 +
      (s.teams.length - s.teams.countP Team.placedNow) * 2 ^ 23 + (s.queue .package).entries.length * 2 ^ 9),
    BitVec.ofNat 64 s.spill.length, BitVec.ofNat 64 ((List.range 4).map fun d => (s.queue (.die d)).entries.length).sum) := by
  rw [State.residencyWords, List.countP_eq_length_filter, List.countP_eq_length_filter, List.sum_eq_foldl]

end Sys2Proof.Machine
end

section
/-! SUPPORT. START: the reads of the launch unit, and how every core begins (R199, R200, R429). -/

namespace Sys2Proof.Machine

/-! ## What the reads of an engine leave -/

/-- Whatever an operation of an engine performs, it leaves what no access touches. -/
structure Eng.leaves {α : Type} (u : State) (r : Eng α) : Prop where
  ok_still : ∀ s x, r = .ok s x → s.still = u

section
variable {α β : Type}

theorem Eng.ok_leaves {u s : State} (h : s.still = u) (x : α) : (Eng.ok s x).leaves u := ⟨fun t y e => by cases e; exact h⟩

theorem Eng.wait_leaves (u : State) : (Eng.wait : Eng α).leaves u := ⟨fun s x e => by cases e⟩

theorem Eng.stop_leaves (u s : State) (status value : Nat) : (Eng.stop s status value : Eng α).leaves u := ⟨fun t x e => by cases e⟩

theorem Eng.andThen_leaves {u : State} {e : Eng α} {f : State → α → Eng β} (h : e.leaves u) (k : ∀ s x, s.still = u → (f s x).leaves u) : (e.andThen f).leaves u := by
  cases e with
  | ok s x => exact k s x (h.ok_still s x rfl)
  | wait => exact Eng.wait_leaves u
  | stop s status value => exact Eng.stop_leaves u s status value

theorem engFold_leaves {u : State} {f : State → β → α → Eng β} (step : ∀ s y x, s.still = u → (f s y x).leaves u) (l : List α) {s : State} (h : s.still = u) (y : β) :
    (engFold f l s y).leaves u := by
  induction l generalizing s y with
  | nil => exact Eng.ok_leaves h y
  | cons x l ih => exact Eng.andThen_leaves (step s y x h) fun t z ht => ih ht z

end

section
variable {u s : State} (h : s.still = u)
include h

theorem State.must_leaves (ok : Bool) : (s.must ok).leaves u := by
  unfold State.must
  split
  · exact Eng.ok_leaves h ()
  · exact Eng.stop_leaves u s 1 0

theorem State.engRead_leaves (p va n : Nat) : (s.engRead p va n).leaves u := by
  have read := s.homeRead_leaves (engDie p) va Req.read false
  rw [h] at read
  unfold State.engRead
  split
  · exact Eng.stop_leaves ..
  split
  · split
    · exact Eng.stop_leaves ..
    · exact Eng.wait_leaves u
    · exact Eng.stop_leaves ..
    next hread => rw [hread] at read; exact Eng.ok_leaves read _
    next hread => rw [hread] at read; exact Eng.ok_leaves read _
  split
  · exact Eng.wait_leaves u
  split
  · exact Eng.stop_leaves ..
  · exact Eng.ok_leaves h _

theorem State.engReadRange_leaves (p va n : Nat) : (s.engReadRange p va n).leaves u :=
  engFold_leaves (fun _ _ _ ht => Eng.andThen_leaves (State.engRead_leaves ht ..) fun _ _ hw => Eng.ok_leaves hw _) _ h _

theorem State.applyImage_leaves (m : Memory) (d : Nat) : (s.applyImage m d).leaves u :=
  Eng.andThen_leaves (State.must_leaves h _) fun _ _ ht => Eng.andThen_leaves (State.engReadRange_leaves ht ..) fun _ _ hw => Eng.ok_leaves hw _

/-- The reads and checks of START leave what no access touches. -/
theorem State.prepareStart_leaves (lhp : Nat) : (s.prepareStart lhp).leaves u :=
  Eng.andThen_leaves (State.must_leaves h _) fun _ _ h => Eng.andThen_leaves (State.engReadRange_leaves h ..) fun _ _ h =>
    Eng.andThen_leaves (State.must_leaves h _) fun _ _ h => Eng.andThen_leaves (State.engReadRange_leaves h ..) fun _ _ h =>
      Eng.andThen_leaves (engFold_leaves (fun _ m d ht => State.applyImage_leaves ht m d) _ h _) fun _ _ h =>
        Eng.andThen_leaves (State.engReadRange_leaves h ..) fun _ _ h => Eng.andThen_leaves (State.must_leaves h _) fun _ _ h => Eng.ok_leaves h _

end

/-! ## How every core begins -/

theorem find?_map_pcn {l : List Nat} {p : Nat} (listed : p ∈ l) {mk : Nat → Core} (named : ∀ q, (mk q).pcn = q) : (l.map mk).find? (fun c => c.pcn == p) = some (mk p) := by
  induction l with
  | nil => exact absurd listed List.not_mem_nil
  | cons q l ih =>
    rw [List.map_cons, List.find?_cons, named]
    by_cases here : q = p
    · rw [here, beq_self_eq_true]
    · rw [beq_eq_false_iff_ne.2 here]
      exact ih ((List.mem_cons.1 listed).resolve_left fun e => here e.symm)

theorem State.startCores_getCore (s : State) (x : Prepared) (lhp : Word) {p : Nat} (hp : p < 1536) :
    (s.startCores x lhp).getCore p = x.core lhp s.mgmt.nodew p := by
  have named (q : Nat) : (x.core lhp s.mgmt.nodew q).pcn = q := rfl
  unfold State.getCore State.startCores
  dsimp only
  rw [named]
  split
  next here =>
    rw [here]
  next other =>
    have listed : p ∈ (List.range 1536).filter fun q => q != s.core.pcn :=
      List.mem_filter.2 ⟨List.mem_range.2 hp, bne_iff_ne.2 fun e => other e.symm⟩
    rw [find?_map_pcn listed named]
    rfl

/-- What the header says of the core p at START (R200, R429). -/
def Prepared.begins (x : Prepared) (lhp : Word) (node : BitVec 9) (p : Nat) (c : Core) : Prop :=
  let seed : Word := BitVec.ofNat 64 (x.head / 2 ^ 64 % 2 ^ 64)
  let boot := x.head / 2 ^ 160 % 2 ^ 32
  let iws := x.head / 2 ^ 288 % 2 ^ 32
  c.pcn = p ∧ c.run = .running ∧ c.spad = x.spad ∧ c.pc = BitVec.ofNat 64 (if boot = 0 then x.head / 2 ^ 128 % 2 ^ 32 else boot) ∧ c.ctl.mode = .system ∧
    c.ctl.seed = seed ∧ c.gen = seed ∧ c.ctl.lhp = lhp ∧ c.ctl.node = node ∧ c.pend = 0 ∧ c.pois = 0 ∧
    (iws % 512 = 0 → iws ≤ 0x5FE00 → c.wp = if iws = 0 then 0x8400 else iws) ∧ c.slice = .none ∧ c.ctl.vl = 32

theorem Prepared.core_begins (x : Prepared) (lhp : Word) (node : BitVec 9) (p : Nat) : x.begins lhp node p (x.core lhp node p) := by
  have field (o n : Nat) : fieldOf x.head o n = x.head / 2 ^ (8 * o) % 2 ^ (8 * n) := by rw [fieldOf, Nat.shiftRight_eq_div_pow]
  have boot := field 0x14 4
  have entry := field 0x10 4
  have seed := field 8 8
  have iws := field 0x24 4
  refine ⟨rfl, rfl, rfl, ?_, rfl, ?_, ?_, rfl, rfl, rfl, rfl, fun aligned inside => ?_, rfl, rfl⟩
  · show BitVec.ofNat 64 (if fieldOf x.head 0x14 4 = 0 then fieldOf x.head 0x10 4 else fieldOf x.head 0x14 4) = _
    rw [boot, entry]
  · show BitVec.ofNat 64 (fieldOf x.head 8 8) = _
    rw [seed]
  · show BitVec.ofNat 64 (fieldOf x.head 8 8) ^^^ (0#64 * 0x9E3779B97F4A7C15#64) = _
    rw [seed, BitVec.zero_mul, BitVec.xor_zero]
  · show (BitVec.ofNat 10 ((if fieldOf x.head 0x24 4 = 0 then 0x8400 else fieldOf x.head 0x24 4) / 512)).toNat * 512 = _
    rw [iws, BitVec.toNat_ofNat]
    revert aligned inside
    generalize x.head / 2 ^ 288 % 2 ^ 32 = v
    intro aligned inside
    show (if v = 0 then 0x8400 else v) / 512 % 2 ^ 10 * 512 = _
    split <;> omega

/-! ## START (R429) -/

theorem State.outcome_getCore (s : State) (kind status p : Nat) : (s.outcome kind status).getCore p = s.getCore p := rfl

section
variable {s : State} (pending : s.pending) (good : s.wellFormed) (timely : s.mgmt.state = 2) (kind : s.recordField 0 1 = 1)

/-- The page table that the launch record names. -/
def State.launchRoot (s : State) : Nat := s.recordField 8 8 / 65536 % 2 ^ 40

/-- The state as START begins: a new generation of the context, with its page table. -/
def State.launched (s : State) : State := { s with
  mgmt := { s.mgmt with root := BitVec.ofNat 40 s.launchRoot, ctxg := s.mgmt.ctxg + 1, prlate := 0, mdrop := 0, fpdrop := 0, nmlate := 0 }, ended := false }

theorem State.newContext_eq (s : State) : s.newContext (s.recordField 8 8) = s.launched := by
  rw [State.newContext, bits_eq]
  rfl

theorem State.launched_rootPa (s : State) : s.launched.rootPa = s.launchRoot * 4096 := by
  show (BitVec.ofNat 40 s.launchRoot).toNat * 4096 = _
  rw [BitVec.toNat_ofNat, Nat.mod_eq_of_lt (show s.launchRoot < 2 ^ 40 from Nat.mod_lt _ (Nat.two_pow_pos 40))]

/-- A launch header that is not aligned, or does not lie in the global space, stops the checks of START before anything changed. -/
theorem State.prepareStart_misplaced (s : State) {lhp : Nat} (misplaced : lhp % 64 ≠ 0 ∨ lhp < 2 ^ 32) : s.prepareStart lhp = .stop s 1 0 := by
  have refused : (lhp % 64 == 0 && s.ownRange lhp 64) = false := by
    rcases misplaced with h | h
    · rw [beq_eq_false_iff_ne.2 h, Bool.false_and]
    · rw [State.ownRange, decide_eq_false (Nat.not_le.2 (show lhp < globalBase from h)), Bool.false_and, Bool.false_and, Bool.false_and, Bool.and_false]
  rw [State.prepareStart, refused]
  rfl

/-- What START does with what it has read (R429). -/
def State.started (s : State) (lhp : Word) (r : Eng Prepared) : Res := match r with
  | .wait => .next s
  | .stop t _ _ => .next (t.startFails lhp)
  | .ok t x => .next (((t.startCores x lhp).feed x.recs.length).outcome 1 0)

include pending good timely kind

theorem execStart_eq : exec .start s = if !decide (s.launched.rootPa < 0xB270000000) then .next (s.launched.startFails (BitVec.ofNat 64 (s.recordField 16 8)))
    else s.started (BitVec.ofNat 64 (s.recordField 16 8)) (s.launched.prepareStart (s.recordField 16 8)) := by
  have small : (BitVec.ofNat 64 (s.recordField 16 8)).toNat = s.recordField 16 8 := by
    have bound : s.recordField 16 8 < 2 ^ (8 * 8) := Memory.readLE_lt ..
    rw [BitVec.toNat_ofNat, Nat.mod_eq_of_lt bound]
  show execStart s = _
  rw [execStart, State.launchAs_goes pending (by simp [kind]) 2 _ good timely, s.launchRecord_field (by decide), s.launchRecord_field (by decide), s.newContext_eq]
  dsimp only
  rw [small]
  generalize s.launched.prepareStart (s.recordField 16 8) = r
  cases r <;> rfl

/-- START fails with status 3: a record of type 4 names the launch header. -/
theorem start_fails (fails : 0xB270000000 ≤ s.launchRoot * 4096 ∨ s.recordField 16 8 % 64 ≠ 0 ∨ s.recordField 16 8 < 2 ^ 32) : ∃ t, exec .start s = .next t ∧
    State.outcomeIn (s.mgmt.lqhead.toNat % 64) (State.logError { s.launched with l2 := [], tlb := [] } 0x7FF 0 4 (BitVec.ofNat 64 (s.recordField 16 8)) 0) t 1 3 := by
  refine ⟨s.launched.startFails (BitVec.ofNat 64 (s.recordField 16 8)), ?_, State.outcome_outcomeIn rfl 1 3⟩
  rw [execStart_eq pending good timely kind, s.launched_rootPa]
  by_cases outside : 0xB270000000 ≤ s.launchRoot * 4096
  · rw [decide_eq_false (Nat.not_lt.2 outside)]
    rfl
  · rw [decide_eq_true (Nat.lt_of_not_le outside), s.launched.prepareStart_misplaced (fails.resolve_left outside)]
    rfl

theorem start_prepares (inside : s.launchRoot * 4096 < 0xB270000000) {v : State} {x : Prepared} (ready : s.launched.prepareStart (s.recordField 16 8) = .ok v x)
    (none : x.recs = []) : ∃ t w, exec .start s = .next t ∧ State.outcomeIn (s.mgmt.lqhead.toNat % 64) w t 1 0 ∧
      w.mgmt = { s.launched.mgmt with state := 3, errlog := w.mgmt.errlog, errhead := w.mgmt.errhead } ∧ w.dram = v.dram ∧ w.header = headerOf x.head ∧ w.initial = [] ∧
      ∀ p, p < 1536 → x.begins (BitVec.ofNat 64 (s.recordField 16 8)) s.mgmt.nodew p (t.getCore p) := by
  obtain ⟨-, -, -, -, -, mgmt⟩ := State.of_still ((State.prepareStart_leaves rfl _).ok_still v x ready)
  have head : v.mgmt.lqhead = s.mgmt.lqhead := (congrArg Mgmt.lqhead mgmt :)
  have node : v.mgmt.nodew = s.mgmt.nodew := (congrArg Mgmt.nodew mgmt :)
  refine ⟨(v.startCores x (BitVec.ofNat 64 (s.recordField 16 8))).outcome 1 0, v.startCores x (BitVec.ofNat 64 (s.recordField 16 8)), ?_, State.outcome_outcomeIn (u := v.startCores x _) head 1 0,
    ?_, rfl, rfl, none, fun p hp => ?_⟩
  · rw [execStart_eq pending good timely kind, s.launched_rootPa, decide_eq_true inside, ready]
    show Host.Outcome.next ((State.feed x.recs.length _).outcome 1 0) = _
    rw [none]
    rfl
  · show { v.mgmt with state := 3 } = _
    rw [mgmt]
    rfl
  · rw [State.outcome_getCore, State.startCores_getCore _ _ _ hp, node]
    exact x.core_begins ..

end

end Sys2Proof.Machine
end

section
/-! SUPPORT. STOP and END: the cores that are pre-empted, and what the end of a context empties (R96, R429). -/

namespace Sys2Proof.Machine

/-! ## Marks -/

theorem mem_upsert {α : Type} {p : α → Bool} {new x : α} {l : List α} (h : x ∈ upsert p (fun _ => new) new l) : x = new ∨ x ∈ l := by
  induction l with
  | nil => exact .inl (List.mem_singleton.1 h)
  | cons y l ih =>
    unfold upsert at h
    split at h
    · exact (List.mem_cons.1 h).imp_right (List.mem_cons_of_mem y)
    · rcases List.mem_cons.1 h with rfl | later
      · exact .inr List.mem_cons_self
      · exact (ih later).imp_right (List.mem_cons_of_mem y)

theorem State.mem_cores_putCore {s : State} {c d : Core} (h : d ∈ (s.putCore c).cores) : d = c ∨ d ∈ s.cores := by
  unfold State.putCore at h
  split at h
  · exact (List.mem_cons.1 h).imp_right (List.mem_cons_of_mem _)
  · rcases List.mem_cons.1 h with rfl | other
    · exact .inr List.mem_cons_self
    · exact (mem_upsert other).imp_right (List.mem_cons_of_mem _)

theorem State.getCore_listed (s : State) (p : Nat) : s.getCore p ∈ s.cores ∨ s.getCore p = Core.reset p := by
  unfold State.getCore
  split
  · exact .inl List.mem_cons_self
  · cases found : s.others.find? fun c => c.pcn == p with
    | none => exact .inr rfl
    | some c => exact .inl (List.mem_cons_of_mem _ (List.mem_of_find?_eq_some found))

/-- No site bears a mark (R222). -/
def State.unmarked (s : State) : Prop := ∀ c ∈ s.cores, c.marked = none

theorem State.modCore_unmarked {s : State} (h : s.unmarked) (p : Nat) {f : Core → Core} (keeps : ∀ c, (f c).marked = c.marked) : (s.modCore p f).unmarked := by
  intro c hc
  rcases State.mem_cores_putCore hc with rfl | old
  · rw [keeps]
    rcases s.getCore_listed p with listed | reset
    · exact h _ listed
    · rw [reset]
      rfl
  · exact h c old

theorem State.allCores_unmarked {s : State} {f : Core → Core} (clears : ∀ c ∈ s.cores, (f c).marked = none) : (s.allCores f).unmarked := by
  intro c hc
  rcases List.mem_cons.1 hc with rfl | other
  · exact clears _ List.mem_cons_self
  · obtain ⟨d, hd, rfl⟩ := List.mem_map.1 other
    exact clears d (List.mem_cons_of_mem _ hd)

theorem Core.preempt_marked (kind : Nat) (c : Core) : (c.preempt kind).marked = c.marked := (congrArg Core.marked (c.preempt_calm kind) :)

theorem State.preemptTeam_unmarked {s : State} (h : s.unmarked) (u : Team) (kind : Nat) : (s.preemptTeam u kind).unmarked := by
  rw [s.preemptTeam_eq]
  generalize s.liveSites u = sites
  have start : (s.modTeam u.slot fun t => { t with status := .leaving }).unmarked := h
  revert start
  generalize s.modTeam u.slot (fun t => { t with status := .leaving }) = v
  intro start
  induction sites generalizing v with
  | nil => exact start
  | cons p sites ih => exact ih _ (State.modCore_unmarked start p (Core.preempt_marked kind))

theorem State.foldl_preemptTeam_unmarked (kind : Nat) (l : List Team) {s : State} (h : s.unmarked) : (l.foldl (fun s u => s.preemptTeam u kind) s).unmarked := by
  induction l generalizing s with
  | nil => exact h
  | cons u l ih => exact ih (State.preemptTeam_unmarked h u kind)

/-! ## STOP (R429) -/

/-- A core of a context that stops, before its pre-empt: its mark is cancelled, and so is its reservation for a team that is not at its sites. -/
def State.dropTarget (s : State) (c : Core) : Core := { c with
  marked := none
  reserved := match c.reserved with
    | some slot => match s.team slot with
      | some t => if t.atSites then c.reserved else none
      | none => none
    | none => none }

theorem State.dropTargets_eq (s : State) : s.dropTargets = s.allCores s.dropTarget := rfl

theorem State.dropTargets_getCore (s : State) (q : Nat) : s.dropTargets.getCore q = s.dropTarget (s.getCore q) := by
  rw [s.dropTargets_eq]
  exact s.getCore_allCores s.dropTarget (fun _ => rfl) rfl

/-- A core that runs a plain slice is pre-empted (R429). -/
def Core.stopSlice (c : Core) : Core := if c.slice == .plain then c.preempt 3 else c

theorem Core.stopSlice_calm (c : Core) : c.stopSlice.calm = c.calm := by
  unfold Core.stopSlice
  split
  · exact c.preempt_calm 3
  · rfl

theorem Core.stopSlice_marked (c : Core) : c.stopSlice.marked = c.marked := (congrArg Core.marked c.stopSlice_calm :)

/-- What is pending at a core of the context that a STOP pre-empts. -/
theorem preemptNext_stop (x : Option (Nat × Bool)) : preemptNext 3 x = some (match x with
    | some (3, taken) => (3, taken)
    | _ => (3, false)) := by
  unfold preemptNext
  split
  next k taken =>
    by_cases own : k = 3
    · rw [own]
      rfl
    · have new : ¬((3 : Nat) != 3 || k == 3) = true := by simp [own]
      rw [if_neg new]
      split
      next he => cases he; exact absurd rfl own
      next => rfl
  next => rfl

/-- The cores after STOP: but for marks and reservations they differ in nothing but what is pending, and a plain slice that runs is pre-empted. -/
theorem Core.stopped {c d e : Core} (mark : d.calm = { c.calm with marked := d.marked, reserved := d.reserved }) (irq : d.irq = c.irq)
    (team : e = d ∨ e = d.preempt 3) : e.stopSlice.regs = c.regs ∧ e.stopSlice.spad = c.spad ∧ e.stopSlice.pc = c.pc ∧
    (c.slice = .plain → c.run = .running → e.stopSlice.irq.preempt = preemptNext 3 c.irq.preempt) := by
  have calm : e.stopSlice.calm = d.calm := e.stopSlice_calm.trans (by
    rcases team with rfl | rfl
    · rfl
    · exact d.preempt_calm 3)
  rw [mark] at calm
  refine ⟨(congrArg Core.regs calm :), (congrArg Core.spad calm :), (congrArg Core.pc calm :), fun plain running => ?_⟩
  have slice : e.slice = .plain := ((congrArg Core.slice e.stopSlice_calm :).symm.trans (congrArg Core.slice calm :)).trans plain
  have run : d.run = .running := (congrArg Core.run mark :).trans running
  have once : e.preempt 3 = d.preempt 3 := by
    rcases team with rfl | rfl
    · rfl
    · exact d.preempt_twice 3
  rw [Core.stopSlice, slice, if_pos (by rfl), once, d.preempt_eq, if_pos run, irq]

/-- What STOP does (R429). -/
theorem State.stopContext_eq (s : State) : s.stopContext.mgmt = { s.mgmt with state := 4 } ∧ s.stopContext.dram = s.dram ∧ s.stopContext.queues = s.queues ∧
    s.stopContext.unmarked ∧ ∀ q, let c := s.getCore q
      let d := s.stopContext.getCore q
      d.regs = c.regs ∧ d.spad = c.spad ∧ d.pc = c.pc ∧ (c.slice = .plain → c.run = .running → d.irq.preempt = preemptNext 3 c.irq.preempt) := by
  generalize start : ({ s with mgmt := { s.mgmt with state := 4 } } : State).cancelArrivals = u
  obtain ⟨t, done, husk, queues, -, cores⟩ := State.foldl_preemptTeam 3 (u.dropTargets.teams.filter Team.atSites) u.dropTargets
  have stops : s.stopContext = t.allCores Core.stopSlice := by
    unfold State.stopContext
    dsimp only
    rw [start, done]
    rfl
  have unmarked : t.unmarked := done ▸ State.foldl_preemptTeam_unmarked 3 _ (State.allCores_unmarked fun _ _ => rfl)
  have same (q : Nat) : u.getCore q = s.getCore q := by rw [← start]; rfl
  have mgmt : t.mgmt = u.mgmt := (congrArg State.mgmt husk :)
  have dram : t.dram = u.dram := (congrArg State.dram husk :)
  rw [stops]
  refine ⟨?_, ?_, ?_, State.allCores_unmarked fun c hc => c.stopSlice_marked.trans (unmarked c hc), fun q => ?_⟩
  · show t.mgmt = _
    rw [mgmt, ← start]
    rfl
  · show t.dram = _
    rw [dram, ← start]
    rfl
  · show t.queues = _
    rw [queues, ← start]
    rfl
  · dsimp only
    rw [t.getCore_allCores Core.stopSlice (fun c => (congrArg Core.pcn c.stopSlice_calm :)) rfl, ← same q]
    refine Core.stopped (d := u.dropTarget (u.getCore q)) rfl rfl ?_
    rw [cores, u.dropTargets_getCore]
    split
    · exact .inr rfl
    · exact .inl rfl

theorem stop_preempts {s : State} (pending : s.pending) (good : s.wellFormed) (timely : s.mgmt.state = 3) (stop : s.recordField 0 1 = 4) :
    exec .stop s = .next s.stopContext :=
  State.launchAs_goes pending (by simp [stop]) 3 _ good timely

/-! ## END (R96, R429) -/

theorem Memory.line_writeLine (m : Memory) (a : Nat) (l : Line) : (m.writeLine a l).line a = l := by
  apply BitVec.eq_of_toNat_eq
  rw [Memory.line, BitVec.toNat_ofNat]
  have read : (m.writeLine a l).readLE a 64 = l.toNat % 256 ^ 64 := m.readLE_writeLE a 64 l.toNat
  have fits := l.isLt
  rw [read]
  norm_num at fits ⊢
  omega

/-- A line without an error is written back to a DRAM without errors, and nothing is logged. -/
theorem State.writeBackLine_good {s : State} (dram : s.dramBad = []) {l : L2Line} (line : l.bad = false) : (s.writeBackLine l).dramBad = [] ∧
    (s.writeBackLine l).mgmt = s.mgmt ∧ (s.writeBackLine l).dram = if l.dirty then s.dram.writeLine (dramFlat l.pa / 64 * 64) l.data else s.dram := by
  unfold State.writeBackLine
  split
  · dsimp only
    rw [line, if_neg Bool.false_ne_true]
    refine ⟨?_, ?_, rfl⟩
    · show (if s.dramBadAt _ then _ else []) ++ List.filter _ s.dramBad = []
      rw [State.dramBadAt_false dram, if_neg Bool.false_ne_true, dram]
      rfl
    · show (s.dramMeets _ _).mgmt = _
      rw [State.dramMeets_eq dram]
      rfl
  · exact ⟨dram, rfl, rfl⟩

theorem State.foldl_writeBackLine_mgmt (l2 : List L2Line) {s : State} (dram : s.dramBad = []) (good : ∀ l ∈ l2, l.bad = false) : (l2.foldl State.writeBackLine s).mgmt = s.mgmt := by
  induction l2 generalizing s with
  | nil => rfl
  | cons l l2 ih =>
    obtain ⟨bad, mgmt, -⟩ := State.writeBackLine_good dram (good l List.mem_cons_self)
    exact (ih bad fun k hk => good k (List.mem_cons_of_mem l hk)).trans mgmt

theorem State.foldl_writeBackLine_clean (l2 : List L2Line) (s : State) (clean : ∀ l ∈ l2, l.dirty = false) : l2.foldl State.writeBackLine s = s := by
  induction l2 with
  | nil => rfl
  | cons l l2 ih =>
    have same : s.writeBackLine l = s := by rw [State.writeBackLine, clean l List.mem_cons_self, if_neg Bool.false_ne_true]
    rw [List.foldl_cons, same]
    exact ih fun k hk => clean k (List.mem_cons_of_mem l hk)

/-- The contributions that no window has claimed (R96). -/
def State.unclaimed (s : State) : Nat := (s.mules.map fun m => m.parked.length).sum + s.folds.length

section
variable {s : State}

theorem State.endContext_mgmt (dram : s.dramBad = []) (good : ∀ l ∈ s.l2, l.bad = false) :
    s.endContext.mgmt = { s.mgmt with state := 2, fpdrop := s.mgmt.fpdrop + BitVec.ofNat 64 s.unclaimed } := by
  have mgmt := State.foldl_writeBackLine_mgmt s.l2 dram good
  show ({ (s.l2.foldl State.writeBackLine s).mgmt with state := 2, fpdrop := (s.l2.foldl State.writeBackLine s).mgmt.fpdrop + BitVec.ofNat 64 s.unclaimed } : Mgmt) = _
  rw [mgmt]

theorem State.endContext_hostMem (s : State) : s.endContext.hostMem = s.hostMem := by
  have still : (s.l2.foldl State.writeBackLine s).still = s.still := State.foldl_leaves State.still (fun t l => t.writeBackLine_still l) s.l2 s
  exact (congrArg State.hostMem still :)

theorem State.endContext_writes (dram : s.dramBad = []) (good : ∀ l ∈ s.l2, l.bad = false) {l : L2Line} (only : s.l2 = [l]) (dirty : l.dirty = true) :
    s.endContext.dram.line (dramFlat l.pa / 64 * 64) = l.data := by
  obtain ⟨-, -, written⟩ := State.writeBackLine_good dram (good l (only ▸ List.mem_singleton_self l))
  show (s.l2.foldl State.writeBackLine s).dram.line _ = _
  rw [only]
  show (s.writeBackLine l).dram.line _ = _
  rw [written, if_pos dirty, Memory.line_writeLine]

theorem State.endContext_clean (clean : ∀ l ∈ s.l2, l.dirty = false) : s.endContext.dram = s.dram := by
  show (s.l2.foldl State.writeBackLine s).dram = _
  rw [State.foldl_writeBackLine_clean s.l2 s clean]

theorem State.endContext_cores (s : State) {c : Core} (hc : c ∈ s.endContext.cores) : c.run = .noContext ∧ c.l1 = [] ∧ c.chunk = none := by
  have ended : c ∈ ((s.l2.foldl State.writeBackLine s).cores.map Core.ended) := hc
  obtain ⟨d, -, rfl⟩ := List.mem_map.1 ended
  exact ⟨rfl, rfl, rfl⟩

theorem end_empties (pending : s.pending) (good : s.wellFormed) (timely : s.mgmt.state = 5) (kind : s.recordField 0 1 = 5) (quiet : s.seqQueue = []) :
    exec .endCtx s = .next (s.endContext.outcome 5 0) := by
  have goes : exec .endCtx s = _ := State.launchAs_goes pending (by simp [kind]) 5 _ good timely
  rw [goes, quiet]
  rfl

end

end Sys2Proof.Machine
end

section
/-! SUPPORT. The life of a context, put together (R228, R429, R434 to R437). -/

namespace Sys2Proof.Machine

section
variable {s : State} (pending : s.pending) (good : s.wellFormed)
include pending good

/-- The records of TASK, TEAM and STOP, in a context that runs (R429, R436). -/
theorem running_launches (timely : s.mgmt.state = 3) :
    (s.recordField 0 1 = 2 →
      let r := taskOf (s.recordField 0x40 32)
      (s.taskOk r = false → ∃ t, exec .task s = .next t ∧ State.outcomeIn (s.mgmt.lqhead.toNat % 64) s t 2 4) ∧
      (s.taskOk r = true → s.accepts .package = true → ∃ t, exec .task s = .next t ∧
        State.outcomeIn (s.mgmt.lqhead.toNat % 64) (s.insertBody .package (.task r) 0x7FF) t 2 0)) ∧
    (s.recordField 0 1 = 3 →
      let v := s.recordField 0x40 64
      (s.teamOk v = false → ∃ t, exec .team s = .next t ∧ State.outcomeIn (s.mgmt.lqhead.toNat % 64) s t 3 4) ∧
      (s.teamOk v = true → s.accepts .package = true → ∃ t, exec .team s = .next t ∧
        State.outcomeIn (s.mgmt.lqhead.toNat % 64) (s.insertBody .package (.team (teamOf v)) 0x7FF) t 3 0)) := by
  refine ⟨fun task => ?_, fun team => ?_⟩
  · dsimp only
    rw [execTask_eq pending good timely task]
    refine ⟨fun bad => ?_, fun ok accepts => ?_⟩
    · rw [bad]
      exact State.launchInsert_refused 2 _
    · rw [ok]
      exact State.launchInsert_inserts 2 _ accepts
  · dsimp only
    rw [execTeam_eq pending good timely team]
    refine ⟨fun bad => ?_, fun ok accepts => ?_⟩
    · rw [bad]
      exact State.launchInsert_refused 3 _
    · rw [ok]
      exact State.launchInsert_inserts 3 _ accepts

end

/-- A launch from the rack is answered through a port that negotiated it (R228, R439). -/
theorem zfpLaunch_answers (s : State) (team : Bool) (packet : Line) :
    let v := packet.toNat
    let wid : Word := BitVec.ofNat 64 v
    let ok := if team then s.teamOk v else s.taskOk (taskOf v)
    (s.anyPort 4 = false → exec (.zfpLaunch team packet) s = .next s) ∧
    (s.anyPort 4 = true → s.mgmt.state.toNat < 3 → exec (.zfpLaunch team packet) s = .next (s.out (.launchAnswer false wid 0x0A 0))) ∧
    (s.anyPort 4 = true → 3 ≤ s.mgmt.state.toNat → ok = false → exec (.zfpLaunch team packet) s = .next (s.out (.launchAnswer false wid 0x0B s.mgmt.ctxg))) ∧
    (s.anyPort 4 = true → 3 ≤ s.mgmt.state.toNat → ok = true → s.accepts .package = true → s.initial = [] → exec (.zfpLaunch team packet) s = .next
      ((s.insertBody .package (launchBody team v) 0x7FE).out (.launchAnswer true wid 0 s.mgmt.ctxg))) := by
  dsimp only
  rw [execZfpLaunch_eq]
  refine ⟨fun port => ?_, fun port early => ?_, fun port late bad => ?_, fun port late ok accepts fed => ?_⟩
  · rw [port]
    rfl
  · rw [port, if_neg (by simp), if_pos early]
  · rw [port, if_neg (by simp), if_neg (Nat.not_lt.2 late), bad]
    rfl
  · rw [port, if_neg (by simp), if_neg (Nat.not_lt.2 late), ok, accepts, fed]
    rfl

theorem residencyReport_counts (s : State) : (s.anyPort 8 = false → exec .residencyReport s = .next s) ∧
    (s.anyPort 8 = true → exec .residencyReport s = .next (s.out (.residency s.residencyWords.1 s.residencyWords.2.1 s.residencyWords.2.2))) := by
  refine ⟨fun port => ?_, fun port => ?_⟩
  · show execResidencyReport s = _
    rw [execResidencyReport, port]
    rfl
  · show execResidencyReport s = _
    rw [execResidencyReport, port]
    rfl

end Sys2Proof.Machine
end

section
open Sys2Proof.Machine

/-- Settles O57, launch by launch: a record that is broken or untimely is refused before its kind is looked at; START leaves the management registers through all its reads; STOP
raises at most what is pending, however often it reaches a core; END writes lines back to a DRAM without errors, which logs nothing. -/
theorem contextLife : Obligations.ContextLife := by
  unfold Obligations.ContextLife
  intro s
  refine ⟨fun pending bad => launch_malformed pending bad, fun pending good other => launch_untimely pending good other, fun pending good timely kind => ⟨?_, ?_⟩,
    fun pending good timely => ?_, fun pending good timely kind quiet dram lines => ?_, fun stopping quiet => quiescent_enters stopping quiet,
    fun team packet => zfpLaunch_answers s team packet, ?_⟩
  · exact fun fails => start_fails pending good timely kind fails
  · intro inside v x ready none
    obtain ⟨t, w, run, wrote, mgmt, mem, header, initial, cores⟩ := start_prepares pending good timely kind inside ready none
    exact ⟨t, w, run, wrote, mgmt, mem, header, initial, fun p hp _ => cores p hp⟩
  · obtain ⟨task, team⟩ := running_launches pending good timely
    refine ⟨task, team, fun stop => ?_⟩
    obtain ⟨mgmt, dram, queues, unmarked, cores⟩ := s.stopContext_eq
    refine ⟨s.stopContext, stop_preempts pending good timely stop, mgmt, dram, queues, unmarked, fun q => ?_⟩
    obtain ⟨regs, spad, pc, stops⟩ := cores q
    exact ⟨regs, spad, pc, fun plain running => (stops plain running).trans (preemptNext_stop _)⟩
  · refine ⟨s.endContext.outcome 5 0, s.endContext, end_empties pending good timely kind quiet, State.outcome_outcomeIn ?_ 5 0, State.endContext_mgmt dram lines, rfl, rfl, rfl, rfl, rfl,
      rfl, rfl, rfl, rfl, s.endContext_hostMem, fun l only dirty => State.endContext_writes dram lines only dirty, fun clean => State.endContext_clean clean,
      fun c hc => s.endContext_cores hc⟩
    rw [State.endContext_mgmt dram lines]
  · have words := s.residencyWords_eq
    obtain ⟨silent, counts⟩ := residencyReport_counts s
    rw [words] at counts
    exact ⟨silent, counts⟩

end
